-- ==== Sys2Proof/Word.lean ====
section
/-! DEFINITION. The word types of the package: the byte, the 32-bit register, the 64-bit value. -/

namespace Sys2Proof

/-- A byte of memory (R8). -/
abbrev Byte := BitVec 8

/-- A 32-bit register or memory word (R43, R46). -/
abbrev Word := BitVec 32

/-- A 64-bit value: a register pair, an `s` register, an instruction word, an address (R44, R51, R86). -/
abbrev Dword := BitVec 64

end Sys2Proof
end

