-- ==== Sys2Proof/Machine/Store.lean ====
section
/-! DEFINITION. Stores as plain data: a sparse array in one canonical form (rising keys, no zero listed), used for memory,
tags and register files, and a keyed list of records, used for the machine's entities. -/

namespace Sys2Proof.Machine

/-- A sparse array: listed keys strictly rise, and no listed value is zero, which is what an unlisted key reads as. -/
abbrev Sparse (w : Nat) := List (Nat × BitVec w)

/-- The value at key `k`. -/
def Sparse.rd {w : Nat} : Sparse w → Nat → BitVec w
  | [], _ => 0
  | (a, v) :: r, k => if a = k then v else Sparse.rd r k

/-- `m` with `v` at key `k`; writing zero removes the entry, so that equal stores are equal data. -/
def Sparse.wr {w : Nat} : Sparse w → Nat → BitVec w → Sparse w
  | [], k, v => if v = 0 then [] else [(k, v)]
  | (a, x) :: r, k, v =>
    if k < a then (if v = 0 then (a, x) :: r else (k, v) :: (a, x) :: r)
    else if k = a then (if v = 0 then r else (k, v) :: r)
    else (a, x) :: Sparse.wr r k v

/-- The canonical form above a bound: every key is at least `lo`, keys strictly rise, no value is zero. -/
def Sparse.wfFrom {w : Nat} : Nat → Sparse w → Bool
  | _, [] => true
  | lo, (a, v) :: r => decide (lo ≤ a) && decide (v ≠ 0) && Sparse.wfFrom (a + 1) r

/-- The canonical form of a sparse array. -/
def Sparse.wf {w : Nat} (m : Sparse w) : Bool := Sparse.wfFrom 0 m

/-- Memory bytes: a sparse array of bytes, whose cells are the host's. -/
abbrev Memory := Sparse 8

/-- The canonical form of memory. -/
def Memory.wf (m : Memory) : Bool := Sparse.wf (w := 8) m

/-- Write consecutive values from key `k` up. -/
def Sparse.wrList {w : Nat} : Sparse w → Nat → List (BitVec w) → Sparse w
  | m, _, [] => m
  | m, k, v :: r => Sparse.wrList (Sparse.wr m k v) (k + 1) r

/-- Read `n` consecutive values from key `k` up. -/
def Sparse.rdList {w : Nat} (m : Sparse w) : Nat → Nat → List (BitVec w)
  | _, 0 => []
  | k, n + 1 => Sparse.rd m k :: Sparse.rdList m (k + 1) n

/-- Drop every entry whose key lies in `[lo, hi)`: those keys read zero afterwards. -/
def Sparse.clear {w : Nat} (m : Sparse w) (lo hi : Nat) : Sparse w :=
  m.filter fun e => decide (e.1 < lo) || decide (hi ≤ e.1)

/-- The values at the `n` keys from `k` up of a store whose listed keys are all at least `k`. -/
def Sparse.dense {w : Nat} : Sparse w → Nat → Nat → List (BitVec w)
  | _, _, 0 => []
  | [], k, n + 1 => 0 :: Sparse.dense [] (k + 1) n
  | (a, v) :: r, k, n + 1 => if a = k then v :: Sparse.dense r (k + 1) n else 0 :: Sparse.dense ((a, v) :: r) (k + 1) n

/-- The values at the `n` keys from `k` up. -/
def Sparse.range {w : Nat} (m : Sparse w) (k n : Nat) : List (BitVec w) := Sparse.dense (m.filter fun e => decide (k ≤ e.1)) k n

/-- A list of values as the store that holds them from key `k` up. -/
def Sparse.ofList {w : Nat} : Nat → List (BitVec w) → Sparse w
  | _, [] => []
  | k, v :: r => if v = 0 then Sparse.ofList (k + 1) r else (k, v) :: Sparse.ofList (k + 1) r

/-- Put a list of values from key `k` up. -/
def Sparse.setRange {w : Nat} (m : Sparse w) (k : Nat) (vs : List (BitVec w)) : Sparse w :=
  m.filter (fun e => decide (e.1 < k)) ++ Sparse.ofList k vs ++ m.filter fun e => decide (k + vs.length ≤ e.1)

/-- Little-endian assembly of bytes (R8): the byte at the lowest address holds bits 7:0. -/
def leNat : List Byte → Nat
  | [] => 0
  | b :: r => b.toNat + 256 * leNat r

/-- The `n` little-endian bytes of a number (R8). -/
def leBytes : Nat → Nat → List Byte
  | 0, _ => []
  | n + 1, x => BitVec.ofNat 8 x :: leBytes n (x / 256)

/-- A keyed list of records. -/
abbrev KV (κ α : Type) := List (κ × α)

/-- The record at a key. -/
def KV.at? {κ α : Type} [DecidableEq κ] : KV κ α → κ → Option α
  | [], _ => none
  | (a, v) :: r, k => if a = k then some v else KV.at? r k

/-- Put a record: replace the one at the key, or append a new one at the end. -/
def KV.put {κ α : Type} [DecidableEq κ] : KV κ α → κ → α → KV κ α
  | [], k, v => [(k, v)]
  | (a, x) :: r, k, v => if a = k then (k, v) :: r else (a, x) :: KV.put r k v

/-- Remove the record at a key. -/
def KV.del {κ α : Type} [DecidableEq κ] (m : KV κ α) (k : κ) : KV κ α :=
  m.filter fun e => decide (e.1 ≠ k)

/-- Change the record at a key, if there is one. -/
def KV.upd {κ α : Type} [DecidableEq κ] : KV κ α → κ → (α → α) → KV κ α
  | [], _, _ => []
  | (a, x) :: r, k, f => if a = k then (a, f x) :: r else (a, x) :: KV.upd r k f

/-- What occurs in a list, each once, in the order of first occurrence. -/
def eachOnce {α : Type} [BEq α] (l : List α) : List α := l.foldl (fun seen x => if seen.contains x then seen else seen ++ [x]) []

/-- The lowest number from `lo` that is not in a list, among the `n` candidates that follow `lo`. -/
def lowestFree (used : List Nat) : Nat → Nat → Option Nat
  | _, 0 => none
  | lo, n + 1 => if used.contains lo then lowestFree used (lo + 1) n else some lo

/-- Bits `[hi:lo]` of a word as a number (R8). -/
def bits {w : Nat} (x : BitVec w) (hi lo : Nat) : Nat := x.toNat / 2 ^ lo % 2 ^ (hi + 1 - lo)

/-- Bits `[hi:lo]` of a number. -/
def natBits (x : Nat) (hi lo : Nat) : Nat := x / 2 ^ lo % 2 ^ (hi + 1 - lo)

/-- Sign extension of the low `w` bits of a number to an integer. -/
def sextNat (x w : Nat) : Int :=
  let y := x % 2 ^ w
  if y < 2 ^ (w - 1) then (y : Int) else (y : Int) - (2 ^ w : Nat)

end Sys2Proof.Machine
end

