-- ==== Sys2Proof/Syntax.lean ====
section
/-! DEFINITION. The syntax: the formats of an instruction word as the spec numbers their fields (R87 to R99, R276), and the
one inductive of every row of the opcode table, an instruction, an epilogue word or a step of the device with what it
carries. -/

namespace Sys2Proof

/-- The two streams of a kernel (R103). Handler threads run the lanes stream. -/
inductive Stream where
  | lanes
  | steward
  deriving DecidableEq, Repr

/-- An address space (R49); its code is MINOR[1:0] in groups 5 and 6 (R102). -/
inductive Space where
  | sp
  | gs
  | gl
  | lr
  deriving DecidableEq, Repr

/-- A full word in register or memory format (R87, R89): the guard, four operand fields, lookahead and modifiers. In memory
format field `c` holds OFS8. -/
structure RegF where
  neg : Bool
  pred : BitVec 3
  d : BitVec 8
  a : BitVec 8
  b : BitVec 8
  c : BitVec 8
  la : BitVec 4
  mod : BitVec 13
  deriving DecidableEq, Repr

/-- A full word in immediate format (R88). -/
structure ImmF where
  neg : Bool
  pred : BitVec 3
  d : BitVec 8
  a : BitVec 8
  imm : BitVec 32
  deriving DecidableEq, Repr

/-- One slot of a paired word (R99): the pair-table code, the slot guard, the two operands, the slot modifier. -/
structure SlotF where
  op : BitVec 7
  g : BitVec 3
  d : BitVec 8
  a : BitVec 8
  mod : BitVec 5
  deriving DecidableEq, Repr

/-- The causes of an illegal encoding, in table order (R104). -/
inductive IllCause where
  | opcode
  | stream
  | field
  | operand
  | lookahead
  | bank
  | pair
  deriving DecidableEq, Repr

/-- The name of an agent that executes: a lane thread of a group, a group's steward, the handler thread of a core's pool
slot (R326), or the epilogue processor of an array half (R276). -/
inductive Who where
  | nobody
  | lane (gid tid : Nat)
  | steward (gid : Nat)
  | handler (core slot : Nat)
  | epilogue (core half : Nat)
  deriving DecidableEq, Repr

/-- What a `.gl` access wants of its page (R52, R166). -/
inductive AccKind where
  | read
  | write
  | atomic
  | fetch
  | engine
  deriving DecidableEq, Repr

/-- A message's 32-byte header, field by field (R374), with the MASTERID that the transport gives its session. -/
structure MsgHdr where
  master : BitVec 64
  magic : BitVec 16
  version : BitVec 8
  kind : BitVec 8
  proc : BitVec 16
  len : BitVec 16
  tag : BitVec 64
  /-- 0x10[63:8], reserved. -/
  res10 : BitVec 56
  part : BitVec 8
  /-- 0x18[63:32], reserved. -/
  res18 : BitVec 32
  status : BitVec 32
  deriving DecidableEq, Repr

/-- One record of a record frame (R391). -/
structure FrameRec where
  ts : BitVec 64
  seq : BitVec 64
  len : Nat
  payload : List (BitVec 8)
  deriving DecidableEq, Repr

/-- The classes of packets of a virtual network (R370). -/
inductive PacketClass where
  | request
  | reply
  | writeBack
  | control
  deriving DecidableEq, Repr

/-- A packet at a router's injection port (R368 to R371): its virtual network (a partition, or 16 for the system network), its class, its
source and destination router, and its data flits, which stand between its header flit and its tail flit. -/
structure Packet where
  net : Nat
  cls : PacketClass
  src : Nat
  dst : Nat
  data : Nat
  deriving DecidableEq, Repr

/-- A signed image: the 256 bytes of its header and then its body (R400). -/
structure SignedImage where
  bytes : List (BitVec 8)
  deriving DecidableEq, Repr

/-- The 512 bytes of a configuration record (R397). -/
structure ConfigRec where
  bytes : List (BitVec 8)
  deriving DecidableEq, Repr

/-- What fails the self-test of a start (R396): built cores, functions by their readiness bit (R380), and sublinks, each by its die pair
and its number. -/
structure SelfTest where
  cores : List Nat
  functions : List Nat
  sublinks : List (Nat × Nat)
  deriving DecidableEq, Repr

/-- A partition's boundary as the root monitor sets it (R381). -/
structure Boundary where
  cores : List Nat
  halves : List (Nat × Nat)
  keysDev : List Nat
  keysHost : List Nat
  serviceCore : Nat
  sandboxCores : List Nat
  notifyVa : BitVec 64
  /-- Ring control block of each die, 0 for none (R385). -/
  rings : List (BitVec 64)
  /-- Fault ring of each die: its VA and its entries (R324). -/
  faultRings : List (BitVec 64 × Nat)
  logVa : BitVec 64
  logN : Nat
  kernelMeas : BitVec 384
  /-- The save pool: ranges of memory keys, by their first key and bytes (R340). -/
  savePool : List (Nat × Nat)
  deriving DecidableEq, Repr

/-- A register of the device that a service core or the root monitor writes (R320, R325, R366, R371, R383). -/
inductive ConfigReg where
  | lull (die : Nat)
  | gust (router part : Nat)
  | klaunch (part : Nat)
  | tableRoot (home : Nat)
  | congestionThreshold (die : Nat)
  /-- The resolve register of a die's translation unit that belongs to a partition (R325). -/
  | resolve (part die : Nat)
  /-- The place of a die's journal in its DRAM (R355). -/
  | journalPlace (die : Nat)
  deriving DecidableEq, Repr

/-- Every row of spec/opcode_table.json: the Cutia instructions, the epilogue words, and the steps of the device, of the
RISC-V cores and of masters. -/
inductive Instr where
  -- groups 0 and 1 (R141 to R148)
  | add (f : RegF)
  | sub (f : RegF)
  | mul (f : RegF)
  | mulh (f : RegF)
  | mad (f : RegF)
  | min (f : RegF)
  | max (f : RegF)
  | abs (f : RegF)
  | neg (f : RegF)
  | adds (f : RegF)
  | and (f : RegF)
  | or (f : RegF)
  | xor (f : RegF)
  | andn (f : RegF)
  | not (f : RegF)
  | shl (f : RegF)
  | shr (f : RegF)
  | sar (f : RegF)
  | rot (f : RegF)
  | clz (f : RegF)
  | ctz (f : RegF)
  | popc (f : RegF)
  | brev (f : RegF)
  | bfx (f : RegF)
  | bfi (f : RegF)
  | sel (f : RegF)
  | mov (f : RegF)
  | cmp (f : RegF)
  | movi (f : ImmF)
  | movh (f : ImmF)
  | addImm (f : ImmF)
  | andImm (f : ImmF)
  | orImm (f : ImmF)
  | xorImm (f : ImmF)
  -- groups 2, 3 and 4 (R149 to R161), paired words (R99)
  | fadd (f : RegF)
  | fsub (f : RegF)
  | fmul (f : RegF)
  | ffma (f : RegF)
  | fdot2 (f : RegF)
  | fmin (f : RegF)
  | fmax (f : RegF)
  | fcmp (f : RegF)
  | fround (f : RegF)
  | fclass (f : RegF)
  | frcp (f : RegF)
  | frsq (f : RegF)
  | fsqrt (f : RegF)
  | fexp2 (f : RegF)
  | flog2 (f : RegF)
  | fsin (f : RegF)
  | fcos (f : RegF)
  | cvt (f : RegF)
  | pk (f : RegF)
  | upk (f : RegF)
  | hxq (f : RegF)
  | hxd (f : RegF)
  | hxe (f : RegF)
  | mxcvt (f : RegF)
  | voteAny (f : RegF)
  | voteAll (f : RegF)
  | voteNone (f : RegF)
  | votePack (f : RegF)
  | voteUnpk (f : RegF)
  | pairedWord (sa sb : SlotF)
  -- groups 5, 6 and 7 (R164 to R191)
  | ld (space : Space) (f : RegF)
  | st (space : Space) (f : RegF)
  | ldq (space : Space) (f : RegF)
  | stq (space : Space) (f : RegF)
  | pf (f : RegF)
  | ldwf (space : Space) (f : RegF)
  | ldwfe (space : Space) (f : RegF)
  | stwe (space : Space) (f : RegF)
  | stf (space : Space) (f : RegF)
  | tagrd (space : Space) (f : RegF)
  | tagwr (space : Space) (f : RegF)
  | atomAdd (space : Space) (f : RegF)
  | atomMin (space : Space) (f : RegF)
  | atomMax (space : Space) (f : RegF)
  | atomAnd (space : Space) (f : RegF)
  | atomOr (space : Space) (f : RegF)
  | atomXor (space : Space) (f : RegF)
  | atomXchg (space : Space) (f : RegF)
  | atomCas (space : Space) (f : RegF)
  | atomFadd (space : Space) (f : RegF)
  | redAdd (f : RegF)
  | redMin (f : RegF)
  | redMax (f : RegF)
  | redFadd (f : RegF)
  | redflush (f : RegF)
  | redseal (f : RegF)
  | fence (f : RegF)
  | acq (f : RegF)
  | rel (f : RegF)
  | bind (f : RegF)
  | unbind (f : RegF)
  | cp (f : RegF)
  | gth (f : RegF)
  | copyQueueWrite (cmd : Nat)
  | engineCommandCompletion (cmd : Nat)
  -- group 8 (R192 to R205)
  | bra (f : ImmF)
  | fbra (f : ImmF)
  | brx (f : RegF)
  | land (f : RegF)
  | call (f : ImmF)
  | callx (f : RegF)
  | ret (f : RegF)
  | rjmark (f : RegF)
  | rjoin (f : RegF)
  | exit (f : RegF)
  | yield (f : RegF)
  | yieldExpiry (w : Who)
  | nop (f : RegF)
  | trap (f : RegF)
  | tret (f : RegF)
  -- groups 12 and 13 (R206 to R218)
  | mfsr (f : RegF)
  | mtsr (f : RegF)
  | dqpush (f : RegF)
  | dqpop (f : RegF)
  | nbar (f : RegF)
  | nbw (f : RegF)
  | grjoin (f : RegF)
  | grleave (f : RegF)
  | crbeg (f : ImmF)
  | crend (f : RegF)
  | sysrpc (f : RegF)
  | kick (f : RegF)
  | diagInj (f : RegF)
  -- group 9 (R242 to R248)
  | wrecv (f : RegF)
  | wemit (f : RegF)
  | wclose (f : RegF)
  | wcloseId (f : RegF)
  | wcloseEnd (f : RegF)
  | wmret (f : RegF)
  | wtimer (f : RegF)
  | wstat (f : RegF)
  -- group 10 (R285 to R292)
  | holdLock (f : RegF)
  | holdSlot (f : RegF)
  | holdCopy (f : RegF)
  | heir (f : RegF)
  | heirSlot (f : RegF)
  | heirGrp (f : RegF)
  | drop (f : RegF)
  | dropSlot (f : RegF)
  | promise (f : RegF)
  | fulfil (f : RegF)
  | estqInfo (f : RegF)
  | estqObj (f : RegF)
  | estqFrom (f : RegF)
  | estqMask (f : RegF)
  -- group 11 (R304 to R309)
  | qrld (f : RegF)
  | qrseed (f : RegF)
  | qrseedKey (f : RegF)
  | qrpt (f : RegF)
  | qrpt4 (f : RegF)
  | qrf (f : RegF)
  | qrhash (f : RegF)
  | qrhashK (f : RegF)
  -- group 14 (R261 to R282, R361)
  | qcset (f : RegF)
  | mzero (f : RegF)
  | mma (f : RegF)
  | mdrain (f : RegF)
  | epld (f : RegF)
  | cpb (f : RegF)
  | coll (f : RegF)
  | launch (f : RegF)
  | launchEst (f : RegF)
  -- epilogue words (R276)
  | esNop
  | esMov (d a : BitVec 4)
  | esAdd (d a b : BitVec 4)
  | esMul (d a b : BitVec 4)
  | esFma (d a b c : BitVec 4)
  | esMax (d a b : BitVec 4)
  | esMin (d a b : BitVec 4)
  | esScale (d a : BitVec 4) (k : BitVec 8)
  | esBias (d a : BitVec 4) (k : BitVec 8)
  | esClamp (d a : BitVec 4) (k : BitVec 8)
  | esExp2 (d a : BitVec 4)
  | esRcp (d a : BitVec 4)
  | esLut (d a : BitVec 4) (n : BitVec 6) (k : BitVec 8)
  | esCmp (a b : BitVec 4) (c : BitVec 3)
  | esSel (d a b : BitVec 4)
  | esLd (d : BitVec 4) (m : BitVec 2) (k : BitVec 8)
  | esHxq (d a : BitVec 4) (n : BitVec 3)
  | esCvt (d a : BitVec 4) (n : BitVec 3)
  | esSt (a w : BitVec 4)
  | esStt (a : BitVec 4)
  | esLoop (c : BitVec 7) (t : BitVec 6)
  | esEnd
  -- steps of the cores, the scheduler and the arrays
  | waveIssue
  | longLatencyCompletion (w : Who)
  | reductionDrain (core quarter : Nat)
  | tableWalk (part : Nat) (va : BitVec 64) (kind : AccKind) (who : Who)
  | resolveRetry (part die : Nat) (seq : BitVec 32)
  | resolveTrap (part die : Nat) (seq : BitVec 32)
  | resolveKill (part die : Nat) (seq : BitVec 32)
  | handlerStart (core : Nat)
  | estateHandlerStart (core : Nat)
  | groupEnd (gid : Nat)
  | containmentUnwind (gid epoch : Nat) (who : Who) (oid : Nat) (cause : BitVec 32) (addr : BitVec 64)
  | groupSave (gid : Nat)
  | groupRestore (gid : Nat)
  | preemptionTimeout (die lid : Nat)
  | groupPlacement (die : Nat)
  | launchComplete (lid : Nat)
  | replayStart (die : Nat)
  | nodeStart (die graph node : Nat)
  | arrayCommandStart (core half : Nat)
  | mmaKgroupStep (core half : Nat)
  | drainOutputEntry (core half : Nat)
  | collectiveRun (cid : Nat)
  -- steps of the reeve
  | recordPlacement (qid : Nat)
  | merge (qid : Nat)
  | paneRecordMulticast (qid : Nat)
  | fold (qid wid : Nat)
  | windowRestore (qid wid : Nat)
  | bellWheelDue (qid wid : Nat)
  | windowTimerExpiry (qid wid : Nat)
  | batchTimeout (qid : Nat)
  | streamEnd (qid : Nat)
  | scanRead (qid : Nat)
  | recordFrame (h : MsgHdr) (die : Nat) (streamNo : BitVec 16) (recs : List FrameRec)
  -- the lull and the network
  | lullEngage (core quarter : Nat)
  | lullRelease (core quarter : Nat)
  | lullRotation (core : Nat)
  | gustRefill (router part : Nat)
  | packetInjection (p : Packet)
  | hamletReset (router : Nat)
  | laneRecalibration (pair sublink dir lane : Nat) (pass : Bool)
  -- keeping the package in service (R398 to R412), and the illegal encoding (R105)
  | imageSwitch (target : Nat) (unit : Nat)
  | coreRetirement (core : Nat)
  | laneSwap (die chan sub lane : Nat)
  | schedulerTakeover (die reason : Nat)
  | clockStep (cause watts : Nat)
  | thermalTrip
  | illegalEncoding (c : IllCause) (w : BitVec 64)
  | timeTermDue (qid : Nat)
  -- procedures of masters (R376)
  | own (h : MsgHdr) (lease : BitVec 32)
  | yieldProc (h : MsgHdr) (newOwner : BitVec 64)
  | status (h : MsgHdr)
  | graphLoad (h : MsgHdr) (die graph : Nat) (va len : BitVec 64)
  | kickProc (h : MsgHdr) (die graph : Nat) (patch : BitVec 64)
  | map (h : MsgHdr) (va : BitVec 64) (pfn : BitVec 28) (size : BitVec 2) (cls : BitVec 3) (perm : BitVec 2) (key : BitVec 13)
  | unmap (h : MsgHdr) (va : BitVec 64)
  | pageGive (h : MsgHdr) (va : BitVec 64)
  | pageTake (h : MsgHdr) (va : BitVec 64)
  | write (h : MsgHdr) (va : BitVec 64) (bytes : List (BitVec 8))
  | read (h : MsgHdr) (va : BitVec 64) (len : Nat)
  | notify (h : MsgHdr) (index : Nat) (value : BitVec 32)
  | logRead (h : MsgHdr) (first : BitVec 32) (count : Nat)
  | update (h : MsgHdr) (payload : List (BitVec 8))
  | attest (h : MsgHdr) (nonce : List (BitVec 8))
  | otherProcedure (h : MsgHdr)
  -- acts of service cores and of the root monitor (R381, R383, R387)
  | kill (part : Nat) (grp : BitVec 32)
  | vacate (part n : Nat)
  | notifyReset (part index : Nat)
  | rconsWrite (part die : Nat) (v : BitVec 32)
  | notifyFillStore (core : Nat) (va : BitVec 64) (v : BitVec 32)
  | registerWrite (r : ConfigReg) (v : BitVec 64)
  | partitionBoundarySet (part : Nat) (b : Boundary)
  -- acts of the surroundings (R396 to R408)
  | powerOn (failed : SelfTest)
  | transferResend (req : Option Nat) (die lane : Nat) (daddr : Nat) (va : BitVec 64) (crossing : Nat)
  | portRecalibration (port : Nat)
  | flitReplay (pair sublink dir lane : Nat)
  | fabricPortUp (port : Nat)
  | timeLock (locked : Bool) (ppm : Int)
  deriving DecidableEq, Repr

end Sys2Proof
end

