-- ==== Sys2Proof/Machine/Legality.lean ====
section
/-! DEFINITION. Which instruction words are legal in which stream (R86 to R104): the shape of every opcode (its stream, the
role of each operand field, its lookahead class), the MOD values it accepts, and the first cause of an illegal word in the
order of R104. -/

namespace Sys2Proof.Machine

/-- Where an opcode is legal (R101). -/
inductive StreamRule where
  | both
  | lanesOnly
  | stewardOnly
  deriving DecidableEq, Repr

/-- Is the opcode legal in the stream? -/
def StreamRule.allows : StreamRule → Stream → Bool
  | .both, _ => true
  | .lanesOnly, .lanes => true
  | .stewardOnly, .steward => true
  | _, _ => false

/-- What an operand field holds (R90, R91). Register counts are those of a lane stream; a steward operand is always one
register (R92). -/
inductive Role where
  /-- Unused: holds 0x94. -/
  | unused
  /-- A predicate, rejoin register, barrier, format slot, bank or queue number below `n`. -/
  | num (n : Nat)
  /-- OFS8, any value. -/
  | ofs
  /-- A destination of `n` registers. -/
  | dst (n : Nat)
  /-- A source of `n` registers. -/
  | src (n : Nat)
  /-- A block of v registers whose index is a multiple of `n` (R158, R160). -/
  | vblk (n : Nat)
  /-- A run of `n` v registers (R244). -/
  | vrun (n : Nat)
  /-- An s register or the small immediate −1 (R261). -/
  | qcsrc
  deriving DecidableEq, Repr

/-- The shape of a register, memory or immediate format word. -/
structure Shape where
  stream : StreamRule
  d : Role
  a : Role
  b : Role
  c : Role
  /-- Long-latency: a lookahead is allowed (R95). -/
  long : Bool
  /-- MOD holds a value that the instruction accepts. -/
  modOk : Bool
  deriving DecidableEq, Repr

/-- TYPE, bits 12:9 of MOD (R97). -/
def modType (m : BitVec 13) : Nat := bits m 12 9
/-- STYPE or COND, bits 8:5 of MOD (R97). -/
def modStype (m : BitVec 13) : Nat := bits m 8 5
/-- RM of the arithmetic layout, bits 8:6 (R97). -/
def modRm (m : BitVec 13) : Nat := bits m 8 6
/-- SAT of the arithmetic layout, bit 5 (R97). -/
def modSat (m : BitVec 13) : Bool := bits m 5 5 == 1
/-- WIDTH, bits 4:3 (R97). -/
def modWidth (m : BitVec 13) : Nat := bits m 4 3
/-- RM of the conversion layout, bits 4:2 (R97). -/
def modCrm (m : BitVec 13) : Nat := bits m 4 2
/-- SAT of the conversion layout, bit 1 (R97). -/
def modCsat (m : BitVec 13) : Bool := bits m 1 1 == 1
/-- SCOPE of the memory layout, bits 8:6 (R97). -/
def modMscope (m : BitVec 13) : Nat := bits m 8 6
/-- ORD of the memory layout, bits 5:4 (R97). -/
def modOrd (m : BitVec 13) : Nat := bits m 5 4
/-- SCOPE of the ordering layout, bits 12:10 (R97). -/
def modScope (m : BitVec 13) : Nat := bits m 12 10
/-- ACQ of the ordering layout, bit 9 (R97). -/
def modAcq (m : BitVec 13) : Bool := bits m 9 9 == 1
/-- REL of the ordering layout, bit 8 (R97). -/
def modRel (m : BitVec 13) : Bool := bits m 8 8 == 1
/-- SPAN, bits 6:5 (R253). -/
def modSpan (m : BitVec 13) : Nat := bits m 6 5

/-- Registers of an operand of a type in a lane stream: a pair for the 64-bit types (R44, R138). -/
def typeRegs (t : Nat) : Nat := if t = 4 || t = 8 || t = 12 then 2 else 1

/-- Registers of a floating-point operand under WIDTH (R149). -/
def floatRegs (m : BitVec 13) : Nat :=
  if modType m = 12 then 2 else 2 ^ modWidth m

/-- The MOD rule of group 0 (R141); `sat` says that the instruction accepts SAT, `iOnly` that it accepts i types only. -/
def intMod (sat iOnly : Bool) (m : BitVec 13) : Bool :=
  decide (1 ≤ modType m) && decide (modType m ≤ if iOnly then 4 else 8)
    && decide (modRm m = 0) && (sat || !modSat m) && decide (bits m 4 0 = 0)

/-- The MOD rule of groups 2 and 3 (R149); `rnd` says that RM and SAT are accepted. -/
def floatMod (rnd : Bool) (m : BitVec 13) : Bool :=
  decide (9 ≤ modType m) && decide (modType m ≤ 12) && decide (modRm m ≤ 4)
    && (rnd || (decide (modRm m = 0) && !modSat m)) && decide (modWidth m ≤ 2)
    && (decide (modType m ≠ 12) || decide (modWidth m = 0)) && decide (bits m 2 0 = 0)

/-- The MOD rule of the memory layout for an access without ORD and SCOPE (R168, R174, R176). -/
def plainMod (types : List Nat) (m : BitVec 13) : Bool :=
  types.contains (modType m) && decide (bits m 8 0 = 0)

/-- The MOD rule of the tagged accesses (R170, R98): ORD is 0 or `ord`, SCOPE is 0 when ORD is 0. -/
def tagMod (ord : Nat) (m : BitVec 13) : Bool :=
  (decide (modType m = 3) || decide (modType m = 7))
    && (decide (modOrd m = 0 ∧ modMscope m = 0) || (decide (modOrd m = ord) && decide (modMscope m ≤ 6)))
    && decide (bits m 3 0 = 0)

/-- The MOD rule of engine commands (R184): SCOPE at most 6, and 0 when both flags are clear; SUB is `sub`. -/
def engineMod (sub : Nat) (m : BitVec 13) : Bool :=
  decide (modScope m ≤ 6) && (modAcq m || modRel m || decide (modScope m = 0)) && decide (bits m 7 0 = sub)

/-- The MOD rule of the estate instructions (R285): SCOPE only where `sc`, SPACE only where `spc`, SUB is `sub`. -/
def estateMod (sc spc : Bool) (sub : Nat) (m : BitVec 13) : Bool :=
  (if sc then decide (modScope m ≤ 6) else decide (modScope m = 0)) && decide (bits m 9 7 = 0)
    && (if spc then decide (modSpan m ≤ 2) else decide (modSpan m = 0)) && decide (bits m 4 3 = 0)
    && decide (bits m 2 0 = sub)

/-- The MOD rule of `acq`, `rel`, `bind` and `unbind` (R181, R182): SUB names a space 0 to 2; SCOPE as allowed. -/
def objMod (sc : Bool) (m : BitVec 13) : Bool :=
  decide (if sc then modScope m ≤ 6 else modScope m = 0) && decide (bits m 9 2 = 0) && decide (bits m 1 0 ≤ 2)

/-- The selector rule of `mfsr` and `mtsr` (R206, R207). -/
def selectorOk (write : Bool) (m : BitVec 13) : Bool :=
  let spc := bits m 12 11
  let wide := bits m 10 10
  let ix := bits m 7 0
  decide (bits m 9 8 = 0) &&
    match spc with
    | 0 => decide (ix ≤ 0x93)
    | 1 => decide (ix ≤ 7) && decide (wide = if ix = 0 ∨ ix = 3 then 1 else 0)
             && (!write || [0, 1, 2, 5].contains ix)
    | 2 => decide (ix ≤ 3) && decide (wide = if ix = 1 then 1 else 0) && !write
    | _ => false

/-- The space that SUB[1:0] of the ordering layout names (R181). -/
def subSpace (m : BitVec 13) : Nat := bits m 1 0

/-- Registers of a lane address operand: a pair for `.gl` (R164). -/
def addrRegs : Space → Nat
  | .gl => 2
  | _ => 1

/-- Registers of a lane object operand, by a space code (R181, R285). -/
def objRegs (code : Nat) : Nat := if code = 2 then 2 else 1

/-- A shape with three fields `d`, `a`, `b` used. -/
def shp (stream : StreamRule) (d a b c : Role) (modOk : Bool) : Shape := ⟨stream, d, a, b, c, false, modOk⟩
/-- A long-latency shape. -/
def shpL (stream : StreamRule) (d a b c : Role) (modOk : Bool) : Shape := ⟨stream, d, a, b, c, true, modOk⟩

/-- A group 0 form with destination, two sources of the type (R141). -/
def int3 (sat : Bool) (f : RegF) : Shape :=
  let n := typeRegs (modType f.mod)
  shp .both (.dst n) (.src n) (.src n) .unused (intMod sat false f.mod)
/-- A group 0 form with one source of the type. -/
def int2 (sat iOnly : Bool) (f : RegF) : Shape :=
  let n := typeRegs (modType f.mod)
  shp .both (.dst n) (.src n) .unused .unused (intMod sat iOnly f.mod)
/-- A group 0 form with a source of the type and a control operand. -/
def intCtl (f : RegF) : Shape :=
  let n := typeRegs (modType f.mod)
  shp .both (.dst n) (.src n) (.src 1) .unused (intMod false false f.mod)
/-- A group 2 form with two sources. -/
def float3 (rnd : Bool) (f : RegF) : Shape :=
  let n := floatRegs f.mod
  shp .lanesOnly (.dst n) (.src n) (.src n) .unused (floatMod rnd f.mod)
/-- A group 3 root or transcendental form. -/
def float2 (dbl : Bool) (f : RegF) : Shape :=
  let n := floatRegs f.mod
  shpL .lanesOnly (.dst n) (.src n) .unused .unused (floatMod true f.mod && (dbl || decide (modType f.mod ≠ 12)))
/-- A load form (R89). -/
def loadS (stream : StreamRule) (spc : Space) (n : Nat) (ok : Bool) : Shape :=
  shpL stream (.dst n) (.src (addrRegs spc)) .unused .ofs ok
/-- A store form (R89). -/
def storeS (stream : StreamRule) (spc : Space) (n : Nat) (ok : Bool) : Shape :=
  shpL stream .unused (.src (addrRegs spc)) (.src n) .ofs ok
/-- An atomic form (R174). -/
def atomS (spc : Space) (f : RegF) : Shape :=
  let n := typeRegs (modType f.mod)
  shpL .both (.dst n) (.src (addrRegs spc)) (.src n) .ofs (plainMod [3, 4, 7, 8] f.mod)
/-- An integer reduction form (R176). -/
def redS (f : RegF) (types : List Nat) : Shape :=
  shp .lanesOnly .unused (.src 2) (.src (typeRegs (modType f.mod))) .ofs (plainMod types f.mod)
/-- A form with no operand and MOD 0. -/
def bare (stream : StreamRule) (f : RegF) : Shape :=
  shp stream .unused .unused .unused .unused (decide (f.mod = 0))

/-- The shape of every opcode in register or memory format (R101 and the encoding tables of each chapter). `fround` accepts WIDTH 0 to 2, and 0
alone for f64, as the other float rows do: R149 leaves it to R153, which names no WIDTH (DESIGN CHOICE, log entry 93: unsafe). -/
def regShape (st : Stream) : Instr → Option (Shape × RegF)
  | .add f => some (int3 true f, f)
  | .sub f => some (int3 true f, f)
  | .mul f => some (int3 true f, f)
  | .mulh f => some (int3 false f, f)
  | .mad f =>
    let n := typeRegs (modType f.mod)
    some (shp .both (.dst n) (.src n) (.src n) (.src n) (intMod true false f.mod), f)
  | .min f => some (int3 false f, f)
  | .max f => some (int3 false f, f)
  | .abs f => some (int2 true true f, f)
  | .neg f => some (int2 true false f, f)
  | .adds f =>
    let n := typeRegs (modType f.mod)
    some (shp .both (.dst n) (.src n) (.src n) (.src 1) (intMod true false f.mod), f)
  | .and f => some (int3 false f, f)
  | .or f => some (int3 false f, f)
  | .xor f => some (int3 false f, f)
  | .andn f => some (int3 false f, f)
  | .not f => some (int2 false false f, f)
  | .shl f => some (intCtl f, f)
  | .shr f => some (intCtl f, f)
  | .sar f => some (intCtl f, f)
  | .rot f => some (intCtl f, f)
  | .clz f => some (int2 false false f, f)
  | .ctz f => some (int2 false false f, f)
  | .popc f => some (int2 false false f, f)
  | .brev f => some (int2 false false f, f)
  | .bfx f => some (intCtl f, f)
  | .bfi f =>
    let n := typeRegs (modType f.mod)
    some (shp .both (.dst n) (.src n) (.src n) (.src 1) (intMod false false f.mod), f)
  | .sel f =>
    let n := typeRegs (modType f.mod)
    some (shp .both (.dst n) (.src n) (.src n) (.num 8) (intMod false false f.mod), f)
  | .mov f => some (int2 false false f, f)
  | .cmp f =>
    let n := typeRegs (modType f.mod)
    some (shp .both (.num 8) (.src n) (.src n) .unused
      (decide (1 ≤ modType f.mod) && decide (modType f.mod ≤ 8) && decide (modStype f.mod ≤ 5)
        && decide (bits f.mod 4 0 = 0)), f)
  | .fadd f => some (float3 true f, f)
  | .fsub f => some (float3 true f, f)
  | .fmul f => some (float3 true f, f)
  | .ffma f =>
    let n := floatRegs f.mod
    some (shp .lanesOnly (.dst n) (.src n) (.src n) (.src n) (floatMod true f.mod), f)
  | .fdot2 f =>
    let n := floatRegs f.mod
    some (shp .lanesOnly (.dst n) (.src n) (.src n) (.src n)
      (floatMod true f.mod && decide (modType f.mod ≤ 10)), f)
  | .fmin f => some (float3 false f, f)
  | .fmax f => some (float3 false f, f)
  | .fcmp f =>
    let n := typeRegs (modType f.mod)
    some (shp .lanesOnly (.num 8) (.src n) (.src n) .unused
      (decide (9 ≤ modType f.mod) && decide (modType f.mod ≤ 12) && decide (modStype f.mod ≤ 7)
        && decide (bits f.mod 4 0 = 0)), f)
  | .fround f =>
    let n := floatRegs f.mod
    some (shp .lanesOnly (.dst n) (.src n) .unused .unused (floatMod true f.mod && !modSat f.mod), f)
  | .fclass f =>
    some (shp .lanesOnly (.dst 1) (.src (typeRegs (modType f.mod))) .unused .unused
      (floatMod false f.mod && decide (modWidth f.mod = 0)), f)
  | .frcp f => some (float2 true f, f)
  | .frsq f => some (float2 true f, f)
  | .fsqrt f => some (float2 true f, f)
  | .fexp2 f => some (float2 false f, f)
  | .flog2 f => some (float2 false f, f)
  | .fsin f => some (float2 false f, f)
  | .fcos f => some (float2 false f, f)
  | .cvt f =>
    let t := modType f.mod
    let s := modStype f.mod
    some (shp .lanesOnly (.dst (typeRegs t)) (.src (typeRegs s)) .unused .unused
      (decide (1 ≤ t) && decide (t ≤ 12) && decide (1 ≤ s) && decide (s ≤ 12) && decide (t ≠ s)
        && decide (modCrm f.mod ≤ 4) && decide (bits f.mod 0 0 = 0)), f)
  | .pk f =>
    let t := modType f.mod
    some (shp .lanesOnly (.dst 1) (.src (if t = 1 || t = 5 then 4 else 2)) .unused .unused
      ([1, 2, 5, 6, 9, 10].contains t && decide (modRm f.mod ≤ if t < 9 then 0 else 4)
        && decide (bits f.mod 4 0 = 0)), f)
  | .upk f =>
    let t := modType f.mod
    some (shp .lanesOnly (.dst (if t = 1 || t = 5 then 4 else 2)) (.src 1) .unused .unused
      ([1, 2, 5, 6, 9, 10].contains t && decide (bits f.mod 8 0 = 0)), f)
  | .hxq f => some (shp .lanesOnly (.vblk 8) (.vblk 16) (.num 8) .unused (decide (f.mod = 0)), f)
  | .hxd f => some (shp .lanesOnly (.vblk 16) (.vblk 8) (.num 8) .unused (decide (f.mod = 0)), f)
  | .hxe f => some (shp .lanesOnly (.dst 1) (.vblk 16) (.num 8) .unused (decide (f.mod = 0)), f)
  | .mxcvt f =>
    let t := modType f.mod
    let s := modStype f.mod
    if t = 11 then
      some (shp .lanesOnly (.vblk 32) (.vblk 8) (.src 1) (.src 1)
        (decide (s = 5) && decide (bits f.mod 4 0 = 0)), f)
    else
      some (shp .lanesOnly (.vblk 8) (.vblk 32) (.src 1) (.dst 1)
        (decide (t = 5) && decide (s = 11) && decide (modCrm f.mod ≤ 4) && decide (bits f.mod 0 0 = 0)), f)
  | .voteAny f => some (shp .lanesOnly (.num 8) (.src 1) (.src 1) .unused (decide (f.mod = 0)), f)
  | .voteAll f => some (shp .lanesOnly (.num 8) (.src 1) (.src 1) .unused (decide (f.mod = 1)), f)
  | .voteNone f => some (shp .lanesOnly (.num 8) (.src 1) (.src 1) .unused (decide (f.mod = 2)), f)
  | .votePack f => some (shp .lanesOnly (.dst 1) .unused .unused .unused (decide (f.mod = 3)), f)
  | .voteUnpk f => some (shp .lanesOnly .unused (.src 1) .unused .unused (decide (f.mod = 4)), f)
  | .ld spc f => some (loadS .both spc (typeRegs (modType f.mod)) (plainMod [1, 2, 3, 4, 5, 6, 7, 8] f.mod), f)
  | .st spc f => some (storeS .both spc (typeRegs (modType f.mod)) (plainMod [1, 2, 3, 4, 5, 6, 7, 8] f.mod), f)
  | .ldq spc f => some (loadS .lanesOnly spc 4 (decide (f.mod = 0)), f)
  | .stq spc f => some (storeS .lanesOnly spc 4 (decide (f.mod = 0)), f)
  | .pf f => some (shpL .lanesOnly .unused (.src 2) .unused .ofs (decide (f.mod = 0)), f)
  | .ldwf spc f => some (loadS .both spc 1 (tagMod 1 f.mod), f)
  | .ldwfe spc f => some (loadS .both spc 1 (tagMod 1 f.mod), f)
  | .stwe spc f => some (storeS .both spc 1 (tagMod 2 f.mod), f)
  | .stf spc f => some (storeS .both spc 1 (tagMod 2 f.mod), f)
  | .tagrd spc f => some (loadS .both spc 1 (decide (f.mod = 0)), f)
  | .tagwr spc f => some (storeS .both spc 1 (decide (f.mod = 0)), f)
  | .atomAdd spc f => some (atomS spc f, f)
  | .atomMin spc f => some (atomS spc f, f)
  | .atomMax spc f => some (atomS spc f, f)
  | .atomAnd spc f => some (atomS spc f, f)
  | .atomOr spc f => some (atomS spc f, f)
  | .atomXor spc f => some (atomS spc f, f)
  | .atomXchg spc f => some (atomS spc f, f)
  | .atomCas spc f =>
    let n := typeRegs (modType f.mod)
    some (shpL .both (.dst n) (.src (addrRegs spc)) (.src n) (.src n) (plainMod [3, 4, 7, 8] f.mod), f)
  | .atomFadd spc f =>
    some (shpL .lanesOnly (.dst 1) (.src (addrRegs spc)) (.src 1) .ofs (plainMod [11] f.mod), f)
  | .redAdd f => some (redS f [3, 4, 7, 8], f)
  | .redMin f => some (redS f [3, 4, 7, 8], f)
  | .redMax f => some (redS f [3, 4, 7, 8], f)
  | .redFadd f => some (redS f [9, 10, 11], f)
  | .redflush f => some (bare .lanesOnly f, f)
  | .redseal f =>
    some (shp .both .unused (.src 2) .unused .unused
      (decide (bits f.mod 12 4 = 0) && decide (9 ≤ bits f.mod 3 0) && decide (bits f.mod 3 0 ≤ 11)), f)
  | .fence f =>
    some (shp .both .unused .unused .unused .unused
      (decide (modScope f.mod ≤ 6) && decide (bits f.mod 9 0 = 0)), f)
  | .acq f => some (shp .both .unused (.src (objRegs (subSpace f.mod))) .unused .unused (objMod true f.mod), f)
  | .rel f => some (shp .both .unused (.src (objRegs (subSpace f.mod))) .unused .unused (objMod true f.mod), f)
  | .bind f =>
    let n := objRegs (subSpace f.mod)
    some (shp .both (.num 8) (.src n) (.src 1) (.src n) (objMod false f.mod), f)
  | .unbind f =>
    let n := objRegs (subSpace f.mod)
    some (shp .both (.num 8) (.src n) .unused (.src n) (objMod false f.mod), f)
  | .cp f => some (shpL .stewardOnly .unused (.src 1) .unused .unused (engineMod 0 f.mod), f)
  | .gth f => some (shpL .stewardOnly .unused (.src 1) .unused .unused (engineMod 0 f.mod), f)
  | .brx f => some (shp .lanesOnly .unused (.src 2) .unused .unused (decide (f.mod = 0)), f)
  | .callx f => some (shp .both .unused (.src 2) .unused .unused (decide (f.mod = 0)), f)
  | .ret f => some (bare .both f, f)
  | .land f =>
    some (shp .both .unused .unused .unused .unused (decide (f.mod = 0) && decide (f.pred = 0) && !f.neg), f)
  | .rjmark f => some (shp .lanesOnly (.num 4) .unused .unused .unused (decide (f.mod = 0)), f)
  | .rjoin f => some (shp .lanesOnly (.num 4) .unused .unused .unused (decide (f.mod = 0)), f)
  | .exit f => some (bare .both f, f)
  | .yield f => some (bare .both f, f)
  | .nop f => some (bare .both f, f)
  | .trap f => some (shp .both .unused .unused .unused .unused (decide (bits f.mod 12 8 = 0)), f)
  | .tret f => some (bare .lanesOnly f, f)
  | .mfsr f =>
    some (shp .both (.dst (1 + bits f.mod 10 10)) .unused .unused .unused (selectorOk false f.mod), f)
  | .mtsr f =>
    some (shp .both .unused (.src (1 + bits f.mod 10 10)) .unused .unused (selectorOk true f.mod), f)
  | .dqpush f => some (shp .stewardOnly .unused (.src 1) .unused .unused (decide (f.mod = 0)), f)
  | .dqpop f => some (shpL .lanesOnly (.dst (typeRegs (modType f.mod))) .unused .unused .unused (plainMod [7, 8] f.mod), f)
  | .nbar f => some (shp .stewardOnly (.num 16) .unused .unused .unused (decide (f.mod = 0)), f)
  | .nbw f => some (shp .lanesOnly (.num 16) .unused .unused .unused (decide (f.mod = 0)), f)
  | .grjoin f => some (shp .stewardOnly (.dst 1) .unused .unused .unused (decide (f.mod = 0)), f)
  | .grleave f => some (bare .stewardOnly f, f)
  | .crend f => some (bare .stewardOnly f, f)
  | .sysrpc f => some (shpL .both (.dst 1) (.src 1) (.src 2) .unused (decide (f.mod = 0)), f)
  | .kick f => some (shp .stewardOnly (.num 8) (.src 1) (.src 1) .unused (decide (f.mod = 0)), f)
  | .diagInj f => some (shp .stewardOnly (.num 2) (.src 1) .unused .unused (decide (f.mod = 0)), f)
  | .wrecv f => some (shpL .lanesOnly (.num 8) .unused .unused .unused (decide (f.mod = 0)), f)
  | .wemit f => some (shp .lanesOnly .unused (.vrun (bits f.mod 3 0 + 1)) .unused .unused (decide (bits f.mod 12 4 = 0)), f)
  | .wclose f => some (shp .both (.num 8) .unused .unused .unused (decide (f.mod = 0)), f)
  | .wcloseId f => some (shp .both (.num 8) (.src 1) (.src 2) .unused (decide (f.mod = 1)), f)
  | .wcloseEnd f => some (shp .both (.num 8) .unused .unused .unused (decide (f.mod = 2)), f)
  | .wmret f => some (bare .lanesOnly f, f)
  | .wtimer f => some (shp .lanesOnly .unused (.src 2) .unused .unused (decide (f.mod = 0)), f)
  | .wstat f => some (shp .both (.dst 2) (.src 1) .unused .unused (decide (f.mod = 0)), f)
  | .holdLock f => some (shp .both (.num 8) (.src (objRegs (modSpan f.mod))) (.src 1) .unused (estateMod true true 0 f.mod), f)
  | .holdSlot f => some (shp .both (.num 8) (.src 1) (.src 1) (.src 1) (estateMod false false 1 f.mod), f)
  | .holdCopy f => some (shp .both (.num 8) (.src (objRegs (modSpan f.mod))) (.src 1) .unused (estateMod false true 2 f.mod), f)
  | .heir f => some (shp .both (.num 8) (.src (objRegs (modSpan f.mod))) (.src 1) .unused (estateMod false true 0 f.mod), f)
  | .heirSlot f => some (shp .both (.num 8) (.src 1) (.src 1) .unused (estateMod false false 1 f.mod), f)
  | .heirGrp f => some (shp .both (.num 8) .unused (.src 1) .unused (estateMod false false 2 f.mod), f)
  | .drop f => some (shp .both (.num 8) (.src (objRegs (modSpan f.mod))) (.src 1) .unused (estateMod true true 0 f.mod), f)
  | .dropSlot f => some (shp .both (.num 8) (.src 1) .unused (.src 1) (estateMod false false 1 f.mod), f)
  | .promise f => some (shp .both (.num 8) (.src (objRegs (modSpan f.mod))) (.src 1) .unused (estateMod false true 0 f.mod), f)
  | .fulfil f => some (shp .both (.num 8) (.src (objRegs (modSpan f.mod))) (.src 1) .unused (estateMod true true 0 f.mod), f)
  | .estqInfo f => some (shp .both (.dst 2) (.src 1) .unused .unused (estateMod false false 0 f.mod), f)
  | .estqObj f => some (shp .both (.dst 2) (.src 1) .unused .unused (estateMod false false 1 f.mod), f)
  | .estqFrom f => some (shp .both (.dst 2) (.src 1) .unused .unused (estateMod false false 2 f.mod), f)
  | .estqMask f => some (shp .both (.dst 2) .unused .unused .unused (estateMod false false 3 f.mod), f)
  | .qrld f => some (shpL .both .unused (.src 1) .unused .unused (decide (f.mod = 0)), f)
  | .qrseed f => some (shpL .both .unused (.src 1) (.src 1) .unused (decide (f.mod = 0)), f)
  | .qrseedKey f => some (shpL .both .unused (.src 2) .unused .unused (decide (f.mod = 1)), f)
  | .qrpt f =>
    some (shpL .both (.dst 1) (.src 1) (.src (1 + bits f.mod 3 3)) .unused
      (decide (bits f.mod 12 4 = 0) && decide (bits f.mod 1 0 = 0)
        && (decide (st = .lanes) || decide (bits f.mod 3 3 = 0))), f)
  | .qrpt4 f =>
    some (shpL .lanesOnly (.dst 4) (.src 1) (.src (1 + bits f.mod 3 3)) .unused
      (decide (bits f.mod 12 4 = 0) && decide (bits f.mod 1 0 = 0)), f)
  | .qrf f =>
    some (shpL .lanesOnly (.dst 1) (.src 1) (.src (1 + bits f.mod 3 3)) .unused
      (decide (bits f.mod 12 4 = 0) && decide (bits f.mod 1 0 = 0)), f)
  | .qrhash f => some (shpL .both (.dst 1) (.src 1) (.src 1) .unused (decide (f.mod = 0)), f)
  | .qrhashK f => some (shpL .both (.dst 1) (.src 1) (.src 1) (.src 2) (decide (f.mod = 1)), f)
  | .qcset f => some (shp .stewardOnly (.num 16) .qcsrc .unused .unused (decide (f.mod = 0)), f)
  | .mzero f =>
    some (shp .stewardOnly (.num 2) .unused .unused .unused
      (decide (bits f.mod 12 7 = 0) && decide (modSpan f.mod ≤ 2) && decide (bits f.mod 4 0 = 0)), f)
  | .mma f =>
    some (shp .stewardOnly (.num 2) (.src 1) (.src 1) (.src 1)
      (decide (modSpan f.mod ≤ 2) && decide (bits f.mod 4 0 = 0)), f)
  | .mdrain f =>
    some (shp .stewardOnly (.num 2) (.src 1) (.src 1) .unused
      (decide (bits f.mod 12 7 = 0) && decide (modSpan f.mod ≤ 2) && decide (bits f.mod 3 0 = 0)), f)
  | .epld f =>
    some (shp .stewardOnly .unused (.src 1) (.src 1) .unused
      (decide (bits f.mod 12 7 = 0) && decide (modSpan f.mod ≤ 2) && decide (bits f.mod 4 0 = 0)), f)
  | .cpb f => some (shpL .stewardOnly .unused (.src 1) .unused .unused (engineMod 0 f.mod), f)
  | .coll f => some (shpL .stewardOnly .unused (.src 1) .unused .unused (engineMod 0 f.mod), f)
  | .launch f => some (shp .stewardOnly (.num 8) (.src 1) .unused .unused (engineMod 0 f.mod), f)
  | .launchEst f => some (shp .stewardOnly (.num 8) (.src 1) (.src 1) .unused (engineMod 1 f.mod), f)
  | _ => none

/-- The stream rule, the roles of `d` and `a` of an opcode in immediate format (R148, R192). -/
def immShape : Instr → Option (StreamRule × Role × Role × ImmF)
  | .movi f => some (.both, .dst 1, .unused, f)
  | .movh f => some (.both, .dst 2, .unused, f)
  | .addImm f => some (.both, .dst 1, .src 1, f)
  | .andImm f => some (.both, .dst 1, .src 1, f)
  | .orImm f => some (.both, .dst 1, .src 1, f)
  | .xorImm f => some (.both, .dst 1, .src 1, f)
  | .bra f => some (.lanesOnly, .unused, .unused, f)
  | .fbra f => some (.stewardOnly, .unused, .unused, f)
  | .call f => some (.both, .unused, .unused, f)
  | .crbeg f => some (.stewardOnly, .src 1, .src 1, f)
  | _ => none

/-- Is a special-register code legal as a source (R93)? In a steward stream only the registers marked "both" are. -/
def specialOk (st : Stream) (c : Nat) : Bool :=
  match st with
  | .lanes => decide (0xA0 ≤ c) && decide (c ≤ 0xB7)
  | .steward => [0xA1, 0xA2, 0xA3, 0xA6, 0xA7, 0xAD].contains c

/-- Is an operand code legal where `n` registers are read or written (R44, R91, R92, R93)? -/
def operandOk (st : Stream) (n : Nat) (dst : Bool) (code : BitVec 8) : Bool :=
  let c := code.toNat
  if c = 0x94 then true
  else if 0xC0 ≤ c then !dst
  else if 0x95 ≤ c then !dst && specialOk st c && !(decide (st = .lanes) && decide (n = 4))
  else
    match st with
    | .steward => decide (c ≤ 0x3F)
    | .lanes => if c < 0x90 then decide (c % n = 0) else decide (n ≤ 2) && decide (c % n = 0)

/-- The cause that a field's role finds in its code, if any. -/
def Role.cause (st : Stream) (r : Role) (code : BitVec 8) : Option IllCause :=
  match r with
  | .unused => if code = 0x94 then none else some .field
  | .num n => if code.toNat < n then none else some .field
  | .ofs => none
  | .dst n => if operandOk st n true code then none else some .operand
  | .src n => if operandOk st n false code then none else some .operand
  | .vblk n => if st = .lanes ∧ code.toNat < 0x80 ∧ code.toNat % n = 0 then none else some .operand
  | .vrun n => if code.toNat < 0x80 ∧ code.toNat + n ≤ 128 then none else some .operand
  | .qcsrc => if code.toNat < 0x40 ∨ code = 0xFF then none else some .operand

/-- The bank of a single v source operand, if the field is one (R96). -/
def Role.bank (r : Role) (code : BitVec 8) : Option Nat :=
  match r with
  | .src 1 => if code.toNat < 0x80 then some (code.toNat % 4) else none
  | _ => none

/-- A guard of NEG = 1 with PRED = 0 is reserved (R94). -/
def guardBad (neg : Bool) (pred : BitVec 3) : Bool := neg && decide (pred = 0)

/-- The cause of an illegal word in register or memory format, in the order of R104. -/
def Shape.cause (st : Stream) (s : Shape) (f : RegF) : Option IllCause :=
  let cs := [s.d.cause st f.d, s.a.cause st f.a, s.b.cause st f.b, s.c.cause st f.c]
  if !s.stream.allows st then some .stream
  else if guardBad f.neg f.pred || !s.modOk || cs.contains (some .field) then some .field
  else if cs.contains (some .operand) then some .operand
  else if !s.long && decide (f.la ≠ 0) then some .lookahead
  else
    match st, s.a.bank f.a, s.b.bank f.b, s.c.bank f.c with
    | .lanes, some x, some y, some z => if x = y ∧ y = z then some .bank else none
    | _, _, _, _ => none

/-- Pair-table codes of floating-point slots start here (R162). -/
def pairFloat : Nat := 0x1B

/-- The slot MOD rule of the pair table (R162). -/
def slotModOk (s : SlotF) : Bool :=
  let op := s.op.toNat
  let m := s.mod.toNat
  if op < pairFloat then decide (m = 0)
  else if op = 0x1E || op = 0x1F || op = 0x27 then decide (m = 0)
  else decide (m % 2 = 0) && decide (m / 4 ≤ 4) && (decide (op ≠ 0x24) || decide (m / 2 % 2 = 0))

/-- A slot's operands: d is v, q, h or z; a is any readable code but a special register (R100, R163). -/
def slotOperandsOk (s : SlotF) : Bool :=
  decide (s.d.toNat ≤ 0x94) && (decide (s.a.toNat ≤ 0x94) || decide (0xC0 ≤ s.a.toNat))

/-- The v registers that a paired word names and that lie in a bank (R96, R100). -/
def pairInBank (sa sb : SlotF) (bank : Nat) : List Nat :=
  ([sa.d, sa.a, sb.d, sb.a].map BitVec.toNat).filter fun c => decide (c < 0x80) && decide (c % 4 = bank)

/-- Every distinct v register of a paired word lies in a bank of its own: a bank holds one at most, named however often (R100). -/
def pairBanksOk (sa sb : SlotF) : Bool :=
  (List.range 4).all fun bank => (pairInBank sa sb bank).all fun c => decide (c = (pairInBank sa sb bank).headD c)

/-- Is a slot's OP no code of the pair table (R162)? -/
def slotUnassigned (x : SlotF) : Bool := decide (0x28 ≤ x.op.toNat)

/-- The cause that one slot of a paired word meets, in table order (R99, R100, R104). -/
def slotCause (x : SlotF) : Option IllCause :=
  if slotUnassigned x then some .opcode
  else if 4 ≤ x.g.toNat || !slotModOk x then some .field
  else if !slotOperandsOk x then some .operand
  else none

/-- The cause of an illegal paired word. In a steward stream an unassigned OP of either slot comes first, and the stream next; in a lane stream
slot A's causes come before slot B's, and then that of the two together (R100, R104). -/
def pairCause (st : Stream) (sa sb : SlotF) : Option IllCause :=
  if st = .steward then some (if slotUnassigned sa || slotUnassigned sb then .opcode else .stream)
  else
    match slotCause sa, slotCause sb with
    | some c, _ => some c
    | none, some c => some c
    | none, none => if !pairBanksOk sa sb || (decide (sa.d = sb.d) && decide (sa.d ≠ 0x94)) then some .pair else none

/-- The cause of an illegal word in immediate format (R88, R104). -/
def immCause (st : Stream) (r : StreamRule) (d a : Role) (f : ImmF) : Option IllCause :=
  if !r.allows st then some .stream
  else if guardBad f.neg f.pred || d.cause st f.d = some .field || a.cause st f.a = some .field then some .field
  else if d.cause st f.d = some .operand || a.cause st f.a = some .operand then some .operand
  else none

/-- The first cause of R104 that an instruction meets in a stream, or none when it is legal there. An epilogue word or a step
of the device is no word of a stream and meets none here. -/
def illegal (st : Stream) (i : Instr) : Option IllCause :=
  match regShape st i with
  | some (s, f) => s.cause st f
  | none =>
    match immShape i with
    | some (r, d, a, f) => immCause st r d a f
    | none =>
      match i with
      | .pairedWord sa sb => pairCause st sa sb
      | _ => none

/-- The cause code of R104. -/
def IllCause.code : IllCause → BitVec 32
  | .opcode => 0x0100
  | .stream => 0x0101
  | .field => 0x0102
  | .operand => 0x0103
  | .lookahead => 0x0104
  | .bank => 0x0105
  | .pair => 0x0106

end Sys2Proof.Machine
end

