-- ==== Sys2Proof/WellFormed.lean ====
section
/-! DEFINITION. Well-formed instructions: the words of a stream that are no illegal encoding (R104), and the epilogue words
that `epld` accepts wherever they stand in a program (R276, R277). -/

namespace Sys2Proof

open Machine

/-- Is the constructor an instruction word of a stream (R101) or a paired word (R99)? -/
def Instr.isWord (i : Instr) : Bool :=
  match i with
  | .pairedWord _ _ => true
  | _ => (regShape .lanes i).isSome || (immShape i).isSome

/-- Is the constructor an epilogue word (R276)? -/
def Instr.isEpilogue : Instr → Bool
  | .esNop => true | .esMov _ _ => true | .esAdd _ _ _ => true | .esMul _ _ _ => true | .esFma _ _ _ _ => true
  | .esMax _ _ _ => true | .esMin _ _ _ => true | .esScale _ _ _ => true | .esBias _ _ _ => true
  | .esClamp _ _ _ => true | .esExp2 _ _ => true | .esRcp _ _ => true | .esLut _ _ _ _ => true
  | .esCmp _ _ _ => true | .esSel _ _ _ => true | .esLd _ _ _ => true | .esHxq _ _ _ => true
  | .esCvt _ _ _ => true | .esSt _ _ => true | .esStt _ => true | .esLoop _ _ => true | .esEnd => true
  | _ => false

/-- The field limits of the epilogue words (R276): `es.clamp` has k at most 254, `es.cmp` a condition 0 to 5, `es.ld` a mode 0
to 2, `es.loop` a count of at least 1. -/
def esFieldsOk : Instr → Bool
  | .esClamp _ _ k => decide (k.toNat ≤ 254)
  | .esCmp _ _ c => decide (c.toNat ≤ 5)
  | .esLd _ m _ => decide (m.toNat ≤ 2)
  | .esLoop c _ => decide (c.toNat ≠ 0)
  | _ => true

/-- A well-formed instruction word of a stream: no cause of R104 applies to it there. -/
def WellFormed (st : Stream) (i : Instr) : Prop := i.isWord = true ∧ illegal st i = none

/-- A well-formed epilogue word. -/
def EsWellFormed (i : Instr) : Prop := i.isEpilogue = true ∧ esFieldsOk i = true

end Sys2Proof
end

