-- ==== Sys2Proof/Decode.lean ====
section
/-! DEFINITION. The decoder, total on every 64-bit word and every 32-bit epilogue word, which names the cause of a word that is
no instruction (R104), and after it the encoder, from the same formats and the same opcode map (R87 to R102, R276). -/

namespace Sys2Proof

open Machine

/-- What the opcode map makes of a word: no opcode, an opcode whose sub-code is reserved, or an instruction, with bit 0 of a
format that must hold 0 there (R88, R90, R99). -/
inductive Parsed where
  | unassigned
  | reserved (r : StreamRule)
  | word (i : Instr) (bit0 : Bool)
  deriving DecidableEq, Repr

/-- MOD, bits 12:0 (R87). -/
def modOf (w : BitVec 64) : BitVec 13 := w.extractLsb' 0 13

/-- The fields of a word in register or memory format (R87, R89). -/
def regOf (w : BitVec 64) : RegF :=
  { neg := w.getLsbD 52, pred := w.extractLsb' 49 3, d := w.extractLsb' 41 8, a := w.extractLsb' 33 8,
    b := w.extractLsb' 25 8, c := w.extractLsb' 17 8, la := w.extractLsb' 13 4, mod := modOf w }

/-- The fields of a word in immediate format (R88). -/
def immOf (w : BitVec 64) : ImmF :=
  { neg := w.getLsbD 52, pred := w.extractLsb' 49 3, d := w.extractLsb' 41 8, a := w.extractLsb' 33 8,
    imm := w.extractLsb' 1 32 }

/-- A slot of a paired word whose OP begins at bit `o + 24` (R99). -/
def slotOf (w : BitVec 64) (o : Nat) : SlotF :=
  { op := w.extractLsb' (o + 24) 7, g := w.extractLsb' (o + 21) 3, d := w.extractLsb' (o + 13) 8,
    a := w.extractLsb' (o + 5) 8, mod := w.extractLsb' o 5 }

/-- Group 0, integer: the instruction of a MINOR value (R101). -/
def parseGroup0 (w : BitVec 64) : Nat → Parsed
  | 0x00 => .word (.add (regOf w)) false
  | 0x01 => .word (.sub (regOf w)) false
  | 0x02 => .word (.mul (regOf w)) false
  | 0x03 => .word (.mulh (regOf w)) false
  | 0x04 => .word (.mad (regOf w)) false
  | 0x05 => .word (.min (regOf w)) false
  | 0x06 => .word (.max (regOf w)) false
  | 0x07 => .word (.abs (regOf w)) false
  | 0x08 => .word (.neg (regOf w)) false
  | 0x09 => .word (.and (regOf w)) false
  | 0x0A => .word (.or (regOf w)) false
  | 0x0B => .word (.xor (regOf w)) false
  | 0x0C => .word (.andn (regOf w)) false
  | 0x0D => .word (.not (regOf w)) false
  | 0x0E => .word (.shl (regOf w)) false
  | 0x0F => .word (.shr (regOf w)) false
  | 0x10 => .word (.sar (regOf w)) false
  | 0x11 => .word (.rot (regOf w)) false
  | 0x12 => .word (.clz (regOf w)) false
  | 0x13 => .word (.ctz (regOf w)) false
  | 0x14 => .word (.popc (regOf w)) false
  | 0x15 => .word (.bfx (regOf w)) false
  | 0x16 => .word (.bfi (regOf w)) false
  | 0x17 => .word (.brev (regOf w)) false
  | 0x18 => .word (.sel (regOf w)) false
  | 0x19 => .word (.mov (regOf w)) false
  | 0x1A => .word (.cmp (regOf w)) false
  | 0x1B => .word (.adds (regOf w)) false
  | _ => .unassigned

/-- Group 1, address: the instruction of a MINOR value (R101). -/
def parseGroup1 (w : BitVec 64) : Nat → Parsed
  | 0x00 => .word (.movi (immOf w)) (w.getLsbD 0)
  | 0x01 => .word (.movh (immOf w)) (w.getLsbD 0)
  | 0x02 => .word (.addImm (immOf w)) (w.getLsbD 0)
  | 0x03 => .word (.andImm (immOf w)) (w.getLsbD 0)
  | 0x04 => .word (.orImm (immOf w)) (w.getLsbD 0)
  | 0x05 => .word (.xorImm (immOf w)) (w.getLsbD 0)
  | _ => .unassigned

/-- Group 2, floating point: the instruction of a MINOR value (R101). -/
def parseGroup2 (w : BitVec 64) : Nat → Parsed
  | 0x00 => .word (.fadd (regOf w)) false
  | 0x01 => .word (.fsub (regOf w)) false
  | 0x02 => .word (.fmul (regOf w)) false
  | 0x03 => .word (.ffma (regOf w)) false
  | 0x04 => .word (.fmin (regOf w)) false
  | 0x05 => .word (.fmax (regOf w)) false
  | 0x06 => .word (.fcmp (regOf w)) false
  | 0x07 => .word (.fround (regOf w)) false
  | 0x08 => .word (.fclass (regOf w)) false
  | 0x09 => .word (.fdot2 (regOf w)) false
  | _ => .unassigned

/-- Group 3, transcendental and conversion: the instruction of a MINOR value (R101). -/
def parseGroup3 (w : BitVec 64) : Nat → Parsed
  | 0x00 => .word (.frcp (regOf w)) false
  | 0x01 => .word (.frsq (regOf w)) false
  | 0x02 => .word (.fsqrt (regOf w)) false
  | 0x03 => .word (.fexp2 (regOf w)) false
  | 0x04 => .word (.flog2 (regOf w)) false
  | 0x05 => .word (.fsin (regOf w)) false
  | 0x06 => .word (.fcos (regOf w)) false
  | 0x07 => .word (.cvt (regOf w)) false
  | _ => .unassigned

/-- Group 4, narrow formats: the instruction of a MINOR value (R101). -/
def parseGroup4 (w : BitVec 64) : Nat → Parsed
  | 0x00 => .word (.hxq (regOf w)) false
  | 0x01 => .word (.hxd (regOf w)) false
  | 0x02 => .word (.hxe (regOf w)) false
  | 0x03 => .word (.mxcvt (regOf w)) false
  | 0x04 => .word (.pk (regOf w)) false
  | 0x05 => .word (.upk (regOf w)) false
  | 0x06 =>
    match bits (modOf w) 2 0 with
    | 0 => .word (.voteAny (regOf w)) false
    | 1 => .word (.voteAll (regOf w)) false
    | 2 => .word (.voteNone (regOf w)) false
    | 3 => .word (.votePack (regOf w)) false
    | 4 => .word (.voteUnpk (regOf w)) false
    | _ => .reserved .lanesOnly
  | _ => .unassigned

/-- Group 5, load and store: the instruction of a MINOR value (R101). -/
def parseGroup5 (w : BitVec 64) : Nat → Parsed
  | 0x00 => .word (.ld .sp (regOf w)) false
  | 0x01 => .word (.ld .gs (regOf w)) false
  | 0x02 => .word (.ld .gl (regOf w)) false
  | 0x03 => .word (.ld .lr (regOf w)) false
  | 0x04 => .word (.st .sp (regOf w)) false
  | 0x05 => .word (.st .gs (regOf w)) false
  | 0x06 => .word (.st .gl (regOf w)) false
  | 0x07 => .word (.st .lr (regOf w)) false
  | 0x08 => .word (.ldq .sp (regOf w)) false
  | 0x09 => .word (.ldq .gs (regOf w)) false
  | 0x0A => .word (.ldq .gl (regOf w)) false
  | 0x0B => .word (.ldq .lr (regOf w)) false
  | 0x0C => .word (.stq .sp (regOf w)) false
  | 0x0D => .word (.stq .gs (regOf w)) false
  | 0x0E => .word (.stq .gl (regOf w)) false
  | 0x0F => .word (.stq .lr (regOf w)) false
  | 0x12 => .word (.pf (regOf w)) false
  | _ => .unassigned

/-- Group 6, tagged and atomic: the instruction of a MINOR value (R101). -/
def parseGroup6 (w : BitVec 64) : Nat → Parsed
  | 0x00 => .word (.ldwf .sp (regOf w)) false
  | 0x01 => .word (.ldwf .gs (regOf w)) false
  | 0x02 => .word (.ldwf .gl (regOf w)) false
  | 0x03 => .word (.ldwf .lr (regOf w)) false
  | 0x04 => .word (.ldwfe .sp (regOf w)) false
  | 0x05 => .word (.ldwfe .gs (regOf w)) false
  | 0x06 => .word (.ldwfe .gl (regOf w)) false
  | 0x07 => .word (.ldwfe .lr (regOf w)) false
  | 0x08 => .word (.stwe .sp (regOf w)) false
  | 0x09 => .word (.stwe .gs (regOf w)) false
  | 0x0A => .word (.stwe .gl (regOf w)) false
  | 0x0B => .word (.stwe .lr (regOf w)) false
  | 0x0C => .word (.stf .sp (regOf w)) false
  | 0x0D => .word (.stf .gs (regOf w)) false
  | 0x0E => .word (.stf .gl (regOf w)) false
  | 0x0F => .word (.stf .lr (regOf w)) false
  | 0x10 => .word (.tagrd .sp (regOf w)) false
  | 0x11 => .word (.tagrd .gs (regOf w)) false
  | 0x12 => .word (.tagrd .gl (regOf w)) false
  | 0x13 => .word (.tagrd .lr (regOf w)) false
  | 0x14 => .word (.tagwr .sp (regOf w)) false
  | 0x15 => .word (.tagwr .gs (regOf w)) false
  | 0x16 => .word (.tagwr .gl (regOf w)) false
  | 0x17 => .word (.tagwr .lr (regOf w)) false
  | 0x18 => .word (.atomAdd .sp (regOf w)) false
  | 0x19 => .word (.atomAdd .gs (regOf w)) false
  | 0x1A => .word (.atomAdd .gl (regOf w)) false
  | 0x1B => .word (.atomAdd .lr (regOf w)) false
  | 0x1C => .word (.atomMin .sp (regOf w)) false
  | 0x1D => .word (.atomMin .gs (regOf w)) false
  | 0x1E => .word (.atomMin .gl (regOf w)) false
  | 0x1F => .word (.atomMin .lr (regOf w)) false
  | 0x20 => .word (.atomMax .sp (regOf w)) false
  | 0x21 => .word (.atomMax .gs (regOf w)) false
  | 0x22 => .word (.atomMax .gl (regOf w)) false
  | 0x23 => .word (.atomMax .lr (regOf w)) false
  | 0x24 => .word (.atomAnd .sp (regOf w)) false
  | 0x25 => .word (.atomAnd .gs (regOf w)) false
  | 0x26 => .word (.atomAnd .gl (regOf w)) false
  | 0x27 => .word (.atomAnd .lr (regOf w)) false
  | 0x28 => .word (.atomOr .sp (regOf w)) false
  | 0x29 => .word (.atomOr .gs (regOf w)) false
  | 0x2A => .word (.atomOr .gl (regOf w)) false
  | 0x2B => .word (.atomOr .lr (regOf w)) false
  | 0x2C => .word (.atomXor .sp (regOf w)) false
  | 0x2D => .word (.atomXor .gs (regOf w)) false
  | 0x2E => .word (.atomXor .gl (regOf w)) false
  | 0x2F => .word (.atomXor .lr (regOf w)) false
  | 0x30 => .word (.atomXchg .sp (regOf w)) false
  | 0x31 => .word (.atomXchg .gs (regOf w)) false
  | 0x32 => .word (.atomXchg .gl (regOf w)) false
  | 0x33 => .word (.atomXchg .lr (regOf w)) false
  | 0x34 => .word (.atomCas .sp (regOf w)) false
  | 0x35 => .word (.atomCas .gs (regOf w)) false
  | 0x36 => .word (.atomCas .gl (regOf w)) false
  | 0x37 => .word (.atomCas .lr (regOf w)) false
  | 0x38 => .word (.atomFadd .sp (regOf w)) false
  | 0x39 => .word (.atomFadd .gs (regOf w)) false
  | 0x3A => .word (.atomFadd .gl (regOf w)) false
  | 0x3B => .word (.atomFadd .lr (regOf w)) false
  | _ => .unassigned

/-- Group 7, reductions, ordering, copies: the instruction of a MINOR value (R101). -/
def parseGroup7 (w : BitVec 64) : Nat → Parsed
  | 0x00 => .word (.redAdd (regOf w)) false
  | 0x01 => .word (.redMin (regOf w)) false
  | 0x02 => .word (.redMax (regOf w)) false
  | 0x03 => .word (.redFadd (regOf w)) false
  | 0x04 => .word (.redflush (regOf w)) false
  | 0x05 => .word (.redseal (regOf w)) false
  | 0x06 => .word (.fence (regOf w)) false
  | 0x07 => .word (.acq (regOf w)) false
  | 0x08 => .word (.rel (regOf w)) false
  | 0x09 => .word (.bind (regOf w)) false
  | 0x0A => .word (.unbind (regOf w)) false
  | 0x0B => .word (.cp (regOf w)) false
  | 0x0C => .word (.gth (regOf w)) false
  | _ => .unassigned

/-- Group 8, control: the instruction of a MINOR value (R101). -/
def parseGroup8 (w : BitVec 64) : Nat → Parsed
  | 0x00 => .word (.bra (immOf w)) (w.getLsbD 0)
  | 0x01 => .word (.brx (regOf w)) false
  | 0x02 => .word (.call (immOf w)) (w.getLsbD 0)
  | 0x03 => .word (.callx (regOf w)) false
  | 0x04 => .word (.ret (regOf w)) false
  | 0x05 => .word (.land (regOf w)) false
  | 0x06 => .word (.rjmark (regOf w)) false
  | 0x07 => .word (.rjoin (regOf w)) false
  | 0x08 => .word (.exit (regOf w)) false
  | 0x09 => .word (.yield (regOf w)) false
  | 0x0A => .word (.nop (regOf w)) false
  | 0x0B => .word (.trap (regOf w)) false
  | 0x0C => .word (.tret (regOf w)) false
  | _ => .unassigned

/-- Group 9, window: the instruction of a MINOR value (R101). -/
def parseGroup9 (w : BitVec 64) : Nat → Parsed
  | 0x00 => .word (.wrecv (regOf w)) false
  | 0x01 => .word (.wemit (regOf w)) false
  | 0x02 =>
    match bits (modOf w) 1 0 with
    | 0 => .word (.wclose (regOf w)) false
    | 1 => .word (.wcloseId (regOf w)) false
    | 2 => .word (.wcloseEnd (regOf w)) false
    | _ => .reserved .both
  | 0x03 => .word (.wmret (regOf w)) false
  | 0x04 => .word (.wtimer (regOf w)) false
  | 0x05 => .word (.wstat (regOf w)) false
  | _ => .unassigned

/-- Group 10, estate: the instruction of a MINOR value (R101). -/
def parseGroup10 (w : BitVec 64) : Nat → Parsed
  | 0x00 =>
    match bits (modOf w) 2 0 with
    | 0 => .word (.holdLock (regOf w)) false
    | 1 => .word (.holdSlot (regOf w)) false
    | 2 => .word (.holdCopy (regOf w)) false
    | _ => .reserved .both
  | 0x01 =>
    match bits (modOf w) 2 0 with
    | 0 => .word (.heir (regOf w)) false
    | 1 => .word (.heirSlot (regOf w)) false
    | 2 => .word (.heirGrp (regOf w)) false
    | _ => .reserved .both
  | 0x02 =>
    match bits (modOf w) 2 0 with
    | 0 => .word (.drop (regOf w)) false
    | 1 => .word (.dropSlot (regOf w)) false
    | _ => .reserved .both
  | 0x03 =>
    match bits (modOf w) 2 0 with
    | 0 => .word (.promise (regOf w)) false
    | _ => .reserved .both
  | 0x04 =>
    match bits (modOf w) 2 0 with
    | 0 => .word (.fulfil (regOf w)) false
    | _ => .reserved .both
  | 0x05 =>
    match bits (modOf w) 2 0 with
    | 0 => .word (.estqInfo (regOf w)) false
    | 1 => .word (.estqObj (regOf w)) false
    | 2 => .word (.estqFrom (regOf w)) false
    | 3 => .word (.estqMask (regOf w)) false
    | _ => .reserved .both
  | _ => .unassigned

/-- Group 11, QRU: the instruction of a MINOR value (R101). -/
def parseGroup11 (w : BitVec 64) : Nat → Parsed
  | 0x00 => .word (.qrld (regOf w)) false
  | 0x01 =>
    match bits (modOf w) 1 0 with
    | 0 => .word (.qrseed (regOf w)) false
    | 1 => .word (.qrseedKey (regOf w)) false
    | _ => .reserved .both
  | 0x02 => .word (.qrpt (regOf w)) false
  | 0x03 => .word (.qrpt4 (regOf w)) false
  | 0x04 => .word (.qrf (regOf w)) false
  | 0x05 =>
    match bits (modOf w) 0 0 with
    | 0 => .word (.qrhash (regOf w)) false
    | _ => .word (.qrhashK (regOf w)) false
  | _ => .unassigned

/-- Group 12, sharing group and system: the instruction of a MINOR value (R101). -/
def parseGroup12 (w : BitVec 64) : Nat → Parsed
  | 0x00 => .word (.grjoin (regOf w)) false
  | 0x01 => .word (.grleave (regOf w)) false
  | 0x02 => .word (.crbeg (immOf w)) (w.getLsbD 0)
  | 0x03 => .word (.crend (regOf w)) false
  | 0x04 => .word (.sysrpc (regOf w)) false
  | 0x05 => .word (.mfsr (regOf w)) false
  | 0x06 => .word (.mtsr (regOf w)) false
  | 0x07 => .word (.diagInj (regOf w)) false
  | 0x08 => .word (.kick (regOf w)) false
  | 0x09 => .word (.dqpop (regOf w)) false
  | 0x0A => .word (.nbw (regOf w)) false
  | _ => .unassigned

/-- Group 13, steward scalar and decision: the instruction of a MINOR value (R101). -/
def parseGroup13 (w : BitVec 64) : Nat → Parsed
  | 0x00 => .word (.dqpush (regOf w)) false
  | 0x01 => .word (.nbar (regOf w)) false
  | 0x02 => .word (.fbra (immOf w)) (w.getLsbD 0)
  | _ => .unassigned

/-- Group 14, matrix and engine: the instruction of a MINOR value (R101). -/
def parseGroup14 (w : BitVec 64) : Nat → Parsed
  | 0x00 => .word (.qcset (regOf w)) false
  | 0x01 => .word (.mma (regOf w)) false
  | 0x02 => .word (.mzero (regOf w)) false
  | 0x03 => .word (.mdrain (regOf w)) false
  | 0x04 => .word (.epld (regOf w)) false
  | 0x05 => .word (.cpb (regOf w)) false
  | 0x06 => .word (.coll (regOf w)) false
  | 0x07 =>
    match bits (modOf w) 7 0 with
    | 0 => .word (.launch (regOf w)) false
    | 1 => .word (.launchEst (regOf w)) false
    | _ => .reserved .stewardOnly
  | _ => .unassigned

/-- The instruction of a full word by its opcode (R87, R101). -/
def parseFull (w : BitVec 64) : Parsed :=
  let minor := bits w 58 53
  match bits w 62 59 with
  | 0 => parseGroup0 w minor
  | 1 => parseGroup1 w minor
  | 2 => parseGroup2 w minor
  | 3 => parseGroup3 w minor
  | 4 => parseGroup4 w minor
  | 5 => parseGroup5 w minor
  | 6 => parseGroup6 w minor
  | 7 => parseGroup7 w minor
  | 8 => parseGroup8 w minor
  | 9 => parseGroup9 w minor
  | 10 => parseGroup10 w minor
  | 11 => parseGroup11 w minor
  | 12 => parseGroup12 w minor
  | 13 => parseGroup13 w minor
  | 14 => parseGroup14 w minor
  | _ => .unassigned

/-- The instruction of a word: a full word by its opcode, or a paired word (R86). -/
def parse (w : BitVec 64) : Parsed :=
  if w.getLsbD 63 then .word (.pairedWord (slotOf w 32) (slotOf w 1)) (w.getLsbD 0) else parseFull w

/-- The cause of a parsed word, in the order of R104. -/
def Parsed.result (st : Stream) : Parsed → Except IllCause Instr
  | .unassigned => .error .opcode
  | .reserved r => if r.allows st then .error .field else .error .stream
  | .word i bit0 =>
    match illegal st i with
    | some .opcode => .error .opcode
    | some .stream => .error .stream
    | some c => if bit0 then .error .field else .error c
    | none => if bit0 then .error .field else .ok i

/-- The decoder of a stream's words: the instruction, or the cause of the illegal encoding (R104). -/
def decode (st : Stream) (w : BitVec 64) : Except IllCause Instr := (parse w).result st

/-- The epilogue word of 32 bits, or none where `epld` would find it illegal in itself (R276, R277): an unassigned OP, a
nonzero bit in a field that the op does not use, or a field beyond its limit. -/
def esDecode (w : BitVec 32) : Option Instr :=
  let d : BitVec 4 := w.extractLsb' 23 4
  let a : BitVec 4 := w.extractLsb' 19 4
  let b : BitVec 4 := w.extractLsb' 15 4
  let x : BitVec 15 := w.extractLsb' 0 15
  let k : BitVec 8 := w.extractLsb' 0 8
  let zd := decide (d = 0)
  let za := decide (a = 0)
  let zb := decide (b = 0)
  let keep (ok : Bool) (i : Instr) : Option Instr := if ok && esFieldsOk i then some i else none
  match bits w 31 27 with
  | 0x00 => keep (zd && za && zb && decide (x = 0)) .esNop
  | 0x01 => keep (zb && decide (x = 0)) (.esMov d a)
  | 0x02 => keep (decide (x = 0)) (.esAdd d a b)
  | 0x03 => keep (decide (x = 0)) (.esMul d a b)
  | 0x04 => keep (decide (bits w 10 0 = 0)) (.esFma d a b (w.extractLsb' 11 4))
  | 0x05 => keep (decide (x = 0)) (.esMax d a b)
  | 0x06 => keep (decide (x = 0)) (.esMin d a b)
  | 0x07 => keep (zb && decide (bits w 14 8 = 0)) (.esScale d a k)
  | 0x08 => keep (zb && decide (bits w 14 8 = 0)) (.esBias d a k)
  | 0x09 => keep (zb && decide (bits w 14 8 = 0)) (.esClamp d a k)
  | 0x0A => keep (zb && decide (x = 0)) (.esExp2 d a)
  | 0x0B => keep (zb && decide (x = 0)) (.esRcp d a)
  | 0x0C => keep (zb && decide (bits w 14 14 = 0)) (.esLut d a (w.extractLsb' 8 6) k)
  | 0x0D => keep (zd && decide (bits w 14 3 = 0)) (.esCmp a b (w.extractLsb' 0 3))
  | 0x0E => keep (decide (x = 0)) (.esSel d a b)
  | 0x0F => keep (za && zb && decide (bits w 14 10 = 0)) (.esLd d (w.extractLsb' 8 2) k)
  | 0x10 => keep (zb && decide (bits w 14 3 = 0)) (.esHxq d a (w.extractLsb' 0 3))
  | 0x11 => keep (zb && decide (bits w 14 3 = 0)) (.esCvt d a (w.extractLsb' 0 3))
  | 0x12 => keep (zd && zb && decide (bits w 14 4 = 0)) (.esSt a (w.extractLsb' 0 4))
  | 0x13 => keep (zd && zb && decide (x = 0)) (.esStt a)
  | 0x14 => keep (zd && za && zb && decide (bits w 14 13 = 0)) (.esLoop (w.extractLsb' 6 7) (w.extractLsb' 0 6))
  | 0x15 => keep (zd && za && zb && decide (x = 0)) .esEnd
  | _ => none

/-- The instruction of a word of the opcode table's numbering: 32 bits are an epilogue word; otherwise a word of a stream, read
as a lane word where that is legal and as a steward word where it is not (R86, R103, R276). -/
def decodeTableWord (nbits w : Nat) : Option Instr :=
  if nbits = 32 then esDecode (BitVec.ofNat 32 w)
  else
    match decode .lanes (BitVec.ofNat 64 w) with
    | .ok i => some i
    | .error _ =>
      match decode .steward (BitVec.ofNat 64 w) with
      | .ok i => some i
      | .error _ => none

/-- The code of a space in MINOR[1:0] (R102). -/
def spaceCode : Space → Nat
  | .sp => 0
  | .gs => 1
  | .gl => 2
  | .lr => 3

/-- The opcode of an instruction word in register or memory format with its fields (R101, R102). -/
def regCode : Instr → Option (Nat × RegF)
  | .add f => some (0x000, f)
  | .sub f => some (0x001, f)
  | .mul f => some (0x002, f)
  | .mulh f => some (0x003, f)
  | .mad f => some (0x004, f)
  | .min f => some (0x005, f)
  | .max f => some (0x006, f)
  | .abs f => some (0x007, f)
  | .neg f => some (0x008, f)
  | .and f => some (0x009, f)
  | .or f => some (0x00A, f)
  | .xor f => some (0x00B, f)
  | .andn f => some (0x00C, f)
  | .not f => some (0x00D, f)
  | .shl f => some (0x00E, f)
  | .shr f => some (0x00F, f)
  | .sar f => some (0x010, f)
  | .rot f => some (0x011, f)
  | .clz f => some (0x012, f)
  | .ctz f => some (0x013, f)
  | .popc f => some (0x014, f)
  | .bfx f => some (0x015, f)
  | .bfi f => some (0x016, f)
  | .brev f => some (0x017, f)
  | .sel f => some (0x018, f)
  | .mov f => some (0x019, f)
  | .cmp f => some (0x01A, f)
  | .adds f => some (0x01B, f)
  | .fadd f => some (0x080, f)
  | .fsub f => some (0x081, f)
  | .fmul f => some (0x082, f)
  | .ffma f => some (0x083, f)
  | .fmin f => some (0x084, f)
  | .fmax f => some (0x085, f)
  | .fcmp f => some (0x086, f)
  | .fround f => some (0x087, f)
  | .fclass f => some (0x088, f)
  | .fdot2 f => some (0x089, f)
  | .frcp f => some (0x0C0, f)
  | .frsq f => some (0x0C1, f)
  | .fsqrt f => some (0x0C2, f)
  | .fexp2 f => some (0x0C3, f)
  | .flog2 f => some (0x0C4, f)
  | .fsin f => some (0x0C5, f)
  | .fcos f => some (0x0C6, f)
  | .cvt f => some (0x0C7, f)
  | .hxq f => some (0x100, f)
  | .hxd f => some (0x101, f)
  | .hxe f => some (0x102, f)
  | .mxcvt f => some (0x103, f)
  | .pk f => some (0x104, f)
  | .upk f => some (0x105, f)
  | .voteAny f => some (0x106, f)
  | .voteAll f => some (0x106, f)
  | .voteNone f => some (0x106, f)
  | .votePack f => some (0x106, f)
  | .voteUnpk f => some (0x106, f)
  | .ld s f => some (0x140 + spaceCode s, f)
  | .st s f => some (0x144 + spaceCode s, f)
  | .ldq s f => some (0x148 + spaceCode s, f)
  | .stq s f => some (0x14C + spaceCode s, f)
  | .pf f => some (0x152, f)
  | .ldwf s f => some (0x180 + spaceCode s, f)
  | .ldwfe s f => some (0x184 + spaceCode s, f)
  | .stwe s f => some (0x188 + spaceCode s, f)
  | .stf s f => some (0x18C + spaceCode s, f)
  | .tagrd s f => some (0x190 + spaceCode s, f)
  | .tagwr s f => some (0x194 + spaceCode s, f)
  | .atomAdd s f => some (0x198 + spaceCode s, f)
  | .atomMin s f => some (0x19C + spaceCode s, f)
  | .atomMax s f => some (0x1A0 + spaceCode s, f)
  | .atomAnd s f => some (0x1A4 + spaceCode s, f)
  | .atomOr s f => some (0x1A8 + spaceCode s, f)
  | .atomXor s f => some (0x1AC + spaceCode s, f)
  | .atomXchg s f => some (0x1B0 + spaceCode s, f)
  | .atomCas s f => some (0x1B4 + spaceCode s, f)
  | .atomFadd s f => some (0x1B8 + spaceCode s, f)
  | .redAdd f => some (0x1C0, f)
  | .redMin f => some (0x1C1, f)
  | .redMax f => some (0x1C2, f)
  | .redFadd f => some (0x1C3, f)
  | .redflush f => some (0x1C4, f)
  | .redseal f => some (0x1C5, f)
  | .fence f => some (0x1C6, f)
  | .acq f => some (0x1C7, f)
  | .rel f => some (0x1C8, f)
  | .bind f => some (0x1C9, f)
  | .unbind f => some (0x1CA, f)
  | .cp f => some (0x1CB, f)
  | .gth f => some (0x1CC, f)
  | .brx f => some (0x201, f)
  | .callx f => some (0x203, f)
  | .ret f => some (0x204, f)
  | .land f => some (0x205, f)
  | .rjmark f => some (0x206, f)
  | .rjoin f => some (0x207, f)
  | .exit f => some (0x208, f)
  | .yield f => some (0x209, f)
  | .nop f => some (0x20A, f)
  | .trap f => some (0x20B, f)
  | .tret f => some (0x20C, f)
  | .wrecv f => some (0x240, f)
  | .wemit f => some (0x241, f)
  | .wclose f => some (0x242, f)
  | .wcloseId f => some (0x242, f)
  | .wcloseEnd f => some (0x242, f)
  | .wmret f => some (0x243, f)
  | .wtimer f => some (0x244, f)
  | .wstat f => some (0x245, f)
  | .holdLock f => some (0x280, f)
  | .holdSlot f => some (0x280, f)
  | .holdCopy f => some (0x280, f)
  | .heir f => some (0x281, f)
  | .heirSlot f => some (0x281, f)
  | .heirGrp f => some (0x281, f)
  | .drop f => some (0x282, f)
  | .dropSlot f => some (0x282, f)
  | .promise f => some (0x283, f)
  | .fulfil f => some (0x284, f)
  | .estqInfo f => some (0x285, f)
  | .estqObj f => some (0x285, f)
  | .estqFrom f => some (0x285, f)
  | .estqMask f => some (0x285, f)
  | .qrld f => some (0x2C0, f)
  | .qrseed f => some (0x2C1, f)
  | .qrseedKey f => some (0x2C1, f)
  | .qrpt f => some (0x2C2, f)
  | .qrpt4 f => some (0x2C3, f)
  | .qrf f => some (0x2C4, f)
  | .qrhash f => some (0x2C5, f)
  | .qrhashK f => some (0x2C5, f)
  | .grjoin f => some (0x300, f)
  | .grleave f => some (0x301, f)
  | .crend f => some (0x303, f)
  | .sysrpc f => some (0x304, f)
  | .mfsr f => some (0x305, f)
  | .mtsr f => some (0x306, f)
  | .diagInj f => some (0x307, f)
  | .kick f => some (0x308, f)
  | .dqpop f => some (0x309, f)
  | .nbw f => some (0x30A, f)
  | .dqpush f => some (0x340, f)
  | .nbar f => some (0x341, f)
  | .qcset f => some (0x380, f)
  | .mma f => some (0x381, f)
  | .mzero f => some (0x382, f)
  | .mdrain f => some (0x383, f)
  | .epld f => some (0x384, f)
  | .cpb f => some (0x385, f)
  | .coll f => some (0x386, f)
  | .launch f => some (0x387, f)
  | .launchEst f => some (0x387, f)
  | _ => none

/-- The opcode of an instruction word in immediate format with its fields (R101). -/
def immCode : Instr → Option (Nat × ImmF)
  | .movi f => some (0x040, f)
  | .movh f => some (0x041, f)
  | .addImm f => some (0x042, f)
  | .andImm f => some (0x043, f)
  | .orImm f => some (0x044, f)
  | .xorImm f => some (0x045, f)
  | .bra f => some (0x200, f)
  | .call f => some (0x202, f)
  | .crbeg f => some (0x302, f)
  | .fbra f => some (0x342, f)
  | _ => none

/-- A word in register or memory format (R87, R89). -/
def packReg (op : Nat) (f : RegF) : BitVec 64 :=
  ((0 : BitVec 1) ++ BitVec.ofNat 10 op ++ BitVec.ofBool f.neg ++ f.pred ++ f.d ++ f.a ++ f.b ++ f.c ++ f.la ++ f.mod :
    BitVec (1 + 10 + 1 + 3 + 8 + 8 + 8 + 8 + 4 + 13))

/-- A word in immediate format (R88). -/
def packImm (op : Nat) (f : ImmF) : BitVec 64 :=
  ((0 : BitVec 1) ++ BitVec.ofNat 10 op ++ BitVec.ofBool f.neg ++ f.pred ++ f.d ++ f.a ++ f.imm ++ (0 : BitVec 1) :
    BitVec (1 + 10 + 1 + 3 + 8 + 8 + 32 + 1))

/-- A paired word (R99). -/
def packPair (sa sb : SlotF) : BitVec 64 :=
  ((1 : BitVec 1) ++ sa.op ++ sa.g ++ sa.d ++ sa.a ++ sa.mod ++ sb.op ++ sb.g ++ sb.d ++ sb.a ++ sb.mod ++ (0 : BitVec 1) :
    BitVec (1 + 7 + 3 + 8 + 8 + 5 + 7 + 3 + 8 + 8 + 5 + 1))

/-- The word of an instruction of a stream (R87, R88, R99); zero for a constructor that is no such word. -/
def encode (i : Instr) : BitVec 64 :=
  match regCode i with
  | some (op, f) => packReg op f
  | none =>
    match immCode i with
    | some (op, f) => packImm op f
    | none =>
      match i with
      | .pairedWord sa sb => packPair sa sb
      | _ => 0

/-- An epilogue word from its OP and fields (R276). -/
def packEs (op : Nat) (d a b : BitVec 4) (x : BitVec 15) : BitVec 32 :=
  (BitVec.ofNat 5 op ++ d ++ a ++ b ++ x : BitVec (5 + 4 + 4 + 4 + 15))

/-- The word of an epilogue instruction (R276); zero for any other constructor. -/
def esEncode : Instr → BitVec 32
  | .esNop => packEs 0x00 0 0 0 0
  | .esMov d a => packEs 0x01 d a 0 0
  | .esAdd d a b => packEs 0x02 d a b 0
  | .esMul d a b => packEs 0x03 d a b 0
  | .esFma d a b c => packEs 0x04 d a b (c ++ (0 : BitVec 11) : BitVec (4 + 11))
  | .esMax d a b => packEs 0x05 d a b 0
  | .esMin d a b => packEs 0x06 d a b 0
  | .esScale d a k => packEs 0x07 d a 0 (k.zeroExtend 15)
  | .esBias d a k => packEs 0x08 d a 0 (k.zeroExtend 15)
  | .esClamp d a k => packEs 0x09 d a 0 (k.zeroExtend 15)
  | .esExp2 d a => packEs 0x0A d a 0 0
  | .esRcp d a => packEs 0x0B d a 0 0
  | .esLut d a n k => packEs 0x0C d a 0 ((0 : BitVec 1) ++ n ++ k : BitVec (1 + 6 + 8))
  | .esCmp a b c => packEs 0x0D 0 a b (c.zeroExtend 15)
  | .esSel d a b => packEs 0x0E d a b 0
  | .esLd d m k => packEs 0x0F d 0 0 ((0 : BitVec 5) ++ m ++ k : BitVec (5 + 2 + 8))
  | .esHxq d a n => packEs 0x10 d a 0 (n.zeroExtend 15)
  | .esCvt d a n => packEs 0x11 d a 0 (n.zeroExtend 15)
  | .esSt a w => packEs 0x12 0 a 0 (w.zeroExtend 15)
  | .esStt a => packEs 0x13 0 a 0 0
  | .esLoop c t => packEs 0x14 0 0 0 ((0 : BitVec 2) ++ c ++ t : BitVec (2 + 7 + 6))
  | .esEnd => packEs 0x15 0 0 0 0
  | _ => 0

end Sys2Proof
end

