-- ==== Sys2Proof/Machine/Fp.lean ====
section
/-! DEFINITION. Number formats and rounding (R123 to R137): exact values as a sign, a whole number and a power of two, with a
sticky mark for what lies beyond; the five rounding modes; the IEEE and OCP formats; the array's accumulation. -/

namespace Sys2Proof.Machine

/-! ## Exact values -/

/-- An exact value: NaN, an infinity, or ±m·2^e. With `sticky` the magnitude lies strictly between m·2^e and (m+1)·2^e. -/
inductive Num where
  | nan
  | inf (neg : Bool)
  | fin (neg : Bool) (m : Nat) (e : Int) (sticky : Bool)
  deriving DecidableEq, Repr

/-- An exact finite value. -/
def Num.dy (neg : Bool) (m : Nat) (e : Int) : Num := .fin neg m e false
/-- A whole number. -/
def Num.ofInt (x : Int) : Num := .dy (decide (x < 0)) x.natAbs 0
/-- Is the value a zero? -/
def Num.isZero : Num → Bool
  | .fin _ m _ st => decide (m = 0) && !st
  | _ => false
/-- The sign of a value; NaN has none. -/
def Num.neg : Num → Bool
  | .nan => false
  | .inf n => n
  | .fin n _ _ _ => n
/-- Is the value NaN? -/
def Num.isNan : Num → Bool
  | .nan => true
  | _ => false
/-- Is the value an infinity? -/
def Num.isInf : Num → Bool
  | .inf _ => true
  | _ => false

/-- A magnitude m·2^e scaled to a whole number of 2^q, for q at most e. -/
def scaleTo (m : Nat) (e q : Int) : Nat := m * 2 ^ (e - q).toNat

/-- The signed whole number of 2^q of a finite value, for q at most its exponent; 0 for others. -/
def Num.units (x : Num) (q : Int) : Int :=
  match x with
  | .fin n m e _ => if n then -(scaleTo m e q : Int) else (scaleTo m e q : Int)
  | _ => 0

/-- The exponent of a finite value's whole number. -/
def Num.exp (x : Num) : Int :=
  match x with
  | .fin _ _ e _ => e
  | _ => 0

/-- EXP of R137: floor(log2 |x|) of a nonzero finite value. -/
def Num.EXP (x : Num) : Int :=
  match x with
  | .fin _ m e _ => (Nat.log2 m : Int) + e
  | _ => 0

/-- Is |x| less than |y|, for finite exact values? -/
def Num.magLt (x y : Num) : Bool :=
  let q := min x.exp y.exp
  decide ((x.units q).natAbs < (y.units q).natAbs)

/-- The values as an order: −1, 0 or 1 for less, equal or greater; none when one is NaN. −0 equals +0. -/
def Num.compare (x y : Num) : Option Int :=
  match x, y with
  | .nan, _ => none
  | _, .nan => none
  | .inf a, .inf b => some (if a = b then 0 else if a then -1 else 1)
  | .inf a, _ => some (if a then -1 else 1)
  | _, .inf b => some (if b then 1 else -1)
  | x, y =>
    let q := min x.exp y.exp
    let a := x.units q
    let b := y.units q
    some (if a < b then -1 else if a = b then 0 else 1)

/-! ## Exact operations (R125) -/

/-- −x. -/
def Num.negate : Num → Num
  | .nan => .nan
  | .inf n => .inf (!n)
  | .fin n m e st => .fin (!n) m e st

/-- The exact sum; a zero sum of operands of unlike sign is −0 under RD and +0 under every other mode (R125). -/
def Num.add (rd : Bool) (x y : Num) : Num :=
  match x, y with
  | .nan, _ => .nan
  | _, .nan => .nan
  | .inf a, .inf b => if a = b then .inf a else .nan
  | .inf a, _ => .inf a
  | _, .inf b => .inf b
  | x, y =>
    let q := min x.exp y.exp
    let v := x.units q + y.units q
    if v = 0 then .dy (if x.neg = y.neg then x.neg else rd) 0 0 else .dy (decide (v < 0)) v.natAbs q

/-- The exact product. -/
def Num.mul (x y : Num) : Num :=
  match x, y with
  | .nan, _ => .nan
  | _, .nan => .nan
  | .inf a, y => if y.isZero then .nan else .inf (a != y.neg)
  | x, .inf b => if x.isZero then .nan else .inf (x.neg != b)
  | .fin a m e _, .fin b n f _ => .dy (a != b) (m * n) (e + f)

/-! ## Rounding (R126) -/

/-- Does a magnitude with an inexact remainder go up to the next unit? `frac` is the remainder over `den`, `sticky` adds less than
one more; `odd` says that the lower unit is odd; `u` are the SR bits. -/
def roundsUp (rm : Nat) (neg odd : Bool) (frac den : Nat) (sticky : Bool) (u : BitVec 32) : Bool :=
  let inexact := decide (frac ≠ 0) || sticky
  match rm with
  | 0 => decide (den < 2 * frac) || (decide (2 * frac = den) && (sticky || odd))
  | 1 => false
  | 2 => inexact && !neg
  | 3 => inexact && neg
  | _ => decide (u.toNat < frac * 2 ^ 32 / den)

/-- The magnitude m·2^e rounded to a whole number of 2^q. -/
def roundUnits (neg : Bool) (m : Nat) (e : Int) (sticky : Bool) (q : Int) (rm : Nat) (u : BitVec 32) : Nat :=
  if q ≤ e then
    let a := scaleTo m e q
    if roundsUp rm neg (decide (a % 2 = 1)) 0 1 sticky u then a + 1 else a
  else
    let den := 2 ^ (q - e).toNat
    let a := m / den
    if roundsUp rm neg (decide (a % 2 = 1)) (m % den) den sticky u then a + 1 else a

/-- What rounding a magnitude gives: a whole number of 2^q, or an overflow to infinity. -/
inductive Rounded where
  | units (k : Nat) (q : Int)
  | overflow
  deriving DecidableEq, Repr

/-- Rounding of a magnitude to a format with p fraction bits, smallest normal exponent `emin` and largest finite magnitude
kmax·2^qmax of exponent `emax` (R126). Under SR the bound c is 2^(emax+1), for E4M3 too, where the largest finite value plus one ulp is less
(DESIGN CHOICE, log entry 74). -/
def roundMag (p : Nat) (emin emax : Int) (kmax : Nat) (qmax : Int) (neg : Bool) (m : Nat) (e : Int) (sticky : Bool)
    (rm : Nat) (u : BitVec 32) : Rounded :=
  let lo := min e (qmax - 1)
  let x := scaleTo m e lo
  let top := scaleTo kmax qmax lo
  let beyond := decide (top < x) || (decide (top = x) && sticky)
  if beyond then
    let half := scaleTo 1 (qmax - 1) lo
    let next := scaleTo 1 (emax + 1) lo
    match rm with
    | 0 => if top + half ≤ x then .overflow else .units kmax qmax
    | 1 => .units kmax qmax
    | 2 => if neg then .units kmax qmax else .overflow
    | 3 => if neg then .overflow else .units kmax qmax
    | _ =>
      if next ≤ x then .overflow
      else if u.toNat < (x - top) * 2 ^ 32 / (next - top) then .overflow
      else .units kmax qmax
  else
    let big := max ((Nat.log2 m : Int) + e) emin
    let q := if m = 0 then emin - p else big - p
    .units (roundUnits neg m e sticky q rm u) q

/-- ROUNDINT: the signed whole number (R137). -/
def roundInt (x : Num) (rm : Nat) (u : BitVec 32) : Int :=
  match x with
  | .fin n m e st =>
    let k := roundUnits n m e st 0 rm u
    if n then -(k : Int) else (k : Int)
  | _ => 0

/-! ## IEEE formats (R123) -/

/-- An IEEE format: width, fraction bits, exponent bits, bias. -/
structure Fmt where
  width : Nat
  p : Nat
  ebits : Nat
  bias : Nat
  deriving DecidableEq, Repr

/-- FP64. -/
def fp64 : Fmt := ⟨64, 52, 11, 1023⟩
/-- FP32. -/
def fp32 : Fmt := ⟨32, 23, 8, 127⟩
/-- FP16. -/
def fp16 : Fmt := ⟨16, 10, 5, 15⟩
/-- BF16. -/
def bf16 : Fmt := ⟨16, 7, 8, 127⟩

/-- The format of a TYPE code 9 to 12 (R98). -/
def fmtOf : Nat → Fmt
  | 9 => fp16
  | 10 => bf16
  | 12 => fp64
  | _ => fp32

/-- All ones in the exponent field. -/
def Fmt.ones (f : Fmt) : Nat := 2 ^ f.ebits - 1
/-- The exponent of the smallest normal. -/
def Fmt.emin (f : Fmt) : Int := 1 - (f.bias : Int)
/-- The exponent of the largest finite value. -/
def Fmt.emax (f : Fmt) : Int := (f.ones : Int) - 1 - f.bias
/-- The canonical NaN (R123). -/
def Fmt.canon (f : Fmt) : Nat := f.ones * 2 ^ f.p + 2 ^ (f.p - 1)
/-- The encoding of an infinity. -/
def Fmt.infinity (f : Fmt) (neg : Bool) : Nat := (if neg then 2 ^ (f.width - 1) else 0) + f.ones * 2 ^ f.p
/-- The encoding of the largest finite value. -/
def Fmt.largest (f : Fmt) (neg : Bool) : Nat :=
  (if neg then 2 ^ (f.width - 1) else 0) + (f.ones - 1) * 2 ^ f.p + (2 ^ f.p - 1)

/-- VAL: the value of an encoding (R123). -/
def Fmt.val (f : Fmt) (x : Nat) : Num :=
  let neg := decide (x / 2 ^ (f.width - 1) % 2 = 1)
  let e := x / 2 ^ f.p % 2 ^ f.ebits
  let m := x % 2 ^ f.p
  if e = f.ones then (if m = 0 then .inf neg else .nan)
  else if e = 0 then .dy neg m (f.emin - f.p)
  else .dy neg (2 ^ f.p + m) ((e : Int) - f.bias - f.p)

/-- The encoding of k·2^q, a representable magnitude. -/
def Fmt.encode (f : Fmt) (neg : Bool) (k : Nat) (q : Int) : Nat :=
  let s := if neg then 2 ^ (f.width - 1) else 0
  if k < 2 ^ f.p then s + k
  else
    let (k, q) := if k = 2 ^ (f.p + 1) then (k / 2, q + 1) else (k, q)
    let e := (q + f.p + f.bias).toNat
    if f.ones ≤ e then f.infinity neg else s + e * 2 ^ f.p + (k - 2 ^ f.p)

/-- ROUND of R137: the encoding of a value in a format, by mode, with `.sat` and the SR bits. -/
def Fmt.round (f : Fmt) (x : Num) (rm : Nat) (sat : Bool) (u : BitVec 32) : Nat :=
  let overflowed (n : Bool) : Nat := if sat then f.largest n else f.infinity n
  match x with
  | .nan => f.canon
  | .inf n => overflowed n
  | .fin n m e st =>
    match roundMag f.p f.emin f.emax (2 ^ (f.p + 1) - 1) (f.emax - f.p) n m e st rm u with
    | .overflow => overflowed n
    | .units k q =>
      let r := f.encode n k q
      if r = f.infinity n then overflowed n else r

/-- RNE32 (R137). -/
def rne32 (x : Num) : BitVec 32 := BitVec.ofNat 32 (fp32.round x 0 false 0)
/-- The value of an FP32 word. -/
def val32 (x : BitVec 32) : Num := fp32.val x.toNat

/-- A NaN's top fraction bit says that it is quiet (R154). -/
def Fmt.quiet (f : Fmt) (x : Nat) : Bool := decide (x / 2 ^ (f.p - 1) % 2 = 1)

/-! ## Exact quotients and roots -/

/-- The bits of quotients and roots beyond the widest fraction, 32 SR bits and guards. -/
def extraBits : Nat := 160

/-- The quotient of two nonzero magnitudes, with a sticky mark when it is inexact. -/
def divNum (neg : Bool) (m : Nat) (e : Int) (n : Nat) (f : Int) : Num :=
  let k := extraBits + Nat.log2 n + 1
  .fin neg (m * 2 ^ k / n) (e - f - k) (decide (m * 2 ^ k % n ≠ 0))

/-- The whole square root by its binary digits, from bit `i` down. -/
def isqrtFrom (x : Nat) : Nat → Nat → Nat
  | 0, r => if (r + 1) * (r + 1) ≤ x then r + 1 else r
  | i + 1, r =>
    let r' := r + 2 ^ (i + 1)
    isqrtFrom x i (if r' * r' ≤ x then r' else r)

/-- The whole square root. -/
def isqrt (x : Nat) : Nat := isqrtFrom x (Nat.log2 x / 2 + 1) 0

/-- The square root of a positive magnitude. -/
def sqrtNum (m : Nat) (e : Int) : Num :=
  let k : Int := 2 * extraBits + (e % 2)
  let x := m * 2 ^ k.toNat
  let r := isqrt x
  .fin false r ((e - k) / 2) (decide (r * r ≠ x))

/-- The reciprocal square root of a positive magnitude: √(1/x). -/
def rsqrtNum (m : Nat) (e : Int) : Num :=
  let k : Nat := 2 * extraBits + 2 * Nat.log2 m + 2 + (e % 2).toNat
  let x := 2 ^ k / m
  let r := isqrt x
  .fin false r ((-e - (k : Int)) / 2) (decide (r * r * m ≠ 2 ^ k))

/-! ## Transcendental functions (R155) -/

/-- Fraction bits of the fixed-point evaluations: far beyond the 24 fraction bits, 32 SR bits and the closest approach of any
FP32 argument to a rounding boundary (DESIGN CHOICE, log entry 9). -/
def fixBits : Nat := 576

/-- Sum of x^n/n! in fixed point, from term `t` number `n`. -/
def expSeries (x : Nat) : Nat → Nat → Nat → Nat
  | 0, _, t => t
  | k + 1, n, t => t + expSeries x k (n + 1) (t * x / 2 ^ fixBits / (n + 1))

/-- Sum of z^(2k+1)/(2k+1) in fixed point, for z² = `z2`; `p` is the present power. -/
def atanhSeries (z2 : Nat) : Nat → Nat → Nat → Nat
  | 0, _, _ => 0
  | k + 1, n, p => p / n + atanhSeries z2 k (n + 2) (p * z2 / 2 ^ fixBits)

/-- The alternating sum of 1/((2k+1)·q^(2k+1)) in fixed point: arctan(1/q). -/
def arctanInv (q : Nat) : Nat → Nat → Nat → Int
  | 0, _, _ => 0
  | k + 1, n, p => (p / n : Nat) - arctanInv q k (n + 2) (p / (q * q))

/-- ln((1+z)/(1−z)) for a fixed-point z at most 1/3. -/
def lnRatio (z : Nat) : Nat := 2 * atanhSeries (z * z / 2 ^ fixBits) 200 1 z

/-- ln 2 in fixed point. -/
def ln2Fix : Nat := lnRatio (2 ^ fixBits / 3)
/-- π in fixed point, by 16·arctan(1/5) − 4·arctan(1/239). -/
def piFix : Nat :=
  (16 * arctanInv 5 140 1 (2 ^ fixBits / 5) - 4 * arctanInv 239 50 1 (2 ^ fixBits / 239)).toNat

/-- The fixed-point fraction of a magnitude m·2^e below 1. -/
def fixOf (m : Nat) (e : Int) : Nat :=
  let k : Int := e + fixBits
  if 0 ≤ k then m * 2 ^ k.toNat else m / 2 ^ (-k).toNat

/-- floor(±m·2^e) and the fraction above it, in units of 2^e when e is negative. -/
def floorFrac (neg : Bool) (m : Nat) (e : Int) : Int × Nat :=
  if 0 ≤ e then ((if neg then -(m * 2 ^ e.toNat : Nat) else (m * 2 ^ e.toNat : Nat)), 0)
  else
    let d := 2 ^ (-e).toNat
    let x : Int := if neg then -(m : Int) else m
    (x / d, (x % d).toNat)

/-- 2^x (R155). Arguments beyond any format's range are cut to ±100,000. -/
def exp2Num (x : Num) : Num :=
  match x with
  | .nan => .nan
  | .inf n => if n then .dy false 0 0 else .inf false
  | .fin n m e _ =>
    if m ≠ 0 ∧ 17 ≤ (Nat.log2 m : Int) + e then .fin false 1 (if n then -100000 else 100000) n
    else
      let (k, f) := floorFrac n m e
      if f = 0 then .dy false 1 k
      else
        let y := fixOf f e * ln2Fix / 2 ^ fixBits
        .fin false (expSeries y 160 0 (2 ^ fixBits)) (k - fixBits) true

/-- log2 x (R155). -/
def log2Num (x : Num) : Num :=
  match x with
  | .nan => .nan
  | .inf n => if n then .nan else .inf false
  | .fin n m e _ =>
    if m = 0 then .inf true
    else if n then .nan
    else
      let l := Nat.log2 m
      let k : Int := (l : Int) + e
      if m = 2 ^ l then .ofInt k
      else
        let z := (m - 2 ^ l) * 2 ^ fixBits / (m + 2 ^ l)
        let y := lnRatio z * 2 ^ fixBits / ln2Fix
        let v : Int := k * 2 ^ fixBits + y
        if 0 ≤ v then .fin false v.toNat (-(fixBits : Int)) true
        else .fin true ((-v).toNat - 1) (-(fixBits : Int)) true

/-- Sine of a fixed-point angle of at most π/2: x − x³/3! + …, by pairs of terms. -/
def sinSeries (x2 : Nat) : Nat → Nat → Nat → Int
  | 0, _, _ => 0
  | k + 1, n, t => (t : Int) - sinSeries x2 k (n + 2) (t * x2 / 2 ^ fixBits / ((n + 1) * (n + 2)))

/-- sin(π·r) for r = f/d in (0, 1/2), f/d not ½. -/
def sinPiFrac (f d : Nat) : Nat :=
  let x := f * piFix / d
  (sinSeries (x * x / 2 ^ fixBits) 90 1 x).toNat

/-- sin(π·r), r = f/d in [0, 1]: exact at 0, ½ and 1. -/
def sinPiPos (neg : Bool) (f d : Nat) : Num :=
  if f = 0 ∨ f = d then .dy neg 0 0
  else if 2 * f = d then .dy neg 1 0
  else .fin neg (sinPiFrac (if 2 * f < d then f else d - f) d) (-(fixBits : Int)) true

/-- sinPi (R155): the argument is reduced exactly. -/
def sinNum (x : Num) : Num :=
  match x with
  | .nan => .nan
  | .inf _ => .nan
  | .fin n m e _ =>
    if 0 ≤ e then .dy n 0 0
    else
      let d := 2 ^ (-e).toNat
      let r := m % (2 * d)
      if r % d = 0 then .dy n 0 0
      else sinPiPos (n != decide (d ≤ r)) (r % d) d

/-- cosPi (R155): cos(π·x) = sin(π·(½ − x)). -/
def cosNum (x : Num) : Num :=
  match x with
  | .nan => .nan
  | .inf _ => .nan
  | .fin _ m e _ =>
    let d := 2 * 2 ^ (-e).toNat
    let a := 2 * (if 0 ≤ e then m * 2 ^ e.toNat else m)
    let r := a % (2 * d)
    let r := if d < r then 2 * d - r else r
    if 2 * r = d then .dy false 0 0
    else if 2 * r < d then sinPiPos false (d - 2 * r) (2 * d)
    else sinPiPos true (2 * r - d) (2 * d)

/-- 1/x (R155). -/
def rcpNum (x : Num) : Num :=
  match x with
  | .nan => .nan
  | .inf n => .dy n 0 0
  | .fin n m e _ => if m = 0 then .inf n else divNum n 1 0 m e

/-- 1/√x (R155). -/
def rsqNum (x : Num) : Num :=
  match x with
  | .nan => .nan
  | .inf n => if n then .nan else .dy false 0 0
  | .fin n m e _ => if m = 0 then .inf n else if n then .nan else rsqrtNum m e

/-- √x (R155). -/
def rootNum (x : Num) : Num :=
  match x with
  | .nan => .nan
  | .inf n => if n then .nan else .inf false
  | .fin n m e _ => if m = 0 then .dy n 0 0 else if n then .nan else sqrtNum m e

/-! ## Accumulation in the arrays (R136) -/

/-- TRUNC_TO of R137: the signed number of 2^q of x, truncated toward zero. -/
def truncUnits (x : Num) (q : Int) : Int :=
  match x with
  | .fin n m e _ =>
    let k := if q ≤ e then scaleTo m e q else m / 2 ^ (q - e).toNat
    if n then -(k : Int) else (k : Int)
  | _ => 0

/-- A product of the array: a zero product is +0 (R136). -/
def mxProduct (x y : Num) : Num :=
  let p := x.mul y
  if p.isZero then .dy false 0 0 else p

/-- One K-group of R136: the new accumulator word from the old one and the products. -/
def accumulate (acc : BitVec 32) (ps : List Num) : BitVec 32 :=
  let a := val32 acc
  let all := ps ++ [a]
  if all.any Num.isNan then 0x7FC00000
  else if all.contains (.inf false) && all.contains (.inf true) then 0x7FC00000
  else if all.contains (.inf false) then 0x7F800000
  else if all.contains (.inf true) then 0xFF800000
  else
    let nz := all.filter fun x => !x.isZero
    match nz with
    | [] => if a.isZero then acc else 0
    | x :: r =>
      let emax := r.foldl (fun m y => max m y.EXP) x.EXP
      let q := emax - 27
      let v := nz.foldl (fun s y => s + truncUnits y q) 0
      if v = 0 then 0 else rne32 (.dy (decide (v < 0)) v.natAbs q)

end Sys2Proof.Machine
end

