-- ==== Sys2Proof/Machine/Formats.lean ====
section
/-! DEFINITION. Block formats: HX blocks (R131 to R133), OCP elements (R134, R135), the MX block conversions (R160), and the
saturating integer conversions of R130. -/

namespace Sys2Proof.Machine

/-! ## HX blocks -/

/-- An HX format: magnitude bits w and block bits (R131). -/
structure Hx where
  w : Nat
  block : Nat
  deriving DecidableEq, Repr

/-- The HX format of an EFMT code 4, 5 or 6 (R255). -/
def hxOf : Nat → Hx
  | 4 => ⟨2, 64⟩
  | 5 => ⟨4, 96⟩
  | _ => ⟨7, 144⟩

/-- Fraction bits F (R131). -/
def Hx.frac (h : Hx) : Nat := h.w - 1
/-- The 32-bit registers of a block (R158). -/
def Hx.regs (h : Hx) : Nat := (h.block + 31) / 32
/-- E of a block. -/
def Hx.e (h : Hx) (b : Nat) : Nat := b / 2 ^ (h.block - 8) % 256
/-- μ of a block. -/
def Hx.mu (h : Hx) (b : Nat) : Nat := b / 2 ^ (h.block - 16) % 256

/-- Element n of a block (R132): every element of a block with E = 0xFF is NaN, a negative zero reads +0. -/
def Hx.val (h : Hx) (b n : Nat) : Num :=
  if h.e b = 255 then .nan
  else
    let x := b / 2 ^ ((h.w + 1) * n) % 2 ^ (h.w + 1)
    let m := x % 2 ^ h.w
    let mu := h.mu b / 2 ^ (n / 2) % 2
    .dy (decide (m ≠ 0) && decide (2 ^ h.w ≤ x)) m ((h.e b : Int) - 127 - mu - h.frac)

/-- The greatest magnitude among values, with zero for none. -/
def maxMag (xs : List Num) : Num := xs.foldl (fun a x => if a.magLt x then x else a) (.dy false 0 0)

/-- The power of two. -/
def pow2 (e : Int) : Num := .dy false 1 e

/-- E and μ of R133; none when a value is NaN or infinite. -/
def hxScale (xs : List Num) : Option (Nat × Nat) :=
  if xs.any (fun x => x.isNan || x.isInf) then none
  else
    let amax := maxMag xs
    if amax.isZero then some (0, 0)
    else
      let e := (max 0 (min 254 (amax.EXP + 127))).toNat
      let mu := (List.range 8).foldl (fun mu p =>
        let big := maxMag ((xs.drop (2 * p)).take 2)
        if big.magLt (pow2 ((e : Int) - 128)) then mu + 2 ^ p else mu) 0
      some (e, mu)

/-- Quantise 16 values to an HX block (R133). -/
def Hx.quantise (h : Hx) (xs : List Num) (rm : Nat) (sr : Nat → BitVec 32) : Nat :=
  match hxScale xs with
  | none => 255 * 2 ^ (h.block - 8)
  | some (e, mu) =>
    if (maxMag xs).isZero then 0
    else
      let elem (n : Nat) : Nat :=
        match xs.getD n .nan with
        | .fin neg m ex st =>
          let q := (e : Int) - 127 - (mu / 2 ^ (n / 2) % 2 : Nat) - h.frac
          let k := min (roundUnits false m ex st q rm (sr n)) (2 ^ h.w - 1)
          if k = 0 then 0 else k + if neg then 2 ^ h.w else 0
        | _ => 0
      e * 2 ^ (h.block - 8) + mu * 2 ^ (h.block - 16)
        + (List.range 16).foldl (fun s n => s + elem n * 2 ^ ((h.w + 1) * n)) 0

/-! ## OCP elements -/

/-- An OCP element format (R134): exponent bits (0 for MXINT8), fraction bits, bias, the largest finite magnitude as kmax·2^qmax,
and its exponent. -/
structure Ocp where
  width : Nat
  ebits : Nat
  p : Nat
  bias : Nat
  kmax : Nat
  qmax : Int
  emax : Int
  deriving DecidableEq, Repr

/-- The element format of a code of R160: E2M1, E2M3, E3M2, E4M3, E5M2, MXINT8. -/
def ocpOf : Nat → Ocp
  | 0 => ⟨4, 2, 1, 1, 3, 1, 2⟩
  | 1 => ⟨6, 2, 3, 1, 15, -1, 2⟩
  | 2 => ⟨6, 3, 2, 3, 7, 2, 4⟩
  | 3 => ⟨8, 4, 3, 7, 14, 5, 8⟩
  | 4 => ⟨8, 5, 2, 15, 7, 13, 15⟩
  | _ => ⟨8, 0, 6, 0, 127, -6, 0⟩

/-- VAL of an OCP element (R134): a negative zero reads as zero. -/
def ocpVal (code x : Nat) : Num :=
  let f := ocpOf code
  if f.ebits = 0 then
    let v := sextNat x 8
    .dy (decide (v < 0)) v.natAbs (-6)
  else
    let neg := decide (x / 2 ^ (f.width - 1) % 2 = 1)
    let e := x / 2 ^ f.p % 2 ^ f.ebits
    let m := x % 2 ^ f.p
    if code = 3 ∧ e = 15 ∧ m = 7 then .nan
    else if code = 4 ∧ e = 31 then (if m = 0 then .inf neg else .nan)
    else if e = 0 then .dy (neg && decide (m ≠ 0)) m (1 - (f.bias : Int) - f.p)
    else .dy neg (2 ^ f.p + m) ((e : Int) - f.bias - f.p)

/-- The encoding of k·2^q in an OCP element format. -/
def ocpEncode (code : Nat) (neg : Bool) (k : Nat) (q : Int) : Nat :=
  let f := ocpOf code
  if f.ebits = 0 then (if neg then 256 - k else k) % 256
  else
    let s := if neg then 2 ^ (f.width - 1) else 0
    if k < 2 ^ f.p then s + k
    else
      let (k, q) := if k = 2 ^ (f.p + 1) then (k / 2, q + 1) else (k, q)
      s + (q + f.p + f.bias).toNat * 2 ^ f.p + (k - 2 ^ f.p)

/-- Conversion of a value to an OCP element (R135). -/
def ocpRound (code : Nat) (x : Num) (rm : Nat) (sat : Bool) (u : BitVec 32) : Nat :=
  let f := ocpOf code
  let overflowed (neg : Bool) : Nat :=
    if sat || decide (code ≠ 3 ∧ code ≠ 4) then ocpEncode code neg f.kmax f.qmax
    else if code = 3 then 0x7F
    else 0x7C + if neg then 128 else 0
  match x with
  | .nan => if code = 4 then 0x7E else 0x7F
  | .inf n => overflowed n
  | .fin n m e st =>
    let emin : Int := if f.ebits = 0 then 0 else 1 - (f.bias : Int)
    match roundMag f.p emin f.emax f.kmax f.qmax n m e st rm u with
    | .overflow => overflowed n
    | .units k q => if f.kmax * 2 ^ (f.qmax - min q f.qmax).toNat < k * 2 ^ (q - min q f.qmax).toNat then overflowed n
                    else ocpEncode code n k q

/-- emax_elem of R160. -/
def ocpEmax (code : Nat) : Int := (ocpOf code).emax

/-- x·2^k. -/
def Num.scale (x : Num) (k : Int) : Num :=
  match x with
  | .fin n m e st => .fin n m (e + k) st
  | x => x

/-- Quantise 32 values to an MX block (R160): the run of elements and the scale X. A block with a NaN or an infinity among its inputs is all 0
with X = 0xFF, as R160 says, for E4M3 and E5M2 too, where R135 has element values for them (DESIGN CHOICE, log entry 76). -/
def mxQuantise (code : Nat) (xs : List Num) (rm : Nat) (sat : Bool) (sr : Nat → BitVec 32) : Nat × Nat :=
  if xs.any (fun x => x.isNan || x.isInf) then (0, 255)
  else
    let amax := maxMag xs
    let sc := if amax.isZero then 0 else (max 0 (min 254 (amax.EXP - ocpEmax code + 127))).toNat
    let s := (ocpOf code).width
    let elem (n : Nat) : Nat := ocpRound code ((xs.getD n .nan).scale (127 - (sc : Int))) rm sat (sr n)
    ((List.range 32).foldl (fun r n => r + elem n * 2 ^ (s * n)) 0, sc)

/-- Element n of an MX block as an exact value (R134, R160). -/
def mxVal (code run scale n : Nat) : Num :=
  if scale = 255 then .nan
  else
    let s := (ocpOf code).width
    (ocpVal code (run / 2 ^ (s * n) % 2 ^ s)).scale ((scale : Int) - 127)

/-! ## Integers and conversions (R129, R130) -/

/-- WIDTH_OF of a TYPE code: 8, 16, 32, 64 for 1 to 4 and 5 to 8 (R138). -/
def typeWidth (t : Nat) : Nat :=
  match t with
  | 1 => 8 | 5 => 8 | 2 => 16 | 6 => 16 | 9 => 16 | 10 => 16
  | 4 => 64 | 8 => 64 | 12 => 64
  | _ => 32

/-- A signed integer type, codes 1 to 4 (R98). -/
def typeSigned (t : Nat) : Bool := decide (1 ≤ t) && decide (t ≤ 4)

/-- VALUE(x, type) of R138. -/
def valueOf (t : Nat) (x : BitVec 64) : Int :=
  let w := typeWidth t
  if typeSigned t then sextNat x.toNat w else ((x.toNat % 2 ^ w : Nat) : Int)

/-- WRAP(x, w) as the 64 bits that a result of the type is written with: extended by the type's sign (R129, R147). -/
def wrapTo (t : Nat) (x : Int) : BitVec 64 := BitVec.ofInt 64 (valueOf t (BitVec.ofInt 64 x))

/-- The least and the greatest value of a type (R129). -/
def typeMin (t : Nat) : Int := if typeSigned t then -(2 ^ (typeWidth t - 1) : Nat) else 0
/-- The greatest value of a type. -/
def typeMax (t : Nat) : Int :=
  if typeSigned t then (2 ^ (typeWidth t - 1) : Nat) - 1 else (2 ^ typeWidth t : Nat) - 1

/-- SATI(x, type) (R129, R137). -/
def satTo (t : Nat) (x : Int) : Int := max (typeMin t) (min (typeMax t) x)

/-- The value of an operand of any TYPE code (R156): an integer type reads VALUE, an f16 or bf16 reads bits 15:0. -/
def convVal (t : Nat) (x : BitVec 64) : Num :=
  if t ≤ 8 then .ofInt (valueOf t x) else (fmtOf t).val (x.toNat % 2 ^ typeWidth t)

/-- `cvt` (R130, R156): the 64 bits written. Between f16 and bf16, of equal width, a value that the other cannot hold is rounded under RM and
SAT (DESIGN CHOICE, log entry 75). -/
def convert (t st : Nat) (x : BitVec 64) (rm : Nat) (sat : Bool) (u : BitVec 32) : BitVec 64 :=
  if t ≤ 8 then
    if st ≤ 8 then wrapTo t (if sat then satTo t (valueOf st x) else valueOf st x)
    else
      match convVal st x with
      | .nan => 0
      | .inf n => wrapTo t (if n then typeMin t else typeMax t)
      | v => wrapTo t (satTo t (roundInt v rm u))
  else BitVec.ofNat 64 ((fmtOf t).round (convVal st x) rm sat u)

end Sys2Proof.Machine
end

