-- ==== Sys2Proof/Machine/Hash.lean ====
section
/-! DEFINITION. The mix, the keyed hash and the nested scramble (R305), bit for bit. -/

namespace Sys2Proof.Machine

/-- MIX32 (R305). -/
def mix32 (x : BitVec 32) : BitVec 32 :=
  let x := x ^^^ (x >>> 16)
  let x := x * 0x2F6B3A89
  let x := x ^^^ (x >>> 15)
  let x := x * 0xD31C74E5
  x ^^^ (x >>> 16)

/-- The steps of QHASH over its words, from word number `i`. -/
def qhashFrom (hi : BitVec 32) : Nat → BitVec 32 → List (BitVec 32) → BitVec 32
  | _, h, [] => h
  | i, h, w :: r => qhashFrom hi (i + 1) (mix32 (h ^^^ w ^^^ hi.rotateLeft (4 * i))) r

/-- QHASH (R305). -/
def qhash (k : BitVec 64) (ws : List (BitVec 32)) : BitVec 32 :=
  qhashFrom (k.extractLsb' 32 32) 0 (mix32 (k.setWidth 32 ^^^ BitVec.ofNat 32 ws.length)) ws

/-- The flips of SCRAMBLE for bits below `b`, from the top down (R305). -/
def scrambleFrom (x s : BitVec 32) : Nat → BitVec 32 → BitVec 32
  | 0, y => y
  | b + 1, y =>
    let pre := x >>> (b + 1)
    let flip := (mix32 (s ^^^ mix32 (pre ^^^ (0x01000193 * BitVec.ofNat 32 (b + 1))))).getLsbD 0
    scrambleFrom x s b (if flip then y ^^^ ((1 : BitVec 32) <<< b) else y)

/-- SCRAMBLE (R305). -/
def scramble (x s : BitVec 32) : BitVec 32 := scrambleFrom x s 32 x

end Sys2Proof.Machine
end

