-- ==== Sys2Proof/Config.lean ====
section
/-! DEFINITION. What one package fixes and what the spec leaves open: constants without a body (free values), and the
capacities that R2 and the chapters state as numbers. -/

namespace Sys2Proof.Config

/-- A free 64-bit value, fresh for every count of `State.free` (DESIGN CHOICE, log entry 2). -/
opaque freeDword : Nat → BitVec 64

/-- The free choice among equals that R17 and R42 leave to the device (DESIGN CHOICE, log entry 8). -/
opaque pick : Nat → Nat
/-- The same for the several choices, by number, that one count of `State.free` serves (DESIGN CHOICE, log entry 8). -/
opaque pickOf : Nat → Nat → Nat

/-- The XTS key of a key slot, its data key in the low half: made on the package, and never leaving it (R389; DESIGN CHOICE, log entry 5). -/
opaque xtsKey : BitVec 13 → BitVec 512

/-- The highest package number of the pod (R51), fixed where the package is installed (DESIGN CHOICE, log entry 57). -/
opaque podHighest : Nat

/-- The identity key's secret number, and the number that each of its signatures takes (R399; DESIGN CHOICE, log entry 57). -/
opaque identitySecret : Nat
opaque identityNonce : Nat → Nat

/-- The secret number of the Tolrix key, whose public key the boot ROM holds, and the number that its signature of the factory record takes
(R396, R398, R400; DESIGN CHOICE, log entry 57). -/
opaque tolrixSecret : Nat
opaque tolrixNonce : Nat

/-- The public key that a root monitor holds for an OPKEY; it counts only if it hashes to that OPKEY (R398; DESIGN CHOICE, log entry 57). -/
opaque operatorKey : BitVec 384 → List (BitVec 8)

/-- OPKEY of the factory record (R398; DESIGN CHOICE, log entry 6). -/
opaque factoryOpkey : BitVec 384

/-- The images of target classes 0 to 6 in flash as the package is made (R396, R401; DESIGN CHOICE, log entry 6). -/
opaque factoryImage : Nat → List (BitVec 8)

/-- The identity certificate (R399, R410; DESIGN CHOICE, log entry 57). -/
opaque identityCert : List (BitVec 8)

/-- Does an unwind release the array holds of its group, as R265 says, or does the group keep them, as R335 says? The spec does not
settle it, and no statement here rests on it (DESIGN CHOICE, log entry 26). -/
opaque unwindReleases : Bool

/-- Present cores of the pod's other packages (R31; DESIGN CHOICE, log entry 57). -/
opaque podCores : Nat

/-- Present cores of the largest other package of the pod (R31; DESIGN CHOICE, log entry 57). -/
opaque podLargest : Nat

/-- CRADDR of an uncorrectable array error (R275): its bank, half and row, in a form that the spec does not give (DEDUCED, log entry 31). -/
opaque arrayErrorAddr : Nat → Nat → Nat → BitVec 64

/-- Bytes of DRAM beneath one die: 96 GiB (R2). -/
def dramBytes : Nat := 96 * 1073741824

/-- Logical cores of a package (R2, R4). -/
def cores : Nat := 448

/-- Logical cores of one die (R4). -/
def coresPerDie : Nat := 112

/-- Logical cores of one quadrant (R4). -/
def coresPerQuadrant : Nat := 28

end Sys2Proof.Config
end

