-- ==== Sys2Proof/Machine/Crypto.lean ====
section
/-! DEFINITION. The algorithms that the spec names: SHA-384 (R399, R400, R410), ECDSA over P-384 (R398, R400, R410) and AES-256 in XTS
mode (R389). Their tables are computed from the standards' own definitions (PRESUMED, log entry 49: the standards stand outside the
spec). -/

namespace Sys2Proof.Machine

/-! ## SHA-384 -/

/-- The greatest number whose `k`-th power is at most `x`, found bit by bit from bit `n` down. -/
def rootFrom (k x : Nat) : Nat → Nat → Nat
  | 0, r => r
  | n + 1, r => if (r + 2 ^ n) ^ k ≤ x then rootFrom k x n (r + 2 ^ n) else rootFrom k x n r

/-- Is a number prime, by trial of the numbers below it? -/
def isPrime (n : Nat) : Bool := decide (2 ≤ n) && (List.range n).all fun d => decide (d < 2) || decide (n % d ≠ 0)

/-- The first 80 primes. -/
def shaPrimes : List Nat := (List.range 410).filter isPrime

/-- The 64 bits after the binary point of the `k`-th root of a number. -/
def rootBits (k x : Nat) : BitVec 64 := BitVec.ofNat 64 (rootFrom k (x * 2 ^ (64 * k)) 70 0)

/-- The 80 round constants: cube roots of the first 80 primes. -/
def shaK : List (BitVec 64) := shaPrimes.map (rootBits 3)

/-- The initial hash value of SHA-384: square roots of the ninth to the sixteenth prime. -/
def shaInit : List (BitVec 64) := ((shaPrimes.drop 8).take 8).map (rootBits 2)

/-- The small sigma functions of the message schedule. -/
def shaSmall (x : BitVec 64) (a b c : Nat) : BitVec 64 := x.rotateRight a ^^^ x.rotateRight b ^^^ (x >>> c)

/-- The message schedule: `n` further words after the sixteen last ones, newest first. -/
def shaSchedule : Nat → List (BitVec 64) → List (BitVec 64)
  | 0, w => w
  | n + 1, w =>
    let g (i : Nat) : BitVec 64 := w.getD (i - 1) 0
    shaSchedule n ((shaSmall (g 2) 19 61 6 + g 7 + shaSmall (g 15) 1 8 7 + g 16) :: w)

/-- One round on the working variables a to h. -/
def shaRound (v : List (BitVec 64)) (kw : BitVec 64) : List (BitVec 64) :=
  match v with
  | [a, b, c, d, e, f, g, h] =>
    let s1 := e.rotateRight 14 ^^^ e.rotateRight 18 ^^^ e.rotateRight 41
    let t1 := h + s1 + ((e &&& f) ^^^ (~~~e &&& g)) + kw
    let s0 := a.rotateRight 28 ^^^ a.rotateRight 34 ^^^ a.rotateRight 39
    let t2 := s0 + ((a &&& b) ^^^ (a &&& c) ^^^ (b &&& c))
    [t1 + t2, a, b, c, d + t1, e, f, g]
  | _ => v

/-- One block of 16 words into the hash value. -/
def shaBlock (h w : List (BitVec 64)) : List (BitVec 64) :=
  let ws := (shaSchedule 64 w.reverse).reverse
  let v := (shaK.zip ws).foldl (fun v e => shaRound v (e.1 + e.2)) h
  (h.zip v).map fun e => e.1 + e.2

/-- Bytes as a big-endian number. -/
def beNat (l : List Byte) : Nat := l.foldl (fun n b => n * 256 + b.toNat) 0

/-- The `n` big-endian bytes of a number. -/
def beBytes (n x : Nat) : List Byte := (leBytes n x).reverse

/-- A message with its padding and its length in bits, a whole number of 128-byte blocks. -/
def shaPad (m : List Byte) : List Byte :=
  m ++ [0x80] ++ List.replicate ((239 - m.length % 128) % 128) 0 ++ beBytes 16 (8 * m.length)

/-- The blocks of a padded message, each of 16 words. -/
def shaWords : Nat → List Byte → List (List (BitVec 64))
  | 0, _ => []
  | n + 1, l => ((List.range 16).map fun i => BitVec.ofNat 64 (beNat ((l.drop (8 * i)).take 8))) :: shaWords n (l.drop 128)

/-- SHA-384, its 48 bytes as a big-endian number. -/
def sha384 (m : List Byte) : BitVec 384 :=
  let p := shaPad m
  let h := (shaWords (p.length / 128) p).foldl shaBlock shaInit
  BitVec.ofNat 384 (beNat ((h.take 6).flatMap fun x => beBytes 8 x.toNat))

/-! ## ECDSA over P-384 -/

/-- The prime of P-384. -/
def p384 : Nat := 2 ^ 384 - 2 ^ 128 - 2 ^ 96 + 2 ^ 32 - 1
/-- The order of its base point. -/
def n384 : Nat := 0xFFFFFFFFFFFFFFFFFFFFFFFFFFFFFFFFFFFFFFFFFFFFFFFFC7634D81F4372DDF581A0DB248B0A77AECEC196ACCC52973
/-- Its coefficient b; a is −3. -/
def b384 : Nat := 0xB3312FA7E23EE7E4988E056BE3F82D19181D9C6EFE8141120314088F5013875AC656398D8A2ED19D2A85C8EDD3EC2AEF
/-- Its base point. -/
def g384 : Nat × Nat :=
  (0xAA87CA22BE8B05378EB1C71EF320AD746E1D3B628BA79B9859F741E082542A385502F25DBF55296C3A545E3872760AB7,
   0x3617DE4A96262C6F5D9E98BF9292DC29F8F41DBD289A147CE9DA3113B5F0B8C00A60B1CE1D7E819D7A431D7C90EA0E5F)

/-- A power modulo m, over the low `n` bits of the exponent. -/
def powMod (m : Nat) : Nat → Nat → Nat → Nat
  | 0, _, _ => 1 % m
  | n + 1, x, e => let r := powMod m n (x * x % m) (e / 2); if e % 2 = 1 then r * x % m else r

/-- The inverse modulo a prime of 384 bits. -/
def invMod (m x : Nat) : Nat := powMod m 384 (x % m) (m - 2)

/-- The sum of two points; none is the point at infinity. -/
def ecAdd : Option (Nat × Nat) → Option (Nat × Nat) → Option (Nat × Nat)
  | none, q => q
  | p, none => p
  | some (x, y), some (u, v) =>
    let p := p384
    if x = u ∧ (y + v) % p = 0 then none
    else
      let l := if x = u then (3 * x * x + (p - 3)) * invMod p (2 * y) % p else (v + p - y) * invMod p (u + p - x) % p
      let w := (l * l + 2 * p - x - u) % p
      some (w, (l * (x + p - w) + p - y) % p)

/-- A multiple of a point, over the low `n` bits of the factor. -/
def ecMul : Nat → Nat → Option (Nat × Nat) → Option (Nat × Nat)
  | 0, _, _ => none
  | n + 1, k, p =>
    let r := ecMul n (k / 2) (ecAdd p p)
    if k % 2 = 1 then ecAdd r p else r

/-- Is a point on the curve? -/
def onCurve (x y : Nat) : Bool := decide (x < p384) && decide (y < p384) && decide (y * y % p384 = (x * x * x + (p384 - 3) * x + b384) % p384)

/-- A public key or a signature: two numbers of 48 bytes, little-endian as every multi-byte value is (R8). -/
def twoNumbers (l : List Byte) : Nat × Nat := (leNat (l.take 48), leNat ((l.drop 48).take 48))

/-- Is a signature of 96 bytes, r before s, good for a digest under a public key of 96 bytes, x before y? -/
def ecdsaGood (key : List Byte) (digest : BitVec 384) (sig : List Byte) : Bool :=
  let (x, y) := twoNumbers key
  let (r, s) := twoNumbers sig
  if r = 0 ∨ n384 ≤ r ∨ s = 0 ∨ n384 ≤ s ∨ !onCurve x y then false
  else
    let w := invMod n384 s
    let z := digest.toNat
    match ecAdd (ecMul 384 (z * w % n384) (some g384)) (ecMul 384 (r * w % n384) (some (x, y))) with
    | none => false
    | some (u, _) => decide (u % n384 = r)

/-- The signature of a digest by a secret number with a nonce. -/
def ecdsaSign (secret nonce : Nat) (digest : BitVec 384) : List Byte :=
  match ecMul 384 nonce (some g384) with
  | none => List.replicate 96 0
  | some (u, _) =>
    let r := u % n384
    leBytes 48 r ++ leBytes 48 (invMod n384 nonce * (digest.toNat + r * secret) % n384)

/-- The public key of a secret number. -/
def ecdsaPublic (secret : Nat) : List Byte :=
  match ecMul 384 secret (some g384) with
  | none => List.replicate 96 0
  | some (x, y) => leBytes 48 x ++ leBytes 48 y

/-- The Tolrix public key in the boot ROM, x before y (R396). -/
def tolrixKey : List Byte := ecdsaPublic Config.tolrixSecret

/-! ## AES-256 in XTS mode -/

/-- A product in the field of AES, over `n` bits of the second factor. -/
def gfMul : Nat → BitVec 8 → BitVec 8 → BitVec 8
  | 0, _, _ => 0
  | n + 1, a, b =>
    let r := gfMul n ((a <<< 1) ^^^ (if a.getLsbD 7 then 0x1B else 0)) (b >>> 1)
    if b.getLsbD 0 then r ^^^ a else r

/-- The inverse in the field of AES, the 254th power; 0 for 0. -/
def gfInv (a : BitVec 8) : BitVec 8 :=
  let sq (x : BitVec 8) : BitVec 8 := gfMul 8 x x
  let a2 := sq a
  let a4 := sq a2
  let a8 := sq a4
  let a16 := sq a8
  let a32 := sq a16
  let a64 := sq a32
  let a128 := sq a64
  gfMul 8 (gfMul 8 (gfMul 8 a2 a4) (gfMul 8 a8 a16)) (gfMul 8 (gfMul 8 a32 a64) a128)

/-- The S-box. -/
def sbox (a : BitVec 8) : BitVec 8 :=
  let b := gfInv a
  b ^^^ b.rotateLeft 1 ^^^ b.rotateLeft 2 ^^^ b.rotateLeft 3 ^^^ b.rotateLeft 4 ^^^ 0x63

/-- The inverse S-box. -/
def sboxInv (a : BitVec 8) : BitVec 8 := gfInv (a.rotateLeft 1 ^^^ a.rotateLeft 3 ^^^ a.rotateLeft 6 ^^^ 0x05)

/-- `n` further words of the key schedule, from number `i` on; words are lists of four bytes, newest first. -/
def aesExpand : Nat → Nat → BitVec 8 → List (List (BitVec 8)) → List (List (BitVec 8))
  | 0, _, _, w => w
  | n + 1, i, rcon, w =>
    let t := w.headD []
    let t := if i % 8 = 0 then
        match (t.drop 1 ++ t.take 1).map sbox with
        | x :: r => (x ^^^ rcon) :: r
        | [] => []
      else if i % 8 = 4 then t.map sbox else t
    let next := ((w.getD 7 []).zip t).map fun e => e.1 ^^^ e.2
    aesExpand n (i + 1) (if i % 8 = 0 then gfMul 8 rcon 2 else rcon) (next :: w)

/-- The fifteen round keys of a key of 32 bytes. -/
def aesKeys (key : List (BitVec 8)) : List (List (BitVec 8)) :=
  let ws := (aesExpand 52 8 1 ((List.range 8).map fun i => (key.drop (4 * i)).take 4).reverse).reverse
  (List.range 15).map fun i => ((ws.drop (4 * i)).take 4).flatten

/-- Bytes of two blocks added. -/
def aesXor (a b : List (BitVec 8)) : List (BitVec 8) := (a.zip b).map fun e => e.1 ^^^ e.2

/-- Rotate the rows of a block, column by column in memory: row r by r columns, forward or back. -/
def aesShift (back : Bool) (b : List (BitVec 8)) : List (BitVec 8) :=
  (List.range 16).map fun i => b.getD ((i + (if back then 12 else 4) * (i % 4)) % 16) 0

/-- Multiply each column by the circulant matrix with first row c. -/
def aesMix (c : List (BitVec 8)) (b : List (BitVec 8)) : List (BitVec 8) :=
  (List.range 16).map fun i =>
    (List.range 4).foldl (fun x j => x ^^^ gfMul 8 (b.getD (i / 4 * 4 + (i + j) % 4) 0) (c.getD j 0)) 0

/-- Encrypt a block of 16 bytes. -/
def aesEncrypt (key b : List (BitVec 8)) : List (BitVec 8) :=
  let ks := aesKeys key
  let mid := ((ks.drop 1).take 13).foldl (fun b k => aesXor (aesMix [2, 3, 1, 1] (aesShift false (b.map sbox))) k) (aesXor b (ks.headD []))
  aesXor (aesShift false (mid.map sbox)) (ks.getD 14 [])

/-- Decrypt a block of 16 bytes. -/
def aesDecrypt (key b : List (BitVec 8)) : List (BitVec 8) :=
  let ks := aesKeys key
  let mid := ((ks.drop 1).take 13).reverse.foldl
    (fun b k => aesMix [14, 11, 13, 9] (aesXor ((aesShift true b).map sboxInv) k)) (aesXor b (ks.getD 14 []))
  aesXor ((aesShift true mid).map sboxInv) (ks.headD [])

/-- The next tweak block: the present one doubled in the field of XTS. -/
def xtsDouble (t : List (BitVec 8)) : List (BitVec 8) :=
  let x := leNat t * 2
  leBytes 16 (if 2 ^ 128 ≤ x then (x - 2 ^ 128) ^^^ 0x87 else x)

/-- A data unit of 32 bytes under a key of 64 bytes, its data key before its tweak key, and the unit's tweak. -/
def xts (enc : Bool) (key : List (BitVec 8)) (tweak : Nat) (d : List (BitVec 8)) : List (BitVec 8) :=
  let t0 := aesEncrypt (key.drop 32) (leBytes 16 tweak)
  let block (t b : List (BitVec 8)) : List (BitVec 8) :=
    let x := aesXor b t
    aesXor (if enc then aesEncrypt (key.take 32) x else aesDecrypt (key.take 32) x) t
  block t0 (d.take 16) ++ block (xtsDouble t0) (d.drop 16)

end Sys2Proof.Machine
end

