-- ==== Sys2Proof/Machine/State.lean ====
section
/-! DEFINITION. The state of one Igelo package as plain data: threads, groups, cores, array halves, dies, queries, launches,
partitions, the network and the fleet state, with State.reset, and the reasons for which a step stops. -/

namespace Sys2Proof.Machine

/-! ## Reasons to stop -/

/-- Why the machine stops. -/
inductive Fault where
  /-- Raised by a step with no turn waiting after a thermal trip removed power from the compute dies (R412): no clock of theirs goes by.
  Safe: the spec gives the dies no further step. -/
  | powerLost
  deriving DecidableEq, Repr

/-- Why a step has no meaning. -/
inductive Refusal where
  /-- Raised only by an arm of `exec` that has no meaning yet. Safe: nothing is claimed. -/
  | notModelled (mnemonic : String)
  deriving DecidableEq, Repr

/-! ## Threads -/

/-- A destination of the lookahead rule (R10): a lane register by its operand code, an `s` register, a predicate, or one of the
three record registers (R243). -/
inductive Dest where
  | reg (c : Nat)
  | sreg (n : Nat)
  | pred (n : Nat)
  | recTs
  | recSeq
  | recFlags
  deriving DecidableEq, Repr

/-- The values an instruction read at its issue: what a replay of it reads (R329, R343). -/
structure Snap where
  regs : Sparse 32
  sregs : Sparse 64
  preds : BitVec 8
  deriving DecidableEq, Repr

/-- How an open long-latency instruction goes on. -/
inductive OState where
  /-- Its access has been performed; its result has not yet arrived (R10). -/
  | latent
  /-- It waits in a tagged word's wait list (R172). -/
  | tagWait
  /-- It is executed again, with the values it read at issue, when its event comes (R323, R12, R230). -/
  | redo
  /-- It has consumed an uncorrectable error, whose report is on its way to the core (R333, R334). -/
  | aborted
  /-- Its result has arrived. -/
  | done
  /-- It failed with a cause and a faulting address (R329). -/
  | failed (cause : BitVec 32) (faddr : BitVec 64)
  deriving DecidableEq, Repr

/-- An open lookahead window (R10). -/
structure Outstanding where
  oid : Nat
  pc : BitVec 64
  word : BitVec 64
  /-- How many more instructions may issue before the thread waits. -/
  left : Nat
  /-- How many instructions of the window have issued (R329). -/
  issued : Nat
  state : OState
  /-- Its result, by destination; written when the window closes. -/
  writes : List (Dest × BitVec 64)
  /-- The destinations of later instructions of the window, with the PC of each writer: their values win (R10). -/
  later : List (BitVec 64 × Dest)
  snap : Snap
  /-- The clock at which its unloaded latency ends, and its result arrives if nothing holds it (R61, R366). -/
  due : Nat
  deriving DecidableEq, Repr

/-- What a thread that is not READY waits for (R18). -/
inductive Why where
  | latency
  | windows
  | scoreboard
  /-- Group-space accesses to the rank that its group leaves are still to complete (R38, R211). -/
  | leaving
  /-- Earlier accesses of its own open windows are still to be performed (R62, R168). -/
  | access
  /-- Its request waits at the injection port for tokens (R371). -/
  | gust
  /-- Its request needs a sub-bus whose lane is being swapped (R404). -/
  | subBus
  | engineRoom
  | queueBusy
  | drain
  | yielding
  | collTag
  | tag
  | fault
  | barrier (n : Nat)
  | decisionPop
  | decisionPush
  | rejoin (j : Nat)
  | record
  | sink
  | handler
  | poolSlot
  | merge
  /-- A change of its group's QRU context is in progress (R310). -/
  | quasi
  /-- It has been stopped by the end or the unwind of its group, until what it has issued is performed (R293, R335). -/
  | stopped
  deriving DecidableEq, Repr

/-- The states of a thread slot but FREE, which is no thread, and SAVED, which is a saved image (R18). -/
inductive Status where
  | ready
  | waiting (w : Why)
  | parked (w : Why)
  deriving DecidableEq, Repr

/-- The origin record of a trapped thread (R207, R329). -/
structure TrapRec where
  cause : BitVec 32
  pc : BitVec 64
  word : BitVec 64
  faddr : BitVec 64
  skip : BitVec 15
  pass : Bool
  /-- Window words that issued and failed, with the values they read (R329). -/
  replays : List (BitVec 64 × Snap)
  /-- What the completed window words wrote, with the PC of each writer (R329). -/
  wrote : List (BitVec 64 × Dest)
  /-- A failure of a drain at the trap's own release: its cause and address (R177). -/
  held : Option (BitVec 32 × BitVec 64)
  deriving DecidableEq, Repr

/-- The %trap registers (R93, R106, R297, R327). -/
structure TrapRegs where
  cause : BitVec 32
  pc : BitVec 64
  word : BitVec 64
  op : BitVec 32
  d : BitVec 32
  a : BitVec 32
  b : BitVec 32
  c : BitVec 32
  imm : BitVec 32
  deriving DecidableEq, Repr

/-- An access that has issued and waits to be performed: the first command number taken after its arrival at a scratchpad whose range
scoreboard keeps it, if it is there (R53), the clock at which its unloaded latency ends (R366), its first byte and its bytes, whether the
address was of group space, and its word. -/
structure Hold where
  since : Option Nat
  due : Nat
  key : Nat
  size : Nat
  gs : Bool
  word : BitVec 64
  deriving DecidableEq, Repr

/-- A lane thread, a steward or a handler thread (R15, R25, R327). -/
structure Thread where
  /-- PC, 8-byte aligned (R15). -/
  pc : BitVec 64
  /-- v0-v127, q0-q15, h0-h3 at their operand codes 0x00 to 0x93 (R43, R91). -/
  regs : Sparse 32
  /-- s0-s63 of a steward (R25). -/
  sregs : Sparse 64
  /-- k0-k7 or g0-g7; bit 0 holds true (R43, R25). -/
  preds : BitVec 8
  /-- j0 to j3: the rejoin set each names, 0 for the empty set (R198). -/
  j0 : Nat
  j1 : Nat
  j2 : Nat
  j3 : Nat
  /-- The hardware return stack, newest first, at most 8 (R197). -/
  rstack : List (BitVec 64)
  /-- The call depth, 0 to 16 (R197). -/
  depth : Nat
  /-- The SR count (R128). -/
  srCount : BitVec 32
  /-- %bereaved bit 0 (R93, R171). -/
  bereaved : Bool
  /-- %join.bereaved bit 0 (R93, R200). -/
  joinBereaved : Bool
  /-- %rec.ts, %rec.seq, %rec.flags (R220). -/
  recTs : BitVec 64
  recSeq : BitVec 64
  recFlags : BitVec 32
  /-- %win.id and %win.start (R224). -/
  winId : BitVec 32
  winStart : BitVec 64
  /-- %trap registers of a handler thread; zero elsewhere (R93). -/
  trapRegs : TrapRegs
  /-- Home lane and present slot (R16, R23). -/
  lane : Nat
  slot : Nat
  /-- %tid (R23). -/
  tid : BitVec 32
  status : Status
  /-- The clock at which the thread became READY (R365). -/
  readySince : Nat
  /-- Open lookahead windows, oldest first (R10). -/
  wins : List Outstanding
  /-- The origin record while a handler runs, or waits to run, for this thread (R329). -/
  trapRec : Option TrapRec
  /-- The origin of a handler thread; none for an estate handler (R297). -/
  origin : Option Who
  /-- The group whose handler this is, or the group it belongs to (R19, R326). -/
  gid : Nat
  /-- Its launch and %grp, which an estate handler keeps after its group (R297). -/
  lid : Nat
  grp : BitVec 32
  /-- Decision-queue entries this thread has popped or need not pop, as a count of pushes (R12). -/
  dqPos : Nat
  /-- The window or pane of a window thread: query and window (R219). -/
  win : Option (Nat × Nat)
  /-- The call depth at merge entry while MERGING (R246). -/
  mergeDepth : Option Nat
  /-- Words that the origin passes over after `tret` (R329). -/
  skips : List (BitVec 64)
  /-- Words that execute again with recorded values after `tret` (R329). -/
  replays : List (BitVec 64 × Snap)
  /-- What completed words of a trapped window have written, with the PC of each writer, while its words execute again (R329). -/
  wrote : List (BitVec 64 × Dest)
  /-- The recorded values that the present instruction reads in place of the registers (R329, R343). -/
  view : Option Snap
  /-- The window entry that the present execution completes (R323). -/
  redo : Option Nat
  /-- Its issued accesses that wait: of the present instruction under 0, of an open window entry under its number (R38, R53, R293). -/
  held : KV Nat Hold
  /-- Its unfinished instructions that have sent their quarter's buffer at a flush point: 0 the present one, else an open window entry's
  number (R58). -/
  flushed : List Nat
  /-- It has been stopped, and only performs what it has issued (R293, R331, R335, R422). -/
  last : Bool
  deriving DecidableEq, Repr

/-! ## Groups -/

/-- An arrival mask of a numbered barrier (R13). -/
structure Barrier where
  steward : Bool
  lanes : List Nat
  deriving DecidableEq, Repr

/-- A decision-queue entry: its push number, its value and the threads that have yet to pop it (R12). -/
structure DqEntry where
  num : Nat
  value : BitVec 64
  owed : List Nat
  deriving DecidableEq, Repr

/-- An estate entry (R283). -/
structure Entry where
  /-- 0 LOCK, 1 PROMISE, 2 SLOT, 3 MEMBER, 4 COPY, 5 LAUNCH. -/
  kind : Nat
  /-- The space of a tagged object: 0 `.sp`, 1 `.gs`, 2 `.gl`. -/
  space : Nat
  /-- The object's address, the rank of a MEMBER, or the queue control of a SLOT. -/
  addr : BitVec 64
  /-- The count of a SLOT, and the group whose queue it is. -/
  count : Nat
  qgid : Nat
  heir : BitVec 32
  conv : Bool
  /-- %grp of the conveying group, or all ones (R292). -/
  fromGrp : BitVec 64
  /-- A free entry reserved while a `hold.lock` or `promise` waits (R286); not held. -/
  waiting : Bool
  deriving DecidableEq, Repr

/-- A queue binding (R261, R287). -/
structure QBind where
  /-- `.sp` offset of the queue control word. -/
  ofs : Nat
  rsvd : Nat
  /-- The storage as `qcset` bound it: its `.sp` offset and its bytes (R66). -/
  base : Nat
  bytes : Nat
  /-- Stopped under R56, so that the next engine instruction traps. -/
  bad : Bool
  deriving DecidableEq, Repr

/-- A containment region (R213). -/
structure Region where
  handler : BitVec 64
  base : BitVec 64
  len : Nat
  gl : Bool
  deriving DecidableEq, Repr

/-- A rejoin set (R198). -/
structure RejoinSet where
  j : Nat
  pc : BitVec 64
  /-- The clock of its marking (R199). -/
  clock : Nat
  members : List Nat
  arrived : List Nat
  lost : Bool
  deriving DecidableEq, Repr

/-- The QRU context (R300). -/
structure Qru where
  tbase : BitVec 64
  tdims : Nat
  taofs : Nat
  wcap : Nat
  wbase : Nat
  wdims : Nat
  seedKey : BitVec 64
  deriving DecidableEq, Repr

/-- A group (R22). -/
structure Group where
  lid : Nat
  /-- %grp (R23). -/
  grp : BitVec 32
  part : Nat
  core : Nat
  /-- Group place 0 to 3 (R22). -/
  place : Nat
  /-- Scratchpad base in bytes and units of 4 KiB (R45). -/
  spBase : Nat
  spUnits : Nat
  bars : KV Nat Barrier
  dq : List DqEntry
  /-- Decision-queue pushes so far (R12). -/
  dqPushed : Nat
  estate : KV Nat Entry
  queues : KV Nat QBind
  /-- Open containment regions, innermost first (R213). -/
  regions : List Region
  crCause : BitVec 32
  crAddr : BitVec 64
  crSkip : BitVec 32
  qru : Option Qru
  /-- DSER (R276). -/
  dser : BitVec 32
  /-- An asynchronous fault waiting for the steward: its cause and address (R264). -/
  asyncFault : Option (BitVec 32 × BitVec 64)
  /-- The sharing set and the rank held (R36). -/
  share : Option Nat
  rank : Option Nat
  sets : KV Nat RejoinSet
  /-- The next rejoin set number (model's own). -/
  setNext : Nat
  /-- The window query (R219). -/
  query : Option Nat
  /-- Reserved slots of a window query: lane and slot of each %tid (R219). -/
  reserved : List (Nat × Nat)
  /-- The array halves it holds (R253). -/
  halves : List Nat
  /-- Its estate is being conveyed at its end or its kill (R293, R331): it is no heir and it is not saved. -/
  ending : Bool
  /-- The clock in which its end began: ends of one clock are processed in ascending %grp (R293). -/
  endClock : Nat
  /-- Its estate has been conveyed, and only its place has still to be freed (R293 step 6). -/
  gone : Bool
  /-- The completion words that the cancelled commands of its end or unwind have filled, whose waiters are still to be served (R293). -/
  filled : List Nat
  /-- Its rank is revoked: accesses issued from now on find none, and those issued before are still to complete (R38, R211). -/
  leaving : Bool
  /-- Its threads have stopped for an unwind, whose other steps follow once what they had issued is performed: the cause and the address
  of the error (R335). -/
  unwinding : Option (BitVec 32 × BitVec 64)
  /-- Its threads and queued commands have stopped issuing for a save (R338 step 1). -/
  saving : Bool
  /-- An instruction of it has issued: it is live (R293). -/
  began : Bool
  /-- How many unwinds it has been through: a report of an error from before the last one unwinds nothing (R336). -/
  epoch : Nat
  deriving DecidableEq, Repr

/-! ## Launches -/

/-- A level descriptor (R30). -/
structure Level where
  share : Bool
  scope : Nat
  domain : Nat
  extent : Nat
  deriving DecidableEq, Repr

/-- Who launched (R353, R357, R362). -/
inductive LSource where
  | device (gid : Nat) (acq rel : Bool) (scope : Nat)
  | node (die graph node : Nat)
  | host
  deriving DecidableEq, Repr

/-- A launch that has been accepted and has not completed (R33, R357). -/
structure Launch where
  part : Nat
  die : Nat
  source : LSource
  record : BitVec 64
  doneWord : BitVec 64
  prio : Nat
  membound : Bool
  laneEntry : BitVec 64
  stewEntry : BitVec 64
  spUnits : Nat
  paramLen : Nat
  heirGrp : BitVec 32
  estHandler : BitVec 64
  illHandler : BitVec 64
  trapHandler : BitVec 64
  winBlock : BitVec 64
  qruDesc : BitVec 64
  key : BitVec 64
  levels : List Level
  /-- The record's 32 words of 64 bits, read once (R33). -/
  raw : List (BitVec 64)
  /-- The QRU context that each group starts with (R300, R301). -/
  qru : Option Qru
  /-- fs0 to fs7 (R255). -/
  fs : List (BitVec 64)
  /-- The checks of R34 have passed. -/
  checked : Bool
  /-- The next %grp to place. -/
  placed : Nat
  /-- Groups that have ended. -/
  ended : Nat
  /-- The domain instance chosen for each level instance (R359). -/
  insts : KV (Nat × Nat) Nat
  /-- Group heirs, kept after their groups (R284). -/
  heirs : KV Nat (BitVec 32)
  /-- %grp of each group that has ended (R294). -/
  dead : List Nat
  /-- Reports and estate handlers that have not ended (R297). -/
  reports : Nat
  /-- KILLED, UNWOUND, HEIRLESS, TRAPPED, PREEMPTED (R357). -/
  status : BitVec 5
  /-- The pending-launch store entry (R363). -/
  storeEntry : Option Nat
  accepted : Nat
  waitingSince : Nat
  query : Option Nat
  done : Bool
  deriving DecidableEq, Repr

/-! ## Engine commands, arrays, collectives -/

/-- An accepted engine command: `cp`, `gth` or `cpb` (R184, R267). -/
inductive CmdKind where
  | cp
  | gth
  | cpb
  deriving DecidableEq, Repr

/-- An engine command from acceptance to completion (R187). -/
structure Cmd where
  kind : CmdKind
  gid : Nat
  part : Nat
  core : Nat
  /-- The descriptor's 64-bit words. -/
  desc : List (BitVec 64)
  acq : Bool
  rel : Bool
  scope : Nat
  /-- Destination sectors, or columns of lines, already done (R191, R344). -/
  progress : Nat
  /-- The sectors, elements or columns of lines that failed (R189). -/
  failed : List Nat
  /-- The cause of the failure at the lowest destination address (R189). -/
  cause : BitVec 16
  /-- The address of a source sector that aborted (R190). -/
  aborted : Option (BitVec 64)
  /-- Pages that a TRAP reply has refused to the present sector, with their causes (R325). -/
  refused : List (Nat × BitVec 32)
  /-- How many of the requests of the present sector have been injected (R371). -/
  paid : Nat
  /-- A copy with a queue destination waits for room (R188). -/
  waitsRoom : Bool
  /-- Held at a page fault (R188). -/
  held : Bool
  /-- `cpb`: started in its halves' queues (R263). -/
  started : Bool
  /-- A replay of the fill log fills no completion word (R268). -/
  silent : Bool
  /-- How many columns of lines such a replay fills: those that a fill had filled which goes on with the rest itself (R268, R338). -/
  limit : Option Nat
  deriving DecidableEq, Repr

/-- A command of a half's queue (R263). -/
inductive MxKind where
  | zero (bank : Nat)
  | mma (bank queue l0 kg : Nat) (fsA fsB : BitVec 64)
  | drain (bank queue pb : Nat) (zero : Bool) (dser : BitVec 32)
  | load (words : List (BitVec 32))
  | fill (cmd line lines : Nat)
  | inject (bank row col bit : Nat)
  deriving DecidableEq, Repr

/-- A queued or running command of a half (R263). -/
structure MxCmd where
  cid : Nat
  gid : Nat
  /-- 0 `.lo`, 1 `.hi`, 2 `.all`; a half number for a command of one half only. -/
  span : Nat
  kind : MxKind
  started : Bool
  deriving DecidableEq, Repr

/-- A drain that runs on a half (R272, R276, R278). -/
structure DrainRun where
  cid : Nat
  /-- Chunk number, 0 to 511: row chunk div 8 of the half, columns from 16·(chunk mod 8). -/
  chunk : Nat
  /-- The next word of the program. -/
  at_ : Nat
  /-- e0 to e15: element n of register r at 16·r + n. -/
  e : Sparse 32
  m : BitVec 16
  loops : KV Nat Nat
  /-- Words of finished chunks or bands that no entry holds yet. -/
  out : List (BitVec 32)
  /-- Words that the present chunk has appended. -/
  chunkOut : List (BitVec 32)
  /-- `es.stt` vectors of the present band: pass, row of the band, column block, words (R278). -/
  band : List (Nat × Nat × Nat × List (BitVec 32))
  passes : Nat
  /-- All chunks have run, or an asynchronous fault stopped them (R264). -/
  finished : Bool
  faulted : Bool
  deriving DecidableEq, Repr

/-- A fill-log record (R268). -/
structure FillRec where
  cid : Nat
  desc : List (BitVec 64)
  part : Nat
  deriving DecidableEq, Repr

/-- Half of a core's array (R252). -/
structure Half where
  part : Option Nat
  holder : Option Nat
  queue : List MxCmd
  /-- Operand SRAM: byte b of line l of slice j at 4096·l + 32·j + b. -/
  sram : Sparse 8
  /-- Accumulator elements: bank·8192 + row·128 + column, rows 0 to 63. -/
  acc : Sparse 32
  /-- Checksum row cells: bank·128 + column (R271). -/
  cr : Sparse 32
  /-- Checksum column cells: bank·64 + row (R271). -/
  cc : Sparse 32
  /-- Progress counts P of the banks (R270). -/
  prog0 : Nat
  prog1 : Nat
  store : List (BitVec 32)
  fills : List FillRec
  kgroups : Nat
  drains : Nat
  corrected : Nat
  uncorrectable : Nat
  run : Option DrainRun
  deriving DecidableEq, Repr

/-- One participant of a collective (R281). -/
structure CollMember where
  gid : Nat
  rank : Nat
  desc : List (BitVec 64)
  acq : Bool
  rel : Bool
  scope : Nat
  deriving DecidableEq, Repr

/-- An open collective (R281). -/
structure Coll where
  lid : Nat
  level : Nat
  inst : Nat
  tag : Nat
  /-- The match position: the n-th `coll` of each participant (R281). -/
  num : Nat
  size : Nat
  die : Nat
  members : List CollMember
  /-- Pages that a TRAP reply has refused to it, with their causes (R325). -/
  refused : List (Nat × BitVec 32)
  deriving DecidableEq, Repr

/-! ## Memory structures -/

/-- What a waiter of a tagged word does when it is served (R172). -/
inductive WaitAct where
  | ldwf (dest : Option Dest) (ext : Nat)
  | ldwfe (dest : Option Dest) (ext : Nat)
  | stwe (value : BitVec 32) (rel : Bool)
  | lock (entry : Nat) (dest : Nat)
  | promise (entry : Nat) (dest : Nat)
  | post (die : Nat) (call : BitVec 32) (packet : BitVec 64) (dest : Option Dest)
  | sink (n : Nat) (words : List (BitVec 32))
  deriving DecidableEq, Repr

/-- A waiter of a tagged word (R40, R172). -/
structure Waiter where
  /-- The word's key: its byte key divided by 4. -/
  key : Nat
  /-- The page's key slot, none in a scratchpad. -/
  keySlot : Option (BitVec 13)
  notify : Bool
  who : Who
  oid : Nat
  /-- It named the word in group space (R38, R211). -/
  gs : Bool
  /-- The address that its instruction gave, in a form that a report or a new translation takes (R342, R390). -/
  ea : BitVec 64
  act : WaitAct
  deriving DecidableEq, Repr

/-- The operations of the RISC-V atomics (R382, R387). -/
inductive RvAmo where
  | swap
  | add
  | and
  | or
  | xor
  | min
  | max
  | minu
  | maxu
  deriving DecidableEq, Repr

/-- The privilege levels of a RISC-V core (R382). -/
inductive RvMode where
  | u
  | s
  | m
  deriving DecidableEq, Repr

/-- What a RISC-V core does (R382 to R387, R395; DESIGN CHOICE, log entry 58): an access at an address that its own translation takes, an
interrupt to its partition's service core, an instruction that changes only its own registers, a jump, a write of a control and status
register, a trap of its own, or a return from one. Registers are numbered 0 to 31 x, 32 to 63 f and 64 to 95 v. -/
inductive RvAct where
  | load (va : BitVec 64) (size rd : Nat)
  | store (va : BitVec 64) (v : List Byte)
  /-- An atomic: the old value goes to a register, and what the operation makes of it and an operand is stored. -/
  | atomic (op : RvAmo) (va : BitVec 64) (size rd : Nat) (v : Nat)
  | fetch (va : BitVec 64)
  | interrupt
  | compute (rd : Nat) (v : List Byte)
  | jump (pc : BitVec 64)
  | csr (n : Nat) (v : BitVec 64)
  | trap (cause tval : BitVec 64)
  | ret (machine : Bool)
  deriving DecidableEq, Repr

/-- A request parked at a home on a recoverable fault (R323). -/
inductive Req where
  /-- An access of a thread, at its address. -/
  | thread (who : Who) (oid : Nat) (va : BitVec 64)
  | fetch (who : Who) (va : BitVec 64)
  /-- A copy, gather or fill, or a collective. -/
  | cmd (cid : Nat)
  | scan (qid : Nat)
  | drain (core quarter : Nat)
  /-- An access of a service or sandbox core (R382). -/
  | riscv (core : Nat) (a : RvAct)
  deriving DecidableEq, Repr

/-- An open fault record with its requests (R324). -/
structure FaultRec where
  part : Nat
  die : Nat
  seq : BitVec 32
  va : BitVec 64
  page : Nat
  cause : BitVec 32
  kind : Nat
  pkg : Nat
  srcDie : Nat
  core : Nat
  entry : BitVec 128
  level : Nat
  /-- The fault ring was full when it opened, and it has not been written yet (R324). -/
  held : Bool
  reqs : List Req
  deriving DecidableEq, Repr

/-- A range-scoreboard entry: command and byte range of the core's scratchpad, widened to sectors (R53). -/
structure SbEntry where
  cid : Nat
  lo : Nat
  hi : Nat
  deriving DecidableEq, Repr

/-- An exact accumulator with its flags (R59, R60); the sum counts units of 2^−149. -/
structure Exact where
  sum : Int
  nan : Bool
  pinf : Bool
  ninf : Bool
  ovf : Bool
  deriving DecidableEq, Repr

/-- An entry of an atomic buffer (R58, R59). -/
structure AtomEntry where
  va : BitVec 64
  /-- 0 add, 1 min, 2 max, 3 fadd. -/
  op : Nat
  type : Nat
  int : BitVec 64
  fp : Exact
  part : Nat
  /-- Held by a recoverable fault at its drain (R177). -/
  held : Bool
  /-- The thread whose flush point sent it to its home, where it has still to be added; none in the buffer (R58, R177). -/
  sentBy : Option Who
  /-- The clock at which the unloaded latency of its request ends (R61, R366). -/
  due : Nat
  /-- Discarded at its home with this cause, which its flush point has still to report (R177). -/
  failed : Option (BitVec 32)
  deriving DecidableEq, Repr

/-- A reduction slot (R60). -/
structure RedSlot where
  type : Nat
  acc : Exact
  deriving DecidableEq, Repr

/-- A region bound to an object (R65, R182). -/
structure BindRec where
  obj : Nat
  base : BitVec 64
  /-- Key range of the region's widened sectors. -/
  lo : Nat
  hi : Nat
  lid : Nat
  deriving DecidableEq, Repr

/-- A cached translation (R322): the page of `va` bits 47:16 at its size, its frame's entry. -/
structure TEntry where
  page : Nat
  size : Nat
  entry : BitVec 128
  deriving DecidableEq, Repr

/-! ## Cores and dies -/

/-- A heirless-holding report (R297). -/
structure Report where
  lid : Nat
  gid : Nat
  part : Nat
  grp : BitVec 32
  index : Nat
  kind : Nat
  cand : BitVec 32
  reason : Nat
  obj : BitVec 64
  /-- The clock at which it was queued. -/
  since : Nat
  deriving DecidableEq, Repr

/-- What a core holds beside its threads and scratchpad. -/
structure CoreSt where
  sb : List SbEntry
  atom : KV Nat (List AtomEntry)
  /-- Binding records shared with `qcset` (R65, R66). -/
  binds : List BindRec
  /-- Trapping threads that wait for a pool slot, in order (R330). -/
  trapQueue : List Who
  /-- Reports that wait for a pool slot (R297). -/
  reports : List Report
  /-- The clock at which a pool slot last became free (R297, R330). -/
  slotFreed : KV Nat Nat
  /-- The group place whose steward issued last (R26). -/
  rotation : Nat
  /-- Congestion counters of the four quarters (R366). -/
  congestion : KV Nat (BitVec 16)
  lulled : List Nat
  /-- The first group place allowed while lulled (R367). -/
  lullPlace : Nat
  /-- Uncorrectable errors since start (R402). -/
  errors : Nat
  /-- %time of the last instruction fetch that aborted (R402). -/
  fetchAbort : Option (BitVec 64)
  /-- It has been vacated, and no group has been put on it since (R337). -/
  vacated : Bool
  deriving DecidableEq, Repr

/-- A node of a graph (R350). -/
structure GraphNode where
  record : BitVec 64
  done : BitVec 64
  preds : List Nat
  deriving DecidableEq, Repr

/-- A patch point (R350). -/
structure Patch where
  node : Nat
  width : Nat
  offset : Nat
  deriving DecidableEq, Repr

/-- A loaded graph (R349). -/
structure Graph where
  part : Nat
  gdone : BitVec 64
  nodes : List GraphNode
  patches : List Patch
  /-- A replay runs (R353): nodes started, and statuses of the nodes that are FULL. -/
  running : Bool
  started : List Nat
  statuses : KV Nat (BitVec 32)
  deriving DecidableEq, Repr

/-- A completion fill held while a scheduler takeover runs (R409). -/
structure HeldFill where
  lid : Nat
  deriving DecidableEq, Repr

/-- A die. -/
structure Die where
  /-- Translation-table root (R320). -/
  root : BitVec 64
  /-- The translation caches of the quadrants 0 to 3, 4,096 entries each, oldest first (R322). -/
  tcache : KV Nat (List TEntry)
  redSlots : KV Nat RedSlot
  binds : List BindRec
  graphs : KV Nat Graph
  /-- Pending-kick bitmap with PATCHVA (R352). -/
  pending : KV Nat (BitVec 64)
  /-- Where the journal's ring lies in the die's DRAM: the root monitor fixes its place; the last 2 MiB at reset (R355; DESIGN CHOICE, log
  entry 3). -/
  journalAt : Nat
  /-- SEQ of the next journal record. -/
  journalSeq : BitVec 32
  /-- Pending-launch store: the launches that hold an entry (R363). -/
  store : KV Nat Nat
  /-- The lull register (R366). -/
  lull : BitVec 64
  /-- Congestion threshold of R369. -/
  threshold : Nat
  /-- The active launch scheduler, 0 or 1; none when both failed (R409). -/
  scheduler : Option Nat
  standby : Bool
  actSeq : BitVec 32
  /-- A takeover is under way: fills wait (R409). -/
  takeover : Bool
  /-- Records that a failed scheduler wrote for acts that it did not perform, which the standby performs: TYPE, INDEX, GRAPH and
  VALUE of each (R355, R409). -/
  undone : List (Nat × Nat × Nat × BitVec 64)
  heldFills : List HeldFill
  /-- Cores whose vacation was asked for while the scheduler does not act (R409). -/
  heldVacations : List Nat
  faultSeq : BitVec 32
  /-- Fold entries in use (R239). -/
  foldUsed : Nat
  deriving DecidableEq, Repr

/-! ## Window queries -/

/-- A record (R220). -/
structure Rec where
  payload : List (BitVec 8)
  ts : BitVec 64
  seq : BitVec 64
  key : BitVec 64
  len : Nat
  flags : BitVec 32
  deriving DecidableEq, Repr

/-- An item of a delivery queue (R230, R231). -/
inductive Item where
  | record (r : Rec)
  | timer (deadline : BitVec 64)
  | close
  deriving DecidableEq, Repr

/-- A fold entry (R235). -/
structure FoldSt where
  pc : BitVec 64
  /-- Its fold entry, below FOLDCAP. -/
  slot : Nat
  /-- The window entry of the pending `wrecv` with its lookahead. -/
  wait : Outstanding
  preds : BitVec 8
  srCount : BitVec 32
  state : List (BitVec 32)
  deriving DecidableEq, Repr

/-- A window or pane (R224, R226). -/
structure Win where
  key : BitVec 64
  pane : Bool
  num : Nat
  start : BitVec 64
  /-- The least and greatest member TS: the extent of a gap window (R224), the TS of a pane record (R226). -/
  first : BitVec 64
  last : BitVec 64
  /-- Records or pane records appended (R228). -/
  count : Nat
  /-- Records delivered (YCOUNT of R232). -/
  delivered : Nat
  queue : List Item
  thread : Option Who
  fold : Option FoldSt
  /-- Its trigger has fired: no further members (R228). -/
  closed : Bool
  /-- The close waits for panes (R228). -/
  closeHeld : Bool
  returned : Bool
  timer : BitVec 64
  lastDelivery : BitVec 64
  emits : Nat
  /-- The next delivery sets RESTORED (R236). -/
  restored : Bool
  /-- The thread's `wrecv` is pending (R249). -/
  receiving : Bool
  /-- When the fold last refused it for want of an entry (R235). -/
  refused : BitVec 64
  /-- The suspended `wrecv`s of a MERGING thread and the PC at which it resumes (R232, R246). -/
  suspended : Option (List Outstanding × BitVec 64)
  deriving DecidableEq, Repr

/-- A merge that waits, with its bridging record (R232), and the items that were queued for its windows after that record (DEDUCED,
log entry 68). -/
structure MergeSt where
  old : Nat
  young : Nat
  record : Rec
  forOld : List Item
  forYoung : List Item
  deriving DecidableEq, Repr

/-- The scan source (R221, R222). -/
structure ScanSt where
  base : BitVec 64
  count : Nat
  tsOfs : Nat
  len : Nat
  stride : Nat
  seqBase : BitVec 64
  next : Nat
  held : Bool
  deriving DecidableEq, Repr

/-- The window block (R238). -/
structure WinBlock where
  kind : Nat
  panes : Bool
  explicitOnly : Bool
  batch : Bool
  scan : Bool
  keyW : Nat
  keyOfs : Nat
  payload : Nat
  stateBase : Nat
  stateCnt : Nat
  length : Nat
  step : Nat
  late : Nat
  gap : Nat
  stale : Nat
  idle : Nat
  origin : Nat
  paneEntry : BitVec 64
  mergeEntry : BitVec 64
  mergeOfs : Nat
  stream : BitVec 16
  scanDesc : BitVec 64
  sinkBase : BitVec 64
  sinkN : Nat
  sinkProd : BitVec 64
  sinkCons : BitVec 64
  foldBase : BitVec 64
  foldCap : Nat
  batchN : Nat
  batchWait : Nat
  deriving DecidableEq, Repr

/-- A window query at its reeve (R219). -/
structure Query where
  lid : Nat
  part : Nat
  die : Nat
  block : WinBlock
  ingest : List Rec
  /-- Stream records for which the ingest queue has had no room yet, in arrival order (R221, R391). -/
  backlog : List FrameRec
  /-- The stream has not ended (R234). -/
  streamOpen : Bool
  /-- The end marker, the last record or `wclose.end` has been met; the ingest queue is still placed (R234). -/
  ending : Bool
  tsMax : BitVec 64
  w : BitVec 64
  /-- Placed records of each key of a count query (R224). -/
  counts : KV (BitVec 64) Nat
  /-- Gap windows born, by key (R224). -/
  births : KV (BitVec 64) Nat
  wins : KV Nat Win
  winNext : Nat
  /-- Windows and panes that have closed or lost their threads: key, pane, number (R223). -/
  gone : List (BitVec 64 × Bool × Nat)
  /-- The key and the extent of each gap window that was abandoned before its trigger fired (R233). -/
  gaps : List (BitVec 64 × BitVec 64 × BitVec 64)
  /-- Counters by the index of R248; 9 and 10 are w and tsMax. -/
  counters : KV Nat (BitVec 64)
  /-- The records of the present batch with the windows that contain each (R237). -/
  batch : List (Rec × List Nat)
  batchSince : BitVec 64
  scan : Option ScanSt
  merge : Option MergeSt
  /-- Pane records on their way: pane, record, next window number (R227). -/
  pane : List (Nat × Rec × Nat)
  deriving DecidableEq, Repr

/-! ## Saved groups -/

/-- A half's saved content (R339). -/
structure SavedHalf where
  half : Nat
  acc : Sparse 32
  cr : Sparse 32
  cc : Sparse 32
  prog0 : Nat
  prog1 : Nat
  store : List (BitVec 32)
  fills : List FillRec
  queue : List MxCmd
  deriving DecidableEq, Repr

/-- The save image of a group (R339), with the entries conveyed to it meanwhile (R294). -/
structure SavedGroup where
  group : Group
  threads : KV Who Thread
  /-- Its area of the partition's save pool, as a memory key and bytes (R340). It begins with the allocation's bytes and tags; the
  rest of the image is held in the fields here, since its layout is the save routine's own (DESIGN CHOICE, log entry 63). -/
  area : Nat
  areaBytes : Nat
  halves : List SavedHalf
  cmds : KV Nat Cmd
  colls : List (Coll × CollMember)
  /-- Recorded tagged waits (R338, R342). -/
  waits : List Waiter
  /-- Recorded parked faults (R338, R343). -/
  faults : List Req
  conveyed : List Entry
  /-- Regions bound to its scratchpad objects, by offset from its allocation. -/
  binds : List BindRec
  deriving DecidableEq, Repr

/-! ## Partitions, network, fleet -/

/-- A partition (R378, R381, R383). -/
structure Part where
  owner : Option (BitVec 64)
  leaseEnd : BitVec 64
  leaseMs : BitVec 32
  cores : List Nat
  keysDev : List Nat
  keysHost : List Nat
  serviceCore : Nat
  sandboxCores : List Nat
  notifyVa : BitVec 64
  /-- System-call ring control block of each die, 0 for none (R385). -/
  rings : List (BitVec 64)
  /-- RCONS of each die (R383). -/
  rcons : KV Nat (BitVec 32)
  faultRings : List (BitVec 64 × Nat)
  logVa : BitVec 64
  logN : Nat
  logSeq : BitVec 32
  kernelMeas : BitVec 384
  /-- The save pool: ranges of memory keys, by their first key and bytes (R340). -/
  savePool : List (Nat × Nat)
  klaunch : BitVec 64
  /-- Cores and halves that a boundary act asks for, until they are clear of the groups that must leave them (R381, R383). -/
  want : Option (List Nat × List (Nat × Nat))
  deriving DecidableEq, Repr

/-- A service or sandbox core (R382, R384): its PC, its privilege level and whether a guest runs there (the H extension), its registers with
the vector state, its control and status registers by their numbers, and whether its access is parked at a home. -/
structure RvCore where
  pc : BitVec 64
  mode : RvMode
  virt : Bool
  regs : KV Nat (List Byte)
  csrs : KV Nat (BitVec 64)
  parked : Bool
  deriving DecidableEq, Repr

/-- A token bucket (R371). -/
structure Bucket where
  burst : Nat
  rate : Nat
  tokens : Nat
  deriving DecidableEq, Repr

/-- A packet under way (R369): the routers that it has still to cross, and whether a void tail flit has ended it (R372). -/
structure Flight where
  packet : Packet
  route : List Nat
  void : Bool
  deriving DecidableEq, Repr

/-- The buffer slots of a link: the router that sends and the one that receives, the virtual network and the class (R370). -/
structure Port where
  src : Nat
  dst : Nat
  net : Nat
  cls : PacketClass
  deriving DecidableEq, Repr

/-- The on-die network (R368 to R372). -/
structure Net where
  buckets : KV (Nat × Nat) Bucket
  /-- Requests that wait at an injection port for tokens (R371). -/
  waiting : List Packet
  flying : List Flight
  /-- Flits queued on a link, by network and class (R366, R370). -/
  links : KV Port Nat
  /-- Send allowances in use, as the sender counts them (R372). -/
  allowances : KV Port Nat
  /-- The same, mirrored at the receiving port (R372). -/
  mirrors : KV Port Nat
  deriving DecidableEq, Repr

/-- A lane of a DRAM sub-bus or of a die-to-die sublink direction (R404, R408). -/
structure LaneSt where
  errors : Nat
  /-- The spare that carries it; none while it serves itself. -/
  spare : Option Nat
  retired : Bool
  /-- The sector and the VA of its last error, and the partition of its request, for the log (R405, R406). -/
  daddr : Nat
  va : BitVec 64
  part : Option Nat
  deriving DecidableEq, Repr

/-- The images of a target class (R401). -/
structure Images where
  active : SignedImage
  standby : SignedImage
  /-- Units that still run the old image. -/
  switching : List Nat
  /-- The UPDATE that is answered once every unit has switched. -/
  replyTo : Option MsgHdr
  /-- UPDATEs that came while a switch ran. -/
  queued : List (MsgHdr × SignedImage)
  deriving DecidableEq, Repr

/-- A record of the error logs (R393, R405): the payload from byte 0x18 as five 64-bit words. -/
structure LogRec where
  seq : BitVec 32
  type : Nat
  part : Nat
  time : BitVec 64
  pkg : Nat
  die : Nat
  core : Nat
  p18 : BitVec 64
  p20 : BitVec 64
  p28 : BitVec 64
  p30 : BitVec 64
  p38 : BitVec 64
  deriving DecidableEq, Repr

/-- A reply to a master: its header and its payload (R374). -/
structure Reply where
  hdr : MsgHdr
  payload : List (BitVec 8)
  deriving DecidableEq, Repr

/-- An interrupt to a partition's service core, or to the root monitor (R324, R332, R385). -/
inductive Irq where
  | faultRing (part die : Nat)
  | ring (part die : Nat)
  | error (part : Nat)
  | badEntry (part : Nat)
  /-- An uncorrectable error, to the root monitor (R332). -/
  | rootError
  /-- A sandbox core interrupts its partition's service core (R384). -/
  | sandbox (part core : Nat)
  deriving DecidableEq, Repr

/-- Starting, repair, firmware, links and power (R396 to R412). -/
structure Fleet where
  /-- The readiness map (R380). -/
  ready : BitVec 1024
  /-- The repair map: built index of each logical core (R4). -/
  repair : KV Nat Nat
  /-- Spare built indices of each quadrant (R5). -/
  spares : List Nat
  retired : List Nat
  /-- Logical cores whose retirement is under way (R402). -/
  retiring : List Nat
  /-- The two configuration record slots and the active one (R397, R398). -/
  slot0 : ConfigRec
  slot1 : ConfigRec
  activeSlot : Nat
  /-- This package's number (R51, R397). -/
  pkg : Nat
  images : KV Nat Images
  dramLanes : KV (Nat × Nat × Nat × Nat) LaneSt
  /-- Sub-buses out of use for the swap of a lane until a clock: the lane and the clock (R404). -/
  subBusy : KV (Nat × Nat × Nat) (Nat × Nat)
  linkLanes : KV (Nat × Nat × Nat × Nat) LaneSt
  /-- Lanes lost to narrowing, by sublink direction (R408). -/
  narrowed : KV (Nat × Nat × Nat) Nat
  /-- How many turns of the rotation each sublink direction has taken (R408). -/
  rotated : KV (Nat × Nat × Nat) Nat
  /-- Fabric ports that are down (R408). -/
  portsDown : List Nat
  /-- Owner of the package: master, lease end, lease (R378). -/
  owner : Option (BitVec 64)
  leaseEnd : BitVec 64
  leaseMs : BitVec 32
  pkgLogSeq : BitVec 32
  /-- UPDATE bodies of which messages are still to follow, by master and TAG (R400). -/
  uploads : KV (BitVec 64 × BitVec 64) (List Byte)
  /-- %time of the last clock step, and of the last one that a cause forced (R412). -/
  stepAt : Option (BitVec 64)
  forcedAt : Option (BitVec 64)
  deriving DecidableEq, Repr

/-! ## The machine -/

/-- Where a storage error lies (R332, R403). A sector is a DRAM key divided by 32, a word a scratchpad key divided by 4. -/
inductive Site where
  /-- A wrong symbol 0 to 39 of a DRAM sector under array ECC (R403). -/
  | cell (sector symbol : Nat)
  /-- A sector that a memory-side cache slice holds, correctable or not (R332). -/
  | slice (sector : Nat) (unc : Bool)
  /-- A sector whose next read has failed its fourth crossing (R404). -/
  | crossing (sector : Nat)
  /-- A scratchpad word (R332). -/
  | scratch (word : Nat) (unc : Bool)
  /-- A register of a thread: a lane register's operand code, or an `s` register's number (R332). -/
  | reg (w : Who) (code : Nat) (unc : Bool)
  /-- The instruction word that a core fetches at an address (R332). -/
  | fetch (core : Nat) (va : BitVec 64) (unc : Bool)
  deriving DecidableEq, Repr

/-- Who moves next: an issuing thread, an epilogue processor, an open window entry that is executed again, or a step of the
device, a core or a master (DESIGN CHOICE, log entry 1). -/
inductive Turn where
  | thread (w : Who)
  | redo (w : Who) (oid : Nat)
  | epilogue (core half : Nat)
  | event (i : Instr)
  /-- A stopped thread that owes no access any longer leaves (R293, R335). -/
  | reap (w : Who)
  /-- A storage error comes to be, or goes (DESIGN CHOICE, log entry 59). -/
  | flaw (x : Site) (there : Bool)
  /-- The service core or the root monitor takes a pending interrupt (R385; DESIGN CHOICE, log entry 61). -/
  | taken (x : Irq)
  /-- A RISC-V core acts on the package (R382 to R387, R395; DESIGN CHOICE, log entry 58). -/
  | riscv (core : Nat) (a : RvAct)
  deriving DecidableEq, Repr

/-- One package. -/
structure State where
  /-- Main clocks since power-on (R9). -/
  clock : Nat
  /-- %time (R392). -/
  time : BitVec 64
  /-- The part of a tick that the main clock has already counted, in units of 1/(mhz·1,000,000) (model's own; R9, R412). -/
  timeFrac : Nat
  /-- The correction of %time's rate, in ppm above −200 (R392). -/
  timeRate : Nat
  /-- The main clock in MHz (R412). -/
  mhz : Nat
  timeLocked : Bool
  power : Bool
  turns : List Turn
  /-- Turns that come due at a clock (model's own). -/
  sched : List (Nat × Turn)
  /-- The turn that is being executed (model's own). -/
  turn : Turn
  /-- The agent that executes, and the word it executes (model's own). -/
  cur : Who
  word : BitVec 64
  /-- The quadrant 0 to 3 whose translation caches serve that agent (model's own; R322). -/
  quadrant : Nat
  /-- The wave that each thread issues in in this clock, and what each wave has fetched at its PC: a word, or none where a storage error
  aborted the fetch (model's own; R19, R21). -/
  waves : KV Who Nat
  fetched : KV Nat (BitVec 64 × Option (BitVec 64))
  /-- How many free values have been drawn (model's own; DESIGN CHOICE, log entry 2). -/
  free : Nat
  /-- The next number of an entity (model's own). -/
  ids : Nat
  mem : Memory
  tags : Sparse 2
  secKey : Sparse 13
  /-- The storage errors that are there (R332). -/
  flaws : List Site
  threads : KV Who Thread
  groups : KV Nat Group
  launches : KV Nat Launch
  waits : List Waiter
  faults : List FaultRec
  cores : KV Nat CoreSt
  halves : KV (Nat × Nat) Half
  dies : KV Nat Die
  cmds : KV Nat Cmd
  colls : KV Nat Coll
  /-- `coll` commands so far, by group, level and tag (R281). -/
  collNums : KV (Nat × Nat × Nat) Nat
  queries : KV Nat Query
  saved : KV Nat SavedGroup
  parts : KV Nat Part
  /-- Service and sandbox cores 0 to 63 (R382, R384). -/
  rvCores : KV Nat RvCore
  net : Net
  fleet : Fleet
  logs : List LogRec
  replies : List Reply
  irqs : List Irq
  deriving DecidableEq, Repr

/-! ## Reset -/

/-- Bytes 0x000 to 0x0FF of the factory record (R397, R398): MAGIC, VERSION and SEQ 0 as the spec gives them; PKG 0, CORETHR 0xFFFF, PCAP
3,600, the reset value of the lull register and MINVER 0 are the model's choice, and OPKEY is free (DESIGN CHOICE, log entry 6). -/
def factoryFields : List Byte :=
  leBytes 8 0x4346473100000001 ++ leBytes 8 0 ++ leBytes 48 Config.factoryOpkey.toNat ++ leBytes 8 0
    ++ leBytes 8 0xFFFF0E10 ++ leBytes 8 0x0400010000000001 ++ leBytes 168 0

/-- The factory record, signed with the Tolrix key (R398). -/
def factoryRecord : ConfigRec :=
  { bytes := factoryFields ++ ecdsaSign Config.tolrixSecret Config.tolrixNonce (sha384 factoryFields) ++ leBytes 160 0 }

/-- An image as it stands in flash when the package is made (DESIGN CHOICE, log entry 6). -/
def initialImage (target : Nat) : SignedImage := { bytes := Config.factoryImage target }

/-- The fleet state at reset. -/
def Fleet.reset : Fleet :=
  { ready := 0, repair := [], spares := [], retired := [], retiring := [], slot0 := factoryRecord, slot1 := factoryRecord, activeSlot := 0, pkg := 0,
    images := (List.range 7).map fun t => (t, { active := initialImage t, standby := initialImage t, switching := [], replyTo := none, queued := [] }),
    dramLanes := [], subBusy := [], linkLanes := [], narrowed := [], rotated := [], portsDown := [], owner := none, leaseEnd := 0,
    leaseMs := 0, pkgLogSeq := 0, uploads := [], stepAt := none, forcedAt := none }

/-- The package right after reset: no thread, no launch, no partition, memory with nothing listed. -/
def State.reset : State :=
  { clock := 0, time := 0, timeFrac := 0, timeRate := 200, mhz := 1750, timeLocked := false, power := true, turns := [], sched := [],
    turn := .event .waveIssue, cur := .nobody, word := 0, quadrant := 0, waves := [], fetched := [], free := 0, ids := 1, mem := [], tags := [], secKey := [], flaws := [], threads := [], groups := [], launches := [],
    waits := [], faults := [], cores := [], halves := [], dies := [], cmds := [], colls := [], collNums := [], queries := [],
    saved := [], parts := [], rvCores := [],
    net := { buckets := [], waiting := [], flying := [], links := [], allowances := [], mirrors := [] },
    fleet := .reset, logs := [], replies := [], irqs := [] }

/-! ## What an unlisted entity is -/

/-- No %trap register is set. -/
def TrapRegs.zero : TrapRegs :=
  { cause := 0, pc := 0, word := 0, op := 0, d := 0, a := 0, b := 0, c := 0, imm := 0 }

/-- A thread at its start (R15, R25): every register zero, predicates clear but number 0, rejoin registers empty. -/
def Thread.start (gid lid : Nat) (grp : BitVec 32) (pc : BitVec 64) (tid : BitVec 32) (lane slot : Nat) (clock : Nat) : Thread :=
  { pc := pc, regs := [], sregs := [], preds := 1, j0 := 0, j1 := 0, j2 := 0, j3 := 0, rstack := [], depth := 0, srCount := 0,
    bereaved := false, joinBereaved := false, recTs := 0, recSeq := 0, recFlags := 0, winId := 0, winStart := 0,
    trapRegs := .zero, lane := lane, slot := slot, tid := tid, status := .ready, readySince := clock, wins := [],
    trapRec := none, origin := none, gid := gid, lid := lid, grp := grp, dqPos := 0, win := none, mergeDepth := none, skips := [], replays := [],
    wrote := [], view := none, redo := none, held := [], flushed := [], last := false }

/-- A core at reset. -/
def CoreSt.reset : CoreSt :=
  { sb := [], atom := [], binds := [], trapQueue := [], reports := [], slotFreed := [], rotation := 0, congestion := [], lulled := [],
    lullPlace := 0, errors := 0, fetchAbort := none, vacated := false }

/-- An array half at reset: unassigned and zeroed (R253, R254). -/
def Half.reset : Half :=
  { part := none, holder := none, queue := [], sram := [], acc := [], cr := [], cc := [], prog0 := 0, prog1 := 0, store := [],
    fills := [], kgroups := 0, drains := 0, corrected := 0, uncorrectable := 0, run := none }

/-- A die at reset: the lull register of R366. -/
def Die.reset : Die :=
  { root := 0, tcache := [], redSlots := [], binds := [], graphs := [], pending := [], journalAt := Config.dramBytes - 65536 * 32, journalSeq := 0,
    store := [], lull := 0x0400010000000001, threshold := 0, scheduler := some 0, standby := true, actSeq := 0xFFFFFFFF,
    takeover := false, undone := [], heldFills := [], heldVacations := [], faultSeq := 0, foldUsed := 0 }

/-- A partition when its boundary is first set (R383). -/
def Part.reset : Part :=
  { owner := none, leaseEnd := 0, leaseMs := 0, cores := [], keysDev := [], keysHost := [], serviceCore := 0,
    sandboxCores := [], notifyVa := 0, rings := [], rcons := [], faultRings := [], logVa := 0, logN := 0, logSeq := 0,
    kernelMeas := 0, savePool := [], klaunch := 0, want := none }

/-- A RISC-V core at reset: every register zero, and in M mode (R382, R384; DESIGN CHOICE, log entry 58). -/
def RvCore.reset : RvCore := { pc := 0, mode := .m, virt := false, regs := [], csrs := [], parked := false }

/-- A token bucket at reset: BURST and RATE 0xFFFF, full (R371). -/
def Bucket.reset : Bucket := { burst := 0xFFFF, rate := 0xFFFF, tokens := 0xFFFF }

/-- An empty exact accumulator. -/
def Exact.zero : Exact := { sum := 0, nan := false, pinf := false, ninf := false, ovf := false }

/-- A group with nothing but its place. -/
def Group.start (lid : Nat) (grp : BitVec 32) (part core place spBase spUnits : Nat) : Group :=
  { lid := lid, grp := grp, part := part, core := core, place := place, spBase := spBase, spUnits := spUnits, bars := [],
    dq := [], dqPushed := 0, estate := [], queues := [], regions := [], crCause := 0, crAddr := 0, crSkip := 0, qru := none,
    dser := 0, asyncFault := none, share := none, rank := none, sets := [], setNext := 1, query := none, reserved := [],
    halves := [], ending := false, endClock := 0, gone := false, filled := [], leaving := false, unwinding := none, saving := false, began := false, epoch := 0 }

end Sys2Proof.Machine
end

