-- ==== Sys2Proof/Machine/Flash.lean ====
section
/-! DEFINITION. What stands in flash and in an UPDATE: the fields of configuration records (R397) and of signed images (R400), and the
checks that they must pass (R398, R401). Fields are little-endian, as memory is (R8). -/

namespace Sys2Proof

open Machine

/-- The number that `n` bytes at an offset hold. -/
def fieldAt (l : List Byte) (ofs n : Nat) : Nat := leNat ((l.drop ofs).take n)

/-- Are `n` bytes at an offset all 0? -/
def zeroAt (l : List Byte) (ofs n : Nat) : Bool := ((l.drop ofs).take n).all fun b => decide (b = 0)

/-- The bytes of a SHA-384 value as a field holds them: in the order in which the standard writes them (PRESUMED, log entry 49). -/
def digestBytes (d : BitVec 384) : List Byte := beBytes 48 d.toNat

/-! ## Configuration records (R397, R398) -/

/-- SEQ. -/
def ConfigRec.seq (r : ConfigRec) : BitVec 64 := BitVec.ofNat 64 (fieldAt r.bytes 8 8)
/-- OPKEY, 48 bytes. -/
def ConfigRec.opkey (r : ConfigRec) : List Byte := (r.bytes.drop 0x10).take 48
/-- PKG. -/
def ConfigRec.pkg (r : ConfigRec) : BitVec 14 := BitVec.ofNat 14 (fieldAt r.bytes 0x40 8)
/-- CORETHR. -/
def ConfigRec.corethr (r : ConfigRec) : BitVec 16 := BitVec.ofNat 16 (fieldAt r.bytes 0x4A 2)
/-- PCAP. -/
def ConfigRec.pcap (r : ConfigRec) : Nat := fieldAt r.bytes 0x48 2
/-- LULL. -/
def ConfigRec.lull (r : ConfigRec) : BitVec 64 := BitVec.ofNat 64 (fieldAt r.bytes 0x50 8)
/-- CLEARRET. -/
def ConfigRec.clearret (r : ConfigRec) : Bool := decide (fieldAt r.bytes 0x58 8 % 2 = 1)
/-- MINVER of a target class. -/
def ConfigRec.minver (r : ConfigRec) (target : Nat) : BitVec 64 := BitVec.ofNat 64 (fieldAt r.bytes (0x60 + 8 * target) 8)
/-- SIG, 96 bytes. -/
def ConfigRec.sig (r : ConfigRec) : List Byte := (r.bytes.drop 0x100).take 96

/-- Is a value of the lull register legal (R366)? -/
def lullOk (v : BitVec 64) : Bool :=
  decide (v.toNat % 2 ^ 32 / 8 = 0) && decide (v.toNat / 2 ^ 32 % 2 ^ 16 < v.toNat / 2 ^ 48) && decide (v.toNat % 8 ≤ 4)

/-- Do a record's fields keep to their table (R397): its size, magic, version and ranges, and reserved bits 0? -/
def ConfigRec.formed (r : ConfigRec) : Bool :=
  decide (r.bytes.length = 512) && decide (fieldAt r.bytes 0 8 = 0x4346473100000001) && decide (fieldAt r.bytes 0x40 8 < 2 ^ 14)
    && decide (1 ≤ r.corethr.toNat) && decide (1000 ≤ r.pcap) && decide (r.pcap ≤ 3600) && zeroAt r.bytes 0x4C 4 && lullOk r.lull
    && decide (fieldAt r.bytes 0x58 8 < 2) && zeroAt r.bytes 0xA0 0x60 && zeroAt r.bytes 0x160 0xA0

/-- Does a record's signature verify under a public key, over its bytes 0x000–0x0FF (R397)? -/
def ConfigRec.signedBy (r : ConfigRec) (key : List Byte) : Bool := ecdsaGood key (sha384 (r.bytes.take 256)) r.sig

/-- The public key whose hash a record's OPKEY is, as the root monitor holds it (R398; DESIGN CHOICE, log entry 57). -/
def ConfigRec.nextKey (c : ConfigRec) : Option (List Byte) :=
  let key := Config.operatorKey (BitVec.ofNat 384 (beNat c.opkey))
  if digestBytes (sha384 key) = c.opkey then some key else none

/-- Is a new record signed under the key that the active one names (R398)? -/
def ConfigRec.signedAfter (n c : ConfigRec) : Bool := match c.nextKey with | some k => n.signedBy k | none => false

/-- Is a new record valid after the active one (R397, R398)? -/
def recFollows (n c : ConfigRec) : Bool :=
  n.formed && n.signedAfter c && decide (c.seq < n.seq) && (List.range 8).all fun i => decide (c.minver i ≤ n.minver i)

/-- The active configuration record (R398). -/
def Machine.Fleet.config (f : Fleet) : ConfigRec := if f.activeSlot = 0 then f.slot0 else f.slot1

/-! ## Signed images (R400, R401) -/

/-- Bytes of an image's header. -/
def imageHeader : Nat := 0x100

/-- TARGET. -/
def SignedImage.target (i : SignedImage) : Nat := fieldAt i.bytes 0 1
/-- IVER. -/
def SignedImage.iver (i : SignedImage) : BitVec 64 := BitVec.ofNat 64 (fieldAt i.bytes 8 8)
/-- LEN, the body's bytes. -/
def SignedImage.len (i : SignedImage) : Nat := fieldAt i.bytes 0x10 4
/-- DIGEST, 48 bytes. -/
def SignedImage.digest (i : SignedImage) : List Byte := (i.bytes.drop 0x18).take 48
/-- SIG, 96 bytes. -/
def SignedImage.sig (i : SignedImage) : List Byte := (i.bytes.drop 0x48).take 96
/-- The body. -/
def SignedImage.body (i : SignedImage) : List Byte := i.bytes.drop imageHeader
/-- The configuration record that an image of target 7 carries (R398). -/
def SignedImage.record (i : SignedImage) : ConfigRec := { bytes := i.body }

/-- Do an image's fields keep to their table (R400): reserved bits 0, TARGET 0 to 7, LEN the body's bytes, and SIG 0 for TARGET 7? An UPDATE in
which they do not is BADARG (R375). -/
def SignedImage.fieldsOk (i : SignedImage) : Bool :=
  zeroAt i.bytes 1 3 && zeroAt i.bytes 0x14 4 && zeroAt i.bytes 0xA8 0x58 && decide (i.target ≤ 7) && decide (i.body.length = i.len)
    && (decide (i.target ≠ 7) || zeroAt i.bytes 0x48 96)

/-- Is MAGIC right (R400, R401)? -/
def SignedImage.magicOk (i : SignedImage) : Bool := decide (fieldAt i.bytes 4 4 = 0x494D4731)

/-- Is SIG good over the header's bytes 0x000–0x047 with the Tolrix key (R400)? -/
def SignedImage.sigOk (i : SignedImage) : Bool := ecdsaGood tolrixKey (sha384 (i.bytes.take 0x48)) i.sig

/-- Is DIGEST the body's (R400)? -/
def SignedImage.digestOk (i : SignedImage) : Bool := decide (digestBytes (sha384 i.body) = i.digest)

/-- Why an image of a target 0 to 6 is refused: 0 magic, 1 signature, 2 digest, 3 version (R401, R405). -/
def imageRefused (c : ConfigRec) (i : SignedImage) : Option Nat :=
  if !i.magicOk then some 0
  else if !i.sigOk then some 1
  else if !i.digestOk then some 2
  else if i.iver < c.minver i.target then some 3
  else none

/-- Why an image of target 7 is refused: its body's signature counts; a record that does not follow the
active one counts as a version (R398, R400, R401, R405). -/
def recordRefusal (c : ConfigRec) (i : SignedImage) : Option Nat :=
  if !i.magicOk then some 0
  else if !i.record.signedAfter c then some 1
  else if !i.digestOk then some 2
  else if !recFollows i.record c || decide (i.iver < c.minver 7) then some 3
  else none

end Sys2Proof
end

