-- ==== Sys2Proof/Machine/Base.lean ====
section
/-! DEFINITION. Reading and changing the entities of a state, the register files and predicates of a thread, and the lookahead
windows of R10: when a window opens, when its result is written, and when its thread may go on. -/

namespace Sys2Proof.Machine

/-! ## Entities -/

/-- The die number, package·4 + die, of a logical core of this package (R4, R51). -/
def State.dieOf (s : State) (core : Nat) : Nat := s.fleet.pkg * 4 + core / Config.coresPerDie
/-- The die number of a die 0 to 3 of this package. -/
def State.localDie (s : State) (d : Nat) : Nat := s.fleet.pkg * 4 + d
/-- The quadrant 0 to 15 of a logical core in its package (R4). -/
def quadrantOf (core : Nat) : Nat := core / Config.coresPerQuadrant

/-- The built index of a logical core: the repair map's, or its place when every core passed (R3, R4). -/
def State.builtOf (s : State) (core : Nat) : Nat :=
  (KV.at? s.fleet.repair core).getD (core / 112 * 128 + core % 112 / 28 * 32 + core % 28)

/-- Is a readiness bit set (R380)? -/
def State.ready (s : State) (bit : Nat) : Bool := s.fleet.ready.getLsbD bit

/-- Is a logical core marked present (R31, R380)? -/
def State.present (s : State) (core : Nat) : Bool := s.ready (20 + core)

/-- The router of a core's hamlet (R3). -/
def State.routerOf (s : State) (core : Nat) : Nat := s.builtOf core / 4

/-- The thread of a name. -/
def State.thread? (s : State) (w : Who) : Option Thread := KV.at? s.threads w
/-- Put a thread. -/
def State.setThread (s : State) (w : Who) (t : Thread) : State := { s with threads := KV.put s.threads w t }
/-- Change a thread, if there is one. -/
def State.updThread (s : State) (w : Who) (f : Thread → Thread) : State := { s with threads := KV.upd s.threads w f }
/-- Remove a thread: its slot is FREE (R18). -/
def State.delThread (s : State) (w : Who) : State := { s with threads := KV.del s.threads w }
/-- The group of a number. -/
def State.group? (s : State) (g : Nat) : Option Group := KV.at? s.groups g
/-- Change a group, if there is one. -/
def State.updGroup (s : State) (g : Nat) (f : Group → Group) : State := { s with groups := KV.upd s.groups g f }
/-- The launch of a number. -/
def State.launch? (s : State) (l : Nat) : Option Launch := KV.at? s.launches l
/-- Change a launch, if there is one. -/
def State.updLaunch (s : State) (l : Nat) (f : Launch → Launch) : State := { s with launches := KV.upd s.launches l f }
/-- A core's structures. -/
def State.core (s : State) (c : Nat) : CoreSt := (KV.at? s.cores c).getD CoreSt.reset
/-- Change a core's structures. -/
def State.updCore (s : State) (c : Nat) (f : CoreSt → CoreSt) : State :=
  { s with cores := KV.put s.cores c (f (s.core c)) }
/-- An array half. -/
def State.half (s : State) (c h : Nat) : Half := (KV.at? s.halves (c, h)).getD Half.reset
/-- Change an array half. -/
def State.updHalf (s : State) (c h : Nat) (f : Half → Half) : State :=
  { s with halves := KV.put s.halves (c, h) (f (s.half c h)) }
/-- A die. -/
def State.die (s : State) (d : Nat) : Die := (KV.at? s.dies d).getD Die.reset
/-- Change a die. -/
def State.updDie (s : State) (d : Nat) (f : Die → Die) : State := { s with dies := KV.put s.dies d (f (s.die d)) }
/-- Change a partition, if there is one. -/
def State.updPart (s : State) (p : Nat) (f : Part → Part) : State := { s with parts := KV.upd s.parts p f }
/-- Change a query, if there is one. -/
def State.updQuery (s : State) (q : Nat) (f : Query → Query) : State := { s with queries := KV.upd s.queries q f }
/-- Change a window of a query. -/
def State.updWin (s : State) (q w : Nat) (f : Win → Win) : State :=
  s.updQuery q fun x => { x with wins := KV.upd x.wins w f }
/-- Change an engine command. -/
def State.updCmd (s : State) (c : Nat) (f : Cmd → Cmd) : State := { s with cmds := KV.upd s.cmds c f }

/-- The group of a thread. -/
def State.groupOf (s : State) (t : Thread) : Option Group := s.group? t.gid

/-! ## Where a thread runs -/

/-- The core of a thread: the pool's core of a handler, the group's core otherwise. -/
def State.coreOf (s : State) (w : Who) (t : Thread) : Nat :=
  match w with
  | .handler c _ => c
  | _ => match s.groupOf t with | some g => g.core | none => 0

/-- The die number, package·4 + die, of a thread. -/
def State.dieOfThread (s : State) (w : Who) (t : Thread) : Nat := s.dieOf (s.coreOf w t)

/-- The partition of a thread: its launch's. -/
def State.partOf (s : State) (t : Thread) : Nat :=
  match s.launch? t.lid with
  | some l => l.part
  | none => 0

/-- The lane that a thread takes its turn in: a handler's is its pool slot's (R17, R326). -/
def laneOf (w : Who) (t : Thread) : Nat :=
  match w with
  | .handler _ n => n
  | _ => t.lane

/-- The home quarter whose atomic buffer a thread uses; a steward has none (R58). -/
def quarterOf (w : Who) (t : Thread) : Option Nat :=
  match w with
  | .steward _ => none
  | _ => some (laneOf w t / 32)

/-- Unloaded clocks to pod-wide memory: on the requester's own die, its package or beyond (R61). -/
def State.glLatency (s : State) (die : Nat) (va : BitVec 64) : Nat :=
  if bits va 63 48 = die then 315 else if bits va 63 48 / 4 = s.fleet.pkg then 543 else 1575

/-- Date an event: it comes due at a clock. -/
def State.plan (s : State) (clock : Nat) (i : Instr) : State := { s with sched := s.sched ++ [(clock, .event i)] }
/-- Date the repeated execution of an open window entry. -/
def State.planRedo (s : State) (clock : Nat) (w : Who) (oid : Nat) : State :=
  { s with sched := s.sched ++ [(clock, .redo w oid)] }
/-- Take the present turn again 64 clocks on. -/
def State.again (s : State) : State := { s with sched := s.sched ++ [(s.clock + 64, s.turn)] }
/-- Let an event come next after the turns that already wait. -/
def State.raise (s : State) (i : Instr) : State := { s with turns := s.turns ++ [.event i] }

/-- The stream that a thread fetches from (R103). -/
def whoStream : Who → Stream
  | .steward _ => .steward
  | _ => .lanes

/-- Is the thread a steward? -/
def isSteward : Who → Bool
  | .steward _ => true
  | _ => false

/-- Let the translation caches that serve a core answer for the agent that executes (R322). -/
def State.serving (s : State) (core : Nat) : State := { s with quadrant := core / Config.coresPerQuadrant % 4 }

/-- The live lane threads of a group, in ascending %tid; one that has been stopped and only performs what it had issued is none. -/
def State.lanesOf (s : State) (g : Nat) : List (Nat × Thread) :=
  s.threads.filterMap fun e =>
    match e.1 with
    | .lane g' t => if g' = g ∧ !e.2.last then some (t, e.2) else none
    | _ => none

/-- %tid of every live lane thread of a group. -/
def State.liveTids (s : State) (g : Nat) : List Nat := (s.lanesOf g).map (·.1)

/-- The handler threads of a group's threads. -/
def State.handlersOf (s : State) (g : Nat) : List (Who × Thread) :=
  s.threads.filter fun e =>
    match e.1 with
    | .handler _ _ => decide (e.2.gid = g) && e.2.origin.isSome && !e.2.last
    | _ => false

/-- Is the group's steward live? -/
def State.stewardLive (s : State) (g : Nat) : Bool := match s.thread? (.steward g) with | some t => !t.last | none => false

/-- Insert in ascending order. -/
def insertNat (x : Nat) : List Nat → List Nat
  | [] => [x]
  | y :: r => if x ≤ y then x :: y :: r else y :: insertNat x r

/-- A list of numbers in ascending order. -/
def sortNats (l : List Nat) : List Nat := l.foldr insertNat []

/-- Insert in ascending order of a rank. -/
def insertBy {α : Type} (rank : α → Nat) (x : α) : List α → List α
  | [] => [x]
  | y :: r => if rank x ≤ rank y then x :: y :: r else y :: insertBy rank x r

/-- A list in ascending order of a rank; equal ranks keep their order. -/
def sortBy {α : Type} (rank : α → Nat) (l : List α) : List α := l.foldr (insertBy rank) []

/-- The thread number of R6 and R326 by which simultaneous events are ordered: 128·slot + lane, a steward 2,048 + place.
A handler thread, to which the spec gives none, counts by its origin's slot and lane (DESIGN CHOICE, log entry 71). -/
def State.threadNumber (s : State) (w : Who) : Nat :=
  match w with
  | .steward g => 2048 + (match s.group? g with | some x => x.place | none => 0)
  | _ => match s.thread? w with | some t => t.slot * 128 + t.lane | none => 0

/-! ## Registers -/

/-- Write a destination (R43, R92): z, k0 and g0 discard. -/
def Thread.put (t : Thread) (d : Dest) (v : BitVec 64) : Thread :=
  match d with
  | .reg c => if c < 0x94 then { t with regs := Sparse.wr t.regs c (v.setWidth 32) } else t
  | .sreg n => if n < 64 then { t with sregs := Sparse.wr t.sregs n v } else t
  | .pred n =>
    if n = 0 ∨ 8 ≤ n then t
    else if v = 0 then { t with preds := t.preds &&& ~~~((1 : BitVec 8) <<< n) }
    else { t with preds := t.preds ||| ((1 : BitVec 8) <<< n) }
  | .recTs => { t with recTs := v }
  | .recSeq => { t with recSeq := v }
  | .recFlags => { t with recFlags := v.setWidth 32 }

/-- Write several destinations in order. -/
def Thread.putAll (t : Thread) : List (Dest × BitVec 64) → Thread
  | [] => t
  | (d, v) :: r => Thread.putAll (t.put d v) r

/-- The lane registers that the present instruction reads (R329). -/
def Thread.rdRegs (t : Thread) : Sparse 32 := match t.view with | some v => v.regs | none => t.regs
/-- The `s` registers that the present instruction reads. -/
def Thread.rdSregs (t : Thread) : Sparse 64 := match t.view with | some v => v.sregs | none => t.sregs
/-- The predicates that the present instruction reads. -/
def Thread.rdPreds (t : Thread) : BitVec 8 := match t.view with | some v => v.preds | none => t.preds

/-- What the present instruction reads, kept for a later replay. -/
def Thread.snap (t : Thread) : Snap := { regs := t.rdRegs, sregs := t.rdSregs, preds := t.rdPreds }

/-- Predicate n; k0 and g0 read true (R43, R25). -/
def Thread.predAt (t : Thread) (n : Nat) : Bool := n == 0 || t.rdPreds.getLsbD n

/-- Does the guard hold (R94)? -/
def Thread.guard (t : Thread) (neg : Bool) (pred : BitVec 3) : Bool := t.predAt pred.toNat != neg

/-- The rejoin set that j register n names (R198). -/
def Thread.jAt (t : Thread) : Nat → Nat
  | 0 => t.j0
  | 1 => t.j1
  | 2 => t.j2
  | _ => t.j3

/-- Name a rejoin set in a j register. -/
def Thread.setJ (t : Thread) (n v : Nat) : Thread :=
  match n with
  | 0 => { t with j0 := v }
  | 1 => { t with j1 := v }
  | 2 => { t with j2 := v }
  | _ => { t with j3 := v }

/-! ## Lookahead windows -/

/-- May the window close: its result has arrived and no further instruction of it may issue (R10). -/
def Outstanding.closes (o : Outstanding) (force : Bool) : Bool :=
  decide (o.state = .done) && (force || decide (o.left = 0))

/-- The results of a window that no later instruction of the window has overwritten (R10). -/
def Outstanding.results (o : Outstanding) : List (Dest × BitVec 64) := o.writes.filter fun e => !o.later.any fun x => decide (x.2 = e.1)

/-- Write the results of every window that closes and drop it. With `force`, the windows whose results have arrived close
before a control transfer (R10). -/
def Thread.closeWindows (t : Thread) (force : Bool) : Thread :=
  let closing := t.wins.filter (·.closes force)
  Thread.putAll { t with wins := t.wins.filter fun o => !o.closes force } (closing.flatMap Outstanding.results)

/-- Has the window entry's instruction ended, with a result or with a failure? -/
def Outstanding.ended (o : Outstanding) : Bool :=
  match o.state with
  | .done => true
  | .failed _ _ => true
  | _ => false

/-- Has an instruction of the window failed, so that the thread traps once every open window has ended (R329)? -/
def Outstanding.broken (o : Outstanding) : Bool :=
  match o.state with
  | .failed _ _ => true
  | _ => false

/-- Is a word an acquiring tagged load? What stands in its window precedes it in the order of memory (R62, R98). -/
def acquires (word : BitVec 64) : Bool :=
  decide (bits word 62 59 = 6) && decide (bits word 5 4 = 1)

/-- Is the instruction an access that precedes what is in its window and has not been performed: it waits in a word's wait list, or is
parked on a fault (R62)? A `dqpop` or a `wrecv` that waits for its item is none, nor is an acquire. -/
def Outstanding.unperformed (o : Outstanding) : Bool :=
  !acquires o.word &&
    match o.state with
    | .tagWait => true
    | .redo => decide (bits o.word 62 53 ≠ 0x309) && decide (bits o.word 62 53 ≠ 0x240)
    | _ => false

/-- The open windows of instructions that precede the executing one: all, or those before the entry that is executed again. -/
def Thread.earlier (t : Thread) : List Outstanding :=
  match t.redo with
  | none => t.wins
  | some oid => t.wins.takeWhile fun o => decide (o.oid ≠ oid)

/-- Is an earlier access of the thread still to be performed (R62)? -/
def Thread.owesAccess (t : Thread) : Bool := t.earlier.any Outstanding.unperformed

/-- The status of a thread between two instructions: it waits when a window allows no further instruction (R10), PARKED for a
tag condition or an event, WAITING for a result (R167); a failure lets it issue nothing further, and it is READY to trap when
every window has ended (R329). -/
def Thread.windowStatus (t : Thread) : Status :=
  if t.wins.any Outstanding.broken then
    if t.wins.all Outstanding.ended then .ready else .waiting .windows
  else
    match t.wins.find? (fun o => decide (o.left = 0)) with
    | none => .ready
    | some o =>
      match o.state with
      | .tagWait => .parked .tag
      | .redo => .parked .fault
      | _ => .waiting .latency

/-- After a result has arrived: close what closes, and become READY when nothing holds the thread back. -/
def Thread.settle (t : Thread) (clock : Nat) : Thread :=
  let u := t.closeWindows false
  match u.status with
  | .parked (.tag) => { u with status := u.windowStatus, readySince := clock }
  | .parked (.fault) => { u with status := u.windowStatus, readySince := clock }
  | .waiting (.latency) => { u with status := u.windowStatus, readySince := clock }
  | .waiting (.access) => { u with status := u.windowStatus, readySince := clock }
  | .waiting (.windows) =>
    if u.wins.all Outstanding.ended then { u with status := .ready, readySince := clock } else u
  | _ => u

/-- The bookkeeping of an instruction that issues inside open windows: each allows one fewer, and remembers what the
instruction writes (R10, R329). -/
def Thread.noteIssue (t : Thread) (dests : List Dest) : Thread :=
  { t with wins := t.wins.map fun (o : Outstanding) => { o with left := o.left - 1, issued := o.issued + 1, later := o.later ++ dests.map fun d => (t.pc, d) } }

/-- What words of a trapped window after the present one have written: it lies in the 15 words that SKIP can name (R329). -/
def Thread.wroteAfter (t : Thread) : List (BitVec 64 × Dest) :=
  t.wrote.filter fun x => decide (0 < (x.1 - t.pc).toNat ∧ (x.1 - t.pc).toNat ≤ 120)

/-- The destinations that a word that executes again does not write, because a later word of the window has written them (R10, R329). R329
says so of the trapping word; of the others that failed it follows from R10 (DEDUCED, log entry 92: unsafe). -/
def Thread.blocked (t : Thread) (d : Dest) : Bool := t.wroteAfter.any fun x => decide (x.2 = d)

/-- Complete the present instruction: write its destinations and go to the next word (R10, R86). When the thread executes an
open window entry again, the entry takes the results instead and the PC stays (R323). -/
def Thread.complete (t : Thread) (writes : List (Dest × BitVec 64)) (next : BitVec 64) (clock : Nat) : Thread :=
  match t.redo with
  | some oid =>
    let u := { t with
      wins := t.wins.map fun (o : Outstanding) => if o.oid = oid then { o with state := .done, writes := writes } else o
      redo := none, view := none, held := KV.del t.held oid, flushed := t.flushed.filter fun n => decide (n ≠ oid) }
    u.settle clock
  | none =>
    let ws := writes.filter fun e => !t.blocked e.1
    let u := (t.noteIssue (ws.map (·.1))).putAll ws
    let u := { u with
      pc := next, view := none, wrote := t.wroteAfter, readySince := clock, replays := t.replays.filter fun r => decide (r.1 ≠ t.pc)
      held := KV.del t.held 0, flushed := t.flushed.filter fun n => decide (n ≠ 0) }
    let u := u.closeWindows false
    { u with status := u.windowStatus }

/-- Issue a long-latency instruction whose result is not yet there: open its window and go to the next word (R10). -/
def Thread.open_ (t : Thread) (oid : Nat) (word : BitVec 64) (la : Nat) (st : OState) (writes : List (Dest × BitVec 64))
    (dests : List Dest) (clock : Nat) : Thread :=
  match t.redo with
  | some old =>
    { t with
      wins := t.wins.map fun (o : Outstanding) => if o.oid = old then { o with state := st, writes := writes } else o
      redo := none, view := none, held := KV.del t.held old }
  | none =>
    let o : Outstanding :=
      { oid := oid, pc := t.pc, word := word, left := la, issued := 0, state := st, writes := writes,
        later := t.wroteAfter, snap := t.snap, due := clock }
    let u := t.noteIssue dests
    let u := { u with
      wins := u.wins ++ [o], pc := t.pc + 8, view := none, wrote := t.wroteAfter, readySince := clock
      replays := t.replays.filter fun r => decide (r.1 ≠ t.pc), held := KV.del t.held 0
      flushed := u.flushed.map fun n => if n = 0 then oid else n }
    let u := u.closeWindows false
    { u with status := u.windowStatus }

/-- Say when the unloaded latency of a window entry ends (R61). -/
def State.setDue (s : State) (w : Who) (oid due : Nat) : State :=
  s.updThread w fun t => { t with wins := t.wins.map fun (o : Outstanding) => if o.oid = oid then { o with due := due } else o }

/-- The result of a window entry arrives. -/
def Thread.arrive (t : Thread) (oid : Nat) (writes : List (Dest × BitVec 64)) (clock : Nat) : Thread :=
  let u := { t with wins := t.wins.map fun (o : Outstanding) => if o.oid = oid then { o with state := .done, writes := writes } else o }
  u.settle clock

/-- Pass over a word of the window that completed before the trap: it counts among the window's words, writes nothing, and the thread
waits behind the window's last word as after any other (R10, R329). -/
def Thread.passOver (t : Thread) (clock : Nat) : Thread :=
  let u := (t.noteIssue []).closeWindows false
  let u := { u with pc := t.pc + 8, skips := t.skips.filter fun p => decide (p ≠ t.pc), readySince := clock }
  { u with status := u.windowStatus }

/-- End the wait of a waiting or parked thread (R18): it is READY, unless its open windows let it issue nothing (R10). -/
def Thread.wake (t : Thread) (clock : Nat) : Thread := { t with status := t.windowStatus, readySince := clock }

/-- Wake every thread that waits for a given reason; each executes its instruction again. -/
def State.wakeAll (s : State) (p : Who → Thread → Bool) : State :=
  { s with threads := s.threads.map fun e => if p e.1 e.2 then (e.1, e.2.wake s.clock) else e }

end Sys2Proof.Machine
end

