-- ==== Sys2Proof/Machine/Mem.lean ====
section
/-! DEFINITION. Memory and tags: places of bytes, the table walk and the checks of a page (R51, R52, R320, R321), reads and
writes under a page's key (R389, R390), fault records (R324) and the error log (R393). -/

namespace Sys2Proof.Machine

/-! ## Places -/

/-- Where a byte lies: its key in memory, and the key slot of its page, none for a scratchpad. -/
structure Loc where
  key : Nat
  slot : Option (BitVec 13)
  deriving DecidableEq, Repr

/-- The key of byte 0 of a die's DRAM. -/
def dramBase (die : Nat) : Nat := die * 2 ^ 37
/-- The key of byte 0 of a core's scratchpad. -/
def spBaseKey (core : Nat) : Nat := 2 ^ 60 + core * 2 ^ 20

/-- A byte of a core's scratchpad. -/
def spLoc (core ofs : Nat) : Loc := { key := spBaseKey core + ofs, slot := none }

/-- The tweak of a DRAM sector: the number of its die, 0 to 3 in its package, times 2^43 plus the sector's address divided by 32 (R3, R389). -/
def sectorTweak (sector : Nat) : Nat := sector / 2 ^ 32 % 4 * 2 ^ 43 + sector % 2 ^ 32

/-- The bytes of a sector written under one key slot as another reads them: the decryption of its ciphertext, one XTS data unit of 32
bytes (R389, R390). -/
def crossRead (old new : BitVec 13) (sector : Nat) (plain : List Byte) : List Byte :=
  let key (k : BitVec 13) : List Byte := leBytes 64 (Config.xtsKey k).toNat
  xts false (key new) (sectorTweak sector) (xts true (key old) (sectorTweak sector) plain)

/-- Byte `i` of a place: a DRAM byte under another key than the one its sector was written with is the decryption of the old ciphertext
(R390). -/
def State.rdByte (s : State) (l : Loc) (i : Nat) : Byte :=
  let k := l.key + i
  match l.slot with
  | none => Sparse.rd s.mem k
  | some ks =>
    let old := Sparse.rd s.secKey (k / 32)
    if old = ks then Sparse.rd s.mem k
    else (crossRead old ks (k / 32) (Sparse.rdList s.mem (k / 32 * 32) 32)).getD (k % 32) 0

/-- `n` bytes of a place. -/
def State.rdBytes (s : State) (l : Loc) (n : Nat) : List Byte := (List.range n).map (s.rdByte l)

/-- Re-encrypt a sector under a key slot: its bytes become what they read as under that key (R390). -/
def State.rekey (s : State) (sector : Nat) (ks : BitVec 13) : State :=
  if Sparse.rd s.secKey sector = ks then s
  else
    let bytes := s.rdBytes { key := 32 * sector, slot := some ks } 32
    { s with mem := Sparse.wrList s.mem (32 * sector) bytes, secKey := Sparse.wr s.secKey sector ks }

/-- Write byte `i` of a place. -/
def State.wrByte (s : State) (l : Loc) (i : Nat) (v : Byte) : State :=
  let k := l.key + i
  let s := match l.slot with | none => s | some ks => s.rekey (k / 32) ks
  { s with mem := Sparse.wr s.mem k v }

/-- Write bytes from offset `i` of a place. -/
def State.wrBytes (s : State) (l : Loc) : Nat → List Byte → State
  | _, [] => s
  | i, b :: r => State.wrBytes (s.wrByte l i b) l (i + 1) r

/-- `n` bytes as a little-endian number (R8). -/
def State.rdNat (s : State) (l : Loc) (n : Nat) : Nat := leNat (s.rdBytes l n)
/-- A 32-bit word. -/
def State.rdWord (s : State) (l : Loc) : BitVec 32 := BitVec.ofNat 32 (s.rdNat l 4)
/-- Write a number as `n` little-endian bytes. -/
def State.wrNat (s : State) (l : Loc) (n x : Nat) : State := s.wrBytes l 0 (leBytes n x)

/-- The tag of a word key (R46). -/
def State.tagAt (s : State) (key : Nat) : BitVec 2 := Sparse.rd s.tags key
/-- Write the tag of a word key. -/
def State.setTag (s : State) (key : Nat) (v : BitVec 2) : State := { s with tags := Sparse.wr s.tags key v }
/-- FULLish: FULL or FULL-bereaved (R171). -/
def fullish (t : BitVec 2) : Bool := t.getLsbD 0
/-- The bereaved value of a tag (R295). -/
def bereavedTag (t : BitVec 2) : BitVec 2 := t ||| 2

/-! ## Translation -/

/-- What an access wants of its page. -/
structure Want where
  write : Bool
  fetch : Bool
  /-- A copy engine command, which may write a weights page (R52). -/
  engine : Bool
  deriving DecidableEq, Repr

/-- A plain read. -/
def Want.rd : Want := ⟨false, false, false⟩
/-- A write or atomic. -/
def Want.wr : Want := ⟨true, false, false⟩
/-- A fetch. -/
def Want.ex : Want := ⟨false, true, false⟩
/-- An engine's read. -/
def Want.erd : Want := ⟨false, false, true⟩
/-- An engine's write. -/
def Want.ewr : Want := ⟨true, false, true⟩

/-- Why a `.gl` access fails: a cause that traps, or a recoverable cause with the entry and level where the walk stopped. -/
inductive XFail where
  | trap (cause : BitVec 32)
  | fault (cause : BitVec 32) (entry : BitVec 128) (level : Nat)
  deriving DecidableEq, Repr

/-- The bytes of a page: 64 KiB, 2 MiB, 1 GiB by SIZE (R52). -/
def pageBytes : Nat → Nat
  | 0 => 2 ^ 16
  | 1 => 2 ^ 21
  | _ => 2 ^ 30

/-- The 16-byte table entry at a DRAM address of a die (R321). -/
def State.pteAt (s : State) (die addr : Nat) : BitVec 128 :=
  BitVec.ofNat 128 (s.rdNat { key := dramBase die + addr, slot := none } 16)

/-- V of an entry (R52). -/
def pteV (e : BitVec 128) : Bool := e.getLsbD 63
/-- OWNER of an entry: set for the host. -/
def pteHost (e : BitVec 128) : Bool := e.getLsbD 62
/-- KEY of an entry. -/
def pteKey (e : BitVec 128) : BitVec 13 := e.extractLsb' 49 13
/-- CLASS of an entry: 0 ordinary, 1 weights, 2 sandbox, 3 tagged, 4 notify. -/
def pteClass (e : BitVec 128) : Nat := bits e 48 46
/-- SIZE of an entry. -/
def pteSize (e : BitVec 128) : Nat := bits e 45 44
/-- PFN of an entry. -/
def ptePfn (e : BitVec 128) : Nat := bits e 43 16
/-- PERM of a partition in an entry. -/
def ptePerm (e : BitVec 128) (part : Nat) : Nat := bits e (65 + 2 * part) (64 + 2 * part)

/-- PERM gives one partition read and execute and another read and write (R52). -/
def pteMix (e : BitVec 128) : Bool :=
  let ps := (List.range 16).map (ptePerm e)
  ps.contains 3 && ps.contains 2

/-- A leaf entry that is gl.pte (R52): a reserved field or value, a frame beyond the die's DRAM or not aligned to its size, or
the mix of R52. -/
def pteBad (e : BitVec 128) : Bool :=
  let size := pageBytes (pteSize e)
  decide (bits e 127 96 ≠ 0) || decide (bits e 15 0 ≠ 0) || decide (5 ≤ pteClass e)
    || decide (ptePfn e * 65536 % size ≠ 0) || decide (Config.dramBytes < ptePfn e * 65536 + size) || pteMix e

/-- A directory entry that is gl.pte (R321). -/
def dirBad (e : BitVec 128) : Bool :=
  decide (bits e 127 64 ≠ 0) || decide (bits e 62 46 ≠ 0) || decide (bits e 12 0 ≠ 0)
    || decide (Config.dramBytes ≤ bits e 43 13 * 8192)

/-- The levels of a walk: number, lowest VA bit, index bits, the SIZE of a leaf (3 where none is allowed) (R320). -/
def walkLevels : List (Nat × Nat × Nat × Nat) := [(1, 39, 9, 3), (2, 30, 9, 2), (3, 21, 9, 1), (4, 16, 5, 0)]

/-- The walk of R320 from a table: the leaf with its level, or the failure. -/
def State.walk (s : State) (die ofs : Nat) : Nat → List (Nat × Nat × Nat × Nat) → Except XFail (BitVec 128 × Nat)
  | _, [] => .error (.trap 0x0209)
  | table, (level, shift, width, leaf) :: r =>
    let e := s.pteAt die (table + 16 * (ofs / 2 ^ shift % 2 ^ width))
    if !pteV e then .error (.fault 0x020B e level)
    else if pteSize e = 3 then
      if level = 4 || dirBad e then .error (.trap 0x0209)
      else State.walk s die ofs (bits e 43 13 * 8192) r
    else if pteSize e ≠ leaf || pteBad e then .error (.trap 0x0209)
    else .ok (e, level)

/-- The home die of an address, package·4 + die (R51). -/
def homeDie (va : BitVec 64) : Nat := bits va 63 48

/-- The leaf of an address in the cache of its home die that serves the executing agent (R322). -/
def State.cached (s : State) (va : BitVec 64) : Option (BitVec 128) :=
  match ((KV.at? (s.die (homeDie va)).tcache s.quadrant).getD []).find? (fun e => decide (bits va 47 0 / pageBytes e.size = e.page)) with
  | some e => some e.entry
  | none => none

/-- Does a storage error in a DRAM sector make a read of it abort: a cache slice's, a failed fourth crossing, or two symbols (R332, R403,
R404)? -/
def State.sectorAborts (s : State) (sector : Nat) : Bool :=
  s.flaws.contains (.slice sector true) || s.flaws.contains (.crossing sector)
    || decide (2 ≤ (s.flaws.filter fun x => match x with | .cell n _ => decide (n = sector) | _ => false).length)

/-- The sectors of the entries that a walk reads, at most four, one for each level. -/
def State.walkSectors (s : State) (die ofs : Nat) : Nat → List (Nat × Nat × Nat × Nat) → List Nat
  | _, [] => []
  | table, (_, shift, width, _) :: r =>
    let a := table + 16 * (ofs / 2 ^ shift % 2 ^ width)
    let e := s.pteAt die a
    ((dramBase die + a) / 32) :: (if pteV e && decide (pteSize e = 3) then State.walkSectors s die ofs (bits e 43 13 * 8192) r else [])

/-- The leaf of an address: from the translation cache, else by a walk, which an aborted read of an entry ends (R320, R322, R332). -/
def State.leaf (s : State) (va : BitVec 64) : Except XFail (BitVec 128 × Nat) :=
  match s.cached va with
  | some e => .ok (e, 4 - pteSize e)
  | none =>
    let die := homeDie va
    let root := (s.die die).root.toNat
    if !s.flaws.isEmpty && (s.walkSectors die (bits va 47 0) root walkLevels).any s.sectorAborts then .error (.trap 0x020D)
    else s.walk die (bits va 47 0) root walkLevels

/-- A `.gl` byte with its page's class. -/
structure Place where
  loc : Loc
  cls : Nat
  deriving DecidableEq, Repr

/-- The byte that a leaf gives an address. -/
def placeOf (va : BitVec 64) (e : BitVec 128) : Place :=
  { loc := { key := dramBase (homeDie va) + ptePfn e * 65536 + bits va 47 0 % pageBytes (pteSize e), slot := some (pteKey e) }
    cls := pteClass e }

/-- Translate and check a `.gl` access in the order of R51 and R52. -/
def State.gl (s : State) (part : Nat) (va : BitVec 64) (want : Want) : Except XFail Place :=
  if bits va 63 50 ≠ 0 ∧ Config.podHighest < bits va 63 50 then .error (.trap 0x0208)
  else
    match s.leaf va with
    | .error f => .error f
    | .ok (e, level) =>
      let p := ptePerm e part
      if pteHost e then .error (.fault 0x020C e level)
      else if (if want.fetch then p ≠ 3 else if want.write then p ≠ 2 else p = 0) then .error (.trap 0x020A)
      else if pteClass e = 1 ∧ want.write ∧ !want.engine then .error (.trap 0x020A)
      else .ok (placeOf va e)

/-- A page class that carries tags (R47). -/
def classTags (c : Nat) : Bool := c == 3 || c == 4

/-! ## Fault records and logs -/

/-- The bytes of a fault record (R324). -/
def faultBytes (f : FaultRec) : List Byte :=
  leBytes 8 f.va.toNat
    ++ leBytes 8 (f.seq.toNat * 2 ^ 32 + f.cause.toNat % 2 ^ 16 * 2 ^ 16 + f.part * 2 ^ 12 + f.kind * 2 ^ 10)
    ++ leBytes 8 (f.pkg * 2 ^ 50 + f.srcDie * 2 ^ 48 + f.core * 2 ^ 39)
    ++ leBytes 16 f.entry.toNat ++ leBytes 8 f.level ++ leBytes 16 0

/-- Write bytes at a VA as a part of the device acts for a partition; a byte that does not translate is not written. -/
def State.deviceWrite (s : State) (part : Nat) (va : BitVec 64) : List Byte → State
  | [] => s
  | b :: r =>
    State.deviceWrite (match s.gl part va Want.wr with | .ok p => s.wrByte p.loc 0 b | .error _ => s) part (va + 1) r

/-- The page of a fault: the leaf's when the host owns it, else the smallest page at the address (R324). -/
def faultPage (va : BitVec 64) (cause : BitVec 32) (entry : BitVec 128) : Nat :=
  va.toNat / if cause = 0x020C then pageBytes (pteSize entry) else 65536

/-- The fault ring of a partition on a die: its base and how many records it holds (R324, R381). -/
def State.faultRing (s : State) (part die : Nat) : BitVec 64 × Nat :=
  match KV.at? s.parts part with
  | none => (0, 0)
  | some p => p.faultRings.getD (die % 4) (0, 0)

/-- Is the ring entry of a record still that of an open record, so that the home holds the new one (R324; DEDUCED, log entry 60)? -/
def State.ringFull (s : State) (part die : Nat) (seq : BitVec 32) : Bool :=
  let n := (s.faultRing part die).2
  s.faults.any fun f =>
    decide (f.part = part) && decide (f.die = die) && !f.held && decide (f.seq ≠ seq) && decide (f.seq.toNat % n = seq.toNat % n)

/-- Write a record into its fault ring and interrupt the service core (R324). -/
def State.writeFault (s : State) (f : FaultRec) : State :=
  let (base, n) := s.faultRing f.part f.die
  let s : State := { s with irqs := s.irqs ++ [.faultRing f.part f.die] }
  if n = 0 then s else s.deviceWrite f.part (base + BitVec.ofNat 64 (64 * (f.seq.toNat % n))) (faultBytes f)

/-- Write the held records of a partition on a die that now have room, the oldest first (R324). -/
def State.writeHeld (s : State) (part die : Nat) : State :=
  s.faults.foldl (fun (s : State) f =>
    if f.held && decide (f.part = part) && decide (f.die = die) && !s.ringFull part die f.seq then
      ({ s with faults := s.faults.map fun (g : FaultRec) => if g.die = die ∧ g.seq = f.seq then { g with held := false } else g } : State).writeFault f
    else s) s

/-- Park a request at its home: it joins the open record of its page, partition and cause, or opens one, which is written into
the fault ring and interrupts the service core, or held while the ring is full (R323, R324). -/
def State.park (s : State) (part core : Nat) (va : BitVec 64) (kind : Nat) (cause : BitVec 32) (entry : BitVec 128)
    (level : Nat) (req : Req) : State :=
  let die := homeDie va
  let page := faultPage va cause entry
  let same (f : FaultRec) : Bool :=
    decide (f.die = die) && decide (f.part = part) && decide (f.page = page) && decide (f.cause = cause)
  if s.faults.any same then
    { s with faults := s.faults.map fun f => if same f then { f with reqs := f.reqs ++ [req] } else f }
  else
    let seq := (s.die die).faultSeq
    let full := s.ringFull part die seq
    let f : FaultRec :=
      { part := part, die := die, seq := seq, va := va, page := page, cause := cause, kind := kind, pkg := s.fleet.pkg,
        srcDie := core / Config.coresPerDie, core := core, entry := entry, level := level, held := full, reqs := [req] }
    let s := s.updDie die fun d => { d with faultSeq := d.faultSeq + 1 }
    let s : State := { s with faults := s.faults ++ [f] }
    if full then s else s.writeFault f

/-- The 64 bytes of a log record (R393). -/
def logBytes (r : LogRec) : List Byte :=
  leBytes 8 (r.seq.toNat * 2 ^ 32 + r.type * 2 ^ 16 + r.part * 2 ^ 12) ++ leBytes 8 r.time.toNat
    ++ leBytes 8 (r.pkg * 2 ^ 50 + r.die * 2 ^ 48 + r.core * 2 ^ 39)
    ++ leBytes 8 r.p18.toNat ++ leBytes 8 r.p20.toNat ++ leBytes 8 r.p28.toNat ++ leBytes 8 r.p30.toNat
    ++ leBytes 8 r.p38.toNat

/-- Write an error record to the package log (PART 0xFF of LOG.READ, kept as `part` 255), and to the partition's log, which lies
in its memory (R393, R405). -/
def State.log (s : State) (part : Option Nat) (type die core : Nat) (p18 p20 p28 p30 p38 : BitVec 64) : State :=
  let r : LogRec :=
    { seq := s.fleet.pkgLogSeq, type := type, part := part.getD 0, time := s.time, pkg := s.fleet.pkg, die := die, core := core,
      p18 := p18, p20 := p20, p28 := p28, p30 := p30, p38 := p38 }
  let s := { s with logs := s.logs ++ [r], fleet := { s.fleet with pkgLogSeq := s.fleet.pkgLogSeq + 1 } }
  match part with
  | none => s
  | some p =>
    match KV.at? s.parts p with
    | none => s
    | some q =>
      let r := { r with seq := q.logSeq }
      let s := s.updPart p fun q => { q with logSeq := q.logSeq + 1 }
      if q.logN = 0 then s
      else s.deviceWrite p (q.logVa + BitVec.ofNat 64 (64 * (q.logSeq.toNat % q.logN))) (logBytes r)

end Sys2Proof.Machine
end

