-- ==== Sys2Proof/Machine/Errors.lean ====
section
/-! DEFINITION. Storage errors (R332, R333, R402 to R407): the records they leave, the interrupts and counts of uncorrectable ones, the
correction of the others in place, and what a read of memory, of a table walk or of a register finds. -/

namespace Sys2Proof.Machine

/-! ## Records and counts -/

/-- Who met an error: its partition, launch, %grp, group and core. -/
structure Victim where
  part : Nat
  lid : Nat
  grp : BitVec 32
  core : Nat
  deriving DecidableEq, Repr

/-- A thread as the one that met an error. -/
def State.victimOf (s : State) (w : Who) (t : Thread) : Victim :=
  { part := s.partOf t, lid := t.lid, grp := t.grp, core := s.coreOf w t }

/-- A group as the one that met an error. -/
def Group.victim (g : Group) : Victim := { part := g.part, lid := g.lid, grp := g.grp, core := g.core }

/-- CHAN, SUB, LANE, SPARE, COUNT and SYMBOL of a DRAM record (R406). -/
def dramWord (chan sub lane spare count symbol : Nat) : BitVec 64 :=
  BitVec.ofNat 64 (chan * 2 ^ 56 + sub * 2 ^ 53 + lane * 2 ^ 40 + spare * 2 ^ 32 + min 255 count * 2 ^ 24 + symbol * 2 ^ 16)

/-- The channel of a DRAM byte address: consecutive 4 KiB frames rotate through the 32 channels (R403). -/
def channelOf (daddr : Nat) : Nat := daddr / 4096 % 32

/-- The sub-bus on which a DRAM byte address crosses: sector k of a frame on sub-bus k mod 8 (R403). -/
def subBusOf (daddr : Nat) : Nat := daddr / 32 % 8

/-- A record of type 0x0010 or 0x0011 of a sector, in the die that holds it (R406). -/
def State.logDram (s : State) (part : Nat) (va : BitVec 64) (sector symbol : Nat) (unc : Bool) : State :=
  let daddr := sector * 32 % 2 ^ 37
  s.log (some part) (if unc then 0x0011 else 0x0010) (sector * 32 / 2 ^ 37 % 4) 0 (BitVec.ofNat 64 daddr)
    (dramWord (channelOf daddr) (subBusOf daddr) 0xFF 0xFF 0 symbol) va 0 0

/-- A record of type 0x0024 (R405). -/
def State.logSlice (s : State) (part die : Nat) (va : BitVec 64) (unc : Bool) : State :=
  s.log (some part) 0x0024 (die % 4) 0 va (if unc then 1 else 0) 0 0 0

/-- A record of type 0x0022 or 0x0023 (R407). -/
def State.logUnit (s : State) (type : Nat) (v : Victim) (core row col unit : Nat) (unc : Bool) (ofs : Nat) : State :=
  let done := match s.launch? v.lid with | some l => l.doneWord | none => 0
  s.log (some v.part) type (core / Config.coresPerDie) core done
    (BitVec.ofNat 64 (v.grp.toNat * 2 ^ 32 + row * 2 ^ 24 + col * 2 ^ 16 + unit * 2 ^ 8 + if unc then 1 else 0)) (BitVec.ofNat 64 ofs) 0 0

/-- The interrupts of an uncorrectable error: to the partition's service core and to the root monitor (R332). -/
def State.errorIrq (s : State) (part : Nat) : State := { s with irqs := s.irqs ++ [.error part, .rootError] }

/-- Count an uncorrectable register, scratchpad or array error of a core; once the count has reached CORETHR the root monitor retires it
(R402). -/
def State.coreError (s : State) (core : Nat) : State :=
  let s := s.updCore core fun c => { c with errors := c.errors + 1 }
  if s.fleet.config.corethr.toNat ≤ (s.core core).errors ∧ !s.fleet.retiring.contains core then s.raise (.coreRetirement core) else s

/-- An aborted instruction fetch; the second in one second retires the core (R402). -/
def State.fetchError (s : State) (core : Nat) : State :=
  let again := match (s.core core).fetchAbort with | some t => decide ((s.time - t).toNat < 1000000000) | none => false
  let s := s.updCore core fun c => { c with fetchAbort := some s.time }
  if again && !s.fleet.retiring.contains core then s.raise (.coreRetirement core) else s

/-- A storage error comes to be. -/
def State.addFlaw (s : State) (x : Site) : State := if s.flaws.contains x then s else { s with flaws := s.flaws ++ [x] }

/-- Correct an error in place (R332). -/
def State.mend (s : State) (x : Site) : State := { s with flaws := s.flaws.filter fun y => decide (y ≠ x) }

/-! ## What a read finds -/

/-- The wrong symbols of a sector (R403). -/
def State.symbolsOf (s : State) (sector : Nat) : List Nat :=
  s.flaws.filterMap fun x => match x with | .cell n k => if n = sector then some k else none | _ => none

/-- Read a DRAM sector for a request: array ECC corrects one symbol and detects two, a slice's error is corrected or not, and a failed
fourth crossing aborts this request (R332, R403, R404). Answers whether the read aborts. -/
def State.readSector (s : State) (part : Nat) (va : BitVec 64) (sector : Nat) : State × Bool :=
  let die := sector * 32 / 2 ^ 37
  if s.flaws.contains (.slice sector true) then ((s.logSlice part die va true).errorIrq part, true)
  else if s.flaws.contains (.crossing sector) then ((s.mend (.crossing sector)).errorIrq part, true)
  else
    let s := if s.flaws.contains (.slice sector false) then (s.mend (.slice sector false)).logSlice part die va false else s
    match s.symbolsOf sector with
    | [] => (s, false)
    | [k] => ((s.mend (.cell sector k)).logDram part va sector k false, false)
    | _ => ((s.logDram part va sector 0xFF true).errorIrq part, true)

/-- The group whose allocation holds a byte of a core's scratchpad. -/
def State.spHolder (s : State) (core ofs : Nat) : Option Group :=
  match s.groups.find? (fun e => decide (e.2.core = core) && decide (e.2.spBase ≤ ofs) && decide (ofs < e.2.spBase + 4096 * e.2.spUnits)) with
  | some e => some e.2
  | none => none

/-- Read a scratchpad word (R332). Answers whether it is uncorrectable. -/
def State.readSpWord (s : State) (v : Victim) (word : Nat) : State × Bool :=
  let core := (4 * word - 2 ^ 60) / 2 ^ 20
  let ofs := 4 * word % 2 ^ 20
  let at_ := match s.spHolder core ofs with | some g => ofs - g.spBase | none => ofs
  if s.flaws.contains (.scratch word true) then
    (((s.logUnit 0x0023 v core 0 0 0 true at_).errorIrq v.part).coreError core, true)
  else if s.flaws.contains (.scratch word false) then ((s.mend (.scratch word false)).logUnit 0x0023 v core 0 0 0 false at_, false)
  else (s, false)

/-- Read units from `k` up, each as `f` reads it; answers whether any is uncorrectable. -/
def readUnits (f : State → Nat → State × Bool) (k : Nat) : Nat → State → State × Bool
  | 0, s => (s, false)
  | n + 1, s =>
    let (s, a) := f s k
    let (s, b) := readUnits f (k + 1) n s
    (s, a || b)

/-- Read bytes of a place for a request at a VA: the cause that it receives when the read meets an uncorrectable error (R332). -/
def State.readFor (s : State) (v : Victim) (va : BitVec 64) (l : Loc) (n : Nat) : State × Option (BitVec 32) :=
  if s.flaws.isEmpty then (s, none)
  else
    match l.slot with
    | none =>
      let (s, bad) := readUnits (fun s k => s.readSpWord v k) (l.key / 4) ((l.key + n + 3) / 4 - l.key / 4) s
      (s, if bad then some 0x0801 else none)
    | some _ =>
      let (s, bad) := readUnits (fun s k => s.readSector v.part va k) (l.key / 32) ((l.key + n + 31) / 32 - l.key / 32) s
      (s, if bad then some 0x020D else none)

/-- Read the table entries of the walk of an address that no cache holds; its records have VA 0 (R320, R332, R406). -/
def State.readWalk (s : State) (part : Nat) (va : BitVec 64) : State :=
  if s.flaws.isEmpty || (s.cached va).isSome then s
  else
    let die := homeDie va
    (s.walkSectors die (bits va 47 0) (s.die die).root.toNat walkLevels).foldl (fun (s : State) k => (s.readSector part 0 k).1) s

/-- Read a register of a thread for an active lane, a steward or the save routine (R332). Answers whether it is uncorrectable. -/
def State.readReg (s : State) (w : Who) (t : Thread) (code : Nat) : State × Bool :=
  let v := s.victimOf w t
  if s.flaws.contains (.reg w code true) then
    (((s.logUnit 0x0022 v v.core t.lane code t.slot true 0).errorIrq v.part).coreError v.core, true)
  else if s.flaws.contains (.reg w code false) then ((s.mend (.reg w code false)).logUnit 0x0022 v v.core t.lane code t.slot false 0, false)
  else (s, false)

/-- Read several registers of a thread; the first that is uncorrectable ends it. -/
def State.readRegs (s : State) (w : Who) (t : Thread) : List Nat → State × Option Nat
  | [] => (s, none)
  | c :: r =>
    let (s, bad) := s.readReg w t c
    if bad then (s, some c) else State.readRegs s w t r

/-- Fetch a word: does a storage error abort the fetch (R332)? A fetch error's record has the fetched VA. -/
def State.readFetch (s : State) (v : Victim) (va : BitVec 64) (l : Loc) : State × Bool :=
  if s.flaws.isEmpty then (s, false)
  else if s.flaws.contains (.fetch v.core va true) then (((s.logSlice v.part (homeDie va) va true).errorIrq v.part).fetchError v.core, true)
  else
    let s := if s.flaws.contains (.fetch v.core va false) then (s.mend (.fetch v.core va false)).logSlice v.part (homeDie va) va false else s
    match s.readFor v va l 8 with
    | (s, some _) => (s.fetchError v.core, true)
    | (s, none) => (s, false)

/-! ## Translation caches (R322) -/

/-- Entries of a quadrant's translation cache (R322). -/
def tcacheSize : Nat := 4096

/-- A leaf as a cache holds it. -/
def leafEntry (va : BitVec 64) (e : BitVec 128) : TEntry := { page := bits va 47 0 / pageBytes (pteSize e), size := pteSize e, entry := e }

/-- Keep a walked leaf in the cache of its home that serves the executing agent; the oldest entry gives way when that is full (R322;
DEDUCED, log entry 62). -/
def State.keepLeaf (s : State) (va : BitVec 64) (e : BitVec 128) : State :=
  s.updDie (homeDie va) fun d =>
    let l := (KV.at? d.tcache s.quadrant).getD []
    { d with tcache := KV.put d.tcache s.quadrant ((l ++ [leafEntry va e]).drop (l.length + 1 - tcacheSize)) }

/-- The walk that an access needs when the cache that serves its agent misses: the entries it reads, and the leaf kept (R320, R322). -/
def State.translate (s : State) (part : Nat) (va : BitVec 64) : State :=
  if (s.cached va).isSome then s
  else
    match s.leaf va with
    | .ok (e, _) => (s.readWalk part va).keepLeaf va e
    | .error _ => s.readWalk part va

/-! ## Sub-buses and injection ports (R371, R404) -/

/-- Is the sub-bus of a DRAM byte out of use while one of its lanes is swapped (R404)? -/
def State.subBusOut (s : State) (l : Loc) : Bool :=
  l.slot.isSome &&
    let daddr := l.key % 2 ^ 37
    (KV.at? s.fleet.subBusy (l.key / 2 ^ 37, channelOf daddr, subBusOf daddr)).isSome

/-- Must the walk of an address that the cache misses wait for a sub-bus that one of its entries crosses (R320, R404)? -/
def State.walkOut (s : State) (va : BitVec 64) : Bool :=
  !s.fleet.subBusy.isEmpty && (s.cached va).isNone &&
    (s.walkSectors (homeDie va) (bits va 47 0) (s.die (homeDie va)).root.toNat walkLevels).any fun k => s.subBusOut { key := 32 * k, slot := some 0 }

/-! ## Reads of the device for a partition -/

/-- The places of `n` bytes that the device reads for a partition, or the first failure; a sector whose read aborts is one (R332). -/
def State.readAt (s : State) (part : Nat) : BitVec 64 → Nat → Except XFail (List Loc)
  | _, 0 => .ok []
  | va, n + 1 =>
    match s.gl part va Want.rd with
    | .error f => .error f
    | .ok p =>
      if !s.flaws.isEmpty && s.sectorAborts (p.loc.key / 32) then .error (.trap 0x020D)
      else
        match State.readAt s part (va + 1) n with
        | .error f => .error f
        | .ok r => .ok (p.loc :: r)

/-- A number of 4 or 8 bytes that the device reads for a partition. An aligned one lies in one page. -/
def State.numberAt (s : State) (part : Nat) (va : BitVec 64) (n : Nat) : Except XFail Nat :=
  if va.toNat % n = 0 then
    match s.readAt part va 1 with
    | .ok (l :: _) => .ok (s.rdNat l n)
    | .ok [] => .ok 0
    | .error f => .error f
  else
    match s.readAt part va n with
    | .ok ls => .ok (leNat (ls.map fun l => s.rdByte l 0))
    | .error f => .error f

/-- `n` 64-bit words that the device reads for a partition, or the first failure. -/
def State.dwordsAt (s : State) (part : Nat) (va : BitVec 64) : Nat → Except XFail (List (BitVec 64))
  | 0 => .ok []
  | n + 1 =>
    match s.numberAt part va 8 with
    | .error f => .error f
    | .ok x =>
      match State.dwordsAt s part (va + 8) n with
      | .error f => .error f
      | .ok r => .ok (BitVec.ofNat 64 x :: r)

/-- The sectors of a range: the address of the first byte that is read in each. -/
def rangeSectors (va : BitVec 64) (n : Nat) : List (BitVec 64) :=
  (List.range ((va.toNat % 32 + n + 31) / 32)).map fun i => if i = 0 then va else BitVec.ofNat 64 (va.toNat / 32 * 32 + 32 * i)

/-- Must a read of the device wait for a sub-bus (R404)? -/
def State.readOut (s : State) (part : Nat) (va : BitVec 64) (n : Nat) : Bool :=
  !s.fleet.subBusy.isEmpty && (rangeSectors va n).any fun a =>
    s.walkOut a || match s.gl part a Want.rd with | .ok p => s.subBusOut p.loc | .error _ => false

/-- What a read of the device leaves beside its bytes: the walked pages in the cache, the records, reports and corrections of the errors that
it meets, and a bad table entry's report; it ends at the first sector that fails (R52, R322, R332). -/
def State.touchRead (s : State) (part : Nat) : List (BitVec 64) → State
  | [] => s
  | a :: r =>
    match s.gl part a Want.rd with
    | .ok p =>
      match (s.translate part a).readSector part a (p.loc.key / 32) with
      | (s, true) => s
      | (s, false) => State.touchRead s part r
    | .error (.trap c) =>
      if c = 0x020D then s.readWalk part a
      else if c = 0x0209 then { s with irqs := s.irqs ++ [.badEntry part] }
      else s
    | .error _ => s

/-- The bucket of a partition at a router's port. -/
def Net.bucket (n : Net) (router part : Nat) : Bucket := (KV.at? n.buckets (router, part)).getD Bucket.reset

/-- May a request of some flits be injected: the system network takes no tokens, and RATE 0xFFFF is no limit (R371). -/
def Net.admits (n : Net) (router part flits : Nat) : Bool :=
  decide (16 ≤ part) || decide ((n.bucket router part).rate = 0xFFFF) || decide (flits ≤ (n.bucket router part).tokens)

/-- Take the tokens of a request (R371). -/
def Net.spend (n : Net) (router part flits : Nat) : Net :=
  let b := n.bucket router part
  if decide (16 ≤ part) || decide (b.rate = 0xFFFF) then n
  else { n with buckets := KV.put n.buckets (router, part) { b with tokens := b.tokens - flits } }

end Sys2Proof.Machine
end

