-- ==== Sys2Proof/Machine/Serve.lean ====
section
/-! DEFINITION. The service of wait lists (R172), with the ring unit (R385) and the reeve's sink writes (R241). -/

namespace Sys2Proof.Machine

/-! ## Wait lists -/

/-- The thread's name for a ring entry: its %tid, all ones for a steward (R216). -/
def tidOf (w : Who) (t : Thread) : BitVec 32 := if isSteward w then 0xFFFFFFFF else t.tid

/-- A system-call ring's control block: the address of SPACE, where its words lie, BASE, N and PROD (R385). -/
structure Ring where
  spaceVa : BitVec 64
  prod : Loc
  space : Loc
  base : BitVec 64
  n : Nat
  count : BitVec 32
  deriving DecidableEq, Repr

/-- The ring of a partition on a die 0 to 3, if it has one. One whose control block lies on a page that does not translate, or that the host
owns, counts as none (DESIGN CHOICE, log entry 80). -/
def State.ring? (s : State) (part die : Nat) : Option Ring :=
  match KV.at? s.parts part with
  | none => none
  | some p =>
    match p.rings[die]? with
    | none => none
    | some va =>
      if va = 0 then none
      else
        match s.gl part va Want.wr with
        | .error _ => none
        | .ok b =>
          let base := BitVec.ofNat 64 (s.rdNat b.loc 8)
          if base = 0 then none
          else
            some { spaceVa := va + 20, prod := { b.loc with key := b.loc.key + 16 }, space := { b.loc with key := b.loc.key + 20 }, base := base,
                   n := s.rdNat { b.loc with key := b.loc.key + 8 } 4, count := s.rdWord { b.loc with key := b.loc.key + 16 } }

/-- The consumer count of a ring (R383). -/
def State.ringCons (s : State) (part die : Nat) : BitVec 32 :=
  match KV.at? s.parts part with
  | none => 0
  | some p => (KV.at? p.rcons die).getD 0

/-- Post an entry: write it, advance PROD as `stf.rel.sys` does, and make SPACE FULL when the ring is then full (R215, R216,
R385, R386). Bytes of an entry on a page that does not translate are dropped, while PROD advances and the ticket is given (DESIGN CHOICE, log
entry 80). Answers the ticket and the keys of the words whose waiters are to be served. -/
def State.post (s : State) (part die : Nat) (r : Ring) (w : Who) (t : Thread) (core : Nat) (call : BitVec 32)
    (packet : BitVec 64) : State × BitVec 32 × List Nat :=
  let bytes := leBytes 4 call.toNat ++ leBytes 4 r.count.toNat ++ leBytes 8 packet.toNat ++ leBytes 4 (tidOf w t).toNat
    ++ leBytes 4 t.grp.toNat ++ leBytes 8 (core * 2 ^ 55)
  let s := s.deviceWrite part (r.base + BitVec.ofNat 64 (32 * (r.count.toNat % r.n))) bytes
  let s := s.wrNat r.prod 4 (r.count.toNat + 1)
  let s := s.setTag (r.prod.key / 4) 1
  let full := decide (r.n ≤ (r.count + 1 - s.ringCons part die).toNat)
  let s := s.setTag (r.space.key / 4) (if full then 1 else 0)
  let s := if s.irqs.contains (.ring part die) then s else { s with irqs := s.irqs ++ [.ring part die] }
  (s, r.count, [r.prod.key / 4])

/-- The 96 bytes of a record entry (R220). -/
def recBytes (r : Rec) : List Byte :=
  (r.payload ++ List.replicate 64 0).take 64 ++ leBytes 8 r.ts.toNat ++ leBytes 8 r.seq.toNat ++ leBytes 8 r.key.toNat
    ++ leBytes 4 r.flags.toNat ++ leBytes 4 r.len

/-- The sink's words: where PROD and CONS lie and what they hold (R241). -/
def State.sink? (s : State) (q : Query) : Except XFail (Loc × BitVec 32 × BitVec 32) :=
  match s.gl q.part q.block.sinkProd Want.wr with
  | .error f => .error f
  | .ok p =>
    match s.gl q.part q.block.sinkCons Want.rd with
    | .error f => .error f
    | .ok c => .ok (p.loc, s.rdWord p.loc, s.rdWord c.loc)

/-- Room of a sink (R241). -/
def sinkRoom (n : Nat) (prod cons : BitVec 32) : Nat := n - (prod - cons).toNat

/-- The sink entry of a window thread's emit (R244). -/
def emitRec (x : Win) (t : Thread) (time : BitVec 64) (words : List (BitVec 32)) : Rec :=
  { payload := words.flatMap fun w => leBytes 4 w.toNat
    ts := time
    seq := BitVec.ofNat 64 (x.emits * 2 ^ 32 + t.winId.toNat)
    key := x.key
    len := 4 * words.length
    flags := if x.returned then 0x60 else 0x20 }

/-- Write one sink entry and advance PROD (R241). Answers the keys of the words whose waiters are to be served. -/
def State.sinkWrite (s : State) (q : Nat) (x : Query) (r : Rec) (prod : Loc) (n : BitVec 32) : State × List Nat :=
  let s := s.deviceWrite x.part (x.block.sinkBase + BitVec.ofNat 64 (96 * (n.toNat % x.block.sinkN))) (recBytes r)
  let s := s.wrNat prod 4 (n.toNat + 1)
  let s := s.setTag (prod.key / 4) 1
  let s := s.updQuery q fun y => { y with counters := KV.put y.counters 8 ((KV.at? y.counters 8).getD 0 + 1) }
  (s, [prod.key / 4])

/-- A word read by a tagged load as its destination holds it (R129, R171): a lane register takes 32 bits, an `s` register the
extension by type (3 is i32). -/
def extWord (type : Nat) (v : BitVec 32) : BitVec 64 := if type = 3 then v.signExtend 64 else v.setWidth 64

/-- The result of a load as destination writes. -/
def loadWrites (d : Option Dest) (type : Nat) (v : BitVec 32) : List (Dest × BitVec 64) :=
  match d with
  | some x => [(x, extWord type v)]
  | none => []

/-- The value and FULL tag of a fill, under the monotone rule on a notify page (R173, R387). -/
def State.fill (s : State) (l : Loc) (notify : Bool) (v : BitVec 32) : State :=
  if notify && decide (v ≤ s.rdWord l) then s
  else (s.wrNat l 4 v.toNat).setTag (l.key / 4) 1

/-- Why a sink entry cannot be written, with the address (R166, R242): a notify page refuses it as it does a plain store. -/
def State.sinkFault (s : State) (x : Query) (n : BitVec 32) : Option (XFail × BitVec 64) :=
  let check (a : BitVec 64) : Option (XFail × BitVec 64) :=
    match s.gl x.part a Want.wr with
    | .error e => some (e, a)
    | .ok p => if p.cls = 4 then some (.trap 0x0207, a) else none
  let a := x.block.sinkBase + BitVec.ofNat 64 (96 * (n.toNat % x.block.sinkN))
  match check a with
  | some e => some e
  | none => check (a + 64)

/-- Must an emit wait for a sub-bus that its sink's words or the entry cross (R241, R404)? -/
def State.sinkOut (s : State) (x : Query) (n : BitVec 32) : Bool :=
  s.readOut x.part x.block.sinkCons 4 || s.readOut x.part x.block.sinkProd 4
    || s.readOut x.part (x.block.sinkBase + BitVec.ofNat 64 (96 * (n.toNat % x.block.sinkN))) 96

/-- Must a system call wait for a sub-bus that its ring's control block or the entry crosses (R385, R404)? -/
def State.ringOut (s : State) (part : Nat) (r : Ring) : Bool :=
  s.readOut part (r.spaceVa - 20) 24 || s.readOut part (r.base + BitVec.ofNat 64 (32 * (r.count.toNat % r.n))) 32

/-- The place of a ring's control block. -/
def Ring.block (r : Ring) : Loc := { r.prod with key := r.prod.key - 16 }

/-- Execute a served waiter's instruction again, which then fails as its checks say (R242, R323). -/
def State.runAgain (s : State) (w : Who) (t : Thread) (oid : Nat) : State :=
  let u := { t with wins := t.wins.map fun (o : Outstanding) => if o.oid = oid then { o with state := .redo } else o }
  { s.setThread w u with turns := s.turns ++ [.redo w oid] }

/-- An open window entry has consumed an uncorrectable error: it performs nothing, and the report goes to the thread's core (R332 to R334). -/
def State.abortEntry (s : State) (w : Who) (t : Thread) (oid : Nat) (cause : BitVec 32) (addr : BitVec 64) : State :=
  let epoch := match s.groupOf t with | some g => g.epoch | none => 0
  (s.updThread w fun t => { t with wins := t.wins.map fun (o : Outstanding) => if o.oid = oid then { o with state := .aborted } else o }).raise
    (.containmentUnwind t.gid epoch w oid cause addr)

/-- An estate entry that a wait had reserved is free again (R286). -/
def State.unreserveEntry (s : State) (gid : Nat) (a : WaitAct) : State :=
  match a with
  | .lock e _ => s.updGroup gid fun g => { g with estate := KV.del g.estate e }
  | .promise e _ => s.updGroup gid fun g => { g with estate := KV.del g.estate e }
  | _ => s

/-- The read of a waiter's word when it is served: where that meets an uncorrectable error, the waiter consumes it (R166, R332, R333). -/
def State.servedRead (s : State) (x : Waiter) (k : State → State × List Nat) : State × List Nat :=
  match s.thread? x.who with
  | none => k s
  | some t =>
    match s.readFor (s.victimOf x.who t) (if x.keySlot.isSome then x.ea else 0) { key := 4 * x.key, slot := x.keySlot } 4 with
    | (s, some c) => ((s.abortEntry x.who t x.oid c x.ea).unreserveEntry t.gid x.act, [])
    | (s, none) => k s

/-- Serve one waiter: its act, if its condition holds now; with it, the words whose waiters are to be served next. -/
def State.serveOne (s : State) (x : Waiter) : Option (State × List Nat) :=
  let tag := s.tagAt x.key
  let l : Loc := { key := 4 * x.key, slot := x.keySlot }
  let finish (s : State) (ws : List (Dest × BitVec 64)) (b : Option Bool) : State :=
    s.updThread x.who fun t => { t with bereaved := b.getD t.bereaved }.arrive x.oid ws s.clock
  let granted (s : State) (e d : Nat) (b : Bool) : State :=
    match s.thread? x.who with
    | some t => finish (s.updGroup t.gid fun g => { g with estate := KV.upd g.estate e fun y => { y with waiting := false } }) [(.pred d, 1)] (some b)
    | none => s
  match x.act with
  | .ldwf d type =>
    if fullish tag then some (s.servedRead x fun s => (finish s (loadWrites d type (s.rdWord l)) (some (tag == 3)), [])) else none
  | .ldwfe d type =>
    if fullish tag then
      some (s.servedRead x fun s => ((finish s (loadWrites d type (s.rdWord l)) (some (tag == 3))).setTag x.key 0, [x.key]))
    else none
  | .stwe v _ =>
    if fullish tag then none else some (s.servedRead x fun s => (finish (s.fill l x.notify v) [] (some (tag == 2)), [x.key]))
  | .lock e d =>
    if fullish tag then some (s.servedRead x fun s => ((granted s e d (tag == 3)).setTag x.key 0, [x.key])) else none
  | .promise e d =>
    if fullish tag then none else some (s.servedRead x fun s => (granted s e d (tag == 2), [x.key]))
  | .post die call packet d =>
    if fullish tag then none
    else
      match s.thread? x.who with
      | some t =>
        match s.ring? (s.partOf t) die with
        | some r =>
          let (s, ticket, ks) := s.post (s.partOf t) die r x.who t (s.coreOf x.who t) call packet
          some (finish s (loadWrites d 7 ticket) none, ks)
        | none => some (s, [])
      | none => some (s, [])
  | .sink _ words =>
    match s.thread? x.who with
    | some t =>
      match t.win with
      | some (q, w) =>
        match KV.at? s.queries q with
        | some y =>
          match KV.at? y.wins w with
          | some z =>
            match s.sink? y with
            | .ok (prod, n, c) =>
              if sinkRoom y.block.sinkN n c = 0 then none
              else if (s.sinkFault y n).isSome then some (s.runAgain x.who t x.oid, [])
              else
                some (s.servedRead x fun s =>
                  let (s, ks) := s.sinkWrite q y (emitRec z t s.time words) prod n
                  let s := s.updWin q w fun z => { z with emits := z.emits + 1 }
                  (finish s [] none, ks))
            | .error _ => some (s.runAgain x.who t x.oid, [])
          | none => some (s, [])
        | none => some (s, [])
      | none => some (s, [])
    | none => some (s, [])

/-- The list without its first waiter on a key. -/
def dropFirst (key : Nat) : List Waiter → List Waiter
  | [] => []
  | x :: r => if x.key = key then r else x :: dropFirst key r

/-- Serve the wait lists of the given words, each from its head for as long as the head's condition holds (R172). -/
def State.serveFuel : Nat → List Nat → State → State
  | 0, _, s => s
  | _, [], s => s
  | n + 1, k :: ks, s =>
    match s.waits.find? (fun x => decide (x.key = k)) with
    | none => State.serveFuel n ks s
    | some x =>
      match s.serveOne x with
      | none => State.serveFuel n ks s
      | some (t, more) => State.serveFuel n (k :: (more ++ ks)) { t with waits := dropFirst k t.waits }

/-- Serve the waiters of words after their tags changed (R172). -/
def State.serve (s : State) (keys : List Nat) : State := State.serveFuel (4 * s.waits.length + keys.length + 4) keys s

/-- A fill as by `stf`: value, FULL, waiters served (R171, R189, R262, R387). -/
def State.stf (s : State) (l : Loc) (notify : Bool) (v : BitVec 32) : State := (s.fill l notify v).serve [l.key / 4]

/-- A completion word filled by the device at a VA, if it translates for the partition to a word with tags. -/
def State.fillVa (s : State) (part : Nat) (va : BitVec 64) (v : BitVec 32) : State :=
  match s.gl part va Want.wr with
  | .ok p => if classTags p.cls then s.stf p.loc (p.cls == 4) v else s
  | .error _ => s

/-- The tag of a word at a VA set EMPTY (R353, R362). -/
def State.emptyVa (s : State) (part : Nat) (va : BitVec 64) : State :=
  match s.gl part va Want.wr with
  | .ok p => if classTags p.cls then (s.setTag (p.loc.key / 4) 0).serve [p.loc.key / 4] else s
  | .error _ => s

end Sys2Proof.Machine
end

