-- ==== Sys2Proof/Machine/Dest.lean ====
section
/-! DEFINITION. The descriptors of engine commands (R185, R186, R267), queue control words (R55, R56), and the destination of a copy as its
32-byte sectors in ascending address (R188), by which failures and cancelled units are counted (R189, R191). -/

namespace Sys2Proof.Machine

/-- Bytes of a group's allocation (R45). -/
def Group.spBytes (g : Group) : Nat := g.spUnits * 4096

/-- The place of an offset in a group's allocation: in its scratchpad, or in its save area while it is SAVED (R340). -/
def State.spWord (s : State) (gid : Nat) (g : Group) (ofs : Nat) : Loc :=
  match KV.at? s.saved gid with
  | some v => { key := v.area + ofs, slot := none }
  | none => spLoc g.core (g.spBase + ofs)

/-! ## Descriptors -/

/-- Dword i of a descriptor. -/
def Cmd.dw (c : Cmd) (i : Nat) : BitVec 64 := c.desc.getD i 0

/-- The `.sp` bit of the completion word's space: set for `.gl` (R185, R186, R267). -/
def Cmd.doneGl (c : Cmd) : Bool :=
  match c.kind with
  | .cpb => (c.dw 2).getLsbD 37
  | _ => (c.dw 2).getLsbD 36

/-- The DONE field (R185, R186). -/
def Cmd.doneAddr (c : Cmd) : BitVec 64 :=
  match c.kind with
  | .gth => c.dw 4
  | _ => c.dw 3

/-- Has a copy or gather a queue as its destination (R185)? -/
def Cmd.toQueue (c : Cmd) : Bool := decide (c.kind ≠ .cpb) && decide (bits (c.dw 2) 35 34 = 3)

/-- Element bytes of a gather (R186). -/
def Cmd.esize (c : Cmd) : Nat := 2 ^ (2 + bits (c.dw 3) 36 32)

/-- Bytes that the command moves (R188). -/
def Cmd.bytes (c : Cmd) : Nat :=
  let n := bits (c.dw 2) 31 0
  match c.kind with
  | .cp => n
  | .gth => n * c.esize
  | .cpb => 0

/-- NLINES of a `cpb` (R267). -/
def Cmd.fillLines (c : Cmd) : Nat := bits (c.dw 2) 23 12
/-- Columns of a `cpb` (R267). -/
def Cmd.fillCount (c : Cmd) : Nat := bits (c.dw 2) 31 24 + 1

/-! ## Queue control words -/

/-- DEPTH. -/
def qDepth (q : Nat) : Nat := natBits q 43 31
/-- Entry bytes. -/
def qSize (q : Nat) : Nat := 2 ^ (2 + natBits q 30 28)
/-- occ (R56). -/
def qOcc (q : Nat) : Nat := (natBits q 127 96 + 2 ^ 32 - natBits q 95 64) % 2 ^ 32
/-- The allocation offset of entry number n (R56). -/
def qSlot (q n : Nat) : Nat := natBits q 63 44 + n % 2 ^ 32 % qDepth q * qSize q

/-- A queue's control word of a group: its sixteen bytes as a number (R55). -/
def State.qcw (s : State) (g : Group) (ofs : Nat) : Nat := s.rdNat (spLoc g.core (g.spBase + ofs)) 16

/-! ## Destinations -/

/-- The destination of a copy: byte i lies at `lo + (first + i) mod size`, in a queue's storage from slot(PROD) on, or in its address space;
from byte `turn` on, where a queue's PROD passes 2^32, the bytes run from slot 0 (R56, R188). -/
structure Dst where
  lo : Nat
  size : Nat
  first : Nat
  turn : Nat
  n : Nat
  deriving DecidableEq, Repr

/-- The address of byte i. -/
def Dst.addr (d : Dst) (i : Nat) : Nat := d.lo + (if i < d.turn then d.first + i else i - d.turn) % d.size

/-- The bytes that an address holds, ascending: the later of two is written last. -/
def Dst.bytesAt (d : Dst) (a : Nat) : List Nat :=
  if a < d.lo ∨ d.lo + d.size ≤ a then []
  else
    let i := (a - d.lo + d.size - d.first) % d.size
    let j := d.turn + (a - d.lo)
    (if i < min d.n d.turn then [i] else []) ++ (if j < d.n then [j] else [])

/-- Sectors of the bytes that lie below the first one, because the destination wraps. -/
def Dst.wrapped (d : Dst) : Nat := if d.first + d.n ≤ d.size then 0 else (d.lo + (d.first + d.n - d.size) + 31) / 32 - d.lo / 32

/-- The first sector of the other bytes that those below do not share. -/
def Dst.upper (d : Dst) : Nat := max ((d.lo + d.first) / 32) (if d.wrapped = 0 then 0 else d.lo / 32 + d.wrapped)

/-- The sectors of a destination in which PROD passes 2^32, ascending. -/
def Dst.turned (d : Dst) : List Nat :=
  ((List.range ((d.lo + d.size + 31) / 32 - d.lo / 32)).map (d.lo / 32 + ·)).filter fun k =>
    (List.range 32).any fun b => !(d.bytesAt (32 * k + b)).isEmpty

/-- How many 32-byte sectors hold bytes of the destination (R189). -/
def Dst.sectors (d : Dst) : Nat :=
  if d.n = 0 then 0
  else if d.turn < d.n then d.turned.length
  else d.wrapped + ((d.lo + min d.size (d.first + d.n) + 31) / 32 - d.upper)

/-- The sectors in ascending address. -/
def Dst.sector (d : Dst) (j : Nat) : Nat :=
  if d.turn < d.n then d.turned.getD j 0 else if j < d.wrapped then d.lo / 32 + j else d.upper + (j - d.wrapped)

/-- The destination of `n` bytes in a queue whose control word is `q`, from slot(PROD) on: entry i lies in slot(PROD + i mod 2^32) (R56). -/
def queueDst (q n : Nat) : Dst :=
  { lo := natBits q 63 44, size := max n (qDepth q * qSize q)
    first := if qDepth q = 0 then 0 else natBits q 127 96 % qDepth q * qSize q
    turn := if 2 ^ 32 % max 1 (qDepth q) = 0 then n else (2 ^ 32 - natBits q 127 96) * qSize q, n := n }

/-- The destination of a copy or gather of a group (R185, R188). -/
def State.dstOf (s : State) (g : Group) (c : Cmd) : Dst :=
  let plain (size : Nat) : Dst := { lo := 0, size := size, first := (c.dw 0).toNat % size, turn := c.bytes, n := c.bytes }
  match bits (c.dw 2) 35 34 with
  | 2 => plain (2 ^ 64)
  | 3 =>
    match KV.at? g.queues (c.dw 0).toNat with
    | some b => queueDst (s.rdNat (s.spWord c.gid g b.ofs) 16) c.bytes
    | none => { lo := 0, size := 2 ^ 32, first := 0, turn := c.bytes, n := c.bytes }
  | _ => plain (2 ^ 32)

/-- How many sectors, or columns of lines, a command writes. -/
def State.pieces (s : State) (g : Group) (c : Cmd) : Nat :=
  match c.kind with
  | .cpb => min (c.fillLines * c.fillCount) (c.limit.getD (c.fillLines * c.fillCount))
  | _ => (s.dstOf g c).sectors

/-- Has element k of a gather a byte in a sector that is still to be written? -/
def Cmd.elementOwed (c : Cmd) (d : Dst) (k : Nat) : Bool :=
  decide (c.progress < d.sectors) && (List.range c.esize).any fun b => decide (d.sector c.progress ≤ d.addr (k * c.esize + b) / 32)

/-- NFAIL of a command that ends at its present sector: the sectors of a `cp`, or the elements of a `gth`, that are not wholly written; NLINES
of a `cpb` that has not started, and the lines of single columns of one that has (R188, R191, R264, R267). -/
def State.unwritten (s : State) (c : Cmd) : Nat :=
  match s.group? c.gid with
  | none => 0
  | some g =>
    match c.kind with
    | .cp => (s.dstOf g c).sectors - c.progress + c.failed.length
    | .gth => ((List.range (bits (c.dw 2) 31 0)).filter fun k => c.failed.contains k || c.elementOwed (s.dstOf g c) k).length
    | .cpb => if c.started then c.fillLines * c.fillCount - c.progress + c.failed.length else c.fillLines

end Sys2Proof.Machine
end

