-- ==== Sys2Proof/Machine/Kill.lean ====
section
/-! DEFINITION. How threads and groups go: rejoin sets, barriers and the decision queue when a thread is lost (R12, R13, R201),
windows that lose their thread (R233), cancelled commands (R191, R265, R282), conveyance (R293 to R297) and the kill of a group
(R331). -/

namespace Sys2Proof.Machine

/-! ## Sizes of a launch -/

/-- %nthr: the product of the extents at and below the core level (R29). -/
def Launch.nthr (l : Launch) : Nat := ((l.levels.filter fun v => v.domain ≤ 2).map Level.extent).foldl (· * ·) 1
/-- %ngrp: the product of the extents above the core level (R29). -/
def Launch.ngrp (l : Launch) : Nat := ((l.levels.filter fun v => 2 < v.domain).map Level.extent).foldl (· * ·) 1

/-- Ask whether a group ends now, in the next clock (R14, R293). -/
def State.askEnd (s : State) (gid : Nat) : State := s.plan s.clock (.groupEnd gid)

/-! ## Rejoin sets -/

/-- If every member of a set has arrived, wake them with %join.bereaved and clear the arrivals (R200). -/
def State.rejoinCheck (s : State) (gid n : Nat) : State :=
  match s.group? gid with
  | none => s
  | some g =>
    match KV.at? g.sets n with
    | none => s
    | some r =>
      if r.arrived.isEmpty || !r.members.all (fun m => r.arrived.contains m) then s
      else
        let s := s.updGroup gid fun g => { g with sets := KV.put g.sets n { r with arrived := [], lost := false } }
        { s with threads := s.threads.map fun e =>
            match e.1 with
            | .lane g' t =>
              if g' = gid ∧ r.arrived.contains t ∧ e.2.status = .parked (.rejoin n) then
                (e.1, { e.2 with joinBereaved := r.lost }.wake s.clock)
              else e
            | _ => e }

/-- A thread leaves one set: as a loss, or through a new `rjmark` (R199, R201). -/
def State.leaveSet (s : State) (gid tid n : Nat) (loss : Bool) : State :=
  if n = 0 then s
  else
    let s := s.updGroup gid fun g => { g with sets := KV.upd g.sets n fun r =>
      { r with members := r.members.filter (· ≠ tid), arrived := r.arrived.filter (· ≠ tid), lost := r.lost || loss } }
    s.rejoinCheck gid n

/-! ## Barriers and the decision queue -/

/-- Does barrier `b` complete: the steward has arrived or has exited, and every live lane thread has arrived (R13). -/
def State.barrierFull (s : State) (gid : Nat) (b : Barrier) : Bool :=
  (b.steward || !s.stewardLive gid) && (s.liveTids gid).all (fun t => b.lanes.contains t)

/-- Complete a barrier of the group if its participants have all arrived (R13). -/
def State.barrierCheck (s : State) (gid n : Nat) : State :=
  match s.group? gid with
  | none => s
  | some g =>
    match KV.at? g.bars n with
    | none => s
    | some b =>
      if (!b.steward && b.lanes.isEmpty) || !s.barrierFull gid b then s
      else
        let s := s.updGroup gid fun g => { g with bars := KV.del g.bars n }
        s.wakeAll fun _ t => decide (t.gid = gid) && decide (t.status = .parked (.barrier n))

/-- Retire decision-queue entries that nobody owes, and let a parked steward push again (R12). -/
def State.dqRetire (s : State) (gid : Nat) : State :=
  let s := s.updGroup gid fun g => { g with dq := g.dq.filter fun e => !e.owed.isEmpty }
  s.wakeAll fun w t => decide (w = .steward gid) && decide (t.status = .parked .decisionPush)

/-- A lane thread has ended: it is no participant of any barrier, owes no entry, and is lost to its rejoin sets (R12, R13,
R201). -/
def State.laneGone (s : State) (gid : Nat) (t : Thread) : State :=
  let tid := t.tid.toNat
  let s := [t.j0, t.j1, t.j2, t.j3].foldl (fun s n => s.leaveSet gid tid n true) s
  let s := s.updGroup gid fun g => { g with
    dq := g.dq.map fun e => { e with owed := e.owed.filter (· ≠ tid) }
    bars := g.bars.map fun (e : Nat × Barrier) => (e.1, { e.2 with lanes := e.2.lanes.filter (· ≠ tid) }) }
  let s := s.dqRetire gid
  let s := s.wakeAll fun _ u => decide (u.gid = gid) && decide (u.status = .waiting .quasi)
  (List.range 16).foldl (fun s n => s.barrierCheck gid n) s

/-! ## Windows that lose their thread -/

/-- Is an open window's instruction a pending `wrecv`? -/
def Outstanding.receives (o : Outstanding) : Bool := decide (o.state = .redo) && decide (bits o.word 62 53 = 0x240)

/-- Has a group stopped issuing for a save: its threads issue nothing, none of its commands starts, a running `mma` stops at its step, and
deliveries and merges wait (R249, R338)? -/
def State.groupSaving (s : State) (gid : Nat) : Bool := match s.group? gid with | some g => g.saving | none => false

/-- Execute the pending `wrecv` of a RECEIVING thread again, because an item waits (R230, R249). -/
def State.prompt (s : State) (q w : Nat) : State :=
  match KV.at? s.queries q with
  | none => s
  | some x =>
    match KV.at? x.wins w with
    | none => s
    | some y =>
      if (y.queue.isEmpty && !y.returned) || !y.receiving then s
      else if y.fold.isSome then s.raise (.windowRestore q w)
      else
        match y.thread with
        | none => s
        | some who =>
          match s.thread? who with
          | none => s
          | some t =>
            match (if s.groupSaving t.gid then none else t.wins.find? Outstanding.receives) with
            | some o => { s with turns := s.turns ++ [.redo who o.oid] }
            | none => s

/-- Keep an item for a window of a merge that waits, behind the bridging record (R232; DEDUCED, log entry 68). -/
def MergeSt.keep (m : MergeSt) (w : Nat) (i : Item) : MergeSt :=
  if w = m.old then { m with forOld := m.forOld ++ [i] } else { m with forYoung := m.forYoung ++ [i] }

/-- Append an item to a window's delivery queue (R230). -/
def State.append (s : State) (q w : Nat) (i : Item) : State :=
  match KV.at? s.queries q with
  | none => s
  | some x =>
    match x.merge with
    | some m =>
      if w = m.old ∨ w = m.young then s.updQuery q fun x => { x with merge := some (m.keep w i) }
      else (s.updWin q w fun y => { y with queue := y.queue ++ [i] }).prompt q w
    | none => (s.updWin q w fun y => { y with queue := y.queue ++ [i] }).prompt q w

/-- gcd by Euclid's steps, with as many as the arguments' bits can need. -/
def gcdFuel : Nat → Nat → Nat → Nat
  | 0, a, _ => a
  | n + 1, a, b => if b = 0 then a else gcdFuel n b (a % b)

/-- The pane length P (R226). -/
def WinBlock.paneLen (b : WinBlock) : Nat := gcdFuel 128 b.length b.step

/-- Does window n of a query cover pane m (R226)? -/
def WinBlock.covers (b : WinBlock) (n m : Nat) : Bool :=
  decide (n * b.step ≤ m * b.paneLen) && decide (m * b.paneLen + b.paneLen ≤ n * b.step + b.length)

/-- Is a pane of the window still to deliver its record: born and not gone, or its record on its way (R228)? -/
def Query.panesPending (q : Query) (y : Win) : Bool :=
  q.wins.any (fun e => e.2.pane && decide (e.2.key = y.key) && q.block.covers y.num e.2.num && decide (e.2.emits = 0))
    || q.pane.any (fun e => decide (e.2.1.key = y.key) && q.block.covers y.num e.2.1.seq.toNat)

/-- Is the close of a window held back: by a pane (R228), or by members in an incomplete batch (R237)? -/
def Query.closeWaits (q : Query) (w : Nat) (y : Win) : Bool :=
  (!y.pane && q.panesPending y) || q.batch.any fun e => e.2.contains w

/-- Queue the closes that nothing holds back any longer (R228). -/
def State.releaseCloses (s : State) (q : Nat) : State :=
  match KV.at? s.queries q with
  | none => s
  | some x =>
    x.wins.foldl (fun s e =>
      if e.2.closeHeld && !x.closeWaits e.1 e.2 then
        (s.updWin q e.1 fun y => { y with closeHeld := false }).append q e.1 .close
      else s) s

/-- Add to a counter of R248. -/
def Query.bump (x : Query) (i : Nat) (n : Nat) : Query :=
  { x with counters := KV.put x.counters i ((KV.at? x.counters i).getD 0 + BitVec.ofNat 64 n) }

/-- A window is abandoned: it is counted, and the extent of a gap window stays known, since the later records that would have belonged to it
count in NOWIN (R233). -/
def Query.abandon (x : Query) (y : Win) : Query :=
  let x := x.bump 11 1
  if x.block.kind = 2 ∧ y.closed = false then { x with gaps := x.gaps ++ [(y.key, y.first, y.last)] } else x

/-- A window or pane leaves the query: no further record belongs to it (R223, R233). -/
def State.dropWin (s : State) (q w : Nat) : State :=
  let s := s.updQuery q fun x =>
    match KV.at? x.wins w with
    | none => x
    | some y => { x with wins := KV.del x.wins w, gone := x.gone ++ [(y.key, y.pane, y.num)] }
  s.releaseCloses q

/-- The thread of a window has ended: the window dies when its close has been returned, and is abandoned otherwise (R233). -/
def State.winThreadGone (s : State) (t : Thread) : State :=
  match t.win with
  | none => s
  | some (q, w) =>
    match KV.at? s.queries q with
    | none => s
    | some x =>
      match KV.at? x.wins w with
      | none => s
      | some y => (if y.returned then s else s.updQuery q fun x => x.abandon y).dropWin q w

/-! ## Withdrawn waits and requests -/

/-- Withdraw the tagged waits and parked requests of the threads that a predicate picks (R172, R323, R422). -/
def State.withdraw (s : State) (p : Who → Bool) : State :=
  { s with
    waits := s.waits.filter fun x => !p x.who
    faults := s.faults.map fun (f : FaultRec) => { f with reqs := f.reqs.filter fun r =>
      match r with
      | .thread w _ _ => !p w
      | .fetch w _ => !p w
      | _ => true } }

/-! ## Engine commands -/

/-- The completion word (R189). -/
def doneValue (nfail : Nat) (cause : BitVec 16) (err : Bool) : BitVec 32 :=
  BitVec.ofNat 32 ((if err then 2 ^ 31 else 0) + min nfail 0x7FFF * 2 ^ 16 + cause.toNat)

/-- The place of a command's completion word and whether its page is a notify page, or why it has none. -/
def State.donePlace (s : State) (c : Cmd) : Except XFail (Loc × Bool) :=
  if c.doneGl then
    match s.gl c.part c.doneAddr Want.wr with
    | .error f => .error f
    | .ok p => if classTags p.cls then .ok (p.loc, p.cls == 4) else .error (.trap 0x0206)
  else
    match s.group? c.gid with
    | some g => .ok (s.spWord c.gid g (bits c.doneAddr 31 0), false)
    | none => .error (.trap 0x0200)

/-- Remove a command: its scoreboard entry frees, and those that waited on it or on its queue go on (R53, R189, R261). -/
def State.retireCmd (s : State) (cid : Nat) : State :=
  let s := { s with
    cmds := KV.del s.cmds cid
    cores := s.cores.map fun (e : Nat × CoreSt) => (e.1, { e.2 with sb := e.2.sb.filter fun b => decide (b.cid ≠ cid) })
    halves := s.halves.map fun (e : (Nat × Nat) × Half) => (e.1, { e.2 with queue := e.2.queue.filter fun m =>
      match m.kind with
      | .fill c _ _ => decide (c ≠ cid)
      | _ => true }) }
  s.wakeAll fun _ t =>
    decide (t.status = .waiting .scoreboard) || decide (t.status = .waiting .engineRoom)
      || decide (t.status = .waiting .queueBusy)

/-- Fill a command's completion word and retire it; its waiters are still to be served. Answers the word that was filled (R189). -/
def State.fillDone (s : State) (cid : Nat) (c : Cmd) (v : BitVec 32) : State × List Nat :=
  if c.silent then (s.retireCmd cid, [])
  else
    match s.donePlace c with
    | .ok (l, notify) => ((s.fill l notify v).retireCmd cid, [l.key / 4])
    | .error _ => (s.retireCmd cid, [])

/-- Fill a command's completion word as by `stf`, and retire it (R189). -/
def State.finishCmd (s : State) (cid : Nat) (c : Cmd) (v : BitVec 32) : State :=
  let (s, keys) := s.fillDone cid c v
  s.serve keys

/-- Drop a discarded fill from the fill logs, so that no restore replays it (R264). -/
def State.unlogFill (s : State) (cid : Nat) (c : Cmd) : State :=
  if c.kind = .cpb ∧ !c.started then
    { s with halves := s.halves.map fun (e : (Nat × Nat) × Half) => (e.1, { e.2 with fills := e.2.fills.filter fun r => decide (r.cid ≠ cid) }) }
  else s

/-- Cancel a command at a sector boundary: ERR and cp.cancel. Answers the word whose waiters are still to be served (R191, R264). -/
def State.cancelCmd (s : State) (cid : Nat) (c : Cmd) : State × List Nat :=
  (s.unlogFill cid c).fillDone cid c (doneValue (s.unwritten c) 0x0210 true)

/-- Cancel every command of a group (R191, R422). -/
def State.cancelCmds (s : State) (gid : Nat) : State × List Nat :=
  let s := { s with faults := s.faults.map fun (f : FaultRec) => { f with reqs := f.reqs.filter fun r =>
    match r with
    | .cmd c => (match KV.at? s.cmds c with | some x => decide (x.gid ≠ gid) | none => true)
    | _ => true } }
  s.cmds.foldl (fun acc e =>
    if e.2.gid = gid then
      let (s, ks) := acc.1.cancelCmd e.1 e.2
      (s, acc.2 ++ ks)
    else acc) (s, [])

/-- Discard a group's queued and running commands of one half, and release its hold when `release` says so. -/
def Half.discard (h : Half) (gid : Nat) (release : Bool) : Half :=
  let mine (m : MxCmd) : Bool := decide (m.gid = gid)
  { h with
    queue := h.queue.filter (fun m => !mine m)
    run :=
      match h.run with
      | some r => if h.queue.any (fun m => mine m && decide (m.cid = r.cid)) then none else some r
      | none => none
    holder := if release && decide (h.holder = some gid) then none else h.holder }

/-- Discard the queued and running array commands of a group, and release its holds when `release` says so (R265, R335). -/
def State.discardArray (s : State) (gid : Nat) (release : Bool) : State :=
  { s with halves := s.halves.map fun (e : (Nat × Nat) × Half) => (e.1, e.2.discard gid release) }

/-- The bytes that a participant's DST takes (R281). -/
def Coll.dstBytes (c : Coll) (desc : List (BitVec 64)) : Nat :=
  let count := bits (desc.getD 2 0) 31 0
  let ty := bits (desc.getD 3 0) 43 40
  let size := if ty = 4 || ty = 8 then 8 else if ty = 10 then 2 else 4
  match bits (desc.getD 3 0) 39 36 with
  | 1 => count * size * c.size
  | 5 => count * size / c.size
  | _ => count * size

/-- A completion word at a VA filled as by `stf`, whose waiters are still to be served. -/
def State.fillVaNow (s : State) (part : Nat) (va : BitVec 64) (v : BitVec 32) : State × List Nat :=
  match s.gl part va Want.wr with
  | .ok p => if classTags p.cls then (s.fill p.loc (p.cls == 4) v, [p.loc.key / 4]) else (s, [])
  | .error _ => (s, [])

/-- Fill every joined participant's completion word with a failure, close the collective, and ask each group that it may have held open
(R14, R282). Answers the words whose waiters are still to be served. -/
def State.failColl (s : State) (cid : Nat) (c : Coll) (cause : BitVec 16) : State × List Nat :=
  let part := match s.launch? c.lid with | some l => l.part | none => 0
  let (s, keys) := c.members.foldl (fun (acc : State × List Nat) m =>
    let o := (m.desc.getD 1 0).toNat % 32
    let n := c.dstBytes m.desc
    let (s, ks) := acc.1.fillVaNow part (m.desc.getD 4 0) (doneValue (if n = 0 then 0 else (o + n + 31) / 32) cause true)
    (s.askEnd m.gid, acc.2 ++ ks)) (s, [])
  let s := { s with colls := KV.del s.colls cid }
  (s.wakeAll fun _ t => decide (t.status = .waiting .collTag), keys)

/-- Collectives that a group's end leaves without a participant: those it has joined, and at its end under R14 those that are
open in an instance of which it is a participant (R282, R293). -/
def State.withdrawColls (s : State) (gid lid : Nat) (inst : Nat → Nat) (joinedOnly : Bool) : State × List Nat :=
  s.colls.foldl (fun acc e =>
    let joined := e.2.members.any fun m => decide (m.gid = gid)
    let here := decide (e.2.lid = lid) && decide (inst e.2.level = e.2.inst)
    if joined || (here && !joinedOnly) then
      let (s, ks) := acc.1.failColl e.1 e.2 0x060E
      (s, acc.2 ++ ks)
    else acc) (s, [])

/-- A participant stands in a collective, which opens with it if need be (R281, R344). -/
def State.enterColl (s : State) (c : Coll) (m : CollMember) : Nat × State :=
  match s.colls.find? (fun e => decide (e.2.lid = c.lid) && decide (e.2.level = c.level) && decide (e.2.inst = c.inst)
      && decide (e.2.tag = c.tag) && decide (e.2.num = c.num)) with
  | some (cid, x) => (cid, { s with colls := KV.put s.colls cid { x with members := x.members ++ [m] } })
  | none => (s.ids, { s with ids := s.ids + 1, colls := KV.put s.colls s.ids { c with members := [m] } })

/-- The instance number of a level that holds group `grp` of a launch: groups of consecutive numbers share an instance (R29). -/
def Launch.instOf (l : Launch) (level grp : Nat) : Nat :=
  let below := ((l.levels.take (level + 1)).filter fun v => 2 < v.domain).map Level.extent
  grp / (below.foldl (· * ·) 1)

/-! ## Conveyance -/

/-- The live group of a launch, by %grp: from its first instruction until step 1 of its own conveyance (R293). -/
def State.groupByGrp (s : State) (lid : Nat) (grp : BitVec 32) : Option Nat :=
  match s.groups.find? (fun e => decide (e.2.lid = lid) && decide (e.2.grp = grp) && e.2.began && !e.2.ending) with
  | some e => some e.1
  | none => none

/-- The saved group of a launch, by %grp, which is live (R293). -/
def State.savedByGrp (s : State) (lid : Nat) (grp : BitVec 32) : Option Nat :=
  match s.saved.find? (fun e => decide (e.2.group.lid = lid) && decide (e.2.group.grp = grp) && !e.2.group.ending) with
  | some e => some e.1
  | none => none

/-- The group, running or SAVED, that holds a rank of a sharing set (R37). -/
def State.rankGroup (s : State) (share : Option Nat) (rank : Nat) : Option (Nat × Group) :=
  if share.isNone then none
  else (s.groups ++ s.saved.map fun e => (e.1, e.2.group)).find? fun e => decide (e.2.share = share) && decide (e.2.rank = some rank)

/-- Do two entries name one tagged object (R283)? -/
def Entry.sameObj (x : Entry) (space : Nat) (addr : BitVec 64) : Bool :=
  decide (x.kind = 0 ∨ x.kind = 1 ∨ x.kind = 4 ∨ x.kind = 5) && decide (x.space = space) && decide (x.addr = addr)

/-- The lowest free index of a table of 64 (R283). -/
def tableSlot (e : KV Nat Entry) : Option Nat := lowestFree (e.map (·.1)) 0 64

/-- Is a group suitable to take an entry (R294)? -/
def State.suitable (s : State) (giver : Group) (giverId : Nat) (e : Entry) (taker : Nat) (tg : Group)
    (table : List Entry) : Bool :=
  decide (taker ≠ giverId) && decide (table.length < 64)
    && (e.kind == 2 || !table.any (fun x => x.sameObj e.space e.addr))
    && (e.kind == 2 || (match e.space with
      | 0 => false
      | 1 =>
        (match s.rankGroup giver.share (bits e.addr 23 20) with
         | some (o, og) => decide (o ≠ giverId) && !og.ending
         | none => false) && decide (tg.share = giver.share) && tg.rank.isSome
      | _ => true))

/-- Where a conveyed entry goes: a group here, or a saved one. -/
inductive Taker where
  | here (gid : Nat)
  | saved (gid : Nat)
  deriving DecidableEq, Repr

/-- The suitable group of a %grp, if any. -/
def State.takerOf (s : State) (giver : Group) (giverId : Nat) (e : Entry) (cand : BitVec 32) : Option Taker :=
  match s.groupByGrp giver.lid cand with
  | some g =>
    match s.group? g with
    | some tg => if s.suitable giver giverId e g tg (tg.estate.map (·.2)) then some (.here g) else none
    | none => none
  | none =>
    match s.savedByGrp giver.lid cand with
    | some g =>
      match KV.at? s.saved g with
      | some sv =>
        if s.suitable giver giverId e g sv.group (sv.group.estate.map (·.2) ++ sv.conveyed) then some (.saved g) else none
      | none => none
    | none => none

/-- A group heir, kept by the launch (R284). -/
def Launch.heirOf (l : Launch) (grp : BitVec 32) : BitVec 32 := (KV.at? l.heirs grp.toNat).getD 0xFFFFFFFF

/-- The chain of R294: the taker, or the last candidate with the reason of the default. -/
def State.chain (s : State) (l : Launch) (giver : Group) (giverId : Nat) (e : Entry) :
    Nat → BitVec 32 → BitVec 32 → Sum Taker (BitVec 32 × Nat)
  | 0, _, last => .inr (last, 1)
  | n + 1, cand, last =>
    if cand = 0xFFFFFFFF then .inr (last, 0)
    else
      let g := if cand = 0xFFFFFFFE then l.heirGrp else cand
      match s.takerOf giver giverId e g with
      | some t => .inl t
      | none => State.chain s l giver giverId e n (l.heirOf g) g

/-- The place of an entry's tagged object, with its notify flag (R283). -/
def State.objPlace (s : State) (gid : Nat) (g : Group) (e : Entry) : Option (Loc × Bool) :=
  match e.space with
  | 0 => some (s.spWord gid g (bits e.addr 31 0), false)
  | 1 =>
    match s.rankGroup g.share (bits e.addr 23 20) with
    | some (o, og) => if og.leaving then none else some (s.spWord o og (bits e.addr 19 0), false)
    | none => none
  | _ =>
    match s.gl g.part e.addr Want.rd with
    | .ok p => some (p.loc, p.cls == 4)
    | .error _ => none

/-- Put an entry into the table of its taker (R295). -/
def State.give (s : State) (l : Launch) (grp : BitVec 32) (e : Entry) (t : Taker) : State :=
  let mk (heir : BitVec 32) : Entry :=
    { e with heir := heir, conv := true, fromGrp := grp.setWidth 64, waiting := false }
  match t with
  | .here g =>
    s.updGroup g fun x =>
      match tableSlot x.estate with
      | some i => { x with estate := KV.put x.estate i (mk (l.heirOf x.grp)) }
      | none => x
  | .saved g =>
    { s with saved := KV.upd s.saved g fun x => { x with conveyed := x.conveyed ++ [mk (l.heirOf x.group.grp)] } }

/-- Reduce the reserved count of a SLOT's queue, whose group may be SAVED (R287, R296). -/
def State.unreserve (s : State) (e : Entry) (n : Nat) : State :=
  let less (g : Group) : Group := { g with queues := KV.upd g.queues (bits e.addr 3 0) fun b => { b with rsvd := b.rsvd - n } }
  let s := s.updGroup e.qgid less
  { s with saved := KV.upd s.saved e.qgid fun v => { v with group := less v.group } }

/-- The `.obj` value of an entry (R292). -/
def Entry.objValue (e : Entry) : BitVec 64 :=
  match e.kind with
  | 2 => BitVec.ofNat 64 (e.count * 2 ^ 16 + bits e.addr 8 0)
  | _ => e.addr

/-- The default of an entry with no taker: its object keeps a value that it has, else it takes the value given, and becomes FULL-bereaved;
a notify word is never lowered (R296). -/
def State.settleEntry (s : State) (giverId : Nat) (giver : Group) (e : Entry) (report : Report) (v : Option (BitVec 32)) :
    State × List Nat × Option Report :=
  match s.objPlace giverId giver e with
  | some (p, notify) =>
    let k := p.key / 4
    if fullish (s.tagAt k) then (s.setTag k 3, [k], some report)
    else
      match v with
      | some x =>
        if notify && decide (x ≤ s.rdWord p) then (s, [], some report)
        else ((s.wrNat p 4 x.toNat).setTag k 3, [k], some report)
      | none => (s.setTag k 3, [k], some report)
  | none => (s, [], some report)

/-- Resolve one entry (R294 to R296). Answers the words whose tags changed and the report of a default. -/
def State.resolveEntry (s : State) (l : Launch) (giver : Group) (giverId i : Nat) (e : Entry) :
    State × List Nat × Option Report :=
  let how := if e.kind = 3 then Sum.inr (0xFFFFFFFF, 2) else s.chain l giver giverId e 8 e.heir 0xFFFFFFFF
  match how with
  | .inl t =>
    let s := s.give l giver.grp e t
    if e.kind = 2 then (s, [], none)
    else
      match s.objPlace giverId giver e with
      | some (p, _) => (s.setTag (p.key / 4) (bereavedTag (s.tagAt (p.key / 4))), [p.key / 4], none)
      | none => (s, [], none)
  | .inr (last, reason) =>
    let report : Report :=
      { lid := giver.lid, gid := giverId, part := giver.part, grp := giver.grp, index := i, kind := e.kind, cand := last,
        reason := reason, obj := e.objValue, since := s.clock }
    match e.kind with
    | 0 => s.settleEntry giverId giver e report none
    | 1 => s.settleEntry giverId giver e report (some 0xDEAD0001)
    | 2 => (s.unreserve e e.count, [], some report)
    | 3 => (s, [], some report)
    | 4 => s.settleEntry giverId giver e report (some 0x80000210)
    | _ =>
      match s.takerOf giver giverId e l.heirGrp with
      | some t =>
        let s := s.give l giver.grp e t
        match s.objPlace giverId giver e with
        | some (p, _) => (s.setTag (p.key / 4) (bereavedTag (s.tagAt (p.key / 4))), [p.key / 4], some report)
        | none => (s, [], some report)
      | none => (s, [], some report)

/-- Queue a heirless-holding report: an estate handler, or a log record when there is no ESTHANDLER (R297, R393). -/
def State.report (s : State) (l : Launch) (core : Nat) (r : Report) : State :=
  let s := s.updLaunch r.lid fun x => { x with status := x.status ||| 4 }
  if l.estHandler = 0 then
    s.log (some r.part) 0x0001 (core / Config.coresPerDie) core
      (BitVec.ofNat 64 (r.grp.toNat * 2 ^ 32 + r.index * 2 ^ 24 + r.reason * 2 ^ 16 + r.kind)) (r.cand.setWidth 64) r.obj
      l.doneWord 0
  else
    let s := s.updLaunch r.lid fun x => { x with reports := x.reports + 1 }
    let s := s.updCore core fun c => { c with reports := c.reports ++ [r] }
    s.plan (s.clock + 12) (.estateHandlerStart core)

/-- Convey a group's estate: resolve each held entry in ascending index, leave the sharing set, serve the waiters of these words and of
those that step 2 filled, then queue the reports (R293). A group that ends leaves as by `grleave`, and its rank is free once its place is
(R38); an unwind keeps the MEMBER entry and the rank. -/
def State.convey (s : State) (gid : Nat) (unwind : Bool) (filled : List Nat) : State :=
  match s.group? gid with
  | none => s.serve filled
  | some g =>
    match s.launch? g.lid with
    | none => s.serve filled
    | some l =>
      let held := sortBy (·.1) (g.estate.filter fun e => !e.2.waiting && !(unwind && e.2.kind == 3))
      let (s, keys, reports) := held.foldl (fun (acc : State × List Nat × List Report) e =>
        let (s, ks, r) := acc.1.resolveEntry l g gid e.1 e.2
        (s.updGroup gid fun g => { g with estate := KV.del g.estate e.1 }, acc.2.1 ++ ks,
          acc.2.2 ++ (match r with | some x => [x] | none => []))) (s, [], [])
      let s := s.updGroup gid fun g =>
        { g with estate := g.estate.filter fun e => !e.2.waiting, filled := [], leaving := g.leaving || (!unwind && g.rank.isSome) }
      let s := s.serve (filled ++ keys)
      reports.foldl (fun s r => s.report l g.core r) s

/-! ## Ends of groups -/

/-- Does a scratchpad key lie in a group's allocation, or in its save area while it is SAVED? -/
def State.inSp (s : State) (gid : Nat) (g : Group) (key : Nat) : Bool :=
  let lo := (s.spWord gid g 0).key
  decide (lo ≤ key) && decide (key < lo + g.spBytes)

/-- A group has gone: its place is free, its launch counts it, and the scheduler looks again (R293 step 6, R357). -/
def State.removeGroup (s : State) (gid : Nat) (g : Group) : State :=
  let s := { s with
    groups := KV.del s.groups gid, saved := KV.del s.saved gid
    halves := s.halves.map fun (e : (Nat × Nat) × Half) => (e.1, if e.2.holder = some gid then { e.2 with holder := none } else e.2) }
  let s := s.updLaunch g.lid fun l => { l with ended := l.ended + 1, dead := l.dead ++ [g.grp.toNat] }
  (s.raise (.launchComplete g.lid)).raise (.groupPlacement (s.dieOf g.core))

/-- Is a thread one of the group's: a lane thread, its steward or a handler of one of them? -/
def State.belongs (s : State) (gid : Nat) (w : Who) : Bool :=
  match w with
  | .lane g _ => decide (g = gid)
  | .steward g => decide (g = gid)
  | .handler _ _ => match s.thread? w with | some t => decide (t.gid = gid) && t.origin.isSome | none => false
  | _ => false

/-- A pool slot is free: the next trapping thread or report may start in it twelve clocks on (R326, R330). -/
def State.freeSlot (s : State) (core slot : Nat) : State :=
  (s.updCore core fun c => { c with slotFreed := KV.put c.slotFreed slot s.clock }).plan (s.clock + 12) (.handlerStart core)

/-- A thread that is stopped while accesses that it has issued wait: what is left of it performs these, each as an open window entry that is
executed again with the values it read, and nothing else. An unwound steward keeps the results that have arrived and those on their way (R293,
R335, R422). -/
def Thread.stopped (t : Thread) (oid : Nat) (last : Bool) : Thread :=
  let mine : List Outstanding :=
    match KV.at? t.held 0 with
    | some h => [{ oid := oid, pc := t.pc, word := h.word, left := 0, issued := 0, state := .redo, writes := [], later := [], snap := t.snap, due := h.due }]
    | none => []
  let kept (o : Outstanding) : Bool :=
    (KV.at? t.held o.oid).isSome || (!last && (decide (o.state = .latent) || decide (o.state = .done)))
  { t with
    status := .waiting .stopped, view := none, redo := none, last := last, wins := t.wins.filter kept ++ mine
    held := t.held.map fun (e : Nat × Hold) => (if e.1 = 0 then oid else e.1, e.2), flushed := t.flushed.map fun n => if n = 0 then oid else n }

/-- Stop a thread; its present instruction's access, if one waits, is tried again in the next clock. -/
def State.stopThread (s : State) (w : Who) (t : Thread) (last : Bool) : State :=
  let u := ({ s with ids := s.ids + 1 } : State).setThread w (t.stopped s.ids last)
  if (KV.at? t.held 0).isSome then u.planRedo (s.clock + 1) w s.ids else u

/-- Stop threads: their waits and requests are withdrawn, their windows lose them, and their slots become FREE, but for one whose issued
accesses still wait to be performed (R331, R335, R422). -/
def State.stopThreads (s : State) (p : Who → Bool) : State :=
  let dead := s.threads.filter fun e => p e.1 && !e.2.last
  let s := s.withdraw p
  let s := { s with
    cores := s.cores.map fun (e : Nat × CoreSt) => (e.1, { e.2 with trapQueue := e.2.trapQueue.filter fun w => !p w }) }
  dead.foldl (fun s e =>
    let owes := !e.2.held.isEmpty
    let s := if owes then s.stopThread e.1 e.2 true else s.delThread e.1
    match e.1 with
    | .lane _ _ => s.winThreadGone e.2
    | .handler c n => if owes then s else s.freeSlot c n
    | _ => s) s

/-- Does a group still owe accesses that its stopped threads had issued (R82, R293)? -/
def State.owes (s : State) (gid : Nat) : Bool :=
  s.threads.any fun e => decide (e.2.gid = gid) && decide (e.2.status = .waiting .stopped) && !e.2.held.isEmpty

/-- A stopped thread that owes no access any longer: its waits and requests are withdrawn, it leaves, and the end or the unwind of its group
goes on (R293, R335, R422). -/
def State.reap (s : State) (w : Who) : State :=
  match s.thread? w with
  | none => s
  | some t =>
    if t.status ≠ .waiting .stopped ∨ !t.held.isEmpty then s
    else
      let s := s.withdraw fun x => decide (x = w)
      let s := if !t.last then s else match w with | .handler c n => (s.delThread w).freeSlot c n | _ => s.delThread w
      match s.group? t.gid with
      | none => s
      | some g =>
        if s.owes t.gid then s
        else if g.ending then s.askEnd t.gid
        else
          match g.unwinding with
          | some (c, a) => s.raise (.containmentUnwind t.gid g.epoch .nobody 0 c a)
          | none => s

/-- Does a command read or write the group space of a rank (R38, R187)? The element addresses of a gather are not looked into. -/
def Cmd.namesRank (c : Cmd) (rank : Nat) : Bool :=
  match c.kind with
  | .cp => (decide (bits (c.dw 2) 35 34 = 1) && decide (bits (c.dw 0) 23 20 = rank))
      || (decide (bits (c.dw 2) 33 32 = 1) && decide (bits (c.dw 1) 23 20 = rank))
  | .gth => (decide (bits (c.dw 2) 35 34 = 1) && decide (bits (c.dw 0) 23 20 = rank)) || decide (bits (c.dw 2) 33 32 = 1)
  | .cpb => false

/-- Does a command that a predicate picks work in a group's allocation through its rank (R38, R211)? -/
def State.rankCopies (s : State) (g : Group) (p : Cmd → Group → Bool) : Bool :=
  match g.rank with
  | none => false
  | some r => s.cmds.any fun e => e.2.namesRank r &&
      match s.group? e.2.gid with
      | some o => decide (o.share = g.share) && g.share.isSome && p e.2 o
      | none => false

/-- Does an issued access through group space to a group still wait to be performed (R38, R53, R371, R404)? -/
def State.rankWaits (s : State) (gid : Nat) (g : Group) : Bool :=
  s.threads.any fun e => e.2.held.any fun x => x.2.gs && s.inSp gid g x.2.key

/-- Is a group-space access to a group still to complete: a tagged wait on its words, an access that waits to be performed, or an
accepted copy or gather, its own ones among them (R38, R187, R211)? -/
def State.rankOpen (s : State) (gid : Nat) (g : Group) : Bool :=
  s.waits.any (fun x => x.gs && s.inSp gid g (4 * x.key)) || s.rankWaits gid g || s.rankCopies g fun _ _ => true

/-- Does a group whose end began in the same clock, with a lower %grp, have still to be conveyed (R293)? -/
def State.endsBefore (s : State) (gid : Nat) (g : Group) : Bool :=
  s.groups.any fun e => decide (e.1 ≠ gid) && e.2.ending && !e.2.gone && decide (e.2.endClock = g.endClock) && decide (e.2.grp < g.grp)

/-- Ask the groups whose ends began in a clock and wait for one of a lower %grp (R293). -/
def State.askEnds (s : State) (clock : Nat) : State :=
  (s.groups.filter fun e => e.2.ending && !e.2.gone && decide (e.2.endClock = clock)).foldl (fun s e => s.raise (.groupEnd e.1)) s

/-- Cancel a group's commands at its end or unwind; the words that they fill have their waiters served when its estate is conveyed (R293). -/
def State.cancelAll (s : State) (gid : Nat) : State :=
  let (s, done) := s.cancelCmds gid
  s.updGroup gid fun g => { g with filled := g.filled ++ done }

/-- Free the place of a group that has been conveyed, once no access of another member to it that was issued before is still to complete (R38,
R293 step 6; DEDUCED, log entry 17). -/
def State.freeGroup (s : State) (gid : Nat) : State :=
  match s.group? gid with
  | none => s
  | some g => if !g.gone || s.rankOpen gid g then s else s.removeGroup gid g

/-- The rest of a group's end, once its threads have stopped and performed what they had issued, and its commands are cancelled: its collectives
are withdrawn, its estate is conveyed, and its place freed (R293 steps 2 to 6, R331). -/
def State.endGroup (s : State) (gid : Nat) (g : Group) : State :=
  let inst (lv : Nat) : Nat := match s.launch? g.lid with | some l => l.instOf lv g.grp.toNat | none => 0
  let s := s.discardArray gid true
  let (s, lost) := s.withdrawColls gid g.lid inst false
  let s := s.convey gid false (g.filled ++ lost)
  ((s.updGroup gid fun g => { g with gone := true }).askEnds g.endClock).freeGroup gid

/-- Kill a group (R331): its threads stop now, and it is no longer live; the rest of its end follows with that of the other groups that end
in this clock, in ascending %grp (R293, R299). -/
def State.killGroup (s : State) (gid : Nat) : State :=
  match s.group? gid with
  | none => s
  | some g =>
    if g.ending then s
    else
      let s := s.updLaunch g.lid fun l => { l with status := l.status ||| 1 }
      let s := s.stopThreads (s.belongs gid)
      (s.updGroup gid fun g => { g with ending := true, endClock := s.clock }).askEnd gid

/-- A saved group's estate table with the entries that were conveyed to it meanwhile (R294, R342). -/
def SavedGroup.table (v : SavedGroup) : KV Nat Entry :=
  v.conveyed.foldl (fun e y => match tableSlot e with | some i => KV.put e i y | none => e) v.group.estate

/-- Kill a group that is SAVED: its windows lose their threads, its recorded commands and collectives are withdrawn as at any kill, and its
estate conveys from its image (R293, R331). -/
def State.killSaved (s : State) (gid : Nat) : State :=
  match KV.at? s.saved gid with
  | none => s
  | some v =>
    if v.group.ending then s
    else
      let g : Group := { v.group with estate := v.table, ending := true, endClock := s.clock }
      let s : State := { s with
        saved := KV.put s.saved gid { v with group := g, conveyed := [] }, groups := KV.put s.groups gid g, cmds := s.cmds ++ v.cmds }
      let s := s.updLaunch g.lid fun l => { l with status := l.status ||| 1 }
      let s := v.threads.foldl (fun s e => match e.1 with | .lane _ _ => s.winThreadGone e.2 | _ => s) s
      let s := v.colls.foldl (fun s e => (s.enterColl e.1 e.2).2) s
      s.askEnd gid

end Sys2Proof.Machine
end

