-- ==== Sys2Proof/Machine/Operands.lean ====
section
/-! DEFINITION. Operands: the special registers (R93), reading an operand code in either stream (R91, R92), the destinations that
a result is written to (R44, R129, R147), float elements (R138, R149), and the SR bits (R128). -/

namespace Sys2Proof.Machine

/-! ## Special registers -/

/-- The content of a special register (R93), zero-extended to 64 bits. -/
def State.special (s : State) (w : Who) (t : Thread) (c : Nat) : BitVec 64 :=
  let r := t.trapRegs
  match c with
  | 0xA0 => t.tid.setWidth 64
  | 0xA1 => BitVec.ofNat 64 (match s.launch? t.lid with | some l => l.nthr | none => 0)
  | 0xA2 => t.grp.setWidth 64
  | 0xA3 => BitVec.ofNat 64 (match s.launch? t.lid with | some l => l.ngrp | none => 0)
  | 0xA4 => BitVec.ofNat 64 t.lane
  | 0xA5 => BitVec.ofNat 64 t.slot
  | 0xA6 => BitVec.ofNat 64 (s.coreOf w t)
  | 0xA7 => s.time
  | 0xA8 => t.recTs
  | 0xA9 => t.recSeq
  | 0xAA => t.recFlags.setWidth 64
  | 0xAB => t.winId.setWidth 64
  | 0xAC => t.winStart
  | 0xAD => if t.bereaved then 1 else 0
  | 0xAE => if t.joinBereaved then 1 else 0
  | 0xAF => r.cause.setWidth 64
  | 0xB0 => r.pc
  | 0xB1 => r.word
  | 0xB2 => r.op.setWidth 64
  | 0xB3 => r.d.setWidth 64
  | 0xB4 => r.a.setWidth 64
  | 0xB5 => r.b.setWidth 64
  | 0xB6 => r.c.setWidth 64
  | 0xB7 => r.imm.setWidth 64
  | _ => 0

/-! ## Sources -/

/-- The small immediate of a code 0xC0 to 0xFF: its low six bits sign-extended (R91). -/
def smallImm (c : BitVec 8) : BitVec 64 := (c.setWidth 6).signExtend 64

/-- Register `c + e` of a lane operand (R43, R44, R91); a small immediate or a special register supplies its low 64 bits in
registers 0 and 1 and zero above. -/
def State.laneReg (s : State) (w : Who) (t : Thread) (c : BitVec 8) (e : Nat) : BitVec 32 :=
  let n := c.toNat
  if n < 0x94 then Sparse.rd t.rdRegs (n + e)
  else
    let v : BitVec 64 := if 0xC0 ≤ n then smallImm c else if 0xA0 ≤ n then s.special w t n else 0
    match e with
    | 0 => v.setWidth 32
    | 1 => v.extractLsb' 32 32
    | _ => 0

/-- An operand read as 64 bits: a lane pair, or a steward's whole `s` register (R44, R92). -/
def State.src64 (s : State) (w : Who) (t : Thread) (c : BitVec 8) : BitVec 64 :=
  match whoStream w with
  | .lanes => s.laneReg w t c 1 ++ s.laneReg w t c 0
  | .steward =>
    let n := c.toNat
    if n < 0x40 then Sparse.rd t.rdSregs n
    else if 0xC0 ≤ n then smallImm c
    else if 0xA0 ≤ n then s.special w t n
    else 0

/-- An operand read as one 32-bit register, or as the low half of a steward's (R138). -/
def State.src32 (s : State) (w : Who) (t : Thread) (c : BitVec 8) : BitVec 32 :=
  match whoStream w with
  | .lanes => s.laneReg w t c 0
  | .steward => (s.src64 w t c).setWidth 32

/-- An operand of a type: 64 bits for the 64-bit types and for a steward, else 32 (R138, R147). -/
def State.srcType (s : State) (w : Who) (t : Thread) (type : Nat) (c : BitVec 8) : BitVec 64 :=
  if typeRegs type = 2 then s.src64 w t c else (s.src32 w t c).setWidth 64

/-- An address or object operand: 64 bits for `.gl`, else 32 (R164). -/
def State.srcAddr (s : State) (w : Who) (t : Thread) (spc : Space) (c : BitVec 8) : BitVec 64 :=
  match spc with
  | .gl => s.src64 w t c
  | _ => (s.src32 w t c).setWidth 64

/-- `n` registers of a lane operand. -/
def State.srcRegs (s : State) (w : Who) (t : Thread) (c : BitVec 8) (n : Nat) : List (BitVec 32) :=
  (List.range n).map (s.laneReg w t c)

/-! ## Destinations -/

/-- A 32-bit result: one lane register, or an `s` register that takes all 64 bits (R129, R147); z discards. -/
def dst32 (w : Who) (c : BitVec 8) (v : BitVec 64) : List (Dest × BitVec 64) :=
  if c = 0x94 then []
  else
    match whoStream w with
    | .lanes => [(.reg c.toNat, v.setWidth 32 |>.setWidth 64)]
    | .steward => [(.sreg c.toNat, v)]

/-- A 64-bit result: a lane pair, or an `s` register (R44); z discards. -/
def dst64 (w : Who) (c : BitVec 8) (v : BitVec 64) : List (Dest × BitVec 64) :=
  if c = 0x94 then []
  else
    match whoStream w with
    | .lanes => [(.reg c.toNat, v.setWidth 32 |>.setWidth 64), (.reg (c.toNat + 1), v >>> 32)]
    | .steward => [(.sreg c.toNat, v)]

/-- A result of a type. -/
def dstType (w : Who) (type : Nat) (c : BitVec 8) (v : BitVec 64) : List (Dest × BitVec 64) :=
  if typeRegs type = 2 then dst64 w c v else dst32 w c v

/-- Results in consecutive lane registers from `c` (R44); z discards. -/
def dstRegs (c : BitVec 8) (vs : List (BitVec 32)) : List (Dest × BitVec 64) :=
  if c = 0x94 then [] else (List.range vs.length).map fun e => (.reg (c.toNat + e), (vs.getD e 0).setWidth 64)

/-- A predicate result (R43, R146): `put` discards a write to number 0. -/
def dstPred (n : BitVec 8) (v : Bool) : List (Dest × BitVec 64) := [(.pred n.toNat, if v then 1 else 0)]

/-! ## Float elements -/

/-- Elements in one register of a float operand: two packed halves, else one (R138). -/
def perReg (type : Nat) : Nat := if type = 9 || type = 10 then 2 else 1

/-- Elements of an instruction (R149). -/
def elemCount (m : BitVec 13) : Nat := if modType m = 12 then 1 else 2 ^ modWidth m * perReg (modType m)

/-- The encoding of element e of a float operand (R138, R149). -/
def State.elem (s : State) (w : Who) (t : Thread) (type : Nat) (c : BitVec 8) (e : Nat) : Nat :=
  if type = 12 then (s.src64 w t c).toNat
  else if perReg type = 2 then (s.laneReg w t c (e / 2)).toNat / 2 ^ (16 * (e % 2)) % 2 ^ 16
  else (s.laneReg w t c e).toNat

/-- The value of element e of a float operand. -/
def State.elemVal (s : State) (w : Who) (t : Thread) (type : Nat) (c : BitVec 8) (e : Nat) : Num :=
  (fmtOf type).val (s.elem w t type c e)

/-- Element encodings written to a float destination, in destination order (R138). -/
def dstElems (w : Who) (type : Nat) (c : BitVec 8) (vs : List Nat) : List (Dest × BitVec 64) :=
  if type = 12 then dst64 w c (BitVec.ofNat 64 (vs.getD 0 0))
  else if perReg type = 2 then
    dstRegs c ((List.range (vs.length / 2)).map fun r => BitVec.ofNat 32 (vs.getD (2 * r) 0 + vs.getD (2 * r + 1) 0 * 2 ^ 16))
  else dstRegs c (vs.map (BitVec.ofNat 32))

/-! ## SR bits -/

/-- SRBITS(e) (R128). -/
def State.srBits (s : State) (t : Thread) (e : Nat) : BitVec 32 :=
  let key := match s.launch? t.lid with | some l => l.key | none => 0
  qhash key [t.pc.setWidth 32, t.pc.extractLsb' 32 32, t.grp, t.tid, t.srCount, BitVec.ofNat 32 e]

/-- The SR count after an instruction that rounds by SR (R128). -/
def Thread.countSr (t : Thread) (rm : Nat) : Thread := if rm = 4 then { t with srCount := t.srCount + 1 } else t

end Sys2Proof.Machine
end

