-- ==== Sys2Proof/Machine/Drain.lean ====
section
/-! DEFINITION. Atomic buffers and reduction slots (R58 to R60, R177): exact accumulators, the drain of an entry at its home, the
flush of a quarter's buffer and the seal of a slot. -/

namespace Sys2Proof.Machine

/-! ## Exact accumulators -/

/-- The magnitude in units of 2^−149 at which the overflow flag is set: 2^170 (R60). -/
def exactLimit : Nat := 2 ^ 319

/-- Add two accumulators; after an overflow the sum keeps its sign and addition stops (R60). -/
def Exact.add (a b : Exact) : Exact :=
  let v := if a.ovf then a.sum else if b.ovf then b.sum else a.sum + b.sum
  { sum := v, nan := a.nan || b.nan, pinf := a.pinf || b.pinf, ninf := a.ninf || b.ninf,
    ovf := a.ovf || b.ovf || decide (exactLimit ≤ v.natAbs) }

/-- A value as an accumulator. -/
def exactOf (x : Num) : Exact :=
  match x with
  | .nan => { Exact.zero with nan := true }
  | .inf n => if n then { Exact.zero with ninf := true } else { Exact.zero with pinf := true }
  | x => { Exact.zero with sum := x.units (-149) }

/-- The sealed encoding of an accumulator in a type 9, 10 or 11 (R60). -/
def Exact.seal (a : Exact) (type : Nat) : Nat :=
  let f := fmtOf type
  if a.nan || (a.pinf && a.ninf) then f.canon
  else if a.pinf || a.ninf then f.infinity a.ninf
  else if a.ovf then f.infinity (decide (a.sum < 0))
  else f.round (.dy (decide (a.sum < 0)) a.sum.natAbs (-149)) 0 false 0

/-! ## Integer operations at a home (R175) -/

/-- The new value of an integer atomic: 0 add, 1 min, 2 max, 3 and, 4 or, 5 xor, 6 xchg (R175). -/
def atomInt (op type : Nat) (old b : BitVec 64) : BitVec 64 :=
  let x := valueOf type old
  let y := valueOf type b
  match op with
  | 0 => wrapTo type (x + y)
  | 1 => if x ≤ y then wrapTo type x else wrapTo type y
  | 2 => if y ≤ x then wrapTo type x else wrapTo type y
  | 3 => old &&& b
  | 4 => old ||| b
  | 5 => old ^^^ b
  | _ => b

/-- The identity of an integer reduction: 0 add, 1 min, 2 max (R176). -/
def redIdentity (op type : Nat) : BitVec 64 :=
  match op with
  | 0 => 0
  | 1 => wrapTo type (typeMax type)
  | _ => wrapTo type (typeMin type)

/-! ## Drains -/

/-- What the drain of one entry comes to. -/
inductive Drained where
  | ok (s : State)
  /-- Held by a recoverable fault; the state holds the parked request. -/
  | held (s : State)
  /-- No reduction slot is free (R60). -/
  | full
  /-- Its request waits at its port for tokens, or for a sub-bus (R371, R404). -/
  | later
  /-- Discarded with the cause that traps the flush point's thread (R177); the state holds the records that the failure leaves. -/
  | fail (s : State) (cause : BitVec 32)
  deriving Repr

/-- Bytes of an entry's type. -/
def typeBytes (t : Nat) : Nat := typeWidth t / 8

/-- Flits of the request of a drain: a header, a data flit and a tail (R368; DEDUCED, log entry 64). -/
def drainFlits : Nat := 3

/-- What a drain whose checks have passed adds at its home, with the value that memory holds (R59, R60). -/
def State.addDrain (s : State) (e : AtomEntry) (l : Loc) (old : Nat) : Drained :=
  let die := homeDie e.va
  let d := s.die die
  if e.op ≠ 3 then .ok (s.wrNat l (typeBytes e.type) (atomInt e.op e.type (BitVec.ofNat 64 old) e.int).toNat)
  else
    match KV.at? d.redSlots l.key with
    | some r => .ok (s.updDie die fun d => { d with redSlots := KV.put d.redSlots l.key { r with acc := r.acc.add e.fp } })
    | none =>
      .ok (s.updDie die fun d =>
        { d with redSlots := KV.put d.redSlots l.key { type := e.type, acc := (exactOf ((fmtOf e.type).val old)).add e.fp } })

/-- A drain that reads memory: an uncorrectable error there discards it (R177, R332). -/
def State.readDrain (s : State) (core : Nat) (e : AtomEntry) (l : Loc) : Drained :=
  let n := typeBytes e.type
  let v : Victim := { part := e.part, lid := 0, grp := 0, core := core }
  match s.readFor v e.va l n with
  | (s, some c) => .fail s c
  | (s, none) => s.addDrain e l (s.rdNat l n)

/-- Drain one entry at its home (R59, R60, R177). -/
def State.drainEntry (s : State) (core quarter : Nat) (e : AtomEntry) : Drained :=
  match (if s.walkOut e.va then none else some (s.gl e.part e.va Want.wr)) with
  | none => .later
  | some (.error (.trap c)) => .fail (if c = 0x020D then s.readWalk e.part e.va else s) c
  | some (.error (.fault c entry level)) => .held (s.park e.part core e.va 1 c entry level (.drain core quarter))
  | some (.ok p) =>
    if p.cls = 4 then .fail s 0x0207
    else
      let d := s.die (homeDie e.va)
      let open_ := KV.at? d.redSlots p.loc.key
      let other : Bool := match open_ with | some r => decide (r.type ≠ e.type) | none => false
      if e.op = 3 ∧ other then .fail s 0x020E
      else if e.op = 3 ∧ open_.isNone ∧ 65536 ≤ d.redSlots.length then .full
      else if !s.net.admits (s.routerOf core) e.part drainFlits || s.subBusOut p.loc then .later
      else
        let s : State := { s with net := s.net.spend (s.routerOf core) e.part drainFlits }
        let s := s.translate e.part e.va
        if e.op = 3 ∧ open_.isSome then s.addDrain e p.loc 0 else s.readDrain core e p.loc

/-- The order of a drain: ascending address, then opcode, then type (R58, R176). -/
def AtomEntry.rank (e : AtomEntry) : Nat := (e.va.toNat * 4 + e.op) * 16 + e.type

/-- Let a quarter's drains be sent again in the next clock, if they are not to be already. -/
def State.planDrain (s : State) (core quarter : Nat) : State :=
  if s.sched.any fun e => decide (e.2 = .event (.reductionDrain core quarter)) then s else s.plan (s.clock + 1) (.reductionDrain core quarter)

/-- Send one entry to its home. Answers the entry if it is still to be added, or has still to be reported as failed. -/
def State.sendEntry (s : State) (core quarter : Nat) (e : AtomEntry) : State × Option AtomEntry :=
  if e.held || e.failed.isSome then (s, some e)
  else
    match s.drainEntry core quarter e with
    | .ok s => (s, none)
    | .held s => (s, some { e with held := true })
    | .full => (s, some e)
    | .later => (s.planDrain core quarter, some e)
    | .fail s c => (s, some { e with failed := some c })

/-- Send entries in order. Answers those that are not added. -/
def State.sendAll (s : State) (core quarter : Nat) : List AtomEntry → State × List AtomEntry
  | [] => (s, [])
  | e :: r =>
    let (s, x) := s.sendEntry core quarter e
    let (s, l) := State.sendAll s core quarter r
    (s, x.toList ++ l)

/-- The entries of a quarter's buffer. -/
def State.buffer (s : State) (core quarter : Nat) : List AtomEntry := (KV.at? (s.core core).atom quarter).getD []

/-- Put the entries of a quarter's buffer. -/
def State.setBuffer (s : State) (core quarter : Nat) (l : List AtomEntry) : State :=
  s.updCore core fun c => { c with atom := KV.put c.atom quarter l }

/-- Send again what a quarter has sent and what is not held (R60, R177). A failure whose thread has ended ends with it; those of
a save's own flush, by `.nobody`, stay. -/
def State.resend (s : State) (core quarter : Nat) : State :=
  let (sent, kept) := (s.buffer core quarter).partition fun e => e.sentBy.isSome
  let (s, l) := s.sendAll core quarter (sortBy AtomEntry.rank sent)
  let lost (e : AtomEntry) : Bool := e.failed.isSome && match e.sentBy with | some w => decide (w ≠ .nobody) && (s.thread? w).isNone | none => false
  s.setBuffer core quarter (l.filter (fun e => !lost e) ++ kept)

/-- A flush point of a thread of a quarter: the whole buffer drains; what is not added stays as sent by it (R58, R177). -/
def State.flush (s : State) (core quarter : Nat) (w : Who) : State :=
  let sent := (s.buffer core quarter).map fun (e : AtomEntry) =>
    if e.sentBy.isNone then { e with sentBy := some w, due := s.clock + s.glLatency (s.dieOf core) e.va } else e
  (s.setBuffer core quarter sent).resend core quarter

/-- Is an entry that has been sent still to be added at its home, so that no flush point of the quarter is complete (R177)? -/
def State.drainHeld (s : State) (core quarter : Nat) : Bool :=
  (s.buffer core quarter).any fun e => e.sentBy.isSome && e.failed.isNone

/-- The failure of the lowest address among the entries that a thread's flush points sent (R177). -/
def State.drainFailure (s : State) (core quarter : Nat) (w : Who) : Option (BitVec 32 × BitVec 64) :=
  (((sortBy AtomEntry.rank (s.buffer core quarter)).filter fun e => decide (e.sentBy = some w)).filterMap fun e =>
    e.failed.map fun c => (c, e.va)).head?

/-- A thread's failures have been reported: they leave the buffer. -/
def State.dropFailures (s : State) (core quarter : Nat) (w : Who) : State :=
  s.setBuffer core quarter ((s.buffer core quarter).filter fun e => !(decide (e.sentBy = some w) && e.failed.isSome))

/-- Is a buffer entry held by a record? -/
def AtomEntry.heldBy (e : AtomEntry) (f : FaultRec) : Bool :=
  e.held && decide (e.part = f.part) && decide (faultPage e.va f.cause f.entry = f.page)

/-- Let entries drain again that no open record of the quarter's holds any longer. -/
def State.unhold (s : State) (core quarter : Nat) : State :=
  let still (e : AtomEntry) : Bool := s.faults.any fun f => e.heldBy f && f.reqs.contains (.drain core quarter)
  s.updCore core fun c =>
    { c with atom := KV.upd c.atom quarter fun l => l.map fun (e : AtomEntry) => { e with held := still e } }

/-- Wake the threads whose flush points wait for held drains or for a reduction slot. -/
def State.wakeDrains (s : State) : State := s.wakeAll fun _ t => decide (t.status = .waiting .drain)

/-- A trap's own release, whose drains have ended, keeps its failure in the origin record; of several the lowest address (R177, R328). -/
def State.keepFailure (s : State) (core quarter : Nat) (w : Who) : State :=
  if s.drainHeld core quarter then s
  else
    match s.drainFailure core quarter w with
    | none => s
    | some x =>
      (s.dropFailures core quarter w).updThread w fun (t : Thread) =>
        { t with trapRec := t.trapRec.map fun (r : TrapRec) => { r with held := some x } }

/-- The origins of traps whose release drained a quarter's buffer. -/
def State.trapReleases (s : State) (quarter core : Nat) : List Who :=
  (s.threads.filter fun e => e.2.trapRec.isSome && decide (s.coreOf e.1 e.2 = core) && decide (quarterOf e.1 e.2 = some quarter)).map (·.1)

/-- Drains of a quarter are sent again: flush points that wait go on, failures of the releases of traps are kept, and their handlers may
start (R60, R177, R328). -/
def State.drainAgain (s : State) (core quarter : Nat) : State :=
  let s := s.resend core quarter
  let s := (s.trapReleases quarter core).foldl (fun s w => s.keepFailure core quarter w) s
  s.wakeDrains.raise (.handlerStart core)

/-- The buffers that hold an entry which waits for a reduction slot. -/
def State.slotWaits (s : State) : List (Nat × Nat) :=
  s.cores.flatMap fun e => e.2.atom.filterMap fun q =>
    if q.2.any fun a => a.sentBy.isSome && !a.held && a.failed.isNone then some (e.1, q.1) else none

end Sys2Proof.Machine
end

