-- ==== Sys2Proof/Machine/Ops.lean ====
section
/-! DEFINITION. The shared operations of every meaning: how an instruction completes, waits, opens its lookahead window, transfers
control, reaches memory in the order of R166, flushes its quarter's buffer, takes a trap (R317, R326 to R331) and how a handler
returns (R205, R329). -/

namespace Sys2Proof.Machine

/-- The outcome of a meaning. -/
abbrev Out := Host.Outcome State Fault Refusal

/-! ## Completing and waiting -/

/-- The executing thread completes its instruction: destinations are written and it goes to the next word. -/
def State.done (s : State) (t : Thread) (ws : List (Dest × BitVec 64)) : State :=
  s.setThread s.cur (t.complete ws (t.pc + 8) s.clock)

/-- Run a meaning for the executing thread when its guard holds; otherwise the thread only goes to the next word (R21, R94). -/
def State.act (s : State) (neg : Bool) (pred : BitVec 3) (k : Thread → State) : Out :=
  match s.thread? s.cur with
  | none => .next s
  | some t => if t.guard neg pred then .next (k t) else .next (s.done t [])

/-- Run an instruction that computes destination values from its sources and changes nothing else. -/
def State.compute (s : State) (neg : Bool) (pred : BitVec 3) (k : Thread → List (Dest × BitVec 64)) : Out :=
  s.act neg pred fun t => s.done t (k t)

/-- The marks of the flush points that a thread's unfinished instructions have passed. -/
def State.flushMarks (s : State) (w : Who) : List Nat := match s.thread? w with | some t => t.flushed | none => []

/-- Keep the executing thread WAITING at its instruction, which it executes again when it is woken; an open window entry is
executed again in the next clock. -/
def State.waitFor (s : State) (t : Thread) (y : Why) : State :=
  let t := { t with flushed := s.flushMarks s.cur }
  match t.redo with
  | some oid => (s.setThread s.cur { t with redo := none, view := none }).planRedo (s.clock + 1) s.cur oid
  | none => s.setThread s.cur { t with status := .waiting y, view := none }

/-- Keep the executing thread PARKED at its instruction, which it executes again when it is woken. -/
def State.parkFor (s : State) (t : Thread) (y : Why) : State :=
  s.setThread s.cur { t with status := .parked y, view := none }

/-- A fresh number. -/
def State.fresh (s : State) : Nat × State := (s.ids, { s with ids := s.ids + 1 })

/-- A free value: a constant without a body at a count that the step advances (DESIGN CHOICE, log entry 2). -/
def State.drawFree (s : State) : BitVec 64 × State := (Config.freeDword s.free, { s with free := s.free + 1 })

/-- The number of the window entry that the present execution opens or completes. -/
def State.windowId (s : State) (t : Thread) : Nat := match t.redo with | some oid => oid | none => s.ids

/-- Open a window for the executing thread's long-latency instruction in a given state of progress (R10). -/
def State.openWindow (s : State) (t : Thread) (la : BitVec 4) (st : OState) (writes : List (Dest × BitVec 64))
    (dests : List Dest) : State :=
  let u := ({ t with flushed := s.flushMarks s.cur } : Thread).open_ s.ids s.word la.toNat st writes dests s.clock
  ({ s with ids := s.ids + 1 } : State).setThread s.cur u

/-- Complete a long-latency instruction whose access has been performed: at once without lookahead, else when its result
arrives after `latency` clocks (R10, R61). -/
def State.finishLong (s : State) (t : Thread) (la : BitVec 4) (latency : Nat) (ws : List (Dest × BitVec 64)) : State :=
  match t.redo with
  | some _ => s.done t ws
  | none =>
    if la = 0 then s.done t ws
    else
      let due := s.clock + latency
      ((s.openWindow t la .latent ws (ws.map (·.1))).setDue s.cur s.ids due).plan due (.longLatencyCompletion s.cur)

/-! ## Ends of threads -/

/-- Let the dispatcher of every die look at its launch order (R358). -/
def State.askPlacement (s : State) : State := (List.range 4).foldl (fun s d => s.raise (.groupPlacement (s.localDie d))) s

/-- End an estate handler thread (R297). A vacated core that it kept from being handed over may be now (R337). -/
def State.endEstateHandler (s : State) (w : Who) (t : Thread) : State :=
  let core := s.coreOf w t
  let s := (s.delThread w).updLaunch t.lid fun l => { l with reports := l.reports - 1 }
  let s := if (s.core core).vacated then s.askPlacement else s
  (s.freeSlot core (laneOf w t)).raise (.launchComplete t.lid)

/-! ## Taking a trap -/

/-- Is a thread an estate handler, which has no origin (R297)? -/
def isEstateHandler (w : Who) (t : Thread) : Bool :=
  match w with
  | .handler _ _ => t.origin.isNone
  | _ => false

/-- The handler entry of a cause: an illegal encoding goes to ILLHANDLER, or to TRAPHANDLER when that is 0; every other cause
goes to TRAPHANDLER (R105, R317). -/
def Launch.handlerFor (l : Launch) (cause : BitVec 32) : BitVec 64 :=
  if 0x0100 ≤ cause.toNat ∧ cause.toNat ≤ 0x0106 ∧ l.illHandler ≠ 0 then l.illHandler else l.trapHandler

/-- The PCs after a word that SKIP names (R329). -/
def skipPcs (pc : BitVec 64) (skip : BitVec 15) : List (BitVec 64) :=
  (List.range 15).filterMap fun i => if skip.getLsbD i then some (pc + BitVec.ofNat 64 (8 * (i + 1))) else none

/-- The origin record of a thread whose first failing window entry is `e` (R329). -/
def Thread.originRecord (t : Thread) (e : Outstanding) (cause : BitVec 32) (faddr : BitVec 64) : TrapRec :=
  let fails := (t.wins.filter Outstanding.broken).map (·.pc)
  let bit (i : Nat) : Bool :=
    let pc := e.pc + BitVec.ofNat 64 (8 * (i + 1))
    (decide (i < e.issued) && !fails.contains pc) || t.skips.contains pc
  { cause := cause, pc := e.pc, word := e.word, faddr := faddr
    skip := (List.range 15).foldl (fun b i => if bit i then b ||| ((1 : BitVec 15) <<< i) else b) 0
    pass := false
    replays := (t.wins.filter fun o => o.broken && decide (o.pc ≠ e.pc)).map (fun o => (o.pc, o.snap)) ++
      t.replays.filter fun r => decide (r.1 ≠ e.pc)
    wrote := eachOnce (e.later.filter fun x => !fails.contains x.1)
    held := none }

/-- Insert into the trap queue in the order of R326: by clock, then by thread number. -/
def State.queueTrap (s : State) (core : Nat) (w : Who) : State :=
  let rank (x : Who) : Nat :=
    (match s.thread? x with | some t => t.readySince | none => 0) * 4096 + s.threadNumber x
  s.updCore core fun c => { c with trapQueue := sortBy rank (c.trapQueue ++ [w]) }

/-- The unrecoverable trap of a thread all of whose windows have ended (R317, R326, R328 to R331): the completed window words
keep their effects, the origin record is made, the origin parks and releases, and a handler thread starts twelve clocks on, and not before
the release is performed. A thread that has been stopped takes none. A
trap in a handler kills its origin's group; with no handler entry the group is killed; an estate handler that traps ends. -/
def State.trapNow (s : State) (w : Who) : State :=
  match s.thread? w with
  | none => s
  | some t =>
    match (if t.status = .waiting .stopped then none else t.wins.find? Outstanding.broken) with
    | none => s
    | some e =>
      match e.state with
      | .failed cause faddr =>
        let s := if cause = 0x0209 then { s with irqs := s.irqs ++ [.badEntry (s.partOf t)] } else s
        match w with
        | .handler _ _ => if t.origin.isNone then s.endEstateHandler w t else s.killGroup t.gid
        | _ =>
          let entry : BitVec 64 := match s.launch? t.lid with | some l => l.handlerFor cause | none => 0
          if entry = 0 then s.killGroup t.gid
          else
            let core := s.coreOf w t
            let u := Thread.putAll t ((t.wins.filter fun o => decide (o.state = .done)).flatMap Outstanding.results)
            let u := { u with
              pc := e.pc, wins := [], trapRec := some (t.originRecord e cause faddr), status := .parked .handler, readySince := s.clock
              view := none, redo := none, skips := [], replays := [], wrote := [], held := [], flushed := [] }
            let s := s.setThread w u
            let s := match quarterOf w t with | some q => (s.flush core q w).keepFailure core q w | none => s
            (s.queueTrap core w).plan (s.clock + 12) (.handlerStart core)
      | _ => s

/-- Does a thread wait at a numbered barrier, where it has arrived (R13)? -/
def Thread.atBarrier (t : Thread) : Bool := match t.status with | .parked (.barrier _) => true | _ => false

/-- Mark a window entry failed; the trap is taken when every open window has ended (R329), and by a thread that has arrived at a barrier
once that completes (R13). -/
def State.failEntry (s : State) (w : Who) (oid : Nat) (cause : BitVec 32) (faddr : BitVec 64) : State :=
  match s.thread? w with
  | none => s
  | some t =>
    let u := { t with
      wins := t.wins.map fun (o : Outstanding) => if o.oid = oid then { o with state := .failed cause faddr } else o
      view := none, redo := none, held := KV.del t.held oid }
    if u.atBarrier || decide (u.status = .waiting .stopped) then s.setThread w u
    else if u.wins.all Outstanding.ended then (s.setThread w u).trapNow w
    else s.setThread w { u with status := .waiting .windows }

/-- Take an unrecoverable trap at the executing thread's instruction, which performs nothing (R193, R317, R329). -/
def State.trap (s : State) (t : Thread) (cause : BitVec 32) (faddr : BitVec 64) : State :=
  match t.redo with
  | some oid => (s.setThread s.cur t).failEntry s.cur oid cause faddr
  | none =>
    let o : Outstanding :=
      { oid := s.ids, pc := t.pc, word := s.word, left := 0, issued := 0, state := .latent, writes := []
        later := t.wroteAfter, snap := t.snap, due := s.clock }
    (({ s with ids := s.ids + 1 } : State).setThread s.cur { t with wins := t.wins ++ [o] }).failEntry s.cur s.ids cause faddr

/-- Park the executing thread on a recoverable fault: its instruction is executed again, with the values it has read, when the
record is resolved (R323). -/
def State.parkFault (s : State) (t : Thread) (la : BitVec 4) (dests : List Dest) (va : BitVec 64) (kind : Nat)
    (cause : BitVec 32) (entry : BitVec 128) (level : Nat) : State :=
  let core := s.coreOf s.cur t
  let part := s.partOf t
  let oid := s.windowId t
  ((s.openWindow t la .redo [] dests).setDue s.cur oid (s.clock + s.glLatency (s.dieOf core) va)).park part core va kind cause entry level
    (.thread s.cur oid va)

/-- The executing thread consumes an uncorrectable error: its instruction performs nothing, and the report goes to its core (R332 to
R334). -/
def State.consume (s : State) (t : Thread) (la : BitVec 4) (dests : List Dest) (cause : BitVec 32) (addr : BitVec 64) : State :=
  let epoch := match s.groupOf t with | some g => g.epoch | none => 0
  (s.openWindow t la .aborted [] dests).raise (.containmentUnwind t.gid epoch s.cur (s.windowId t) cause addr)

/-- What a failing access does to the executing thread: it traps with its own address, parks at the address sent to the home, or consumes
the error of an aborted table walk (R323, R332). -/
def State.xfail (s : State) (t : Thread) (la : BitVec 4) (dests : List Dest) (ea home : BitVec 64) (kind : Nat) (f : XFail) :
    State :=
  match f with
  | .trap c => if c = 0x020D then (s.readWalk (s.partOf t) home).consume t la dests c ea else s.trap t c ea
  | .fault c e l => s.parkFault t la dests home kind c e l

/-! ## Releases, flush points and control transfers -/

/-- What follows waits until the thread's earlier accesses are performed, those of open windows too (R62). -/
def State.performThen (s : State) (t : Thread) (k : State → State) : State := if t.owesAccess then s.waitFor t .access else k s

/-- A flush point of the executing thread sends its home quarter's buffer, once for an instruction: entries that open while it waits are not
its own (R58, R177). -/
def State.flushOnce (s : State) (t : Thread) (core q : Nat) : State :=
  let n := t.redo.getD 0
  if (s.flushMarks s.cur).contains n then s
  else (s.flush core q s.cur).updThread s.cur fun u => { u with flushed := u.flushed ++ [n] }

/-- A flush point of the executing thread: its home quarter's buffer drains; a drain that has still to be added keeps it waiting, and once
all have ended the failure of the lowest address traps it there, or is consumed where it was an uncorrectable error (R58, R80, R177, R333);
then the instruction goes on. -/
def State.flushThen (s : State) (t : Thread) (k : State → State) : State :=
  match quarterOf s.cur t with
  | none => k s
  | some q =>
    let core := s.coreOf s.cur t
    let w := s.cur
    let s := s.flushOnce t core q
    if s.drainHeld core q then s.waitFor t .drain
    else
      match s.drainFailure core q w with
      | some (c, va) =>
        let s := s.dropFailures core q w
        if c = 0x020D then s.consume t 0 [] c va else s.trap t c va
      | none => k s

/-- A release by the executing thread: every earlier access is performed, buffered reductions too, and then the instruction goes on
(R58, R62, R80). -/
def State.releaseFirst (s : State) (t : Thread) (k : State → State) : State := s.performThen t fun s => s.flushThen t k

/-- A control transfer waits for the thread's open windows, whose results are then written (R10, R192). -/
def State.transfer (s : State) (neg : Bool) (pred : BitVec 3) (k : Thread → State) : Out :=
  match s.thread? s.cur with
  | none => .next s
  | some t =>
    if t.wins.any (fun o => !o.ended) then .next (s.setThread s.cur { t with status := .waiting .windows, view := none })
    else
      let t := t.closeWindows true
      if t.guard neg pred then .next (k t) else .next (s.done t [])

/-- The executing thread continues at another PC, with destinations written. -/
def State.goto (s : State) (t : Thread) (ws : List (Dest × BitVec 64)) (pc : BitVec 64) : State :=
  s.setThread s.cur (t.complete ws pc s.clock)

/-! ## Accesses -/

/-- What an access needs (R166): whether it writes, whether it needs a word with tags, whether a notify page refuses it, and
what a `.lr` address does with it. -/
structure Acc where
  write : Bool
  tagged : Bool
  noNotify : Bool
  /-- The `.lr` failure, or 0 where `.lr` may be read. -/
  lr : BitVec 32
  /-- It reads the bytes or the tag (R332, R333). -/
  reads : Bool
  deriving DecidableEq, Repr

/-- A plain load. -/
def Acc.load : Acc := ⟨false, false, false, 0, true⟩
/-- A plain store. -/
def Acc.store : Acc := ⟨true, false, true, 0x0204, false⟩
/-- `ldwf` and `tagrd`. -/
def Acc.tagRead : Acc := ⟨false, true, false, 0x0206, true⟩
/-- `ldwfe`, which changes the tag. -/
def Acc.take : Acc := ⟨true, true, false, 0x0204, true⟩
/-- `stwe`, which waits for a tag. -/
def Acc.await : Acc := ⟨true, true, false, 0x0204, true⟩
/-- `stf`. -/
def Acc.fill : Acc := ⟨true, true, false, 0x0204, false⟩
/-- `tagwr`. -/
def Acc.tagWrite : Acc := ⟨true, true, true, 0x0204, false⟩
/-- An atomic. -/
def Acc.atomic : Acc := ⟨true, false, true, 0x0204, true⟩
/-- An object named by an instruction that neither reads nor changes it. -/
def Acc.object : Acc := ⟨false, true, false, 0x0206, false⟩

/-- The group whose scratchpad and ranks a thread reaches: an estate handler has none (R297). -/
def State.spGroup (s : State) (w : Who) (t : Thread) : Option Group :=
  if isEstateHandler w t then none else s.groupOf t

/-- Has a thread's group stopped issuing for a save (R338)? An instruction whose access has issued is performed. -/
def State.savingOf (s : State) (w : Who) (t : Thread) : Bool :=
  match s.spGroup w t with | some g => g.saving && (KV.at? t.held 0).isNone | none => false

/-- The address of a byte of a launch's parameters (R33, R50). -/
def Launch.paramVa (l : Launch) (ea : BitVec 64) : BitVec 64 := l.record + 0x100 + ea

/-- The address that an access sends to a home, if it sends one. -/
def State.homeVa (s : State) (t : Thread) (spc : Space) (ea : BitVec 64) : Option (BitVec 64) :=
  match spc with
  | .gl => some ea
  | .lr => (s.launch? t.lid).map fun l => l.paramVa ea
  | _ => none

/-- The checks of R166 but the scoreboard's, and the place of the first byte. A rank that is being left is found only by an access that
was issued before (R38). -/
def State.access (s : State) (w : Who) (t : Thread) (spc : Space) (ea : BitVec 64) (size : Nat) (a : Acc) : Except XFail Place :=
  if ea.toNat % size ≠ 0 then .error (.trap 0x0205)
  else
    match spc with
    | .sp =>
      match s.spGroup w t with
      | none => .error (.trap 0x0200)
      | some g =>
        if g.spBytes < ea.toNat + size then .error (.trap 0x0200)
        else .ok { loc := spLoc g.core (g.spBase + ea.toNat), cls := 3 }
    | .gs =>
      if bits ea 31 24 ≠ 0 then .error (.trap 0x0201)
      else
        match s.spGroup w t with
        | none => .error (.trap 0x0202)
        | some g =>
          let issued := (KV.at? t.held (t.redo.getD 0)).isSome
          if g.rank.isNone || (g.leaving && !issued) then .error (.trap 0x0202)
          else
            match s.rankGroup g.share (bits ea 23 20) with
            | none => .error (.trap 0x0202)
            | some (n, o) =>
              if o.leaving && !issued then .error (.trap 0x0202)
              else if o.spBytes < bits ea 19 0 + size then .error (.trap 0x0201)
              else .ok { loc := s.spWord n o (bits ea 19 0), cls := 3 }
    | .lr =>
      if a.lr ≠ 0 then .error (.trap a.lr)
      else
        match s.launch? t.lid with
        | none => .error (.trap 0x0203)
        | some l =>
          if 8 * l.paramLen < ea.toNat + size then .error (.trap 0x0203)
          else s.gl l.part (l.paramVa ea) Want.rd
    | .gl =>
      match s.gl (s.partOf t) ea ⟨a.write, false, false⟩ with
      | .error f => .error f
      | .ok p =>
        if a.tagged && !classTags p.cls then .error (.trap 0x0206)
        else if a.noNotify && decide (p.cls = 4) then .error (.trap 0x0207)
        else .ok p

/-- Does an access overlap an entry of the range scoreboard of its core that was live when it arrived there (R53)? -/
def State.sbBusy (s : State) (t : Thread) (l : Loc) (size : Nat) : Bool :=
  match l.slot with
  | some _ => false
  | none =>
    let ofs := l.key % 2 ^ 20
    let arrived : Option Nat := match KV.at? t.held (t.redo.getD 0) with | some x => x.since | none => none
    let before (cid : Nat) : Bool := match arrived with | some n => decide (cid < n) | none => true
    (s.core ((l.key - 2 ^ 60) / 2 ^ 20)).sb.any fun b => before b.cid && decide (b.lo < ofs + size) && decide (ofs < b.hi)

/-- May an earlier access of the thread that has not been performed touch the bytes of an access: by the word of its wait, or by the sector
of its parked request? One that is on its way may. -/
def State.mayMeet (s : State) (o : Outstanding) (va : Option (BitVec 64)) (l : Loc) (size : Nat) : Bool :=
  match o.state with
  | .tagWait =>
    s.waits.any fun x => decide (x.who = s.cur) && decide (x.oid = o.oid) && decide (l.key / 4 ≤ x.key) && decide (4 * x.key < l.key + size)
  | _ =>
    let parked := s.faults.flatMap fun f => f.reqs.filterMap fun r =>
      match r with
      | .thread w oid a => if w = s.cur ∧ oid = o.oid then some a else none
      | _ => none
    match parked, va with
    | [], _ => true
    | _, none => false
    | as, some v => as.any fun a => decide (bits a 63 5 = bits v 63 5)

/-- Must an access wait for an earlier one of its thread to the same bytes: a thread sees its own earlier accesses, and its accesses of a
word follow its program order (R63, R73 to R75)? -/
def State.ownPending (s : State) (t : Thread) (va : Option (BitVec 64)) (l : Loc) (size : Nat) : Bool :=
  t.earlier.any fun o => o.unperformed && s.mayMeet o va l size

/-! ## What holds back an access -/

/-- The flits of an access's request: a header and a tail, and one data flit when it carries data; none for the core's own scratchpad and
for its launch's parameters (R368, R371; DEDUCED, log entry 64). -/
def accessFlits (spc : Space) (write : Bool) : Nat :=
  match spc with
  | .sp => 0
  | .lr => 0
  | _ => if write then 3 else 2

/-- What holds back an access that has passed its checks, if anything: an earlier access of its thread, the range scoreboard, the tokens at
its port, or the sub-bus (R53, R63, R371, R404). -/
def State.heldBack (s : State) (t : Thread) (spc : Space) (va : Option (BitVec 64)) (l : Loc) (size : Nat) (write : Bool) : Option Why :=
  if s.ownPending t va l size then some .access
  else if s.sbBusy t l size then some .scoreboard
  else if !s.net.admits (s.routerOf (s.coreOf s.cur t)) (s.partOf t) (accessFlits spc write) then some .gust
  else if s.subBusOut l || va.any s.walkOut then some .subBus
  else none

/-- The unloaded clocks to a result (R61): own scratchpad and parameters, group space, and pod-wide memory on the thread's own
die, its package or beyond. -/
def State.latency (s : State) (w : Who) (t : Thread) (spc : Space) (ea : BitVec 64) : Nat :=
  match spc with
  | .sp => 20
  | .lr => 20
  | .gs => 60
  | .gl => s.glLatency (s.dieOfThread w t) ea

/-- The executing thread's access, which has issued, waits: on the range scoreboard it keeps the moment of its arrival (R53). A thread
stays at its own word until its access goes on, whatever its lookahead (R53, R167; DESIGN CHOICE, log entry 81). -/
def State.waitAccess (s : State) (t : Thread) (spc : Space) (l : Loc) (size : Nat) (y : Why) : State :=
  let i := t.redo.getD 0
  let since : Option Nat := match KV.at? t.held i with | some x => x.since | none => none
  let due : Nat :=
    match KV.at? t.held i with
    | some x => x.due
    | none => s.clock + s.latency s.cur t spc (BitVec.ofNat 64 (l.key / 2 ^ 37 * 2 ^ 48))
  let w : Hold :=
    { since := if since.isNone ∧ y = .scoreboard then some s.ids else since, due := due, key := l.key, size := size, gs := decide (spc = .gs), word := s.word }
  s.waitFor { t with held := KV.put t.held i w } y

/-- The state in which an access that nothing holds back is performed: its request has taken its tokens, and the cache holds its page. -/
def State.admitted (s : State) (t : Thread) (spc : Space) (va : Option (BitVec 64)) (write : Bool) : State :=
  let s : State := { s with net := s.net.spend (s.routerOf (s.coreOf s.cur t)) (s.partOf t) (accessFlits spc write) }
  match va with
  | some v => s.translate (s.partOf t) v
  | none => s

/-- One access of the executing thread: the checks of R166 in order, what holds it back, the errors that its read meets, and then the
access. -/
def State.reach (s : State) (t : Thread) (la : BitVec 4) (dests : List Dest) (spc : Space) (ea : BitVec 64) (size : Nat)
    (a : Acc) (k : State → Place → State) : State :=
  let va := s.homeVa t spc ea
  match s.access s.cur t spc ea size a with
  | .error f =>
    if va.any s.walkOut then s.waitAccess t spc { key := dramBase (homeDie (va.getD ea)), slot := some 0 } 0 .subBus
    else s.xfail t la dests ea (va.getD ea) (if a.write then 1 else 0) f
  | .ok p => perform s t la dests spc va ea size a p k
where
  /-- The rest of the access once its checks have passed. -/
  perform (s : State) (t : Thread) (la : BitVec 4) (dests : List Dest) (spc : Space) (va : Option (BitVec 64)) (ea : BitVec 64)
      (size : Nat) (a : Acc) (p : Place) (k : State → Place → State) : State :=
    match s.heldBack t spc va p.loc size a.write with
    | some y => s.waitAccess t spc p.loc size y
    | none => finish (s.admitted t spc va a.write) t la dests va ea size a p k
  /-- The read and the access. -/
  finish (s : State) (t : Thread) (la : BitVec 4) (dests : List Dest) (va : Option (BitVec 64)) (ea : BitVec 64) (size : Nat)
      (a : Acc) (p : Place) (k : State → Place → State) : State :=
    match (if a.reads then s.readFor (s.victimOf s.cur t) (va.getD 0) p.loc size else (s, none)) with
    | (s, some c) => s.consume t la dests c ea
    | (s, none) => k s p

/-- The effective address of R164 with its unit. -/
def State.ea (s : State) (w : Who) (t : Thread) (spc : Space) (a ofs : BitVec 8) (unit : Nat) : BitVec 64 :=
  let o : BitVec 64 := ofs.signExtend 64 * BitVec.ofNat 64 unit
  match spc with
  | .gl => s.src64 w t a + o
  | _ => (s.src32 w t a + o.setWidth 32).setWidth 64

/-! ## Returning from a handler -/

/-- The origin resumes as its record says (R205, R329): from another PC that the handler wrote, past the trapping word with PASS,
or at the trapping word again, which does not write the recorded set; then over its window's words. -/
def Thread.resumed (t : Thread) (r : TrapRec) (clock : Nat) : Thread :=
  let u := { t with trapRec := none, status := .ready, readySince := clock }
  if t.pc ≠ r.pc then { u with skips := [], replays := [], wrote := [] }
  else
    let u := { u with skips := skipPcs r.pc r.skip, replays := r.replays, wrote := r.wrote }
    if r.pass then { u with pc := r.pc + 8 } else u

/-- `tret` in the executing handler thread (R205): the handler ends and its origin resumes; a failure held from the trap's own
release is raised at the PC at which the origin would resume (R177). -/
def State.tret (s : State) (t : Thread) (o : Who) : State :=
  let w := s.cur
  let s := (s.delThread w).freeSlot (s.coreOf w t) (laneOf w t)
  match s.thread? o with
  | none => s
  | some u =>
    match u.trapRec with
    | none => s
    | some r =>
      let v := u.resumed r s.clock
      match r.held with
      | none => s.setThread o v
      | some (c, va) =>
        let (x, s) := s.drawFree
        let word := match s.gl (s.partOf v) v.pc Want.ex with | .ok p => BitVec.ofNat 64 (s.rdNat p.loc 8) | .error _ => x
        let e : Outstanding :=
          { oid := s.ids, pc := v.pc, word := word, left := 0, issued := 0, state := .latent, writes := []
            later := v.wroteAfter, snap := v.snap, due := s.clock }
        (({ s with ids := s.ids + 1 } : State).setThread o { v with wins := v.wins ++ [e] }).failEntry o e.oid c va

end Sys2Proof.Machine
end

