-- ==== Sys2Proof/Machine/Control.lean ====
section
/-! DEFINITION. Group 8: branches, calls and the return stack, rejoin sets, ends, waits, traps and returns (R194 to R205), and the
illegal encoding (R105). -/

namespace Sys2Proof.Machine

/-! ## Branches and landing points (R194, R195) -/

/-- PC + 8·SEXT(IMM32) (R194). -/
def branchTarget (t : Thread) (f : ImmF) : BitVec 64 := t.pc + 8 * f.imm.signExtend 64

/-- `bra` (R194). -/
def execBra (f : ImmF) (s : State) : Out := s.transfer f.neg f.pred fun t => s.goto t [] (branchTarget t f)
/-- `fbra` (R194). -/
def execFbra (f : ImmF) (s : State) : Out := s.transfer f.neg f.pred fun t => s.goto t [] (branchTarget t f)

/-- Is a word a `land` with legal fields in a stream (R195)? -/
def isLand (st : Stream) (w : BitVec 64) : Bool :=
  match decode st w with
  | .ok (.land _) => true
  | _ => false

/-- What a failed fetch of a target leaves beside the trap: a bad entry is reported to the service core, an aborted walk is recorded (R52,
R332). -/
def State.noteTarget (s : State) (t : Thread) (a : BitVec 64) (c : BitVec 32) : State :=
  if c = 0x0209 then { s with irqs := s.irqs ++ [.badEntry (s.partOf t)] }
  else if c = 0x020D then (s.readWalk (s.partOf t) a).fetchError (s.coreOf s.cur t)
  else s

/-- The target word, fetched from its place as any word is: a swapped sub-bus keeps the thread waiting, and a storage error is a failed fetch,
br.fetch, beside its own record and report (R195, R332, R404; DEDUCED, log entry 83). -/
def State.fetchTarget (s : State) (t : Thread) (a : BitVec 64) (l : Loc) (k : State → State) : State :=
  if s.subBusOut l then s.waitFor t .subBus
  else
    match (s.translate (s.partOf t) a).readFetch (s.victimOf s.cur t) a l with
    | (s, true) => s.trap t 0x0301 a
    | (s, false) => if isLand (whoStream s.cur) (BitVec.ofNat 64 (s.rdNat l 8)) then k s else s.trap t 0x0302 a

/-- The checks of a register target (R195); a thread that passes them goes on. -/
def State.checkTarget (s : State) (t : Thread) (a : BitVec 64) (k : State → State) : State :=
  if bits a 2 0 ≠ 0 then s.trap t 0x0300 a
  else
    match (if s.walkOut a then none else some (s.gl (s.partOf t) a Want.ex)) with
    | none => s.waitFor t .subBus
    | some (.error (.trap c)) => (s.noteTarget t a c).trap t 0x0301 a
    | some (.error (.fault c e l)) =>
      (s.setThread s.cur { t with status := .parked .fault, view := none }).park (s.partOf t) (s.coreOf s.cur t) a 2 c e l
        (.fetch s.cur a)
    | some (.ok p) => s.fetchTarget t a p.loc k

/-- `brx` (R195). -/
def execBrx (f : RegF) (s : State) : Out :=
  s.transfer f.neg f.pred fun t =>
    let a := s.src64 s.cur t f.a
    s.checkTarget t a fun s => s.goto t [] a

/-- `land`: only an issue clock (R195). -/
def execLand (f : RegF) (s : State) : Out := s.act f.neg f.pred fun t => s.done t []

/-! ## Calls (R48, R197) -/

/-- The offset of a thread's spill area in its group's allocation; none for a handler thread, or where the area does not fit
(R48, R327). -/
def State.spillBase (s : State) (w : Who) (t : Thread) : Option Nat :=
  match w with
  | .handler _ _ => none
  | _ =>
    match s.groupOf t, s.launch? t.lid with
    | some g, some l =>
      if g.spBytes < 64 * (l.nthr + 1) then none
      else some (g.spBytes - 64 * (l.nthr + 1) + 64 * (if isSteward w then l.nthr else t.tid.toNat))
    | _, _ => none

/-- The place of a spill entry. -/
def State.spillLoc (s : State) (t : Thread) (base i : Nat) : Loc :=
  match s.groupOf t with
  | some g => spLoc g.core (g.spBase + base + 8 * i)
  | none => spLoc 0 0

/-- An access of a spill entry: it waits on the range scoreboard, and a read meets a scratchpad error (R53, R197, R332). -/
def State.spillThen (s : State) (t : Thread) (base i : Nat) (reads : Bool) (k : State → Loc → State) : State :=
  let l := s.spillLoc t base i
  if s.sbBusy t l 8 then s.waitAccess t .sp l 8 .scoreboard
  else
    match (if reads then s.readFor (s.victimOf s.cur t) 0 l 8 else (s, none)) with
    | (s, some c) => s.consume t 0 [] c (BitVec.ofNat 64 (base + 8 * i))
    | (s, none) => k s l

/-- Push the return address and go to the target (R197): at depth 8 and above the oldest hardware entry is spilled first. -/
def State.call (s : State) (t : Thread) (target : BitVec 64) : State :=
  let push (u : Thread) (r : List (BitVec 64)) : Thread := { u with rstack := (t.pc + 8) :: r, depth := t.depth + 1 }
  if 16 ≤ t.depth then s.trap t 0x0303 target
  else if t.depth < 8 then s.goto (push t t.rstack) [] target
  else
    match s.spillBase s.cur t with
    | none => s.trap t 0x0303 target
    | some b =>
      s.spillThen t b (t.depth - 8) false fun s l =>
        (s.wrNat l 8 (t.rstack.getLastD 0).toNat).goto (push t t.rstack.dropLast) [] target

/-- `call` (R197). -/
def execCall (f : ImmF) (s : State) : Out := s.transfer f.neg f.pred fun t => s.call t (branchTarget t f)

/-- `callx` (R195, R197). -/
def execCallx (f : RegF) (s : State) : Out :=
  s.transfer f.neg f.pred fun t =>
    let a := s.src64 s.cur t f.a
    s.checkTarget t a fun s => s.call t a

/-- `ret` (R197): above depth 8 the hardware is refilled from the spill area. -/
def execRet (f : RegF) (s : State) : Out :=
  s.transfer f.neg f.pred fun t =>
    match t.rstack with
    | [] => s.trap t 0x0304 0
    | a :: r =>
      if t.depth = 0 then s.trap t 0x0304 0
      else
        let d := t.depth - 1
        if d < 8 then s.goto { t with rstack := r, depth := d } [] a
        else
          match s.spillBase s.cur t with
          | none => s.trap t 0x0303 0
          | some b =>
            s.spillThen t b (d - 8) true fun s l =>
              s.goto { t with rstack := r ++ [BitVec.ofNat 64 (s.rdNat l 8)], depth := d } [] a

/-! ## Rejoin sets (R198 to R201) -/

/-- The set that `rjmark` at a PC forms in this clock, if one thread has marked already (R199). -/
def Group.markedSet (g : Group) (j : Nat) (pc : BitVec 64) (clock : Nat) : Option Nat :=
  match g.sets.find? (fun e => decide (e.2.j = j) && decide (e.2.pc = pc) && decide (e.2.clock = clock)) with
  | some e => some e.1
  | none => none

/-- Join the set marked at this PC in this clock, or form it. Answers its number. -/
def Group.mark (g : Group) (j : Nat) (pc : BitVec 64) (clock tid : Nat) : Group × Nat :=
  match g.markedSet j pc clock with
  | some n => ({ g with sets := KV.upd g.sets n fun (r : RejoinSet) => { r with members := r.members ++ [tid] } }, n)
  | none =>
    ({ g with
        sets := KV.put g.sets g.setNext { j := j, pc := pc, clock := clock, members := [tid], arrived := [], lost := false }
        setNext := g.setNext + 1 }, g.setNext)

/-- `rjmark` (R199): leave the set that jn names, then join or form the set of this PC and clock. A handler thread is no member of
its origin's group's sets: its jn names the empty set. -/
def execRjmark (f : RegF) (s : State) : Out :=
  s.act f.neg f.pred fun t =>
    let j := f.d.toNat
    match s.cur with
    | .lane gid tid =>
      let s := s.leaveSet gid tid (t.jAt j) false
      match s.group? gid with
      | some g =>
        let (g, n) := g.mark j t.pc s.clock tid
        (s.updGroup gid fun _ => g).done (t.setJ j n) []
      | none => s.done (t.setJ j 0) []
    | _ => s.done (t.setJ j 0) []

/-- `rjoin` (R200): arrive; the set completes when every member has arrived. With the empty set the thread goes on at once. -/
def execRjoin (f : RegF) (s : State) : Out :=
  s.transfer f.neg f.pred fun t =>
    let n := t.jAt f.d.toNat
    match s.cur with
    | .lane gid tid =>
      if n = 0 then s.done { t with joinBereaved := false } []
      else
        let s := s.updGroup gid fun g => { g with sets := KV.upd g.sets n fun (r : RejoinSet) => { r with arrived := r.arrived ++ [tid] } }
        let u := t.complete [] (t.pc + 8) s.clock
        (s.setThread s.cur { u with status := .parked (.rejoin n) }).rejoinCheck gid n
    | _ => s.done { t with joinBereaved := false } []

/-! ## Ends of threads (R202) -/

/-- A lane thread ends: its slot is FREE, and barriers, queues, rejoin sets and its window lose it (R12, R13, R201, R202, R233). -/
def State.endLane (s : State) (gid tid : Nat) (t : Thread) : State :=
  let s := s.delThread (.lane gid tid)
  ((s.laneGone gid t).winThreadGone t).askEnd gid

/-- Is an open window's instruction a `dqpop` that waits for an entry? -/
def Outstanding.waitsPop (o : Outstanding) : Bool :=
  decide (o.state = .redo) &&
    match decode .lanes o.word with
    | .ok (.dqpop _) => true
    | _ => false

/-- Execute the waiting `dqpop`s of a group's lane threads again (R12, R28). -/
def State.promptPops (s : State) (gid : Nat) : State :=
  let more := (s.lanesOf gid).flatMap fun e =>
    (e.2.wins.filter Outstanding.waitsPop).map fun o => Turn.redo (.lane gid e.1) o.oid
  { s with turns := s.turns ++ more }

/-- The steward ends: barriers count lane threads only, waiting `dqpop`s find no more entries, and the containment regions close
(R28, R202). -/
def State.endSteward (s : State) (gid : Nat) : State :=
  let s := (s.delThread (.steward gid)).updGroup gid fun g => { g with regions := [] }
  let s := (List.range 16).foldl (fun s n => s.barrierCheck gid n) s
  (s.promptPops gid).askEnd gid

/-- An asynchronous fault traps the steward with its cause at its next group 14 instruction, `nbar` or `exit` (R264). -/
def State.asyncThen (s : State) (t : Thread) (k : State) : State :=
  match s.cur, s.groupOf t with
  | .steward gid, some g =>
    match g.asyncFault with
    | some (c, a) => (s.updGroup gid fun g => { g with asyncFault := none }).trap t c a
    | none => k
  | _, _ => k

/-- `exit` (R202): in a handler thread it ends the handler and its origin. -/
def execExit (f : RegF) (s : State) : Out :=
  s.transfer f.neg f.pred fun t =>
    match s.cur with
    | .lane gid tid => s.endLane gid tid t
    | .steward gid => s.asyncThen t (s.endSteward gid)
    | .handler core n =>
      match t.origin with
      | none => s.endEstateHandler s.cur t
      | some o =>
        let s := (s.delThread s.cur).freeSlot core n
        match o, s.thread? o with
        | .lane gid tid, some u => s.endLane gid tid u
        | .steward gid, some _ => s.endSteward gid
        | _, _ => s
    | _ => s

/-- `yield` keeps its thread WAITING for 64 clocks (R203). -/
def execYield (f : RegF) (s : State) : Out :=
  s.transfer f.neg f.pred fun t =>
    let u := t.complete [] (t.pc + 8) s.clock
    (s.setThread s.cur { u with status := .waiting .yielding }).plan (s.clock + 64) (.yieldExpiry s.cur)

/-- The end of a `yield`'s 64 clocks (R203). -/
def execYieldExpiry (w : Who) (s : State) : Out :=
  match s.thread? w with
  | some t => .next (if t.status = .waiting .yielding then s.setThread w (t.wake s.clock) else s)
  | none => .next s

/-- `nop` (R203). -/
def execNop (f : RegF) (s : State) : Out := s.act f.neg f.pred fun t => s.done t []

/-! ## Traps (R105, R204, R205) -/

/-- `trap` (R204). -/
def execTrap (f : RegF) (s : State) : Out :=
  s.act f.neg f.pred fun t => s.trap t (0x0400 + BitVec.ofNat 32 (bits f.mod 7 0)) 0

/-- `tret` (R205, R297): a release by the handler, which ends; elsewhere it traps tret.orphan. -/
def execTret (f : RegF) (s : State) : Out :=
  s.transfer f.neg f.pred fun t =>
    match s.cur with
    | .handler _ _ =>
      s.flushThen t fun s =>
        match t.origin with
        | some o => s.tret t o
        | none => s.endEstateHandler s.cur t
    | _ => s.trap t 0x0305 0

/-- An illegal encoding traps its thread, whatever its guard (R105). -/
def execIllegalEncoding (c : IllCause) (_ : BitVec 64) (s : State) : Out :=
  match s.thread? s.cur with
  | some t => .next (s.trap t (IllCause.code c) 0)
  | none => .next s

end Sys2Proof.Machine
end

