-- ==== Sys2Proof/Machine/OrderOps.lean ====
section
/-! DEFINITION. Fences, acquires, releases and bindings (R180 to R183). Accesses are performed whole at their step (DESIGN CHOICE, log entry 7), so
that what an ordering instruction waits for has already happened, but for the quarter's buffered reductions and the thread's accesses that wait
in open windows. -/

namespace Sys2Proof.Machine

/-- The space of an object by its code (R181). -/
def objSpace (code : Nat) : Space := if code = 0 then .sp else if code = 1 then .gs else .gl

/-- `fence`: every earlier access is performed, buffered reductions too, since with a later synchronisation write it is a release
(R70, R76, R180). -/
def execFence (f : RegF) (s : State) : Out := s.act f.neg f.pred fun t => s.releaseFirst t fun s => s.done t []

/-- An object operand is checked as a 32-bit tagged access, which takes its turn in the object's order after the thread's own earlier
accesses of the word, and waits as any access of the word does (R63, R166, R181); then the act. That it waits on the range scoreboard too is
the model's reading (DEDUCED, log entry 82). -/
def State.object (s : State) (t : Thread) (spc : Space) (ea : BitVec 64) (k : State → Place → State) : State := s.reach t 0 [] spc ea 4 Acc.object k

/-- `acq`: takes its place in the object's order, and changes nothing (R181). -/
def execAcq (f : RegF) (s : State) : Out :=
  s.act f.neg f.pred fun t =>
    let spc := objSpace (subSpace f.mod)
    s.object t spc (s.srcAddr s.cur t spc f.a) fun s _ => s.done t []

/-- `rel`: once its object has been checked it waits for the thread's earlier accesses, a flush point; then it takes its place in the object's
order and changes nothing (R58, R181). -/
def execRel (f : RegF) (s : State) : Out :=
  s.act f.neg f.pred fun t =>
    let spc := objSpace (subSpace f.mod)
    let ea := s.srcAddr s.cur t spc f.a
    let act (s : State) : State := s.object t spc ea fun s _ => s.done t []
    match s.access s.cur t spc ea 4 Acc.object with
    | .error _ => act s
    | .ok _ => s.releaseFirst t act

/-- Do two ranges share a 32-byte sector, both widened outward (R65)? -/
def sectorsMeet (lo hi lo' hi' : Nat) : Bool :=
  decide (lo / 32 < (hi' + 31) / 32) && decide (lo' / 32 < (hi + 31) / 32)

/-- The groups on a core. -/
def State.groupsOn (s : State) (core : Nat) : List (Nat × Group) := s.groups.filter fun e => decide (e.2.core = core)

/-- Queue bindings of a core's groups as (PROD word, low key, high key) (R66). -/
def State.queueRegions (s : State) (core : Nat) : List (Nat × Nat × Nat) :=
  (s.groupsOn core).flatMap fun e =>
    e.2.queues.map fun q =>
      let b := spBaseKey core + e.2.spBase
      ((b + q.2.ofs + 12) / 4, b + q.2.base, b + q.2.base + q.2.bytes)

/-- Binding records in use in a core's pool of 256 (R65, R66). -/
def State.poolUsed (s : State) (core : Nat) : Nat :=
  (s.core core).binds.length + ((s.groupsOn core).map fun e => e.2.queues.length).foldl (· + ·) 0

/-- The group whose allocation holds a scratchpad object that the executing thread names (R182). -/
def State.objOwner (s : State) (t : Thread) (spc : Space) (obj : BitVec 64) : Option Group :=
  match s.spGroup s.cur t with
  | none => none
  | some g =>
    match spc with
    | .sp => some g
    | _ => match s.rankGroup g.share (bits obj 23 20) with | some (_, o) => some o | none => none

/-- The answer of a home to `bind` (R182). -/
def State.tryBind (s : State) (t : Thread) (spc : Space) (p : Place) (obj base : BitVec 64) (len : Nat) : Option State :=
  if len = 0 ∨ 2 ^ 30 < len then none
  else
    let k := p.loc.key / 4
    match spc with
    | .gl =>
      let lo := base.toNat
      let hi := lo + len
      let all := s.dies.flatMap fun d => d.2.binds
      let home := homeDie obj
      if 8 ≤ (all.filter fun b => decide (b.obj = k)).length then none
      else if all.any fun b => decide (b.obj ≠ k) && sectorsMeet b.lo b.hi lo hi then none
      else if 16384 ≤ (s.die home).binds.length then none
      else some (s.updDie home fun d => { d with binds := d.binds ++ [{ obj := k, base := base, lo := lo, hi := hi, lid := t.lid }] })
    | _ =>
      let core := (p.loc.key - 2 ^ 60) / 2 ^ 20
      match s.objOwner t spc obj with
      | none => none
      | some g =>
        let ofs := if spc = .gs then bits base 19 0 else bits base 31 0
        if g.spBytes < ofs + len then none
        else if spc = .gs ∧ bits base 31 20 ≠ bits obj 31 20 then none
        else
          let lo := spBaseKey core + g.spBase + ofs
          let hi := lo + len
          let all := (s.core core).binds
          if 8 ≤ (all.filter fun b => decide (b.obj = k)).length then none
          else if all.any fun b => decide (b.obj ≠ k) && sectorsMeet b.lo b.hi lo hi then none
          else if (s.queueRegions core).any fun q => decide (q.1 ≠ k) && sectorsMeet q.2.1 q.2.2 lo hi then none
          else if 256 ≤ s.poolUsed core then none
          else some (s.updCore core fun c => { c with binds := c.binds ++ [{ obj := k, base := base, lo := lo, hi := hi, lid := t.lid }] })

/-- `bind` (R65, R182). -/
def execBind (f : RegF) (s : State) : Out :=
  s.act f.neg f.pred fun t =>
    let spc := objSpace (subSpace f.mod)
    let obj := s.srcAddr s.cur t spc f.c
    s.object t spc obj fun s p =>
      match s.tryBind t spc p obj (s.srcAddr s.cur t spc f.a) (s.src32 s.cur t f.b).toNat with
      | some u => u.done t (dstPred f.d true)
      | none => s.done t (dstPred f.d false)

/-- The list without its first record of an object and a base; none when there is none. -/
def removeBind (obj : Nat) (base : BitVec 64) : List BindRec → Option (List BindRec)
  | [] => none
  | b :: r =>
    if b.obj = obj ∧ b.base = base then some r
    else
      match removeBind obj base r with
      | some l => some (b :: l)
      | none => none

/-- `unbind`: the earliest region of the object with the base (R183). -/
def execUnbind (f : RegF) (s : State) : Out :=
  s.act f.neg f.pred fun t =>
    let spc := objSpace (subSpace f.mod)
    let obj := s.srcAddr s.cur t spc f.c
    s.object t spc obj fun s p =>
      let base := s.srcAddr s.cur t spc f.a
      let k := p.loc.key / 4
      match spc with
      | .gl =>
        let home := homeDie obj
        match removeBind k base (s.die home).binds with
        | some l => (s.updDie home fun d => { d with binds := l }).done t (dstPred f.d true)
        | none => s.done t (dstPred f.d false)
      | _ =>
        let core := (p.loc.key - 2 ^ 60) / 2 ^ 20
        match removeBind k base (s.core core).binds with
        | some l => (s.updCore core fun c => { c with binds := l }).done t (dstPred f.d true)
        | none => s.done t (dstPred f.d false)

end Sys2Proof.Machine
end

