-- ==== Sys2Proof/Machine/Engine.lean ====
section
/-! DEFINITION. What the engines share: the traps that wait for a steward's next engine instruction (R56, R264), queue control words
(R55, R56, R262), the bytes that an engine command reads and writes (R188, R190), and the end of a command (R189). -/

namespace Sys2Proof.Machine

/-! ## Traps that wait for the steward -/

/-- A queue that the engines found bad traps its steward with qcw.bad at the next engine instruction; one that a command of a half found is
an asynchronous fault, which a copy takes too (R56, R264). -/
def State.engineThen (s : State) (t : Thread) (k : State) : State :=
  match s.cur, s.groupOf t with
  | .steward gid, some g =>
    match g.queues.find? (fun e => e.2.bad) with
    | some (n, _) =>
      (s.updGroup gid fun g => { g with queues := KV.upd g.queues n fun (x : QBind) => { x with bad := false } }).trap t 0x0604 0
    | none =>
      match g.asyncFault with
      | some (c, a) => if c = 0x0604 then (s.updGroup gid fun g => { g with asyncFault := none }).trap t c a else k
      | none => k
  | _, _ => k

/-- A group 14 instruction: an asynchronous fault first, then a bad queue (R56, R264). -/
def State.arrayThen (s : State) (t : Thread) (k : State) : State := s.asyncThen t (s.engineThen t k)

/-! ## Queue control words -/

/-- Does a QCW stop its queue: occ above DEPTH or a reserved value (R55, R56)? -/
def qStopped (q : Nat) : Bool :=
  decide (natBits q 27 0 ≠ 0) || decide (qDepth q = 0) || decide (4096 < qDepth q) || decide (qDepth q < qOcc q)
    || decide (natBits q 63 44 % min (qSize q) 64 ≠ 0)

/-- Does a scratchpad range lie in a group's allocation? -/
def inAlloc (g : Group) (ofs n : Nat) : Bool := decide (ofs + n ≤ g.spBytes)

/-- The bytes of a group's allocation below its spill area (R48). -/
def State.belowSpill (s : State) (g : Group) : Nat :=
  match s.launch? g.lid with
  | some l => if g.spBytes < 64 * (l.nthr + 1) then g.spBytes else g.spBytes - 64 * (l.nthr + 1)
  | none => g.spBytes

/-- Is the QCW at an offset refused at its binding (R261), or stopped when an engine reads it (R55, R56)? One rewritten after `qcset` so that
its storage leaves the allocation or meets the spill area counts as stopped, beside the cases that R56 and R187 name (DESIGN CHOICE, log
entry 66). -/
def State.qcwRefused (s : State) (g : Group) (ofs : Nat) : Bool :=
  decide (ofs % 16 ≠ 0) || !inAlloc g ofs 16 ||
    (let w := s.qcw g ofs
     qStopped w || decide (s.belowSpill g < natBits w 63 44 + qDepth w * qSize w))

/-- Write a pointer word of a QCW as `stf.rel` at core scope does: byte 8 is CONS, byte 12 is PROD (R56, R262). -/
def State.qAdvance (s : State) (g : Group) (ofs byte n : Nat) : State :=
  let l := spLoc g.core (g.spBase + ofs + byte)
  s.stf l false (BitVec.ofNat 32 n)

/-- An engine found a queue stopped: its steward traps at its next engine instruction (R56). -/
def State.markBad (s : State) (gid n : Nat) : State :=
  s.updGroup gid fun g => { g with queues := KV.upd g.queues n fun (x : QBind) => { x with bad := true } }

/-! ## Bytes of an engine command -/

/-- A byte that an engine command names: its place or the failure, and its address. -/
abbrev EngByte := Except XFail Loc × BitVec 64

/-- The place of a byte in a space (0 `.sp`, 1 `.gs`, 2 `.gl`) for a group's engine command, or the failure (R166, R188). A write to a
notify page fails as a plain store does. -/
def State.engPlace (s : State) (g : Group) (space : Nat) (a : BitVec 64) (write : Bool) : Except XFail Loc :=
  match space with
  | 0 => if g.spBytes ≤ bits a 31 0 then .error (.trap 0x0200) else .ok (spLoc g.core (g.spBase + bits a 31 0))
  | 1 =>
    if bits a 31 24 ≠ 0 then .error (.trap 0x0201)
    else if g.rank.isNone then .error (.trap 0x0202)
    else
      match s.rankGroup g.share (bits a 23 20) with
      | none => .error (.trap 0x0202)
      | some (n, o) => if o.spBytes ≤ bits a 19 0 then .error (.trap 0x0201) else .ok (s.spWord n o (bits a 19 0))
  | _ =>
    match s.gl g.part a (if write then Want.ewr else Want.erd) with
    | .error f => .error f
    | .ok p => if write && decide (p.cls = 4) then .error (.trap 0x0207) else .ok p.loc

/-- A page that a TRAP reply has refused fails with the record's cause (R325). -/
def refuse (l : List (Nat × BitVec 32)) (x : EngByte) : EngByte :=
  match x.1 with
  | .error (.fault c e _) => if l.contains (faultPage x.2 c e, c) then (.error (.trap c), x.2) else x
  | _ => x

/-- The first page that holds bytes: its address, cause, entry and level (R188). -/
def firstHold (l : List EngByte) : Option (BitVec 64 × BitVec 32 × BitVec 128 × Nat) :=
  l.findSome? fun x => match x.1 with | .error (.fault c e n) => some (x.2, c, e, n) | _ => none

/-- Does a byte, or the walk of its address, cross a sub-bus that is out of use (R404)? -/
def State.spotOut (s : State) (x : EngByte) : Bool :=
  match x.1 with
  | .ok l => s.subBusOut l || (l.slot.isSome && s.walkOut x.2)
  | .error (.fault _ _ _) => s.walkOut x.2
  | .error (.trap c) => (decide (c = 0x0209) || decide (c = 0x020A) || decide (c = 0x020D)) && s.walkOut x.2

/-- The translations that the bytes of a command need: the caches hold the walked pages, an aborted walk leaves its record, and a bad entry is
reported to the service core (R52, R322, R332). -/
def State.touchSpots (s : State) (part : Nat) (l : List EngByte) : State :=
  let far := l.filter fun x => match x.1 with | .ok p => p.slot.isSome | .error (.trap c) => decide (c = 0x020D) | .error _ => false
  let pages := eachOnce (far.map fun x => x.2.toNat / 65536)
  let s := pages.foldl (fun s p => s.translate part (BitVec.ofNat 64 (p * 65536))) s
  if l.any fun x => match x.1 with | .error (.trap c) => decide (c = 0x0209) | _ => false then { s with irqs := s.irqs ++ [.badEntry part] } else s

/-- Read the source sectors of bytes, each once: those that abort. An uncorrectable scratchpad word aborts its sector (R190, R332). -/
def State.readSectors (s : State) (v : Victim) (l : List EngByte) : State × List Nat :=
  if s.flaws.isEmpty then (s, [])
  else
    let places := l.filterMap fun x => match x.1 with | .ok p => some (p.key / 32, p.slot, x.2) | .error _ => none
    let once := places.foldl (fun seen x => if seen.any fun y => decide (y.1 = x.1) then seen else seen ++ [x]) []
    once.foldl (fun (acc : State × List Nat) x =>
      let (s, c) := acc.1.readFor v x.2.2 { key := 32 * x.1, slot := x.2.1 } 32
      (s, if c.isSome then acc.2 ++ [x.1] else acc.2)) (s, [])

/-- The bytes of sources, each with the cause for which it cannot be read (R190). -/
def State.readSpots (s : State) (v : Victim) (l : List EngByte) : State × List (Except (BitVec 16) Byte) :=
  let (s, bad) := s.readSectors v l
  (s, l.map fun x =>
    match x.1 with
    | .ok p => if bad.contains (p.key / 32) then .error 0x020D else .ok (s.rdByte p 0)
    | .error (.trap c) => .error (c.setWidth 16)
    | .error (.fault c _ _) => .error (c.setWidth 16))

/-- Write bytes that have been read to their destinations, in one indivisible write; answers what is left unwritten of each (R188, R190). -/
def State.writeSpots (s : State) : List (Except (BitVec 16) Byte × EngByte) → State × List (Option (BitVec 16))
  | [] => (s, [])
  | (x, d) :: r =>
    let (s, f) : State × Option (BitVec 16) :=
      match x, d.1 with
      | .error c, _ => (s, some c)
      | _, .error (.trap c) => (s, some (c.setWidth 16))
      | _, .error (.fault c _ _) => (s, some (c.setWidth 16))
      | .ok b, .ok p => (s.wrByte p 0 b, none)
    let (s, l) := State.writeSpots s r
    (s, f :: l)

/-- What a sector of a command comes to: done, with the units that failed and their causes in ascending destination address and an address
whose read aborted; held by a page; or waiting for a sub-bus or for tokens, with the requests that have been injected. -/
inductive Moved where
  | done (s : State) (fails : List (Nat × BitVec 16)) (aborted : Option (BitVec 64))
  | held (va : BitVec 64) (cause : BitVec 32) (entry : BitVec 128) (level : Nat)
  | later (s : State) (paid : Nat)
  deriving Repr

/-- Count a sector of a command as done, with the units that failed in it (R189). -/
def Cmd.note (c : Cmd) (fails : List (Nat × BitVec 16)) (aborted : Option (BitVec 64)) : Cmd :=
  { c with
    progress := c.progress + 1, refused := [], paid := 0
    failed := eachOnce (c.failed ++ fails.map (·.1))
    cause := if c.failed.isEmpty then (match fails with | x :: _ => x.2 | [] => c.cause) else c.cause
    aborted := match c.aborted with | some a => some a | none => aborted }

/-- Hold a command at its present sector until the fault record is resolved (R188, R323). -/
def State.holdCmd (s : State) (cid : Nat) (c : Cmd) (va : BitVec 64) (cause : BitVec 32) (entry : BitVec 128) (level : Nat) : State :=
  ({ s with cmds := KV.put s.cmds cid { c with held := true } } : State).park c.part c.core va 3 cause entry level (.cmd cid)

/-- A cause goes to the containment region of a command's group (R190, R334). -/
def State.raiseTo (s : State) (gid : Nat) (cause : BitVec 32) (addr : BitVec 64) : State :=
  let epoch := match s.group? gid with | some g => g.epoch | none => 0
  s.raise (.containmentUnwind gid epoch .nobody 0 cause addr)

/-- After a replay of a fill log the fills of its group that waited for it go on (R268). -/
def State.nextFills (s : State) (c : Cmd) : State :=
  if !c.silent then s
  else
    (s.cmds.filter fun e => decide (e.2.gid = c.gid) && decide (e.2.kind = .cpb) && e.2.started && !e.2.held).foldl
      (fun s e => s.raise (.engineCommandCompletion e.1)) s

/-- A command ends with what its sectors came to; an aborted source is raised to the containment region afterwards (R189, R190). -/
def State.endCmd (s : State) (cid : Nat) (c : Cmd) : State :=
  let s := (s.finishCmd cid c (doneValue c.failed.length c.cause (!c.failed.isEmpty))).askEnd c.gid
  let s := s.nextFills c
  match c.aborted with
  | some a => s.raiseTo c.gid 0x020D a
  | none => s

/-- A command whose completion word fails moves nothing, frees its entry, and raises the cause (R190). -/
def State.failDone (s : State) (cid : Nat) (c : Cmd) (x : BitVec 32) : State :=
  let spot : EngByte := (.error (.trap x), c.doneAddr)
  (((s.touchSpots c.part [spot]).retireCmd cid).askEnd c.gid).raiseTo c.gid x c.doneAddr

/-- The check of DONE at its home before any source is read (R188, R190). -/
def State.withDone (s : State) (cid : Nat) (c : Cmd) (k : State) : State :=
  if c.silent then k
  else
    match s.donePlace c with
    | .ok _ => k
    | .error (.trap x) => s.failDone cid c x
    | .error (.fault x e l) =>
      if c.refused.contains (faultPage c.doneAddr x e, x) then s.failDone cid c x else s.holdCmd cid c c.doneAddr x e l

end Sys2Proof.Machine
end

