-- ==== Sys2Proof/Machine/CopyOps.lean ====
section
/-! DEFINITION. The copy engine: `cp` and `gth` (R184 to R188), copies into queues (R188, R347) and the completion of engine commands,
those of `cpb` too (R189 to R191, R267). -/

namespace Sys2Proof.Machine

/-! ## Acceptance (R185 to R187) -/

/-- Is a DADDR or SADDR well formed for its space (R185)? -/
def addrForm (space : Nat) (a : BitVec 64) : Bool :=
  match space with
  | 2 => true
  | 3 => decide (bits a 63 8 = 0)
  | _ => decide (bits a 63 32 = 0)

/-- Does DONE have its form, and lie in the allocation when it is in `.sp` (R185, R187)? -/
def doneForm (g : Group) (gl : Bool) (a : BitVec 64) : Bool :=
  decide (a.toNat % 4 = 0) && (gl || (decide (bits a 63 32 = 0) && inAlloc g (bits a 31 0) 4))

/-- Is a queue destination refused (R187)? -/
def State.queueRefused (s : State) (g : Group) (q n : Nat) : Bool :=
  match KV.at? g.queues q with
  | none => true
  | some b =>
    let w := s.qcw g b.ofs
    s.qcwRefused g b.ofs || decide (n % qSize w ≠ 0) || decide (qDepth w < n / qSize w)

/-- Why a `cp` descriptor is refused, if it is (R185, R187). -/
def State.cpRefused (s : State) (g : Group) (d : List (BitVec 64)) : Bool :=
  let w (i : Nat) : BitVec 64 := d.getD i 0
  let c := w 2
  let len := bits c 31 0
  let ds := bits c 35 34
  let ss := bits c 33 32
  decide (bits c 63 37 ≠ 0) || decide (ss = 3) || decide (2 ^ 30 < len) || !addrForm ds (w 0) || !addrForm ss (w 1)
    || (decide (ds = 0) && !inAlloc g (bits (w 0) 31 0) len) || (decide (ss = 0) && !inAlloc g (bits (w 1) 31 0) len)
    || !doneForm g (c.getLsbD 36) (w 3) || (decide (ds = 3) && s.queueRefused g (w 0).toNat len)

/-- Why a `gth` descriptor is refused, if it is (R186, R187). -/
def State.gthRefused (s : State) (g : Group) (d : List (BitVec 64)) : Bool :=
  let w (i : Nat) : BitVec 64 := d.getD i 0
  let c := w 2
  let e := w 3
  let count := bits c 31 0
  let size := 2 ^ (2 + bits e 36 32)
  let iw := if e.getLsbD 37 then 8 else 4
  let ds := bits c 35 34
  let ss := bits c 33 32
  decide (bits c 63 37 ≠ 0) || decide (ss = 3) || decide (65536 < count) || decide (bits e 63 38 ≠ 0) || decide (7 < bits e 36 32)
    || !addrForm ds (w 0) || !addrForm ss (w 1) || decide (w 5 ≠ 0 ∨ w 6 ≠ 0 ∨ w 7 ≠ 0)
    || (decide (ds = 0) && !inAlloc g (bits (w 0) 31 0) (count * size))
    || decide (bits e 31 0 % iw ≠ 0) || !inAlloc g (bits e 31 0) (count * iw)
    || !doneForm g (c.getLsbD 36) (w 4) || (decide (ds = 3) && s.queueRefused g (w 0).toNat (count * size))

/-- The scratchpad range that a destination takes in the range scoreboard: core, first and last byte, widened to sectors (R53). -/
def State.sbRange (s : State) (g : Group) (space : Nat) (a : BitVec 64) (n : Nat) : Option (Nat × Nat × Nat) :=
  let wide (core ofs : Nat) : Option (Nat × Nat × Nat) :=
    if n = 0 then none else some (core, ofs / 32 * 32, (ofs + n + 31) / 32 * 32)
  match space with
  | 0 => wide g.core (g.spBase + bits a 31 0)
  | 1 =>
    if bits a 31 24 ≠ 0 ∨ g.rank.isNone then none
    else
      match s.rankGroup g.share (bits a 23 20) with
      | none => none
      | some (_, o) => wide o.core (o.spBase + bits a 19 0)
  | _ => none

/-- The descriptor words of an engine instruction, in the group's allocation: `n` 64-bit words aligned to their size, read as the
steward's own loads. -/
def State.descriptor (s : State) (t : Thread) (la : BitVec 4) (ofs n : Nat) (k : State → List (BitVec 64) → State) : State :=
  s.reach t la [] .sp (BitVec.ofNat 64 ofs) (8 * n) Acc.load fun s p =>
    k s ((List.range n).map fun i => BitVec.ofNat 64 (s.rdNat { p.loc with key := p.loc.key + 8 * i } 8))

/-- A command with the acquire flag is accepted after the steward's earlier accesses, open windows too, so that it sees their writes (R62,
R79). -/
def State.acquireFirst (s : State) (t : Thread) (m : BitVec 13) (k : State → State) : State :=
  if m.getLsbD 9 then s.performThen t k else k s

/-- A command as accepted from an instruction (R187). -/
def newCmd (kind : CmdKind) (gid : Nat) (g : Group) (d : List (BitVec 64)) (m : BitVec 13) : Cmd :=
  { kind := kind, gid := gid, part := g.part, core := g.core, desc := d, acq := m.getLsbD 9, rel := m.getLsbD 8, scope := bits m 12 10
    progress := 0, failed := [], cause := 0, aborted := none, refused := [], paid := 0, waitsRoom := false, held := false, started := false, silent := false, limit := none }

/-- Take a scoreboard entry for a command (R53). -/
def State.sbTake (s : State) (cid : Nat) : Option (Nat × Nat × Nat) → State
  | some (core, lo, hi) => s.updCore core fun x => { x with sb := x.sb ++ [⟨cid, lo, hi⟩] }
  | none => s

/-- Accept a copy or gather: the scoreboard entry, the command, and its start (R187). -/
def State.acceptCopy (s : State) (t : Thread) (la : BitVec 4) (g : Group) (c : Cmd) : State :=
  let range := s.sbRange g (bits (c.dw 2) 35 34) (c.dw 0) c.bytes
  let full (r : Nat × Nat × Nat) : Bool := decide (64 ≤ (s.core r.1).sb.length)
  if (match range with | some r => full r | none => false) then s.waitFor t .scoreboard
  else
    let (cid, s) := s.fresh
    let s : State := { s with cmds := KV.put s.cmds cid c }
    let s := (s.sbTake cid range).finishLong t la 20 []
    if c.toQueue then s.raise (.copyQueueWrite cid) else s.plan (s.clock + 64) (.engineCommandCompletion cid)

/-- `cp` (R184, R185, R187). -/
def execCp (f : RegF) (s : State) : Out :=
  s.act f.neg f.pred fun t =>
    s.engineThen t <|
      match s.groupOf t with
      | none => s.trap t 0x0200 0
      | some g =>
        s.acquireFirst t f.mod fun s =>
          s.descriptor t f.la (s.src32 s.cur t f.a).toNat 4 fun s d =>
            if s.cpRefused g d then s.trap t 0x020F 0 else s.acceptCopy t f.la g (newCmd .cp t.gid g d f.mod)

/-- `gth` (R184, R186, R187). -/
def execGth (f : RegF) (s : State) : Out :=
  s.act f.neg f.pred fun t =>
    s.engineThen t <|
      match s.groupOf t with
      | none => s.trap t 0x0200 0
      | some g =>
        s.acquireFirst t f.mod fun s =>
          s.descriptor t f.la (s.src32 s.cur t f.a).toNat 8 fun s d =>
            if s.gthRefused g d then s.trap t 0x020F 0 else s.acceptCopy t f.la g (newCmd .gth t.gid g d f.mod)

/-! ## The bytes of one sector -/

/-- The space of a copy's destination: a queue's storage lies in `.sp`. -/
def Cmd.dstSpace (c : Cmd) : Nat := if c.toQueue then 0 else bits (c.dw 2) 35 34

/-- Byte at distance i from a source address (R188). -/
def Cmd.srcAddr (c : Cmd) (base : BitVec 64) (i : Nat) : BitVec 64 :=
  if bits (c.dw 2) 33 32 = 2 then base + BitVec.ofNat 64 i else (base.setWidth 32 + BitVec.ofNat 32 i).setWidth 64

/-- A source byte. -/
def State.srcSpot (s : State) (g : Group) (c : Cmd) (base : BitVec 64) (i : Nat) : EngByte :=
  (s.engPlace g (bits (c.dw 2) 33 32) (c.srcAddr base i) false, c.srcAddr base i)

/-- A destination byte. -/
def State.dstSpot (s : State) (g : Group) (c : Cmd) (a : Nat) : EngByte :=
  (s.engPlace g c.dstSpace (BitVec.ofNat 64 a) true, BitVec.ofNat 64 a)

/-- The bytes of a destination in one of its sectors: number and address, ascending. -/
def Dst.bytesIn (d : Dst) (sector : Nat) : List (Nat × Nat) :=
  (List.range 32).flatMap fun k => (d.bytesAt (32 * sector + k)).map fun i => (i, 32 * sector + k)

/-- Bytes of an index of a gather (R186). -/
def Cmd.indexBytes (c : Cmd) : Nat := if (c.dw 3).getLsbD 37 then 8 else 4

/-- The bytes of the index of element k, read as source data (R188). -/
def State.indexSpots (s : State) (g : Group) (c : Cmd) (k : Nat) : List EngByte :=
  (List.range c.indexBytes).map fun b =>
    let a := bits (c.dw 3) 31 0 + c.indexBytes * k + b
    (s.engPlace g 0 (BitVec.ofNat 64 a) false, BitVec.ofNat 64 a)

/-- The index of an element from its bytes, if they could be read. -/
def indexOf (l : List (Except (BitVec 16) Byte)) : Except (BitVec 16) Nat :=
  match l with
  | [] => .ok 0
  | .error c :: _ => .error c
  | .ok b :: r => match indexOf r with | .ok n => .ok (b.toNat + 256 * n) | .error c => .error c

/-- The indices of elements of a gather, each once. -/
def State.readIndices (s : State) (v : Victim) (g : Group) (c : Cmd) : List Nat → State × List (Nat × Except (BitVec 16) Nat)
  | [] => (s, [])
  | k :: r =>
    let (s, l) := s.readSpots v (s.indexSpots g c k)
    let (s, m) := State.readIndices s v g c r
    (s, (k, indexOf l) :: m)

/-- The source of byte b of an element of a gather whose index has been read (R188). -/
def State.elementSpot (s : State) (g : Group) (c : Cmd) (d : Dst) (ix : List (Nat × Except (BitVec 16) Nat)) (k b : Nat) : EngByte :=
  match KV.at? ix k with
  | some (.ok n) =>
    let base := c.srcAddr (c.dw 1) (n * c.esize)
    if base.toNat % 4 ≠ 0 ∨ d.addr (k * c.esize) % 4 ≠ 0 then (.error (.trap 0x0205), base) else s.srcSpot g c base b
  | some (.error x) => (.error (.trap (x.setWidth 32)), c.dw 1)
  | none => (.error (.trap 0x0205), c.dw 1)

/-- The failed units of a sector, each once, with the cause at its lowest byte. -/
def unitFails : List (Nat × Option (BitVec 16)) → List (Nat × BitVec 16)
  | [] => []
  | (_, none) :: r => unitFails r
  | (u, some c) :: r => (u, c) :: (unitFails r).filter fun x => decide (x.1 ≠ u)

/-- The address of the first byte whose read aborted (R190). -/
def abortAddr : List (EngByte × Except (BitVec 16) Byte) → Option (BitVec 64)
  | [] => none
  | (x, .error c) :: r => if c = 0x020D then some x.2 else abortAddr r
  | (_, .ok _) :: r => abortAddr r

/-- The sectors of bytes beyond the core's own scratchpad, each once: those that requests are sent for (R368, R371). -/
def spotSectors (core : Nat) (l : List EngByte) : List Nat :=
  eachOnce (l.filterMap fun x =>
    match x.1 with
    | .ok p => if p.slot.isNone && decide ((p.key - 2 ^ 60) / 2 ^ 20 = core) then none else some (p.key / 32)
    | .error _ => none)

/-- Inject requests of the given flits at a command's port, as far as its tokens reach; answers how many have been (R371). -/
def State.payFor (s : State) (c : Cmd) : List Nat → Nat → State × Nat
  | [], n => (s, n)
  | f :: r, n =>
    let router := s.routerOf c.core
    if s.net.admits router c.part f then State.payFor { s with net := s.net.spend router c.part f } c r (n + 1) else (s, n)

/-- The requests of a command's present sector that have still to be injected: a read for each source sector, and a write (R371; DEDUCED, log
entry 64). Answers how many have been, and whether all have. -/
def State.payAll (s : State) (c : Cmd) (src : List Nat) (write : Bool) : State × Nat × Bool :=
  let all := src.map (fun _ => 2) ++ (if write then [3] else [])
  let (s, n) := s.payFor c (all.drop c.paid) c.paid
  (s, n, decide (all.length ≤ n))

/-- Move bytes of a sector, each named by its unit, its source and its destination: a page that is not there holds them all, and every source
is read before the one indivisible write (R188, R190). -/
def State.moveSector (s : State) (v : Victim) (c : Cmd) (units : List Nat) (src dst : List EngByte) : Moved :=
  let src := src.map (refuse c.refused)
  let dst := dst.map (refuse c.refused)
  match firstHold (if (src ++ dst).any s.spotOut then [] else src ++ dst) with
  | some (va, x, e, n) => .held va x e n
  | none =>
    if (src ++ dst).any s.spotOut then .later s c.paid
    else
      let (s, paid, all) := s.payAll c (spotSectors c.core src) (!(spotSectors c.core dst).isEmpty)
      if !all then .later s paid
      else
        let s := s.touchSpots c.part (src ++ dst)
        let (s, vals) := s.readSpots v src
        let (s, fails) := s.writeSpots (vals.zip dst)
        .done s (unitFails (units.zip fails)) (abortAddr (src.zip vals))

/-- Move the present sector of a `cp` or of a `gth` (R188). -/
def State.copySector (s : State) (g : Group) (c : Cmd) (d : Dst) : Moved :=
  let here := d.bytesIn (d.sector c.progress)
  let dst := here.map fun x => s.dstSpot g c x.2
  match c.kind with
  | .gth =>
    let (s, ix) := s.readIndices g.victim g c (eachOnce (here.map fun x => x.1 / c.esize))
    s.moveSector g.victim c (here.map fun x => x.1 / c.esize) (here.map fun x => s.elementSpot g c d ix (x.1 / c.esize) (x.1 % c.esize)) dst
  | _ => s.moveSector g.victim c (here.map fun _ => c.progress) (here.map fun x => s.srcSpot g c (c.dw 1) x.1) dst

/-! ## The columns of a fill (R267) -/

/-- The half and the line within it of a span's line (R258). -/
def lineOf (span l : Nat) : Nat × Nat :=
  match span with
  | 0 => (0, l)
  | 1 => (1, l)
  | _ => (l / 768, l % 768)

/-- SPAN of a `cpb`. -/
def Cmd.fillSpan (c : Cmd) : Nat := bits (c.dw 2) 41 40

/-- The source address of byte k of column j of line l of a fill (R267). -/
def Cmd.fillSrc (c : Cmd) (l j k : Nat) : BitVec 64 :=
  let nb := bits (c.dw 2) 36 32 + 1
  let o := if (c.dw 2).getLsbD 39 then BitVec.ofNat 64 j * c.dw 1 + BitVec.ofNat 64 (nb * l + k) else BitVec.ofNat 64 (4096 * l + 32 * j + k)
  if (c.dw 2).getLsbD 38 then c.dw 0 + o else ((c.dw 0).setWidth 32 + o.setWidth 32).setWidth 64

/-- Write one column of a line: the bytes read, and zeros to byte 31; an unread byte stays. -/
def fillColumn (m : Sparse 8) (line j : Nat) (b : List (Except (BitVec 16) Byte)) : Sparse 8 :=
  (List.range 32).foldl (fun m i =>
    match b.getD i (.ok 0) with
    | .ok v => Sparse.wr m (4096 * line + 32 * j + i) v
    | .error _ => m) m

/-- Fill one column of one line of a `cpb`; columns go line by line (R267). -/
def State.fillUnit (s : State) (g : Group) (c : Cmd) : Moved :=
  let l := c.progress / c.fillCount
  let j := c.progress % c.fillCount
  let spot (k : Nat) : EngByte :=
    refuse c.refused (s.engPlace g (if (c.dw 2).getLsbD 38 then 2 else 0) (c.fillSrc l j k) false, c.fillSrc l j k)
  let src := (List.range (bits (c.dw 2) 36 32 + 1)).map spot
  match firstHold (if src.any s.spotOut then [] else src) with
  | some (va, x, e, n) => .held va x e n
  | none =>
    if src.any s.spotOut then .later s c.paid
    else
      let (s, paid, all) := s.payAll c (spotSectors c.core src) false
      if !all then .later s paid
      else
        let (s, vals) := (s.touchSpots c.part src).readSpots g.victim src
        let (h, line) := lineOf c.fillSpan (bits (c.dw 2) 11 0 + l)
        let fails := vals.map fun x => (c.progress, match x with | .ok _ => none | .error k => some k)
        .done (s.updHalf c.core h fun x => { x with sram := fillColumn x.sram line j vals }) (unitFails fails) (abortAddr (src.zip vals))

/-! ## Running a command -/

/-- Move the present sector of a copy, or column of a fill. -/
def State.movePiece (s : State) (g : Group) (c : Cmd) (d : Dst) : Moved :=
  match c.kind with
  | .cpb => s.fillUnit g c
  | _ => s.copySector g c d

/-- The step that moves a command on. -/
def Cmd.step (c : Cmd) (cid : Nat) : Instr := if c.toQueue then .copyQueueWrite cid else .engineCommandCompletion cid

/-- Move what remains of a command, until it has nothing left, a page holds it, or a sub-bus or its port keeps it waiting (R188, R371, R404). Answers the state,
the command, and whether it has ended. -/
def State.moveOn (s : State) (cid : Nat) (g : Group) (d : Dst) (c : Cmd) : Nat → State × Cmd × Bool
  | 0 => (s, c, true)
  | n + 1 =>
    match s.movePiece g c d with
    | .held va x e l => (s.holdCmd cid c va x e l, c, false)
    | .later s paid => (({ s with cmds := KV.put s.cmds cid { c with paid := paid } } : State).plan (s.clock + 64) (c.step cid), c, false)
    | .done s f a => State.moveOn s cid g d (c.note f a) n

/-! ## Copies into queues (R188, R347) -/

/-- The queue whose entries an array command writes (R272). -/
def MxKind.output? : MxKind → Option Nat
  | .drain _ q _ _ _ => some q
  | _ => none

/-- Is an earlier accepted command of a group into a queue still to write: a copy, a gather or an `mdrain` (R347)? -/
def State.queueTaken (s : State) (cid gid core queue : Nat) : Bool :=
  s.cmds.any (fun e => decide (e.1 < cid) && decide (e.2.gid = gid) && e.2.toQueue && decide ((e.2.dw 0).toNat = queue))
    || [0, 1].any fun h => (s.half core h).queue.any fun m =>
        decide (m.cid < cid) && decide (m.gid = gid) && decide (m.kind.output? = some queue)

/-- A copy whose queue is stopped writes no further entry and ends with qcw.bad (R188). -/
def State.stopCopy (s : State) (cid : Nat) (c : Cmd) : State :=
  ((s.markBad c.gid (c.dw 0).toNat).finishCmd cid c (doneValue (s.unwritten c) 0x0604 true)).askEnd c.gid

/-- Write the entries of a copy from slot(PROD) on, and then advance PROD (R56, R188). -/
def State.copyEntries (s : State) (cid : Nat) (c : Cmd) (g : Group) (ofs q : Nat) : State :=
  let d := s.dstOf g c
  let (s, c', ended) := s.moveOn cid g d { c with waitsRoom := false } (d.sectors - c.progress)
  if ended then (s.qAdvance g ofs 12 (natBits q 127 96 + c.bytes / qSize q)).endCmd cid c' else s

/-- Does a command run that no page holds: a copy into a queue has begun once it has written (R338, R347)? -/
def Cmd.runs (c : Cmd) : Bool :=
  !c.held && (if c.toQueue then decide (0 < c.progress ∨ 0 < c.paid) else decide (c.kind ≠ .cpb) || c.started)

/-- `COPY_QUEUE_WRITE`: once the queue has room for the whole transfer and every command accepted earlier has written, the entries are
written and PROD is advanced; a stopped queue ends the command with qcw.bad (R188). One that has not begun as its group is being saved waits
(R338, R347). -/
def execCopyQueueWrite (cid : Nat) (s : State) : Out :=
  match KV.at? s.cmds cid with
  | none => .next s
  | some c =>
    if c.held || !c.toQueue || (s.groupSaving c.gid && !c.runs) then .next s
    else
      match s.group? c.gid with
      | none => .next s
      | some g =>
        .next <| s.withDone cid c <|
          if c.bytes = 0 then s.endCmd cid c
          else
            match KV.at? g.queues (c.dw 0).toNat with
            | none => s.stopCopy cid c
            | some b =>
              let q := s.qcw g b.ofs
              if s.qcwRefused g b.ofs then s.stopCopy cid c
              else if s.queueTaken cid c.gid c.core (c.dw 0).toNat || (decide (c.progress = 0) && decide (qDepth q - qOcc q < c.bytes / qSize q)) then
                s.updCmd cid fun c => { c with waitsRoom := true }
              else s.copyEntries cid c g b.ofs q

/-! ## Completion (R189, R190, R267) -/

/-- Must a fill wait: the records of a fill log are replayed one after another, and before what the group's other fills go on with (R268,
R342)? -/
def State.fillWaits (s : State) (cid : Nat) (c : Cmd) : Bool :=
  decide (c.kind = .cpb) && s.cmds.any fun e => e.2.silent && decide (e.2.gid = c.gid) && (!c.silent || decide (e.1 < cid))

/-- Move a running command's sectors, and end it unless something keeps it (R188, R189). -/
def State.completeCmd (s : State) (cid : Nat) : State :=
  match KV.at? s.cmds cid with
  | none => s
  | some c =>
    if c.held || c.toQueue || (decide (c.kind = .cpb) && !c.started) || s.fillWaits cid c then s
    else
      match s.group? c.gid with
      | none => s
      | some g =>
        s.withDone cid c <|
          let (s, c', ended) := s.moveOn cid g (s.dstOf g c) c (s.pieces g c - c.progress)
          if ended then s.endCmd cid c' else s

/-- `ENGINE_COMMAND_COMPLETION`: a command's sectors are moved and it completes: release, completion word, scoreboard entry (R189). -/
def execEngineCommandCompletion (cid : Nat) (s : State) : Out := .next (s.completeCmd cid)

end Sys2Proof.Machine
end

