-- ==== Sys2Proof/Machine/Flags.lean ====
section
/-! DEFINITION. Predicates: the conditions of `cmp` and `fcmp` (R146, R152), the class masks of `fclass` (R154) and the mask tests
of `vote` (R161). The machine has no flags register: predicates are its flags. -/

namespace Sys2Proof.Machine

/-- The condition COND of `cmp` on two values (R146). -/
def intCond (cond : Nat) (a b : Int) : Bool :=
  match cond with
  | 0 => decide (a = b)
  | 1 => decide (a ≠ b)
  | 2 => decide (a < b)
  | 3 => decide (a ≤ b)
  | 4 => decide (b < a)
  | _ => decide (b ≤ a)

/-- The condition COND of `fcmp` on two values (R146, R152). -/
def floatCond (cond : Nat) (a b : Num) : Bool :=
  match a.compare b with
  | none => cond == 1 || cond == 6
  | some o =>
    match cond with
    | 0 => o == 0
    | 1 => o != 0
    | 2 => decide (o < 0)
    | 3 => decide (o ≤ 0)
    | 4 => decide (0 < o)
    | 5 => decide (0 ≤ o)
    | 6 => false
    | _ => true

/-- The class mask of an encoding (R154). -/
def classMask (f : Fmt) (x : Nat) : Nat :=
  let neg := decide (x / 2 ^ (f.width - 1) % 2 = 1)
  let e := x / 2 ^ f.p % 2 ^ f.ebits
  let m := x % 2 ^ f.p
  if e = f.ones then
    if m ≠ 0 then (if f.quiet x then 2 ^ 9 else 2 ^ 8)
    else if neg then 1 else 2 ^ 7
  else if e = 0 then
    if m = 0 then (if neg then 2 ^ 3 else 2 ^ 4) else (if neg then 2 ^ 2 else 2 ^ 5)
  else if neg then 2 ^ 1 else 2 ^ 6

/-- The mask tests of `vote` (R161): 0 any, 1 all, 2 none. -/
def voteTest (sub : Nat) (a b : BitVec 32) : Bool :=
  match sub with
  | 0 => decide (a &&& b ≠ 0)
  | 1 => decide (a &&& b = b)
  | _ => decide (a &&& b = 0)

end Sys2Proof.Machine
end

