-- ==== Sys2Proof/Machine/FloatOps.lean ====
section
/-! DEFINITION. The floating-point instructions and `cvt`: groups 2 and 3 (R149 to R156). -/

namespace Sys2Proof.Machine

/-! ## Values -/

/-- A rounded element (R126, R150). -/
def State.roundElem (s : State) (t : Thread) (fmt : Fmt) (rm : Nat) (sat : Bool) (e : Nat) (x : Num) : Nat :=
  fmt.round x rm sat (s.srBits t e)

/-- minimumNumber and maximumNumber of two encodings (R151): a NaN gives way to the other operand, −0 is less than +0, and the
result is an operand's value. -/
def minMaxNumber (f : Fmt) (max : Bool) (x y : Nat) : Nat :=
  let a := f.val x
  let b := f.val y
  if a.isNan && b.isNan then f.canon
  else if a.isNan then y
  else if b.isNan then x
  else
    match a.compare b with
    | some o => if o = 0 then (if a.neg != max then x else y) else if decide (o < 0) != max then x else y
    | none => f.canon

/-- roundToIntegral (R153): the result keeps the sign of the operand. -/
def roundIntegral (f : Fmt) (x : Nat) (rm : Nat) (u : BitVec 32) : Nat :=
  match f.val x with
  | .nan => f.canon
  | .inf n => f.infinity n
  | .fin n m e st => f.round (.dy n (roundInt (.fin n m e st) rm u).natAbs 0) 1 false 0

/-- The exact value of `fdot2`'s element: a.0·b.0 + a.1·b.1 + c (R150). -/
def dotVal (f : Fmt) (rd : Bool) (a b : BitVec 32) (c : BitVec 32) : Num :=
  let h (x : BitVec 32) (i : Nat) : Num := f.val (x.toNat / 2 ^ (16 * i) % 2 ^ 16)
  Num.add rd (Num.add rd ((h a 0).mul (h b 0)) ((h a 1).mul (h b 1))) (val32 c)

/-! ## Shapes -/

/-- An element-by-element form that rounds (R150): the elements' exact values from their numbers. -/
def floatOp (f : RegF) (s : State) (g : Thread → Nat → Num) : Out :=
  s.act f.neg f.pred fun t =>
    let ty := modType f.mod
    let rm := modRm f.mod
    let vs := (List.range (elemCount f.mod)).map fun e => s.roundElem t (fmtOf ty) rm (modSat f.mod) e (g t e)
    s.done (t.countSr rm) (dstElems s.cur ty f.d vs)

/-- An element-by-element form on encodings that does not use the SR count. -/
def encOp (f : RegF) (s : State) (g : Thread → Nat → Nat) : Out :=
  s.compute f.neg f.pred fun t =>
    dstElems s.cur (modType f.mod) f.d ((List.range (elemCount f.mod)).map (g t))

/-- A long-latency root or transcendental form (R155), with its unloaded latency (R140). -/
def rootOp (f : RegF) (s : State) (latency : Nat) (g : Num → Num) : Out :=
  s.act f.neg f.pred fun t =>
    let ty := modType f.mod
    let rm := modRm f.mod
    let vs := (List.range (elemCount f.mod)).map fun e =>
      s.roundElem t (fmtOf ty) rm (modSat f.mod) e (g (s.elemVal s.cur t ty f.a e))
    s.finishLong (t.countSr rm) f.la (if ty = 12 then 44 else latency) (dstElems s.cur ty f.d vs)

/-- Round toward minus infinity is chosen, so that an exact zero sum is −0 (R125). -/
def isRd (f : RegF) : Bool := modRm f.mod == 3

/-! ## Group 2 (R149 to R154) -/

/-- `fadd` (R150). -/
def execFadd (f : RegF) (s : State) : Out :=
  floatOp f s fun t e =>
    Num.add (isRd f) (s.elemVal s.cur t (modType f.mod) f.a e) (s.elemVal s.cur t (modType f.mod) f.b e)
/-- `fsub` (R150). -/
def execFsub (f : RegF) (s : State) : Out :=
  floatOp f s fun t e =>
    Num.add (isRd f) (s.elemVal s.cur t (modType f.mod) f.a e) (s.elemVal s.cur t (modType f.mod) f.b e).negate
/-- `fmul` (R150). -/
def execFmul (f : RegF) (s : State) : Out :=
  floatOp f s fun t e => (s.elemVal s.cur t (modType f.mod) f.a e).mul (s.elemVal s.cur t (modType f.mod) f.b e)
/-- `ffma`, fused (R150). -/
def execFfma (f : RegF) (s : State) : Out :=
  floatOp f s fun t e =>
    Num.add (isRd f) ((s.elemVal s.cur t (modType f.mod) f.a e).mul (s.elemVal s.cur t (modType f.mod) f.b e))
      (s.elemVal s.cur t (modType f.mod) f.c e)
/-- `fdot2`: element i of the FP32 destination from register i of a, b and c (R150). -/
def execFdot2 (f : RegF) (s : State) : Out :=
  s.act f.neg f.pred fun t =>
    let fmt := fmtOf (modType f.mod)
    let rm := modRm f.mod
    let vs := (List.range (2 ^ modWidth f.mod)).map fun i =>
      s.roundElem t fp32 rm (modSat f.mod) i
        (dotVal fmt (isRd f) (s.laneReg s.cur t f.a i) (s.laneReg s.cur t f.b i) (s.laneReg s.cur t f.c i))
    s.done (t.countSr rm) (dstRegs f.d (vs.map (BitVec.ofNat 32)))
/-- `fmin` (R151). -/
def execFmin (f : RegF) (s : State) : Out :=
  encOp f s fun t e =>
    minMaxNumber (fmtOf (modType f.mod)) false (s.elem s.cur t (modType f.mod) f.a e) (s.elem s.cur t (modType f.mod) f.b e)
/-- `fmax` (R151). -/
def execFmax (f : RegF) (s : State) : Out :=
  encOp f s fun t e =>
    minMaxNumber (fmtOf (modType f.mod)) true (s.elem s.cur t (modType f.mod) f.a e) (s.elem s.cur t (modType f.mod) f.b e)
/-- `fcmp`: element 0 (R152). -/
def execFcmp (f : RegF) (s : State) : Out :=
  s.compute f.neg f.pred fun t =>
    let ty := modType f.mod
    dstPred f.d (floatCond (modStype f.mod) (s.elemVal s.cur t ty f.a 0) (s.elemVal s.cur t ty f.b 0))
/-- `fround` (R153). -/
def execFround (f : RegF) (s : State) : Out :=
  s.act f.neg f.pred fun t =>
    let ty := modType f.mod
    let rm := modRm f.mod
    let vs := (List.range (elemCount f.mod)).map fun e =>
      roundIntegral (fmtOf ty) (s.elem s.cur t ty f.a e) rm (s.srBits t e)
    s.done (t.countSr rm) (dstElems s.cur ty f.d vs)
/-- `fclass`: element 0 in bits 9:0, element 1 of packed halves in bits 25:16 (R154). -/
def execFclass (f : RegF) (s : State) : Out :=
  s.compute f.neg f.pred fun t =>
    let ty := modType f.mod
    let m (e : Nat) : Nat := classMask (fmtOf ty) (s.elem s.cur t ty f.a e)
    dst32 s.cur f.d (BitVec.ofNat 64 (m 0 + if perReg ty = 2 then m 1 * 2 ^ 16 else 0))

/-! ## Group 3 (R155, R156) -/

/-- `frcp` (R155). -/
def execFrcp (f : RegF) (s : State) : Out := rootOp f s 20 rcpNum
/-- `frsq` (R155). -/
def execFrsq (f : RegF) (s : State) : Out := rootOp f s 20 rsqNum
/-- `fsqrt` (R155). -/
def execFsqrt (f : RegF) (s : State) : Out := rootOp f s 20 rootNum
/-- `fexp2` (R155). -/
def execFexp2 (f : RegF) (s : State) : Out := rootOp f s 20 exp2Num
/-- `flog2` (R155). -/
def execFlog2 (f : RegF) (s : State) : Out := rootOp f s 20 log2Num
/-- `fsin` (R155). -/
def execFsin (f : RegF) (s : State) : Out := rootOp f s 28 sinNum
/-- `fcos` (R155). -/
def execFcos (f : RegF) (s : State) : Out := rootOp f s 28 cosNum
/-- `cvt`: the conversion of R130 (R156). -/
def execCvt (f : RegF) (s : State) : Out :=
  s.act f.neg f.pred fun t =>
    let ty := modType f.mod
    let st := modStype f.mod
    let rm := modCrm f.mod
    s.done (t.countSr rm)
      (dstType s.cur ty f.d (convert ty st (s.srcType s.cur t st f.a) rm (modCsat f.mod) (s.srBits t 0)))

end Sys2Proof.Machine
end

