-- ==== Sys2Proof/Machine/IntOps.lean ====
section
/-! DEFINITION. The integer and address instructions: groups 0 and 1 (R141 to R148). -/

namespace Sys2Proof.Machine

/-! ## Values (R142 to R145) -/

/-- An exact integer result as it is written: clamped with `.sat`, wrapped without (R129, R142). -/
def intResult (type : Nat) (sat : Bool) (x : Int) : BitVec 64 := wrapTo type (if sat then satTo type x else x)

/-- The w-bit field of an operand (R143). -/
def fieldOf (type : Nat) (x : BitVec 64) : Nat := x.toNat % 2 ^ typeWidth type

/-- A w-bit field as it is written (R129). -/
def fieldResult (type : Nat) (x : Nat) : BitVec 64 := wrapTo type x

/-- CNT of R138. -/
def cnt (type : Nat) (c : BitVec 32) : Nat := c.toNat % typeWidth type

/-- The shifts of R143: 0 shl, 1 shr, 2 sar, 3 rot. -/
def shiftField (op type : Nat) (x : BitVec 64) (c : BitVec 32) : Nat :=
  let w := typeWidth type
  let a := fieldOf type x
  let n := cnt type c
  match op with
  | 0 => a * 2 ^ n % 2 ^ w
  | 1 => a / 2 ^ n
  | 2 => (sextNat a w / (2 ^ n : Nat) % (2 ^ w : Nat)).toNat
  | _ => a * 2 ^ n % 2 ^ w + a / 2 ^ (w - n)

/-- Trailing zeros of a field of `w` bits, from bit `i`. -/
def trailingZeros (x : Nat) : Nat → Nat
  | 0 => 0
  | w + 1 => if x % 2 = 1 then 0 else 1 + trailingZeros (x / 2) w

/-- Set bits of a field of `w` bits. -/
def popCount (x : Nat) : Nat → Nat
  | 0 => 0
  | w + 1 => x % 2 + popCount (x / 2) w

/-- A field of `w` bits reversed. -/
def reverseBits (x : Nat) : Nat → Nat
  | 0 => 0
  | w + 1 => x % 2 * 2 ^ w + reverseBits (x / 2) w

/-- Leading zeros of a field of `w` bits. -/
def leadingZeros (x w : Nat) : Nat := trailingZeros (reverseBits x w) w

/-- `bfx` (R144). -/
def bfxField (type : Nat) (x : BitVec 64) (ctl : BitVec 32) : BitVec 64 :=
  let w := typeWidth type
  let p := bits ctl 7 0
  let l := bits ctl 15 8
  if l = 0 ∨ w ≤ p then 0
  else
    let l := min l (w - p)
    let v := fieldOf type x / 2 ^ p % 2 ^ l
    if typeSigned type then wrapTo type (sextNat v l) else fieldResult type v

/-- `bfi` (R144). -/
def bfiField (type : Nat) (x y : BitVec 64) (ctl : BitVec 32) : BitVec 64 :=
  let w := typeWidth type
  let p := bits ctl 7 0
  let l := bits ctl 15 8
  let a := fieldOf type x
  if l = 0 ∨ w ≤ p then fieldResult type a
  else
    let l := min l (w - p)
    fieldResult type (a - a / 2 ^ p % 2 ^ l * 2 ^ p + fieldOf type y % 2 ^ l * 2 ^ p)

/-! ## Shapes -/

/-- Group 0 with up to two sources of the type (R141). -/
def intOp (f : RegF) (s : State) (g : Nat → Bool → BitVec 64 → BitVec 64 → BitVec 64) : Out :=
  s.compute f.neg f.pred fun t =>
    let ty := modType f.mod
    dstType s.cur ty f.d (g ty (modSat f.mod) (s.srcType s.cur t ty f.a) (s.srcType s.cur t ty f.b))

/-- Group 0 with a source of the type and a control operand in b (R138). -/
def intCtlOp (f : RegF) (s : State) (g : Nat → BitVec 64 → BitVec 32 → BitVec 64) : Out :=
  s.compute f.neg f.pred fun t =>
    let ty := modType f.mod
    dstType s.cur ty f.d (g ty (s.srcType s.cur t ty f.a) (s.src32 s.cur t f.b))

/-! ## Arithmetic (R142) -/

/-- `add`. -/
def addVal (ty : Nat) (sat : Bool) (a b : BitVec 64) : BitVec 64 := intResult ty sat (valueOf ty a + valueOf ty b)
/-- `sub`. -/
def subVal (ty : Nat) (sat : Bool) (a b : BitVec 64) : BitVec 64 := intResult ty sat (valueOf ty a - valueOf ty b)
/-- `mul`. -/
def mulVal (ty : Nat) (sat : Bool) (a b : BitVec 64) : BitVec 64 := intResult ty sat (valueOf ty a * valueOf ty b)
/-- `mulh`: the high half of the exact product. -/
def mulhVal (ty : Nat) (_ : Bool) (a b : BitVec 64) : BitVec 64 :=
  intResult ty false (valueOf ty a * valueOf ty b / (2 ^ typeWidth ty : Nat))
/-- `min`. -/
def minVal (ty : Nat) (_ : Bool) (a b : BitVec 64) : BitVec 64 :=
  intResult ty false (if valueOf ty a ≤ valueOf ty b then valueOf ty a else valueOf ty b)
/-- `max`. -/
def maxVal (ty : Nat) (_ : Bool) (a b : BitVec 64) : BitVec 64 :=
  intResult ty false (if valueOf ty b ≤ valueOf ty a then valueOf ty a else valueOf ty b)
/-- `abs`. -/
def absVal (ty : Nat) (sat : Bool) (a _ : BitVec 64) : BitVec 64 := intResult ty sat ((valueOf ty a).natAbs : Int)
/-- `neg`. -/
def negVal (ty : Nat) (sat : Bool) (a _ : BitVec 64) : BitVec 64 := intResult ty sat (0 - valueOf ty a)

/-- `add` (R142). -/
def execAdd (f : RegF) (s : State) : Out := intOp f s addVal
/-- `sub` (R142). -/
def execSub (f : RegF) (s : State) : Out := intOp f s subVal
/-- `mul` (R142). -/
def execMul (f : RegF) (s : State) : Out := intOp f s mulVal
/-- `mulh` (R142). -/
def execMulh (f : RegF) (s : State) : Out := intOp f s mulhVal
/-- `mad` (R142). -/
def execMad (f : RegF) (s : State) : Out :=
  s.compute f.neg f.pred fun t =>
    let ty := modType f.mod
    let v (c : BitVec 8) : Int := valueOf ty (s.srcType s.cur t ty c)
    dstType s.cur ty f.d (intResult ty (modSat f.mod) (v f.a * v f.b + v f.c))
/-- `min` (R142). -/
def execMin (f : RegF) (s : State) : Out := intOp f s minVal
/-- `max` (R142). -/
def execMax (f : RegF) (s : State) : Out := intOp f s maxVal
/-- `abs` (R142). -/
def execAbs (f : RegF) (s : State) : Out := intOp f s absVal
/-- `neg` (R142). -/
def execNeg (f : RegF) (s : State) : Out := intOp f s negVal
/-- `adds`: c is a control operand (R142). -/
def execAdds (f : RegF) (s : State) : Out :=
  s.compute f.neg f.pred fun t =>
    let ty := modType f.mod
    let v (c : BitVec 8) : Int := valueOf ty (s.srcType s.cur t ty c)
    dstType s.cur ty f.d
      (intResult ty (modSat f.mod) (v f.a + v f.b * (2 ^ cnt ty (s.src32 s.cur t f.c) : Nat)))

/-! ## Logic, shifts and counts (R143) -/

/-- `and`. -/
def andVal (ty : Nat) (_ : Bool) (a b : BitVec 64) : BitVec 64 := fieldResult ty (fieldOf ty (a &&& b))
/-- `or`. -/
def orVal (ty : Nat) (_ : Bool) (a b : BitVec 64) : BitVec 64 := fieldResult ty (fieldOf ty (a ||| b))
/-- `xor`. -/
def xorVal (ty : Nat) (_ : Bool) (a b : BitVec 64) : BitVec 64 := fieldResult ty (fieldOf ty (a ^^^ b))
/-- `andn`. -/
def andnVal (ty : Nat) (_ : Bool) (a b : BitVec 64) : BitVec 64 := fieldResult ty (fieldOf ty (a &&& ~~~b))
/-- `not`. -/
def notVal (ty : Nat) (_ : Bool) (a _ : BitVec 64) : BitVec 64 := fieldResult ty (fieldOf ty (~~~a))
/-- `clz`: the count is zero-extended. -/
def clzVal (ty : Nat) (_ : Bool) (a _ : BitVec 64) : BitVec 64 :=
  BitVec.ofNat 64 (leadingZeros (fieldOf ty a) (typeWidth ty))
/-- `ctz`. -/
def ctzVal (ty : Nat) (_ : Bool) (a _ : BitVec 64) : BitVec 64 :=
  BitVec.ofNat 64 (trailingZeros (fieldOf ty a) (typeWidth ty))
/-- `popc`. -/
def popcVal (ty : Nat) (_ : Bool) (a _ : BitVec 64) : BitVec 64 := BitVec.ofNat 64 (popCount (fieldOf ty a) (typeWidth ty))
/-- `brev`. -/
def brevVal (ty : Nat) (_ : Bool) (a _ : BitVec 64) : BitVec 64 :=
  fieldResult ty (reverseBits (fieldOf ty a) (typeWidth ty))
/-- `mov` (R145). -/
def movVal (ty : Nat) (_ : Bool) (a _ : BitVec 64) : BitVec 64 := fieldResult ty (fieldOf ty a)
/-- A shift: 0 shl, 1 shr, 2 sar, 3 rot. -/
def shiftVal (op ty : Nat) (a : BitVec 64) (c : BitVec 32) : BitVec 64 := fieldResult ty (shiftField op ty a c)

/-- `and` (R143). -/
def execAnd (f : RegF) (s : State) : Out := intOp f s andVal
/-- `or` (R143). -/
def execOr (f : RegF) (s : State) : Out := intOp f s orVal
/-- `xor` (R143). -/
def execXor (f : RegF) (s : State) : Out := intOp f s xorVal
/-- `andn` (R143). -/
def execAndn (f : RegF) (s : State) : Out := intOp f s andnVal
/-- `not` (R143). -/
def execNot (f : RegF) (s : State) : Out := intOp f s notVal
/-- `shl` (R143). -/
def execShl (f : RegF) (s : State) : Out := intCtlOp f s (shiftVal 0)
/-- `shr` (R143). -/
def execShr (f : RegF) (s : State) : Out := intCtlOp f s (shiftVal 1)
/-- `sar` (R143). -/
def execSar (f : RegF) (s : State) : Out := intCtlOp f s (shiftVal 2)
/-- `rot` (R143). -/
def execRot (f : RegF) (s : State) : Out := intCtlOp f s (shiftVal 3)
/-- `clz` (R143). -/
def execClz (f : RegF) (s : State) : Out := intOp f s clzVal
/-- `ctz` (R143). -/
def execCtz (f : RegF) (s : State) : Out := intOp f s ctzVal
/-- `popc` (R143). -/
def execPopc (f : RegF) (s : State) : Out := intOp f s popcVal
/-- `brev` (R143). -/
def execBrev (f : RegF) (s : State) : Out := intOp f s brevVal
/-- `bfx` (R144). -/
def execBfx (f : RegF) (s : State) : Out := intCtlOp f s bfxField
/-- `bfi`: c is the field control (R144). -/
def execBfi (f : RegF) (s : State) : Out :=
  s.compute f.neg f.pred fun t =>
    let ty := modType f.mod
    dstType s.cur ty f.d
      (bfiField ty (s.srcType s.cur t ty f.a) (s.srcType s.cur t ty f.b) (s.src32 s.cur t f.c))

/-! ## Selection, moves and comparison (R145, R146) -/

/-- `sel`: c names the predicate (R145). -/
def execSel (f : RegF) (s : State) : Out :=
  s.compute f.neg f.pred fun t =>
    let ty := modType f.mod
    let c := if t.predAt f.c.toNat then f.a else f.b
    dstType s.cur ty f.d (movVal ty false (s.srcType s.cur t ty c) 0)
/-- `mov` (R145). -/
def execMov (f : RegF) (s : State) : Out := intOp f s movVal
/-- `cmp` (R146). -/
def execCmp (f : RegF) (s : State) : Out :=
  s.compute f.neg f.pred fun t =>
    let ty := modType f.mod
    let v (c : BitVec 8) : Int := valueOf ty (s.srcType s.cur t ty c)
    dstPred f.d (intCond (modStype f.mod) (v f.a) (v f.b))

/-! ## Group 1 (R148) -/

/-- IMM32 as the 64 bits that a steward form uses; a lane form uses the low half (R148). -/
def immVal (f : ImmF) : BitVec 64 := f.imm.signExtend 64

/-- A group 1 form with a source. -/
def immOp (f : ImmF) (s : State) (g : BitVec 64 → BitVec 64 → BitVec 64) : Out :=
  s.compute f.neg f.pred fun t =>
    let a := match whoStream s.cur with
      | .lanes => (s.src32 s.cur t f.a).setWidth 64
      | .steward => s.src64 s.cur t f.a
    dst32 s.cur f.d (g a (immVal f))

/-- `movi` (R148). -/
def execMovi (f : ImmF) (s : State) : Out := s.compute f.neg f.pred fun _ => dst32 s.cur f.d (immVal f)
/-- `movh`: only the high register of a pair, or the high half of an `s` register, is written (R148). -/
def execMovh (f : ImmF) (s : State) : Out :=
  s.compute f.neg f.pred fun t =>
    match whoStream s.cur with
    | .lanes => if f.d = 0x94 then [] else [(.reg (f.d.toNat + 1), f.imm.setWidth 64)]
    | .steward => dst64 s.cur f.d (f.imm ++ (s.src64 s.cur t f.d).setWidth 32)
/-- `add` with an immediate (R148). -/
def execAddImm (f : ImmF) (s : State) : Out := immOp f s (· + ·)
/-- `and` with an immediate (R148). -/
def execAndImm (f : ImmF) (s : State) : Out := immOp f s (· &&& ·)
/-- `or` with an immediate (R148). -/
def execOrImm (f : ImmF) (s : State) : Out := immOp f s (· ||| ·)
/-- `xor` with an immediate (R148). -/
def execXorImm (f : ImmF) (s : State) : Out := immOp f s (· ^^^ ·)

end Sys2Proof.Machine
end

