-- ==== Sys2Proof/Machine/NarrowOps.lean ====
section
/-! DEFINITION. Group 4 and paired words: packing (R157), HX and MX blocks (R158 to R160), predicate masks (R161) and the pair
table (R162, R163). -/

namespace Sys2Proof.Machine

/-! ## Packing (R157) -/

/-- A number made of fields of `w` bits, the first lowest. -/
def packFields (w : Nat) : List Nat → Nat
  | [] => 0
  | x :: r => x % 2 ^ w + 2 ^ w * packFields w r

/-- `pk` (R157). -/
def execPk (f : RegF) (s : State) : Out :=
  s.act f.neg f.pred fun t =>
    let ty := modType f.mod
    let rm := modRm f.mod
    let w := typeWidth ty
    let n := 32 / w
    let elem (e : Nat) : Nat :=
      let x := s.laneReg s.cur t f.a e
      if ty ≤ 8 then
        let v := valueOf 3 (x.setWidth 64)
        (wrapTo ty (if modSat f.mod then satTo ty v else v)).toNat
      else s.roundElem t (fmtOf ty) rm (modSat f.mod) e (val32 x)
    s.done (t.countSr rm) (dst32 s.cur f.d (BitVec.ofNat 64 (packFields w ((List.range n).map elem))))

/-- `upk` (R157). -/
def execUpk (f : RegF) (s : State) : Out :=
  s.compute f.neg f.pred fun t =>
    let ty := modType f.mod
    let w := typeWidth ty
    let x := (s.laneReg s.cur t f.a 0).toNat
    let elem (e : Nat) : BitVec 32 :=
      let y := x / 2 ^ (w * e) % 2 ^ w
      if ty ≤ 8 then (wrapTo ty y).setWidth 32 else BitVec.ofNat 32 (fp32.round ((fmtOf ty).val y) 0 false 0)
    dstRegs f.d ((List.range (32 / w)).map elem)

/-! ## Format slots -/

/-- The format slot of a launch (R255). -/
def State.formatSlot (s : State) (t : Thread) (n : Nat) : BitVec 64 :=
  match s.launch? t.lid with
  | some l => l.fs.getD n 0
  | none => 0

/-- EFMT of a slot. -/
def slotEfmt (x : BitVec 64) : Nat := bits x 3 0
/-- ORM of a slot. -/
def slotOrm (x : BitVec 64) : Nat := bits x 10 8
/-- OSAT of a slot. -/
def slotOsat (x : BitVec 64) : Bool := bits x 11 11 == 1
/-- GEOM of a slot. -/
def slotGeom (x : BitVec 64) : Nat := bits x 7 6
/-- SPLACE of a slot. -/
def slotSplace (x : BitVec 64) : Nat := bits x 5 5
/-- SSTRIDE of a slot. -/
def slotSstride (x : BitVec 64) : Nat := bits x 31 16
/-- No reserved bit of a slot is set (R255). -/
def slotReservedOk (x : BitVec 64) : Bool := decide (bits x 63 32 = 0) && decide (bits x 15 12 = 0) && decide (bits x 4 4 = 0)

/-- The slot check of `hxq`, `hxd` and `hxe` (R158). -/
def hxSlotOk (x : BitVec 64) : Bool :=
  decide (4 ≤ slotEfmt x) && decide (slotEfmt x ≤ 6) && decide (slotOrm x ≤ 4) && decide (slotSplace x = 0)
    && decide (slotSstride x = 0) && slotReservedOk x

/-- The number held in consecutive registers from an operand. -/
def State.blockOf (s : State) (t : Thread) (c : BitVec 8) (n : Nat) : Nat :=
  packFields 32 ((s.srcRegs s.cur t c n).map BitVec.toNat)

/-- A number written to consecutive registers. -/
def dstBlock (c : BitVec 8) (x n : Nat) : List (Dest × BitVec 64) :=
  dstRegs c ((List.range n).map fun e => BitVec.ofNat 32 (x / 2 ^ (32 * e)))

/-- The values of consecutive registers read as FP32. -/
def State.valsOf (s : State) (t : Thread) (c : BitVec 8) (n : Nat) : List Num := (s.srcRegs s.cur t c n).map val32

/-! ## HX and MX blocks (R158 to R160) -/

/-- A block instruction that checks its format slot (R158). -/
def hxOp (f : RegF) (s : State) (k : Thread → BitVec 64 → State) : Out :=
  s.act f.neg f.pred fun t =>
    let x := s.formatSlot t f.b.toNat
    if hxSlotOk x then k t x else s.trap t 0x060A 0

/-- `hxq` (R159). -/
def execHxq (f : RegF) (s : State) : Out :=
  hxOp f s fun t x =>
    let h := hxOf (slotEfmt x)
    s.done (t.countSr (slotOrm x)) (dstBlock f.d (h.quantise (s.valsOf t f.a 16) (slotOrm x) (s.srBits t)) h.regs)

/-- `hxd` (R159). -/
def execHxd (f : RegF) (s : State) : Out :=
  hxOp f s fun t x =>
    let h := hxOf (slotEfmt x)
    let b := s.blockOf t f.a h.regs
    s.done t (dstRegs f.d ((List.range 16).map fun n => rne32 (h.val b n)))

/-- `hxe` (R159). -/
def execHxe (f : RegF) (s : State) : Out :=
  hxOp f s fun t _ =>
    let v := match hxScale (s.valsOf t f.a 16) with
      | some (e, mu) => e + 256 * mu
      | none => 255
    s.done t (dst32 s.cur f.d (BitVec.ofNat 64 v))

/-- `mxcvt` (R160). -/
def execMxcvt (f : RegF) (s : State) : Out :=
  s.act f.neg f.pred fun t =>
    let code := (s.src32 s.cur t f.b).toNat
    if 5 < code then s.trap t 0x060B 0
    else
      let n := (ocpOf code).width
      if modType f.mod = 11 then
        let run := s.blockOf t f.a n
        let sc := bits (s.src32 s.cur t f.c) 7 0
        s.done t (dstRegs f.d ((List.range 32).map fun e => rne32 (mxVal code run sc e)))
      else
        let rm := modCrm f.mod
        let (run, sc) := mxQuantise code (s.valsOf t f.a 32) rm (modCsat f.mod) (s.srBits t)
        s.done (t.countSr rm) (dstBlock f.d run n ++ dst32 s.cur f.c (BitVec.ofNat 64 sc))

/-! ## Predicate masks (R161) -/

/-- A mask test (R161). -/
def voteOp (sub : Nat) (f : RegF) (s : State) : Out :=
  s.compute f.neg f.pred fun t => dstPred f.d (voteTest sub (s.src32 s.cur t f.a) (s.src32 s.cur t f.b))

/-- `vote.any` (R161). -/
def execVoteAny (f : RegF) (s : State) : Out := voteOp 0 f s
/-- `vote.all` (R161). -/
def execVoteAll (f : RegF) (s : State) : Out := voteOp 1 f s
/-- `vote.none` (R161). -/
def execVoteNone (f : RegF) (s : State) : Out := voteOp 2 f s
/-- `vote.pack`: bit 0 is always 1 (R161). -/
def execVotePack (f : RegF) (s : State) : Out :=
  s.compute f.neg f.pred fun t => dst32 s.cur f.d ((t.rdPreds ||| 1).setWidth 64)
/-- `vote.unpk` (R161). -/
def execVoteUnpk (f : RegF) (s : State) : Out :=
  s.compute f.neg f.pred fun t =>
    let a := s.src32 s.cur t f.a
    (List.range 8).map fun n => (.pred n, if a.getLsbD n then 1 else 0)

/-! ## Paired words (R162, R163) -/

/-- RM of a slot MOD (R162). -/
def slotRm (m : BitVec 5) : Nat := bits m 4 2
/-- SAT of a slot MOD (R162). -/
def slotSat (m : BitVec 5) : Bool := bits m 1 1 == 1

/-- Elements of a slot's operation: 2 for the f16 and bf16 codes, 1 for every other (R128). -/
def slotElems (op : Nat) : Nat := if 0x20 ≤ op ∧ op ≤ 0x23 then 2 else 1

/-- Does a slot round by SR when it acts: a float code with RM 4 (R128, R162)? -/
def slotRoundsSr (x : SlotF) : Bool := decide (pairFloat ≤ x.op.toNat) && decide (slotRm x.mod = 4)

/-- The result of a slot's operation from its two source registers, the first being its destination's old value (R162); `e0` is
the number of its first element. -/
def State.slotResult (s : State) (t : Thread) (x : SlotF) (d a : BitVec 32) (e0 : Nat) : BitVec 32 :=
  let p : BitVec 64 := d.setWidth 64
  let q : BitVec 64 := a.setWidth 64
  let rm := slotRm x.mod
  let sat := slotSat x.mod
  let one (y : Num) : BitVec 32 := BitVec.ofNat 32 (s.roundElem t fp32 rm sat e0 y)
  let two (f : Fmt) (g : Num → Num → Num) : BitVec 32 :=
    let r (i : Nat) : Nat :=
      s.roundElem t f rm sat (e0 + i) (g (f.val (d.toNat / 2 ^ (16 * i) % 2 ^ 16)) (f.val (a.toNat / 2 ^ (16 * i) % 2 ^ 16)))
    BitVec.ofNat 32 (r 0 + 2 ^ 16 * r 1)
  let u (v : BitVec 64) : BitVec 32 := v.setWidth 32
  match x.op.toNat with
  | 0x00 => u (addVal 7 false p q)
  | 0x01 => u (subVal 7 false p q)
  | 0x02 => u (mulVal 7 false p q)
  | 0x03 => u (minVal 3 false p q)
  | 0x04 => u (maxVal 3 false p q)
  | 0x05 => u (minVal 7 false p q)
  | 0x06 => u (maxVal 7 false p q)
  | 0x07 => u (absVal 3 false q 0)
  | 0x08 => u (negVal 7 false q 0)
  | 0x09 => u (andVal 7 false p q)
  | 0x0A => u (orVal 7 false p q)
  | 0x0B => u (xorVal 7 false p q)
  | 0x0C => u (andnVal 7 false p q)
  | 0x0D => u (notVal 7 false q 0)
  | 0x0E => u (shiftVal 0 7 p a)
  | 0x0F => u (shiftVal 1 7 p a)
  | 0x10 => u (shiftVal 2 7 p a)
  | 0x11 => u (shiftVal 3 7 p a)
  | 0x12 => u (clzVal 7 false q 0)
  | 0x13 => u (ctzVal 7 false q 0)
  | 0x14 => u (popcVal 7 false q 0)
  | 0x15 => u (brevVal 7 false q 0)
  | 0x16 => u (movVal 7 false q 0)
  | 0x17 => u (addVal 3 true p q)
  | 0x18 => u (subVal 3 true p q)
  | 0x19 => u (addVal 7 true p q)
  | 0x1A => u (subVal 7 true p q)
  | 0x1B => one (Num.add (rm == 3) (val32 d) (val32 a))
  | 0x1C => one (Num.add (rm == 3) (val32 d) (val32 a).negate)
  | 0x1D => one ((val32 d).mul (val32 a))
  | 0x1E => BitVec.ofNat 32 (minMaxNumber fp32 false d.toNat a.toNat)
  | 0x1F => BitVec.ofNat 32 (minMaxNumber fp32 true d.toNat a.toNat)
  | 0x20 => two fp16 (Num.add (rm == 3))
  | 0x21 => two fp16 Num.mul
  | 0x22 => two bf16 (Num.add (rm == 3))
  | 0x23 => two bf16 Num.mul
  | 0x24 => BitVec.ofNat 32 (roundIntegral fp32 a.toNat rm (s.srBits t e0))
  | 0x25 => u (convert 11 3 q rm sat (s.srBits t e0))
  | 0x26 => u (convert 3 11 q rm sat (s.srBits t e0))
  | _ => BitVec.ofNat 32 (classMask fp32 a.toNat)

/-- A paired word: both slots read before either writes; a slot whose guard is false writes nothing; the SR count advances once
when a slot that rounds by SR acts (R100, R128, R162). -/
def execPairedWord (sa sb : SlotF) (s : State) : Out :=
  match s.thread? s.cur with
  | none => .next s
  | some t =>
    let ga := t.predAt sa.g.toNat
    let gb := t.predAt sb.g.toNat
    let res (x : SlotF) (e0 : Nat) : List (Dest × BitVec 64) :=
      dst32 s.cur x.d ((s.slotResult t x (s.laneReg s.cur t x.d 0) (s.laneReg s.cur t x.a 0) e0).setWidth 64)
    let ws := (if ga then res sa 0 else []) ++ (if gb then res sb (slotElems sa.op.toNat) else [])
    let sr := (ga && slotRoundsSr sa) || (gb && slotRoundsSr sb)
    .next (s.done (if sr then t.countSr 4 else t) ws)

end Sys2Proof.Machine
end

