-- ==== Sys2Proof/Machine/ArrayOps.lean ====
section
/-! DEFINITION. Group 14 at issue (R253 to R272, R277, R280): queue bindings, commands that enter the queues of the array halves, and
joining a collective; `diag.inj` (R218). -/

namespace Sys2Proof.Machine

/-! ## Spans, slots, lines -/

/-- SPAN of the specific layout (R253). -/
def spanOf (m : BitVec 13) : Nat := bits m 6 5
/-- The halves of a span. -/
def spanHalves : Nat → List Nat
  | 0 => [0]
  | 1 => [1]
  | _ => [0, 1]
/-- Lines of a span (R258). -/
def spanLines (n : Nat) : Nat := if n = 2 then 1536 else 768
/-- Rows of a span (R260). -/
def spanRows (n : Nat) : Nat := if n = 2 then 128 else 64

/-- Unit bytes of an EFMT (R256). -/
def unitBytes : Nat → Nat
  | 0 => 32
  | 1 => 32
  | 4 => 8
  | 5 => 12
  | 6 => 18
  | 7 => 8
  | 8 => 12
  | 9 => 12
  | _ => 16

/-- GEOM that the table of R256 gives an EFMT. -/
def efmtGeom (e : Nat) : Nat := if e < 4 then 0 else if e < 7 then 1 else 2
/-- Does a slot name an MX format (GEOM 2)? -/
def slotMx (x : BitVec 64) : Bool := decide (7 ≤ slotEfmt x)

/-- The slot check of R256. -/
def slotValid (x : BitVec 64) : Bool :=
  decide (slotEfmt x ≤ 12) && decide (slotGeom x = efmtGeom (slotEfmt x)) && decide (slotOrm x ≤ 4) && slotReservedOk x
    && (slotMx x || (decide (slotSplace x = 0) && decide (slotSstride x = 0)))

/-- The lines of a B tile of KG K-groups from L0: those of element units and those of scales (R259). -/
def tileLines (fs : BitVec 64) (l0 kg : Nat) : List Nat :=
  if !slotMx fs then (List.range kg).map (l0 + ·)
  else if slotSplace fs = 0 then (List.range (kg / 2 * 3)).map (l0 + ·)
  else (List.range kg).map (l0 + ·) ++ (List.range (kg / 2)).map (l0 + slotSstride fs + ·)

/-- The end of the lines that a B tile takes: one above its last line. -/
def tileEnd (fs : BitVec 64) (l0 kg : Nat) : Nat :=
  if !slotMx fs then l0 + kg
  else if slotSplace fs = 0 then l0 + kg / 2 * 3
  else max (l0 + kg) (l0 + slotSstride fs + kg / 2)

/-! ## Holding and queueing (R253, R263, R264) -/

/-- The holding checks of a command that names halves (R253). -/
def State.spanThen (s : State) (t : Thread) (g : Group) (hs : List Nat) (tenant : BitVec 32) (k : State) : State :=
  if hs.any fun h => decide ((s.half g.core h).part ≠ some g.part) then s.trap t tenant 0
  else if hs.any fun h => (match (s.half g.core h).holder with | some x => decide (x ≠ t.gid) | none => false) then s.trap t 0x0601 0
  else k

/-- A group holds halves from its first command that names them; a half that it newly takes starts with an empty fill log. -/
def State.holdHalves (s : State) (gid : Nat) (g : Group) (hs : List Nat) : State :=
  let s := hs.foldl (fun s h => s.updHalf g.core h fun x =>
    if x.holder = some gid then x else { x with holder := some gid, fills := [] }) s
  s.updGroup gid fun x => { x with halves := x.halves ++ hs.filter fun h => !x.halves.contains h }

/-- Is a queue of one of the halves full (R263)? -/
def State.arrayFull (s : State) (g : Group) (hs : List Nat) : Bool := hs.any fun h => decide (32 ≤ (s.half g.core h).queue.length)

/-- Put a command into the queues of its halves. -/
def State.enqueue (s : State) (g : Group) (hs : List Nat) (m : MxCmd) : State :=
  hs.foldl (fun s h => s.updHalf g.core h fun x => { x with queue := x.queue ++ [m] }) s

/-- Queue a command of the executing steward, which then goes on; while a queue is full it waits (R263). -/
def State.arrayIssue (s : State) (t : Thread) (g : Group) (span : Nat) (hs : List Nat) (k : MxKind) : State :=
  if s.arrayFull g hs then s.waitFor t .engineRoom
  else
    let (cid, s) := s.fresh
    let s := (s.holdHalves t.gid g hs).enqueue g hs { cid := cid, gid := t.gid, span := span, kind := k, started := false }
    s.done t []

/-- A group 14 instruction of a steward with a group. -/
def State.arrayAct (s : State) (f : RegF) (k : Thread → Group → State) : Out :=
  s.act f.neg f.pred fun t =>
    match s.groupOf t with
    | none => s.trap t 0x0600 0
    | some g => s.arrayThen t (k t g)

/-! ## Queue numbers (R261) -/

/-- The queue numbers that a command of a half names. -/
def MxKind.queues : MxKind → List Nat
  | .mma _ q _ _ fa _ => if slotMx fa && decide (slotSplace fa = 1) then [q, q + 1] else [q]
  | .drain _ q _ _ _ => [q]
  | _ => []

/-- Does an accepted command that has not completed name queue n of a group (R261)? -/
def State.queueNamed (s : State) (gid n : Nat) : Bool :=
  s.cmds.any (fun e => decide (e.2.gid = gid) && e.2.toQueue && decide ((e.2.dw 0).toNat = n))
    || s.halves.any fun e => e.2.queue.any fun m => decide (m.gid = gid) && m.kind.queues.contains n

/-- Retire every SLOT entry that names a queue of a group (R287). -/
def State.retireSlots (s : State) (gid n : Nat) : State :=
  let keep (e : Nat × Entry) : Bool := !(decide (e.2.kind = 2) && decide (e.2.qgid = gid) && decide (bits e.2.addr 3 0 = n))
  { s with
    groups := s.groups.map fun (x : Nat × Group) => (x.1, { x.2 with estate := x.2.estate.filter keep })
    saved := s.saved.map fun (x : Nat × SavedGroup) =>
      (x.1, { x.2 with group := { x.2.group with estate := x.2.group.estate.filter keep }, conveyed := x.2.conveyed.filter fun e => keep (0, e) }) }

/-- `qcset` (R261). R65 lets a sector belong to one object, and R261 lists no refusal for storage that shares a sector with a region of another
object or with another queue's storage: such a queue is bound all the same (DESIGN CHOICE, log entry 67). -/
def execQcset (f : RegF) (s : State) : Out :=
  s.arrayAct f fun t g =>
    let n := f.d.toNat
    if s.queueNamed t.gid n then s.waitFor t .queueBusy
    else if 0xC0 ≤ f.a.toNat then
      ((s.retireSlots t.gid n).updGroup t.gid fun g => { g with queues := KV.del g.queues n }).done t []
    else
      let ofs := (s.src32 s.cur t f.a).toNat
      if s.qcwRefused g ofs then s.trap t 0x0604 0
      else if (KV.at? g.queues n).isNone ∧ 256 ≤ s.poolUsed g.core then s.trap t 0x0605 0
      else
        let w := s.qcw g ofs
        let b : QBind := { ofs := ofs, rsvd := 0, base := natBits w 63 44, bytes := qDepth w * qSize w, bad := false }
        ((s.retireSlots t.gid n).updGroup t.gid fun g => { g with queues := KV.put g.queues n b }).done t []

/-! ## Commands of the halves -/

/-- `mzero` (R269). -/
def execMzero (f : RegF) (s : State) : Out :=
  s.arrayAct f fun t g =>
    let hs := spanHalves (spanOf f.mod)
    s.spanThen t g hs 0x0600 (s.arrayIssue t g (spanOf f.mod) hs (.zero f.d.toNat))

/-- Entry bytes of a bound queue; none when the number is not bound or not a queue number (R261). -/
def State.queueSize (s : State) (g : Group) (v : BitVec 64) : Option Nat :=
  if 15 < v.toNat then none else match KV.at? g.queues v.toNat with | some b => some (qSize (s.qcw g b.ofs)) | none => none

/-- Why an `mma` is refused after its holding and slot checks: queues, operand values, lines, entry sizes (R260, R261, R264, R269). -/
def State.mmaRefused (s : State) (g : Group) (span : Nat) (fa fb q l0 kg : BitVec 64) : Option (BitVec 32) :=
  let sep := slotMx fa && decide (slotSplace fa = 1)
  let rows := spanRows span
  match s.queueSize g q, (if sep then s.queueSize g (q + 1) else some 4) with
  | some e, some e' =>
    if bits l0 63 11 ≠ 0 then some 0x0603
    else if kg = 0 ∨ 65536 < kg.toNat ∨ ((slotMx fa || slotMx fb) ∧ kg.toNat % 2 ≠ 0) then some 0x0609
    else if spanLines span < tileEnd fb l0.toNat kg.toNat then some 0x0603
    else if rows * unitBytes (slotEfmt fa) % e ≠ 0 ∨ (slotMx fa ∧ rows % (if sep then e' else e) ≠ 0) then some 0x0602
    else none
  | _, _ => some 0x0604

/-- `mma` (R269). -/
def execMma (f : RegF) (s : State) : Out :=
  s.arrayAct f fun t g =>
    let span := spanOf f.mod
    let hs := spanHalves span
    s.spanThen t g hs 0x0600 <|
      let fa := s.formatSlot t (bits f.mod 12 10)
      let fb := s.formatSlot t (bits f.mod 9 7)
      if !slotValid fa || !slotValid fb then s.trap t 0x060A 0
      else
        let q := s.src64 s.cur t f.a
        let l0 := s.src64 s.cur t f.b
        let kg := s.src64 s.cur t f.c
        match s.mmaRefused g span fa fb q l0 kg with
        | some c => s.trap t c 0
        | none => s.arrayIssue t g span hs (.mma f.d.toNat q.toNat l0.toNat kg.toNat fa fb)

/-- `mdrain` (R272, R276): DSER counts the group's drains. -/
def execMdrain (f : RegF) (s : State) : Out :=
  s.arrayAct f fun t g =>
    let span := spanOf f.mod
    let hs := spanHalves span
    s.spanThen t g hs 0x0600 <|
      let q := s.src64 s.cur t f.a
      let pb := s.src64 s.cur t f.b
      if (s.queueSize g q).isNone then s.trap t 0x0604 0
      else if pb.toNat % 4 ≠ 0 then s.trap t 0x0205 pb
      else if bits pb 63 32 ≠ 0 then s.trap t 0x0200 pb
      else if s.arrayFull g hs then s.waitFor t .engineRoom
      else
        (s.updGroup t.gid fun x => { x with dser := x.dser + 1 }).arrayIssue t g span hs
          (.drain f.d.toNat q.toNat pb.toNat (f.mod.getLsbD 4) g.dser)

/-! ## `epld` (R277) -/

/-- Is word number n of an epilogue program legal by itself, with its format slots' formats (R277)? -/
def State.esLegal (s : State) (t : Thread) (n : Nat) (w : BitVec 32) : Bool :=
  match esDecode w with
  | none => false
  | some (.esLoop _ x) => decide (x.toNat < n)
  | some (.esHxq _ _ k) => let e := slotEfmt (s.formatSlot t k.toNat); decide (4 ≤ e) && decide (e ≤ 6)
  | some (.esCvt _ _ k) => decide (slotEfmt (s.formatSlot t k.toNat) ≤ 3)
  | some _ => true

/-- The first illegal word of a program, `es.st` and `es.stt` together included. -/
def State.esIllegal (s : State) (t : Thread) (ws : List (BitVec 32)) : Option Nat :=
  let op (w : BitVec 32) : Nat := bits w 31 27
  let both (n : Nat) : Bool :=
    let earlier := ws.take n
    (decide (op (ws.getD n 0) = 0x12) && earlier.any fun w => decide (op w = 0x13))
      || (decide (op (ws.getD n 0) = 0x13) && earlier.any fun w => decide (op w = 0x12))
  (List.range ws.length).find? fun n => !s.esLegal t n (ws.getD n 0) || both n

/-- The first word that names a format slot which fails its check (R158, R256, R277). -/
def State.esBadSlot (s : State) (t : Thread) (ws : List (BitVec 32)) : Option Nat :=
  (List.range ws.length).find? fun n =>
    match esDecode (ws.getD n 0) with
    | some (.esHxq _ _ k) => !hxSlotOk (s.formatSlot t k.toNat)
    | some (.esCvt _ _ k) => !slotValid (s.formatSlot t k.toNat)
    | _ => false

/-- The words of an epilogue program, read as the steward's own loads in its allocation (R53, R277, R332). -/
def State.programWords (s : State) (t : Thread) (g : Group) (ofs n : Nat) (k : State → List (BitVec 32) → State) : State :=
  let l := spLoc g.core (g.spBase + ofs)
  match s.heldBack t .sp none l (4 * n) false with
  | some y => s.waitAccess t .sp l (4 * n) y
  | none =>
    match s.readFor (s.victimOf s.cur t) 0 l (4 * n) with
    | (s, some c) => s.consume t 0 [] c (BitVec.ofNat 64 ofs)
    | (s, none) => k s ((List.range n).map fun i => s.rdWord { l with key := l.key + 4 * i })

/-- `epld` (R277). -/
def execEpld (f : RegF) (s : State) : Out :=
  s.arrayAct f fun t g =>
    let span := spanOf f.mod
    let hs := spanHalves span
    s.spanThen t g hs 0x0600 <|
      let ofs := (s.src32 s.cur t f.a).toNat
      let n := (s.src64 s.cur t f.b).toNat
      let at_ (i : Nat) : BitVec 64 := BitVec.ofNat 64 (ofs + 4 * i)
      if n = 0 ∨ 64 < n then s.trap t 0x0606 0
      else if ofs % 4 ≠ 0 then s.trap t 0x0205 (at_ 0)
      else if !inAlloc g ofs (4 * n) then s.trap t 0x0200 (at_ 0)
      else s.programWords t g ofs n fun s ws =>
        match s.esIllegal t ws with
        | some i => s.trap t 0x0606 (at_ i)
        | none =>
          match s.esBadSlot t ws with
          | some i => s.trap t 0x060A (at_ i)
          | none => s.arrayIssue t g span hs (.load ws)

/-! ## `cpb` (R267, R268) -/

/-- Lines and first line of a fill descriptor. -/
def fillRange (d : List (BitVec 64)) : Nat × Nat := (bits (d.getD 2 0) 11 0, bits (d.getD 2 0) 23 12)
/-- SPAN of a fill descriptor. -/
def fillSpanOf (d : List (BitVec 64)) : Nat := bits (d.getD 2 0) 41 40
/-- Columns of a fill descriptor. -/
def fillColsOf (d : List (BitVec 64)) : Nat := bits (d.getD 2 0) 31 24 + 1

/-- The lines of a half that a fill writes. -/
def fillLinesIn (d : List (BitVec 64)) (h : Nat) : List Nat :=
  let (l, n) := fillRange d
  ((List.range n).map fun i => lineOf (fillSpanOf d) (l + i)).filterMap fun e => if e.1 = h then some e.2 else none

/-- The halves whose lines a fill writes. -/
def fillHalves (d : List (BitVec 64)) : List Nat := [0, 1].filter fun h => !(fillLinesIn d h).isEmpty

/-- The bytes from SADDR to the end of what a fill reads (R267). -/
def fillExtent (d : List (BitVec 64)) : Nat :=
  let c := d.getD 2 0
  let nb := bits c 36 32 + 1
  let (_, n) := fillRange d
  let j := fillColsOf d - 1
  if c.getLsbD 39 then (d.getD 1 0).toNat * j + nb * n else 4096 * (n - 1) + 32 * j + nb

/-- Is a fill descriptor refused with cp.desc (R187, R267)? -/
def fillRefused (g : Group) (d : List (BitVec 64)) : Bool :=
  let c := d.getD 2 0
  let (_, n) := fillRange d
  let sp := !c.getLsbD 38
  decide (bits c 63 42 ≠ 0) || decide (fillSpanOf d = 3) || decide (n = 0) || decide (1536 < n) || decide (128 < fillColsOf d)
    || (!c.getLsbD 39 && decide (d.getD 1 0 ≠ 0))
    || (sp && (decide (bits (d.getD 0 0) 63 32 ≠ 0) || !inAlloc g (bits (d.getD 0 0) 31 0) (fillExtent d)))
    || !doneForm g (c.getLsbD 37) (d.getD 3 0)

/-- A half's fill log with a new record: older records that it covers are dropped (R268). -/
def logFill (h : Nat) (r : FillRec) (l : List FillRec) : List FillRec :=
  let mine := fillLinesIn r.desc h
  l.filter (fun o => !((fillLinesIn o.desc h).all (fun x => mine.contains x) && decide (fillColsOf o.desc ≤ fillColsOf r.desc))) ++ [r]

/-- Accept a fill: its place in the halves' queues and its fill-log records. -/
def State.acceptFill (s : State) (t : Thread) (la : BitVec 4) (g : Group) (c : Cmd) (hs : List Nat) : State :=
  if s.arrayFull g hs then s.waitFor t .engineRoom
  else
    let rec_ (cid : Nat) : FillRec := { cid := cid, desc := c.desc, part := g.part }
    if hs.any fun h => decide (32 < (logFill h (rec_ 0) (if (s.half g.core h).holder = some t.gid then (s.half g.core h).fills else [])).length) then
      s.trap t 0x0608 0
    else
      let (cid, s) := s.fresh
      let s : State := { s with cmds := KV.put s.cmds cid c }
      let s := s.holdHalves t.gid g (spanHalves (fillSpanOf c.desc))
      let s := hs.foldl (fun s h => s.updHalf g.core h fun x => { x with fills := logFill h (rec_ cid) x.fills }) s
      let (l, n) := fillRange c.desc
      (s.enqueue g hs { cid := cid, gid := t.gid, span := fillSpanOf c.desc, kind := .fill cid l n, started := false }).finishLong t la 20 []

/-- `cpb` (R267). -/
def execCpb (f : RegF) (s : State) : Out :=
  s.arrayAct f fun t g =>
    s.acquireFirst t f.mod fun s => s.descriptor t f.la (s.src32 s.cur t f.a).toNat 4 fun s d =>
      if fillRefused g d then s.trap t 0x020F 0
      else
        s.spanThen t g (spanHalves (fillSpanOf d)) 0x0600 <|
          let (l, n) := fillRange d
          if spanLines (fillSpanOf d) < l + n then s.trap t 0x0603 0
          else s.acceptFill t f.la g (newCmd .cpb t.gid g d f.mod) (fillHalves d)

/-! ## `diag.inj` (R218) -/

/-- `diag.inj` (R218, R253). -/
def execDiagInj (f : RegF) (s : State) : Out :=
  s.act f.neg f.pred fun t =>
    match s.groupOf t with
    | none => s.trap t 0x030D 0
    | some g =>
      let v := s.src64 s.cur t f.a
      let row := bits v 7 0
      let col := bits v 15 8
      if bits v 63 21 ≠ 0 ∨ 127 < row ∨ 128 < col then s.trap t 0x030D 0
      else
        let h := row / 64
        s.spanThen t g [h] 0x030D (s.arrayIssue t g h [h] (.inject f.d.toNat (row % 64) col (bits v 20 16)))

/-! ## Joining a collective (R280 to R282) -/

/-- The groups of an instance of a level (R281). -/
def Launch.instSize (l : Launch) (level : Nat) : Nat :=
  (((l.levels.take (level + 1)).filter fun v => 2 < v.domain).map Level.extent).foldl (· * ·) 1

/-- Element bytes of a collective's TYPE (R281). -/
def collSize (ty : Nat) : Nat := if ty = 4 || ty = 8 then 8 else if ty = 10 then 2 else 4

/-- LEVEL of a collective's descriptor. -/
def collLevel (d : List (BitVec 64)) : Nat := bits (d.getD 3 0) 35 33

/-- Do two byte ranges overlap? -/
def rangesMeet (a n b m : Nat) : Bool := decide (n ≠ 0) && decide (m ≠ 0) && decide (a < b + m) && decide (b < a + n)

/-- Is a collective's descriptor refused (R282)? -/
def Launch.collRefused (l : Launch) (d : List (BitVec 64)) : Bool :=
  let w (i : Nat) : BitVec 64 := d.getD i 0
  let count := bits (w 2) 31 0
  let ty := bits (w 3) 43 40
  let op := bits (w 3) 39 36
  let level := collLevel d
  let n := l.instSize level
  let size := collSize ty
  let c : Coll := { lid := 0, level := level, inst := 0, tag := 0, num := 0, size := n, die := 0, members := [], refused := [] }
  let above := match l.levels[level]? with | some v => decide (2 < v.domain) | none => false
  decide (bits (w 2) 63 48 ≠ 0) || decide (bits (w 3) 63 44 ≠ 0) || (w 3).getLsbD 32 || decide (w 5 ≠ 0 ∨ w 6 ≠ 0 ∨ w 7 ≠ 0)
    || !([3, 4, 7, 8, 10, 11].contains ty) || decide (5 < op) || decide (2 ^ 24 < count) || !above || decide (n ≤ bits (w 3) 31 0)
    || (decide (op = 5) && decide (count % n ≠ 0)) || decide ((w 4).toNat % 4 ≠ 0)
    || (rangesMeet (w 0).toNat (count * size) (w 1).toNat (c.dstBytes d) &&
        !(decide (w 0 = w 1) && decide (op = 2 ∨ op = 3 ∨ op = 4)))

/-- The open collective that a group's next `coll` of a tag matches (R281). -/
def State.collFor (s : State) (lid level inst tag num : Nat) : Option (Nat × Coll) :=
  s.colls.find? fun e =>
    decide (e.2.lid = lid) && decide (e.2.level = level) && decide (e.2.inst = inst) && decide (e.2.tag = tag) && decide (e.2.num = num)

/-- Join a collective, opening it when no participant has; it runs when all have joined, and fails when one has already ended (R281,
R282). -/
def State.joinColl (s : State) (t : Thread) (la : BitVec 4) (g : Group) (l : Launch) (m : CollMember) : State :=
  let level := collLevel m.desc
  let inst := l.instOf level g.grp.toNat
  let tag := bits (m.desc.getD 2 0) 47 32
  let num := (KV.at? s.collNums (t.gid, level, tag)).getD 0
  let die := s.dieOf g.core
  let found := s.collFor g.lid level inst tag num
  if found.isNone ∧ 256 ≤ (s.colls.filter fun e => decide (e.2.die = die)).length then s.waitFor t .collTag
  else
    let (cid, s) := match found with | some e => (e.1, s) | none => s.fresh
    let c := match found with
      | some e => e.2
      | none => { lid := g.lid, level := level, inst := inst, tag := tag, num := num, size := l.instSize level, die := die, members := [], refused := [] }
    let c : Coll := { c with members := c.members ++ [m] }
    let s : State := { s with colls := KV.put s.colls cid c, collNums := KV.put s.collNums (t.gid, level, tag) (num + 1) }
    let s := s.finishLong t la 20 []
    let gone := l.dead.any fun grp => decide (l.instOf level grp = inst)
    if gone then
      let (s, keys) := s.failColl cid c 0x060E
      s.serve keys
    else if c.size ≤ c.members.length then s.raise (.collectiveRun cid)
    else s

/-- `coll` (R280 to R282). -/
def execColl (f : RegF) (s : State) : Out :=
  s.arrayAct f fun t g =>
    s.acquireFirst t f.mod fun s => s.descriptor t f.la (s.src32 s.cur t f.a).toNat 8 fun s d =>
      match s.launch? g.lid with
      | none => s.trap t 0x060C 0
      | some l =>
        if l.collRefused d then s.trap t 0x060C 0
        else
          s.joinColl t f.la g l
            { gid := t.gid, rank := g.grp.toNat % l.instSize (collLevel d), desc := d, acq := f.mod.getLsbD 9, rel := f.mod.getLsbD 8, scope := bits f.mod 12 10 }

end Sys2Proof.Machine
end

