-- ==== Sys2Proof/Machine/Array.lean ====
section
/-! DEFINITION. The array halves at work: which command starts (R263), the steps of an `mma` (R270, R271), the check of a drain (R273 to
R275), its output (R278), faults that a running command finds (R264), and a collective's run (R281, R282). -/

namespace Sys2Proof.Machine

/-! ## Queues -/

/-- The halves of a core whose queues hold a command. -/
def State.cmdHalves (s : State) (core cid : Nat) : List Nat :=
  [0, 1].filter fun h => (s.half core h).queue.any fun m => decide (m.cid = cid)

/-- Take a command out of the queues of its halves, with its drain's run. -/
def State.dropMx (s : State) (core cid : Nat) : State :=
  (s.cmdHalves core cid).foldl (fun s h => s.updHalf core h fun x =>
    { x with
      queue := x.queue.filter fun m => decide (m.cid ≠ cid)
      run := match x.run with | some r => if r.cid = cid then none else some r | none => none }) s

/-- A command completes: those that waited for its place or its queue go on, and its group may end (R261, R263, R265). -/
def State.endMx (s : State) (core cid gid : Nat) : State :=
  let s := s.dropMx core cid
  (s.wakeAll fun _ t => decide (t.status = .waiting .engineRoom) || decide (t.status = .waiting .queueBusy)).askEnd gid

/-- The bank that a command names (R263). -/
def MxKind.bank? : MxKind → Option Nat
  | .zero b => some b
  | .mma b _ _ _ _ _ => some b
  | .drain b _ _ _ _ => some b
  | .inject b _ _ _ => some b
  | _ => none

/-- The operand lines of a half that a command writes. -/
def MxCmd.writes (m : MxCmd) (h : Nat) : List Nat :=
  match m.kind with
  | .fill _ l n => ((List.range n).map fun i => lineOf m.span (l + i)).filterMap fun e => if e.1 = h then some e.2 else none
  | _ => []

/-- The operand lines of a half that a command reads. -/
def MxCmd.reads (m : MxCmd) (h : Nat) : List Nat :=
  match m.kind with
  | .mma _ _ l0 kg _ fb => ((tileLines fb l0 kg).map (lineOf m.span)).filterMap fun e => if e.1 = h then some e.2 else none
  | _ => []

/-- Do two lists share a number? -/
def listsMeet (a b : List Nat) : Bool := a.any fun x => b.contains x

/-- Does a command load a program store, and the other drain? -/
def loadMeetsDrain (x y : MxCmd) : Bool :=
  match x.kind, y.kind with
  | .load _, .drain _ _ _ _ _ => true
  | .drain _ _ _ _ _, .load _ => true
  | _, _ => false

/-- Do two commands of a half conflict (R263)? -/
def MxCmd.conflicts (h : Nat) (x y : MxCmd) : Bool :=
  (match x.kind.bank?, y.kind.bank? with | some a, some b => decide (a = b) | _, _ => false)
    || listsMeet (x.writes h) (y.reads h ++ y.writes h) || listsMeet (x.reads h) (y.writes h)
    || loadMeetsDrain x y || listsMeet x.kind.queues y.kind.queues

/-- Do the commands before one meet a condition, in every half that holds it? Commands that no half's queue holds together are not compared:
R263 orders the commands of one half's queue (DEDUCED, log entry 87). -/
def State.beforeAll (s : State) (core : Nat) (m : MxCmd) (p : Nat → MxCmd → Bool) : Bool :=
  (s.cmdHalves core m.cid).all fun h => ((s.half core h).queue.takeWhile fun x => decide (x.cid ≠ m.cid)).all (p h)

/-- Is no earlier command left with which a command conflicts? A replayed fill that a page holds is one (R263, R342). -/
def State.clearBefore (s : State) (core : Nat) (m : MxCmd) : Bool := s.beforeAll core m fun h x => !MxCmd.conflicts h x m

/-- May a command start in every half that holds it: every earlier command has started, and none that conflicts is left (R263)? -/
def State.mayStart (s : State) (core : Nat) (m : MxCmd) : Bool :=
  !s.groupSaving m.gid && s.beforeAll core m (fun _ x => x.started) && s.clearBefore core m

/-- Mark a command started. -/
def State.markStarted (s : State) (core cid : Nat) : State :=
  (s.cmdHalves core cid).foldl (fun s h => s.updHalf core h fun x =>
    { x with queue := x.queue.map fun (m : MxCmd) => if m.cid = cid then { m with started := true } else m }) s

/-! ## Faults of a running command (R264) -/

/-- Discard the commands after one in a half's queue: a fill that has not started is cancelled, one that runs goes on. -/
def State.discardAfter (s : State) (core cid h : Nat) : State :=
  let later := ((s.half core h).queue.dropWhile fun x => decide (x.cid ≠ cid)).tail
  later.foldl (fun s x =>
    match x.kind with
    | .fill c _ _ =>
      if x.started then s
      else
        match KV.at? s.cmds c with
        | some k =>
          let (s, keys) := s.cancelCmd c k
          (s.serve keys).askEnd k.gid
        | none => s
    | _ => s.endMx core x.cid x.gid) s

/-- Discard what stands after a command in the queues of its halves. -/
def State.discardLater (s : State) (core cid : Nat) : State :=
  (s.cmdHalves core cid).foldl (fun s h => s.discardAfter core cid h) s

/-- Keep an asynchronous fault for the steward; the first one stands. -/
def State.asyncFault (s : State) (gid : Nat) (cause : BitVec 32) (addr : BitVec 64) : State :=
  s.updGroup gid fun g => { g with asyncFault := match g.asyncFault with | some f => some f | none => some (cause, addr) }

/-- A command of a half found a queue stopped: an asynchronous fault, or a bad queue where another fault already waits (R56, R264). -/
def State.queueFault (s : State) (gid n : Nat) : State :=
  match s.group? gid with
  | some g => if g.asyncFault.isSome then s.markBad gid n else s.asyncFault gid 0x0604 0
  | none => s

/-! ## Banks and checksum cells -/

/-- The 64 rows of a bank, each of 128 elements. -/
def Half.rows (x : Half) (bank : Nat) : List (List (BitVec 32)) :=
  (List.range 64).map fun i => Sparse.range x.acc (bank * 8192 + i * 128) 128
/-- CR[0] to CR[127]. -/
def Half.crow (x : Half) (bank : Nat) : List (BitVec 32) := Sparse.range x.cr (bank * 128) 128
/-- CC[0] to CC[63]. -/
def Half.ccol (x : Half) (bank : Nat) : List (BitVec 32) := Sparse.range x.cc (bank * 64) 64
/-- The progress count P of a bank. -/
def Half.progress (x : Half) (bank : Nat) : Nat := if bank = 0 then x.prog0 else x.prog1
/-- Set the progress count of a bank. -/
def Half.setProgress (x : Half) (bank p : Nat) : Half := if bank = 0 then { x with prog0 := p } else { x with prog1 := p }

/-- `mzero` on one half (R269): every element and cell +0, the progress count 0. -/
def Half.zero (x : Half) (bank : Nat) : Half :=
  { x with
    acc := Sparse.clear x.acc (bank * 8192) (bank * 8192 + 8192)
    cr := Sparse.clear x.cr (bank * 128) (bank * 128 + 128)
    cc := Sparse.clear x.cc (bank * 64) (bank * 64 + 64) }.setProgress bank 0

/-- `diag.inj` on its half: one bit of an element, or of the checksum column's cell (R218, R315). -/
def Half.flip (x : Half) (bank row col bit : Nat) : Half :=
  let m : BitVec 32 := (1 : BitVec 32) <<< bit
  if col < 128 then
    let k := bank * 8192 + row * 128 + col
    { x with acc := Sparse.wr x.acc k (Sparse.rd x.acc k ^^^ m) }
  else
    let k := bank * 64 + row
    { x with cc := Sparse.wr x.cc k (Sparse.rd x.cc k ^^^ m) }

/-! ## The check of a drain (R273, R274) -/

/-- The exact difference between a checksum cell and the sum of its line, in units of 2^−149. -/
def lineDiff (cell : BitVec 32) (line : List (BitVec 32)) : Int :=
  (val32 cell).units (-149) - (line.map fun x => (val32 x).units (-149)).foldl (· + ·) 0

/-- Does a line mismatch its cell by more than `tol`·2^(emax − 22) (R273)? -/
def lineMismatch (tol : Nat) (cell : BitVec 32) (line : List (BitVec 32)) : Bool :=
  let vs := (cell :: line).map val32
  if vs.any fun v => v.isNan || v.isInf then false
  else
    match vs.filter fun v => !v.isZero with
    | [] => false
    | x :: r =>
      let emax := r.foldl (fun m y => max m y.EXP) x.EXP
      decide (tol * 2 ^ (emax + 149).toNat < (lineDiff cell line).natAbs * 2 ^ 22)

/-- What the check of a half comes to. -/
inductive Verdict where
  | pass
  /-- The element's row, column and corrected word. -/
  | element (row col : Nat) (v : BitVec 32)
  | cellRow (row : Nat)
  | cellCol (col : Nat)
  | bad (rows cols : List Nat)
  deriving DecidableEq, Repr

/-- Column j of rows. -/
def columnOf (rows : List (List (BitVec 32))) (j : Nat) : List (BitVec 32) := rows.map fun r => r.getD j 0

/-- The check of a bank of a half. -/
def Half.check (x : Half) (bank : Nat) : Verdict :=
  let rows := x.rows bank
  let cr := x.crow bank
  let cc := x.ccol bank
  let badRows := (List.range 64).filter fun i => lineMismatch 129 (cc.getD i 0) (rows.getD i [])
  let badCols := (List.range 128).filter fun j => lineMismatch 65 (cr.getD j 0) (columnOf rows j)
  match badRows, badCols with
  | [], [] => .pass
  | [i], [j] =>
    let d := lineDiff (cr.getD j 0) ((columnOf rows j).eraseIdx i)
    .element i j (rne32 (.dy (decide (d < 0)) d.natAbs (-149)))
  | [i], [] => .cellRow i
  | [], [j] => .cellCol j
  | a, b => .bad a b

/-- Write an array error record (R316, R407). -/
def State.logArray (s : State) (core h gid bank row col nrows ncols : Nat) (unc : Bool) : State :=
  match s.group? gid with
  | none => s
  | some g =>
    let done := match s.launch? g.lid with | some l => l.doneWord | none => 0
    s.log (some g.part) (if unc then 0x0021 else 0x0020) (core / Config.coresPerDie) core done
      (BitVec.ofNat 64 (g.grp.toNat * 2 ^ 32 + row * 2 ^ 24 + col * 2 ^ 16 + h * 2 ^ 8 + bank * 2 + if unc then 1 else 0))
      (BitVec.ofNat 64 (nrows * 2 ^ 32 + ncols)) 0 0

/-- Check a half: a correction is made, counted and logged; answers whether the drain may go on. An uncorrectable pattern is counted,
logged, interrupts the service core and goes to the group's containment region (R274, R275, R316, R332). -/
def State.checkHalf (s : State) (core h bank gid : Nat) : State × Bool :=
  let x := s.half core h
  let fix (y : Half) (row col nr nc : Nat) : State × Bool :=
    ((s.updHalf core h fun _ => { y with corrected := x.corrected + 1 }).logArray core h gid bank row col nr nc false, true)
  match x.check bank with
  | .pass => (s, true)
  | .element i j v => fix { x with acc := Sparse.wr x.acc (bank * 8192 + i * 128 + j) v } (64 * h + i) j 1 1
  | .cellRow i => fix x (64 * h + i) 128 1 0
  | .cellCol j => fix x 128 j 0 1
  | .bad rows cols =>
    let row := 64 * h + rows.headD 0
    let part := match s.group? gid with | some g => g.part | none => 0
    let s := (s.updHalf core h fun y => { y with uncorrectable := y.uncorrectable + 1 }).logArray core h gid bank row
      (cols.headD 0) rows.length cols.length true
    (((s.errorIrq part).coreError core).raiseTo gid 0x060F (Config.arrayErrorAddr bank h row), false)

/-- Check every half of a span; answers whether all may go on. -/
def State.checkHalves (s : State) (core bank gid : Nat) : List Nat → State × Bool
  | [] => (s, true)
  | h :: r =>
    let (s, a) := s.checkHalf core h bank gid
    let (s, b) := State.checkHalves s core bank gid r
    (s, a && b)

/-- The 16 elements of chunk `c` of a bank (R272). -/
def Half.chunkOf (x : Half) (bank c : Nat) : List (BitVec 32) := Sparse.range x.acc (bank * 8192 + 16 * c) 16

/-- A drain's run at its start: every register +0 but e0, which holds chunk 0 (R276). With an empty program store it has nothing to
execute. -/
def Half.startRun (x : Half) (cid bank : Nat) : DrainRun :=
  { cid := cid, chunk := 0, at_ := 0, e := Sparse.ofList 0 (x.chunkOf bank 0), m := 0, loops := [], out := [], chunkOut := [], band := []
    passes := 0, finished := x.store.isEmpty, faulted := false }

/-- Count a drain in its halves (R252). -/
def State.countDrain (s : State) (core : Nat) (hs : List Nat) : State :=
  hs.foldl (fun s h => s.updHalf core h fun x => { x with drains := x.drains + 1 }) s

/-- A drain starts: the check, then its epilogue runs; after an uncorrectable check it completes without output (R272, R275). -/
def State.startDrain (s : State) (core : Nat) (m : MxCmd) (bank : Nat) : State :=
  let hs := s.cmdHalves core m.cid
  let (s, ok) := s.checkHalves core bank m.gid hs
  if ok then hs.foldl (fun s h => s.updHalf core h fun x => { x with run := some (x.startRun m.cid bank) }) (s.markStarted core m.cid)
  else ((s.discardLater core m.cid).countDrain core hs).endMx core m.cid m.gid

/-- A command starts (R263): `mzero`, `epld` and `diag.inj` are done at once; a fill, an `mma` and a drain run on. -/
def State.startMx (s : State) (core : Nat) (m : MxCmd) : State :=
  let hs := s.cmdHalves core m.cid
  match m.kind with
  | .zero b => (hs.foldl (fun s h => s.updHalf core h fun x => x.zero b) s).endMx core m.cid m.gid
  | .load ws => (hs.foldl (fun s h => s.updHalf core h fun x => { x with store := ws }) s).endMx core m.cid m.gid
  | .inject b row col bit => (hs.foldl (fun s h => s.updHalf core h fun x => x.flip b row col bit) s).endMx core m.cid m.gid
  | .mma b _ _ _ _ _ => hs.foldl (fun s h => s.updHalf core h fun x => x.setProgress b 0) (s.markStarted core m.cid)
  | .fill c _ _ =>
    ((s.markStarted core m.cid).updCmd c fun k => { k with started := true }).plan (s.clock + 64) (.engineCommandCompletion c)
  | .drain b _ _ _ _ => s.startDrain core m b

/-- `ARRAY_COMMAND_START`: the first command of a half's queue that has not started, if it may start (R263). -/
def execArrayCommandStart (core half : Nat) (s : State) : Out :=
  match (s.half core half).queue.find? (fun m => !m.started) with
  | none => .next s
  | some m => .next (if s.mayStart core m then s.startMx core m else s)

/-! ## The steps of an `mma` (R270, R271) -/

/-- The 16 values of a unit (R270): a plain, OCP or HX unit by itself, an MX unit with its block's scale. -/
def unitVals (efmt u scale : Nat) : List Num :=
  (List.range 16).map fun k =>
    match efmt with
    | 0 => bf16.val (u / 2 ^ (16 * k) % 2 ^ 16)
    | 1 => fp16.val (u / 2 ^ (16 * k) % 2 ^ 16)
    | 2 => ocpVal 3 (u / 2 ^ (8 * k) % 2 ^ 8)
    | 3 => ocpVal 4 (u / 2 ^ (8 * k) % 2 ^ 8)
    | e => if e ≤ 6 then (hxOf e).val u k else mxVal (e - 7) u scale k

/-- Byte b of column j of a span's line. -/
def State.operandByte (s : State) (core span l j b : Nat) : Byte :=
  let (h, line) := lineOf span l
  Sparse.rd (s.half core h).sram (4096 * line + 32 * j + b)

/-- Element and scale lines of K-group g of a B tile (R259). -/
def tileLine (fb : BitVec 64) (l0 g : Nat) : Nat × Nat :=
  if !slotMx fb then (l0 + g, 0)
  else if slotSplace fb = 0 then (l0 + 3 * (g / 2) + g % 2, l0 + 3 * (g / 2) + 2)
  else (l0 + g, l0 + slotSstride fb + g / 2)

/-- The values of column j of B in K-group g. -/
def State.bColumn (s : State) (core span : Nat) (fb : BitVec 64) (l0 g j : Nat) : List Num :=
  let (line, scale) := tileLine fb l0 g
  let u := leNat ((List.range (unitBytes (slotEfmt fb))).map (s.operandByte core span line j))
  unitVals (slotEfmt fb) u (if slotMx fb then (s.operandByte core span scale j 0).toNat else 0)

/-- The 128 columns of B in K-group g. -/
def State.bColumns (s : State) (core span : Nat) (fb : BitVec 64) (l0 g : Nat) : List (List Num) :=
  (List.range 128).map (s.bColumn core span fb l0 g)

/-- `n` bytes of a queue from entry CONS on (R56, R260). -/
def State.queueBytes (s : State) (g : Group) (q n : Nat) : List Byte :=
  (List.range n).map fun i =>
    s.rdByte (spLoc g.core (g.spBase + qSlot q (natBits q 95 64 + i / qSize q) + i % qSize q)) 0

/-- The rows of A in K-group number i of a step, from the step's chunk and scale bytes. -/
def aRows (fa : BitVec 64) (rows i : Nat) (chunk scales : List Byte) : List (List Num) :=
  let u := unitBytes (slotEfmt fa)
  (List.range rows).map fun r =>
    unitVals (slotEfmt fa) (leNat ((chunk.drop ((i * rows + r) * u)).take u)) (scales.getD r 0).toNat

/-- The exact sum of the values of several rows, element by element (R271). -/
def sumVals (l : List (List Num)) : List Num :=
  l.foldl (fun a b => List.zipWith (Num.add false) a b) (List.replicate 16 (.dy false 0 0))

/-- One accumulation of a cell with the products of two rows of values (R136, R270). -/
def cellStep (acc : BitVec 32) (a b : List Num) : BitVec 32 := accumulate acc (List.zipWith mxProduct a b)

/-- One K-group on a half: every element, then every checksum cell (R270, R271). -/
def Half.kgroup (x : Half) (bank : Nat) (a b : List (List Num)) : Half :=
  let elems := (List.zipWith (fun r old => List.zipWith (fun c o => cellStep o r c) b old) a (x.rows bank)).flatten
  let sa := sumVals a
  let sb := sumVals b
  { x with
    acc := Sparse.setRange x.acc (bank * 8192) elems
    cr := Sparse.setRange x.cr (bank * 128) (List.zipWith (fun c o => cellStep o sa c) b (x.crow bank))
    cc := Sparse.setRange x.cc (bank * 64) (List.zipWith (fun r o => cellStep o r sb) a (x.ccol bank))
    kgroups := x.kgroups + 1 }

/-- K-groups of a step: two when a slot names an MX format (R270). -/
def stepGroups (fa fb : BitVec 64) : Nat := if slotMx fa || slotMx fb then 2 else 1

/-- Does an A stream carry its scales after the chunks of a step (SPLACE 0) (R260)? -/
def trailing (fa : BitVec 64) : Bool := slotMx fa && decide (slotSplace fa = 0)
/-- Does an A stream take its scales from the queue above (SPLACE 1) (R260)? -/
def separate (fa : BitVec 64) : Bool := slotMx fa && decide (slotSplace fa = 1)

/-- Bytes that a step takes from the A queue. -/
def stepBytes (fa fb : BitVec 64) (rows : Nat) : Nat :=
  stepGroups fa fb * rows * unitBytes (slotEfmt fa) + if trailing fa then rows else 0

/-- The offset of a bound queue's control word; none when the queue is stopped (R56). -/
def State.runQueue (s : State) (g : Group) (n : Nat) : Option Nat :=
  match KV.at? g.queues n with
  | some b => if s.qcwRefused g b.ofs then none else some b.ofs
  | none => none

/-- Run the K-groups of one step on the halves of a span. -/
def State.kgroups (s : State) (core : Nat) (m : MxCmd) (bank l0 p : Nat) (fa fb : BitVec 64) (chunk scales : List Byte) : State :=
  let rows := spanRows m.span
  (List.range (stepGroups fa fb)).foldl (fun s i =>
    let a := aRows fa rows i chunk scales
    let b := s.bColumns core m.span fb l0 (p + i)
    (spanHalves m.span).foldl (fun s h =>
      s.updHalf core h fun x => x.kgroup bank (if m.span = 2 then (a.drop (64 * h)).take 64 else a) b) s) s

/-- The bytes of a step and its scales, when every queue holds them; with them, the advances to make: control word, and new CONS. -/
def State.stepReady (s : State) (g : Group) (q sq : Nat) (rows : Nat) (fa fb : BitVec 64) : Option (List Byte × List Byte × List (Nat × Nat)) :=
  let w := s.qcw g q
  let n := stepBytes fa fb rows
  let e := n / qSize w
  let main := s.queueBytes g w n
  let adv := (q, natBits w 95 64 + e)
  if qOcc w < e then none
  else if separate fa then
    let v := s.qcw g sq
    let e' := rows / qSize v
    if qOcc v < e' then none else some (main, s.queueBytes g v rows, [adv, (sq, natBits v 95 64 + e')])
  else some (main, main.drop (stepGroups fa fb * rows * unitBytes (slotEfmt fa)), [adv])

/-- The storage errors that a step meets in the entries of a queue up to entry number `n`: each goes to the group's containment region (R332,
R334). The step goes on with what the words hold; with no region open nothing else happens (DESIGN CHOICE, log entry 59). -/
def State.readEntries (s : State) (gid : Nat) (g : Group) (ofs n : Nat) : State :=
  if s.flaws.isEmpty then s
  else
    let q := s.qcw g ofs
    (List.range (n - natBits q 95 64)).foldl (fun (s : State) i =>
      let at_ := qSlot q (natBits q 95 64 + i)
      match s.readFor g.victim 0 (spLoc g.core (g.spBase + at_)) (qSize q) with
      | (s, some c) => s.raiseTo gid c (BitVec.ofNat 64 at_)
      | (s, none) => s) s

/-- What a step of a running `mma` does with its A chunk, once it is there: the K-groups, the advances of its queues and its progress. -/
def State.mmaTake (s : State) (core : Nat) (m : MxCmd) (g : Group) (bank l0 kg : Nat) (fa fb : BitVec 64) :
    Option (List Byte × List Byte × List (Nat × Nat)) → State
  | none => s
  | some (chunk, scales, adv) =>
    let hs := spanHalves m.span
    let p := (s.half core (hs.headD 0)).progress bank
    let s := adv.foldl (fun s e => s.readEntries m.gid g e.1 e.2) s
    let s := s.kgroups core m bank l0 p fa fb chunk scales
    let s := adv.foldl (fun s e => s.qAdvance g e.1 8 e.2) s
    let p := p + stepGroups fa fb
    let s := hs.foldl (fun s h => s.updHalf core h fun x => x.setProgress bank p) s
    if kg ≤ p then s.endMx core m.cid m.gid else s

/-- A step of a running `mma`, if its A chunk is there (R270). A stopped queue is an asynchronous fault (R56, R264). -/
def State.mmaStep (s : State) (core : Nat) (m : MxCmd) (g : Group) (bank q l0 kg : Nat) (fa fb : BitVec 64) : State :=
  match s.runQueue g q, (if separate fa then s.runQueue g (q + 1) else some 0) with
  | some ofs, some sofs => s.mmaTake core m g bank l0 kg fa fb (s.stepReady g ofs sofs (spanRows m.span) fa fb)
  | none, _ => ((s.discardLater core m.cid).queueFault m.gid q).endMx core m.cid m.gid
  | _, none => ((s.discardLater core m.cid).queueFault m.gid (q + 1)).endMx core m.cid m.gid

/-- May a started `mma` take a step now, or must it fault? -/
def State.mmaReady (s : State) (core : Nat) (m : MxCmd) : Bool :=
  !s.groupSaving m.gid && s.clearBefore core m && match m.kind, s.group? m.gid with
  | .mma _ q _ _ fa fb, some g =>
    match s.runQueue g q, (if separate fa then s.runQueue g (q + 1) else some 0) with
    | some ofs, some sofs => (s.stepReady g ofs sofs (spanRows m.span) fa fb).isSome
    | _, _ => true
  | _, _ => false

/-- `MMA_KGROUP_STEP`: the first `mma` that runs with this half as its lowest and that has its A chunk takes a step (R270). -/
def execMmaKgroupStep (core half : Nat) (s : State) : Out :=
  match (s.half core half).queue.find? (fun m => m.started && decide ((spanHalves m.span).headD 0 = half) && s.mmaReady core m) with
  | none => .next s
  | some m =>
    match m.kind, s.group? m.gid with
    | .mma b q l0 kg fa fb, some g => .next (s.mmaStep core m g b q l0 kg fa fb)
    | _, _ => .next s

/-! ## The output of a drain (R278) -/

/-- Write one entry of an output queue and advance PROD (R262, R278). -/
def State.putOutput (s : State) (g : Group) (ofs : Nat) (ws : List (BitVec 32)) : State :=
  let q := s.qcw g ofs
  let prod := natBits q 127 96
  let s := s.wrBytes (spLoc g.core (g.spBase + qSlot q prod)) 0 (ws.flatMap fun w => leBytes 4 w.toNat)
  s.qAdvance g ofs 12 (prod + 1)

/-- A drain completes: with ZERO its banks are set as `mzero` sets them, unless a fault stopped it (R272). -/
def State.endDrain (s : State) (core : Nat) (m : MxCmd) (bank : Nat) (zero : Bool) : State :=
  let hs := s.cmdHalves core m.cid
  let s := if zero then hs.foldl (fun s h => s.updHalf core h fun x => x.zero bank) s else s
  (s.countDrain core hs).endMx core m.cid m.gid

/-- Set a half's run. -/
def State.setRun (s : State) (core h : Nat) (r : Option DrainRun) : State := s.updHalf core h fun x => { x with run := r }

/-- Hand the words that half 0 of an `.all` drain has left to half 1, whose output follows (R272, R278). -/
def State.handOver (s : State) (core : Nat) (ws : List (BitVec 32)) : State :=
  let s := s.setRun core 0 none
  match (s.half core 1).run with
  | some r => s.setRun core 1 (some { r with out := ws ++ r.out })
  | none => s

/-- Output of a drain's run whose next entry is not complete: half 0 of an `.all` drain hands over, and the last entry of a drain is
completed with zero bytes. -/
def State.closeOutput (s : State) (core half : Nat) (m : MxCmd) (g : Group) (ofs bank words : Nat) (zero : Bool) (r : DrainRun) : State :=
  let pair := decide (m.span = 2) && decide (half = 0)
  if !r.finished then s
  else if pair && !r.faulted then s.handOver core r.out
  else if r.out.isEmpty then s.endDrain core m bank (zero && !r.faulted)
  else
    let q := s.qcw g ofs
    if qOcc q < qDepth q then
      (s.putOutput g ofs (r.out ++ List.replicate (words - r.out.length) 0)).endDrain core m bank (zero && !r.faulted)
    else s

/-- `DRAIN_OUTPUT_ENTRY`: one entry of the output of the drain that runs on a half, if the queue has room and every command accepted
earlier into it has written; then the end of the drain (R278, R347). -/
def State.drainOutput (s : State) (core half : Nat) (m : MxCmd) (g : Group) (bank q : Nat) (zero : Bool) (r : DrainRun) : State :=
  match s.runQueue g q with
  | none =>
    ((s.discardLater core m.cid).queueFault m.gid q).endDrain core m bank false
  | some ofs =>
    let w := s.qcw g ofs
    let words := qSize w / 4
    if s.queueTaken m.cid m.gid core q then s
    else if words ≤ r.out.length then
      if qOcc w < qDepth w then (s.putOutput g ofs (r.out.take words)).setRun core half (some { r with out := r.out.drop words })
      else s
    else s.closeOutput core half m g ofs bank words zero r

/-- `DRAIN_OUTPUT_ENTRY` (R278): half 1 of an `.all` drain waits for half 0's output. -/
def execDrainOutputEntry (core half : Nat) (s : State) : Out :=
  match (s.half core half).run with
  | none => .next s
  | some r =>
    match (s.half core half).queue.find? (fun m => decide (m.cid = r.cid)) with
    | none => .next s
    | some m =>
      match m.kind, s.group? m.gid with
      | .drain b q _ z _, some g =>
        if m.span = 2 ∧ half = 1 ∧ (s.half core 0).run.isSome then .next s else .next (s.drainOutput core half m g b q z r)
      | _, _ => .next s

/-! ## Collectives (R281, R282) -/

/-- A `.gl` byte of a collective: its place, or the failure (R190, R281). A collective writes as no copy does: not to a weights page
(R52, R62). -/
def State.collPlace (s : State) (part : Nat) (va : BitVec 64) (write : Bool) : Except XFail Loc :=
  match s.gl part va (if write then Want.wr else Want.erd) with
  | .error f => .error f
  | .ok p => if write && decide (p.cls = 4) then .error (.trap 0x0207) else .ok p.loc

/-- `n` bytes of a collective from an address. -/
def State.collBytes (s : State) (part : Nat) (c : Coll) (va : BitVec 64) (n : Nat) (write : Bool) : List EngByte :=
  (List.range n).map fun i => refuse c.refused (s.collPlace part (va + BitVec.ofNat 64 i) write, va + BitVec.ofNat 64 i)

/-- COUNT, OP, TYPE and ROOT of a participant. -/
def CollMember.shape (m : CollMember) : Nat × Nat × Nat × Nat :=
  (bits (m.desc.getD 2 0) 31 0, bits (m.desc.getD 3 0) 39 36, bits (m.desc.getD 3 0) 43 40, bits (m.desc.getD 3 0) 31 0)

/-- Bytes of a participant's contribution. -/
def CollMember.srcBytes (m : CollMember) : Nat := m.shape.1 * collSize m.shape.2.2.1

/-- A participant's contribution. -/
def State.collSrc (s : State) (part : Nat) (c : Coll) (m : CollMember) : List EngByte :=
  s.collBytes part c (m.desc.getD 0 0) m.srcBytes false

/-- A participant's destination. -/
def State.collDst (s : State) (part : Nat) (c : Coll) (m : CollMember) : List EngByte :=
  s.collBytes part c (m.desc.getD 1 0) (c.dstBytes m.desc) true

/-- All bytes that a collective reads and writes, and its completion words. -/
def State.collAll (s : State) (part : Nat) (c : Coll) : List EngByte :=
  c.members.flatMap fun m => s.collSrc part c m ++ s.collDst part c m ++ s.collBytes part c (m.desc.getD 4 0) 1 true

/-- A participant as the one that met an error. -/
def State.memberVictim (s : State) (part : Nat) (m : CollMember) : Victim :=
  match s.group? m.gid with
  | some g => g.victim
  | none => { part := part, lid := 0, grp := 0, core := 0 }

/-- A contribution as it was read. -/
abbrev Contribution := CollMember × List (Except (BitVec 16) Byte)

/-- Read every contribution, in rank order. -/
def State.collRead (s : State) (part : Nat) (c : Coll) : List CollMember → State × List Contribution
  | [] => (s, [])
  | m :: r =>
    let (s, b) := s.readSpots (s.memberVictim part m) (s.collSrc part c m)
    let (s, l) := State.collRead s part c r
    (s, (m, b) :: l)

/-- Element e of a contribution, or why a byte of it cannot be read. -/
def elemAt (size : Nat) (b : List (Except (BitVec 16) Byte)) (e : Nat) : Except (BitVec 16) Nat := indexOf ((b.drop (e * size)).take size)

/-- The combination of element values in rank order (R281): OP 2 and 5 sum, 3 min, 4 max. A floating sum is exact and rounded once; a
floating min or max begins with the first value against itself, so that a NaN gives the canonical NaN with one participant too (R125, R151). -/
def combine (op type : Nat) (vs : List Nat) : Nat :=
  let kind := if op = 3 then 1 else if op = 4 then 2 else 0
  if type ≤ 8 then
    match vs with
    | [] => 0
    | v :: r => (r.foldl (fun a x => atomInt kind type a (BitVec.ofNat 64 x)) (BitVec.ofNat 64 v)).toNat % 2 ^ typeWidth type
  else if kind = 0 then ((vs.map fun v => exactOf ((fmtOf type).val v)).foldl Exact.add Exact.zero).seal type
  else
    match vs with
    | [] => 0
    | v :: _ => vs.foldl (fun a x => minMaxNumber (fmtOf type) (decide (kind = 2)) a x) v

/-- The members in rank order. -/
def Coll.ranked (c : Coll) : List CollMember := sortBy CollMember.rank c.members

/-- Element e of every contribution, or the first failure. -/
def elements (size e : Nat) : List Contribution → Except (BitVec 16) (List Nat)
  | [] => .ok []
  | x :: r =>
    match elemAt size x.2 e, elements size e r with
    | .ok v, .ok l => .ok (v :: l)
    | .error c, _ => .error c
    | _, .error c => .error c

/-- Element e of a combination, as its bytes or the failure that leaves them unwritten (R190, R281). -/
def combined (op type size e : Nat) (srcs : List Contribution) : List (Except (BitVec 16) Byte) :=
  match elements size e srcs with
  | .ok vs => (leBytes size (combine op type vs)).map fun (b : Byte) => .ok b
  | .error c => List.replicate size (.error c)

/-- The result bytes of a rank, each with the failure that leaves it unwritten (R190, R281). -/
def Coll.result (c : Coll) (srcs : List Contribution) (m : CollMember) : List (Except (BitVec 16) Byte) :=
  let (count, op, type, root) := m.shape
  let size := collSize type
  match op with
  | 0 => (srcs.filter fun x => decide (x.1.rank = root)).flatMap (·.2)
  | 1 => srcs.flatMap (·.2)
  | 5 => (List.range (count / c.size)).flatMap fun e => combined op type size (m.rank * (count / c.size) + e) srcs
  | _ => (List.range count).flatMap fun e => combined op type size e srcs

/-- Write a participant's result and fill its completion word; one whose completion word has no place gets nothing, and its cause goes
to the group's containment region, as that of an aborted source does after the fill (R189, R190, R281). -/
def State.collDeliver (s : State) (part : Nat) (c : Coll) (m : CollMember) (bytes : List (Except (BitVec 16) Byte)) : State :=
  let done := m.desc.getD 4 0
  match s.gl part done Want.wr with
  | .error (.trap x) => s.raiseTo m.gid x done
  | .error (.fault x _ _) => s.raiseTo m.gid x done
  | .ok p =>
    if !classTags p.cls then s.raiseTo m.gid 0x0206 done
    else
      let dst := s.collDst part c m
      let (s, fails) := s.writeSpots (bytes.zip dst)
      let f := unitFails ((dst.map fun x => x.2.toNat / 32).zip fails)
      let s := s.stf p.loc (p.cls == 4) (doneValue f.length (match f with | x :: _ => x.2 | [] => 0) (!f.isEmpty))
      if fails.any fun x => decide (x = some 0x020D) then s.raiseTo m.gid 0x020D (m.desc.getD 0 0) else s

/-- Run a collective: read every contribution, then write and complete each participant in rank order. -/
def State.collGo (s : State) (cid part : Nat) (c : Coll) : State :=
  let s := s.touchSpots part (s.collAll part c)
  let (s, srcs) := s.collRead part c c.ranked
  let s := c.ranked.foldl (fun s m => s.collDeliver part c m (c.result srcs m)) s
  let s : State := { s with colls := KV.del s.colls cid }
  let s := s.wakeAll fun _ t => decide (t.status = .waiting .collTag)
  c.members.foldl (fun s m => s.askEnd m.gid) s

/-- `COLLECTIVE_RUN` (R281, R282): participants that differ in OP, TYPE, COUNT or ROOT fail with coll.mismatch; a page that is not there holds
the collective (R188), and a swapped sub-bus keeps it waiting (R404). -/
def execCollectiveRun (cid : Nat) (s : State) : Out :=
  match KV.at? s.colls cid with
  | none => .next s
  | some c =>
    if c.members.length < c.size then .next s
    else
      let part := match s.launch? c.lid with | some l => l.part | none => 0
      let shape := (c.members.map CollMember.shape).headD (0, 0, 0, 0)
      if c.members.any fun m => decide (m.shape ≠ shape) then
        let (s, keys) := s.failColl cid c 0x060D
        .next (s.serve keys)
      else if (s.collAll part c).any s.spotOut then .next (s.plan (s.clock + 64) (.collectiveRun cid))
      else
        match firstHold (s.collAll part c) with
        | some (va, x, e, l) =>
          let core := match c.members with | m :: _ => (s.memberVictim part m).core | [] => 0
          .next (s.park part core va 3 x e l (.cmd cid))
        | none => .next (s.collGo cid part c)

end Sys2Proof.Machine
end

