-- ==== Sys2Proof/Machine/LoadStore.lean ====
section
/-! DEFINITION. Group 5: loads, stores and the prefetch (R168, R169). -/

namespace Sys2Proof.Machine

/-- The unit of OFS8 for an access of `size` bytes (R164). -/
def unitOf (size : Nat) : Nat := if size ≤ 4 then 4 else size

/-- `ld` (R168). -/
def execLd (space : Space) (f : RegF) (s : State) : Out :=
  s.act f.neg f.pred fun t =>
    let ty := modType f.mod
    let n := typeBytes ty
    let ea := s.ea s.cur t space f.a f.c (unitOf n)
    s.reach t f.la ((dstType s.cur ty f.d 0).map (·.1)) space ea n Acc.load fun s p =>
      s.finishLong t f.la (s.latency s.cur t space ea) (dstType s.cur ty f.d (wrapTo ty (s.rdNat p.loc n)))

/-- `st` (R168). -/
def execSt (space : Space) (f : RegF) (s : State) : Out :=
  s.act f.neg f.pred fun t =>
    let ty := modType f.mod
    let n := typeBytes ty
    let ea := s.ea s.cur t space f.a f.c (unitOf n)
    s.reach t f.la [] space ea n Acc.store fun s p =>
      (s.wrNat p.loc n (s.srcType s.cur t ty f.b).toNat).finishLong t f.la (s.latency s.cur t space ea) []

/-- `ldq`: four registers from 16 bytes (R168). -/
def execLdq (space : Space) (f : RegF) (s : State) : Out :=
  s.act f.neg f.pred fun t =>
    let ea := s.ea s.cur t space f.a f.c 16
    s.reach t f.la ((dstRegs f.d [0, 0, 0, 0]).map (·.1)) space ea 16 Acc.load fun s p =>
      let x := s.rdNat p.loc 16
      s.finishLong t f.la (s.latency s.cur t space ea)
        (dstRegs f.d ((List.range 4).map fun e => BitVec.ofNat 32 (x / 2 ^ (32 * e))))

/-- `stq`: four registers to 16 bytes (R168). -/
def execStq (space : Space) (f : RegF) (s : State) : Out :=
  s.act f.neg f.pred fun t =>
    let ea := s.ea s.cur t space f.a f.c 16
    s.reach t f.la [] space ea 16 Acc.store fun s p =>
      let bytes := (s.srcRegs s.cur t f.b 4).flatMap fun x => leBytes 4 x.toNat
      (s.wrBytes p.loc 0 bytes).finishLong t f.la (s.latency s.cur t space ea) []

/-- `pf`: never checked, never faults, changes nothing a program sees; it completes when the request leaves the core (R169). -/
def execPf (f : RegF) (s : State) : Out := s.act f.neg f.pred fun t => s.done t []

end Sys2Proof.Machine
end

