-- ==== Sys2Proof/Machine/AtomOps.lean ====
section
/-! DEFINITION. Atomics (R174, R175). -/

namespace Sys2Proof.Machine

/-- One indivisible read-modify-write: the new bytes from the old and from operands; the old value goes to d (R175). -/
def atomOp (space : Space) (f : RegF) (s : State) (ofs : BitVec 8) (g : Thread → BitVec 64 → Option (BitVec 64)) : Out :=
  s.act f.neg f.pred fun t =>
    let ty := modType f.mod
    let n := typeBytes ty
    let ea := s.ea s.cur t space f.a ofs (unitOf n)
    s.reach t f.la ((dstType s.cur ty f.d 0).map (·.1)) space ea n Acc.atomic fun s p =>
      let old := BitVec.ofNat 64 (s.rdNat p.loc n)
      let u := match g t old with | some v => s.wrNat p.loc n v.toNat | none => s
      u.finishLong t f.la (s.latency s.cur t space ea) (dstType s.cur ty f.d (wrapTo ty (valueOf ty old)))

/-- The integer atomics by the operation numbers of `atomInt`. -/
def atomIntOp (op : Nat) (space : Space) (f : RegF) (s : State) : Out :=
  atomOp space f s f.c fun t old => some (atomInt op (modType f.mod) old (s.srcType s.cur t (modType f.mod) f.b))

/-- `atom.add` (R175). -/
def execAtomAdd (space : Space) (f : RegF) (s : State) : Out := atomIntOp 0 space f s
/-- `atom.min` (R175). -/
def execAtomMin (space : Space) (f : RegF) (s : State) : Out := atomIntOp 1 space f s
/-- `atom.max` (R175). -/
def execAtomMax (space : Space) (f : RegF) (s : State) : Out := atomIntOp 2 space f s
/-- `atom.and` (R175). -/
def execAtomAnd (space : Space) (f : RegF) (s : State) : Out := atomIntOp 3 space f s
/-- `atom.or` (R175). -/
def execAtomOr (space : Space) (f : RegF) (s : State) : Out := atomIntOp 4 space f s
/-- `atom.xor` (R175). -/
def execAtomXor (space : Space) (f : RegF) (s : State) : Out := atomIntOp 5 space f s
/-- `atom.xchg` (R175). -/
def execAtomXchg (space : Space) (f : RegF) (s : State) : Out := atomIntOp 6 space f s
/-- `atom.cas`: no offset; a failing compare writes nothing (R175). -/
def execAtomCas (space : Space) (f : RegF) (s : State) : Out :=
  atomOp space f s 0 fun t old =>
    let ty := modType f.mod
    if valueOf ty old = valueOf ty (s.srcType s.cur t ty f.b) then some (s.srcType s.cur t ty f.c) else none
/-- `atom.fadd` (R175). -/
def execAtomFadd (space : Space) (f : RegF) (s : State) : Out :=
  atomOp space f s f.c fun t old =>
    some ((rne32 (Num.add false (val32 (old.setWidth 32)) (val32 (s.src32 s.cur t f.b)))).setWidth 64)

end Sys2Proof.Machine
end

