-- ==== Sys2Proof/Machine/Epilogue.lean ====
section
/-! DEFINITION. The epilogue processor: every `es` word (R276), the run of a program over the chunks of a half, and the transpose stage
(R278). -/

namespace Sys2Proof.Machine

/-! ## The processor -/

/-- What an epilogue word works with: its half, its drain and the group. -/
structure EsCtx where
  core : Nat
  half : Nat
  cid : Nat
  gid : Nat
  group : Group
  bank : Nat
  pb : Nat
  dser : BitVec 32

/-- How the program goes on after a word. -/
inductive EsFlow where
  | next (r : DrainRun)
  | jump (r : DrainRun) (dest : Nat)
  | stop (r : DrainRun)
  | fault (addr : Nat)

/-- Element n of register `c`. -/
def DrainRun.elem (r : DrainRun) (c : BitVec 4) (n : Nat) : BitVec 32 := Sparse.rd r.e (16 * c.toNat + n)
/-- Write the 16 elements of a register. -/
def DrainRun.setReg (r : DrainRun) (c : BitVec 4) (vs : List (BitVec 32)) : DrainRun := { r with e := Sparse.setRange r.e (16 * c.toNat) vs }
/-- Compute a register element by element. -/
def DrainRun.each (r : DrainRun) (d : BitVec 4) (f : Nat → BitVec 32) : EsFlow := .next (r.setReg d ((List.range 16).map f))
/-- The row 0 to 127 of the present chunk. -/
def DrainRun.row (r : DrainRun) (half : Nat) : Nat := 64 * half + r.chunk / 8
/-- The first column of the present chunk. -/
def DrainRun.col (r : DrainRun) : Nat := 16 * (r.chunk % 8)

/-! ## Chunks and output (R276, R278) -/

/-- The words that the transpose stage appends for a band: each pass in order, each column ascending, its 16 rows (R278). -/
def bandWords (band : List (Nat × Nat × Nat × List (BitVec 32))) : List (BitVec 32) :=
  let passes := band.foldl (fun k e => max k (e.1 + 1)) 0
  (List.range passes).flatMap fun p =>
    (List.range 128).flatMap fun j =>
      (List.range 16).map fun i =>
        match band.find? (fun e => decide (e.1 = p) && decide (e.2.1 = i) && decide (e.2.2.1 = j / 16)) with
        | some e => e.2.2.2.getD (j % 16) 0
        | none => 0

/-- The end of a chunk's run: its words join the output, or its band's when the band is whole; the next chunk enters e0 (R276, R278). -/
def DrainRun.endChunk (r : DrainRun) (x : Half) (bank : Nat) : DrainRun :=
  let n := r.chunk + 1
  let whole := decide (n % 128 = 0)
  let r := { r with
    out := r.out ++ r.chunkOut ++ (if whole then bandWords r.band else [])
    band := if whole then [] else r.band
    chunkOut := [], passes := 0, loops := [], at_ := 0 }
  if 512 ≤ n then { r with finished := true } else { r with chunk := n }.setReg 0 (x.chunkOf bank n)

/-- Go to a word; past the last loaded one the chunk ends (R276). -/
def DrainRun.goTo (r : DrainRun) (x : Half) (bank n : Nat) : DrainRun :=
  if x.store.length ≤ n then r.endChunk x bank else { r with at_ := n }

/-- A fault stops the run at its chunk: what the chunk and its band would have stored is dropped (R264, R278). -/
def State.esFault (s : State) (k : EsCtx) (r : DrainRun) (addr : Nat) : State :=
  let s := s.setRun k.core k.half (some { r with chunkOut := [], band := [], finished := true, faulted := true })
  (s.discardLater k.core k.cid).asyncFault k.gid 0x0607 (BitVec.ofNat 64 addr)

/-- The drain that runs on a half. -/
def State.esContext (s : State) (core half : Nat) (r : DrainRun) : Option EsCtx :=
  match (s.half core half).queue.find? (fun m => decide (m.cid = r.cid)) with
  | none => none
  | some m =>
    match m.kind, s.group? m.gid with
    | .drain b _ pb _ dser, some g =>
      some { core := core, half := half, cid := m.cid, gid := m.gid, group := g, bank := b, pb := pb, dser := dser }
    | _, _ => none

/-- Let a flow take effect. -/
def State.esGo (s : State) (k : EsCtx) (r : DrainRun) (f : EsFlow) : State :=
  let x := s.half k.core k.half
  match f with
  | .next q => s.setRun k.core k.half (some (q.goTo x k.bank (r.at_ + 1)))
  | .jump q n => s.setRun k.core k.half (some (q.goTo x k.bank n))
  | .stop q => s.setRun k.core k.half (some (q.endChunk x k.bank))
  | .fault a => s.esFault k r a

/-- Execute an epilogue word on the half whose processor has the turn. -/
def State.esAct (s : State) (f : EsCtx → DrainRun → EsFlow) : Out :=
  match s.cur with
  | .epilogue core half =>
    match (s.half core half).run with
    | none => .next s
    | some r =>
      match s.esContext core half r with
      | none => .next s
      | some k => .next (s.esGo k r (f k r))
  | _ => .next s

/-! ## The parameter block -/

/-- A word at an offset of the group's allocation; none beyond it. -/
def State.param (s : State) (k : EsCtx) (ofs : Nat) : Option (BitVec 32) :=
  if inAlloc k.group ofs 4 then some (s.rdWord (spLoc k.group.core (k.group.spBase + ofs))) else none

/-- Use the words at some offsets; the first that lies beyond the allocation is a fault. -/
def State.params (s : State) (k : EsCtx) (ofs : List Nat) (f : List (BitVec 32) → EsFlow) : EsFlow :=
  match ofs.find? (fun o => !inAlloc k.group o 4) with
  | some o => .fault o
  | none => f (ofs.map fun o => (s.param k o).getD 0)

/-- The offset of P[n]. -/
def EsCtx.p (k : EsCtx) (n : Nat) : Nat := k.pb + 4 * n
/-- The offset of V(n, m). -/
def EsCtx.v (k : EsCtx) (n m : Nat) : Nat := k.pb + 512 * n + 4 * m

/-- The SR bits of element n (R276). -/
def State.esSr (s : State) (k : EsCtx) (r : DrainRun) (n : Nat) : BitVec 32 :=
  let key := match s.launch? k.group.lid with | some l => l.key | none => 0
  qhash key [0xE, BitVec.ofNat 32 r.at_, k.group.grp, k.dser, BitVec.ofNat 32 (128 * r.row k.half + r.col + n)]

/-- Format slot n of the group's launch. -/
def State.esSlot (s : State) (k : EsCtx) (n : Nat) : BitVec 64 :=
  match s.launch? k.group.lid with
  | some l => l.fs.getD n 0
  | none => 0

/-- A minimum or maximum of two words (R151). -/
def minMax32 (max : Bool) (a b : BitVec 32) : BitVec 32 := BitVec.ofNat 32 (minMaxNumber fp32 max a.toNat b.toNat)

/-! ## The words (R276) -/

/-- `es.nop`. -/
def execEsNop (s : State) : Out := s.esAct fun _ r => .next r
/-- `es.mov`. -/
def execEsMov (d a : BitVec 4) (s : State) : Out := s.esAct fun _ r => r.each d (r.elem a)
/-- `es.add`. -/
def execEsAdd (d a b : BitVec 4) (s : State) : Out :=
  s.esAct fun _ r => r.each d fun n => rne32 (Num.add false (val32 (r.elem a n)) (val32 (r.elem b n)))
/-- `es.mul`. -/
def execEsMul (d a b : BitVec 4) (s : State) : Out :=
  s.esAct fun _ r => r.each d fun n => rne32 ((val32 (r.elem a n)).mul (val32 (r.elem b n)))
/-- `es.fma`. -/
def execEsFma (d a b c : BitVec 4) (s : State) : Out :=
  s.esAct fun _ r => r.each d fun n =>
    rne32 (Num.add false ((val32 (r.elem a n)).mul (val32 (r.elem b n))) (val32 (r.elem c n)))
/-- `es.max`. -/
def execEsMax (d a b : BitVec 4) (s : State) : Out := s.esAct fun _ r => r.each d fun n => minMax32 true (r.elem a n) (r.elem b n)
/-- `es.min`. -/
def execEsMin (d a b : BitVec 4) (s : State) : Out := s.esAct fun _ r => r.each d fun n => minMax32 false (r.elem a n) (r.elem b n)

/-- `es.scale`. -/
def execEsScale (d a : BitVec 4) (k : BitVec 8) (s : State) : Out :=
  s.esAct fun c r => s.params c [c.p k.toNat] fun ps =>
    r.each d fun n => rne32 ((val32 (r.elem a n)).mul (val32 (ps.getD 0 0)))
/-- `es.bias`. -/
def execEsBias (d a : BitVec 4) (k : BitVec 8) (s : State) : Out :=
  s.esAct fun c r => s.params c [c.p k.toNat] fun ps =>
    r.each d fun n => rne32 (Num.add false (val32 (r.elem a n)) (val32 (ps.getD 0 0)))
/-- `es.clamp`. -/
def execEsClamp (d a : BitVec 4) (k : BitVec 8) (s : State) : Out :=
  s.esAct fun c r => s.params c [c.p k.toNat, c.p (k.toNat + 1)] fun ps =>
    r.each d fun n =>
      if (val32 (r.elem a n)).isNan then 0x7FC00000
      else minMax32 false (minMax32 true (r.elem a n) (ps.getD 0 0)) (ps.getD 1 0)

/-- `es.exp2`. -/
def execEsExp2 (d a : BitVec 4) (s : State) : Out := s.esAct fun _ r => r.each d fun n => rne32 (exp2Num (val32 (r.elem a n)))
/-- `es.rcp`. -/
def execEsRcp (d a : BitVec 4) (s : State) : Out := s.esAct fun _ r => r.each d fun n => rne32 (rcpNum (val32 (r.elem a n)))

/-- The index that `es.lut` takes from a value: its whole number toward zero, clamped; an infinity goes to its end. -/
def lutIndex (x : Num) (len : Nat) : Nat :=
  match x with
  | .inf neg => if neg then 0 else len - 1
  | x => (max 0 (min ((len : Int) - 1) (roundInt x 1 0))).toNat

/-- `es.lut`. -/
def execEsLut (d a : BitVec 4) (n : BitVec 6) (k : BitVec 8) (s : State) : Out :=
  s.esAct fun c r =>
    let used := (List.range 16).filter fun i => !(val32 (r.elem a i)).isNan
    s.params c (used.map fun i => c.p (k.toNat + lutIndex (val32 (r.elem a i)) (n.toNat + 1))) fun _ =>
      r.each d fun i =>
        if (val32 (r.elem a i)).isNan then 0x7FC00000
        else (s.param c (c.p (k.toNat + lutIndex (val32 (r.elem a i)) (n.toNat + 1)))).getD 0

/-- `es.cmp`. -/
def execEsCmp (a b : BitVec 4) (c : BitVec 3) (s : State) : Out :=
  s.esAct fun _ r => .next { r with
    m := (List.range 16).foldl (fun m n =>
      if floatCond c.toNat (val32 (r.elem a n)) (val32 (r.elem b n)) then m ||| ((1 : BitVec 16) <<< n) else m) 0 }
/-- `es.sel`. -/
def execEsSel (d a b : BitVec 4) (s : State) : Out :=
  s.esAct fun _ r => r.each d fun n => if r.m.getLsbD n then r.elem a n else r.elem b n

/-- `es.ld`. -/
def execEsLd (d : BitVec 4) (m : BitVec 2) (k : BitVec 8) (s : State) : Out :=
  s.esAct fun c r =>
    match m.toNat with
    | 0 => s.params c ((List.range 16).map fun n => c.v k.toNat (r.col + n)) fun ps => r.each d fun n => ps.getD n 0
    | 1 => s.params c [c.v k.toNat (r.row c.half)] fun ps => r.each d fun _ => ps.getD 0 0
    | _ => s.params c [c.p k.toNat] fun ps => r.each d fun _ => ps.getD 0 0

/-- The words of a number, sixteen of them. -/
def sixteenWords (x : Nat) (n : Nat) : BitVec 32 := BitVec.ofNat 32 (x / 2 ^ (32 * n))

/-- `es.hxq` (R133, R159). -/
def execEsHxq (d a : BitVec 4) (n : BitVec 3) (s : State) : Out :=
  s.esAct fun c r =>
    let x := s.esSlot c n.toNat
    let b := (hxOf (slotEfmt x)).quantise ((List.range 16).map fun i => val32 (r.elem a i)) (slotOrm x) (s.esSr c r)
    r.each d (sixteenWords b)

/-- The encoding of a value in a plain format of EFMT 0 to 3 (R130, R135). -/
def plainRound (efmt : Nat) (x : Num) (rm : Nat) (sat : Bool) (u : BitVec 32) : Nat :=
  match efmt with
  | 0 => bf16.round x rm sat u
  | 1 => fp16.round x rm sat u
  | 2 => ocpRound 3 x rm sat u
  | _ => ocpRound 4 x rm sat u

/-- `es.cvt` (R130, R135). -/
def execEsCvt (d a : BitVec 4) (n : BitVec 3) (s : State) : Out :=
  s.esAct fun c r =>
    let x := s.esSlot c n.toNat
    let w := if slotEfmt x ≤ 1 then 16 else 8
    let b := (List.range 16).foldl (fun v i =>
      v + plainRound (slotEfmt x) (val32 (r.elem a i)) (slotOrm x) (slotOsat x) (s.esSr c r i) * 2 ^ (w * i)) 0
    r.each d (sixteenWords b)

/-- `es.st`. -/
def execEsSt (a w : BitVec 4) (s : State) : Out :=
  s.esAct fun _ r => .next { r with chunkOut := r.chunkOut ++ (List.range (w.toNat + 1)).map (r.elem a) }
/-- `es.stt`. -/
def execEsStt (a : BitVec 4) (s : State) : Out :=
  s.esAct fun _ r => .next { r with
    band := r.band ++ [(r.passes, r.chunk / 8 % 16, r.chunk % 8, (List.range 16).map (r.elem a))], passes := r.passes + 1 }

/-- `es.loop`. -/
def execEsLoop (c : BitVec 7) (t : BitVec 6) (s : State) : Out :=
  s.esAct fun _ r =>
    let n := (KV.at? r.loops r.at_).getD 0 + 1
    if n < c.toNat then .jump { r with loops := KV.put r.loops r.at_ n } t.toNat
    else .next { r with loops := KV.put r.loops r.at_ 0 }

/-- `es.end`. -/
def execEsEnd (s : State) : Out := s.esAct fun _ r => .stop r

end Sys2Proof.Machine
end

