-- ==== Sys2Proof/Machine/TagOps.lean ====
section
/-! DEFINITION. Tagged access (R170 to R173). -/

namespace Sys2Proof.Machine

/-- The executing thread joins the wait list of a word (R172). -/
def State.waitTag (s : State) (t : Thread) (la : BitVec 4) (spc : Space) (ea : BitVec 64) (p : Place) (dests : List Dest) (a : WaitAct) :
    State :=
  let oid := s.windowId t
  let s := (s.openWindow t la .tagWait [] dests).setDue s.cur oid (s.clock + s.latency s.cur t spc ea)
  let x : Waiter :=
    { key := p.loc.key / 4, keySlot := p.loc.slot, notify := p.cls == 4, who := s.cur, oid := oid, gs := decide (spc = .gs)
      ea := ea, act := a }
  { s with waits := s.waits ++ [x] }

/-- `ldwf` and `ldwfe` at a word: at once when the tag is FULLish, else the thread waits (R171, R172). -/
def tagLoad (take : Bool) (space : Space) (f : RegF) (s : State) : Out :=
  s.act f.neg f.pred fun t =>
    let ty := modType f.mod
    let ea := s.ea s.cur t space f.a f.c 4
    let dests := (dst32 s.cur f.d 0).map (·.1)
    s.reach t f.la dests space ea 4 (if take then Acc.take else Acc.tagRead) fun s p =>
      let k := p.loc.key / 4
      let tag := s.tagAt k
      if fullish tag then
        let u := s.finishLong { t with bereaved := tag == 3 } f.la (s.latency s.cur t space ea)
          (dst32 s.cur f.d (extWord ty (s.rdWord p.loc)))
        if take then (u.setTag k 0).serve [k] else u
      else s.waitTag t f.la space ea p dests (if take then .ldwfe dests.head? ty else .ldwf dests.head? ty)

/-- `ldwf` (R171). -/
def execLdwf (space : Space) (f : RegF) (s : State) : Out := tagLoad false space f s
/-- `ldwfe` (R171). -/
def execLdwfe (space : Space) (f : RegF) (s : State) : Out := tagLoad true space f s

/-- The release half of a tagged store, before the store (R58, R62, R98). -/
def State.releaseThen (s : State) (t : Thread) (m : BitVec 13) (k : State → State) : State :=
  if modOrd m = 2 then s.releaseFirst t k else k s

/-- `stwe`: at once when the tag is EMPTYish, else the thread waits (R171 to R173). -/
def execStwe (space : Space) (f : RegF) (s : State) : Out :=
  s.act f.neg f.pred fun t =>
    let ea := s.ea s.cur t space f.a f.c 4
    s.releaseThen t f.mod fun s =>
      s.reach t f.la [] space ea 4 Acc.await fun s p =>
        let k := p.loc.key / 4
        let tag := s.tagAt k
        let v := s.src32 s.cur t f.b
        if fullish tag then s.waitTag t f.la space ea p [] (.stwe v (modOrd f.mod == 2))
        else
          ((s.fill p.loc (p.cls == 4) v).finishLong { t with bereaved := tag == 2 } f.la (s.latency s.cur t space ea) []).serve [k]

/-- `stf`: no wait (R171, R173). -/
def execStf (space : Space) (f : RegF) (s : State) : Out :=
  s.act f.neg f.pred fun t =>
    let ea := s.ea s.cur t space f.a f.c 4
    s.releaseThen t f.mod fun s =>
      s.reach t f.la [] space ea 4 Acc.fill fun s p =>
        let v := s.src32 s.cur t f.b
        ((s.fill p.loc (p.cls == 4) v).finishLong t f.la (s.latency s.cur t space ea) []).serve [p.loc.key / 4]

/-- `tagrd` (R171). -/
def execTagrd (space : Space) (f : RegF) (s : State) : Out :=
  s.act f.neg f.pred fun t =>
    let ea := s.ea s.cur t space f.a f.c 4
    s.reach t f.la ((dst32 s.cur f.d 0).map (·.1)) space ea 4 Acc.tagRead fun s p =>
      s.finishLong t f.la (s.latency s.cur t space ea) (dst32 s.cur f.d ((s.tagAt (p.loc.key / 4)).setWidth 64))

/-- `tagwr`: any of the four tags; the data stay (R171). -/
def execTagwr (space : Space) (f : RegF) (s : State) : Out :=
  s.act f.neg f.pred fun t =>
    let ea := s.ea s.cur t space f.a f.c 4
    s.reach t f.la [] space ea 4 Acc.tagWrite fun s p =>
      let k := p.loc.key / 4
      ((s.setTag k ((s.src32 s.cur t f.b).setWidth 2)).finishLong t f.la (s.latency s.cur t space ea) []).serve [k]

end Sys2Proof.Machine
end

