-- ==== Sys2Proof/Machine/Estate.lean ====
section
/-! DEFINITION. Group 10, the estate instructions (R283 to R292). -/

namespace Sys2Proof.Machine

/-! ## Heirs and entries (R283, R284) -/

/-- May a group name this heir (R284)? -/
def Launch.heirOk (l : Launch) (grp heir : BitVec 32) : Bool :=
  if heir = 0xFFFFFFFF then true
  else if heir = 0xFFFFFFFE then decide (l.heirGrp ≠ 0xFFFFFFFF) && decide (l.heirGrp ≠ grp)
  else decide (heir.toNat < l.ngrp) && decide (heir ≠ grp)

/-- The same for a thread's group. -/
def State.heirOk (s : State) (t : Thread) (heir : BitVec 32) : Bool :=
  match s.launch? t.lid with
  | some l => l.heirOk t.grp heir
  | none => false

/-- SPACE of an estate instruction: 0 `.sp`, 1 `.gs`, 2 `.gl` (R285). -/
def estSpace (m : BitVec 13) : Nat := bits m 6 5

/-- An entry as created here (R283, R292). -/
def Entry.make (kind space : Nat) (addr : BitVec 64) (heir : BitVec 32) (waiting : Bool) : Entry :=
  { kind := kind, space := space, addr := addr, count := 0, qgid := 0, heir := heir, conv := false
    fromGrp := BitVec.allOnes 64, waiting := waiting }

/-- The held entry on a tagged object, or the one reserved for it. -/
def Group.entryOn (g : Group) (space : Nat) (a : BitVec 64) : Option (Nat × Entry) :=
  g.estate.find? fun e => e.2.sameObj space a

/-- Put an entry of a group. -/
def State.putEntry (s : State) (gid i : Nat) (e : Entry) : State :=
  s.updGroup gid fun g => { g with estate := KV.put g.estate i e }

/-- Retire an entry of a group. -/
def State.retireEntry (s : State) (gid i : Nat) : State :=
  s.updGroup gid fun g => { g with estate := KV.del g.estate i }

/-- An estate instruction on a tagged object: the object's check (R285), then the act with the group, the place, its space and its
address. An estate handler has no group and is refused (R297). -/
def State.estate (s : State) (t : Thread) (f : RegF) (a : Acc) (k : State → Group → Place → Nat → BitVec 64 → State) : State :=
  let n := estSpace f.mod
  let spc := objSpace n
  let ea := s.srcAddr s.cur t spc f.a
  s.reach t 0 [] spc ea 4 a fun s p =>
    match s.spGroup s.cur t with
    | none => s.done t (dstPred f.d false)
    | some g => k s g p n ea

/-- `hold.lock` and `promise`: refused, taken at once when the tag allows, or waiting with a reserved entry (R286, R289). -/
def State.holdWord (s : State) (t : Thread) (f : RegF) (lock : Bool) : State :=
  s.estate t f Acc.await fun s g p n ea =>
    let heir := s.src32 s.cur t f.b
    if !s.heirOk t heir || (g.entryOn n ea).isSome then s.done t (dstPred f.d false)
    else
      match tableSlot g.estate with
      | none => s.done t (dstPred f.d false)
      | some i =>
        let k := p.loc.key / 4
        let tag := s.tagAt k
        let kind := if lock then 0 else 1
        if fullish tag = lock then
          let s := s.putEntry t.gid i (Entry.make kind n ea heir false)
          ((s.done { t with bereaved := tag == (if lock then 3 else 2) } (dstPred f.d true)).setTag k 0).serve [k]
        else
          (s.putEntry t.gid i (Entry.make kind n ea heir true)).waitTag t 0 (objSpace n) ea p [.pred f.d.toNat]
            (if lock then .lock i f.d.toNat else .promise i f.d.toNat)

/-- `hold.lock` (R286). -/
def execHoldLock (f : RegF) (s : State) : Out := s.act f.neg f.pred fun t => s.holdWord t f true

/-- `promise` (R289). -/
def execPromise (f : RegF) (s : State) : Out := s.act f.neg f.pred fun t => s.holdWord t f false

/-- `hold.copy` (R288). -/
def execHoldCopy (f : RegF) (s : State) : Out :=
  s.act f.neg f.pred fun t =>
    s.estate t f Acc.object fun s g _ n ea =>
      let heir := s.src32 s.cur t f.b
      match tableSlot g.estate with
      | some i =>
        if !s.heirOk t heir || (g.entryOn n ea).isSome then s.done t (dstPred f.d false)
        else (s.putEntry t.gid i (Entry.make 4 n ea heir false)).done t (dstPred f.d true)
      | none => s.done t (dstPred f.d false)

/-! ## Slots (R287) -/

/-- The group and number of the queue that a control word names (R287). -/
def State.slotQueue (s : State) (gid : Nat) (g : Group) (c : BitVec 32) : Option (Nat × Nat) :=
  if bits c 31 9 ≠ 0 then none
  else if bits c 8 8 = 0 then some (gid, bits c 3 0)
  else match s.rankGroup g.share (bits c 7 4) with | some (o, _) => some (o, bits c 3 0) | none => none

/-- Room of a queue that is not reserved: is it at least `n` (R287)? -/
def State.slotRoom (s : State) (o q n : Nat) : Bool :=
  match s.group? o with
  | none => false
  | some g =>
    match KV.at? g.queues q with
    | none => false
    | some b =>
      let w := s.qcw g b.ofs
      decide (qOcc w + b.rsvd + n ≤ qDepth w)

/-- Is an entry the SLOT entry of a queue: of a group, and a number (R287)? -/
def Entry.onQueue (e : Entry) (o q : Nat) : Bool := decide (e.kind = 2) && decide (e.qgid = o) && decide (bits e.addr 3 0 = q)

/-- `hold.slot` (R287). -/
def execHoldSlot (f : RegF) (s : State) : Out :=
  s.act f.neg f.pred fun t =>
    let no := s.done t (dstPred f.d false)
    match s.spGroup s.cur t with
    | none => no
    | some g =>
      let c := s.src32 s.cur t f.a
      let n := (s.src32 s.cur t f.c).toNat
      let heir := s.src32 s.cur t f.b
      match s.slotQueue t.gid g c, tableSlot g.estate with
      | some (o, q), some i =>
        if n = 0 ∨ 4096 < n then no
        else if !s.heirOk t heir || g.estate.any (fun e => e.2.onQueue o q) || !s.slotRoom o q n then no
        else
          let e : Entry := { Entry.make 2 0 (c.setWidth 64) heir false with count := n, qgid := o }
          let s := s.updGroup o fun g => { g with queues := KV.upd g.queues q fun (b : QBind) => { b with rsvd := b.rsvd + n } }
          (s.putEntry t.gid i e).done t (dstPred f.d true)
      | _, _ => no

/-- The SLOT entry on the queue that a control word names, however the entry's own control word names it (R290, R291). -/
def State.slotEntry (s : State) (gid : Nat) (g : Group) (c : BitVec 32) : Option (Nat × Entry) :=
  match s.slotQueue gid g c with
  | some (o, q) => g.estate.find? fun e => e.2.onQueue o q
  | none => none

/-- `drop.slot` (R291). -/
def execDropSlot (f : RegF) (s : State) : Out :=
  s.act f.neg f.pred fun t =>
    let no := s.done t (dstPred f.d false)
    match s.spGroup s.cur t with
    | none => no
    | some g =>
      let n := (s.src32 s.cur t f.c).toNat
      match s.slotEntry t.gid g (s.src32 s.cur t f.a) with
      | none => no
      | some (i, e) =>
        if n = 0 ∨ e.count < n then no
        else
          let s := s.unreserve e n
          let s := if e.count = n then s.retireEntry t.gid i else s.putEntry t.gid i { e with count := e.count - n }
          s.done t (dstPred f.d true)

/-! ## Heirs (R290) -/

/-- `heir` (R290). -/
def execHeir (f : RegF) (s : State) : Out :=
  s.act f.neg f.pred fun t =>
    s.estate t f Acc.object fun s g _ n ea =>
      let heir := s.src32 s.cur t f.b
      match g.entryOn n ea with
      | some (i, e) =>
        if e.waiting || !s.heirOk t heir then s.done t (dstPred f.d false)
        else (s.putEntry t.gid i { e with heir := heir }).done t (dstPred f.d true)
      | none => s.done t (dstPred f.d false)

/-- `heir.slot` (R290). -/
def execHeirSlot (f : RegF) (s : State) : Out :=
  s.act f.neg f.pred fun t =>
    let heir := s.src32 s.cur t f.b
    match s.spGroup s.cur t with
    | none => s.done t (dstPred f.d false)
    | some g =>
      match s.slotEntry t.gid g (s.src32 s.cur t f.a) with
      | some (i, e) =>
        if !s.heirOk t heir then s.done t (dstPred f.d false)
        else (s.putEntry t.gid i { e with heir := heir }).done t (dstPred f.d true)
      | none => s.done t (dstPred f.d false)

/-- `heir.grp`: the launch keeps it (R284, R290). -/
def execHeirGrp (f : RegF) (s : State) : Out :=
  s.act f.neg f.pred fun t =>
    let heir := s.src32 s.cur t f.b
    if !s.heirOk t heir || isEstateHandler s.cur t then s.done t (dstPred f.d false)
    else (s.updLaunch t.lid fun l => { l with heirs := KV.put l.heirs t.grp.toNat heir }).done t (dstPred f.d true)

/-! ## `drop` and `fulfil` (R291) -/

/-- Will a `drop` or `fulfil` fill the word of an entry of a kind? -/
def State.fillsEntry (s : State) (t : Thread) (f : RegF) (kind : Nat) : Bool :=
  let n := estSpace f.mod
  let ea := s.srcAddr s.cur t (objSpace n) f.a
  match s.access s.cur t (objSpace n) ea 4 Acc.fill, s.spGroup s.cur t with
  | .ok _, some g => match g.entryOn n ea with | some (_, e) => !e.waiting && decide (e.kind = kind) | none => false
  | _, _ => false

/-- What fills a held word is a release: it comes after the thread's earlier accesses, a flush point (R58, R62, R291). -/
def State.beforeFill (s : State) (t : Thread) (f : RegF) (kind : Nat) (k : State → State) : State :=
  if s.fillsEntry t f kind then s.releaseFirst t k else k s

/-- Fill a held word and retire its entry, in one step (R291). -/
def State.fillEntry (s : State) (t : Thread) (f : RegF) (i : Nat) (p : Place) : State :=
  let v := s.src32 s.cur t f.b
  (((s.retireEntry t.gid i).fill p.loc (p.cls == 4) v).done t (dstPred f.d true)).serve [p.loc.key / 4]

/-- `drop` (R291). -/
def execDrop (f : RegF) (s : State) : Out :=
  s.act f.neg f.pred fun t =>
    s.beforeFill t f 0 fun s =>
      s.estate t f Acc.fill fun s g p n ea =>
        match g.entryOn n ea with
        | some (i, e) =>
          if e.waiting then s.done t (dstPred f.d false)
          else
            match e.kind with
            | 0 => s.fillEntry t f i p
            | 1 => s.done t (dstPred f.d false)
            | _ => (s.retireEntry t.gid i).done t (dstPred f.d true)
        | none => s.done t (dstPred f.d false)

/-- `fulfil` (R291). -/
def execFulfil (f : RegF) (s : State) : Out :=
  s.act f.neg f.pred fun t =>
    s.beforeFill t f 1 fun s =>
      s.estate t f Acc.fill fun s g p n ea =>
        match g.entryOn n ea with
        | some (i, e) => if !e.waiting && decide (e.kind = 1) then s.fillEntry t f i p else s.done t (dstPred f.d false)
        | none => s.done t (dstPred f.d false)

/-! ## `estq` (R292) -/

/-- Entry i of the executing thread's table, if it is held. -/
def State.estEntry (s : State) (t : Thread) (i : BitVec 32) : Option Entry :=
  match s.spGroup s.cur t with
  | none => none
  | some g => match KV.at? g.estate i.toNat with | some e => if e.waiting then none else some e | none => none

/-- The `.info` value of an entry (R292). -/
def Entry.info (e : Entry) : BitVec 64 :=
  BitVec.ofNat 64 (e.heir.toNat * 2 ^ 32 + 128 + (if e.conv then 64 else 0) + e.space % 4 * 16 + e.kind % 8)

/-- `estq.info` (R292). -/
def execEstqInfo (f : RegF) (s : State) : Out :=
  s.compute f.neg f.pred fun t =>
    dst64 s.cur f.d (match s.estEntry t (s.src32 s.cur t f.a) with | some e => e.info | none => 0)

/-- `estq.obj` (R292). -/
def execEstqObj (f : RegF) (s : State) : Out :=
  s.compute f.neg f.pred fun t =>
    dst64 s.cur f.d (match s.estEntry t (s.src32 s.cur t f.a) with | some e => e.objValue | none => 0)

/-- `estq.from` (R292). -/
def execEstqFrom (f : RegF) (s : State) : Out :=
  s.compute f.neg f.pred fun t =>
    dst64 s.cur f.d (match s.estEntry t (s.src32 s.cur t f.a) with | some e => e.fromGrp | none => 0)

/-- The mask of held entries (R292). -/
def Group.heldMask (g : Group) : BitVec 64 :=
  g.estate.foldl (fun m e => if e.2.waiting then m else m ||| ((1 : BitVec 64) <<< e.1)) 0

/-- `estq.mask` (R292). -/
def execEstqMask (f : RegF) (s : State) : Out :=
  s.compute f.neg f.pred fun t =>
    dst64 s.cur f.d (match s.spGroup s.cur t with | some g => g.heldMask | none => 0)

end Sys2Proof.Machine
end

