-- ==== Sys2Proof/Machine/LaunchRec.lean ====
section
/-! DEFINITION. Launch records and what hangs on them: the record's fields (R33), the window block (R238) with its scan descriptor
(R222), the QRU descriptor (R301), and the checks that refuse a launch (R31, R34, R239, R301, R357). -/

namespace Sys2Proof.Machine

/-! ## Reading -/

/-- Word i of a record. -/
def dwordOf (r : List (BitVec 64)) (i : Nat) : BitVec 64 := r.getD i 0

/-! ## The launch record (R30, R33) -/

/-- A level from its descriptor (R30). -/
def levelOf (d : BitVec 64) : Level := { share := d.getLsbD 38, scope := bits d 37 35, domain := bits d 34 32, extent := bits d 31 0 }

/-- LEVELS. -/
def levelCount (r : List (BitVec 64)) : Nat := bits (dwordOf r 0) 35 32

/-- A launch from its record. -/
def launchOf (r : List (BitVec 64)) (part die : Nat) (source : LSource) (va : BitVec 64) (order clock : Nat) : Launch :=
  let w := dwordOf r
  { part := part, die := die, source := source, record := va, doneWord := w 4, prio := bits (w 0) 31 30, membound := (w 0).getLsbD 29
    laneEntry := w 1, stewEntry := w 2, spUnits := bits (w 3) 40 32, paramLen := bits (w 3) 9 0, heirGrp := (w 5).setWidth 32
    estHandler := w 6, illHandler := w 7, trapHandler := w 8, winBlock := w 9, qruDesc := w 10, key := w 11
    levels := (List.range (min 8 (levelCount r))).map fun i => levelOf (w (12 + i))
    raw := r, qru := none, fs := (List.range 8).map fun i => w (20 + i)
    checked := false, placed := 0, ended := 0, insts := [], heirs := [], dead := [], reports := 0, status := 0, storeEntry := none
    accepted := order, waitingSince := clock, query := none, done := false }

/-! ## Where cores lie (R3, R4) -/

/-- The present cores of an instance of a domain: a hamlet's router, a quadrant, a die, the package (R3, R30). -/
def State.domainCores (s : State) (domain n : Nat) : List Nat :=
  (List.range Config.cores).filter fun c => s.present c &&
    match domain with
    | 3 => decide (s.builtOf c / 4 = n)
    | 4 => decide (c / 28 = n)
    | 5 => decide (c / 112 = n)
    | _ => true

/-- How many instances of a domain the package has. -/
def domainCount : Nat → Nat
  | 3 => 128
  | 4 => 16
  | 5 => 4
  | _ => 1

/-- Present cores of the largest instance of a domain: in the package, or in the pod for the package and pod domains (R31). -/
def State.largest (s : State) (domain : Nat) : Nat :=
  let here := ((List.range (domainCount domain)).map fun n => (s.domainCores domain n).length).foldl max 0
  if domain = 7 then here + Config.podCores else if domain = 6 then max here Config.podLargest else here

/-! ## Lanes (R32) -/

/-- The extent of the level of a domain, if there is one. -/
def Launch.extentOf (l : Launch) (domain : Nat) : Option Nat :=
  match l.levels.find? (fun v => decide (v.domain = domain)) with
  | some v => some v.extent
  | none => none

/-- The lane of thread t (R32). -/
def Launch.laneOf (l : Launch) (t : Nat) : Nat :=
  let spread (i : Nat) : Nat := 32 * (i % 4) + i / 4 % 32
  match l.extentOf 0, l.extentOf 1 with
  | none, none => spread t
  | some el, none => spread (t / el)
  | none, some eq => 32 * (t / eq) + t % eq % 32
  | some el, some eq => 32 * (t / el / eq) + t / el % eq

/-- The lanes of all threads in %tid order. -/
def Launch.lanes (l : Launch) : List Nat := (List.range l.nthr).map l.laneOf

/-! ## The checks of R34 -/

/-- Do domains strictly rise? -/
def domainsRise : List Level → Bool
  | a :: b :: r => decide (a.domain < b.domain) && domainsRise (b :: r)
  | _ => true

/-- The least scope of a level (R31). -/
def minScope (v : Level) : Nat :=
  match v.domain with
  | 3 => if v.share then 2 else 3
  | 4 => if v.share then 2 else 3
  | 5 => 3
  | 6 => 4
  | 7 => 5
  | _ => 1

/-- Groups of an instance of the level at an index. -/
def Launch.groupsIn (l : Launch) (i : Nat) : Nat := (((l.levels.take (i + 1)).filter fun v => 2 < v.domain).map Level.extent).foldl (· * ·) 1
/-- Threads of an instance of the level at an index, at or below the core level. -/
def Launch.threadsIn (l : Launch) (i : Nat) : Nat := ((l.levels.take (i + 1)).map Level.extent).foldl (· * ·) 1

/-- Does an instance of the level at an index exceed its capacity (R31, R32)? -/
def State.levelTooBig (s : State) (l : Launch) (i : Nat) (v : Level) : Bool :=
  match v.domain with
  | 0 => decide (16 < l.threadsIn i)
  | 1 => decide (512 < l.threadsIn i) || ((l.extentOf 0).isSome && decide (32 < v.extent))
  | 2 =>
    decide (2048 < l.threadsIn i) || ((l.extentOf 1).isSome && decide (4 < v.extent))
      || (let lanes := l.lanes; (List.range 128).any fun k => decide (16 < lanes.count k))
  | 3 => decide (min 16 (4 * s.largest 3) < l.groupsIn i) || (v.share && decide (s.largest 3 < l.groupsIn i))
  | d => decide (4 * s.largest d < l.groupsIn i) || (v.share && decide (s.largest d < l.groupsIn i))

/-- Is an entry address misaligned or unmapped for the partition, whose PERM then gives it nothing (R34)? A page that the host owns is
mapped. -/
def State.entryBad (s : State) (part : Nat) (va : BitVec 64) : Bool :=
  decide (va.toNat % 8 ≠ 0) ||
    match s.gl part va Want.rd with
    | .ok _ => false
    | .error (.fault c _ _) => decide (c ≠ 0x020C)
    | .error (.trap _) => true

/-- The levels with their indexes. -/
def Launch.indexed (l : Launch) : List (Nat × Level) := (List.range l.levels.length).zip l.levels

/-- Does the SHARE flag break R30, R31 or R34? -/
def Launch.shareBad (l : Launch) : Bool :=
  let sh := l.indexed.filter fun e => e.2.share
  decide (1 < sh.length) || sh.any fun e => (decide (e.2.domain ≠ 3) && decide (e.2.domain ≠ 4)) || decide (16 < l.groupsIn e.1)

/-- Is a reserved bit or field of the record nonzero (R33)? -/
def Launch.reservedSet (l : Launch) : Bool :=
  let w := dwordOf l.raw
  decide (bits (w 0) 39 36 ≠ 0) || decide (bits (w 0) 28 0 ≠ 0) || decide (bits (w 3) 63 41 ≠ 0) || decide (bits (w 3) 31 10 ≠ 0)
    || decide (bits (w 5) 63 32 ≠ 0) || (List.range 8).any (fun i => decide (bits (w (12 + i)) 63 39 ≠ 0))
    || (List.range 4).any fun i => decide (w (28 + i) ≠ 0)

/-- The first failed check of R34, by ascending code. -/
def State.recordRefused (s : State) (l : Launch) : Option Nat :=
  let w := dwordOf l.raw
  let n := levelCount l.raw
  if bits (w 0) 63 48 ≠ 0x4947 ∨ bits (w 0) 47 40 ≠ 1 then some 0x01
  else if n = 0 ∨ 8 < n ∨ (List.range (8 - n)).any (fun i => decide (w (12 + n + i) ≠ 0)) then some 0x02
  else if !domainsRise l.levels || decide ((l.levels.filter fun v => decide (v.domain = 2)).length ≠ 1) then some 0x03
  else if l.levels.any fun v => decide (v.scope = 7) || decide (v.scope < minScope v) then some 0x04
  else if (l.levels.any fun v => decide (v.extent = 0)) || l.indexed.any fun e => s.levelTooBig l e.1 e.2 then some 0x05
  else if l.spUnits = 0 ∨ 256 < l.spUnits ∨ 512 < l.paramLen then some 0x06
  else if l.shareBad then some 0x07
  else if l.reservedSet then some 0x08
  else if s.entryBad l.part l.laneEntry || s.entryBad l.part l.stewEntry ||
      [l.estHandler, l.illHandler, l.trapHandler].any fun a => decide (a ≠ 0) && s.entryBad l.part a then some 0x09
  else none

/-! ## The window block (R238, R239) -/

/-- A window block from its 32 words. -/
def winBlockOf (r : List (BitVec 64)) : WinBlock :=
  let w := dwordOf r
  { kind := bits (w 0) 39 38, panes := (w 0).getLsbD 37, explicitOnly := (w 0).getLsbD 36, batch := (w 0).getLsbD 35, scan := (w 0).getLsbD 34
    keyW := (match bits (w 0) 33 32 with | 1 => 4 | 2 => 8 | _ => 0), keyOfs := bits (w 0) 31 24, payload := bits (w 0) 23 16
    stateBase := bits (w 0) 15 8, stateCnt := bits (w 0) 5 0, length := (w 1).toNat, step := (w 2).toNat, late := (w 3).toNat
    gap := (w 4).toNat, stale := (w 5).toNat, idle := (w 6).toNat, origin := (w 7).toNat, paneEntry := w 8, mergeEntry := w 9
    mergeOfs := bits (w 10) 31 0, stream := (w 11).setWidth 16, scanDesc := w 12, sinkBase := w 13, sinkN := bits (w 14) 24 0
    sinkProd := w 15, sinkCons := w 16, foldBase := w 17, foldCap := bits (w 18) 26 0, batchN := bits (w 19) 6 0
    batchWait := (w 20).toNat }

/-- Is a field of the block reserved, or a value of it refused by code 0x10? -/
def blockBad (r : List (BitVec 64)) (b : WinBlock) : Bool :=
  let w := dwordOf r
  decide (bits (w 0) 63 48 ≠ 0x5742) || decide (bits (w 0) 47 40 ≠ 1) || decide (b.kind = 3) || decide (bits (w 0) 33 32 = 3)
    || decide (bits (w 0) 7 6 ≠ 0) || decide (bits (w 10) 63 32 ≠ 0) || decide (bits (w 11) 63 16 ≠ 0) || decide (bits (w 14) 63 25 ≠ 0)
    || decide (bits (w 18) 63 27 ≠ 0) || decide (bits (w 19) 63 7 ≠ 0) || (List.range 11).any (fun i => decide (w (21 + i) ≠ 0))
    || (if b.keyW = 0 then decide (b.keyOfs ≠ 0) else decide (b.keyOfs % b.keyW ≠ 0) || decide (64 < b.keyOfs + b.keyW))
    || decide (32 < b.stateCnt)

/-- Windows that a record belongs to at most: the ceiling of LENGTH over STEP (R227). -/
def WinBlock.fanOut (b : WinBlock) : Nat := (b.length + b.step - 1) / b.step

/-- The scan descriptor of a query, checked (R222); none when it is refused. -/
def State.scanOf (s : State) (part : Nat) (va : BitVec 64) : Option ScanSt :=
  if va.toNat % 32 ≠ 0 then none
  else
    match s.dwordsAt part va 4 with
    | .error _ => none
    | .ok r =>
      let w := dwordOf r
      let ts := bits (w 2) 47 40
      let len := bits (w 2) 39 32
      let stride := bits (w 2) 31 0
      if bits (w 2) 63 48 ≠ 0 ∨ (w 0).toNat % 4 ≠ 0 ∨ 2 ^ 48 < (w 1).toNat ∨ len < 4 ∨ 64 < len ∨ len % 4 ≠ 0
          ∨ stride < len ∨ stride % 4 ≠ 0 ∨ (ts ≠ 255 ∧ (ts % 8 ≠ 0 ∨ len ≤ ts)) then none
      else
        some { base := w 0, count := (w 1).toNat, tsOfs := ts, len := len, stride := stride, seqBase := w 3, next := 0, held := false }

/-- Does a VA hold a 4-byte-aligned word of a tagged page, whoever may use the page (R239)? -/
def State.taggedWord (s : State) (va : BitVec 64) : Bool :=
  decide (va.toNat % 4 = 0) && decide (bits va 63 50 ≤ Config.podHighest ∨ bits va 63 50 = 0) &&
    match s.leaf va with
    | .ok (e, _) => decide (pteClass e = 3)
    | .error _ => false

/-- Is every 64 KiB piece of a range mapped and writable for a partition (R239)? A page that the host owns is mapped; a range of 0 bytes has no
piece. -/
def State.rangeWritable (s : State) (part : Nat) (va : BitVec 64) (n : Nat) : Bool :=
  n == 0 || (List.range ((va.toNat % 65536 + n + 65535) / 65536)).all fun i =>
    match s.gl part (if i = 0 then va else BitVec.ofNat 64 (va.toNat / 65536 * 65536 + 65536 * i)) Want.wr with
    | .ok _ => true
    | .error (.fault c e _) => decide (c = 0x020C) && decide (ptePerm e part = 2)
    | .error (.trap _) => false

/-- Fold entries in use on this package's dies (R239). -/
def State.foldsUsed (s : State) : Nat := (s.dies.map fun d => d.2.foldUsed).foldl (· + ·) 0

/-- Bytes below the spill area of an allocation of the launch (R48). -/
def Launch.below (l : Launch) : Nat := l.spUnits * 4096 - 64 * (l.nthr + 1)

/-- The first failed check of a window block after code 0x10 (R239). A value that R238 forbids and R239's table does not list takes the code of
its field's check: STATEBASE no multiple of 4 and PAYLOAD above 112 take 0x14, a misaligned MERGEOFS 0x16, SINKN above 2^24 0x18 and a misaligned
FOLDBASE 0x19 (DESIGN CHOICE, log entry 85). -/
def State.blockRefused (s : State) (l : Launch) (die : Nat) (b : WinBlock) : Option Nat :=
  let gap := decide (b.kind = 2)
  if l.levels.any fun v => decide (5 < v.domain) then some 0x11
  else if (!gap && decide (b.length = 0 ∨ b.step = 0 ∨ b.gap ≠ 0)) || (gap && decide (b.gap = 0 ∨ b.length ≠ 0 ∨ b.step ≠ 0))
      || (b.panes && (gap || decide (b.length < b.step))) then some 0x12
  else if !gap && decide ((if b.panes then 4096 else 64) < b.fanOut) then some 0x13
  else if b.payload % 16 ≠ 0 ∨ 112 < b.payload ∨ b.stateBase % 4 ≠ 0 ∨ 128 < b.stateBase + b.stateCnt
      ∨ (b.stateCnt ≠ 0 ∧ b.payload < b.stateBase + b.stateCnt ∧ b.stateBase < b.payload + 16) then some 0x14
  else if (if b.panes then decide (b.paneEntry = 0) || s.entryBad l.part b.paneEntry else decide (b.paneEntry ≠ 0))
      || (if gap then decide (b.mergeEntry = 0) || s.entryBad l.part b.mergeEntry else decide (b.mergeEntry ≠ 0)) then some 0x15
  else if (if gap then decide (b.mergeOfs % 32 ≠ 0 ∨ l.below < b.mergeOfs + 160) else decide (b.mergeOfs ≠ 0)) then some 0x16
  else if (if b.scan then (s.scanOf l.part b.scanDesc).isNone
      else s.queries.any fun q => decide (q.2.die = die) && !q.2.block.scan && decide (q.2.block.stream = b.stream)) then some 0x17
  else if b.sinkBase.toNat % 32 ≠ 0 ∨ b.sinkN = 0 ∨ 2 ^ 24 < b.sinkN then some 0x18
  else if !s.taggedWord b.sinkProd || !s.taggedWord b.sinkCons then some 0x18
  else if (decide (b.idle ≠ 0) && decide (b.foldCap = 0)) || decide (2 ^ 26 < (s.die die).foldUsed + b.foldCap)
      || decide (2 ^ 28 < s.foldsUsed + b.foldCap) || decide (b.foldBase.toNat % 64 ≠ 0)
      || !s.rangeWritable l.part b.foldBase (192 * b.foldCap) then some 0x19
  else if (b.batch && (b.panes || gap || decide (b.batchN < 2 ∨ 64 < b.batchN))) || (!b.batch && decide (b.batchN ≠ 0)) then some 0x1A
  else none

/-- The window block of a launch with its checks: the block, or the code (R239). -/
def State.windowBlock (s : State) (l : Launch) (die : Nat) : Except Nat WinBlock :=
  if l.winBlock.toNat % 256 ≠ 0 then .error 0x10
  else
    match s.dwordsAt l.part l.winBlock 32 with
    | .error _ => .error 0x10
    | .ok r =>
      let b := winBlockOf r
      if blockBad r b then .error 0x10
      else
        match s.blockRefused l die b with
        | some c => .error c
        | none => .ok b

/-! ## The QRU descriptor (R301) -/

/-- The QRU context that a launch's groups start with; none when the descriptor is refused. -/
def State.qruOf (s : State) (l : Launch) : Option Qru :=
  if l.qruDesc.toNat % 64 ≠ 0 then none
  else
    match s.dwordsAt l.part l.qruDesc 8 with
    | .error _ => none
    | .ok r =>
      let w := dwordOf r
      let dims := bits (w 1) 48 32
      let area := bits (w 1) 31 0
      let cap := bits (w 2) 8 0
      if bits (w 1) 63 49 ≠ 0 ∨ bits (w 2) 63 9 ≠ 0 ∨ w 4 ≠ 0 ∨ w 5 ≠ 0 ∨ w 6 ≠ 0 ∨ w 7 ≠ 0 ∨ (w 0).toNat % 128 ≠ 0 ∨ area % 128 ≠ 0
          ∨ dims = 0 ∨ 65536 < dims ∨ cap = 0 ∨ 256 < cap ∨ l.below < area + 132 * cap then none
      else
        some { tbase := w 0, tdims := dims, taofs := area, wcap := cap, wbase := 0, wdims := 0, seedKey := w 3 }

/-! ## All checks -/

/-- A device launch with a level that reaches beyond the issuer's package is refused (R357). -/
def Launch.tooWide (l : Launch) : Bool :=
  match l.source with
  | .device _ _ _ _ => l.levels.any fun v => decide (v.domain = 7)
  | _ => false

/-- The ranges that the checks of a launch read: its window block with the scan descriptor, and its QRU descriptor (R222, R238, R301). -/
def State.checkRanges (s : State) (l : Launch) : List (BitVec 64 × Nat) :=
  let scan : List (BitVec 64 × Nat) :=
    match s.dwordsAt l.part l.winBlock 32 with
    | .ok r => let b := winBlockOf r; if b.scan then [(b.scanDesc, 32)] else []
    | .error _ => []
  (if l.winBlock = 0 then [] else (l.winBlock, 256) :: scan) ++ if l.qruDesc = 0 then [] else [(l.qruDesc, 64)]

/-- Must the checks of a launch wait for a sub-bus (R404)? -/
def State.checksOut (s : State) (l : Launch) : Bool := (s.checkRanges l).any fun x => s.readOut l.part x.1 x.2

/-- What the reads of the checks of a launch leave (R332). -/
def State.touchChecks (s : State) (l : Launch) : State :=
  (s.checkRanges l).foldl (fun s x => s.touchRead l.part (rangeSectors x.1 x.2)) s

/-- What the checks of a launch come to at its first group: the window block, if it has one, and the QRU context, or the code. -/
def State.checkLaunch (s : State) (l : Launch) (die : Nat) : Except Nat (Option WinBlock × Option Qru) :=
  match s.recordRefused l with
  | some c => .error c
  | none =>
    match (if l.winBlock = 0 then .ok none else (s.windowBlock l die).map some) with
    | .error c => .error c
    | .ok b =>
      match (if l.qruDesc = 0 then some none else (s.qruOf l).map some) with
      | none => .error 0x20
      | some q => if l.tooWide then .error 0x31 else .ok (b, q)

end Sys2Proof.Machine
end

