-- ==== Sys2Proof/Machine/Privilege.lean ====
section
/-! DEFINITION. The service and sandbox cores' privilege levels (R382, R384): control and status registers, traps and returns. R382 names the
RISC-V architecture without repeating it; what is here follows its privileged specification (PRESUMED, log entry 95). -/

namespace Sys2Proof.Machine

/-! ## The core and its registers -/

/-- A service or sandbox core. -/
def State.rvCore (s : State) (core : Nat) : RvCore := (KV.at? s.rvCores core).getD RvCore.reset

/-- Change a service or sandbox core. -/
def State.updRv (s : State) (core : Nat) (f : RvCore → RvCore) : State := { s with rvCores := KV.put s.rvCores core (f (s.rvCore core)) }

/-- Write a register of a core; `x0` discards. -/
def RvCore.put (c : RvCore) (rd : Nat) (v : List Byte) : RvCore := if rd = 0 ∨ 95 < rd then c else { c with regs := KV.put c.regs rd v }

/-- A control and status register as it is stored. -/
def RvCore.csr (c : RvCore) (n : Nat) : BitVec 64 := (KV.at? c.csrs n).getD 0

/-- Store a control and status register. -/
def RvCore.setCsr (c : RvCore) (n : Nat) (v : BitVec 64) : RvCore := { c with csrs := KV.put c.csrs n v }

/-- A value with a field of `w` bits at a place replaced. -/
def setField (v : BitVec 64) (lo w x : Nat) : BitVec 64 :=
  (v &&& ~~~(BitVec.ofNat 64 (2 ^ w - 1) <<< lo)) ||| (BitVec.ofNat 64 (x % 2 ^ w) <<< lo)

/-- The bits of `mstatus` that `sstatus` shows: SIE, SPIE, UBE, SPP, VS, FS, XS, SUM, MXR and SD. -/
def sstatusMask : BitVec 64 := 0x80000000000DE762

/-- The rank of a privilege level, as the registers' numbers and MPP have it. -/
def RvMode.rank : RvMode → Nat
  | .u => 0
  | .s => 1
  | .m => 3

/-- The level of a rank; 2 is none of a core. -/
def RvMode.ofRank : Nat → RvMode
  | 0 => .u
  | 3 => .m
  | _ => .s

/-! ## Traps (R52, R382, R384) -/

/-- Where a trap is handled: M mode, S mode, or a guest's own S mode. -/
inductive RvLevel where
  | machine
  | super
  | guest
  deriving DecidableEq, Repr

/-- A fault is taken at the core's own privilege (R52, R384): in M mode there, else in S mode, a guest's own unless its second translation
stage failed. -/
def RvCore.level (c : RvCore) (cause : BitVec 64) : RvLevel :=
  if c.mode = .m then .machine
  else if c.virt ∧ cause ≠ 20 ∧ cause ≠ 21 ∧ cause ≠ 23 then .guest
  else .super

/-- The address of a handler from its vector register: vectored mode is for interrupts. -/
def vectorOf (tvec cause : BitVec 64) : BitVec 64 :=
  let base := tvec &&& ~~~3
  if tvec.getLsbD 0 && cause.getLsbD 63 then base + BitVec.ofNat 64 (4 * bits cause 62 0) else base

/-- A trap into a level whose status register is `st` and whose vector, pc, cause and value registers follow: the interrupt enable is stacked
and cleared, and the level before is recorded. -/
def RvCore.enterS (c : RvCore) (st tvec epc ca tv : Nat) (cause tval : BitVec 64) : RvCore :=
  let v := c.csr st
  let v := setField (setField (setField v 5 1 (bits v 1 1)) 1 1 0) 8 1 (if c.mode = .s then 1 else 0)
  let c := (((c.setCsr st v).setCsr epc c.pc).setCsr ca cause).setCsr tv tval
  { c with mode := .s, pc := vectorOf (c.csr tvec) cause }

/-- A core takes a trap. -/
def RvCore.trap (c : RvCore) (cause tval : BitVec 64) : RvCore :=
  match c.level cause with
  | .machine =>
    let v := c.csr 0x300
    let v := setField (setField (setField v 7 1 (bits v 3 3)) 3 1 0) 11 2 c.mode.rank
    let v := setField v 39 1 (if c.virt then 1 else 0)
    let c := (((c.setCsr 0x300 v).setCsr 0x341 c.pc).setCsr 0x342 cause).setCsr 0x343 tval
    { c with mode := .m, virt := false, pc := vectorOf (c.csr 0x305) cause }
  | .super =>
    let c := c.setCsr 0x600 (setField (c.csr 0x600) 7 1 (if c.virt then 1 else 0))
    { c.enterS 0x300 0x105 0x141 0x142 0x143 cause tval with virt := false }
  | .guest => c.enterS 0x200 0x205 0x241 0x242 0x243 cause tval

/-- `sret` of a level whose status and pc registers are given. -/
def RvCore.leaveS (c : RvCore) (st epc : Nat) : RvCore :=
  let v := c.csr st
  let w := setField (setField (setField v 1 1 (bits v 5 5)) 5 1 1) 8 1 0
  { c.setCsr st w with mode := if v.getLsbD 8 then .s else .u, pc := c.csr epc }

/-- A return from a trap: `mret` in M mode, `sret` in S or M mode; below them it is an illegal instruction. -/
def RvCore.ret (c : RvCore) (machine : Bool) : RvCore :=
  if machine then
    if c.mode ≠ .m then c.trap 2 0
    else
      let v := c.csr 0x300
      let w := setField (setField (setField (setField v 3 1 (bits v 7 7)) 7 1 1) 11 2 0) 39 1 0
      { c.setCsr 0x300 w with mode := RvMode.ofRank (bits v 12 11), virt := v.getLsbD 39 && decide (bits v 12 11 ≠ 3), pc := c.csr 0x341 }
  else if c.mode = .u then c.trap 2 0
  else if c.virt then c.leaveS 0x200 0x241
  else
    let spv := (c.csr 0x600).getLsbD 7
    { (c.setCsr 0x600 (setField (c.csr 0x600) 7 1 0)).leaveS 0x300 0x141 with virt := spv }

/-- Where a register that a core names is stored: a guest's supervisor registers are its own, and `sstatus` is part of `mstatus`. -/
def RvCore.csrHome (c : RvCore) (n : Nat) : Nat :=
  if c.virt && decide (0x100 ≤ n) && decide (n < 0x200) then n + 0x100 else if n = 0x100 then 0x300 else n

/-- A write of a control and status register: a level below its own, or a register that is only read, makes it an illegal instruction. A
translation mode that is neither bare nor Sv48 is not taken. -/
def RvCore.writeCsr (c : RvCore) (n : Nat) (v : BitVec 64) : RvCore :=
  let level := n / 0x100 % 4
  let rank := if c.virt then (if c.mode = .s then 1 else 0) else if c.mode = .s then 2 else c.mode.rank
  if 4095 < n ∨ 0xC00 ≤ n ∨ rank < level then c.trap 2 0
  else
    let home := c.csrHome n
    if (home = 0x180 ∨ home = 0x280 ∨ home = 0x680) ∧ bits v 63 60 ≠ 0 ∧ bits v 63 60 ≠ 9 then c
    else if n = 0x100 then c.setCsr home ((c.csr home &&& ~~~sstatusMask) ||| (v &&& sstatusMask))
    else c.setCsr home v

/-- The cause of the access fault of an act: of a fetch, a load, or a store or atomic. -/
def RvAct.accessFault : RvAct → BitVec 64
  | .fetch _ => 1
  | .load _ _ _ => 5
  | _ => 7

/-- The address of an act's access. -/
def RvAct.addr : RvAct → BitVec 64
  | .load va _ _ => va
  | .store va _ => va
  | .atomic _ va _ _ _ => va
  | .fetch va => va
  | _ => 0

/-- A service or sandbox core takes a trap, and nothing of it is parked any longer. -/
def State.rvTrap (s : State) (core : Nat) (cause tval : BitVec 64) : State := s.updRv core fun c => { c.trap cause tval with parked := false }

/-- A core takes the access fault of an act (R52, R382, R384, R387). -/
def State.rvFault (s : State) (core : Nat) (a : RvAct) : State := s.rvTrap core a.accessFault a.addr

/-- An access that was parked is made again (R325, R382). -/
def State.rvRetry (s : State) (core : Nat) (a : RvAct) : State :=
  let s := s.updRv core fun c => { c with parked := false }
  { s with turns := s.turns ++ [.riscv core a] }

end Sys2Proof.Machine
end

