-- ==== Sys2Proof/Machine/Quasi.lean ====
section
/-! DEFINITION. Group 11, the quasi-random unit (R300 to R310). The context is the group's; direction numbers and seeds lie in its table
area (R302). Each change of the context takes effect at one step (R310). -/

namespace Sys2Proof.Machine

/-- The thread's group with its context; none in a launch without a QRU descriptor (R304). -/
def State.quasi (s : State) (t : Thread) : Option (Group × Qru) :=
  match s.spGroup s.cur t with
  | none => none
  | some g => match g.qru with | some q => some (g, q) | none => none

/-- Change the context of a group. -/
def State.setQru (s : State) (gid : Nat) (q : Qru) : State := s.updGroup gid fun g => { g with qru := some q }

/-- The place of direction number t of window dimension k (R302). -/
def areaLoc (g : Group) (q : Qru) (k t : Nat) : Loc := spLoc g.core (g.spBase + q.taofs + 128 * k + 4 * t)
/-- The place of the seed of window dimension k (R302). -/
def seedLoc (g : Group) (q : Qru) (k : Nat) : Loc := spLoc g.core (g.spBase + q.taofs + 128 * q.wcap + 4 * k)

/-- The seed that a load or a new key derives for a dimension (R306). -/
def seedFor (key : BitVec 64) (dim : Nat) : BitVec 32 := qhash key [0x5EED0000, BitVec.ofNat 32 dim]

/-- Derive the seeds of the window's first n dimensions. -/
def State.deriveSeeds (s : State) (g : Group) (q : Qru) (base n : Nat) : State :=
  (List.range n).foldl (fun s k => s.wrNat (seedLoc g q k) 4 (seedFor q.seedKey (base + k)).toNat) s

/-- The table words of the n dimensions from `a` on, or the first failure with its address (R306). -/
def State.tableWords (s : State) (part : Nat) (q : Qru) (a : Nat) : Nat → Except (BitVec 64 × XFail) (List (List Byte))
  | 0 => .ok []
  | n + 1 =>
    match State.tableWords s part q a n with
    | .error e => .error e
    | .ok r =>
      let va := q.tbase + BitVec.ofNat 64 (128 * (a + n))
      match s.gl part va Want.rd with
      | .error f => .error (va, f)
      | .ok p => .ok (r ++ [s.rdBytes p.loc 128])

/-- The table reads of the n dimensions from `a` on: the walks that they need, and the error that the first of them meets (R322, R332). -/
def State.readTable (s : State) (w : Who) (t : Thread) (q : Qru) (a : Nat) : Nat → State × Option (BitVec 32 × BitVec 64)
  | 0 => (s, none)
  | n + 1 =>
    match State.readTable s w t q a n with
    | (s, some e) => (s, some e)
    | (s, none) =>
      let va := q.tbase + BitVec.ofNat 64 (128 * (a + n))
      let s := s.translate (s.partOf t) va
      match s.gl (s.partOf t) va Want.rd with
      | .error _ => (s, none)
      | .ok p => match s.readFor (s.victimOf w t) va p.loc 128 with | (s, some c) => (s, some (c, va)) | (s, none) => (s, none)

/-- Must the table reads of the n dimensions from `a` on wait for a sub-bus (R404)? -/
def State.qruOut (s : State) (part : Nat) (q : Qru) (a n : Nat) : Bool :=
  (List.range n).any fun k => s.readOut part (q.tbase + BitVec.ofNat 64 (128 * (a + k))) 128

/-- Is an open window's instruction a `qrld` whose table read waits for a page? -/
def Outstanding.loadsTable (o : Outstanding) : Bool := decide (o.state = .redo) && decide (bits o.word 62 53 = 0x2C0)

/-- Is a change of a group's context in progress, other than the executing one (R310)? -/
def State.quasiBusy (s : State) (t : Thread) : Bool :=
  s.threads.any fun e => decide (e.2.gid = t.gid) && e.2.wins.any fun o =>
    o.loadsTable && !(decide (e.1 = s.cur) && decide (t.redo = some o.oid))

/-- Point instructions and changes that wait for a change go on. -/
def State.wakeQuasi (s : State) (gid : Nat) : State :=
  s.wakeAll fun _ u => decide (u.gid = gid) && decide (u.status = .waiting .quasi)

/-- A loaded window takes the place of the old one (R306). -/
def State.loadWindow (s : State) (t : Thread) (la : BitVec 4) (g : Group) (q : Qru) (a : Nat) (rows : List (List Byte)) : State :=
  let n := rows.length
  let s := (List.range n).foldl (fun s k => s.wrBytes (areaLoc g q k 0) 0 (rows.getD k [])) s
  let s := s.deriveSeeds g q a n
  ((s.setQru t.gid { q with wbase := a, wdims := n }).finishLong t la 2048 []).wakeQuasi t.gid

/-- An instruction of the context, once no change of it is in progress: a later change then wins, and a point sees the new context (R310). -/
def State.quasiThen (s : State) (t : Thread) (k : Group → Qru → State) : State :=
  match s.quasi t with
  | none => s.trap t 0x0702 0
  | some (g, q) => if s.quasiBusy t then s.waitFor t .quasi else k g q

/-- `qrld` (R306). -/
def execQrld (f : RegF) (s : State) : Out :=
  s.act f.neg f.pred fun t =>
    s.quasiThen t fun g q =>
      let a := (s.src32 s.cur t f.a).toNat
      if q.tdims ≤ a then s.trap t 0x0701 0
      else
        let n := min q.wcap (q.tdims - a)
        if s.qruOut (s.partOf t) q a n then s.waitFor t .subBus
        else
          match s.tableWords (s.partOf t) q a n with
          | .error (va, .trap c) => ((s.setQru t.gid { q with wdims := 0 }).xfail t f.la [] va va 0 (.trap c)).wakeQuasi t.gid
          | .error (va, .fault c e l) => s.parkFault t f.la [] va 0 c e l
          | .ok rows =>
            match s.readTable s.cur t q a n with
            | (s, some (c, va)) => ((s.setQru t.gid { q with wdims := 0 }).consume t f.la [] c va).wakeQuasi t.gid
            | (s, none) => s.loadWindow t f.la g q a rows

/-- Is a dimension in the window (R304)? -/
def Qru.has (q : Qru) (dim : Nat) : Bool := decide (q.wbase ≤ dim) && decide (dim < q.wbase + q.wdims)

/-- `qrseed` (R307). -/
def execQrseed (f : RegF) (s : State) : Out :=
  s.act f.neg f.pred fun t =>
    s.quasiThen t fun g q =>
      let a := (s.src32 s.cur t f.a).toNat
      if !q.has a then s.trap t 0x0701 0
      else (s.wrNat (seedLoc g q (a - q.wbase)) 4 (s.src32 s.cur t f.b).toNat).finishLong t f.la 20 []

/-- `qrseed.key` (R307). -/
def execQrseedKey (f : RegF) (s : State) : Out :=
  s.act f.neg f.pred fun t =>
    s.quasiThen t fun g q =>
      let q := { q with seedKey := s.src64 s.cur t f.a }
      ((s.deriveSeeds g q q.wbase q.wdims).setQru t.gid q).finishLong t f.la (20 + q.wdims) []

/-- POINT(dim, i) (R308). -/
def State.point (s : State) (g : Group) (q : Qru) (dim : Nat) (i : BitVec 64) (raw : Bool) : BitVec 32 :=
  let k := dim - q.wbase
  let x := (List.range 32).foldl (fun x t => if i.getLsbD t then x ^^^ s.rdWord (areaLoc g q k t) else x) 0
  if raw then x
  else
    let seed := s.rdWord (seedLoc g q k)
    let hi : BitVec 32 := i.extractLsb' 32 32
    scramble x (if hi = 0 then seed else qhash (seed.setWidth 64) [hi])

/-- The index operand (R304, R308): 32 bits, a pair with X2, a steward's whole `s` register. -/
def State.pointIndex (s : State) (t : Thread) (f : RegF) : BitVec 64 :=
  if f.mod.getLsbD 3 || isSteward s.cur then s.src64 s.cur t f.b else (s.src32 s.cur t f.b).setWidth 64

/-- RAW of a point instruction. -/
def pointRaw (m : BitVec 13) : Bool := m.getLsbD 2

/-- `qrpt` (R308). -/
def execQrpt (f : RegF) (s : State) : Out :=
  s.act f.neg f.pred fun t =>
    s.quasiThen t fun g q =>
      let a := (s.src32 s.cur t f.a).toNat
      if !q.has a then s.trap t 0x0701 0
      else s.finishLong t f.la 24 (dst32 s.cur f.d ((s.point g q a (s.pointIndex t f) (pointRaw f.mod)).setWidth 64))

/-- `qrpt4` (R308). -/
def execQrpt4 (f : RegF) (s : State) : Out :=
  s.act f.neg f.pred fun t =>
    s.quasiThen t fun g q =>
      let a := (s.src32 s.cur t f.a).toNat
      if !q.has a || !q.has (a + 3) then s.trap t 0x0701 0
      else
        let i := s.pointIndex t f
        s.finishLong t f.la 28 (dstRegs f.d ((List.range 4).map fun e => s.point g q (a + e) i (pointRaw f.mod)))

/-- `qrf`: the point's top 24 bits as a fraction, exactly (R308). -/
def execQrf (f : RegF) (s : State) : Out :=
  s.act f.neg f.pred fun t =>
    s.quasiThen t fun g q =>
      let a := (s.src32 s.cur t f.a).toNat
      if !q.has a then s.trap t 0x0701 0
      else
        let p := s.point g q a (s.pointIndex t f) (pointRaw f.mod)
        s.finishLong t f.la 24 (dst32 s.cur f.d ((rne32 (.dy false (p.toNat / 256) (-24))).setWidth 64))

/-- `qrhash`: QHASH under LAUNCHKEY (R309). -/
def execQrhash (f : RegF) (s : State) : Out :=
  s.act f.neg f.pred fun t =>
    let key : BitVec 64 := match s.launch? t.lid with | some l => l.key | none => 0
    s.finishLong t f.la 12 (dst32 s.cur f.d ((qhash key [s.src32 s.cur t f.a, s.src32 s.cur t f.b]).setWidth 64))

/-- `qrhash.k`: QHASH under a given key; like `qrhash` it uses no context and never traps (R309). -/
def execQrhashK (f : RegF) (s : State) : Out :=
  s.act f.neg f.pred fun t =>
    s.finishLong t f.la 12
      (dst32 s.cur f.d ((qhash (s.src64 s.cur t f.c) [s.src32 s.cur t f.a, s.src32 s.cur t f.b]).setWidth 64))

end Sys2Proof.Machine
end

