-- ==== Sys2Proof/Machine/RedOps.lean ====
section
/-! DEFINITION. Buffered reductions, their flush and seal, and the drain as a step of its own (R176 to R179). -/

namespace Sys2Proof.Machine

/-- Combine a value into a buffer entry (R59, R176). -/
def AtomEntry.combine (e : AtomEntry) (v : BitVec 64) : AtomEntry :=
  if e.op = 3 then
    let f := fmtOf e.type
    { e with fp := e.fp.add (exactOf (f.val (v.toNat % 2 ^ f.width))) }
  else { e with int := atomInt e.op e.type e.int v }

/-- Combine into the first entry of a key that has not been sent to its home; none when there is no such entry. A `red` to the key of an
entry whose drain is held opens a second entry for the key: the spec does not say that it adds into the held one (DESIGN CHOICE, log
entry 65). -/
def combineFirst (va : BitVec 64) (op type : Nat) (v : BitVec 64) : List AtomEntry → Option (List AtomEntry)
  | [] => none
  | e :: r =>
    if e.va = va ∧ e.op = op ∧ e.type = type ∧ e.sentBy = none then some (e.combine v :: r)
    else
      match combineFirst va op type v r with
      | some l => some (e :: l)
      | none => none

/-- Buffer entries in use: one that has failed is discarded, and only its report is kept (R58, R177). -/
def inUse (l : List AtomEntry) : Nat := (l.filter fun e => e.failed.isNone).length

/-- A `red` that needs a new entry while all 64 are in use drains the buffer first; where others have filled it again meanwhile it drains it
again (R58, R176). -/
def State.roomThen (s : State) (t : Thread) (core q : Nat) (k : State → State) : State :=
  if 64 ≤ inUse (s.buffer core q) then
    s.flushThen t fun s =>
      if 64 ≤ inUse (s.buffer core q) then
        (s.updThread s.cur fun u => { u with flushed := u.flushed.erase (t.redo.getD 0) }).flushThen t k
      else k s
  else k s

/-- A `red`: 0 add, 1 min, 2 max, 3 fadd (R176). Only the alignment is checked at issue. -/
def redOp (op : Nat) (f : RegF) (s : State) : Out :=
  s.act f.neg f.pred fun t =>
    let ty := modType f.mod
    let n := typeBytes ty
    let ea := s.ea s.cur t .gl f.a f.c (unitOf n)
    if ea.toNat % n ≠ 0 then s.trap t 0x0205 ea
    else
      match quarterOf s.cur t with
      | none => s.done t []
      | some q =>
        let core := s.coreOf s.cur t
        let v := s.srcType s.cur t ty f.b
        let put (s : State) (l : List AtomEntry) : State := (s.setBuffer core q l).done t []
        match combineFirst ea op ty v (s.buffer core q) with
        | some l => put s l
        | none =>
          let fresh : AtomEntry :=
            { va := ea, op := op, type := ty, int := redIdentity op ty, fp := Exact.zero, part := s.partOf t, held := false, sentBy := none, due := 0
              failed := none }
          s.roomThen t core q fun s => put s (s.buffer core q ++ [fresh.combine v])

/-- `red.add` (R176). -/
def execRedAdd (f : RegF) (s : State) : Out := redOp 0 f s
/-- `red.min` (R176). -/
def execRedMin (f : RegF) (s : State) : Out := redOp 1 f s
/-- `red.max` (R176). -/
def execRedMax (f : RegF) (s : State) : Out := redOp 2 f s
/-- `red.fadd` (R176). -/
def execRedFadd (f : RegF) (s : State) : Out := redOp 3 f s

/-- `redflush`: the flush point alone, no release (R178). -/
def execRedflush (f : RegF) (s : State) : Out := s.act f.neg f.pred fun t => s.flushThen t fun s => s.done t []

/-- `redseal` (R60, R179). -/
def execRedseal (f : RegF) (s : State) : Out :=
  s.act f.neg f.pred fun t =>
    s.flushThen t fun s =>
      let ty := bits f.mod 3 0
      let n := typeBytes ty
      let ea := s.src64 s.cur t f.a
      s.reach t 0 [] .gl ea n Acc.store fun s p =>
        match KV.at? (s.die (homeDie ea)).redSlots p.loc.key with
        | none => s.done t []
        | some r =>
          if r.type ≠ ty then s.trap t 0x020E ea
          else
            let s := s.wrNat p.loc n (r.acc.seal ty)
            let s := s.updDie (homeDie ea) fun d => { d with redSlots := KV.del d.redSlots p.loc.key }
            let s := s.done t []
            s.slotWaits.foldl (fun s x => s.raise (.reductionDrain x.1 x.2)) s

/-- `REDUCTION_DRAIN`: what a quarter has sent is sent again, after a fault was resolved or a reduction slot has become free (R60, R177). -/
def execReductionDrain (core quarter : Nat) (s : State) : Out := .next ((s.unhold core quarter).drainAgain core quarter)

end Sys2Proof.Machine
end

