-- ==== Sys2Proof/Machine/Windows.lean ====
section
/-! DEFINITION. Group 9, the window instructions (R242 to R248), with the close of a window (R228) and the watermark (R225). -/

namespace Sys2Proof.Machine

/-- The window or pane of the executing lane thread: its query and its number, with both. -/
def State.ownWin (s : State) (t : Thread) : Option (Nat × Nat × Query × Win) :=
  match t.win with
  | none => none
  | some (q, w) =>
    match KV.at? s.queries q with
    | none => none
    | some x => match KV.at? x.wins w with | some y => some (q, w, x, y) | none => none

/-- The window query of a thread's launch (R245, R248). -/
def State.queryOf (s : State) (t : Thread) : Option (Nat × Query) :=
  match s.launch? t.lid with
  | none => none
  | some l =>
    match l.query with
    | none => none
    | some q => match KV.at? s.queries q with | some x => some (q, x) | none => none

/-- A counter of a query. -/
def Query.counter (x : Query) (i : Nat) : BitVec 64 := (KV.at? x.counters i).getD 0

/-- The watermark at a time (R225); a count query has none. -/
def Query.watermark (x : Query) (time : BitVec 64) : Nat :=
  if x.block.kind = 0 then 0
  else max x.tsMax.toNat (if x.block.stale = 0 then 0 else time.toNat - x.block.stale) - x.block.late

/-- A window's trigger fires, or it is closed by name: it takes no further members, its timer is dropped, and its close is queued,
or held back until its panes or its batch have delivered (R228, R237, R247). -/
def State.closeWin (s : State) (q w : Nat) : State :=
  match KV.at? s.queries q with
  | none => s
  | some x =>
    match KV.at? x.wins w with
    | none => s
    | some y =>
      if y.closed then s
      else
        let hold := x.closeWaits w y
        let s := s.updWin q w fun z => { z with closed := true, timer := 0, closeHeld := hold }
        if hold then s else s.append q w .close

/-! ## `wrecv` (R243) -/

/-- The destinations of `wrecv` (R243). -/
def recvDests (payload : Nat) (kd : BitVec 8) : List Dest :=
  (List.range 16).map (fun i => Dest.reg (payload + i)) ++ [.pred kd.toNat, .recTs, .recSeq, .recFlags]

/-- Payload word i of a record; 0 at or beyond LEN (R243). -/
def Rec.word (r : Rec) (i : Nat) : BitVec 32 :=
  BitVec.ofNat 32 (leNat (((r.payload.take r.len).drop (4 * i)).take 4))

/-- What the delivery of an item writes; RESTORED is set on the first record or timer after a restore (R236, R243). -/
def Item.writes (i : Item) (payload : Nat) (kd : BitVec 8) (restored : Bool) : List (Dest × BitVec 64) :=
  let mark : BitVec 32 := if restored then 8 else 0
  match i with
  | .record r =>
    (List.range 16).map (fun n => (Dest.reg (payload + n), (r.word n).setWidth 64)) ++
      [(.pred kd.toNat, 0), (.recTs, r.ts), (.recSeq, r.seq), (.recFlags, (r.flags ||| mark).setWidth 64)]
  | .timer d => [(.pred kd.toNat, 0), (.recTs, d), (.recSeq, 0), (.recFlags, ((4 : BitVec 32) ||| mark).setWidth 64)]
  | .close => [(.pred kd.toNat, 1)]

/-- What the delivery of an item does to its window; `more` says that another `wrecv` of its thread is still pending (R249). -/
def Win.deliver (y : Win) (i : Item) (time : BitVec 64) (more : Bool) : Win :=
  let z := { y with queue := y.queue.drop 1, receiving := more, lastDelivery := time }
  match i with
  | .record _ => { z with delivered := z.delivered + 1, restored := false }
  | .timer _ => { z with restored := false }
  | .close => { z with returned := true }

/-- Is a `wrecv` of the thread pending behind the executing one? -/
def Thread.receivesMore (t : Thread) : Bool := t.wins.any fun o => o.receives && decide (t.redo ≠ some o.oid)

/-- The item that the executing `wrecv` takes now, if any: none while an earlier `wrecv` of the thread is pending, and the close again once
that has been returned (R230, R243). -/
def Win.next? (y : Win) (t : Thread) : Option Item :=
  if t.earlier.any Outstanding.receives then none else if y.returned then some .close else y.queue.head?

/-- `wrecv` (R230, R243, R249). -/
def execWrecv (f : RegF) (s : State) : Out :=
  s.act f.neg f.pred fun t =>
    match s.ownWin t with
    | none => s.trap t 0x0500 0
    | some (q, w, x, y) =>
      if t.mergeDepth.isSome then s.trap t 0x0500 0
      else
        match y.next? t with
        | none => (s.updWin q w fun z => { z with receiving := true }).openWindow t f.la .redo [] (recvDests x.block.payload f.d)
        | some i =>
          let s := s.updWin q w fun z => z.deliver i s.time t.receivesMore
          (s.finishLong t f.la 30 (i.writes x.block.payload f.d y.restored)).prompt q w

/-! ## `wemit` (R244) -/

/-- The reads of a sink's CONS and PROD by an emitting thread: the first error and its address (R241, R332). -/
def State.readSink (s : State) (t : Thread) (x : Query) (cons prod : Loc) : State × Option (BitVec 32 × BitVec 64) :=
  let v := s.victimOf s.cur t
  match s.readFor v x.block.sinkCons cons 4 with
  | (s, some k) => (s, some (k, x.block.sinkCons))
  | (s, none) => match s.readFor v x.block.sinkProd prod 4 with | (s, some k) => (s, some (k, x.block.sinkProd)) | (s, none) => (s, none)

/-- A window thread's emit: one sink entry, once the sink has room (R241, R244). -/
def State.emitSink (s : State) (t : Thread) (q w : Nat) (x : Query) (y : Win) (words : List (BitVec 32)) : State :=
  match s.gl x.part x.block.sinkCons Want.rd with
  | .error e => s.xfail t 0 [] x.block.sinkCons x.block.sinkCons 0 e
  | .ok c =>
    match s.gl x.part x.block.sinkProd Want.wr with
    | .error e => s.xfail t 0 [] x.block.sinkProd x.block.sinkProd 1 e
    | .ok p =>
      let n := s.rdWord p.loc
      if sinkRoom x.block.sinkN n (s.rdWord c.loc) = 0 then s.waitTag t 0 .gl x.block.sinkCons c [] (.sink w words)
      else
        match s.sinkFault x n with
        | some (e, a) => s.xfail t 0 [] a a 1 e
        | none =>
          if s.sinkOut x n then s.waitFor t .subBus
          else
            match s.readSink t x c.loc p.loc with
            | (s, some (k, a)) => s.consume t 0 [] k a
            | (s, none) =>
              let (s, keys) := s.sinkWrite q x (emitRec y t s.time words) p.loc n
              ((s.updWin q w fun z => { z with emits := z.emits + 1 }).done t []).serve keys

/-- A pane thread's single emit: its pane record, which the crier takes (R226, R244, R313). -/
def State.emitPane (s : State) (t : Thread) (q w : Nat) (y : Win) (words : List (BitVec 32)) : State :=
  let r : Rec :=
    { payload := words.flatMap fun v => leBytes 4 v.toNat, ts := y.last, seq := BitVec.ofNat 64 y.num, key := y.key
      len := 4 * words.length, flags := 1 }
  let s := s.updQuery q fun x => { x with pane := x.pane ++ [(w, r, 0)] }
  (s.updWin q w fun z => { z with emits := 1 }).done t []

/-- `wemit` (R244): a full release, then the sink entry or the pane record. -/
def execWemit (f : RegF) (s : State) : Out :=
  s.act f.neg f.pred fun t =>
    match s.ownWin t with
    | none => s.trap t 0x0500 0
    | some (_, _, _, y) =>
      if y.pane && decide (y.emits ≠ 0) then s.trap t 0x0501 0
      else
        let words := s.srcRegs s.cur t f.a (bits f.mod 3 0 + 1)
        s.releaseFirst t fun s =>
          match s.ownWin t with
          | none => s.trap t 0x0500 0
          | some (q, w, x, y) => if y.pane then s.emitPane t q w y words else s.emitSink t q w x y words

/-! ## `wclose` (R245) -/

/-- `wclose`: the thread's own window or pane. -/
def execWclose (f : RegF) (s : State) : Out :=
  s.act f.neg f.pred fun t =>
    match s.ownWin t with
    | none => s.trap t 0x0500 0
    | some (q, w, _, y) => (s.closeWin q w).done t (dstPred f.d (!y.closed))

/-- The open window of a key with a %win.id. -/
def Query.openNamed (x : Query) (id : BitVec 32) (key : BitVec 64) : Option Nat :=
  match x.wins.find? (fun e => !e.2.pane && !e.2.closed && decide (e.2.key = key) && decide (BitVec.ofNat 32 e.2.num = id)) with
  | some e => some e.1
  | none => none

/-- `wclose.id`: a window by its %win.id and key. -/
def execWcloseId (f : RegF) (s : State) : Out :=
  s.act f.neg f.pred fun t =>
    match s.queryOf t with
    | none => s.trap t 0x0500 0
    | some (q, x) =>
      match x.openNamed (s.src32 s.cur t f.a) (s.src64 s.cur t f.b) with
      | none => s.done t (dstPred f.d false)
      | some w => (s.closeWin q w).done t (dstPred f.d true)

/-- `wclose.end`: the stream ends; records already in the ingest queue are still placed (R221, R234). -/
def execWcloseEnd (f : RegF) (s : State) : Out :=
  s.act f.neg f.pred fun t =>
    match s.queryOf t with
    | none => s.trap t 0x0500 0
    | some (q, x) =>
      let s := if x.streamOpen then s.updQuery q fun x => { x with streamOpen := false, ending := true, scan := none } else s
      s.done t (dstPred f.d x.streamOpen)

/-! ## `wmret`, `wtimer`, `wstat` -/

/-- `wmret`: the suspended `wrecv`s are pending again where the merge found them (R246). -/
def execWmret (f : RegF) (s : State) : Out :=
  s.act f.neg f.pred fun t =>
    match s.ownWin t, t.mergeDepth with
    | some (q, w, _, y), some d =>
      if t.depth ≠ d then s.trap t 0x0503 0
      else
        match y.suspended with
        | none => s.trap t 0x0500 0
        | some (os, pc) =>
          let u := t.complete [] pc s.clock
          let u := { u with wins := u.wins ++ os, mergeDepth := none }
          let s := s.setThread s.cur { u with status := u.windowStatus }
          (s.updWin q w fun z => { z with suspended := none, receiving := true }).prompt q w
    | _, _ => s.trap t 0x0500 0

/-- `wtimer` (R247): a deadline that has passed is appended at once; a window that has closed arms none. -/
def execWtimer (f : RegF) (s : State) : Out :=
  s.act f.neg f.pred fun t =>
    match s.ownWin t with
    | none => s.trap t 0x0500 0
    | some (q, w, _, y) =>
      let d := s.src64 s.cur t f.a
      let s := s.done t []
      if y.closed then s
      else if d ≠ 0 ∧ d ≤ s.time then (s.updWin q w fun z => { z with timer := 0 }).append q w (.timer d)
      else s.updWin q w fun z => { z with timer := d }

/-- A counter of R248. -/
def Query.stat (x : Query) (i : Nat) (time : BitVec 64) : BitVec 64 :=
  match i with
  | 4 => BitVec.ofNat 64 (x.wins.filter fun e => !e.2.closed).length
  | 5 => BitVec.ofNat 64 (x.wins.filter fun e => e.2.fold.isSome).length
  | 9 => BitVec.ofNat 64 (x.watermark time)
  | 10 => x.tsMax
  | _ => x.counter i

/-- `wstat` (R248). -/
def execWstat (f : RegF) (s : State) : Out :=
  s.act f.neg f.pred fun t =>
    match s.queryOf t with
    | none => s.trap t 0x0500 0
    | some (_, x) =>
      let i := (s.src32 s.cur t f.a).toNat
      if 13 < i then s.trap t 0x0502 0 else s.done t (dst64 s.cur f.d (x.stat i s.time))

end Sys2Proof.Machine
end

