-- ==== Sys2Proof/Machine/Reeve.lean ====
section
/-! DEFINITION. The reeve (R221 to R239): births, folding and restoring, triggers, placement of records, merges, pane records, batches,
the scan and the end of a stream; and the steps that are due in a clock. -/

namespace Sys2Proof.Machine

/-! ## Slots -/

/-- A query's groups on their cores, by ascending %grp (R229). -/
def State.queryGroups (s : State) (q : Nat) : List (Nat × Group) :=
  sortBy (fun e => e.2.grp.toNat) (s.groups.filter fun e => decide (e.2.query = some q) && !e.2.ending)

/-- The free reserved slot with the lowest %tid of a group: %tid, lane and slot. -/
def State.freeReserved (s : State) (gid : Nat) (g : Group) : Option (Nat × Nat × Nat) :=
  ((List.range g.reserved.length).filterMap fun t =>
    if (s.thread? (.lane gid t)).isSome then none
    else match g.reserved[t]? with | some (l, n) => some (t, l, n) | none => none).head?

/-- The slot that a birth or a restore claims (R229); a group that is being saved takes part in neither (R249). -/
def State.birthSlot (s : State) (q : Nat) : Option (Nat × Group × Nat × Nat × Nat) :=
  ((s.queryGroups q).filterMap fun e =>
    match (if e.2.saving then none else s.freeReserved e.1 e.2) with
    | some (t, l, n) => some (e.1, e.2, t, l, n)
    | none => none).head?

/-- Ask whether the query's groups end now (R14). -/
def State.askQueryEnd (s : State) (q : Nat) : State := (s.queryGroups q).foldl (fun s e => s.askEnd e.1) s

/-! ## Folding (R235) -/

/-- The pending `wrecv` of a thread whose lookahead window has issued and that has no other window open (R249). -/
def Thread.receivingEntry (t : Thread) : Option Outstanding :=
  match t.wins with
  | [o] => if o.receives && decide (o.left = 0) then some o else none
  | _ => none

/-- Does a merge wait for a window as the older one? It is restored for the merge and stays so (R232; DEDUCED, log entry 68). -/
def Query.mergesInto (x : Query) (w : Nat) : Bool := match x.merge with | some m => decide (m.old = w) | none => false

/-- Is a window's thread foldable (R235)? DESIGN CHOICE, log entry 89 (safe): nor is one that has a second `wrecv` pending or another window
open, or words left to skip or to replay after a trap, for which a fold entry has no room. -/
def State.foldable (s : State) (x : Query) (w : Nat) (y : Win) : Bool :=
  decide (x.block.idle ≠ 0) && !x.mergesInto w && y.receiving && y.queue.isEmpty && decide (x.block.idle ≤ s.time.toNat - y.lastDelivery.toNat) &&
    match y.thread with
    | none => false
    | some who =>
      match s.thread? who with
      | none => false
      | some t =>
        !s.groupSaving t.gid && t.receivingEntry.isSome && decide (t.depth = 0 ∧ t.j0 = 0 ∧ t.j1 = 0 ∧ t.j2 = 0 ∧ t.j3 = 0) && t.skips.isEmpty && t.replays.isEmpty

/-- The words of a thread's state block, zero beyond STATECNT (R235). -/
def stateWords (b : WinBlock) (t : Thread) : List (BitVec 32) :=
  (List.range 32).map fun i => if i < b.stateCnt then Sparse.rd t.regs (b.stateBase + i) else 0

/-- A fold entry of the query that is not in use. -/
def Query.freeFold (x : Query) : Option Nat :=
  let used := x.wins.filterMap fun e => match e.2.fold with | some f => some f.slot | none => none
  lowestFree used 0 (min x.block.foldCap (used.length + 1))

/-- The reeve's own eight words of a fold entry: free values, since their layout is its own (R235). -/
def State.foldHeader : Nat → State → State × List Byte
  | 0, s => (s, [])
  | n + 1, s =>
    let (v, s) := s.drawFree
    let (s, r) := State.foldHeader n s
    (s, leBytes 8 v.toNat ++ r)

/-- Write the fold entry and free the slot. The slot's decision-queue entries and its part in barriers end with it, as at an `exit`: R12
and R13 name the live lane threads, and a folded window is none (DESIGN CHOICE, log entry 69). -/
def State.putFold (s : State) (q w : Nat) (x : Query) (n : Nat) (who : Who) (t : Thread) (o : Outstanding) : State :=
  let words := stateWords x.block t
  let (s, head) := State.foldHeader 8 s
  let s := s.deviceWrite x.part (x.block.foldBase + BitVec.ofNat 64 (192 * n)) (head ++ words.flatMap fun v => leBytes 4 v.toNat)
  let st : FoldSt := { pc := t.pc, slot := n, wait := o, preds := t.preds, srCount := t.srCount, state := words }
  let s := s.updWin q w fun y => { y with thread := none, fold := some st }
  (s.delThread who).laneGone t.gid t

/-- Fold a thread with its pending `wrecv`, once the fold's release has been performed (R235, R236); a failure of that release traps the
thread (R177). -/
def State.foldThread (s : State) (q w : Nat) (x : Query) (who : Who) (t : Thread) (o : Outstanding) : State :=
  match x.freeFold, quarterOf who t with
  | none, _ => (s.updQuery q fun x => x.bump 12 1).updWin q w fun y => { y with refused := s.time }
  | some n, none => s.putFold q w x n who t o
  | some n, some k =>
    let core := s.coreOf who t
    let s := s.flush core k who
    if s.drainHeld core k then s
    else
      match s.drainFailure core k who with
      | some (c, va) => (s.dropFailures core k who).failEntry who o.oid c va
      | none => s.putFold q w x n who t o

/-- Fold a window's thread if it is foldable. -/
def State.foldWin (s : State) (q w : Nat) : State :=
  match KV.at? s.queries q with
  | none => s
  | some x =>
    match KV.at? x.wins w with
    | none => s
    | some y =>
      if !s.foldable x w y then s
      else
        match y.thread with
        | none => s
        | some who =>
          match s.thread? who with
          | none => s
          | some t => match t.receivingEntry with | some o => s.foldThread q w x who t o | none => s

/-- `FOLD` (R235). -/
def execFold (qid wid : Nat) (s : State) : Out := .next (s.foldWin qid wid)

/-- With no reserved slot free, fold the foldable thread whose last delivery is oldest (R229). A birth that still waits asks again in each clock,
and each refusal for want of a fold entry counts in FOLDFULL (R235; DESIGN CHOICE, log entry 90: unsafe). -/
def State.makeRoom (s : State) (q : Nat) : State :=
  if (s.birthSlot q).isSome then s
  else
    match KV.at? s.queries q with
    | none => s
    | some x =>
      match sortBy (fun e => e.2.lastDelivery.toNat) (x.wins.filter fun e => s.foldable x e.1 e.2) with
      | [] => s
      | e :: _ => s.foldWin q e.1

/-- Restore a folded window into a free slot, RECEIVING (R236); without a slot it stays folded. -/
def State.restoreWin (s : State) (q w : Nat) : State :=
  match KV.at? s.queries q with
  | none => s
  | some x =>
    match KV.at? x.wins w with
    | none => s
    | some y =>
      match y.fold with
      | none => s
      | some f =>
        let s := s.makeRoom q
        match s.birthSlot q with
        | none => s
        | some (gid, g, tid, lane, slot) =>
          let t := Thread.start gid g.lid g.grp f.pc (BitVec.ofNat 32 tid) lane slot s.clock
          let regs := Sparse.wrList t.regs x.block.stateBase (f.state.take x.block.stateCnt)
          let t := { t with
            regs := regs, preds := f.preds, srCount := f.srCount, win := some (q, w), winId := BitVec.ofNat 32 y.num, winStart := y.start
            wins := [f.wait] }
          let s := s.setThread (.lane gid tid) { t with status := t.windowStatus }
          let s := s.updWin q w fun z => { z with thread := some (.lane gid tid), fold := none, restored := true, receiving := true }
          (s.prompt q w).askQueryEnd q

/-- `WINDOW_RESTORE` (R236). -/
def execWindowRestore (qid wid : Nat) (s : State) : Out := .next (s.restoreWin qid wid)

/-! ## Birth (R229) -/

/-- A window or pane at its birth. -/
def Win.born (key : BitVec 64) (pane : Bool) (num : Nat) (start ts time : BitVec 64) (who : Who) : Win :=
  { key := key, pane := pane, num := num, start := start, first := ts, last := ts, count := 0, delivered := 0, queue := [],
    thread := some who, fold := none, closed := false, closeHeld := false, returned := false, timer := 0, lastDelivery := time
    emits := 0, restored := false, receiving := false, refused := 0, suspended := none }

/-- A thread is born for a window or pane; none when no slot can be had. -/
def State.birth (s : State) (q : Nat) (key : BitVec 64) (pane : Bool) (num : Nat) (start ts : BitVec 64) : Option (State × Nat) :=
  let s := s.makeRoom q
  match s.birthSlot q, KV.at? s.queries q with
  | some (gid, g, tid, lane, slot), some x =>
    let entry := if pane then x.block.paneEntry else match s.launch? g.lid with | some l => l.laneEntry | none => 0
    let w := x.winNext
    let t := Thread.start gid g.lid g.grp entry (BitVec.ofNat 32 tid) lane slot s.clock
    let s := s.setThread (.lane gid tid) { t with win := some (q, w), winId := BitVec.ofNat 32 num, winStart := start }
    let y := Win.born key pane num start ts s.time (.lane gid tid)
    some (s.updQuery q fun x => { x with wins := KV.put x.wins w y, winNext := w + 1 }.bump 6 1, w)
  | _, _ => none

/-! ## Triggers (R228) -/

/-- Panes before windows, and each in ascending (key, %win.id) (R228, R234). -/
def closeRank (y : Win) : Nat := ((if y.pane then 0 else 1) * 2 ^ 64 + y.key.toNat) * 2 ^ 64 + (if y.pane then y.num else y.num % 2 ^ 32)

/-- Does the watermark satisfy the trigger of a window or pane? -/
def WinBlock.triggered (b : WinBlock) (y : Win) (wm : Nat) : Bool :=
  !y.closed &&
    match b.kind with
    | 1 =>
      if y.pane then decide (b.origin + y.num * b.paneLen + b.paneLen ≤ wm)
      else !b.explicitOnly && decide (b.origin + y.num * b.step + b.length ≤ wm)
    | 2 => !b.explicitOnly && decide (y.last.toNat + b.gap ≤ wm)
    | _ => false

/-- Close every window that a predicate picks, in order. -/
def State.closeAll (s : State) (q : Nat) (p : Win → Bool) : State :=
  match KV.at? s.queries q with
  | none => s
  | some x => (sortBy (fun e => closeRank e.2) (x.wins.filter fun e => p e.2)).foldl (fun s e => s.closeWin q e.1) s

/-- Recompute the watermark and fire what it satisfies (R223 step 2, R225). -/
def State.advanceMark (s : State) (q : Nat) : State :=
  match KV.at? s.queries q with
  | none => s
  | some x =>
    let wm := x.watermark s.time
    (s.updQuery q fun x => { x with w := BitVec.ofNat 64 wm }).closeAll q fun y => x.block.triggered y wm

/-- `TIME_TERM_DUE` (R225). -/
def execTimeTermDue (qid : Nat) (s : State) : Out := .next (s.advanceMark qid)

/-- An armed deadline has passed: one timer item is queued (R247). -/
def State.timerDue (s : State) (q w : Nat) : State :=
  match KV.at? s.queries q with
  | none => s
  | some x =>
    match KV.at? x.wins w with
    | none => s
    | some y =>
      if y.timer = 0 ∨ s.time < y.timer then s
      else (s.updWin q w fun z => { z with timer := 0 }).append q w (.timer y.timer)

/-- `WINDOW_TIMER_EXPIRY` (R247). -/
def execWindowTimerExpiry (qid wid : Nat) (s : State) : Out := .next (s.timerDue qid wid)

/-- `BELL_WHEEL_DUE`: a folded window's trigger or deadline falls due; what is queued restores it (R225, R236). -/
def execBellWheelDue (qid wid : Nat) (s : State) : Out :=
  match KV.at? s.queries qid with
  | none => .next s
  | some x =>
    match KV.at? x.wins wid with
    | none => .next s
    | some y =>
      let s := if x.block.triggered y (x.watermark s.time) then s.closeWin qid wid else s
      .next (s.timerDue qid wid)

/-- The count trigger of a window or pane (R228, R314). -/
def State.countTrigger (s : State) (q w : Nat) : State :=
  match KV.at? s.queries q with
  | none => s
  | some x =>
    match KV.at? x.wins w with
    | none => s
    | some y =>
      let b := x.block
      let full := if y.pane then b.paneLen else if b.panes then b.length / b.paneLen else b.length
      if b.kind = 0 ∧ y.count = full ∧ (y.pane || !b.explicitOnly) then s.closeWin q w else s

/-! ## Placement (R223, R224) -/

/-- The key of a record (R220, R238). -/
def WinBlock.keyOf (b : WinBlock) (r : Rec) : BitVec 64 :=
  let n := b.keyW
  BitVec.ofNat 64 (leNat (((r.payload.take r.len ++ List.replicate 64 0).drop b.keyOfs).take n))

/-- The numbers n with nS ≤ i < nS + L. -/
def windowsOf (length step i : Nat) : List Nat :=
  let lo := if i < length then 0 else (i - length) / step + 1
  (List.range (i / step + 1 - lo)).map (lo + ·)

/-- The windows, by number, that contain a record of a count or time query, and its pane. -/
def Query.containing (x : Query) (r : Rec) : List Nat × Option Nat :=
  let b := x.block
  let at_ (i : Nat) : List Nat × Option Nat := (windowsOf b.length b.step i, if b.panes then some (i / b.paneLen) else none)
  if b.kind = 0 then at_ ((KV.at? x.counts r.key).getD 0)
  else if r.ts.toNat < b.origin then ([], none)
  else at_ (r.ts.toNat - b.origin)

/-- The present window or pane of a key and number. -/
def Query.winNamed (x : Query) (key : BitVec 64) (pane : Bool) (num : Nat) : Option (Nat × Win) :=
  x.wins.find? fun e => decide (e.2.key = key) && (e.2.pane == pane) && decide (e.2.num = num)

/-- Does a window or pane still take members: not closed, and its thread not gone (R223)? -/
def Query.takes (x : Query) (key : BitVec 64) (pane : Bool) (num : Nat) : Bool :=
  match x.winNamed key pane num with
  | some (_, y) => !y.closed
  | none => !x.gone.contains (key, pane, num)

/-- The start of window or pane `num` (R224, R313). -/
def WinBlock.startOf (b : WinBlock) (pane : Bool) (num : Nat) : BitVec 64 :=
  BitVec.ofNat 64 ((if b.kind = 0 then 0 else b.origin) + num * (if pane then b.paneLen else b.step))

/-- Bring the windows and panes of a list to birth where that has not happened; false when no slot can be had. -/
def State.birthAll (s : State) (q : Nat) (key ts : BitVec 64) : List (Bool × Nat) → State × Bool
  | [] => (s, true)
  | (pane, n) :: r =>
    match KV.at? s.queries q with
    | none => (s, false)
    | some x =>
      match x.winNamed key pane n with
      | some _ => State.birthAll s q key ts r
      | none =>
        match s.birth q key pane n (x.block.startOf pane n) ts with
        | some (s, _) => State.birthAll s q key ts r
        | none => (s, false)

/-- A record becomes a member: the extent widens. -/
def Win.widen (y : Win) (ts : BitVec 64) : Win :=
  { y with first := if ts < y.first then ts else y.first, last := if y.last < ts then ts else y.last }

/-- Append a record to a window's queue, with its count trigger (R228, R230). -/
def State.appendRec (s : State) (q w : Nat) (r : Rec) : State :=
  ((s.updWin q w fun y => { y with count := y.count + 1 }).append q w (.record r)).countTrigger q w

/-- Complete a batch: each window that received any record of it receives BATCHN deliveries (R237). -/
def State.flushBatch (s : State) (q : Nat) : State :=
  match KV.at? s.queries q with
  | none => s
  | some x =>
    let ws := sortNats (eachOnce (x.batch.flatMap (·.2)))
    let s := s.updQuery q fun x => { x with batch := [] }
    let s := ws.foldl (fun s w =>
      let mine := (x.batch.filter fun e => e.2.contains w).map (·.1)
      let pads : List Rec :=
        match mine.getLast? with
        | none => []
        | some l => List.replicate (x.block.batchN - mine.length) { payload := [0, 0, 0, 0], ts := l.ts, seq := l.seq, key := l.key, len := 4, flags := 2 }
      let s := s.updWin q w fun y => { y with count := y.count + mine.length }
      ((mine ++ pads).foldl (fun s r => s.append q w (.record r)) s).countTrigger q w) s
    s.releaseCloses q

/-- `BATCH_TIMEOUT` (R237). -/
def execBatchTimeout (qid : Nat) (s : State) : Out := .next (s.flushBatch qid)

/-- Deliver a record to the windows with the given numbers of identity, or into the batch (R223 step 7, R237). -/
def State.deliverTo (s : State) (q : Nat) (ws : List Nat) (r : Rec) : State :=
  let s := ws.foldl (fun s w => s.updWin q w fun y => y.widen r.ts) s
  match KV.at? s.queries q with
  | none => s
  | some x =>
    if x.block.batch then
      let s := s.updQuery q fun x => { x with
        batch := x.batch ++ [(r, ws)], batchSince := if x.batch.isEmpty then s.time else x.batchSince }
      if x.block.batchN ≤ x.batch.length + 1 then s.flushBatch q else s
    else ws.foldl (fun s w => s.appendRec q w r) s

/-- Membership, birth and delivery of a record of a count or time query; false while no slot can be had. The windows of one record are born in
ascending number and its pane after them (R229 leaves the order open; DESIGN CHOICE, log entry 91: unsafe). -/
def State.placeFixed (s : State) (q : Nat) (x : Query) (r : Rec) : State × Bool :=
  let (all, pane) := x.containing r
  let ns := all.filter fun n => x.takes r.key false n
  let pane := match pane with | some m => if x.takes r.key true m then some m else none | none => none
  let (s, ok) := s.birthAll q r.key r.ts (ns.map (fun n => (false, n)) ++ match pane with | some m => [(true, m)] | none => [])
  if !ok then (s, false)
  else
    match KV.at? s.queries q with
    | none => (s, false)
    | some x =>
      let none_ := ns.isEmpty || (x.block.panes && pane.isNone)
      let s := s.updQuery q fun x =>
        let x := (x.bump 0 1).bump 3 (if none_ then 1 else 0)
        if x.block.kind = 0 then { x with counts := KV.put x.counts r.key ((KV.at? x.counts r.key).getD 0 + 1) } else x
      let idOf (p : Bool) (n : Nat) : Option Nat := match x.winNamed r.key p n with | some (w, _) => some w | none => none
      let ws := if x.block.panes then (match pane with | some m => (idOf true m).toList | none => []) else ns.filterMap (idOf false)
      if x.block.panes then
        let s := (ns.filterMap (idOf false)).foldl (fun s w => s.updWin q w fun y => y.widen r.ts) s
        (s.deliverTo q ws r, true)
      else (s.deliverTo q ws r, true)

/-- The open gap windows that a record lies within G of (R224), the older first (R232). -/
def Query.near (x : Query) (r : Rec) : List (Nat × Win) :=
  sortBy (fun e => e.2.start.toNat * 2 ^ 32 + e.2.num % 2 ^ 32)
    (x.wins.filter fun e => !e.2.closed && decide (e.2.key = r.key) &&
      decide (e.2.first.toNat ≤ r.ts.toNat + x.block.gap ∧ r.ts.toNat ≤ e.2.last.toNat + x.block.gap))

/-- Would a record have belonged to a gap window that has been abandoned: within G of its extent, whose timeout the watermark has not reached
(R228, R233)? -/
def Query.lost (x : Query) (r : Rec) : Bool :=
  x.gaps.any fun (key, first, last) => decide (key = r.key) &&
    decide (first.toNat ≤ r.ts.toNat + x.block.gap ∧ r.ts.toNat ≤ last.toNat + x.block.gap) &&
    (x.block.explicitOnly || decide (x.w.toNat < last.toNat + x.block.gap))

/-- Membership, birth and delivery of a gap record: it joins a window, bears one, or bridges two (R224, R232); one of an abandoned window counts
in NOWIN (R233). -/
def State.placeGap (s : State) (q : Nat) (x : Query) (r : Rec) : State × Bool :=
  match x.near r with
  | [] =>
    if x.lost r then (s.updQuery q fun x => x.bump 3 1, true) else
    let n := (KV.at? x.births r.key).getD 0
    match s.birth q r.key false n r.ts r.ts with
    | none => (s, false)
    | some (s, w) => ((s.updQuery q fun x => { x with births := KV.put x.births r.key (n + 1) }).appendRec q w r, true)
  | [e] => (s.deliverTo q [e.1] r, true)
  | e :: e' :: _ => (s.updQuery q fun x => { x with merge := some { old := e.1, young := e'.1, record := r, forOld := [], forYoung := [] } }, true)

/-- Items that a query holds in the delivery store (R231). -/
def Query.items (x : Query) : Nat :=
  (x.wins.map fun e => e.2.queue.length).foldl (· + ·) (match x.merge with | some m => m.forOld.length + m.forYoung.length | none => 0)

/-- Stream records enter the ingest queue in order; answers those that find no room and wait for credit (R221). -/
def State.intake (s : State) (q : Nat) : List FrameRec → State × List FrameRec
  | [] => (s, [])
  | f :: r =>
    match KV.at? s.queries q with
    | none => (s, [])
    | some x =>
      if !x.streamOpen then State.intake (if f.len = 0 then s else s.updQuery q fun x => x.bump 3 1) q r
      else if 64 < f.len then State.intake (s.updQuery q fun x => x.bump 13 1) q r
      else if 4096 ≤ x.ingest.length then (s, f :: r)
      else
        let e : Rec := { payload := f.payload.take f.len, ts := f.ts, seq := f.seq, key := 0, len := f.len, flags := 0 }
        State.intake (s.updQuery q fun x => { x with ingest := x.ingest ++ [e] }) q r

/-- Take the stream records that wait, as far as there is room; those of a stream that has ended are discarded (R221, R234). -/
def State.refill (s : State) (q : Nat) : State :=
  match KV.at? s.queries q with
  | none => s
  | some x =>
    let (s, more) := s.intake q x.backlog
    s.updQuery q fun x => { x with backlog := more }

/-- May the query's next record be placed: no merge waits, and the delivery store has room (R223, R231)? -/
def State.mayPlace (s : State) (x : Query) : Bool :=
  x.merge.isNone && decide (x.items ≤ 2 ^ 20 - 64) &&
    decide (((s.queries.filter fun e => decide (e.2.die = x.die)).map fun e => e.2.items).foldl (· + ·) 0 + 64 ≤ 2 ^ 24)

/-- Place a record that has passed step 3 (R223): the rest of its steps, and it leaves the ingest queue; without a slot it stays. -/
def State.placeRec (s : State) (q : Nat) (x : Query) (r : Rec) : State :=
  if x.block.kind = 2 then
    let (s, ok) := s.placeGap q x r
    if ok then s.updQuery q fun x => { x with ingest := x.ingest.drop 1 }.bump 0 1 else s
  else
    let (s, ok) := s.placeFixed q x r
    if ok then s.updQuery q fun x => { x with ingest := x.ingest.drop 1 } else s

/-- Place the first record of a query's ingest queue (R223): staleness, watermark, lateness, then membership, birth and delivery. A record
of LEN 0 is the stream's end marker (R391). -/
def State.placeFirst (s : State) (qid : Nat) (x : Query) (r : Rec) (rest : List Rec) : State :=
  if r.len = 0 then s.updQuery qid fun x => { x with ingest := rest, streamOpen := false, ending := x.ending || x.streamOpen }
  else
    let r := { r with key := x.block.keyOf r }
    let drop (s : State) (c : Nat) : State := s.updQuery qid fun x => { x with ingest := rest }.bump c 1
    if x.block.stale ≠ 0 ∧ x.block.stale < s.time.toNat - r.ts.toNat then drop s 1
    else
      let s := s.updQuery qid fun x => { x with tsMax := if x.tsMax < r.ts then r.ts else x.tsMax }
      let s := s.advanceMark qid
      match KV.at? s.queries qid with
      | none => s
      | some x => if x.block.kind ≠ 0 ∧ r.ts < x.w then drop s 2 else s.placeRec qid x r

/-- `RECORD_PLACEMENT` (R223). -/
def execRecordPlacement (qid : Nat) (s : State) : Out :=
  match KV.at? s.queries qid with
  | none => .next s
  | some x =>
    match x.ingest with
    | [] => .next s
    | r :: rest => if s.mayPlace x then .next ((s.placeFirst qid x r rest).refill qid) else .next s

/-! ## Merges (R232) -/

/-- Is the group of a window's thread being saved, so that merges wait (R249)? -/
def State.windowSaving (s : State) (y : Win) : Bool :=
  match y.thread with
  | none => false
  | some who => match s.thread? who with | some t => s.groupSaving t.gid | none => true

/-- Is a window's thread ready to merge: RECEIVING, its queue consumed? -/
def State.mergeReady (s : State) (y : Win) : Bool :=
  y.receiving && y.queue.isEmpty && !s.windowSaving y &&
    match y.fold with
    | some _ => true
    | none =>
      match y.thread with
      | none => false
      | some who => match s.thread? who with | some t => t.wins.any fun o => o.receives && decide (o.left = 0) | none => false

/-- The 160 bytes of Y's merge block (R232). -/
def State.mergeBlock (s : State) (b : WinBlock) (y : Win) : List Byte :=
  let words : List (BitVec 32) :=
    match y.fold with
    | some f => f.state
    | none =>
      match y.thread with
      | some who => match s.thread? who with | some t => stateWords b t | none => []
      | none => []
  leBytes 8 (y.num % 2 ^ 32) ++ leBytes 8 y.start.toNat ++ leBytes 8 y.last.toNat ++ leBytes 8 (y.delivered % 2 ^ 32)
    ++ words.flatMap fun v => leBytes 4 v.toNat

/-- The younger window ends: its thread goes as though killed, and its items with it (R232 step 3, R233). -/
def State.endYounger (s : State) (q w : Nat) (y : Win) : State :=
  let s := s.updQuery q fun x => { x with wins := KV.del x.wins w }
  match y.thread with
  | none => s
  | some who =>
    match s.thread? who with
    | none => s
    | some t => (((s.withdraw fun z => decide (z = who)).delThread who).laneGone t.gid t).askEnd t.gid

/-- The older window's thread enters MERGING at MERGEENTRY, its `wrecv`s suspended (R232 step 4). -/
def State.enterMerge (s : State) (q w : Nat) (entry : BitVec 64) (who : Who) (t : Thread) : State :=
  let (waiting, others) := t.wins.partition Outstanding.receives
  let u := { t with pc := entry, wins := others, mergeDepth := some t.depth, readySince := s.clock }
  let s := s.setThread who { u with status := u.windowStatus }
  s.updWin q w fun z => { z with suspended := some (waiting, t.pc), receiving := false }

/-- Steps 2 to 5 of a merge of windows that are ready, the older one resident. -/
def State.mergeNow (s : State) (q : Nat) (x : Query) (m : MergeSt) (b : Win) (who : Who) (t : Thread) : State :=
  match s.group? t.gid with
  | none => s
  | some g =>
    let s := s.wrBytes (spLoc g.core (g.spBase + x.block.mergeOfs)) 0 (s.mergeBlock x.block b)
    let s := s.endYounger q m.young b
    let s := s.updWin q m.old fun z => ((z.widen b.first).widen b.last).widen m.record.ts
    let s := (s.updQuery q fun x => { x with merge := none }.bump 7 1).enterMerge q m.old x.block.mergeEntry who t
    let s := s.appendRec q m.old { m.record with flags := m.record.flags ||| 16 }
    m.forOld.foldl (fun s i => s.append q m.old i) s

/-- One window of a merge has gone meanwhile: the bridging record joins the other, ahead of what was queued for it since; with neither left
it is placed as any other record. -/
def State.mergeAgain (s : State) (q : Nat) (x : Query) (m : MergeSt) : State :=
  let free (s : State) : State := s.updQuery q fun x => { x with merge := none }
  let join (w : Nat) (is_ : List Item) : State := is_.foldl (fun s i => s.append q w i) ((free s).deliverTo q [w] m.record)
  match KV.at? x.wins m.old, KV.at? x.wins m.young with
  | some _, _ => join m.old m.forOld
  | none, some _ => join m.young m.forYoung
  | none, none =>
    let (u, ok) := (free s).placeGap q { x with merge := none } m.record
    if ok then u else s

/-- `MERGE` (R232): it waits until both threads are ready and no other merge handler runs in the older one's group; a folded older
window is first restored. A close of either that falls due meanwhile stands behind the bridging record. -/
def execMerge (qid : Nat) (s : State) : Out :=
  match KV.at? s.queries qid with
  | none => .next s
  | some x =>
    match x.merge with
    | none => .next s
    | some m =>
      match KV.at? x.wins m.old, KV.at? x.wins m.young with
      | some a, some b =>
        if !s.mergeReady a || !s.mergeReady b then .next s
        else if a.fold.isSome then .next (s.restoreWin qid m.old)
        else
          match a.thread with
          | none => .next s
          | some who =>
            match s.thread? who with
            | none => .next s
            | some t =>
              if (s.lanesOf t.gid).any fun e => e.2.mergeDepth.isSome then .next s
              else .next (s.mergeNow qid x m b who t)
      | _, _ => .next (s.mergeAgain qid x m)

/-! ## Pane records (R226, R227) -/

/-- May a record still be born into a pane of a time query that is below pane `m`, reaches a window that `m` reaches too, and is not yet
born: its end is beyond the watermark, and the stream still brings records (R223, R226)? -/
def Query.lowerUnborn (x : Query) (key : BitVec 64) (m wm : Nat) : Bool :=
  let b := x.block
  let lo := max (m + 1 - b.length / b.paneLen) ((wm - b.origin) / b.paneLen)
  let here (k : BitVec 64) (pane : Bool) (n : Nat) : Bool := decide (k = key) && pane && decide (lo ≤ n) && decide (n < m)
  let born := (x.wins.filter fun e => here e.2.key e.2.pane e.2.num).length + (x.gone.filter fun e => here e.1 e.2.1 e.2.2).length
  decide (b.kind = 1) && (x.streamOpen || x.ending || !x.ingest.isEmpty) && decide (lo + born < m)

/-- Must a pane record wait for one of a lower pane of its key that reaches a window that it reaches too (R226)? -/
def Query.paneWaits (x : Query) (r : Rec) (wm : Nat) : Bool :=
  let b := x.block
  let m := r.seq.toNat
  let below (n : Nat) : Bool := decide (n < m) && decide (m < n + b.length / b.paneLen)
  x.wins.any (fun e => e.2.pane && decide (e.2.key = r.key) && below e.2.num && decide (e.2.emits = 0))
    || x.pane.any (fun e => decide (e.2.1.key = r.key) && below e.2.1.seq.toNat)
    || x.lowerUnborn r.key m wm

/-- `PANE_RECORD_MULTICAST`: a pane record goes to its covering windows in ascending number, 64 of them in a clock (R227). -/
def execPaneRecordMulticast (qid : Nat) (s : State) : Out :=
  match KV.at? s.queries qid with
  | none => .next s
  | some x =>
    match x.pane.find? (fun e => !x.paneWaits e.2.1 (x.watermark s.time)) with
    | none => .next s
    | some (pid, r, from_) =>
      let cover := sortBy (fun e => e.2.num) (x.wins.filter fun e =>
        !e.2.pane && decide (e.2.key = r.key) && !e.2.returned && decide (from_ ≤ e.2.num) && x.block.covers e.2.num r.seq.toNat)
      let now := cover.take 64
      let s := now.foldl (fun s e => s.appendRec qid e.1 r) s
      match cover[64]? with
      | some e =>
        .next (s.updQuery qid fun x => { x with pane := x.pane.map fun (p : Nat × Rec × Nat) => if p.1 = pid then (p.1, p.2.1, e.2.num) else p })
      | none =>
        let s := s.updQuery qid fun x => { x with pane := x.pane.filter fun (p : Nat × Rec × Nat) => decide (p.1 ≠ pid) }
        .next ((s.releaseCloses qid).askQueryEnd qid)

/-! ## Streams and scans (R221, R222, R234, R391) -/

/-- `STREAM_END` (R234): an incomplete batch is completed, then every open pane and every open window closes. -/
def execStreamEnd (qid : Nat) (s : State) : Out :=
  match KV.at? s.queries qid with
  | none => .next s
  | some x =>
    if !x.ending || !x.ingest.isEmpty || x.merge.isSome then .next s
    else
      let s := (s.refill qid).flushBatch qid
      let s := s.updQuery qid fun x => { x with ending := false }
      .next ((s.closeAll qid fun y => !y.closed).askQueryEnd qid)

/-- The address at which the read of a record fails (R221). -/
def State.failsAt (s : State) (part : Nat) (va : BitVec 64) (n : Nat) : BitVec 64 :=
  ((rangeSectors va n).find? fun a => match s.readAt part a 1 with | .ok _ => false | .error _ => true).getD va

/-- The scan's next record, as its read finds it: its bytes, or the failure of the first sector that cannot be read (R221, R332). -/
def State.scanRecord (s : State) (qid : Nat) (x : Query) (sc : ScanSt) : State :=
  let va := sc.base + BitVec.ofNat 64 (sc.next * sc.stride)
  let u := s.touchRead x.part (rangeSectors va sc.len)
  match s.readAt x.part va sc.len with
  | .error (.trap c) =>
    (u.updQuery qid fun x => { x with scan := none, streamOpen := false, ending := true }).log (some x.part) 0x0070 (x.die % 4) 0 5
      (BitVec.ofNat 64 sc.next) (c.setWidth 64) 0 0
  | .error (.fault c e l) =>
    (u.updQuery qid fun x => { x with scan := some { sc with held := true } }).park x.part (x.die % 4 * Config.coresPerDie)
      (s.failsAt x.part va sc.len) 3 c e l (.scan qid)
  | .ok ls =>
    let bytes := ls.map fun l => s.rdByte l 0
    let ts := if sc.tsOfs = 255 then s.time else BitVec.ofNat 64 (leNat ((bytes.drop sc.tsOfs).take 8))
    let r : Rec := { payload := bytes, ts := ts, seq := sc.seqBase + BitVec.ofNat 64 sc.next, key := 0, len := sc.len, flags := 0 }
    u.updQuery qid fun x => { x with scan := some { sc with next := sc.next + 1 }, ingest := x.ingest ++ [r] }

/-- `SCAN_READ` (R221): the next record enters the ingest queue; the stream ends after the last one, or at one that cannot be read;
an absent or host-owned page holds the scan, and a swapped sub-bus keeps it waiting (R404). -/
def execScanRead (qid : Nat) (s : State) : Out :=
  match KV.at? s.queries qid with
  | none => .next s
  | some x =>
    match x.scan with
    | none => .next s
    | some sc =>
      if sc.held || !x.streamOpen || decide (4096 ≤ x.ingest.length) then .next s
      else if sc.count ≤ sc.next then .next (s.updQuery qid fun x => { x with scan := none, streamOpen := false, ending := true })
      else if s.readOut x.part (sc.base + BitVec.ofNat 64 (sc.next * sc.stride)) sc.len then .next s
      else .next (s.scanRecord qid x sc)

/-- Is a message a record frame: magic, version, KIND 0 and PROC 0x0100 (R374, R391)? -/
def isRecordFrame (h : MsgHdr) : Bool :=
  decide (h.magic = 0x4852) && decide (h.version = 1) && decide (h.kind = 0) && decide (h.proc = 0x100)

/-- `RECORD_FRAME` (R221, R391): its records follow those of earlier frames; a frame of a stream that no running query of the die is bound
to is discarded and counted in the error log of the partition that its header names (DESIGN CHOICE, log entry 30). A message that is no record frame
has no part in this. -/
def execRecordFrame (h : MsgHdr) (die : Nat) (streamNo : BitVec 16) (recs : List FrameRec) (s : State) : Out :=
  if !isRecordFrame h then .next s else
  match s.queries.find? (fun e => decide (e.2.die = die) && !e.2.block.scan && decide (e.2.block.stream = streamNo)) with
  | none => .next (s.log (some h.part.toNat) 0x0070 (die % 4) 0 4 (streamNo.setWidth 64) 0 0 0)
  | some (q, _) => .next ((s.updQuery q fun x => { x with backlog := x.backlog ++ recs }).refill q)

/-! ## What is due -/

/-- The steps of one window that are due. -/
def State.winDue (s : State) (q : Nat) (x : Query) (w : Nat) (y : Win) : List Instr :=
  let timer := decide (y.timer ≠ 0) && decide (y.timer ≤ s.time)
  match y.fold with
  | some _ =>
    (if timer || x.block.triggered y (x.watermark s.time) then [Instr.bellWheelDue q w] else [])
      ++ (if y.queue.isEmpty then [] else [.windowRestore q w])
  | none =>
    (if timer then [Instr.windowTimerExpiry q w] else [])
      ++ (if s.foldable x w y && decide (x.block.idle ≤ s.time.toNat - y.refused.toNat) then [.fold q w] else [])

/-- The steps of a query that are due in a clock. -/
def State.queryDue (s : State) (q : Nat) (x : Query) : List Instr :=
  (if x.wins.any (fun e => e.2.fold.isNone && x.block.triggered e.2 (x.watermark s.time)) then [Instr.timeTermDue q] else [])
    ++ x.wins.flatMap (fun e => s.winDue q x e.1 e.2)
    ++ (if !x.batch.isEmpty && decide (x.block.batchWait ≤ s.time.toNat - x.batchSince.toNat) then [.batchTimeout q] else [])
    ++ (if x.pane.isEmpty then [] else [.paneRecordMulticast q])
    ++ (if x.merge.isSome then [.merge q] else [])
    ++ (if x.ending && x.ingest.isEmpty && x.merge.isNone then [.streamEnd q] else [])
    ++ (match x.scan with | some sc => if sc.held || decide (4096 ≤ x.ingest.length) then [] else [.scanRead q] | none => [])
    ++ (if !x.ingest.isEmpty && s.mayPlace x then [.recordPlacement q] else [])

/-- The reeves' steps that are due in a clock. -/
def State.reeveDue (s : State) : List Instr := s.queries.flatMap fun e => s.queryDue e.1 e.2

end Sys2Proof.Machine
end

