-- ==== Sys2Proof/Machine/System.lean ====
section
/-! DEFINITION. Groups 12 and 13: origin and own control registers (R206, R207), the decision queue and numbered barriers (R208,
R209), sharing groups (R210, R211), containment regions (R213, R214), system calls (R215) and the end of a group (R14, R293). -/

namespace Sys2Proof.Machine

/-! ## `mfsr` and `mtsr` (R206, R207) -/

/-- SPACE of a selector. -/
def selSpace (m : BitVec 13) : Nat := bits m 12 11
/-- WIDE of a selector. -/
def selWide (m : BitVec 13) : Bool := bits m 10 10 == 1
/-- INDEX of a selector. -/
def selIndex (m : BitVec 13) : Nat := bits m 7 0

/-- Is an index inside the origin's register file and aligned for it (R206)? -/
def originIndexOk (o : Who) (wide : Bool) (ix : Nat) : Bool :=
  if isSteward o then decide (ix ≤ 0x3F) else decide (ix ≤ 0x93) && (!wide || decide (ix % 2 = 0))

/-- An origin register (R206). -/
def originReg (o : Who) (u : Thread) (wide : Bool) (ix : Nat) : BitVec 64 :=
  if isSteward o then
    let v := Sparse.rd u.sregs ix
    if wide then v else (v.setWidth 32).setWidth 64
  else if wide then Sparse.rd u.regs (ix + 1) ++ Sparse.rd u.regs ix
  else (Sparse.rd u.regs ix).setWidth 64

/-- The write of an origin register (R206): without WIDE, a steward's register keeps its high half. -/
def setOriginReg (o : Who) (u : Thread) (wide : Bool) (ix : Nat) (v : BitVec 64) : Thread :=
  if isSteward o then
    u.put (.sreg ix) (if wide then v else (Sparse.rd u.sregs ix).extractLsb' 32 32 ++ v.setWidth 32)
  else if wide then (u.put (.reg ix) v).put (.reg (ix + 1)) (v >>> 32)
  else u.put (.reg ix) v

/-- An origin control item (R207). -/
def State.originItem (s : State) (o : Who) (u : Thread) (ix : Nat) : BitVec 64 :=
  let r := u.trapRec
  let flag (b : Bool) (n : Nat) : Nat := if b then 2 ^ n else 0
  match ix with
  | 0 => u.pc
  | 1 => (u.preds ||| 1).setWidth 64
  | 2 => u.srCount.setWidth 64
  | 3 => match r with | some r => r.faddr | none => 0
  | 4 => BitVec.ofNat 64 u.depth
  | 5 =>
    BitVec.ofNat 64 (flag u.bereaved 0 + flag u.joinBereaved 1 + flag (match r with | some r => r.pass | none => false) 2)
  | 6 =>
    BitVec.ofNat 64 (flag (isSteward o) 31 + s.coreOf o u * 2 ^ 22
      + (if isSteward o then 0 else u.lane * 2 ^ 15 + u.slot * 2 ^ 11))
  | _ => match r with | some r => r.skip.setWidth 64 | none => 0

/-- The write of an origin control item (R207). -/
def setOriginItem (u : Thread) (ix : Nat) (v : BitVec 64) : Thread :=
  match ix with
  | 0 => { u with pc := v &&& ~~~(7 : BitVec 64) }
  | 1 => { u with preds := v.setWidth 8 ||| 1 }
  | 2 => { u with srCount := v.setWidth 32 }
  | _ =>
    { u with
      bereaved := v.getLsbD 0, joinBereaved := v.getLsbD 1
      trapRec := u.trapRec.map fun (r : TrapRec) => { r with pass := v.getLsbD 2 } }

/-- An own control item (R207). -/
def ownItem (g : Option Group) (ix : Nat) : BitVec 64 :=
  match g with
  | none => 0
  | some g =>
    match ix with
    | 0 => g.crCause.setWidth 64
    | 1 => g.crAddr
    | 2 => BitVec.ofNat 64 g.regions.length
    | _ => g.crSkip.setWidth 64

/-- The origin of the executing handler thread. -/
def State.originOf (s : State) (t : Thread) : Option (Who × Thread) :=
  match t.origin with
  | some o => match s.thread? o with | some u => some (o, u) | none => none
  | none => none

/-- `mfsr` (R206, R207). -/
def execMfsr (f : RegF) (s : State) : Out :=
  s.act f.neg f.pred fun t =>
    let wide := selWide f.mod
    let ix := selIndex f.mod
    let put (v : BitVec 64) : State := s.done t (if wide then dst64 s.cur f.d v else dst32 s.cur f.d v)
    if selSpace f.mod = 2 then put (ownItem (s.groupOf t) ix)
    else
      match s.originOf t with
      | none => s.trap t 0x0306 0
      | some (o, u) =>
        if selSpace f.mod = 1 then put (s.originItem o u ix)
        else if originIndexOk o wide ix then put (originReg o u wide ix)
        else s.trap t 0x0307 0

/-- `mtsr` (R206, R207). -/
def execMtsr (f : RegF) (s : State) : Out :=
  s.act f.neg f.pred fun t =>
    let wide := selWide f.mod
    let ix := selIndex f.mod
    let v := if wide then s.src64 s.cur t f.a else (s.src32 s.cur t f.a).setWidth 64
    match s.originOf t with
    | none => s.trap t 0x0306 0
    | some (o, u) =>
      if selSpace f.mod = 1 then (s.setThread o (setOriginItem u ix v)).done t []
      else if originIndexOk o wide ix then (s.setThread o (setOriginReg o u wide ix v)).done t []
      else s.trap t 0x0307 0

/-! ## The decision queue (R12, R28, R208) -/

/-- `dqpush`: a release, which comes after every earlier access of the steward (R62, R81, R208). -/
def execDqpush (f : RegF) (s : State) : Out :=
  s.act f.neg f.pred fun t =>
    match s.cur, s.groupOf t with
    | .steward gid, some g =>
      s.performThen t fun s =>
        if 64 ≤ g.dq.length then s.parkFor t .decisionPush
        else
          let live := s.liveTids gid
          let e : DqEntry := { num := g.dqPushed, value := s.src64 s.cur t f.a, owed := live }
          let s := s.updGroup gid fun g =>
            { g with dqPushed := g.dqPushed + 1, dq := if live.isEmpty then g.dq else g.dq ++ [e] }
          (s.done t []).promptPops gid
    | _, _ => s.done t []

/-- `dqpop`: the oldest entry that the thread owes; with none it parks, or traps once the steward has exited (R12, R28). -/
def execDqpop (f : RegF) (s : State) : Out :=
  s.act f.neg f.pred fun t =>
    let ty := modType f.mod
    let dests := (dstType s.cur ty f.d 0).map (·.1)
    let mine (e : DqEntry) : Bool :=
      match s.cur with
      | .lane _ tid => e.owed.contains tid
      | _ => false
    match s.groupOf t with
    | none => s.trap t 0x0308 0
    | some g =>
      match g.dq.find? mine with
      | some e =>
        let s := s.finishLong { t with dqPos := e.num + 1 } f.la 20 (dstType s.cur ty f.d e.value)
        let s := s.updGroup t.gid fun g =>
          { g with dq := g.dq.map fun (x : DqEntry) => if x.num = e.num then { x with owed := x.owed.filter (· ≠ t.tid.toNat) } else x }
        s.dqRetire t.gid
      | none => if s.stewardLive t.gid then s.openWindow t f.la .redo [] dests else s.trap t 0x0308 0

/-! ## Numbered barriers (R13, R209) -/

/-- A thread arrives at a barrier: it parks behind its instruction until the barrier completes. -/
def State.arriveBarrier (s : State) (t : Thread) (n : Nat) (f : Barrier → Barrier) : State :=
  let s := s.updGroup t.gid fun g =>
    { g with bars := KV.put g.bars n (f ((KV.at? g.bars n).getD { steward := false, lanes := [] })) }
  let u := t.complete [] (t.pc + 8) s.clock
  (s.setThread s.cur { u with status := .parked (.barrier n) }).barrierCheck t.gid n

/-- `nbar`: its arrival is a full release (R81, R209, R264). -/
def execNbar (f : RegF) (s : State) : Out :=
  s.act f.neg f.pred fun t =>
    s.asyncThen t (s.performThen t fun s => s.arriveBarrier t f.d.toNat fun (b : Barrier) => { b with steward := true })

/-- `nbw`: its arrival is a full release and a flush point (R58, R81, R209). A handler thread is no participant: it only waits. -/
def execNbw (f : RegF) (s : State) : Out :=
  s.act f.neg f.pred fun t =>
    s.releaseFirst t fun s =>
      s.arriveBarrier t f.d.toNat fun (b : Barrier) =>
        match s.cur with
        | .lane _ tid => { b with lanes := b.lanes ++ [tid] }
        | _ => b

/-! ## Sharing groups (R35 to R38, R210, R211) -/

/-- The ranks of a sharing set that groups hold, saved ones too. -/
def State.ranksOf (s : State) (share : Option Nat) : List Nat :=
  (s.groups.map (·.2) ++ s.saved.map (·.2.group)).filterMap fun (g : Group) => if g.share = share then g.rank else none

/-- `grjoin` (R36, R210). -/
def execGrjoin (f : RegF) (s : State) : Out :=
  s.act f.neg f.pred fun t =>
    let refused := s.done t (dst32 s.cur f.d (BitVec.allOnes 64))
    match s.groupOf t with
    | none => refused
    | some g =>
      if g.share.isNone || g.rank.isSome then refused
      else
        match lowestFree (s.ranksOf g.share) 0 16, tableSlot g.estate with
        | some r, some i =>
          let e : Entry :=
            { kind := 3, space := 0, addr := BitVec.ofNat 64 r, count := 0, qgid := 0, heir := 0xFFFFFFFF, conv := false,
              fromGrp := BitVec.allOnes 64, waiting := false }
          (s.updGroup t.gid fun g => { g with rank := some r, estate := KV.put g.estate i e }).done t
            (dst32 s.cur f.d (BitVec.ofNat 64 r))
        | _, _ => refused

/-- Stewards that leave a sharing group go on once nothing of its rank is open, and groups that have ended free their places (R38, R211). -/
def State.wakeLeavers (s : State) : State :=
  let s := s.wakeAll fun _ t => decide (t.status = .waiting .leaving) && match s.groupOf t with | some g => !s.rankOpen t.gid g | none => true
  (s.groups.filter fun e => e.2.gone).foldl (fun s e => s.freeGroup e.1) s

/-- `grleave` (R38, R211): the rank is revoked at once, and is free when what was issued before is complete. -/
def execGrleave (f : RegF) (s : State) : Out :=
  s.act f.neg f.pred fun t =>
    match s.groupOf t with
    | none => s.done t []
    | some g =>
      if g.rank.isNone then s.done t []
      else if s.rankOpen t.gid g then (s.updGroup t.gid fun g => { g with leaving := true }).waitFor t .leaving
      else
        (s.updGroup t.gid fun g =>
          { g with rank := none, leaving := false, estate := g.estate.filter fun (e : Nat × Entry) => decide (e.2.kind ≠ 3) }).done t []

/-! ## Containment regions (R213, R214) -/

/-- `crbeg` (R213). -/
def execCrbeg (f : ImmF) (s : State) : Out :=
  s.act f.neg f.pred fun t =>
    let base := s.src64 s.cur t f.d
    let ctl := s.src64 s.cur t f.a
    let len := bits ctl 31 0
    let gl := ctl.getLsbD 32
    let lo := if gl then base.toNat else bits base 31 0
    match s.groupOf t with
    | none => s.done t []
    | some g =>
      if 4 ≤ g.regions.length then s.trap t 0x0309 0
      else if bits ctl 63 33 ≠ 0 ∨ len % 4 ≠ 0 ∨ lo % 4 ≠ 0 then s.trap t 0x030A base
      else if !gl ∧ len ≠ 0 ∧ g.spBytes < lo + len then s.trap t 0x0200 base
      else
        let r : Region := { handler := branchTarget t f, base := if gl then base else BitVec.ofNat 64 lo, len := len, gl := gl }
        (s.updGroup t.gid fun g => { g with regions := r :: g.regions }).done t []

/-- `crend` (R214). -/
def execCrend (f : RegF) (s : State) : Out :=
  s.act f.neg f.pred fun t =>
    match s.groupOf t with
    | none => s.trap t 0x0309 0
    | some g =>
      match g.regions with
      | [] => s.trap t 0x0309 0
      | _ :: r => (s.updGroup t.gid fun g => { g with regions := r }).done t []

/-! ## System calls (R215, R216, R385, R386) -/

/-- `sysrpc` (R215). -/
def execSysrpc (f : RegF) (s : State) : Out :=
  s.act f.neg f.pred fun t =>
    let part := s.partOf t
    let core := s.coreOf s.cur t
    let die := core / Config.coresPerDie
    match s.ring? part die with
    | none => s.trap t 0x030B 0
    | some _ =>
      s.releaseFirst t fun s =>
        match s.ring? part die with
        | none => s.trap t 0x030B 0
        | some r =>
          let call := s.src32 s.cur t f.a
          let packet := s.src64 s.cur t f.b
          let d := ((dst32 s.cur f.d 0).map (·.1)).head?
          let dests := (dst32 s.cur f.d 0).map (·.1)
          if s.ringOut part r then s.waitFor t .subBus
          else
            match s.readFor (s.victimOf s.cur t) (r.spaceVa - 20) r.block 24 with
            | (s, some c) => s.consume t f.la dests c (r.spaceVa - 20)
            | (s, none) =>
              if fullish (s.tagAt (r.space.key / 4)) then
                s.waitTag t f.la .gl r.spaceVa { loc := r.space, cls := 3 } dests (.post die call packet d)
              else
                let (s, ticket, keys) := s.post part die r s.cur t core call packet
                (s.finishLong t f.la 20 (loadWrites d 7 ticket)).serve keys

/-! ## The end of a group (R14, R265, R293) -/

/-- Does a command hold a group open (R265): a command in a half's queue, a `cpb`, or a collective that all have joined? -/
def State.holdsOpen (s : State) (gid : Nat) : Bool :=
  s.halves.any (fun e => e.2.queue.any fun m => decide (m.gid = gid))
    || s.cmds.any (fun e => decide (e.2.gid = gid) && decide (e.2.kind = .cpb))
    || s.colls.any (fun e => decide (e.2.size ≤ e.2.members.length) && e.2.members.any fun m => decide (m.gid = gid))

/-- Is the stream of a group's window query still open, or still to be placed or merged (R14, R234)? -/
def State.queryOpen (s : State) (g : Group) : Bool :=
  match g.query with
  | none => false
  | some q =>
    match KV.at? s.queries q with
    | none => false
    | some x => x.streamOpen || x.ending || !x.ingest.isEmpty || !x.pane.isEmpty || x.merge.isSome || x.wins.any fun e => e.2.fold.isSome

/-- Have all threads of a group ended, so that it ends once nothing holds it open (R14, R234, R265)? -/
def State.mayEnd (s : State) (gid : Nat) (g : Group) : Bool :=
  !s.stewardLive gid && (s.lanesOf gid).isEmpty && (s.handlersOf gid).isEmpty && !s.owes gid && !s.holdsOpen gid && !s.queryOpen g

/-- A group's end begins, if it has not begun: it counts as of the clock in which it was asked (R293). -/
def Group.beginEnd (g : Group) (clock : Nat) : Group := if g.ending then g else { g with ending := true, endClock := clock - 1 }

/-- The groups whose ends begin in this clock are no longer live for one another (R293, R299). -/
def State.markEnds (s : State) : State :=
  let asked := s.turns.filterMap fun x => match x with | .event (.groupEnd h) => some h | _ => none
  let ends := asked.filter fun h => match s.group? h with | some g => s.mayEnd h g | none => false
  ends.foldl (fun s h => s.updGroup h fun g => g.beginEnd s.clock) s

/-- A group ends (R14, R293): with the others of this clock it is no longer live; its copies and gathers are cancelled; once its stopped threads
have performed what they had issued, and the ends of lower %grp are through, its collectives are withdrawn, its estate conveyed, and its place
freed. -/
def execGroupEnd (gid : Nat) (s : State) : Out :=
  match s.group? gid with
  | none => .next s
  | some g =>
    if g.gone then .next (s.freeGroup gid)
    else if !g.ending && !s.mayEnd gid g then .next s
    else
      let s := (s.markEnds.updGroup gid fun g => g.beginEnd s.clock).cancelAll gid
      match s.group? gid with
      | none => .next s
      | some g => if s.owes gid || s.endsBefore gid g then .next s else .next (s.endGroup gid g)

end Sys2Proof.Machine
end

