-- ==== Sys2Proof/Machine/Traps.lean ====
section
/-! DEFINITION. What the device does with accesses and instructions that cannot complete: results that arrive (R10), table walks (R320
to R322), fault records and their resolution (R325), handler threads (R297, R326, R327), and unwinds (R334, R335). -/

namespace Sys2Proof.Machine

/-- The first of the results that are under way to a thread: the one that arrives earliest, the oldest of several (R10, R61). -/
def Thread.nextResult (t : Thread) : Option Outstanding :=
  (sortBy Outstanding.due (t.wins.filter fun o => decide (o.state = .latent))).head?

/-- `LONG_LATENCY_COMPLETION`: the next result that is under way to a thread arrives (R10). -/
def execLongLatencyCompletion (w : Who) (s : State) : Out :=
  match s.thread? w with
  | none => .next s
  | some t =>
    match t.nextResult with
    | none => .next s
    | some o => .next (s.setThread w (t.arrive o.oid o.writes s.clock))

/-! ## Table walks (R320, R322) -/

/-- `TABLE_WALK`: the walk of an address for an agent whose quadrant's cache does not hold it; a leaf enters that cache (R320, R322). -/
def execTableWalk (part : Nat) (va : BitVec 64) (_ : AccKind) (who : Who) (s : State) : Out :=
  let core := match s.thread? who with | some t => s.coreOf who t | none => 0
  .next ((s.serving core).translate part va)

/-! ## Resolving fault records (R325) -/

/-- The open record that a resolve write names. -/
def State.faultNamed (s : State) (part die : Nat) (seq : BitVec 32) : Option FaultRec :=
  s.faults.find? fun f => decide (f.part = part) && decide (f.die = die) && decide (f.seq = seq)

/-- A resolve write that is ignored and logged (R325). -/
def State.ignoreResolve (s : State) (part die : Nat) (v : BitVec 64) : State :=
  s.log (some part) 0x0070 (die % 4) 0 0 v 0 0 0

/-- A resolve write takes its record out, lets held records into the ring, and treats each request; one that names no open record is ignored
and logged (R324, R325). -/
def State.resolve (s : State) (part die : Nat) (seq : BitVec 32) (code : Nat) (k : State → FaultRec → Req → State) : State :=
  match s.faultNamed part die seq with
  | none => s.ignoreResolve part die (BitVec.ofNat 64 (seq.toNat * 2 ^ 32 + code))
  | some f =>
    let s : State := { s with faults := s.faults.filter fun x => !(decide (x.part = part) && decide (x.die = die) && decide (x.seq = seq)) }
    f.reqs.foldl (fun s r => k s f r) (s.writeHeld part die)

/-- Let a command go on: a copy, a gather or a fill at its held unit, a collective as a whole. -/
def State.resumeCmd (s : State) (cid : Nat) : State :=
  match KV.at? s.cmds cid with
  | some c =>
    let s := s.updCmd cid fun c => { c with held := false }
    if c.toQueue then s.raise (.copyQueueWrite cid) else s.raise (.engineCommandCompletion cid)
  | none => if (KV.at? s.colls cid).isSome then s.raise (.collectiveRun cid) else s

/-- Send a request again (R323, R325). -/
def State.retryReq (s : State) (_ : FaultRec) (r : Req) : State :=
  match r with
  | .thread w oid _ => { s with turns := s.turns ++ [.redo w oid] }
  | .fetch w _ => s.updThread w fun t => if t.status = .parked .fault then t.wake s.clock else t
  | .cmd cid => s.resumeCmd cid
  | .scan q => s.updQuery q fun x => { x with scan := x.scan.map fun (c : ScanSt) => { c with held := false } }
  | .drain core quarter => s.raise (.reductionDrain core quarter)
  | .riscv core a => s.rvRetry core a

/-- `RESOLVE_RETRY` (R325). -/
def execResolveRetry (part die : Nat) (seq : BitVec 32) (s : State) : Out := .next (s.resolve part die seq 0 State.retryReq)

/-- The word at a thread's PC, or a free value where it cannot be read. -/
def State.wordAt (s : State) (t : Thread) : BitVec 64 × State :=
  match s.gl (s.partOf t) t.pc Want.ex with
  | .ok p => (BitVec.ofNat 64 (s.rdNat p.loc 8), s)
  | .error _ => s.drawFree

/-- A thread that stands at a word traps there. -/
def State.trapAt (s : State) (w : Who) (cause : BitVec 32) (faddr : BitVec 64) : State :=
  match s.thread? w with
  | none => s
  | some t =>
    let (word, s) := s.wordAt t
    ({ s with cur := w, word := word } : State).trap t cause faddr

/-- A page is refused to a command or a collective: the bytes that it holds fail with the record's cause, and the rest goes on (R190, R325). -/
def State.failHeld (s : State) (cid : Nat) (f : FaultRec) : State :=
  let s := s.updCmd cid fun c => { c with refused := c.refused ++ [(f.page, f.cause)] }
  let s : State := { s with colls := KV.upd s.colls cid fun c => { c with refused := c.refused ++ [(f.page, f.cause)] } }
  s.resumeCmd cid

/-- The held record of a scan fails: the scan ends there, and the failure is logged (R221, R325). -/
def State.failScan (s : State) (q : Nat) (cause : BitVec 32) : State :=
  match KV.at? s.queries q with
  | none => s
  | some x =>
    match x.scan with
    | none => s
    | some sc =>
      let s := s.updQuery q fun x => { x with scan := none, streamOpen := false, ending := true }
      s.log (some x.part) 0x0070 (x.die % 4) 0 5 (BitVec.ofNat 64 sc.next) (cause.setWidth 64) 0 0

/-- Drains that a record holds fail: their entries are discarded, and their flush points go on (R177, R325). -/
def State.failDrain (s : State) (core quarter : Nat) (f : FaultRec) : State :=
  let fail (e : AtomEntry) : AtomEntry := if e.heldBy f then { e with held := false, failed := some f.cause } else e
  (s.setBuffer core quarter ((s.buffer core quarter).map fail)).drainAgain core quarter

/-- The threads whose flush points sent the drains that a record holds. -/
def State.drainCausers (s : State) (core quarter : Nat) (f : FaultRec) : List Who :=
  ((s.buffer core quarter).filter fun e => e.heldBy f).filterMap fun e => e.sentBy

/-- A table read of `qrld` fails: the window is empty (R306). -/
def State.failLoad (s : State) (w : Who) (oid : Nat) : State :=
  match s.thread? w with
  | none => s
  | some t =>
    if t.wins.any fun o => decide (o.oid = oid) && o.loadsTable then
      s.updGroup t.gid fun g => { g with qru := g.qru.map fun (q : Qru) => { q with wdims := 0 } }
    else s

/-- A thread's request fails: it traps at the faulting word with the request's address (R306, R325). -/
def State.failThread (s : State) (w : Who) (oid : Nat) (cause : BitVec 32) (va : BitVec 64) : State :=
  let gid := match s.thread? w with | some t => t.gid | none => 0
  ((s.failLoad w oid).failEntry w oid cause va).wakeQuasi gid

/-- A request fails with its record's cause: a thread traps at the faulting word with the request's address (R325). -/
def State.trapReq (s : State) (f : FaultRec) (r : Req) : State :=
  match r with
  | .thread w oid va => s.failThread w oid f.cause va
  | .fetch w va => s.trapAt w f.cause va
  | .cmd cid => s.failHeld cid f
  | .scan q => s.failScan q f.cause
  | .drain core quarter => s.failDrain core quarter f
  | .riscv core a => s.rvFault core a

/-- `RESOLVE_TRAP` (R325). -/
def execResolveTrap (part die : Nat) (seq : BitVec 32) (s : State) : Out := .next (s.resolve part die seq 1 State.trapReq)

/-- Kill the group of a thread; an estate handler, which has none, ends. -/
def State.killOf (s : State) (w : Who) : State :=
  match s.thread? w with
  | none => s
  | some t => if isEstateHandler w t then s.endEstateHandler w t else s.killGroup t.gid

/-- Kill the groups that a request comes from; what a command or a scan held fails first. A drain is its quarter's, and is sent again (R325,
R422). A RISC-V core is of no group, and takes an access fault (DESIGN CHOICE, log entry 58). -/
def State.killReq (s : State) (f : FaultRec) (r : Req) : State :=
  match r with
  | .thread w _ _ => s.killOf w
  | .fetch w _ => s.killOf w
  | .cmd cid =>
    match KV.at? s.cmds cid, KV.at? s.colls cid with
    | some c, _ => (s.failHeld cid f).killGroup c.gid
    | none, some c => c.members.foldl (fun s m => s.killGroup m.gid) (s.failHeld cid f)
    | none, none => s
  | .scan q => (s.queryGroups q).foldl (fun s e => s.killGroup e.1) (s.failScan q f.cause)
  | .drain core quarter => ((s.drainCausers core quarter f).foldl (fun s w => s.killOf w) s).raise (.reductionDrain core quarter)
  | .riscv core a => s.rvFault core a

/-- `RESOLVE_KILL` (R325, R331). -/
def execResolveKill (part die : Nat) (seq : BitVec 32) (s : State) : Out := .next (s.resolve part die seq 2 State.killReq)

/-- A write of the resolve register (R325): a reserved code or bit is ignored and logged. -/
def State.resolveWrite (s : State) (part die : Nat) (v : BitVec 64) : State :=
  let seq : BitVec 32 := v.extractLsb' 32 32
  if bits v 31 2 ≠ 0 then s.ignoreResolve part die v
  else
    match bits v 1 0 with
    | 0 => s.resolve part die seq 0 State.retryReq
    | 1 => s.resolve part die seq 1 State.trapReq
    | 2 => s.resolve part die seq 2 State.killReq
    | _ => s.ignoreResolve part die v

/-! ## Handler threads (R106, R297, R326, R327) -/

/-- The taken slots of a core's handler pool. -/
def State.poolTaken (s : State) (core : Nat) : List Nat :=
  s.threads.filterMap fun e => match e.1 with | .handler c n => if c = core then some n else none | _ => none

/-- The lowest slot of a core's handler pool that has been free for twelve clocks: a thread that waited for it starts then (R297, R326,
R330). -/
def State.poolSlot (s : State) (core : Nat) : Option Nat :=
  lowestFree (s.poolTaken core ++ ((s.core core).slotFreed.filter fun e => decide (s.clock < e.2 + 12)).map (·.1)) 0 128

/-- Is a word in immediate format (R88, R106)? -/
def wordIsImm (w : BitVec 64) : Bool :=
  match parse w with
  | .word i _ => (immShape i).isSome
  | _ => false

/-- %trap.cause to %trap.imm of a handler for a word (R106, R327). -/
def trapRegsOf (cause : BitVec 32) (pc w : BitVec 64) : TrapRegs :=
  let f (hi lo : Nat) : BitVec 32 := BitVec.ofNat 32 (bits w hi lo)
  if w.getLsbD 63 then
    { cause := cause, pc := pc, word := w
      op := BitVec.ofNat 32 (2 ^ 31 + bits w 31 25 * 2 ^ 7 + bits w 62 56)
      d := BitVec.ofNat 32 (bits w 21 14 * 2 ^ 8 + bits w 52 45)
      a := BitVec.ofNat 32 (bits w 13 6 * 2 ^ 8 + bits w 44 37)
      b := BitVec.ofNat 32 (bits w 24 22 * 2 ^ 3 + bits w 55 53)
      c := 0, imm := BitVec.ofNat 32 (bits w 5 1 * 2 ^ 5 + bits w 36 32) }
  else
    let imm := wordIsImm w
    { cause := cause, pc := pc, word := w, op := f 62 53, d := f 48 41, a := f 40 33
      b := if imm then 0 else f 32 25, c := if imm then 0 else f 24 17
      imm := if imm then f 32 1 else BitVec.ofNat 32 (bits w 16 13 * 2 ^ 13 + bits w 52 49 * 2 ^ 9) }

/-- The handler thread of a trapped origin at its start (R327). -/
def handlerThread (w : Who) (t : Thread) (r : TrapRec) (entry : BitVec 64) (clock : Nat) : Thread :=
  let st := isSteward w
  let h := Thread.start t.gid t.lid t.grp entry (if st then 0xFFFFFFFF else t.tid) (if st then 0 else t.lane) (if st then 0 else t.slot) clock
  { h with origin := some w, trapRegs := trapRegsOf r.cause r.pc r.word }

/-- May a trapped thread's handler start: twelve clocks have passed, and its release is complete (R177, R326, R328)? -/
def State.mayHandle (s : State) (core : Nat) (w : Who) : Bool :=
  match s.thread? w with
  | none => false
  | some t => decide (t.readySince + 12 ≤ s.clock) && t.trapRec.isSome && (match quarterOf w t with | some q => !s.drainHeld core q | none => true)

/-- The thread of a heirless-holding report (R297): no origin, %tid 0, the conveying group's %grp. -/
def estateThread (r : Report) (entry : BitVec 64) (clock : Nat) : Thread :=
  { Thread.start r.gid r.lid r.grp entry 0 0 0 clock with
    trapRegs := { TrapRegs.zero with
      cause := 0x0700, word := r.obj, op := BitVec.ofNat 32 r.kind, d := BitVec.ofNat 32 r.index, a := r.grp, b := r.cand
      imm := BitVec.ofNat 32 r.reason } }

/-- What takes the next pool slot of a core: a trapped thread, or a report. -/
inductive NextHandler where
  | trap (w : Who)
  | report (r : Report)
  deriving DecidableEq, Repr

/-- The first trapped thread that may start its handler, and the first report that has waited twelve clocks: whichever came first, a trap
ahead of a report of one clock (R297, R326, R330; DESIGN CHOICE, log entry 71). -/
def State.nextHandler (s : State) (core : Nat) : Option NextHandler :=
  match (s.core core).trapQueue.find? (s.mayHandle core), (s.core core).reports.find? fun r => decide (r.since + 12 ≤ s.clock) with
  | some w, some r =>
    let since := match s.thread? w with | some t => t.readySince | none => 0
    some (if since ≤ r.since then .trap w else .report r)
  | some w, none => some (.trap w)
  | none, some r => some (.report r)
  | none, none => none

/-- Start the handler of a trapped thread in a pool slot (R326, R327). -/
def State.startHandler (s : State) (core n : Nat) (w : Who) : State :=
  match s.thread? w with
  | none => s
  | some t =>
    match t.trapRec, s.launch? t.lid with
    | some r, some l =>
      let s := s.updCore core fun c => { c with trapQueue := c.trapQueue.filter (· ≠ w) }
      let s := s.updLaunch t.lid fun l => { l with status := l.status ||| 8 }
      s.setThread (.handler core n) (handlerThread w t r (l.handlerFor r.cause) s.clock)
    | _, _ => s

/-- Start the estate handler of a report in a pool slot (R297). -/
def State.startReport (s : State) (core n : Nat) (r : Report) : State :=
  let entry : BitVec 64 := match s.launch? r.lid with | some l => l.estHandler | none => 0
  let s := s.updCore core fun c => { c with reports := c.reports.erase r }
  (s.updLaunch r.lid fun l => { l with status := l.status ||| 8 }).setThread (.handler core n) (estateThread r entry s.clock)

/-- `HANDLER_START`: the next trapped thread takes the lowest free pool slot, and so on while slots are free (R326, R330). -/
def execHandlerStart (core : Nat) (s : State) : Out :=
  match s.nextHandler core, s.poolSlot core with
  | some (.trap w), some n => .next ((s.startHandler core n w).raise (.handlerStart core))
  | some (.report _), some _ => .next (s.raise (.estateHandlerStart core))
  | _, _ => .next s

/-- `ESTATE_HANDLER_START`: the next report takes the lowest free pool slot (R297). -/
def execEstateHandlerStart (core : Nat) (s : State) : Out :=
  match s.nextHandler core, s.poolSlot core with
  | some (.report r), some n => .next ((s.startReport core n r).raise (.handlerStart core))
  | some (.trap _), some _ => .next (s.raise (.handlerStart core))
  | _, _ => .next s

/-! ## Containment (R334, R335) -/

/-- Is a thread a lane thread or a handler of a group? -/
def State.unwindStops (s : State) (gid : Nat) (w : Who) : Bool :=
  match w with
  | .steward _ => false
  | _ => s.belongs gid w

/-- The steward of an unwound group: the results of what it had issued are written, its waits are withdrawn, and it goes on at the
region's handler (R335). -/
def unwoundSteward (t : Thread) (pc : BitVec 64) (clock : Nat) : Thread :=
  let arrived := (t.wins.filter fun o => decide (o.state = .latent) || decide (o.state = .done)).flatMap Outstanding.results
  { Thread.putAll t arrived with
    pc := pc, wins := [], status := .ready, readySince := clock, trapRec := none, skips := [], replays := [], wrote := [], view := none
    redo := none, held := [], flushed := [], last := false }

/-- Set the tags of `n` words of a region's output range to EMPTY, in ascending address, and serve their waiters; answers how many
`.gl` words were passed over (R335). -/
def State.emptyRange (s : State) (g : Group) (r : Region) : Nat → Nat → State × Nat
  | 0, _ => (s, 0)
  | n + 1, i =>
    let place : Option Loc :=
      if r.gl then
        match s.gl g.part (r.base + BitVec.ofNat 64 (4 * i)) Want.wr with
        | .ok p => if classTags p.cls then some p.loc else none
        | .error _ => none
      else some (spLoc g.core (g.spBase + r.base.toNat + 4 * i))
    match place with
    | some l => State.emptyRange ((s.setTag (l.key / 4) 0).serve [l.key / 4]) g r n (i + 1)
    | none =>
      let (s, k) := State.emptyRange s g r n (i + 1)
      (s, k + 1)

/-- Step 1 of an unwind: the lane and handler threads stop, and the steward too, which keeps its registers; what they have issued is still to
be performed, and the group's commands are cancelled, so that none of it waits for one of these (R335; DEDUCED, log entry 84). -/
def State.stopForUnwind (s : State) (gid core : Nat) (cause : BitVec 32) (addr : BitVec 64) : State :=
  let w : Who := .steward gid
  let s := (s.stopThreads (s.unwindStops gid)).withdraw fun x => decide (x = w)
  let s := match s.thread? w with | some t => s.stopThread w t false | none => s
  let s := s.updCore core fun c => { c with trapQueue := c.trapQueue.filter (· ≠ w) }
  (s.updGroup gid fun g => { g with unwinding := some (cause, addr) }).cancelAll gid

/-- The other steps of an unwind of a group's innermost region (R335). Whether its array holds are released is the device's (R265, R335; log
entry 26). -/
def State.unwind (s : State) (gid : Nat) (g : Group) (r : Region) (cause : BitVec 32) (addr : BitVec 64) : State :=
  let s := s.withdraw fun w => decide (w = .steward gid)
  let s := s.discardArray gid Config.unwindReleases
  let (s, lost) := s.withdrawColls gid g.lid (fun _ => 0) true
  let s := s.convey gid true (g.filled ++ lost)
  let (s, skipped) := s.emptyRange g r (r.len / 4) 0
  let s := s.updGroup gid fun g =>
    { g with
      regions := g.regions.tail, crCause := cause, crAddr := addr, crSkip := BitVec.ofNat 32 skipped, bars := [], dq := [], sets := []
      unwinding := none, epoch := g.epoch + 1 }
  let s := s.updLaunch g.lid fun l => { l with status := l.status ||| 2 }
  s.updThread (.steward gid) fun t => unwoundSteward t r.handler s.clock

/-- Go on with an unwind whose threads have stopped, once they owe no access; an error that arrives meanwhile is only logged (R335, R336). -/
def State.goOnUnwind (s : State) (gid : Nat) : State :=
  match s.group? gid with
  | none => s
  | some g =>
    match g.unwinding, g.regions with
    | some (c, a), r :: _ => if s.owes gid then s else s.unwind gid g r c a
    | _, _ => s

/-- A thread that consumed an error with no region open traps at the consuming word (R329, R334). -/
def State.trapConsumer (s : State) (who : Who) (oid : Nat) (cause : BitVec 32) (addr : BitVec 64) : State :=
  match s.thread? who with
  | none => s
  | some t => if t.wins.any fun o => decide (o.oid = oid) && decide (o.state = .aborted) then s.failEntry who oid cause addr else s

/-- Is the consumer of an error an estate handler, which belongs to no group's regions (R297)? -/
def State.isEstate (s : State) (who : Who) : Bool := match s.thread? who with | some t => isEstateHandler who t | none => false

/-- `CONTAINMENT_UNWIND`: the report of a consumed error reaches the core (R334): the innermost region unwinds; with none open a thread traps,
a drain's check is an asynchronous fault, and a command's completion word has carried it. One from before the group's last unwind, or of a
group that is ending, was only logged (R336). -/
def execContainmentUnwind (gid epoch : Nat) (who : Who) (oid : Nat) (cause : BitVec 32) (addr : BitVec 64) (s : State) : Out :=
  match (if s.isEstate who then none else s.group? gid) with
  | none => .next (s.trapConsumer who oid cause addr)
  | some g =>
    if g.ending || decide (epoch ≠ g.epoch) then .next s
    else
      match g.regions with
      | _ :: _ => .next ((if g.unwinding.isSome then s else s.stopForUnwind gid g.core cause addr).goOnUnwind gid)
      | [] => .next (if cause = 0x060F then s.asyncFault gid cause addr else s.trapConsumer who oid cause addr)

end Sys2Proof.Machine
end

