-- ==== Sys2Proof/Machine/LaunchOps.lean ====
section
/-! DEFINITION. The launch scheduler's own acts but placement: the journal (R355, R356), kicks (R217, R352), the replay of graphs (R353,
R354), `launch` (R361 to R364) and the completion of a launch (R357). -/

namespace Sys2Proof.Machine

/-! ## The scheduler and its journal -/

/-- Do the acts of a die's scheduler wait: a takeover runs, or neither core works (R409)? -/
def Die.idle (d : Die) : Bool := d.takeover || d.scheduler.isNone

/-- The 32 bytes of a journal record (R355). -/
def journalBytes (seq : BitVec 32) (type index graph : Nat) (value time : BitVec 64) : List Byte :=
  leBytes 8 (seq.toNat * 2 ^ 32 + type * 2 ^ 24 + index) ++ leBytes 8 graph ++ leBytes 8 value.toNat ++ leBytes 8 time.toNat

/-- The place of the journal record of a SEQ in the ring of 65,536 in the die's DRAM (R355). -/
def State.journalLoc (s : State) (die : Nat) (seq : BitVec 32) : Loc :=
  { key := dramBase die + (s.die die).journalAt + 32 * (seq.toNat % 65536), slot := none }

/-- Write a journal record (R355). -/
def State.writeJournal (s : State) (die type index graph : Nat) (value : BitVec 64) : State :=
  let d := s.die die
  (s.wrBytes (s.journalLoc die d.journalSeq) 0 (journalBytes d.journalSeq type index graph value s.time)).updDie die
    fun d => { d with journalSeq := d.journalSeq + 1 }

/-- The record of an act, before the act (R355, R356). Its act follows in the same step, so ACTSEQ counts it at once; while a failed scheduler's
records stand ahead of their acts, ACTSEQ stays before them. The act of the first of those needs no second record (R409). -/
def State.journal (s : State) (die type index graph : Nat) (value : BitVec 64) : State :=
  let d := s.die die
  if d.undone.head? = some (type, index, graph, value) then s
  else (s.writeJournal die type index graph value).updDie die fun d => { d with actSeq := if d.undone.isEmpty then d.journalSeq - 1 else d.actSeq }

/-- TYPE, INDEX, GRAPH and VALUE of the journal record of a SEQ, as they stand in the ring (R355, R409). -/
def State.readJournal (s : State) (die : Nat) (seq : BitVec 32) : Nat × Nat × Nat × BitVec 64 :=
  let l := s.journalLoc die seq
  let w (i : Nat) : Nat := s.rdNat { l with key := l.key + 8 * i } 8
  (natBits (w 0) 31 24, natBits (w 0) 15 0, natBits (w 1) 11 0, BitVec.ofNat 64 (w 2))

/-- Accept a launch into the launch order (R358). -/
def State.acceptLaunch (s : State) (r : List (BitVec 64)) (part die : Nat) (source : LSource) (va : BitVec 64) (entry : Option Nat) : State :=
  let (lid, s) := s.fresh
  ({ s with launches := KV.put s.launches lid { launchOf r part die source va lid s.clock with storeEntry := entry } }).askPlacement

/-! ## Kicks (R217, R351, R352) -/

/-- A write of the kick register: taken when the graph's bit is clear. -/
def State.kickWrite (s : State) (die graph : Nat) (patch : BitVec 64) : State × Bool :=
  if (KV.at? (s.die die).pending graph).isSome then (s, false)
  else ((s.updDie die fun d => { d with pending := KV.put d.pending graph patch }).raise (.replayStart die), true)

/-- `kick` (R217). -/
def execKick (f : RegF) (s : State) : Out :=
  s.act f.neg f.pred fun t =>
    let graph := (s.src32 s.cur t f.a).toNat
    if 4095 < graph then s.trap t 0x030C 0
    else
      s.releaseFirst t fun s =>
        let (s, taken) := s.kickWrite (s.dieOfThread s.cur t) graph (s.src64 s.cur t f.b)
        s.done t (dstPred f.d taken)

/-! ## Replays (R353, R354) -/

/-- The nodes of a graph that name a node as predecessor and whose predecessors have all completed, none of them started. -/
def Graph.readyNodes (g : Graph) (p : GraphNode → Bool) : List Nat :=
  (List.range g.nodes.length).filter fun n =>
    match g.nodes[n]? with
    | some x => p x && !g.started.contains n && x.preds.all fun q => (KV.at? g.statuses q).isSome
    | none => false

/-- Change a graph of a die. -/
def State.updGraph (s : State) (die graph : Nat) (f : Graph → Graph) : State :=
  s.updDie die fun d => { d with graphs := KV.upd d.graphs graph f }

/-- The graph of a die and number. -/
def State.graph? (s : State) (die graph : Nat) : Option Graph := KV.at? (s.die die).graphs graph

/-- The status that GDONE is filled with (R354): the OR of bits 7:0, or the lowest failed node. -/
def Graph.result (g : Graph) : BitVec 32 :=
  match (List.range g.nodes.length).find? (fun n => decide (0x80000000 ≤ ((KV.at? g.statuses n).getD 0).toNat)) with
  | some n => BitVec.ofNat 32 (0x80000000 + n)
  | none => g.statuses.foldl (fun a e => a ||| (e.2 &&& 0xFF)) 0

/-- Every node's word is FULL: GDONE is filled, and the graph's next replay may start (R354). -/
def State.graphDone (s : State) (die graph : Nat) (g : Graph) : State :=
  if g.statuses.length < g.nodes.length then s
  else
    let v := g.result
    let s := (s.journal die 4 0 graph (v.setWidth 64)).fillVa g.part g.gdone v
    (s.updGraph die graph fun g => { g with running := false }).raise (.replayStart die)

/-- A node's word is filled (R354, R356): its dependants become ready, and the last node ends the replay. -/
def State.nodeDone (s : State) (die graph node : Nat) (word : BitVec 64) (v : BitVec 32) : State :=
  match s.graph? die graph with
  | none => s
  | some g =>
    let s := (s.journal die 3 node graph (v.setWidth 64)).fillVa g.part word v
    let s := s.updGraph die graph fun g => { g with statuses := KV.put g.statuses node v }
    match s.graph? die graph with
    | none => s
    | some g =>
      let s := (g.readyNodes fun x => x.preds.contains node).foldl (fun s n => s.raise (.nodeStart die graph n)) s
      s.graphDone die graph g

/-- The patch table: its values, or none when it cannot be read or its COUNT is not the graph's (R353). The scheduler's reads do not
park. -/
def State.patchTable (s : State) (g : Graph) (va : BitVec 64) : Option (List (BitVec 64)) :=
  match s.numberAt g.part va 4 with
  | .error _ => none
  | .ok n => if n ≠ g.patches.length then none else (s.dwordsAt g.part (va + 8) g.patches.length).toOption

/-- The bytes of a graph's patch table. -/
def Graph.tableBytes (g : Graph) : Nat := if g.patches.isEmpty then 4 else 8 + 8 * g.patches.length

/-- Write the values of a patch table into the nodes' parameter blocks (R353 step 5). -/
def State.applyPatches (s : State) (g : Graph) (vs : List (BitVec 64)) : State :=
  (g.patches.zip vs).foldl (fun s e =>
    match g.nodes[e.1.node]? with
    | some x => s.deviceWrite g.part (x.record + 0x100 + BitVec.ofNat 64 e.1.offset) (leBytes e.1.width e.2.toNat)
    | none => s) s

/-- A replay whose patch table does not match: every node's word and GDONE take 0x8000_0032 (R353 step 2). -/
def State.failReplay (s : State) (die graph : Nat) (g : Graph) : State :=
  let s := (List.range g.nodes.length).foldl (fun s n =>
    match g.nodes[n]? with
    | some x => (s.journal die 3 n graph 0x80000032).fillVa g.part x.done 0x80000032
    | none => s) s
  (s.journal die 4 0 graph 0x80000032).fillVa g.part g.gdone 0x80000032

/-- A replay runs from step 4 of R353 on: the words EMPTY, the patches, and the nodes that nothing precedes. -/
def State.runReplay (s : State) (die graph : Nat) (g : Graph) (vs : List (BitVec 64)) : State :=
  let s := g.nodes.foldl (fun s (x : GraphNode) => s.emptyVa g.part x.done) (s.emptyVa g.part g.gdone)
  let s := s.applyPatches g vs
  let g' : Graph := { g with running := true, started := [], statuses := [] }
  let s := s.updGraph die graph fun _ => g'
  (g'.readyNodes fun _ => true).foldl (fun s n => s.raise (.nodeStart die graph n)) s

/-- Start the replay of a pending kick (R352, R353); a graph that is not loaded drops it. -/
def State.replay (s : State) (die graph : Nat) (patch : BitVec 64) : State :=
  let clear (s : State) : State := s.updDie die fun d => { d with pending := KV.del d.pending graph }
  match s.graph? die graph with
  | none => (clear s).log none 0x0070 (die % 4) 0 1 (BitVec.ofNat 64 graph) 0 0 0
  | some g =>
    let s := s.journal die 1 0 graph patch
    if patch = 0 then (clear s).runReplay die graph g []
    else
      let t := s.touchRead g.part (rangeSectors patch g.tableBytes)
      match s.patchTable g patch with
      | none => (clear t).failReplay die graph g
      | some vs => (clear t).runReplay die graph g vs

/-- Pending kicks that may start, in ascending graph number (R353). -/
def State.startable (s : State) (die : Nat) : List (Nat × BitVec 64) :=
  sortBy (·.1) ((s.die die).pending.filter fun e => match s.graph? die e.1 with | some g => !g.running | none => true)

/-- Must a replay wait for a sub-bus that its patch table crosses (R404)? -/
def State.patchOut (s : State) (die : Nat) (e : Nat × BitVec 64) : Bool :=
  match s.graph? die e.1 with
  | some g => decide (e.2 ≠ 0) && s.readOut g.part e.2 g.tableBytes
  | none => false

/-- `REPLAY_START`: the first pending kick that may start does (R353). -/
def execReplayStart (die : Nat) (s : State) : Out :=
  if (s.die die).idle then .next s
  else
    let (later, now) := (s.startable die).partition (s.patchOut die)
    let s := if later.isEmpty then s else s.plan (s.clock + 64) (.replayStart die)
    match now with
    | [] => .next s
    | (g, patch) :: r =>
      let s := s.replay die g patch
      .next (if r.isEmpty then s else s.raise (.replayStart die))

/-- May a node be decided: its graph replays, it has not started, and every predecessor's word is FULL (R354)? -/
def Graph.mayStart (g : Graph) (n : Nat) : Bool := g.running && (g.readyNodes fun _ => true).contains n

/-- Decide a node (R354): one with a failed predecessor is filled with 0x8000_0030; any other is launched. A record that cannot be
read counts as unmapped, code 0x09 (DESIGN CHOICE, log entry 35). -/
def State.startNode (s : State) (die graph node : Nat) (g : Graph) (x : GraphNode) : State :=
  let s := s.updGraph die graph fun g => { g with started := g.started ++ [node] }
  if x.preds.any fun q => decide (0x80000000 ≤ ((KV.at? g.statuses q).getD 0).toNat) then s.nodeDone die graph node x.done 0x80000030
  else
    let s := s.journal die 2 node graph x.record
    let t := s.touchRead g.part (rangeSectors x.record 256)
    match s.dwordsAt g.part x.record 32 with
    | .error _ => t.nodeDone die graph node x.done 0x80000009
    | .ok r => t.acceptLaunch r g.part die (.node die graph node) x.record none

/-- `NODE_START` (R354), once the read of its record need not wait for a sub-bus (R404). R33 wants a launch record aligned to 256 bytes and no
rule says what follows where a node's is not: it is read at its address (DESIGN CHOICE, log entry 35). -/
def execNodeStart (die graph node : Nat) (s : State) : Out :=
  match s.graph? die graph with
  | none => .next s
  | some g =>
    match g.nodes[node]? with
    | none => .next s
    | some x =>
      if (s.die die).idle || !g.mayStart node then .next s
      else if s.readOut g.part x.record 256 then .next (s.plan (s.clock + 64) (.nodeStart die graph node))
      else .next (s.startNode die graph node g x)

/-! ## Device-side launch (R361 to R364) -/

/-- The lowest free entry of a die's pending-launch store (R363). -/
def Die.storeSlot (d : Die) : Option Nat := lowestFree (d.store.map (·.1)) 0 4096

/-- The index of the LAUNCH entry that `launch.est` creates; none when it is refused (R283, R284, R362). -/
def State.launchEntry (s : State) (t : Thread) (word : BitVec 64) (heir : BitVec 32) : Option Nat :=
  match s.groupOf t with
  | none => none
  | some g => if !s.heirOk t heir || (g.entryOn 2 word).isSome then none else tableSlot g.estate

/-- The acts of an accepted `launch` (R362). -/
def State.takeLaunch (s : State) (t : Thread) (f : RegF) (r : List (BitVec 64)) (va : BitVec 64) (entry : Nat)
    (est : Option (Nat × BitVec 32)) : State :=
  let die := s.dieOfThread s.cur t
  let part := s.partOf t
  let word := dwordOf r 4
  let s := s.done t (dstPred f.d true)
  let s := match est with | some (i, heir) => s.putEntry t.gid i (Entry.make 5 2 word heir false) | none => s
  let s := (s.journal die 5 entry 0 va).emptyVa part word
  let source : LSource := .device t.gid (f.mod.getLsbD 9) (f.mod.getLsbD 8) (bits f.mod 12 10)
  let s := s.acceptLaunch r part die source va (some entry)
  s.updDie die fun d => { d with store := KV.put d.store entry (s.ids - 1) }

/-- `launch` in the order of R362. -/
def State.launchOp (s : State) (t : Thread) (f : RegF) (est : Bool) : State :=
  let va := s.src64 s.cur t f.a
  let heir := s.src32 s.cur t f.b
  s.reach t 0 [] .gl va 256 Acc.load fun s p =>
    let r := (List.range 32).map fun i => BitVec.ofNat 64 (s.rdNat { p.loc with key := p.loc.key + 8 * i } 8)
    let word := dwordOf r 4
    if word.toNat % 4 ≠ 0 then s.trap t 0x0205 word
    else
      match s.gl (s.partOf t) word Want.wr with
      | .error e => s.xfail t 0 [] word word 1 e
      | .ok q =>
        if q.cls ≠ 3 then s.trap t 0x0206 word
        else if est && (s.launchEntry t word heir).isNone then s.trap t 0x0900 0
        else
          match (s.die (s.dieOfThread s.cur t)).storeSlot with
          | none => s.done t (dstPred f.d false)
          | some e => s.takeLaunch t f r va e (if est then (s.launchEntry t word heir).map fun i => (i, heir) else none)

/-- `launch` (R362): with ACQ the child sees the steward's earlier accesses, those of open windows too. -/
def execLaunch (f : RegF) (s : State) : Out := s.act f.neg f.pred fun t => s.asyncThen t (s.acquireFirst t f.mod fun s => s.launchOp t f false)

/-- `launch.est` (R362). -/
def execLaunchEst (f : RegF) (s : State) : Out := s.act f.neg f.pred fun t => s.asyncThen t (s.acquireFirst t f.mod fun s => s.launchOp t f true)

/-! ## Completion (R357) -/

/-- Drop what a launch held: its binding records (R65), its query with its fold entries (R239), its pending-launch store entry. -/
def State.dropLaunch (s : State) (lid : Nat) (l : Launch) : State :=
  let folds (d : Nat) : Nat := match l.query with | some q => (match KV.at? s.queries q with | some x => if x.die = d then x.block.foldCap else 0 | none => 0) | none => 0
  { s with
    launches := KV.del s.launches lid
    cores := s.cores.map fun (e : Nat × CoreSt) => (e.1, { e.2 with binds := e.2.binds.filter fun b => decide (b.lid ≠ lid) })
    dies := s.dies.map fun (e : Nat × Die) => (e.1, { e.2 with
      binds := e.2.binds.filter fun b => decide (b.lid ≠ lid), foldUsed := e.2.foldUsed - folds e.1, store := e.2.store.filter fun x => decide (x.2 ≠ lid) })
    queries := match l.query with | some q => KV.del s.queries q | none => s.queries }

/-- The launch is gone and its completion word takes a status (R34, R357). -/
def State.endLaunch (s : State) (lid : Nat) (l : Launch) (v : BitVec 32) : State :=
  let s := s.dropLaunch lid l
  match l.source with
  | .node die graph node => s.nodeDone die graph node l.doneWord v
  | _ => s.fillVa l.part l.doneWord v

/-- Has every group of the launch ended, with its reports and their handlers (R357)? -/
def Launch.complete (l : Launch) : Bool :=
  l.checked && decide (l.placed = l.ngrp) && decide (l.ended = l.ngrp) && decide (l.reports = 0) && !l.done

/-- `LAUNCH_COMPLETE` (R357): while the scheduler does not act, the kick unit keeps the fill in completion order (R409). -/
def execLaunchComplete (lid : Nat) (s : State) : Out :=
  match s.launch? lid with
  | none => .next s
  | some l =>
    if !l.complete then .next s
    else if (s.die l.die).idle then
      .next ((s.updLaunch lid fun l => { l with done := true }).updDie l.die fun d => { d with heldFills := d.heldFills ++ [{ lid := lid }] })
    else .next (s.endLaunch lid l (l.status.setWidth 32))

end Sys2Proof.Machine
end

