-- ==== Sys2Proof/Machine/Placement.lean ====
section
/-! DEFINITION. The dispatcher: where a group may go (R22, R29 to R32, R341), the launch order (R358), the placing of groups and queries
(R219, R359), and the vacating of cores for a waiting launch (R337, R360). -/

namespace Sys2Proof.Machine

/-! ## Room on a core (R22) -/

/-- The thread slots of a core that are not FREE or are reserved for a query: lane and slot. -/
def State.usedSlots (s : State) (core : Nat) : List (Nat × Nat) :=
  (s.groupsOn core).flatMap fun e =>
    if e.2.query.isSome then e.2.reserved else (s.lanesOf e.1).map fun x => (x.2.lane, x.2.slot)

/-- Free slots for threads in the given lanes, in ascending slot number within each lane; none when a lane is short (R32). -/
def slotsFor : List (Nat × Nat) → List Nat → Option (List (Nat × Nat))
  | _, [] => some []
  | used, l :: r =>
    match lowestFree (used.filterMap fun e => if e.1 = l then some e.2 else none) 0 16 with
    | none => none
    | some n => (slotsFor ((l, n) :: used) r).map ((l, n) :: ·)

/-- A place for a group on a core: group place, scratchpad base, and its threads' slots. -/
structure Spot where
  core : Nat
  place : Nat
  base : Nat
  slots : List (Nat × Nat)
  /-- Free thread slots of the core before the group takes its own. -/
  free : Nat
  deriving DecidableEq, Repr

/-- The lowest free scratchpad range of a core that holds some units: its first unit. -/
def State.freeRange (s : State) (core units : Nat) : Option Nat :=
  (List.range (257 - units)).find? fun b =>
    (s.groupsOn core).all fun e => decide (e.2.spBase / 4096 + e.2.spUnits ≤ b) || decide (b + units ≤ e.2.spBase / 4096)

/-- Does an estate handler thread run on a core, so that it is not handed over (R337)? -/
def State.estateBusy (s : State) (core : Nat) : Bool :=
  s.threads.any fun e => match e.1 with | .handler c _ => decide (c = core) && e.2.origin.isNone | _ => false

/-- Is a vacated core still to be handed over: a group has yet to leave it, or an estate handler thread runs on it (R337)? -/
def State.barred (s : State) (core : Nat) : Bool := (s.core core).vacated && (!(s.groupsOn core).isEmpty || s.estateBusy core)

/-- Where a group with threads in the given lanes fits on a core (R22). Of several free group places it takes the lowest, which R22 and R359
leave open (DESIGN CHOICE, log entry 70). -/
def State.spotOn (s : State) (units : Nat) (lanes : List Nat) (core : Nat) : Option Spot :=
  let used := s.usedSlots core
  match (if s.barred core then none else lowestFree ((s.groupsOn core).map (·.2.place)) 0 4), s.freeRange core units, slotsFor used lanes with
  | some p, some b, some l => some { core := core, place := p, base := 4096 * b, slots := l, free := 2048 - used.length }
  | _, _, _ => none

/-- The spot with the most free thread slots, on a tie that of the lowest core, of a list in ascending core number (R359). -/
def bestSpot : List Spot → Option Spot
  | [] => none
  | x :: r => match bestSpot r with | some y => if x.free < y.free then some y else some x | none => some x

/-! ## Instances of levels (R31, R359) -/

/-- The instance of a domain that holds a core. -/
def State.instanceOf (s : State) (domain core : Nat) : Nat :=
  match domain with
  | 3 => s.builtOf core / 4
  | 4 => core / 28
  | 5 => core / 112
  | _ => 0

/-- Free group places on some cores. -/
def State.freePlaces (s : State) (cores : List Nat) : Nat := (cores.map fun c => 4 - (s.groupsOn c).length).foldl (· + ·) 0

/-- The present cores of an instance on which a level may count: the pod's other packages have theirs (R31, R359). -/
def podRoom (v : Level) (here : Nat) : Nat := if v.domain = 7 then here + Config.podCores else here

/-- Groups that an instance's present cores may hold under R31. -/
def levelRoom (v : Level) (present : Nat) : Nat :=
  if v.share then min 16 present else if v.domain = 3 then min 16 (4 * present) else 4 * present

/-- The number with the greatest measure, the lowest on a tie. -/
def mostOf (m : Nat → Nat) : List Nat → Option Nat
  | [] => none
  | x :: r => match mostOf m r with | some y => if m x < m y then some y else some x | none => some x

/-- The instance that the dispatcher takes for a new instance of a level (R359). Inside a level above die, dies are taken in ascending
number as each has room now; of a pod level the package takes what its dies can hold. -/
def State.chooseInstance (s : State) (v : Level) (need : Nat) (outer pool : List Nat) (under : Bool) : Option Nat :=
  let inside (l : List Nat) (n : Nat) : List Nat := l.filter fun c => decide (s.instanceOf v.domain c = n)
  let ok := (List.range (domainCount v.domain)).filter fun n =>
    !(inside pool n).isEmpty && decide (need ≤ levelRoom v (podRoom v (inside outer n).length))
  let free (n : Nat) : Nat := s.freePlaces (inside pool n)
  match (if v.domain = 5 && under then ok.find? (fun n => decide (need ≤ free n)) else none) with
  | some n => some n
  | none => mostOf free ok

/-- The cores on which a group may stand, with the domains' instances chosen on the way; none when an instance has no room. `levels` run from the
outermost inwards. -/
def State.narrow (s : State) (l : Launch) (grp : Nat) :
    List (Nat × Level) → List Nat → List Nat → Bool → KV (Nat × Nat) Nat → Option (List Nat × KV (Nat × Nat) Nat)
  | [], _, pool, _, insts => some (pool, insts)
  | (i, v) :: r, outer, pool, under, insts =>
    let key := (i, l.instOf i grp)
    match (match KV.at? insts key with | some n => some n | none => s.chooseInstance v (l.groupsIn i) outer pool under) with
    | none => none
    | some n =>
      let keep (c : Nat) : Bool := decide (s.instanceOf v.domain c = n)
      State.narrow s l grp r (outer.filter keep) (pool.filter keep) true (KV.put insts key n)

/-- Does a boundary act take a core into a partition or out of it (R381, R383)? -/
def State.changing (s : State) (core : Nat) : Bool :=
  s.parts.any fun e =>
    match e.2.want with
    | some (cs, _) => decide (cs.contains core ≠ e.2.cores.contains core)
    | none => false

/-- A partition's present cores on which groups may be placed: none that a boundary act moves. -/
def State.partCores (s : State) (part : Nat) : List Nat :=
  match KV.at? s.parts part with
  | some p => sortNats (p.cores.filter fun c => s.present c && !s.changing c)
  | none => []

/-- The levels above the core level, from the outermost inwards. -/
def Launch.upper (l : Launch) : List (Nat × Level) := (l.indexed.filter fun e => decide (2 < e.2.domain)).reverse

/-- The cores on which the next group of a launch may stand, and the instances that this takes. A query stays on its die (R219). -/
def State.poolFor (s : State) (l : Launch) (grp : Nat) : Option (List Nat × KV (Nat × Nat) Nat) :=
  let onDie (c : Nat) : Bool :=
    match l.query with
    | some q => (match KV.at? s.queries q with | some x => decide (s.dieOf c = x.die) | none => true)
    | none => true
  let outer := ((List.range Config.cores).filter s.present).filter onDie
  s.narrow l grp l.upper outer ((s.partCores l.part).filter onDie) false l.insts

/-! ## Placing a group (R11, R15, R23, R25, R219) -/

/-- The threads of a new group: the steward, and the lane threads unless a query's reeve gives birth to them. -/
def newThreads (l : Launch) (lid gid grp clock : Nat) (slots : List (Nat × Nat)) : KV Who Thread :=
  let g := BitVec.ofNat 32 grp
  let st := (Who.steward gid, Thread.start gid lid g l.stewEntry 0 0 0 clock)
  let lanes := ((List.range slots.length).zip slots).map fun e =>
    (Who.lane gid e.1, Thread.start gid lid g l.laneEntry (BitVec.ofNat 32 e.1) e.2.1 e.2.2 clock)
  st :: (if l.winBlock = 0 then lanes else [])

/-- The tags of an allocation set EMPTY (R11). -/
def State.emptyTags (s : State) (core base bytes : Nat) : State :=
  let lo := (spBaseKey core + base) / 4
  { s with tags := Sparse.clear s.tags lo (lo + bytes / 4) }

/-- A core is handed over as a group is put on it (R337). -/
def State.takeCore (s : State) (core : Nat) : State :=
  if (s.core core).vacated then s.updCore core fun c => { c with vacated := false } else s

/-- Put group `grp` of a launch on a spot. -/
def State.setDown (s : State) (lid : Nat) (l : Launch) (grp : Nat) (share : Option Nat) (x : Spot) : State :=
  let (gid, s) := s.fresh
  let g := { Group.start lid (BitVec.ofNat 32 grp) l.part x.core x.place x.base l.spUnits with
    qru := l.qru, share := share, query := l.query, reserved := if l.winBlock = 0 then [] else x.slots }
  let s := s.emptyTags x.core x.base (l.spUnits * 4096)
  let s : State := { s with
    groups := KV.put s.groups gid g
    threads := s.threads ++ newThreads l lid gid grp s.clock x.slots }
  (s.takeCore x.core).updLaunch lid fun l => { l with placed := grp + 1, waitingSince := s.clock }

/-- The best spot for a group among some cores. -/
def State.spotFor (s : State) (units : Nat) (lanes cores : List Nat) : Option Spot := bestSpot (cores.filterMap (s.spotOn units lanes))

/-- Place group `grp` of a launch on a core that is not to be avoided. Answers the state and the core. -/
def State.placeGroup (s : State) (lid grp : Nat) (share : Option Nat) (avoid : List Nat) : Option (State × Nat) :=
  match s.launch? lid with
  | none => none
  | some l =>
    match s.poolFor l grp with
    | none => none
    | some (pool, insts) =>
      match s.spotFor l.spUnits l.lanes (pool.filter fun c => !avoid.contains c) with
      | none => none
      | some x =>
        let s := s.updLaunch lid fun l => { l with insts := insts }
        some (s.setDown lid l grp share x, x.core)

/-- Has a group ended, or been killed before it was placed (R294, R383)? -/
def State.deadGroup (s : State) (lid grp : Nat) : Bool := match s.launch? lid with | some l => l.dead.contains grp | none => false

/-- Place `n` groups from `grp` on as one sharing set, on distinct cores; none that was killed as it waited (R35, R359, R383). -/
def State.placeSet (s : State) (lid share : Nat) (avoid : List Nat) : Nat → Nat → Option (State × List Nat)
  | 0, _ => some (s, [])
  | n + 1, grp =>
    if s.deadGroup lid grp then State.placeSet s lid share avoid n (grp + 1)
    else
      match s.placeGroup lid grp (some share) avoid with
      | none => none
      | some (t, c) => (State.placeSet t lid share (c :: avoid) n (grp + 1)).map fun r => (r.1, c :: r.2)

/-- The groups of an instance of the SHARE level, if the launch has one. -/
def Launch.shareSize (l : Launch) : Option Nat :=
  match l.indexed.find? (fun e => e.2.share) with
  | some (i, _) => some (l.groupsIn i)
  | none => none

/-- Place the next group of a launch, or its next sharing set whole. Answers the state and the cores taken. -/
def State.placeNext (s : State) (lid : Nat) (l : Launch) (avoid : List Nat) : Option (State × List Nat) :=
  match l.shareSize with
  | none => (s.placeGroup lid l.placed none avoid).map fun r => (r.1, [r.2])
  | some n =>
    let (share, s) := s.fresh
    s.placeSet lid share avoid (n - l.placed % n) l.placed

/-! ## Checks and queries at the first group (R34, R219, R362) -/

/-- A query at its reeve, before its first record. -/
def newQuery (lid part die : Nat) (b : WinBlock) (scan : Option ScanSt) : Query :=
  { lid := lid, part := part, die := die, block := b, ingest := [], backlog := [], streamOpen := true, ending := false, tsMax := 0, w := 0, counts := []
    births := [], wins := [], winNext := 0, gone := [], gaps := [], counters := [], batch := [], batchSince := 0, scan := scan, merge := none, pane := [] }

/-- Start the query of a launch on a die, if it has a window block. -/
def State.startQuery (s : State) (lid : Nat) (l : Launch) (die : Nat) (b : Option WinBlock) : State :=
  match b with
  | none => s
  | some b =>
    let (q, s) := s.fresh
    let s : State := { s with queries := KV.put s.queries q (newQuery lid l.part die b (if b.scan then s.scanOf l.part b.scanDesc else none)) }
    (s.updDie die fun d => { d with foldUsed := d.foldUsed + b.foldCap }).updLaunch lid fun l => { l with query := some q }

/-- Refuse a launch: its word takes the code and nothing is placed (R34). -/
def State.refuseLaunch (s : State) (lid : Nat) (l : Launch) (code : Nat) : State := s.endLaunch lid l (BitVec.ofNat 32 (0x80000000 + code))

/-- The checks that are left when the core of the first group is known. -/
def State.firstChecks (s : State) (lid : Nat) (l : Launch) (die : Nat) : Except Nat State :=
  match s.checkLaunch l die with
  | .error c => .error c
  | .ok (b, q) => .ok (((s.touchChecks l).updLaunch lid fun l => { l with checked := true, qru := q }).startQuery lid l die b)

/-- Pass over the next groups of a launch that were killed before they were placed (R383). -/
def Launch.passDead (l : Launch) : Launch :=
  let n := ((List.range l.dead.length).takeWhile fun i => decide (l.placed + i < l.ngrp) && l.dead.contains (l.placed + i)).length
  { l with placed := l.placed + n }

/-- The last group of a launch has been placed: its store entry is free, and a device launch's placing goes into the journal (R356,
R363). -/
def State.lastPlaced (s : State) (lid : Nat) : State :=
  let s := s.updLaunch lid Launch.passDead
  match s.launch? lid with
  | none => s
  | some l =>
    if l.placed < l.ngrp then s
    else
      match l.storeEntry with
      | none => s
      | some e =>
        ((s.journal l.die 6 e 0 (BitVec.ofNat 64 l.ngrp)).updDie l.die fun d => { d with store := KV.del d.store e }).updLaunch lid
          fun l => { l with storeEntry := none }

/-! ## The launch order (R358, R360) -/

/-- An entry of the launch order: a saved group, or a launch with groups to place. -/
inductive Waiting where
  | saved (gid : Nat)
  | launch (lid : Nat)
  deriving DecidableEq, Repr

/-- The rank of a launch in the order: PRIO, highest first, then acceptance. -/
def Launch.rank (l : Launch) : Nat := (3 - l.prio) * 2 ^ 64 + l.accepted

/-- The launch order: by PRIO, saved groups first within one, then by acceptance. -/
def State.launchOrder (s : State) : List Waiting :=
  let sv := s.saved.filterMap fun e =>
    match s.launch? e.2.group.lid with
    | some l => some (((3 - l.prio) * 2 * 2 ^ 64 + l.accepted) * 2 ^ 32 + e.2.group.grp.toNat, Waiting.saved e.1)
    | none => none
  let ls := s.launches.filterMap fun e =>
    if e.2.done || (e.2.checked && decide (e.2.ngrp ≤ e.2.placed)) then none
    else some ((((3 - e.2.prio) * 2 + 1) * 2 ^ 64 + e.2.accepted) * 2 ^ 32, Waiting.launch e.1)
  (sortBy (fun (x : Nat × Waiting) => x.1) (sv ++ ls)).map (·.2)

/-! ## Where a saved group may return (R341) -/

/-- The lanes that a saved group needs: those reserved for a query, or those of its live lane threads, in ascending %tid. -/
def SavedGroup.lanes (v : SavedGroup) : List Nat :=
  if v.group.query.isSome then v.group.reserved.map (·.1)
  else
    (sortBy (fun (x : Nat × Nat) => x.1) (v.threads.filterMap fun e =>
      match e.1 with
      | .lane _ t => some (t, e.2.lane)
      | _ => none)).map (·.2)

/-- Are the saved halves' numbers assigned to the partition and free on a core (R254, R341)? -/
def State.halvesFree (s : State) (v : SavedGroup) (core : Nat) : Bool :=
  v.halves.all fun x =>
    let h := s.half core x.half
    decide (h.part = some v.group.part) && h.holder.isNone && h.queue.isEmpty

/-- Has a core's handler pool room for a saved group's handler threads (R345)? -/
def State.poolRoom (s : State) (v : SavedGroup) (core : Nat) : Bool :=
  let hs := v.threads.filter fun e => match e.1 with | .handler _ _ => true | _ => false
  decide ((s.poolTaken core).length + hs.length ≤ 128)

/-- The spot of a saved group, with the instances that it takes, avoiding some cores; `quad` is the quadrant of its sharing set. -/
def State.savedSpot (s : State) (v : SavedGroup) (avoid : List Nat) (quad : Option Nat) : Option (Spot × KV (Nat × Nat) Nat) :=
  match s.launch? v.group.lid with
  | none => none
  | some l =>
    match s.poolFor l v.group.grp.toNat with
    | none => none
    | some (pool, insts) =>
      let ok (c : Nat) : Bool :=
        !avoid.contains c && s.halvesFree v c && s.poolRoom v c && (match quad with | some q => decide (quadrantOf c = q) | none => true)
      (s.spotFor v.group.spUnits v.lanes (pool.filter ok)).map fun x => (x, insts)

/-- The saved groups that return together: the group, or its whole sharing set in ascending rank of %grp. -/
def State.savedSet (s : State) (gid : Nat) (v : SavedGroup) : List (Nat × SavedGroup) :=
  match v.group.share with
  | none => [(gid, v)]
  | some k => sortBy (fun (x : Nat × SavedGroup) => x.2.group.grp.toNat) (s.saved.filter fun e => decide (e.2.group.share = some k))

/-- Spots for the members of a set, on distinct cores of one quadrant. -/
def State.savedSpots (s : State) : List (Nat × SavedGroup) → List Nat → Option Nat → Option (List (Nat × SavedGroup × Spot × KV (Nat × Nat) Nat))
  | [], _, _ => some []
  | (gid, v) :: r, avoid, quad =>
    match s.savedSpot v avoid quad with
    | none => none
    | some (x, insts) => (State.savedSpots s r (x.core :: avoid) quad).map ((gid, v, x, insts) :: ·)

/-- Where a saved group, with its sharing set, may return now. -/
def State.returnSpots (s : State) (gid : Nat) (v : SavedGroup) (avoid : List Nat) :
    Option (List (Nat × SavedGroup × Spot × KV (Nat × Nat) Nat)) :=
  match v.group.share with
  | none => s.savedSpots [(gid, v)] avoid none
  | some _ => (List.range 16).findSome? fun q => s.savedSpots (s.savedSet gid v) avoid (some q)

/-! ## Placement (R358, R359) -/

/-- The cores that a waiting launch keeps from later ones: those of the instances in which its next group must stand. -/
def State.wanted (s : State) (l : Launch) (grp : Nat) : List Nat :=
  match s.poolFor l grp with
  | some (pool, _) => pool
  | none => []

/-- The cores that a saved group keeps from later entries while it waits. -/
def State.wantedBack (s : State) (v : SavedGroup) : List Nat :=
  match s.launch? v.group.lid with
  | some l => s.wanted l v.group.grp.toNat
  | none => []

/-- The cores that an entry of the launch order keeps from later ones while it waits (R358). -/
def State.keeps (s : State) : Waiting → List Nat
  | .saved gid => match KV.at? s.saved gid with | some v => s.wantedBack v | none => []
  | .launch lid => match s.launch? lid with | some l => s.wanted l l.placed | none => []

/-- The cores that the entries ahead of a saved group keep from it (R358). -/
def State.keptFrom (s : State) (gid : Nat) : List Nat :=
  (s.launchOrder.takeWhile fun x => decide (x ≠ .saved gid)).flatMap s.keeps

/-- What the dispatcher's look at one entry comes to. -/
inductive Look where
  /-- A group was placed or a launch refused; the order is looked at anew. -/
  | acted (s : State)
  /-- The next group goes to another die. -/
  | elsewhere (die : Nat)
  /-- It waits for a core. -/
  | waits
  deriving Repr

/-- Place the next group of a checked launch. -/
def State.placeChecked (s : State) (lid : Nat) (avoid : List Nat) : Look :=
  match s.launch? lid with
  | none => .acted s
  | some l =>
    match s.placeNext lid l avoid with
    | none => .waits
    | some (s, _) => .acted (s.lastPlaced lid)

/-- The code that refuses a launch at the dispatcher's first look, whichever core its first group may take: a failed check of its record, or of
a device launch that reaches too far (R34, R357). -/
def State.refusedAtOnce (s : State) (l : Launch) : Option Nat :=
  if l.checked then none
  else if l.tooWide then (match s.checkLaunch l l.die with | .error c => some c | .ok _ => none)
  else s.recordRefused l

/-- The dispatcher of a die looks at a launch: its record's checks, then its next group, if that goes to this die; at the first group the
remaining checks (R34, R359, R362), whose reads wait for a sub-bus (R404). -/
def State.lookLaunch (s : State) (die lid : Nat) (l : Launch) (avoid : List Nat) : Look :=
  if !l.checked && s.checksOut l then .waits
  else
    match s.refusedAtOnce l with
    | some c => .acted ((if l.tooWide then s.touchChecks l else s).refuseLaunch lid l c)
    | none =>
      match s.placeNext lid l avoid with
      | none => .waits
      | some (_, cores) =>
        let there := s.dieOf (cores.headD 0)
        if there ≠ die then .elsewhere there
        else if l.checked then s.placeChecked lid avoid
        else
          match s.firstChecks lid l die with
          | .error c => .acted ((s.touchChecks l).refuseLaunch lid l c)
          | .ok s => s.placeChecked lid avoid

/-- Walk down the launch order: a saved group that may return is restored next, and the first launch with a group for this die places
it; an entry that waits keeps its cores from later ones (R358). Answers whether to walk again. -/
def State.walkOrder (s : State) (die : Nat) : List Waiting → List Nat → State × Bool
  | [], _ => (s, false)
  | .saved gid :: r, avoid =>
    match KV.at? s.saved gid with
    | none => State.walkOrder s die r avoid
    | some v =>
      if (s.returnSpots gid v avoid).isSome then (s.raise (.groupRestore gid), false)
      else State.walkOrder s die r (s.wantedBack v ++ avoid)
  | .launch lid :: r, avoid =>
    match s.launch? lid with
    | none => State.walkOrder s die r avoid
    | some l =>
      match s.lookLaunch die lid l avoid with
      | .acted t => (t, true)
      | .elsewhere d => State.walkOrder (s.raise (.groupPlacement d)) die r (s.wanted l l.placed ++ avoid)
      | .waits => State.walkOrder s die r (s.wanted l l.placed ++ avoid)

/-- Walk the order again for as long as something is placed or refused. -/
def State.dispatch (die : Nat) : Nat → State → State
  | 0, s => s
  | n + 1, s =>
    let (s, again) := s.walkOrder die s.launchOrder []
    if again then State.dispatch die n s else s

/-- `GROUP_PLACEMENT` (R358, R359): the dispatcher of a die places what it can. -/
def execGroupPlacement (die : Nat) (s : State) : Out :=
  if (s.die die).idle then .next s else .next (State.dispatch die (2048 + s.launches.length) s)

/-! ## Vacating cores (R337, R360) -/

/-- PRIO of the launch of a group. -/
def State.prioOf (s : State) (g : Group) : Nat := match s.launch? g.lid with | some l => l.prio | none => 0

/-- The state with no group on some cores, nor any of a sharing set that has a group there, as the dispatcher thinks of it: a set is saved
whole, and its other cores return as free (R337). -/
def State.without (s : State) (cores : List Nat) : State :=
  let sets := s.groups.filterMap fun e => if cores.contains e.2.core then e.2.share else none
  { s with groups := s.groups.filter fun e => !cores.contains e.2.core && (match e.2.share with | some k => !sets.contains k | none => true) }

/-- Save every group of some cores of a die, in one pre-emption (R337, R356); the scheduler keeps the order while it does not act
(R409). -/
def State.vacateCores (s : State) (die : Nat) (cores : List Nat) : State :=
  if cores.isEmpty then s
  else if (s.die die).idle then s.updDie die fun d => { d with heldVacations := d.heldVacations ++ cores }
  else
    let s := s.journal die 7 0 0 (BitVec.ofNat 64 cores.length)
    let s := cores.foldl (fun s c => s.updCore c fun x => { x with vacated := true }) s
    (cores.flatMap s.groupsOn).foldl (fun s e => s.raise (.groupSave e.1)) s

/-- The rank of a victim core: the lowest priority first, on a tie the youngest launch, then the lowest number (R360). -/
def State.victimRank (s : State) (core : Nat) : Nat :=
  let ranks := (s.groupsOn core).map fun e =>
    match s.launch? e.2.lid with
    | some l => l.prio * 2 ^ 64 + (2 ^ 64 - 1 - l.accepted)
    | none => 0
  ranks.foldl min (2 ^ 80) * 512 + core

/-- Cores that may be vacated for a launch: groups stand there, all of PRIO 0 or 1 (R360). -/
def State.victims (s : State) (cores : List Nat) : List Nat :=
  sortBy s.victimRank (cores.filter fun c =>
    !(s.groupsOn c).isEmpty && !s.estateBusy c && (s.groupsOn c).all fun e => decide (s.prioOf e.2 ≤ 1))

/-- Does vacating some cores let a launch place its next group or sharing set? -/
def State.suffices (s : State) (lid : Nat) (l : Launch) (cs : List Nat) : Bool := ((s.without cs).placeNext lid l []).isSome

/-- The first of the sets of `n` cores of a list, in the list's order, that a test accepts. -/
def firstSet (f : List Nat → Bool) : Nat → List Nat → List Nat → Option (List Nat)
  | 0, _, cs => if f cs then some cs else none
  | _, [], _ => none
  | n + 1, x :: r, cs =>
    match firstSet f n r (cs ++ [x]) with
    | some y => some y
    | none => firstSet f (n + 1) r cs

/-- The fewest victims that let a launch place what comes next, of several such sets the first in their order (R360). None are vacated for a
launch that finds room as it is, nor where neither one core nor all of a hamlet, of a quadrant, of a die or of the package suffice (DEDUCED, log
entry 38). -/
def State.enough (s : State) (lid : Nat) (l : Launch) (vs : List Nat) : Option (List Nat) :=
  let inside (domain n : Nat) : List Nat := vs.filter fun c => decide (s.instanceOf domain c = n)
  let parts := vs.map (fun c => [c]) ++ (List.range 128).map (inside 3) ++ (List.range 16).map (inside 4) ++ (List.range 4).map (inside 5) ++ [vs]
  if s.suffices lid l [] || !parts.any (s.suffices lid l) then none
  else (List.range vs.length).findSome? fun n => firstSet (s.suffices lid l) (n + 1) vs []

/-- Has a launch of PRIO 3 waited 65,536 clocks for a core (R360)? -/
def Launch.timedOut (l : Launch) (clock : Nat) : Bool :=
  decide (l.prio = 3) && !l.done && (!l.checked || decide (l.placed < l.ngrp)) && decide (l.waitingSince + 65536 ≤ clock)

/-- `PREEMPTION_TIMEOUT` (R360): the fewest cores are vacated that let the waiting group be placed; with none to vacate it is tried again. -/
def execPreemptionTimeout (die lid : Nat) (s : State) : Out :=
  match s.launch? lid with
  | none => .next s
  | some l =>
    if (s.die die).idle || !l.timedOut s.clock then .next s
    else
      match s.enough lid l (s.victims (s.partCores l.part)) with
      | none => .next s
      | some cs => .next ((s.updLaunch lid fun l => { l with waitingSince := s.clock }).vacateCores die cs)

end Sys2Proof.Machine
end

