-- ==== Sys2Proof/Machine/SaveRestore.lean ====
section
/-! DEFINITION. Spatial pre-emption: the saving of a group (R337 to R340, R347, R348) and its return (R341 to R345). -/

namespace Sys2Proof.Machine

/-! ## Slices of a store -/

/-- The entries of `n` keys from `lo` on, by their distance from `lo`. -/
def Sparse.slice {w : Nat} (m : Sparse w) (lo n : Nat) : Sparse w :=
  (m.filter fun e => decide (lo ≤ e.1) && decide (e.1 < lo + n)).map fun e => (e.1 - lo, e.2)

/-- Put a slice of `n` keys back from `lo` on. -/
def Sparse.paste {w : Nat} (m : Sparse w) (lo n : Nat) (sl : Sparse w) : Sparse w :=
  m.filter (fun e => decide (e.1 < lo)) ++ sl.map (fun e => (lo + e.1, e.2)) ++ m.filter fun e => decide (lo + n ≤ e.1)

/-! ## Quiescing (R338 steps 1 to 5) -/

/-- The groups that are saved with a group: those of its sharing set that are not at their end (R337). -/
def State.saveSet (s : State) (gid : Nat) (g : Group) : List (Nat × Group) :=
  match g.share with
  | none => [(gid, g)]
  | some k => s.groups.filter fun e => decide (e.2.share = some k) && !e.2.ending

/-- The lowest-numbered thread of a group that takes its turns in a quarter and is not PARKED. -/
def State.firstIn (s : State) (gid quarter : Nat) : Option Who :=
  let ws := s.threads.filter fun e =>
    s.belongs gid e.1 && decide (quarterOf e.1 e.2 = some quarter) && (match e.2.status with | .parked _ => false | _ => true)
  ((sortBy (fun (e : Who × Thread) => s.threadNumber e.1) ws).head?).map (·.1)

/-- A failing drain of a save's flush traps the group's first thread of the quarter, whose release it is (R83, R177, R338). -/
def State.saveFailure (s : State) (gid core q : Nat) : State :=
  match s.drainFailure core q .nobody with
  | none => s
  | some (c, va) =>
    let s := s.dropFailures core q .nobody
    match s.firstIn gid q with
    | some w => s.trapAt w c va
    | none => s

/-- The flush of a core's four buffers before a save, with the failures of drains that have ended (R338). -/
def State.flushCore (s : State) (gid core : Nat) : State :=
  (List.range 4).foldl (fun s q =>
    let s := s.flush core q .nobody
    if s.drainHeld core q then s else s.saveFailure gid core q) s

/-- Step 1 of the saves of groups: their threads and their commands that have not started issue no more (R338). -/
def State.stopForSave (s : State) (set : List (Nat × Group)) : State :=
  set.foldl (fun s e => s.updGroup e.1 fun g => { g with saving := true }) s

/-- Does a thread wait for a wait or a request of its own that the save withdraws, so that its later accesses are not awaited (R63, R338)? -/
def State.parkedIn (s : State) (w : Who) (t : Thread) : Bool :=
  t.wins.any fun o => decide (o.state = .tagWait) || s.faults.any fun f => f.reqs.any fun r =>
    match r with
    | .thread x oid _ => decide (x = w) && decide (oid = o.oid)
    | _ => false

/-- Does a thread of a group still owe an access that it has issued (R338 step 2)? -/
def State.saveOwes (s : State) (gid : Nat) : Bool :=
  s.threads.any fun e => s.belongs gid e.1 && !e.2.held.isEmpty && !s.parkedIn e.1 e.2

/-- Must the save of a group wait: an issued access is still to be performed, a drain of a buffer is held, an `mdrain` of the group runs, a
collective that all have joined has still to run, or the report of a consumed error is on its way (R336, R338)? -/
def State.saveWaits (s : State) (gid : Nat) (g : Group) : Bool :=
  s.saveOwes gid || (List.range 4).any (s.drainHeld g.core)
    || s.halves.any (fun e => match e.2.run with | some r => e.2.queue.any fun m => decide (m.cid = r.cid) && decide (m.gid = gid) | none => false)
    || s.colls.any (fun e => decide (e.2.size ≤ e.2.members.length) && e.2.members.any fun m => decide (m.gid = gid))
    || s.threads.any fun e => s.belongs gid e.1 && e.2.wins.any fun o => decide (o.state = .aborted)

/-- Does a command of the group still run: a sub-bus that is out of use or its port keeps it (R338, R371, R404)? -/
def State.copiesRun (s : State) (gid : Nat) : Bool := s.cmds.any fun e => decide (e.2.gid = gid) && e.2.runs

/-- Running copies, gathers and fills of a group run to completion (R338 step 4). -/
def State.finishCopies (s : State) (gid : Nat) : State :=
  s.cmds.foldl (fun s e => if e.2.gid = gid then s.completeCmd e.1 else s) s

/-- A thread as its image holds it: every result that was under way is written, and it waits for nothing that the save ends (R338 step 2). -/
def savedThread (t : Thread) (clock : Nat) : Thread :=
  let ended (o : Outstanding) : Outstanding := if o.state = .latent then { o with state := .done } else o
  let u := ({ t with wins := t.wins.map ended, held := [], flushed := [] } : Thread).settle clock
  match u.status with
  | .waiting .windows => u
  | .waiting .latency => { u with status := u.windowStatus }
  | .waiting _ => { u with status := .ready }
  | _ => u

/-- Does a request come from the group: from a thread of it, or from a command? -/
def State.reqOf (s : State) (gid : Nat) (r : Req) : Bool :=
  match r with
  | .thread w _ _ => s.belongs gid w
  | .fetch w _ => s.belongs gid w
  | .cmd c => match KV.at? s.cmds c with | some x => decide (x.gid = gid) | none => false
  | _ => false

/-! ## The save image (R339) -/

/-- A held half's saved content. -/
def savedHalf (gid h : Nat) (x : Half) : SavedHalf :=
  { half := h, acc := x.acc, cr := x.cr, cc := x.cc, prog0 := x.prog0, prog1 := x.prog1, store := x.store, fills := x.fills
    queue := x.queue.filter fun m => decide (m.gid = gid) }

/-- A binding record by its distance from an allocation. -/
def bindOut (lo : Nat) (b : BindRec) : BindRec := { b with obj := b.obj - lo / 4, lo := b.lo - lo, hi := b.hi - lo }
/-- A binding record set down at an allocation. -/
def bindIn (lo : Nat) (b : BindRec) : BindRec := { b with obj := b.obj + lo / 4, lo := b.lo + lo, hi := b.hi + lo }

/-- Does a key of a word lie in an allocation? -/
def wordIn (lo bytes k : Nat) : Bool := decide (lo ≤ 4 * k) && decide (4 * k < lo + bytes)

/-- The bytes of a group's area in the save pool (R340). -/
def State.imageBytes (s : State) (gid : Nat) (g : Group) : Nat :=
  let threads := match s.launch? g.lid with | some l => l.nthr | none => 0
  let halves := ([0, 1].filter fun h => decide ((s.half g.core h).holder = some gid)).length
  32768 + 768 * threads + 832 * (s.handlersOf gid).length + 4352 * g.spUnits + 69632 * halves

/-- The lowest place of a partition's save pool that is free for some bytes, beside the areas taken (R340). -/
def Part.saveRoom (p : Part) (taken : List (Nat × Nat)) (bytes : Nat) : Option Nat :=
  p.savePool.findSome? fun r =>
    let fits (a : Nat) : Bool := decide (r.1 ≤ a) && decide (a + bytes ≤ r.1 + r.2) &&
      taken.all fun t => decide (t.1 + t.2 ≤ a) || decide (a + bytes ≤ t.1)
    (sortNats (r.1 :: taken.map fun t => t.1 + t.2)).find? fits

/-- Areas for groups that are saved together, or none while the pool has no room for them all (R340). -/
def State.saveAreas (s : State) : List (Nat × Group) → List (Nat × Nat) → Option (List (Nat × Nat × Nat))
  | [], _ => some []
  | (gid, g) :: r, taken =>
    let n := s.imageBytes gid g
    match (match KV.at? s.parts g.part with | some p => p.saveRoom taken n | none => none) with
    | none => none
    | some a => (State.saveAreas s r ((a, n) :: taken)).map ((gid, a, n) :: ·)

/-- The areas of the groups that are SAVED. -/
def State.areasTaken (s : State) : List (Nat × Nat) := s.saved.map fun e => (e.2.area, e.2.areaBytes)

/-- The reads of a save image as a restore makes them: the records, interrupts and corrections of the errors there, with VA 0 (R332, R403, R406).
What is restored of a sector whose read aborts is what it holds, since no rule says what follows (DESIGN CHOICE, log entry 63). -/
def State.readArea (s : State) (part lo n : Nat) : State :=
  let sectors := eachOnce (s.flaws.filterMap fun x =>
    let k := match x with | .cell k _ => k | .slice k _ => k | .crossing k => k | _ => 2 ^ 60
    if lo ≤ 32 * k + 31 ∧ 32 * k < lo + n then some k else none)
  sectors.foldl (fun s k => (s.readSector part 0 k).1) s

/-- Copy bytes with their tags between places of the store: from an allocation to its area, or back (R338, R342). -/
def State.copyStore (s : State) (lo goal n : Nat) : State :=
  { s with
    mem := Sparse.paste s.mem goal n (Sparse.slice s.mem lo n)
    tags := Sparse.paste s.tags (goal / 4) (n / 4) (Sparse.slice s.tags (lo / 4) (n / 4)) }

/-- The image of a group but for its allocation's bytes and tags, which lie in its area. -/
def State.image (s : State) (gid : Nat) (g : Group) (area bytes : Nat) : SavedGroup :=
  let lo := spBaseKey g.core + g.spBase
  { group := g
    threads := (s.threads.filter fun e => s.belongs gid e.1).map fun e => (e.1, savedThread e.2 s.clock)
    area := area, areaBytes := bytes
    halves := ([0, 1].filter fun h => decide ((s.half g.core h).holder = some gid)).map fun h => savedHalf gid h (s.half g.core h)
    cmds := s.cmds.filter fun e => decide (e.2.gid = gid)
    colls := s.colls.filterMap fun e =>
      match e.2.members.find? (fun m => decide (m.gid = gid)) with
      | some m => some ({ e.2 with members := [] }, m)
      | none => none
    waits := s.waits.filter fun x => s.belongs gid x.who
    faults := s.faults.flatMap fun f => f.reqs.filter (s.reqOf gid)
    conveyed := []
    binds := ((s.core g.core).binds.filter fun b => wordIn lo g.spBytes b.obj).map (bindOut lo) }

/-- Take a group out of the machine: its waits, requests, commands, threads, halves and slots (R338 step 7). -/
def State.takeOut (s : State) (gid : Nat) (g : Group) : State :=
  let lo := spBaseKey g.core + g.spBase
  let gone (c : Nat) : Bool := match KV.at? s.cmds c with | some x => decide (x.gid = gid) | none => false
  { s with
    groups := KV.del s.groups gid
    threads := s.threads.filter fun e => !s.belongs gid e.1
    waits := s.waits.filter fun x => !s.belongs gid x.who
    faults := s.faults.map fun (f : FaultRec) => { f with reqs := f.reqs.filter fun r => !s.reqOf gid r }
    cmds := s.cmds.filter fun e => decide (e.2.gid ≠ gid)
    colls := (s.colls.map fun (e : Nat × Coll) => (e.1, { e.2 with members := e.2.members.filter fun m => decide (m.gid ≠ gid) })).filter
      fun (e : Nat × Coll) => !e.2.members.isEmpty
    cores := s.cores.map fun (e : Nat × CoreSt) => (e.1, { e.2 with
      sb := e.2.sb.filter (fun b => !gone b.cid), trapQueue := e.2.trapQueue.filter (fun w => !s.belongs gid w)
      binds := if e.1 = g.core then e.2.binds.filter (fun b => !wordIn lo g.spBytes b.obj) else e.2.binds })
    halves := s.halves.map fun (e : (Nat × Nat) × Half) =>
      (e.1, { e.2 with
        queue := e.2.queue.filter (fun m => decide (m.gid ≠ gid)), holder := if e.2.holder = some gid then none else e.2.holder }) }

/-- The domain instances in which no group of the launch stands any longer are chosen anew (R359). -/
def State.forgetInstances (s : State) (lid : Nat) : State :=
  s.updLaunch lid fun l =>
    { l with insts := l.insts.filter fun (e : (Nat × Nat) × Nat) =>
        s.groups.any fun x => decide (x.2.lid = lid) && decide (l.instOf e.1.1 x.2.grp.toNat = e.1.2) }

/-- Save one quiet group into its area: its image is written and everything it held is free (R338, R340). -/
def State.saveGroup (s : State) (gid area bytes : Nat) : State :=
  match s.group? gid with
  | none => s
  | some g =>
    let pool := (s.handlersOf gid).map (·.1)
    let v := s.image gid g area bytes
    let s := s.copyStore (spBaseKey g.core + g.spBase) area g.spBytes
    let s := ({ s.takeOut gid g with saved := KV.put s.saved gid v } : State).forgetInstances g.lid
    pool.foldl (fun s w => match w with | .handler c n => s.freeSlot c n | _ => s) s

/-- The errors that the save routine meets as it reads a group's registers and its allocation: the first uncorrectable one (R332, R338). -/
def State.imageError (s : State) (gid : Nat) (g : Group) : State × Option (BitVec 32 × BitVec 64) :=
  s.flaws.foldl (fun (acc : State × Option (BitVec 32 × BitVec 64)) x =>
    match x with
    | .reg w code _ =>
      match (if s.belongs gid w then s.thread? w else none) with
      | none => acc
      | some t =>
        let (s, bad) := acc.1.readReg w t code
        (s, if bad && acc.2.isNone then some (0x0800, BitVec.ofNat 64 code) else acc.2)
    | .scratch word _ =>
      let lo := spBaseKey g.core + g.spBase
      if wordIn lo g.spBytes word then
        let (s, bad) := acc.1.readSpWord g.victim word
        (s, if bad && acc.2.isNone then some (0x0801, BitVec.ofNat 64 (4 * word - lo)) else acc.2)
      else acc
    | _ => acc) (s, none)

/-- An error that the save routine has found unwinds the group's innermost region, or kills the group (R331, R334, R338). -/
def State.saveError (s : State) (gid : Nat) (g : Group) (cause : BitVec 32) (addr : BitVec 64) : State :=
  match g.regions with
  | r :: _ => s.unwind gid g r cause addr
  | [] => s.killGroup gid

/-- The save routine reads what it will write, group by group (R338 step 6). Answers whether a group was killed. -/
def State.readImages (s : State) : List (Nat × Group) → State × Bool
  | [] => (s, false)
  | (gid, g) :: r =>
    match s.imageError gid g with
    | (s, some (c, a)) =>
      let (t, k) := State.readImages (s.saveError gid g c a) r
      (t, k || g.regions.isEmpty)
    | (s, none) => State.readImages s r

/-- Write the images of quiet groups, once the pool has room for them all; an error that kills one lets the others be saved later (R338,
R340). -/
def State.saveAll (s : State) (gid : Nat) (set : List (Nat × Group)) : State :=
  match s.saveAreas set s.areasTaken with
  | none => s.plan (s.clock + 64) (.groupSave gid)
  | some areas =>
    match s.readImages set with
    | (s, true) => set.foldl (fun s e => s.plan (s.clock + 64) (.groupSave e.1)) s
    | (s, false) =>
      let s := areas.foldl (fun s e => s.saveGroup e.1 e.2.1 e.2.2) s
      (s.wakeAll fun _ t => decide (t.status = .waiting .scoreboard)).askPlacement

/-- Must the transfers of the images of a set wait for a sub-bus that is out of use (R404, R414)? -/
def State.imageWaits (s : State) (set : List (Nat × Group)) : Bool :=
  !s.fleet.subBusy.isEmpty && match s.saveAreas set s.areasTaken with
    | none => false
    | some as => as.any fun a => (List.range ((a.2.2 + 31) / 32)).any fun k => s.subBusOut { key := a.2.1 + 32 * k, slot := some 0 }

/-- The rest of a save whose groups have stopped issuing: what they have issued completes first (R338 steps 2 to 7). -/
def State.goOnSave (s : State) (gid : Nat) (set : List (Nat × Group)) : State :=
  let s := set.foldl (fun s e => s.flushCore e.1 e.2.core) s
  if set.any fun e => s.saveWaits e.1 e.2 then s.plan (s.clock + 64) (.groupSave gid)
  else
    let s := set.foldl (fun s e => s.finishCopies e.1) s
    if (set.any fun e => s.copiesRun e.1) || s.imageWaits set then s.plan (s.clock + 64) (.groupSave gid) else s.saveAll gid set

/-- `GROUP_SAVE` (R337, R338): the group, with its sharing set, stops issuing and is saved; while something of it has to complete first, or an
unwind has not ended (R336), the save goes on 64 clocks later. -/
def execGroupSave (gid : Nat) (s : State) : Out :=
  match s.group? gid with
  | none => .next s
  | some g =>
    let set := s.saveSet gid g
    if g.ending then .next s
    else if set.any fun e => e.2.unwinding.isSome then .next (s.plan (s.clock + 64) (.groupSave gid))
    else .next ((s.stopForSave set).goOnSave gid set)

/-! ## Restoring (R341 to R344) -/

/-- A saved thread at its new slot; a handler's is its origin's (R327). -/
def movedThread (slots : List (Nat × Nat)) (lanes : List Nat) (clock : Nat) (w : Who) (t : Thread) : Thread :=
  match (match w with | .handler _ _ => t.origin.getD w | x => x) with
  | .lane _ tid =>
    match (lanes.zip slots).find? (fun e => decide (e.1 = tid)) with
    | some (_, _, n) => { t with slot := n, readySince := clock }
    | none => { t with readySince := clock }
  | _ => { t with readySince := clock }

/-- %tid of each lane that the group's slots are for, in the order of its lanes. -/
def SavedGroup.tids (v : SavedGroup) : List Nat :=
  if v.group.query.isSome then List.range v.group.reserved.length
  else sortNats (v.threads.filterMap fun e => match e.1 with | .lane _ t => some t | _ => none)

/-- Put a group's threads back; handler threads take the lowest free slots of the new core's pool (R345). Answers the new names of the
handlers. -/
def State.putThreads (s : State) (core : Nat) (f : Who → Thread → Thread) : KV Who Thread → State × List (Who × Who)
  | [] => (s, [])
  | (w, t) :: r =>
    let dest : Who := match w with | .handler _ _ => .handler core ((lowestFree (s.poolTaken core) 0 128).getD 0) | x => x
    let (s, l) := State.putThreads (s.setThread dest (f w t)) core f r
    (s, (w, dest) :: l)

/-- The scratchpad, its tags and bindings, the estate table with what was conveyed meanwhile, and the halves (R342 steps 1 to 4). The bindings
are set down though the core's records then pass 256, on which R65 and R342 are silent (DESIGN CHOICE, log entry 73). -/
def State.restoreBody (s : State) (gid : Nat) (v : SavedGroup) (x : Spot) : State :=
  let g := v.group
  let lo := spBaseKey x.core + x.base
  let g' : Group := { g with
    core := x.core, place := x.place, spBase := x.base, reserved := if g.query.isSome then x.slots else [], estate := v.table, saving := false }
  let s := (s.readArea g.part v.area v.areaBytes).copyStore v.area lo g.spBytes
  let s : State := { s with saved := KV.del s.saved gid, groups := KV.put s.groups gid g' }
  let s := s.updCore x.core fun c => { c with binds := c.binds ++ v.binds.map (bindIn lo) }
  v.halves.foldl (fun s (h : SavedHalf) => s.updHalf x.core h.half fun y =>
    { y with
      holder := some gid, acc := h.acc, cr := h.cr, cc := h.cc, prog0 := h.prog0, prog1 := h.prog1, store := h.store, fills := h.fills
      queue := h.queue, run := none }) s

/-- How much of a fill-log record is replayed: all of one whose command has ended, what had been filled of one that goes on with the rest
itself, and nothing of one that is still to start (R268, R338, R342). -/
def SavedGroup.replayed (v : SavedGroup) (r : FillRec) : Option (Option Nat) :=
  match KV.at? v.cmds r.cid with
  | none => some none
  | some c => if 0 < c.progress then some (some c.progress) else none

/-- The fill-log records of a group that are replayed, in acceptance order over both halves (R268). -/
def SavedGroup.replays (v : SavedGroup) : List FillRec :=
  sortBy FillRec.cid (eachOnce ((v.halves.flatMap SavedHalf.fills).filter fun r => (v.replayed r).isSome))

/-- Is a queued command the replay of a fill-log record? -/
def State.isReplay (s : State) (m : MxCmd) : Bool :=
  match m.kind with
  | .fill c _ _ => (match KV.at? s.cmds c with | some x => x.silent | none => false)
  | _ => false

/-- Replay a fill-log record as a fill that fills no completion word, ahead of the recorded commands (R268, R342 step 4). -/
def State.replayFill (s : State) (gid : Nat) (g : Group) (r : FillRec) (limit : Option Nat) : State :=
  let (cid, s) := s.fresh
  let c : Cmd :=
    { kind := .cpb, gid := gid, part := r.part, core := g.core, desc := r.desc, acq := true, rel := false, scope := 6, progress := 0
      failed := [], cause := 0, aborted := none, refused := [], paid := 0, waitsRoom := false, held := false, started := true, silent := true
      limit := limit }
  let (l, n) := fillRange r.desc
  let m : MxCmd := { cid := cid, gid := gid, span := fillSpanOf r.desc, kind := .fill cid l n, started := true }
  let s : State := { s with cmds := KV.put s.cmds cid c }
  let s := (fillHalves r.desc).foldl (fun s h => s.updHalf g.core h fun x =>
    { x with queue := x.queue.takeWhile s.isReplay ++ [m] ++ x.queue.dropWhile s.isReplay }) s
  s.completeCmd cid

/-- Put a recorded command back at its progress offset, with its scoreboard entry (R342 step 5, R344, R347). It takes the entry though 64 of
the core are live, on which R53 and R344 are silent (DESIGN CHOICE, log entry 72). -/
def State.restoreCmd (s : State) (g : Group) (cid : Nat) (c : Cmd) : State :=
  let c : Cmd := { c with core := g.core, held := false, waitsRoom := false, paid := 0 }
  let s : State := { s with cmds := KV.put s.cmds cid c }
  match c.kind with
  | .cpb => if c.started then s.raise (.engineCommandCompletion cid) else s
  | _ =>
    let s := s.sbTake cid (s.sbRange g (bits (c.dw 2) 35 34) (c.dw 0) c.bytes)
    if c.toQueue then s.raise (.copyQueueWrite cid) else s.raise (.engineCommandCompletion cid)

/-- A recorded `coll` rejoins at its match position (R344). -/
def State.rejoinColl (s : State) (c : Coll) (m : CollMember) : State :=
  let (cid, s) := s.enterColl c m
  let gone := match s.launch? c.lid with | some l => l.dead.any fun grp => decide (l.instOf c.level grp = c.inst) | none => false
  match KV.at? s.colls cid with
  | none => s
  | some x =>
    if gone then
      let (s, keys) := s.failColl cid x 0x060E
      s.serve keys
    else if x.size ≤ x.members.length then s.raise (.collectiveRun cid)
    else s

/-- The new key of a word that may lie in a moved allocation. -/
def movedKey (moves : List (Nat × Nat × Nat)) (k : Nat) : Nat :=
  match moves.find? (fun m => wordIn m.1 m.2.2 k) with
  | some (lo, lo', _) => k - lo / 4 + lo' / 4
  | none => k

/-- A wait under the present names. -/
def movedWait (moves : List (Nat × Nat × Nat)) (names : List (Who × Who)) (x : Waiter) : Waiter :=
  { x with
    key := if x.keySlot.isNone then movedKey moves x.key else x.key
    who := match names.find? (fun e => decide (e.1 = x.who)) with | some e => e.2 | none => x.who }

/-- Threads of a restored group run on: open entries that are executed again, those that faulted at a fetch, and trapped threads that
wait for a pool slot (R342 step 9, R343, R345). `old` is the name that the image gives the thread. -/
def State.resumeThread (s : State) (v : SavedGroup) (core : Nat) (old w : Who) (t : Thread) : State :=
  let fetch := v.faults.any fun r => match r with | .fetch x _ => decide (x = old) | _ => false
  let s := if fetch then s.updThread w fun t => t.wake s.clock else s
  let s : State := { s with turns := s.turns ++ (t.wins.filter fun o => decide (o.state = .redo)).map fun o => Turn.redo w o.oid }
  let handled := s.threads.any fun e => decide (e.2.origin = some w)
  if t.trapRec.isSome && !handled then (s.queueTrap core w).plan (s.clock + 12) (.handlerStart core) else s

/-- Put one group back on its spot, all but what needs its whole set. Answers the new names of its threads. -/
def State.restoreOne (s : State) (gid : Nat) (v : SavedGroup) (x : Spot) (insts : KV (Nat × Nat) Nat) : State × List (Who × Who) :=
  let s := s.restoreBody gid v x
  let s := s.updLaunch v.group.lid fun l => { l with insts := insts, status := l.status ||| 16 }
  s.putThreads x.core (movedThread x.slots v.tids s.clock) v.threads

/-- A recorded wait is sent to its word's home again, where a `.gl` address is translated anew; none where it finds no word any longer: the
page is not there, or the rank has gone (R37, R342). -/
def State.resent (s : State) (moves : List (Nat × Nat × Nat)) (names : List (Who × Who)) (x : Waiter) : Option Waiter :=
  let y := movedWait moves names x
  if x.keySlot.isNone then (if x.gs && !moves.any fun m => wordIn m.1 m.2.2 x.key then none else some y)
  else
    let part := match s.thread? y.who with | some t => s.partOf t | none => 0
    let want := match x.act with | .ldwf _ _ => Want.rd | _ => Want.wr
    match s.gl part x.ea want with
    | .ok p => if classTags p.cls then some { y with key := p.loc.key / 4, keySlot := p.loc.slot, notify := p.cls == 4 } else none
    | .error _ => none

/-- A recorded wait joins its word's list again; one that finds no word is executed again, and faults or traps there (R342, R343). -/
def State.rewait (s : State) (moves : List (Nat × Nat × Nat)) (names : List (Who × Who)) (x : Waiter) : State :=
  match s.resent moves names x with
  | some y => ({ s with waits := s.waits ++ [y] } : State).serve [y.key]
  | none =>
    let w := (movedWait moves names x).who
    match s.thread? w with
    | some t => (s.unreserveEntry t.gid x.act).runAgain w t x.oid
    | none => s

/-- The number of a restored thread among the waits of its group (R342 step 7). -/
def State.rewaitRank (s : State) (names : List (Who × Who)) (x : Waiter) : Nat := s.threadNumber (movedWait [] names x).who

/-- The steps of a restore that follow once every member of the set stands: fills, commands, collectives, waits, threads (R342 steps 4
to 9). -/
def State.restoreRest (s : State) (moves : List (Nat × Nat × Nat)) (gid : Nat) (v : SavedGroup) (names : List (Who × Who)) : State :=
  match s.group? gid with
  | none => s
  | some g =>
    let s := v.replays.foldl (fun s r => s.replayFill gid g r ((v.replayed r).getD none)) s
    let s := v.cmds.foldl (fun s e => s.restoreCmd g e.1 e.2) s
    let s := v.colls.foldl (fun s e => s.rejoinColl e.1 e.2) s
    let s := (sortBy (s.rewaitRank names) v.waits).foldl (fun s x => s.rewait moves names x) s
    let s := names.foldl (fun s e => match s.thread? e.2 with | some t => s.resumeThread v g.core e.1 e.2 t | none => s) s
    s.askEnd gid

/-- Must the transfers of the images of groups that return wait for a sub-bus (R404)? -/
def State.returnWaits (s : State) (l : List SavedGroup) : Bool :=
  !s.fleet.subBusy.isEmpty && l.any fun v => (List.range ((v.areaBytes + 31) / 32)).any fun k => s.subBusOut { key := v.area + 32 * k, slot := some 0 }

/-- `GROUP_RESTORE` (R341, R342, R358): a saved group returns with its sharing set when every member has a spot that nothing ahead of it in the
launch order waits for. The members are restored in ascending %grp, and so their recorded waits join a word's list: R342 orders the waits of one
group only (DESIGN CHOICE, log entry 88). -/
def execGroupRestore (gid : Nat) (s : State) : Out :=
  match KV.at? s.saved gid with
  | none => .next s
  | some v =>
    match s.returnSpots gid v (s.keptFrom gid) with
    | none => .next s
    | some l =>
      if s.returnWaits (l.map fun e => e.2.1) then .next (s.plan (s.clock + 64) (.groupRestore gid))
      else
        let (s, done) := l.foldl (fun (acc : State × List (Nat × SavedGroup × List (Who × Who))) e =>
          let (s, names) := (acc.1.takeCore e.2.2.1.core).restoreOne e.1 e.2.1 e.2.2.1 e.2.2.2
          (s, acc.2 ++ [(e.1, e.2.1, names)])) (s, [])
        let moves := l.map fun e =>
          (spBaseKey e.2.1.group.core + e.2.1.group.spBase, spBaseKey e.2.2.1.core + e.2.2.1.base, e.2.1.group.spBytes)
        let s := done.foldl (fun s e => s.restoreRest moves e.1 e.2.1 e.2.2) s
        .next s.askPlacement

end Sys2Proof.Machine
end

