-- ==== Sys2Proof/Machine/Boundary.lean ====
section
/-! DEFINITION. A partition's cores and array halves (R253, R254, R381, R383, R384): they change hands once the groups that stand on
them have been saved, and are zeroed on the way. -/

namespace Sys2Proof.Machine

/-- Vacate cores of any die, each die's in one pre-emption (R337, R360). -/
def State.vacate (s : State) (cores : List Nat) : State :=
  (List.range 4).foldl (fun s d => s.vacateCores (s.localDie d) (cores.filter fun c => decide (c / Config.coresPerDie = d))) s

/-- Cores that join or leave a partition under the boundary asked for. -/
def Part.moved (p : Part) (cores : List Nat) : List Nat :=
  (cores.filter fun c => !p.cores.contains c) ++ p.cores.filter fun c => !cores.contains c

/-- Halves that join a partition under the boundary asked for. -/
def State.halvesIn (s : State) (part : Nat) (halves : List (Nat × Nat)) : List (Nat × Nat) :=
  halves.filter fun h => decide ((s.half h.1 h.2).part ≠ some part)

/-- Halves that leave it. -/
def State.halvesOut (s : State) (part : Nat) (halves : List (Nat × Nat)) : List (Nat × Nat) :=
  (s.halves.filter fun e => decide (e.2.part = some part) && !halves.contains e.1).map (·.1)

/-- Cores on which groups stand in the way of a boundary. -/
def State.inTheWay (s : State) (part : Nat) (p : Part) (cores : List Nat) (halves : List (Nat × Nat)) : List Nat :=
  let hs := s.halvesIn part halves ++ s.halvesOut part halves
  let held := hs.filter fun h => (s.half h.1 h.2).holder.isSome || !(s.half h.1 h.2).queue.isEmpty
  let on := (p.moved cores).filter fun c => !(s.groupsOn c).isEmpty || s.estateBusy c
  (List.range Config.cores).filter fun c => on.contains c || held.any fun h => decide (h.1 = c)

/-- Zero a core for its new partition: scratchpad, tags, buffers and bindings; no group stands there, so that no thread of it has a
register or a pool slot, and no storage error is left in what is zeroed (R384). -/
def State.zeroCore (s : State) (core : Nat) : State :=
  let lo := spBaseKey core
  let s : State := { s with mem := Sparse.clear s.mem lo (lo + 2 ^ 20), tags := Sparse.clear s.tags (lo / 4) (lo / 4 + 2 ^ 18) }
  s.updCore core fun c => { c with sb := [], atom := [], binds := [], trapQueue := [] }

/-- Give a partition its cores: those that are new are zeroed, and no other partition keeps them (R381, R384). -/
def State.giveCores (s : State) (part : Nat) (cores : List Nat) : State :=
  let fresh := match KV.at? s.parts part with | some p => cores.filter fun c => !p.cores.contains c | none => cores
  let s := fresh.foldl (fun s c => s.zeroCore c) s
  { s with parts := s.parts.map fun (e : Nat × Part) =>
      if e.1 = part then (e.1, { e.2 with cores := cores }) else (e.1, { e.2 with cores := e.2.cores.filter fun c => !cores.contains c }) }

/-- Give a partition its halves: those that are new are zeroed (R254). -/
def State.giveHalves (s : State) (part : Nat) (halves : List (Nat × Nat)) : State :=
  let s := (s.halvesOut part halves).foldl (fun s h => s.updHalf h.1 h.2 fun x => { x with part := none }) s
  (s.halvesIn part halves).foldl (fun s h => s.updHalf h.1 h.2 fun _ => { Half.reset with part := some part }) s

/-- Is the saving of every group on a core already under way? -/
def State.saving (s : State) (core : Nat) : Bool :=
  (s.groupsOn core).all fun e =>
    e.2.saving || s.turns.contains (.event (.groupSave e.1)) || s.sched.any fun x => decide (x.2 = .event (.groupSave e.1))

/-- Bring a boundary that has been asked for into force, or vacate what stands in its way (R383). -/
def State.settleBoundary (s : State) (part : Nat) (p : Part) : State :=
  match p.want with
  | none => s
  | some (cores, halves) =>
    let block := s.inTheWay part p cores halves
    if block.isEmpty then
      (((s.giveCores part cores).giveHalves part halves).updPart part fun p => { p with want := none }).askPlacement
    else s.vacate (block.filter fun c => !s.saving c && !(s.die (s.dieOf c)).idle)

/-- The same for every partition. -/
def State.settleBoundaries (s : State) : State := s.parts.foldl (fun s e => s.settleBoundary e.1 e.2) s

end Sys2Proof.Machine
end

