-- ==== Sys2Proof/Machine/Masters.lean ====
section
/-! DEFINITION. The procedures that masters call (R374 to R393): replies and owners, graph images, mapping and migration of pages, reads
and writes, notify fills, logs, images and attestation. -/

namespace Sys2Proof.Machine

/-! ## Replies and owners (R374, R375, R378) -/

/-- The header of a reply: the request's with KIND 1, the payload's LEN and a status (R374). -/
def replyHdr (h : MsgHdr) (status : Nat) (len : Nat) : MsgHdr :=
  { h with magic := 0x4852, version := 1, kind := 1, len := BitVec.ofNat 16 len, res10 := 0, res18 := 0, status := BitVec.ofNat 32 status }

/-- Send the reply of a request, with a status of R375 and a payload. -/
def State.reply (s : State) (h : MsgHdr) (status : Nat) (payload : List Byte) : State :=
  { s with replies := s.replies ++ [{ hdr := replyHdr h status payload.length, payload := payload }] }

/-- Does a header keep to R374 as a request of a procedure: magic, version, KIND 0, PROC, LEN, STATUS 0 and reserved fields 0? -/
def headerOk (h : MsgHdr) (proc : Nat) : Bool :=
  decide (h.magic = 0x4852) && decide (h.version = 1) && decide (h.kind = 0) && decide (h.proc.toNat = proc) && decide (h.len.toNat ≤ 8448)
    && decide (h.res10 = 0) && decide (h.res18 = 0) && decide (h.status = 0)

/-- Is a request addressed to the package? -/
def isPackage (h : MsgHdr) : Bool := decide (h.part = 0xFF)

/-- Does PART name the package or a partition (R375)? -/
def State.partNamed (s : State) (h : MsgHdr) : Bool := isPackage h || (KV.at? s.parts h.part.toNat).isSome

/-- The owner of what PART names, with its lease. -/
def State.ownerOf (s : State) (h : MsgHdr) : Option (BitVec 64) × BitVec 64 × BitVec 32 :=
  if isPackage h then (s.fleet.owner, s.fleet.leaseEnd, s.fleet.leaseMs)
  else match KV.at? s.parts h.part.toNat with | some p => (p.owner, p.leaseEnd, p.leaseMs) | none => (none, 0, 0)

/-- Set the owner of what PART names. -/
def State.setOwner (s : State) (h : MsgHdr) (owner : Option (BitVec 64)) (lease : BitVec 64) (ms : BitVec 32) : State :=
  if isPackage h then { s with fleet := { s.fleet with owner := owner, leaseEnd := lease, leaseMs := ms } }
  else s.updPart h.part.toNat fun p => { p with owner := owner, leaseEnd := lease, leaseMs := ms }

/-- The end of a lease of some milliseconds from now. -/
def State.leaseFrom (s : State) (ms : BitVec 32) : BitVec 64 := s.time + BitVec.ofNat 64 (ms.toNat * 1000000)

/-- Is the caller the owner? -/
def State.isOwner (s : State) (h : MsgHdr) : Bool := decide ((s.ownerOf h).1 = some h.master)

/-- The owner's request renews its lease, however it is answered (R378, R379). -/
def State.renew (s : State) (h : MsgHdr) : State :=
  let (o, _, ms) := s.ownerOf h
  if s.isOwner h then s.setOwner h o (s.leaseFrom ms) ms else s

/-! ## Readiness (R380) -/

/-- Is the server of a PART ready: a root monitor core for the package, else the partition's service core (R376, R380)? -/
def State.serverReady (s : State) (h : MsgHdr) : Bool :=
  if isPackage h then s.ready 686 || s.ready 687
  else match KV.at? s.parts h.part.toNat with | some p => s.ready (622 + p.serviceCore) | none => false

/-- Is a die 0 to 3 ready? -/
def State.dieReady (s : State) (die : Nat) : Bool := s.ready die

/-- Does one of a die's launch scheduler cores work? -/
def State.schedReady (s : State) (die : Nat) : Bool := s.ready (688 + 2 * die) || s.ready (689 + 2 * die)

/-- May a place in DRAM be reached: its die and the channel of its frame (R380, R403)? -/
def State.placeReady (s : State) (key : Nat) : Bool :=
  let die := key / 2 ^ 37 % 4
  s.dieReady die && s.ready (468 + 32 * die + channelOf (key % 2 ^ 37))

/-- May every frame of a page be reached? -/
def State.pageReady (s : State) (key size : Nat) : Bool := (List.range (min 32 (pageBytes size / 4096))).all fun i => s.placeReady (key + 4096 * i)

/-- The header of a procedure call. -/
def callHdr : Instr → Option MsgHdr
  | .own h _ => some h
  | .yieldProc h _ => some h
  | .status h => some h
  | .graphLoad h _ _ _ _ => some h
  | .kickProc h _ _ _ => some h
  | .map h _ _ _ _ _ _ => some h
  | .unmap h _ => some h
  | .pageGive h _ => some h
  | .pageTake h _ => some h
  | .write h _ _ => some h
  | .read h _ _ => some h
  | .notify h _ _ => some h
  | .logRead h _ _ => some h
  | .update h _ => some h
  | .attest h _ => some h
  | .otherProcedure h => some h
  | _ => none

/-- The clock in which an earlier request of the same session to the same PART, which waits for a sub-bus, is tried again: this one waits behind it
until then (R377, R404). -/
def State.callDue (s : State) (h : MsgHdr) : Option Nat :=
  (s.sched.find? fun e =>
    match e.2 with
    | .event i => (match callHdr i with | some o => decide (o.master = h.master) && decide (o.part = h.part) | none => false)
    | _ => false).map (·.1)

/-- Serve a request in the arrival order of its session (R377). -/
def State.inTurn (s : State) (h : MsgHdr) (k : State → State) : State :=
  match s.callDue h with
  | some d => { s with sched := s.sched ++ [(d, s.turn)] }
  | none => k s

/-- Serve a request (R374 to R376): the owner's renews its lease; a header that breaks R374 gets BADARG, a PART that names nothing NOPART, a
procedure that needs the owner NOTOWNER, and a server out of service NOTREADY. `package` says which server has the procedure: `some true`
the root monitor, `some false` a service core. A message of KIND 1 is no request (DESIGN CHOICE, log entry 77). The requests of a session to one PART
are performed in order (R377). -/
def State.procedure (s : State) (h : MsgHdr) (proc : Nat) (owner : Bool) (package : Option Bool) (k : State → State) : Out :=
  if h.kind = 1 then .next s
  else .next (s.inTurn h fun s =>
    let s := s.renew h
    if !headerOk h proc then s.reply h 3 []
    else if !s.partNamed h then s.reply h 4 []
    else if package = some false ∧ isPackage h then s.reply h 4 []
    else if package = some true ∧ !isPackage h then s.reply h 3 []
    else if owner && !s.isOwner h then s.reply h 1 []
    else if !s.serverReady h then s.reply h 8 []
    else k s)

/-- Does another OWN for the same PART, of a lower MASTERID, arrive in the same clock (R378)? -/
def State.lowerOwn (s : State) (h : MsgHdr) : Bool :=
  s.turns.any fun t =>
    match t with
    | .event (.own o ms) => decide (o.part = h.part) && headerOk o 1 && decide (o.master < h.master) && decide (1 ≤ ms.toNat) && decide (ms.toNat ≤ 60000)
    | _ => false

/-- `OWN` (R378): granted when there is no owner, to the owner, or when the owner's lease has ended. -/
def execOwn (h : MsgHdr) (lease : BitVec 32) (s : State) : Out :=
  s.procedure h 1 false none fun s =>
    let (o, fin, _) := s.ownerOf h
    if lease.toNat < 1 ∨ 60000 < lease.toNat then s.reply h 3 []
    else
      let grant : State := (s.setOwner h (some h.master) (s.leaseFrom lease) lease).reply h 0 (leBytes 8 (s.leaseFrom lease).toNat)
      match o with
      | some m => if m = h.master then grant else if s.time < fin ∨ s.lowerOwn h then s.reply h 2 [] else grant
      | none => if s.lowerOwn h then s.reply h 2 [] else grant

/-- `YIELD` (R378): ownership passes with the present lease end, or is released. -/
def execYieldProc (h : MsgHdr) (newOwner : BitVec 64) (s : State) : Out :=
  s.procedure h 2 true none fun s =>
    let (_, fin, ms) := s.ownerOf h
    (if newOwner = 0 then s.setOwner h none 0 0 else s.setOwner h (some newOwner) fin ms).reply h 0 []

/-- A map of 8,192 key slots. -/
def slotMap (l : List Nat) : List Byte := leBytes 1024 (l.foldl (fun n k => n ||| 2 ^ k) 0)

/-- `STATUS` (R376): the readiness map, the owner of each partition, the time-lock flag, and a partition's key slots. -/
def execStatus (h : MsgHdr) (s : State) : Out :=
  s.procedure h 3 false none fun s =>
    let owners := (List.range 16).flatMap fun p =>
      leBytes 8 (match KV.at? s.parts p with | some x => (x.owner.getD 0).toNat | none => 0)
    let keys := match KV.at? s.parts h.part.toNat with | some p => slotMap p.keysDev ++ slotMap p.keysHost | none => []
    s.reply h 0 (leBytes 128 s.fleet.ready.toNat ++ owners ++ leBytes 8 (if s.timeLocked then 1 else 0) ++ if isPackage h then [] else keys)

/-! ## Graphs (R349, R350, R376) -/

/-- A word of 8 bytes as a partition reads it. -/
def State.imageWord (s : State) (part : Nat) (va : BitVec 64) (ofs : Nat) : Option Nat :=
  match s.numberAt part (va + BitVec.ofNat 64 ofs) 8 with
  | .ok n => some n
  | .error _ => none

/-- What an image comes to. -/
inductive Loaded where
  | ok (g : Graph)
  | refused
  | fault
  deriving Repr

/-- The entries `0 .. n − 1` of a table, when every one is well formed. -/
def everyEntry {α : Type} (f : Nat → Option α) (n : Nat) : Option (List α) :=
  (List.range n).foldr (fun i r => match f i, r with | some x, some l => some (x :: l) | _, _ => none) (some [])

/-- The predecessors that the edge list gives a node: 16-bit numbers below its own. -/
def State.edgesOf (s : State) (part : Nat) (va : BitVec 64) (edges len node first n : Nat) : Option (List Nat) :=
  everyEntry (fun i =>
    let o := edges + 2 * (first + i)
    if len < o + 2 then none
    else
      match s.imageWord part va (o / 8 * 8) with
      | none => none
      | some w => let p := w / 2 ^ (8 * (o % 8)) % 2 ^ 16; if p < node then some p else none) n

/-- A node of an image (R350), with the DONEWORD of its record. -/
def State.nodeOf (s : State) (part : Nat) (va : BitVec 64) (nodes edges len n : Nat) : Option GraphNode :=
  match s.imageWord part va (nodes + 32 * n), s.imageWord part va (nodes + 32 * n + 8), s.imageWord part va (nodes + 32 * n + 16),
      s.imageWord part va (nodes + 32 * n + 24) with
  | some rec_, some w, some 0, some 0 =>
    if natBits w 63 32 ≠ 0 ∨ 1023 < natBits w 31 16 then none
    else
      match s.edgesOf part va edges len n (natBits w 15 0) (natBits w 31 16), s.imageWord part (BitVec.ofNat 64 rec_) 0x20 with
      | some l, some done => some { record := BitVec.ofNat 64 rec_, done := BitVec.ofNat 64 done, preds := l }
      | _, _ => none
  | _, _, _, _ => none

/-- A patch point of an image (R350): its offset is a multiple of its width, below the node's parameters. -/
def State.patchOf (s : State) (part : Nat) (va : BitVec 64) (at_ : Nat) (nodes : List GraphNode) (p : Nat) : Option Patch :=
  match s.imageWord part va (at_ + 16 * p), s.imageWord part va (at_ + 16 * p + 8) with
  | some w, some 0 =>
    match nodes[natBits w 63 48]? with
    | none => none
    | some n =>
      match s.imageWord part n.record 0x18 with
      | none => none
      | some r =>
        let width := if natBits w 45 44 = 0 then 4 else 8
        if natBits w 47 46 ≠ 0 ∨ 1 < natBits w 45 44 ∨ natBits w 31 0 ≠ 0 ∨ natBits w 43 32 % width ≠ 0 ∨ 8 * natBits r 9 0 ≤ natBits w 43 32 then none
        else some { node := natBits w 63 48, width := width, offset := natBits w 43 32 }
  | _, _ => none

/-- A graph from its image, checked (R349, R350); a page of the image that does not translate is FAULT. -/
def State.loadImage (s : State) (part : Nat) (va : BitVec 64) (len : Nat) : Loaded :=
  if (List.range ((va.toNat % 65536 + len + 65535) / 65536)).any fun i =>
      (s.imageWord part (BitVec.ofNat 64 (va.toNat / 65536 * 65536)) (65536 * i)).isNone then .fault
  else if va.toNat % 64 ≠ 0 ∨ len < 64 then .refused
  else
    match everyEntry (fun i => s.imageWord part va (8 * i)) 8 with
    | some [w0, gdone, nodes, edges, patches, 0, 0, 0] =>
      let nn := natBits w0 31 16
      let np := natBits w0 15 0
      if natBits w0 63 48 ≠ 0x4752 ∨ natBits w0 47 40 ≠ 1 ∨ natBits w0 39 32 ≠ 0 ∨ nn = 0 ∨ 1024 < nn ∨ 1024 < np
          ∨ !s.taggedWord (BitVec.ofNat 64 gdone) ∨ nodes % 32 ≠ 0 ∨ edges % 2 ≠ 0 ∨ patches % 16 ≠ 0
          ∨ len < nodes + 32 * nn ∨ len < patches + 16 * np then .refused
      else
        match everyEntry (s.nodeOf part va nodes edges len) nn with
        | none => .refused
        | some ns =>
          match everyEntry (s.patchOf part va patches ns) np with
          | none => .refused
          | some ps => .ok { part := part, gdone := BitVec.ofNat 64 gdone, nodes := ns, patches := ps, running := false, started := [], statuses := [] }
    | _ => .refused

/-- The ranges that GRAPH.LOAD reads: the image, and of each node's record what R350 checks, PARAMLEN and DONEWORD. -/
def State.imageReads (s : State) (part : Nat) (va len : BitVec 64) : List (BitVec 64 × Nat) :=
  let word (ofs : Nat) : Nat := (s.imageWord part va ofs).getD 0
  let nodes := if len.toNat < word 16 + 32 * natBits (word 0) 31 16 then 0 else natBits (word 0) 31 16
  (va, len.toNat) :: (List.range nodes).map fun n => (BitVec.ofNat 64 (word (word 16 + 32 * n)) + 0x18, 16)

/-- May every sector of a range be reached, as far as its address translates (R380)? -/
def State.rangeReady (s : State) (part : Nat) (r : BitVec 64 × Nat) : Bool :=
  (rangeSectors r.1 r.2).all fun a => match s.gl part a Want.rd with | .ok p => s.placeReady p.loc.key | .error _ => true

/-- Does a read of a range meet an uncorrectable error (R332)? -/
def State.rangeAborts (s : State) (part : Nat) (r : BitVec 64 × Nat) : Bool :=
  !s.flaws.isEmpty && (rangeSectors r.1 r.2).any fun a => match s.readAt part a 1 with | .error (.trap c) => decide (c = 0x020D) | _ => false

/-- Bind an image that has been read (R350). A number whose graph replays is not bound anew. -/
def State.bindGraph (s : State) (h : MsgHdr) (d graph : Nat) : Loaded → State
  | .fault => s.reply h 7 []
  | .refused => s.reply h 5 []
  | .ok g =>
    if (match s.graph? d graph with | some x => x.running | none => false) then s.reply h 5 []
    else (s.updDie d fun x => { x with graphs := KV.put x.graphs graph g }).reply h 0 []

/-- `GRAPH.LOAD` (R350, R376). A read that an uncorrectable error aborts replies FAULT (R332; DESIGN CHOICE, log entry 77). -/
def execGraphLoad (h : MsgHdr) (die graph : Nat) (va len : BitVec 64) (s : State) : Out :=
  s.procedure h 4 true (some false) fun s =>
    let part := h.part.toNat
    if 3 < die ∨ 4095 < graph then s.reply h 3 []
    else if !s.dieReady die || !s.schedReady die then s.reply h 8 []
    else
      match s.loadImage part va len.toNat with
      | .fault => (s.touchRead part (rangeSectors va len.toNat)).reply h 7 []
      | l =>
        let reads := s.imageReads part va len
        if !reads.all (s.rangeReady part) then s.reply h 8 []
        else if reads.any fun r => s.readOut part r.1 r.2 then s.again
        else
          (reads.foldl (fun s r => s.touchRead part (rangeSectors r.1 r.2)) s).bindGraph h (s.localDie die) graph
            (if reads.any (s.rangeAborts part) then .fault else l)

/-- `KICK` (R351, R352, R376). The die's kick unit takes it, without a scheduler too (R409). -/
def execKickProc (h : MsgHdr) (die graph : Nat) (patch : BitVec 64) (s : State) : Out :=
  s.procedure h 5 true (some false) fun s =>
    if 3 < die ∨ 4095 < graph then s.reply h 3 []
    else if !s.dieReady die then s.reply h 8 []
    else
      let (s, taken) := s.kickWrite (s.localDie die) graph patch
      s.reply h (if taken then 0 else 6) []

/-! ## Mapping (R322, R388) -/

/-- Where the entry of an address is: its DRAM address in the home die and the level, or the directory that is missing. -/
inductive Entry4 where
  | entry (addr level : Nat)
  | missing (addr level : Nat)
  | bad
  deriving DecidableEq, Repr

/-- The walk towards the entry that a page of a level would have; a leaf met on the way is that entry. -/
def State.entryAt (s : State) (die ofs target : Nat) : Nat → List (Nat × Nat × Nat × Nat) → Entry4
  | _, [] => .bad
  | table, (level, shift, width, _) :: r =>
    let at_ := table + 16 * (ofs / 2 ^ shift % 2 ^ width)
    let e := s.pteAt die at_
    if level = target then .entry at_ level
    else if !pteV e then .missing at_ level
    else if pteSize e ≠ 3 then .entry at_ level
    else if dirBad e then .bad
    else State.entryAt s die ofs target (bits e 43 13 * 8192) r

/-- Write a table entry as one indivisible write. -/
def State.setPte (s : State) (die addr : Nat) (e : BitVec 128) : State := s.wrNat { key := dramBase die + addr, slot := none } 16 e.toNat

/-- A new table: 8 KiB of invalid entries in a frame that the root monitor chooses (R320); which frame is a free value. -/
def State.newTable (s : State) (die : Nat) : State × Nat :=
  let (x, s) := s.drawFree
  let addr := x.toNat % (Config.dramBytes / 8192) * 8192
  ({ s with mem := Sparse.clear s.mem (dramBase die + addr) (dramBase die + addr + 8192) }, addr)

/-- Make the directories on the way to a level's entry; at most three are missing. -/
def State.makeTables (s : State) (die ofs target : Nat) : Nat → State
  | 0 => s
  | n + 1 =>
    match s.entryAt die ofs target (s.die die).root.toNat walkLevels with
    | .missing at_ _ =>
      let (s, t) := s.newTable die
      State.makeTables (s.setPte die at_ (BitVec.ofNat 128 (2 ^ 63 + 3 * 2 ^ 44 + t))) die ofs target n
    | _ => s

/-- Must an act on the table entry of an address wait for a sub-bus that an entry of its walk crosses (R404)? -/
def State.tableOut (s : State) (va : BitVec 64) : Bool :=
  !s.fleet.subBusy.isEmpty &&
    (s.walkSectors (homeDie va) (bits va 47 0) (s.die (homeDie va)).root.toNat walkLevels).any fun k => s.subBusOut { key := 32 * k, slot := some 0 }

/-- Must an act on every sector of a page wait for a sub-bus (R403, R404)? -/
def State.pageOut (s : State) (key size : Nat) : Bool :=
  s.fleet.subBusy.any fun e => decide (e.1.1 = key / 2 ^ 37) &&
    (List.range (min 32 (pageBytes size / 4096))).any fun i => decide (channelOf ((key + 4096 * i) % 2 ^ 37) = e.1.2.1)

/-- The number of a page's level in the walk. -/
def levelOfSize (size : Nat) : Nat := 4 - size

/-- Does a table, or one below it, hold a valid leaf? -/
def State.hasLeaf (s : State) (die : Nat) : Nat → List (Nat × Nat × Nat × Nat) → Bool
  | _, [] => false
  | table, (_, _, width, _) :: r =>
    (List.range (2 ^ width)).any fun i =>
      let e := s.pteAt die (table + 16 * i)
      pteV e && (pteSize e ≠ 3 || State.hasLeaf s die (bits e 43 13 * 8192) r)

/-- Invalidate the cached translations of a page, in the caches of every quadrant (R322, R388). -/
def State.invalidate (s : State) (va : BitVec 64) (size : Nat) : State :=
  let lo := bits va 47 0 / pageBytes size * pageBytes size
  let hi := lo + pageBytes size
  s.updDie (homeDie va) fun d =>
    let meets (e : TEntry) : Bool := decide (e.page * pageBytes e.size < hi) && decide (lo < e.page * pageBytes e.size + pageBytes e.size)
    { d with tcache := d.tcache.map fun (c : Nat × List TEntry) => (c.1, c.2.filter fun e => !meets e) }

/-- An entry with a partition's two PERM bits set. -/
def withPerm (e : BitVec 128) (part perm : Nat) : BitVec 128 :=
  (e &&& ~~~((3 : BitVec 128) <<< (64 + 2 * part))) ||| (BitVec.ofNat 128 (perm % 4) <<< (64 + 2 * part))

/-- Does PKG of a VA name this package (R388)? -/
def State.ownVa (s : State) (va : BitVec 64) : Bool := decide (bits va 63 50 = s.fleet.pkg)

/-- The key slots of a partition. -/
def State.keysOf (s : State) (part : Nat) : List Nat := match KV.at? s.parts part with | some p => p.keysDev ++ p.keysHost | none => []

/-- Write an entry for MAP; a page newly of class tagged reads EMPTY in every tag (R47, R390). -/
def State.mapWrite (s : State) (va : BitVec 64) (addr : Nat) (old e : BitVec 128) : State :=
  let s := s.setPte (homeDie va) addr e
  let s :=
    if pteClass e = 3 ∧ (!pteV old ∨ pteClass old ≠ 3) then
      let lo := (dramBase (homeDie va) + ptePfn e * 65536) / 4
      { s with tags := Sparse.clear s.tags lo (lo + pageBytes (pteSize e) / 4) }
    else s
  s.invalidate va (pteSize e)

/-- The entry that MAP creates: OWNER 0, no PERM bits yet. -/
def newPte (pfn : BitVec 28) (size : BitVec 2) (cls : BitVec 3) (key : BitVec 13) : BitVec 128 :=
  BitVec.ofNat 128 (2 ^ 63 + key.toNat * 2 ^ 49 + cls.toNat * 2 ^ 46 + size.toNat * 2 ^ 44 + pfn.toNat * 2 ^ 16)

/-- Do PFN, SIZE, CLASS and KEY of two entries agree? -/
def samePage (a b : BitVec 128) : Bool := decide (bits a 61 16 = bits b 61 16)

/-- MAP at the place of the page's entry (R388). -/
def State.mapAt (s : State) (h : MsgHdr) (va : BitVec 64) (addr level : Nat) (want : BitVec 128) (perm : Nat) : State :=
  let die := homeDie va
  let part := h.part.toNat
  let old := s.pteAt die addr
  let lower := walkLevels.drop level
  if pteV old && decide (pteSize old ≠ 3) then
    let e := withPerm old part perm
    if level ≠ levelOfSize (pteSize want) || !samePage old want || pteMix e then s.reply h 5 []
    else (s.mapWrite va addr old e).reply h 0 []
  else if pteV old && s.hasLeaf die (bits old 43 13 * 8192) lower then s.reply h 5 []
  else (s.mapWrite va addr old (withPerm want part perm)).reply h 0 []

/-- `MAP` (R388). -/
def execMap (h : MsgHdr) (va : BitVec 64) (pfn : BitVec 28) (size : BitVec 2) (cls : BitVec 3) (perm : BitVec 2) (key : BitVec 13)
    (s : State) : Out :=
  s.procedure h 6 true (some false) fun s =>
    let sz := size.toNat
    if !s.ownVa va || decide (sz = 3) || decide (va.toNat % pageBytes sz ≠ 0) || decide (pfn.toNat * 65536 % pageBytes sz ≠ 0)
        || decide (Config.dramBytes < pfn.toNat * 65536 + pageBytes sz) then s.reply h 3 []
    else if !s.dieReady (homeDie va % 4) then s.reply h 8 []
    else if s.tableOut va then s.again
    else if 5 ≤ cls.toNat ∨ !(s.keysOf h.part.toNat).contains key.toNat then s.reply h 5 []
    else
      let die := homeDie va
      let ofs := bits va 47 0
      let t := s.makeTables die ofs (levelOfSize sz) 3
      match t.entryAt die ofs (levelOfSize sz) (t.die die).root.toNat walkLevels with
      | .entry addr level =>
        if !s.placeReady (dramBase die + addr) then s.reply h 8 [] else t.mapAt h va addr level (newPte pfn size cls key) perm.toNat
      | _ => s.reply h 7 []

/-- The place and content of the valid leaf of an address. -/
def State.leafAt (s : State) (va : BitVec 64) : Option (Nat × BitVec 128) :=
  match s.entryAt (homeDie va) (bits va 47 0) 4 (s.die (homeDie va)).root.toNat walkLevels with
  | .entry addr _ =>
    let e := s.pteAt (homeDie va) addr
    if pteV e && decide (pteSize e ≠ 3) then some (addr, e) else none
  | _ => none

/-- `UNMAP` (R388): the partition's PERM bits are cleared, and V with the last. -/
def execUnmap (h : MsgHdr) (va : BitVec 64) (s : State) : Out :=
  s.procedure h 7 true (some false) fun s =>
    if !s.ownVa va || decide (va.toNat % 65536 ≠ 0) then s.reply h 3 []
    else if !s.dieReady (homeDie va % 4) then s.reply h 8 []
    else if s.tableOut va then s.again
    else
      match s.leafAt va with
      | none => s.reply h 0 []
      | some (addr, e) =>
        if !s.placeReady (dramBase (homeDie va) + addr) then s.reply h 8 []
        else if ptePerm e h.part.toNat = 0 then s.reply h 0 []
        else
          let e' := withPerm e h.part.toNat 0
          let e' := if bits e' 95 64 = 0 then e' &&& ~~~((1 : BitVec 128) <<< 63) else e'
          ((s.setPte (homeDie va) addr e').invalidate va (pteSize e)).reply h 0 []

/-! ## Migration (R84, R390) -/

/-- Re-encrypt the sectors of a frame from one key to another: each keeps what it reads as under the old one. -/
def State.recrypt (s : State) (old new : BitVec 13) : Nat → Nat → State
  | _, 0 => s
  | sector, n + 1 =>
    let s := s.rekey sector old
    State.recrypt { s with secKey := Sparse.wr s.secKey sector new } old new (sector + 1) n

/-- One of some key slots; which of several is not fixed (DESIGN CHOICE, log entry 8). -/
def State.someSlot (s : State) : List Nat → Option (Nat × State)
  | [] => none
  | [k] => some (k, s)
  | l => (l[Config.pick s.free % l.length]?).map fun k => (k, { s with free := s.free + 1 })

/-- Change the owner and the key of a page, carrying its data (R84 step 2, R390). -/
def State.migrate (s : State) (h : MsgHdr) (va : BitVec 64) (toHost : Bool) : State :=
  match s.leafAt va with
  | none => s.reply h 7 []
  | some (addr, e) =>
    if !s.placeReady (dramBase (homeDie va) + addr) || !s.pageReady (dramBase (homeDie va) + ptePfn e * 65536) (pteSize e) then s.reply h 8 []
    else if s.tableOut va || s.pageOut (dramBase (homeDie va) + ptePfn e * 65536) (pteSize e) then s.again
    else if ptePerm e h.part.toNat = 0 then s.reply h 7 []
    else if pteHost e = toHost then s.reply h 5 []
    else
      let slots := match KV.at? s.parts h.part.toNat with | some p => if toHost then p.keysHost else p.keysDev | none => []
      match s.someSlot slots with
      | none => s.reply h 5 []
      | some (k, s) =>
        let size := pteSize e
        let s := s.recrypt (pteKey e) (BitVec.ofNat 13 k) ((dramBase (homeDie va) + ptePfn e * 65536) / 32) (pageBytes size / 32)
        let fields : BitVec 128 := (e &&& ~~~((0x7FFE : BitVec 128) <<< 48)) ||| BitVec.ofNat 128 (k % 8192 * 2 ^ 49 + if toHost then 2 ^ 62 else 0)
        ((s.setPte (homeDie va) addr fields).invalidate va size).reply h 0 []

/-- PAGE.GIVE and PAGE.TAKE share their checks of the address (R388). -/
def State.pageProc (s : State) (h : MsgHdr) (proc : Nat) (va : BitVec 64) (toHost : Bool) : Out :=
  s.procedure h proc true (some false) fun s =>
    if !s.ownVa va || decide (va.toNat % 65536 ≠ 0) then s.reply h 3 []
    else if !s.dieReady (homeDie va % 4) then s.reply h 8 []
    else s.migrate h va toHost

/-- `PAGE.GIVE` (R376, R390): a host-owned page becomes the device's. -/
def execPageGive (h : MsgHdr) (va : BitVec 64) (s : State) : Out := s.pageProc h 8 va false
/-- `PAGE.TAKE` (R376, R390): a device-owned page becomes the host's. -/
def execPageTake (h : MsgHdr) (va : BitVec 64) (s : State) : Out := s.pageProc h 9 va true

/-! ## WRITE, READ, NOTIFY (R376, R387) -/

/-- The places of `n` bytes of a partition, when every one may be accessed; a write reaches no notify page. -/
def State.places (s : State) (part : Nat) (w : Want) : BitVec 64 → Nat → Option (List Loc)
  | _, 0 => some []
  | va, n + 1 =>
    match s.gl part va w with
    | .error _ => none
    | .ok p => if w.write && decide (p.cls = 4) then none else (State.places s part w (va + 1) n).map (p.loc :: ·)

/-- Read the sectors of the places of a range for a partition (R332). Answers whether one of the reads aborts. -/
def State.readPlaces (s : State) (part : Nat) (va : BitVec 64) (ls : List Loc) : State × Bool :=
  if s.flaws.isEmpty then (s, false)
  else (eachOnce (ls.map fun l => l.key / 32)).foldl (fun (a : State × Bool) k =>
    let (s, bad) := a.1.readSector part (va + BitVec.ofNat 64 (ls.findIdx fun l => decide (l.key / 32 = k))) k
    (s, a.2 || bad)) (s, false)

/-- `WRITE` (R376); a swapped sub-bus keeps it waiting (R404). -/
def execWrite (h : MsgHdr) (va : BitVec 64) (bytes : List (BitVec 8)) (s : State) : Out :=
  s.procedure h 10 true (some false) fun s =>
    if bytes.isEmpty || decide (8192 < bytes.length) || !s.ownVa va then s.reply h 3 []
    else if s.readOut h.part.toNat va bytes.length then s.again
    else
      match s.places h.part.toNat Want.wr va bytes.length with
      | none => (s.touchRead h.part.toNat (rangeSectors va bytes.length)).reply h 7 []
      | some ls =>
        if ls.all fun l => s.placeReady l.key then ((ls.zip bytes).foldl (fun s e => s.wrByte e.1 0 e.2) s).reply h 0 []
        else s.reply h 8 []

/-- `READ` (R376). A read that aborts on an uncorrectable error replies FAULT (R332; DESIGN CHOICE, log entry 77); a swapped sub-bus keeps it
waiting (R404). -/
def execRead (h : MsgHdr) (va : BitVec 64) (len : Nat) (s : State) : Out :=
  s.procedure h 11 false (some false) fun s =>
    if len = 0 ∨ 8192 < len ∨ !s.ownVa va then s.reply h 3 []
    else if s.readOut h.part.toNat va len then s.again
    else
      let u := s.touchRead h.part.toNat (rangeSectors va len)
      match s.places h.part.toNat Want.rd va len with
      | none => u.reply h 7 []
      | some ls =>
        if !ls.all fun l => s.placeReady l.key then s.reply h 8 []
        else if s.rangeAborts h.part.toNat (va, len) then u.reply h 7 []
        else u.reply h 0 (ls.map fun l => s.rdByte l 0)

/-- The place of a partition's notify register (R387). -/
def State.notifyLoc (s : State) (part index : Nat) : Option Loc :=
  match KV.at? s.parts part with
  | none => none
  | some p =>
    match s.gl part (p.notifyVa + BitVec.ofNat 64 (4 * index)) Want.wr with
    | .ok x => some x.loc
    | .error _ => none

/-- Must a fill of a partition's notify register wait for a sub-bus (R404)? -/
def State.notifyOut (s : State) (part index : Nat) : Bool :=
  match KV.at? s.parts part with
  | none => false
  | some p => s.readOut part (p.notifyVa + BitVec.ofNat 64 (4 * index)) 4

/-- `NOTIFY` (R376, R387); a swapped sub-bus keeps it waiting (R404). -/
def execNotify (h : MsgHdr) (index : Nat) (value : BitVec 32) (s : State) : Out :=
  s.procedure h 12 true (some false) fun s =>
    if 255 < index then s.reply h 3 []
    else if s.notifyOut h.part.toNat index then s.again
    else
      match s.notifyLoc h.part.toNat index with
      | none => s.reply h 7 []
      | some l =>
        if !s.placeReady l.key then s.reply h 8 []
        else let s := s.stf l true value; s.reply h 0 (leBytes 4 (s.rdWord l).toNat)

/-! ## The error log (R393, R405) -/

/-- Where record SEQ of a partition's ring lies, if it is still there (R393). -/
def Part.recordVa (p : Part) (seq : BitVec 32) : Option (BitVec 64) :=
  let age := (p.logSeq - seq).toNat
  if p.logN = 0 ∨ age = 0 ∨ p.logN < age then none else some (p.logVa + BitVec.ofNat 64 (64 * (seq.toNat % p.logN)))

/-- Where the records of a request lie in DRAM: those of a partition's ring that are still there. The package's are the root monitor's. -/
def State.recordVas (s : State) (h : MsgHdr) (seqs : List (BitVec 32)) : List (BitVec 64) :=
  if isPackage h then []
  else match KV.at? s.parts h.part.toNat with | some p => seqs.filterMap p.recordVa | none => []

/-- The bytes of record SEQ of a log, if it is still there: a partition's from its ring, the package's from the root monitor's. -/
def State.logRecord (s : State) (h : MsgHdr) (seq : BitVec 32) : List Byte :=
  if isPackage h then
    match s.logs.find? (fun (r : LogRec) => decide (r.seq = seq)) with
    | some r => logBytes r
    | none => []
  else
    (s.recordVas h [seq]).flatMap fun va =>
      match s.places h.part.toNat Want.rd va 64 with
      | some ls => ls.map fun l => s.rdByte l 0
      | none => []

/-- May the ring of a partition's error log be reached: each frame of it that it has a place for? The package's log is the root monitor's. -/
def State.logReady (s : State) (h : MsgHdr) : Bool :=
  isPackage h || match KV.at? s.parts h.part.toNat with
    | none => true
    | some p => (List.range ((64 * p.logN + 4095) / 4096)).all fun i =>
        match s.gl h.part.toNat (p.logVa + BitVec.ofNat 64 (4096 * i)) Want.rd with | .ok x => s.placeReady x.loc.key | .error _ => true

/-- `LOG.READ` (R376, R393). A read of the ring that aborts on an uncorrectable error replies FAULT (R332; DESIGN CHOICE, log entry 77); a swapped
sub-bus keeps it waiting (R404). -/
def execLogRead (h : MsgHdr) (first : BitVec 32) (count : Nat) (s : State) : Out :=
  s.procedure h 13 false none fun s =>
    let part := h.part.toNat
    let seqs := (List.range count).map fun i => first + BitVec.ofNat 32 i
    let vas := s.recordVas h seqs
    if count = 0 ∨ 128 < count then s.reply h 3 []
    else if !s.logReady h then s.reply h 8 []
    else if vas.any fun a => s.readOut part a 64 then s.again
    else
      let u := vas.foldl (fun s a => s.touchRead part (rangeSectors a 64)) s
      if vas.any fun a => s.rangeAborts part (a, 64) then u.reply h 7 [] else u.reply h 0 (seqs.flatMap (s.logRecord h))

/-! ## UPDATE and ATTEST (R397 to R401, R410) -/

/-- The units of a target class: root monitor cores, service cores, scheduler cores, reeves, DRAM controllers, link controllers, the power
controller. -/
def unitsOf : Nat → Nat
  | 0 => 2
  | 1 => 64
  | 2 => 8
  | 3 => 4
  | 4 => 128
  | 5 => 22
  | _ => 1

/-- Take a new configuration record: it goes to the slot that is not active and is active at once (R396, R398). -/
def Fleet.takeRecord (f : Fleet) (n : ConfigRec) : Fleet :=
  let f := if f.activeSlot = 0 then { f with slot1 := n, activeSlot := 1 } else { f with slot0 := n, activeSlot := 0 }
  if n.clearret then { f with retired := [] } else f

/-- A refused UPDATE: the record of type 0x0051 and the reply. -/
def State.refuseUpdate (s : State) (h : MsgHdr) (i : SignedImage) (reason : Nat) : State :=
  (s.log none 0x0051 0 0 (BitVec.ofNat 64 i.target) i.iver (BitVec.ofNat 64 reason) 0 0).reply h 5 []

/-- Change the images of a target class. -/
def State.updImages (s : State) (target : Nat) (f : Images → Images) : State :=
  { s with fleet := { s.fleet with images := KV.upd s.fleet.images target f } }

/-- Stage a passed image: every unit of the target has it in its standby store and switches at its own quiet point (R401). -/
def State.stage (s : State) (h : MsgHdr) (i : SignedImage) : State :=
  let units := List.range (unitsOf i.target)
  let s := s.updImages i.target fun x => { x with standby := i, switching := units, replyTo := some h }
  units.foldl (fun s u => s.plan (s.clock + 1) (.imageSwitch i.target u)) s

/-- Check an image for a target 0 to 6, and stage it or refuse it (R401). -/
def State.takeImage (s : State) (h : MsgHdr) (i : SignedImage) : State :=
  match imageRefused s.fleet.config i with
  | some c => s.refuseUpdate h i c
  | none => s.stage h i

/-- Check a new configuration record, and take it or refuse it (R398). -/
def State.takeConfig (s : State) (h : MsgHdr) (i : SignedImage) : State :=
  match recordRefusal s.fleet.config i with
  | some c => s.refuseUpdate h i c
  | none => ({ s with fleet := s.fleet.takeRecord i.record } : State).reply h 0 []

/-- Does a switch of a target class still run (R401)? -/
def State.switching (s : State) (target : Nat) : Bool :=
  match KV.at? s.fleet.images target with | some x => !x.switching.isEmpty | none => false

/-- A whole signed image has arrived. One that meets a switch of its target still under way is performed after it (R401). -/
def State.wholeImage (s : State) (h : MsgHdr) (i : SignedImage) : State :=
  if !i.fieldsOk then s.reply h 3 []
  else if i.target = 7 then s.takeConfig h i
  else if s.switching i.target then s.updImages i.target fun x => { x with queued := x.queued ++ [(h, i)] }
  else s.takeImage h i

/-- Keep what has arrived of an image, or nothing any more, under its master and TAG (R400). -/
def State.upload (s : State) (h : MsgHdr) (l : Option (List Byte)) : State :=
  let k := (h.master, h.tag)
  { s with fleet := { s.fleet with uploads :=
      match l with | some l => KV.put s.fleet.uploads k l | none => KV.del s.fleet.uploads k } }

/-- `UPDATE` (R376, R398, R400, R401): a message of at most 8,448 bytes with a signed image, or that goes on with one of the same TAG. A
message after which more must follow is answered OK (DESIGN CHOICE, log entry 78). -/
def execUpdate (h : MsgHdr) (payload : List (BitVec 8)) (s : State) : Out :=
  s.procedure h 14 true (some true) fun s =>
    let had := (KV.at? s.fleet.uploads (h.master, h.tag)).getD []
    let i : SignedImage := { bytes := had ++ payload }
    if payload.isEmpty || decide (payload.length ≠ h.len.toNat) || decide (i.bytes.length < imageHeader) then s.reply h 3 []
    else if i.bytes.length < imageHeader + i.len then (s.upload h (some i.bytes)).reply h 0 []
    else (s.upload h none).wholeImage h i

/-- The report of R410 up to its signature. -/
def State.report410 (s : State) (h : MsgHdr) (nonce : List Byte) : List Byte :=
  let meas := (List.range 7).flatMap fun t =>
    match KV.at? s.fleet.images t with | some x => digestBytes (sha384 x.active.bytes) | none => digestBytes 0
  let kmeas : BitVec 384 := match KV.at? s.parts h.part.toNat with | some p => if isPackage h then 0 else p.kernelMeas | none => 0
  nonce ++ digestBytes (sha384 (ecdsaPublic Config.identitySecret)) ++ leBytes 8 s.time.toNat ++ leBytes 8 s.fleet.config.seq.toNat
    ++ leBytes 8 h.part.toNat ++ leBytes 8 0 ++ meas ++ digestBytes kmeas

/-- `ATTEST` (R410): the report, signed by the identity key over its first 0x200 bytes, and the certificate. -/
def execAttest (h : MsgHdr) (nonce : List (BitVec 8)) (s : State) : Out :=
  s.procedure h 15 false none fun s =>
    if nonce.length ≠ 48 then s.reply h 3 []
    else
      let body := s.report410 h nonce
      let sig := ecdsaSign Config.identitySecret (Config.identityNonce s.free) (sha384 body)
      ({ s with free := s.free + 1 } : State).reply h 0 (body ++ sig ++ leBytes 8 Config.identityCert.length ++ Config.identityCert)

/-- A request with any other PROC gets BADARG; a message of KIND 1 and a record frame get no reply (R376). -/
def execOtherProcedure (h : MsgHdr) (s : State) : Out :=
  if h.kind = 1 ∨ h.proc = 0x100 then .next s else .next (s.inTurn h fun s => (s.renew h).reply h 3 [])

end Sys2Proof.Machine
end

