-- ==== Sys2Proof/Machine/Network.lean ====
section
/-! DEFINITION. The on-die network: routes (R368, R369), the gust allowance (R371), send allowances and the reset of a hamlet (R372).
Routers are numbered die·32 + quadrant·8 + router in the package. -/

namespace Sys2Proof.Machine

/-! ## Routes (R368, R369) -/

/-- The router of quadrant q of a die whose long link leads to quadrant q'. -/
def gate (die q q' : Nat) : Nat := die * 32 + q * 8 + q'

/-- Flits queued on a link, of every network and class. -/
def Net.queued (n : Net) (a b : Nat) : Nat :=
  ((n.links.filter fun e => decide (e.1.src = a) && decide (e.1.dst = b)).map (·.2)).foldl (· + ·) 0

/-- A list without repeats of the element before. -/
def noRepeats : List Nat → List Nat
  | [] => []
  | x :: r => match r with | y :: _ => if x = y then noRepeats r else x :: noRepeats r | [] => [x]

/-- Flits on the two long links of the way from q to q' through a third quadrant. -/
def Net.detourSum (n : Net) (die q q' m : Nat) : Nat :=
  n.queued (gate die q m) (gate die m q) + n.queued (gate die m q') (gate die q' m)

/-- The intermediate quadrant with the smallest sum, the lowest on a tie. -/
def Net.detour (n : Net) (die q q' : Nat) : Nat :=
  let ms := (List.range 4).filter fun m => decide (m ≠ q) && decide (m ≠ q')
  ms.foldl (fun best m => if n.detourSum die q q' m < n.detourSum die q q' best then m else best) (ms.headD 0)

/-- The way between two routers of a die: minimal, or through one intermediate quadrant when the direct long link's counter exceeds the
die's threshold. -/
def Net.routeIn (n : Net) (threshold src dst : Nat) : List Nat :=
  let die := src / 32
  let q := src / 8 % 4
  let q' := dst / 8 % 4
  if q = q' then noRepeats [src, dst]
  else if n.queued (gate die q q') (gate die q' q) ≤ threshold then noRepeats [src, gate die q q', gate die q' q, dst]
  else
    let m := n.detour die q q'
    noRepeats [src, gate die q m, gate die m q, gate die m q', gate die q' m, dst]

/-- The number of a die pair in the order of R380. -/
def pairOf (a b : Nat) : Nat :=
  match min a b, max a b with
  | 0, 1 => 0
  | 0, 2 => 1
  | 0, 3 => 2
  | 1, 2 => 3
  | 1, 3 => 4
  | _, _ => 5

/-- Lanes that a sublink direction has lost to retraining (R408). -/
def State.lanesLost (s : State) (pair sub dir : Nat) : Nat := (KV.at? s.fleet.narrowed (pair, sub, dir)).getD 0

/-- Does a sublink work: at least 256 lanes in both directions (R408)? -/
def State.sublinkUp (s : State) (pair sub : Nat) : Bool :=
  decide (s.lanesLost pair sub 0 ≤ 256) && decide (s.lanesLost pair sub 1 ≤ 256)

/-- The quadrant through whose router a packet from a quadrant crosses to another die: its own, or the lowest whose sublink works (R408). -/
def State.crossing (s : State) (a b q : Nat) : Nat :=
  let pair := pairOf a b
  if s.sublinkUp pair q then q else ((List.range 4).find? (s.sublinkUp pair)).getD q

/-- The way of a packet. -/
def State.route (s : State) (src dst : Nat) : List Nat :=
  let a := src / 32
  let b := dst / 32
  let th (d : Nat) : Nat := (s.die (s.localDie d)).threshold
  if a = b then s.net.routeIn (th a) src dst
  else
    let q := s.crossing a b (src / 8 % 4)
    noRepeats (s.net.routeIn (th a) src (gate a q 0) ++ s.net.routeIn (th b) (gate b q 0) dst)

/-! ## Links, buffers and send allowances (R366, R368, R370, R372) -/

/-- The flits of a packet: its header, its data and its tail (R368). -/
def flitsOf (p : Packet) : Nat := p.data + 2

/-- Move a count up. -/
def countUp (m : KV Port Nat) (k : Port) (n : Nat) : KV Port Nat := KV.put m k ((KV.at? m k).getD 0 + n)

/-- Move a count down; a count of 0 is not listed. -/
def countDown (m : KV Port Nat) (k : Port) (n : Nat) : KV Port Nat :=
  let r := (KV.at? m k).getD 0 - n
  if r = 0 then KV.del m k else KV.put m k r

/-- The buffer slots that a packet takes on a link: those of its own network and class, so that no class waits for another (R370). -/
def portOf (p : Packet) (a b : Nat) : Port := { src := a, dst := b, net := p.net, cls := p.cls }

/-- Put a packet's flits on a link: the sender counts its allowance for them and the receiver mirrors it (R372). -/
def Net.load (n : Net) (k : Port) (flits : Nat) : Net :=
  { n with links := countUp n.links k flits, allowances := countUp n.allowances k flits, mirrors := countUp n.mirrors k flits }

/-- Take a packet's flits off a link; the receiver returns the allowance. -/
def Net.unload (n : Net) (k : Port) (flits : Nat) : Net :=
  { n with links := countDown n.links k flits, allowances := countDown n.allowances k flits, mirrors := countDown n.mirrors k flits }

/-- Put a packet on the first link of its way; one that has arrived, or that its receiver discards, goes no further. -/
def Net.depart (n : Net) (f : Flight) : Net :=
  match f.route with
  | a :: b :: _ => if f.void then n else { n.load (portOf f.packet a b) (flitsOf f.packet) with flying := n.flying ++ [f] }
  | _ => n

/-- Every packet under way crosses one link in a clock; the last link delivers it, and a void tail flit makes the receiver discard it. -/
def Net.advance (n : Net) : Net :=
  n.flying.foldl (fun m f =>
    match f.route with
    | a :: b :: r => (m.unload (portOf f.packet a b) (flitsOf f.packet)).depart { f with route := b :: r }
    | _ => m) { n with flying := [] }

/-! ## Injection (R371) -/

/-- May a packet be injected: replies, write-backs, control packets and the system network take no tokens (R370, R371). -/
def Net.mayInject (n : Net) (p : Packet) : Bool := decide (p.cls ≠ .request) || n.admits p.src p.net (flitsOf p)

/-- Take a packet's tokens. -/
def Net.pay (n : Net) (p : Packet) : Net := if p.cls = .request then n.spend p.src p.net (flitsOf p) else n

/-- Does an earlier request of the network wait at the port? -/
def Net.queuedBefore (n : Net) (p : Packet) : Bool :=
  decide (p.cls = .request) && n.waiting.any fun x => decide (x.src = p.src) && decide (x.net = p.net)

/-- Inject a packet, or keep it at its port. -/
def State.inject (s : State) (p : Packet) : State :=
  if s.net.mayInject p && !s.net.queuedBefore p then
    { s with net := (s.net.pay p).depart { packet := p, route := s.route p.src p.dst, void := false } }
  else { s with net := { s.net with waiting := s.net.waiting ++ [p] } }

/-- `PACKET_INJECTION` (R369, R371): a packet of one of the 17 networks. -/
def execPacketInjection (p : Packet) (s : State) : Out := .next (if 16 < p.net then s else s.inject p)

/-- Try again what waits at a router's port for a partition's tokens: its packets in order, and its threads' requests (R371). -/
def State.retryPort (s : State) (router part : Nat) : State :=
  let mine (x : Packet) : Bool := decide (x.src = router) && decide (x.net = part)
  let tries := s.net.waiting.filter mine
  let s : State := { s with net := { s.net with waiting := s.net.waiting.filter fun x => !mine x } }
  (tries.foldl (fun s p => s.inject p) s).wakeAll fun w t =>
    decide (t.status = .waiting .gust) && decide (s.partOf t = part) && decide (s.routerOf (s.coreOf w t) = router)

/-- `GUST_REFILL` (R371): RATE tokens, to at most BURST; then what waits at the port is tried. -/
def execGustRefill (router part : Nat) (s : State) : Out :=
  let b := s.net.bucket router part
  let b := { b with tokens := min b.burst (b.tokens + b.rate) }
  .next (({ s with net := { s.net with buckets := KV.put s.net.buckets (router, part) b } } : State).retryPort router part)

/-- Set a gust allowance (R371): BURST and RATE of bits 31:16 and 15:0; no more than BURST tokens stay. -/
def State.setGust (s : State) (router part : Nat) (v : BitVec 64) : State :=
  let b : Bucket := { burst := bits v 31 16, rate := bits v 15 0, tokens := min (s.net.bucket router part).tokens (bits v 31 16) }
  ({ s with net := { s.net with buckets := KV.put s.net.buckets (router, part) b } } : State).retryPort router part

/-! ## The rotation of recalibrations (R408) -/

/-- Ticks from one turn of a sublink direction's rotation to the next: 512 turns take 2^30 (R408). -/
def rotationTicks : Nat := 2 ^ 21

/-- The lane of a sublink direction (pair, sublink, direction) whose turn has come: lane k mod 512 at tick (k + 1)·2^21, for every k in order
(R408; the phase is a DESIGN CHOICE, log entry 94). -/
def State.rotationLane (s : State) (k : Nat × Nat × Nat) : Option Nat :=
  let taken := (KV.at? s.fleet.rotated k).getD 0
  if k.1 < 6 ∧ k.2.1 < 4 ∧ k.2.2 < 2 ∧ (taken + 1) * rotationTicks ≤ s.time.toNat then some (taken % 512) else none

/-- A turn of a sublink direction's rotation is taken. -/
def State.turnRotation (s : State) (k : Nat × Nat × Nat) : State :=
  { s with fleet := { s.fleet with rotated := KV.put s.fleet.rotated k ((KV.at? s.fleet.rotated k).getD 0 + 1) } }

/-- The directions of the package's die-to-die sublinks. -/
def sublinkDirections : List (Nat × Nat × Nat) :=
  (List.range 6).flatMap fun p => (List.range 4).flatMap fun q => (List.range 2).map fun d => (p, q, d)

/-! ## The reset of a hamlet (R372) -/

/-- Is a packet still on the first link from its own router, and so partly injected? -/
def Flight.leaving (f : Flight) (router : Nat) : Bool := decide (f.packet.src = router) && decide (f.route.head? = some router)

/-- Does a packet end at a router as it is reset: one half received there, on its last link, or a reply for it? -/
def Flight.lost (f : Flight) (router : Nat) : Bool :=
  decide (f.packet.dst = router) && (decide (f.packet.cls = .reply) || decide (f.route.length ≤ 2))

/-- Take a packet off the link that it crosses. -/
def Net.discard (n : Net) (f : Flight) : Net :=
  match f.route with
  | a :: b :: _ => n.unload (portOf f.packet a b) (flitsOf f.packet)
  | _ => n

/-- The network as a hamlet's router resets it, in R372's order: void tails, discarded packets, returned allowances. -/
def Net.resetHamlet (n : Net) (router : Nat) : Net :=
  let n : Net := { n with flying := n.flying.map fun f => if f.leaving router then { f with void := true } else f }
  let n := (n.flying.filter fun f => f.lost router).foldl Net.discard { n with flying := n.flying.filter fun f => !f.lost router }
  { n with
    waiting := n.waiting.filter fun p => decide (p.src ≠ router)
    allowances := n.allowances.filter fun e => decide (e.1.src ≠ router)
    mirrors := n.mirrors.filter fun e => decide (e.1.src ≠ router) }

/-- `HAMLET_RESET` (R372): the hamlet's groups are killed before it. -/
def execHamletReset (router : Nat) (s : State) : Out :=
  let on := s.groups.filter fun e => decide (s.routerOf e.2.core = router)
  let s := on.foldl (fun s e => s.killGroup e.1) s
  .next { s with net := s.net.resetHamlet router }

end Sys2Proof.Machine
end

