-- ==== Sys2Proof/Machine/Fleet.lean ====
section
/-! DEFINITION. Keeping the package in service: image switches (R401), the replacing of cores (R402), DRAM lanes (R404), links (R408),
scheduler takeover (R409), power and the start (R396, R412). -/

namespace Sys2Proof.Machine

/-- Set or clear a readiness bit (R380). -/
def State.setReady (s : State) (bit : Nat) (v : Bool) : State :=
  let one : BitVec 1024 := (1 : BitVec 1024) <<< bit
  { s with fleet := { s.fleet with ready := if v then s.fleet.ready ||| one else s.fleet.ready &&& ~~~one } }

/-- The readiness bit of scheduler core n of a die. -/
def schedBit (die n : Nat) : Nat := 688 + 2 * (die % 4) + n

/-- A record that concerns no partition (R405). -/
def State.note (s : State) (type die : Nat) (a b c d : BitVec 64) : State := s.log none type die 0 a b c d 0

/-! ## Image switches (R401) -/

/-- Is a unit of the scheduler class the active core of its die, with a standby to take over? -/
def State.activeUnit (s : State) (unit : Nat) : Bool :=
  let d := s.die (s.localDie (unit / 2))
  decide (d.scheduler = some (unit % 2)) && d.standby

/-- Every unit has switched: the image that was active stays in the standby store, the UPDATE is answered, and one that waits is
performed. -/
def State.endSwitch (s : State) (target : Nat) (x : Images) : State :=
  let y : Images := { active := x.standby, standby := x.active, switching := [], replyTo := none, queued := x.queued.drop 1 }
  let s := s.updImages target fun _ => y
  let s := match x.replyTo with | some h => s.reply h 0 [] | none => s
  match x.queued with
  | (h, i) :: _ => s.takeImage h i
  | [] => s

/-- A unit runs the new image. -/
def State.switchUnit (s : State) (target unit : Nat) (x : Images) : State :=
  let s := s.note 0x0050 0 (BitVec.ofNat 64 target) x.standby.iver (BitVec.ofNat 64 unit) 0
  let x : Images := { x with switching := x.switching.filter fun u => decide (u ≠ unit) }
  if x.switching.isEmpty then s.endSwitch target x else s.updImages target fun _ => x

/-- `IMAGE_SWITCH` (R401): a unit at its quiet point. Neither scheduler core of a die switches while a takeover is under way there (R414); the one
that acts hands over to its standby first, once that one runs the new image (R409). -/
def execImageSwitch (target unit : Nat) (s : State) : Out :=
  match KV.at? s.fleet.images target with
  | none => .next s
  | some x =>
    let die := s.localDie (unit / 2)
    let again : State := s.plan (s.clock + 64) (.imageSwitch target unit)
    if !x.switching.contains unit then .next s
    else if target = 2 && (s.die die).takeover then .next again
    else if target = 2 && s.activeUnit unit then
      if x.switching.contains (unit / 2 * 2 + (1 - unit % 2)) then .next again
      else .next (again.raise (.schedulerTakeover die 1))
    else .next (s.switchUnit target unit x)

/-! ## Replacing a core (R402) -/

/-- The partition that has a core. -/
def State.coreOwner (s : State) (core : Nat) : Option Nat := (s.parts.find? fun e => e.2.cores.contains core).map (·.1)

/-- The lowest spare of the quadrant of a built index. -/
def State.spareFor (s : State) (built : Nat) : Option Nat :=
  (sortNats (s.fleet.spares.filter fun b => decide (b / 32 = built / 32))).head?

/-- A half as a spare takes it over: zeroed, with the assignment that the retired core had. -/
def handedHalf (x : Half) : Half := { Half.reset with part := x.part }

/-- The spare takes the logical number (R5, R402 steps 4 and 5). -/
def State.takeNumber (s : State) (core built spare : Nat) : State :=
  let s := ((s.zeroCore core).updHalf core 0 handedHalf).updHalf core 1 handedHalf
  let s := s.updCore core fun _ => CoreSt.reset
  let s : State := { s with fleet := { s.fleet with
    repair := KV.put s.fleet.repair core spare, spares := s.fleet.spares.filter fun b => decide (b ≠ spare) } }
  (s.setReady (20 + core) true).log (s.coreOwner core) 0x0040 (core / Config.coresPerDie) core (BitVec.ofNat 64 core)
    (BitVec.ofNat 64 built) (BitVec.ofNat 64 spare) 0 0

/-- The logical number is absent from now on (R4). -/
def State.loseNumber (s : State) (core built : Nat) : State :=
  let s : State := { s with fleet := { s.fleet with repair := KV.del s.fleet.repair core } }
  s.log (s.coreOwner core) 0x0041 (core / Config.coresPerDie) core (BitVec.ofNat 64 core) (BitVec.ofNat 64 built) 0xFFFFFFFF 0 0

/-- Steps 3 to 5 of a retirement, once the core is vacated. -/
def State.finishRetirement (s : State) (core : Nat) : State :=
  let built := s.builtOf core
  let s : State := { s with fleet := { s.fleet with
    retired := s.fleet.retired ++ [built], retiring := s.fleet.retiring.filter fun c => decide (c ≠ core) } }
  match s.spareFor built with
  | some b => (s.takeNumber core built b).askPlacement
  | none => (s.loseNumber core built).askPlacement

/-- Go on with a retirement: the core's groups are saved first (R402 step 2). -/
def State.goOnRetiring (s : State) (core : Nat) : State :=
  if (s.groupsOn core).isEmpty && !s.estateBusy core then s.finishRetirement core
  else
    let s := s.plan (s.clock + 64) (.coreRetirement core)
    if s.saving core || (s.die (s.dieOf core)).idle then s else s.vacate [core]

/-- `CORE_RETIREMENT` (R402). -/
def execCoreRetirement (core : Nat) (s : State) : Out :=
  if s.fleet.retiring.contains core then .next (s.goOnRetiring core)
  else if Config.cores ≤ core || !s.present core then .next s
  else
    let s := s.setReady (20 + core) false
    .next (({ s with fleet := { s.fleet with retiring := s.fleet.retiring ++ [core] } } : State).goOnRetiring core)

/-! ## DRAM lanes (R403, R404) -/

/-- A lane without errors. -/
def LaneSt.good : LaneSt := { errors := 0, spare := none, retired := false, daddr := 0, va := 0, part := none }

/-- A lane of a sub-bus. -/
def State.dramLane (s : State) (die chan sub lane : Nat) : LaneSt := (KV.at? s.fleet.dramLanes (die, chan, sub, lane)).getD LaneSt.good

/-- Put a lane of a sub-bus. -/
def State.setLane (s : State) (die chan sub lane : Nat) (x : LaneSt) : State :=
  { s with fleet := { s.fleet with dramLanes := KV.put s.fleet.dramLanes (die, chan, sub, lane) x } }

/-- The lane whose bits a lane of the sub-bus carries: itself, or the one that a spare stands for; none when it is not in use. -/
def State.carried (s : State) (die chan sub lane : Nat) : Option Nat :=
  if lane < 80 then some lane else (List.range 80).find? fun n => decide ((s.dramLane die chan sub n).spare = some lane)

/-- The lower free spare of a sub-bus (R404). -/
def State.freeSpare (s : State) (die chan sub lane : Nat) : Option Nat :=
  [80, 81].find? fun n => decide (n ≠ lane) && !(s.dramLane die chan sub n).retired && (s.carried die chan sub n).isNone

/-- `LANE_SWAP` (R404): a lane that has reached three errors. With a spare free the sub-bus is out of use for 64 clocks and the spare
then carries the lane; with none the lane stays, and a record says so once. The records name the request that met the lane's last error. -/
def execLaneSwap (die chan sub lane : Nat) (s : State) : Out :=
  let x := s.dramLane die chan sub lane
  let record (s : State) (type spare : Nat) : State :=
    s.log x.part type (die % 4) 0 (BitVec.ofNat 64 (x.daddr / 32 * 32)) (dramWord chan sub lane spare x.errors 0xFF) x.va 0 0
  match s.carried die chan sub lane with
  | none => .next s
  | some owner =>
    if x.errors < 3 || x.retired then .next s
    else
      match KV.at? s.fleet.subBusy (die, chan, sub), s.freeSpare die chan sub lane with
      | some (n, until_), f =>
        if n ≠ lane || decide (s.clock < until_) then .next (s.plan (max (s.clock + 1) until_) (.laneSwap die chan sub lane))
        else
          let s : State := { s with fleet := { s.fleet with subBusy := KV.del s.fleet.subBusy (die, chan, sub) } }
          let s := (s.wakeAll fun _ t => decide (t.status = .waiting .subBus)).askPlacement
          match f with
          | none => .next s
          | some sp =>
            let s := s.setLane die chan sub lane { x with retired := true }
            let s := s.setLane die chan sub owner { s.dramLane die chan sub owner with spare := some sp }
            .next (record s 0x0013 sp)
      | none, some _ =>
        let s : State := { s with fleet := { s.fleet with subBusy := KV.put s.fleet.subBusy (die, chan, sub) (lane, s.clock + 64) } }
        .next (s.plan (s.clock + 64) (.laneSwap die chan sub lane))
      | none, none => .next (record (s.setLane die chan sub lane { x with retired := true }) 0x0015 0xFF)

/-- Does a lane stay in use with three errors, since no spare was free (R404)? -/
def LaneSt.stuck (x : LaneSt) : Bool := x.retired && x.spare.isNone && decide (3 ≤ x.errors)

/-- A transfer error of a lane that a sub-bus uses (R404), met by a request of a partition or of none: it counts, a record is written and the sector is sent again; at three the lane is
to be swapped. A fourth failed crossing aborts the request that reads the sector. Once no spare can take the lane's place, array ECC has the
sector as it crossed: a lane carries half of a symbol (DESIGN CHOICE, log entry 79). -/
def execTransferResend (req : Option Nat) (die lane daddr : Nat) (va : BitVec 64) (crossing : Nat) (s : State) : Out :=
  let chan := channelOf daddr
  let sub := subBusOf daddr
  let sector := (dramBase die + daddr) / 32
  let x := s.dramLane die chan sub lane
  match s.carried die chan sub lane with
  | none => .next s
  | some owner =>
    let n := x.errors + 1
    let s := s.setLane die chan sub lane { x with errors := n, daddr := daddr, va := va, part := req }
    if x.stuck then .next (s.addFlaw (.cell sector (owner / 2)))
    else
      let s := s.log req (if crossing < 4 then 0x0012 else 0x0014) (die % 4) 0 (BitVec.ofNat 64 (daddr / 32 * 32))
        (dramWord chan sub lane 0xFF n 0xFF) va 0 0
      let s := if crossing < 4 then s else s.addFlaw (.crossing sector)
      .next (if n = 3 then s.plan (s.clock + 1) (.laneSwap die chan sub lane) else s)

/-! ## Links and ports (R408) -/

/-- A lane of a sublink direction. -/
def State.linkLane (s : State) (pair sub dir lane : Nat) : LaneSt := (KV.at? s.fleet.linkLanes (pair, sub, dir, lane)).getD LaneSt.good

/-- Put a lane of a sublink direction. -/
def State.setLink (s : State) (pair sub dir lane : Nat) (x : LaneSt) : State :=
  { s with fleet := { s.fleet with linkLanes := KV.put s.fleet.linkLanes (pair, sub, dir, lane) x } }

/-- A record of type 0x0030. -/
def State.noteLane (s : State) (pair sub dir lane code : Nat) : State :=
  s.note 0x0030 0 (BitVec.ofNat 64 (pair * 2 ^ 12 + sub * 2 ^ 10 + dir * 2 ^ 9 + lane % 512)) (BitVec.ofNat 64 code) 0 0

/-- A free spare lane of a sublink direction: 512 to 519, none that is retired or carries another lane. -/
def State.spareLane (s : State) (pair sub dir : Nat) : Option Nat :=
  ((List.range 8).map (512 + ·)).find? fun n =>
    !(s.linkLane pair sub dir n).retired
      && !s.fleet.linkLanes.any fun e => decide (e.1.1 = pair) && decide (e.1.2.1 = sub) && decide (e.1.2.2.1 = dir) && decide (e.2.spare = some n)

/-- A sublink direction retrains at 32 lanes fewer; below 256 it is down, and the link's readiness bit falls with its last sublink. -/
def State.narrowLink (s : State) (pair sub dir lane : Nat) : State :=
  let lost := s.lanesLost pair sub dir + 32
  let s : State := { s with fleet := { s.fleet with narrowed := KV.put s.fleet.narrowed (pair, sub, dir) lost } }
  let s := s.noteLane pair sub dir lane (if 256 < lost then 3 else 2)
  if (List.range 4).any (s.sublinkUp pair) then s else s.setReady (596 + pair) false

/-- The end of a lane's recalibration (R408): passed, or the lane is retired and a spare keeps its traffic. -/
def State.recalibrate (s : State) (pair sub dir lane : Nat) (pass : Bool) : State :=
  let x := s.linkLane pair sub dir lane
  if x.retired then s
  else if pass then (s.setLink pair sub dir lane { x with errors := 0 }).noteLane pair sub dir lane 0
  else
    let s := s.noteLane pair sub dir lane 1
    match s.spareLane pair sub dir with
    | some n => s.setLink pair sub dir lane { x with retired := true, spare := some n }
    | none => (s.setLink pair sub dir lane { x with retired := true }).narrowLink pair sub dir lane

/-- `LANE_RECALIBRATION` (R408): the rotation's turn of a lane, if it is this lane's. -/
def execLaneRecalibration (pair sublink dir lane : Nat) (pass : Bool) (s : State) : Out :=
  if s.rotationLane (pair, sublink, dir) = some lane then .next ((s.turnRotation (pair, sublink, dir)).recalibrate pair sublink dir lane pass)
  else .next s

/-- A flit that failed its CRC is replayed, and the lane counts an error; at 16 errors it is recalibrated at once (R408). Whether it passes is
not fixed (DESIGN CHOICE, log entry 8). -/
def execFlitReplay (pair sublink dir lane : Nat) (s : State) : Out :=
  let x := s.linkLane pair sublink dir lane
  let t := s.setLink pair sublink dir lane { x with errors := x.errors + 1 }
  .next (if x.errors = 15 then ({ t with free := s.free + 1 } : State).recalibrate pair sublink dir lane (decide (Config.pick s.free % 2 = 0)) else t)

/-- A fabric port goes down for its recalibration (R408). -/
def execPortRecalibration (port : Nat) (s : State) : Out :=
  if 15 < port || s.fleet.portsDown.contains port then .next s
  else
    let s : State := { s with fleet := { s.fleet with portsDown := s.fleet.portsDown ++ [port] } }
    .next ((s.setReady (696 + port) false).note 0x0031 0 (BitVec.ofNat 64 port) 0 0 0)

/-- A fabric port is up again (R408). -/
def execFabricPortUp (port : Nat) (s : State) : Out :=
  if !s.fleet.portsDown.contains port then .next s
  else
    let s : State := { s with fleet := { s.fleet with portsDown := s.fleet.portsDown.filter fun p => decide (p ≠ port) } }
    .next ((s.setReady (696 + port) true).note 0x0031 0 (BitVec.ofNat 64 port) 1 0 0)

/-! ## Scheduler takeover (R409) -/

/-- Neither scheduler core of a die works: it places nothing more. -/
def State.noScheduler (s : State) (die : Nat) : State :=
  let s := s.updDie die fun d => { d with scheduler := none, standby := false, takeover := false }
  (s.setReady (schedBit die 0) false).setReady (schedBit die 1) false

/-- Nodes of a die's graphs that are ready and not started. -/
def Die.readyNodes (d : Die) : List (Nat × Nat) :=
  d.graphs.flatMap fun e => if e.2.running then (e.2.readyNodes fun _ => true).map fun n => (e.1, n) else []

/-- The act that a die's scheduler would perform next of those that are due: TYPE, INDEX, GRAPH and VALUE of its journal record (R355). -/
def State.nextAct (s : State) (die : Nat) : Option (Nat × Nat × Nat × BitVec 64) :=
  match (s.startable die).find? fun e => (s.graph? die e.1).isSome with
  | some (g, patch) => some (1, 0, g, patch)
  | none =>
    (s.die die).readyNodes.findSome? fun e =>
      match s.graph? die e.1 with
      | none => none
      | some g =>
        match g.nodes[e.2]? with
        | none => none
        | some x => if x.preds.any fun q => decide (0x80000000 ≤ ((KV.at? g.statuses q).getD 0).toNat) then none else some (2, e.2, e.1, x.record)

/-- A core that fails may have written the record of its next act, which the kick unit has not performed then (R355, R409); whether it has is not
fixed (DESIGN CHOICE, log entry 86). -/
def State.journalAhead (s : State) (die : Nat) : State :=
  match (if Config.pick s.free % 2 = 0 then none else s.nextAct die) with
  | none => { s with free := s.free + 1 }
  | some (type, index, graph, value) =>
    (({ s with free := s.free + 1 } : State).writeJournal die type index graph value).updDie die fun d =>
      { d with undone := [(type, index, graph, value)] }

/-- A takeover begins: fills, replays and placements wait from now on (R409 step 1). -/
def State.beginTakeover (s : State) (die reason n : Nat) : State :=
  let s := if reason = 0 then s.journalAhead die else s
  let s := s.updDie die fun d => { d with takeover := true }
  let s := if reason = 0 then s.setReady (schedBit die n) false else s
  s.plan (s.clock + 64) (.schedulerTakeover die (reason + 4))

/-- The scheduler resumes (R409 steps 4 and 5): the queued fills are released in order, and kicks, nodes, placements and vacations go on. -/
def State.resumeScheduler (s : State) (die : Nat) : State :=
  let d := s.die die
  let s := s.updDie die fun d => { d with takeover := false, heldFills := [], heldVacations := [] }
  let s := d.heldFills.foldl (fun s (f : HeldFill) =>
    match s.launch? f.lid with | some l => s.endLaunch f.lid l (l.status.setWidth 32) | none => s) s
  let s := (s.vacateCores die d.heldVacations).raise (.replayStart die)
  let s := (s.die die).readyNodes.foldl (fun s e => s.raise (.nodeStart die e.1 e.2)) s
  s.askPlacement

/-- The journal's records after ACTSEQ, in order, as they stand in the ring (R409 steps 2 and 3). -/
def State.afterActSeq (s : State) (die : Nat) : List (Nat × Nat × Nat × BitVec 64) :=
  let d := s.die die
  (List.range (d.journalSeq - d.actSeq - 1).toNat).map fun i => s.readJournal die (d.actSeq + 1 + BitVec.ofNat 32 i)

/-- Must the act of a record wait for a sub-bus (R404)? -/
def State.redoOut (s : State) (die : Nat) (r : Nat × Nat × Nat × BitVec 64) : Bool :=
  match s.graph? die r.2.2.1 with
  | none => false
  | some g =>
    if r.1 = 1 then s.patchOut die (r.2.2.1, r.2.2.2)
    else match g.nodes[r.2.1]? with | some x => s.readOut g.part x.record 256 | none => false

/-- Perform the act of a journal record, if it has not been performed: the start of a replay or of a node (R409 step 3). -/
def State.redoAct (s : State) (die : Nat) (r : Nat × Nat × Nat × BitVec 64) : State :=
  match s.graph? die r.2.2.1 with
  | none => s
  | some g =>
    if r.1 = 1 then (if g.running then s else s.replay die r.2.2.1 r.2.2.2)
    else
      match g.nodes[r.2.1]? with
      | some x => if r.1 = 2 && g.mayStart r.2.1 then s.startNode die r.2.2.1 r.2.1 g x else s
      | none => s

/-- Step 3 of a takeover: the acts of the records after ACTSEQ. Each is performed once, and needs no second record (R409). -/
def State.redoActs (s : State) (die : Nat) : State :=
  ((s.afterActSeq die).foldl (fun s r => s.redoAct die r) s).updDie die fun d => { d with undone := [], actSeq := d.journalSeq - 1 }

/-- A takeover ends: the standby is the active core. A core that failed is tested; whether it passes is not fixed (DESIGN CHOICE, log entry 8). -/
def State.endTakeover (s : State) (die reason n : Nat) : State :=
  let good := decide (reason ≠ 0 ∨ Config.pick s.free % 2 = 0)
  let s : State := { s with free := s.free + 1 }
  let found := (s.die die).actSeq
  let redone := (s.afterActSeq die).length
  let s := (s.redoActs die).updDie die fun d => { d with scheduler := some (1 - n), standby := good }
  let s := if good then s.setReady (schedBit die n) true else s
  let s := s.note 0x0052 (die % 4) (BitVec.ofNat 64 (die % 4)) (found.setWidth 64) (BitVec.ofNat 64 redone) (BitVec.ofNat 64 reason)
  s.resumeScheduler die

/-- `SCHEDULER_TAKEOVER` (R409): reasons 0 error, 1 firmware switch, 2 root monitor begin one; 4 to 6 stand for its end. -/
def execSchedulerTakeover (die reason : Nat) (s : State) : Out :=
  let d := s.die die
  match d.scheduler with
  | none => .next s
  | some n =>
    if 3 < reason then
      if !d.takeover then .next s
      else if (s.afterActSeq die).any (s.redoOut die) then .next (s.plan (s.clock + 64) (.schedulerTakeover die reason))
      else .next (s.endTakeover die (reason - 4) n)
    else if d.takeover then
      if reason = 0 then .next (s.noScheduler die) else .next (s.plan (s.clock + 64) (.schedulerTakeover die reason))
    else if d.standby then .next (s.beginTakeover die reason n)
    else if reason = 0 then .next (s.noScheduler die)
    else .next s

/-! ## Power (R412) -/

/-- The next step of the main clock in MHz, down or up. -/
def nextMhz (down : Bool) (mhz : Nat) : Option Nat :=
  if down then [1500, 1250, 1000].find? fun m => decide (m < mhz) else [1250, 1500, 1750].find? fun m => decide (mhz < m)

/-- Have some ticks gone by since a time, if there is one? -/
def State.ticksSince (s : State) (at_ : Option (BitVec 64)) (n : Nat) : Bool :=
  match at_ with | some t => decide (n ≤ (s.time - t).toNat) | none => true

/-- May the power controller take a step (R412): at most one in a millisecond, one for power only while the average of the last 10 ms is above
PCAP, and one up only when no cause has been there for 100 ms? -/
def State.mayStep (s : State) (cause watts : Nat) : Bool :=
  s.ticksSince s.fleet.stepAt 1000000 && (decide (cause ≠ 0) || decide (s.fleet.config.pcap < watts))
    && (decide (cause < 2) || s.ticksSince s.fleet.forcedAt 100000000)

/-- `CLOCK_STEP` (R412): causes 0 power and 1 temperature lower the main clock by a step, 2 recovery raises it; `watts` is the average power.
What has passed of a tick stays the same part of it. -/
def execClockStep (cause watts : Nat) (s : State) : Out :=
  if 2 < cause then .next s
  else
    let due := s.mayStep cause watts
    let s : State := if cause = 1 ∨ (cause = 0 ∧ s.fleet.config.pcap < watts) then { s with fleet := { s.fleet with forcedAt := some s.time } } else s
    match (if due then nextMhz (decide (cause < 2)) s.mhz else none) with
    | none => .next s
    | some m =>
      .next (({ s with mhz := m, timeFrac := s.timeFrac * m / s.mhz, fleet := { s.fleet with stepAt := some s.time } } : State).note 0x0060 0
        (BitVec.ofNat 64 m) (BitVec.ofNat 64 cause) 0 0)

/-- `THERMAL_TRIP` (R412): a record, no power for the compute dies, every launch lost, the dies' readiness bits clear. -/
def execThermalTrip (s : State) : Out :=
  let s := s.note 0x0060 0 (BitVec.ofNat 64 s.mhz) 3 0 0
  let s := (List.range 4).foldl (fun s d => s.setReady d false) s
  .next { s with
    power := false, sched := [], threads := [], groups := [], launches := [], waits := [], faults := [], cores := [], halves := []
    dies := [], cmds := [], colls := [], collNums := [], queries := [], saved := []
    net := { s.net with waiting := [], flying := [], links := [], allowances := [], mirrors := [] } }

/-! ## The start (R4, R396, R398) -/

/-- The record slot that is active at a start (R398): the one of the higher SEQ if it is valid against the other's record. -/
def startSlot (a b : ConfigRec) : Nat :=
  if a.seq < b.seq then (if recFollows b a then 1 else 0)
  else if b.seq < a.seq then (if recFollows a b then 0 else 1)
  else 0

/-- The built indices of a quadrant that passed and are not retired. -/
def goodIn (failed retired : List Nat) (quad : Nat) : List Nat :=
  ((List.range 32).map (32 * quad + ·)).filter fun b => !failed.contains b && !retired.contains b

/-- The repair map of R4: the good cores of each quadrant take its logical numbers in ascending order. -/
def repairMap (failed retired : List Nat) : KV Nat Nat :=
  (List.range 16).flatMap fun q => ((List.range 28).map (28 * q + ·)).zip (goodIn failed retired q)

/-- The built cores that count as failed (R4, R396): those that fail, and all of a quadrant that fails. -/
def failedCores (x : SelfTest) : List Nat :=
  x.cores ++ ((List.range 16).filter fun q => x.functions.contains (4 + q)).flatMap fun q => (List.range 32).map (32 * q + ·)

/-- Has every sublink of a die pair failed? -/
def linkFailed (x : SelfTest) (pair : Nat) : Bool := (List.range 4).all fun k => x.sublinks.contains (pair, k)

/-- The readiness map after a start (R380): the bits of the functions that have passed, each for itself; none for an absent logical number. -/
def startReady (x : SelfTest) (repair : KV Nat Nat) : BitVec 1024 :=
  let absent := ((List.range Config.cores).filter fun c => (KV.at? repair c).isNone).map (20 + ·)
  let links := ((List.range 6).filter (linkFailed x)).map (596 + ·)
  (absent ++ links ++ x.functions).foldl (fun (m : BitVec 1024) k => m &&& ~~~((1 : BitVec 1024) <<< k)) (BitVec.ofNat 1024 (2 ^ 712 - 1))

/-- Does the boot ROM find the root monitor firmware in flash signed with the Tolrix key (R396 step 1)? -/
def Fleet.rootGood (f : Fleet) : Bool :=
  match KV.at? f.images 0 with
  | some x => x.active.fieldsOk && x.active.magicOk && x.active.sigOk && x.active.digestOk && decide (x.active.target = 0)
  | none => false

/-- The fleet state after a start, from what flash holds. A sublink that fails has no lane left (R408). -/
def Fleet.start (f : Fleet) (x : SelfTest) : Fleet :=
  let a := f.slot0
  let b := f.slot1
  let n := startSlot a b
  let r := if n = 0 then a else b
  let retired := if r.clearret && decide (r ≠ f.config) then [] else f.retired
  let failed := failedCores x
  let map := repairMap failed retired
  let spares := (List.range 16).flatMap fun q => (goodIn failed retired q).drop 28
  { Fleet.reset with
    ready := startReady x map, narrowed := x.sublinks.map fun k => ((k.1, k.2, 0), 512), repair := map, spares := spares, retired := retired, slot0 := a, slot1 := b, activeSlot := n
    pkg := r.pkg.toNat, images := f.images.map fun (e : Nat × Images) => (e.1, { e.2 with switching := [], replyTo := none, queued := [] }) }

/-- A die after a start: its lull register is the record's (R397), and its lower scheduler core that has passed acts (R409). -/
def startDie (f : Fleet) (die : Nat) : Die :=
  let good (n : Nat) : Bool := f.ready.getLsbD (schedBit die n)
  { Die.reset with
    lull := f.config.lull, scheduler := if good 0 then some 0 else if good 1 then some 1 else none, standby := good 0 && good 1 }

/-- A power-on (R396): the machine as at reset, with what flash holds. `failed` is what fails self-test. Firmware that the boot ROM does not accept starts nothing (DESIGN CHOICE, log entry 6). -/
def execPowerOn (failed : SelfTest) (s : State) : Out :=
  if s.fleet.rootGood then
    let f := s.fleet.start failed
    .next { State.reset with
      fleet := f, free := s.free, dies := (List.range 4).map fun d => (f.pkg * 4 + d, startDie f d) }
  else .next { State.reset with fleet := { s.fleet with ready := 0 }, free := s.free, power := false }

/-- %time is locked to the pod's time, or no longer, and its rate is corrected by at most 200 ppm (R392). -/
def execTimeLock (locked : Bool) (ppm : Int) (s : State) : Out :=
  .next { s with timeLocked := locked, timeRate := (max (-200) (min 200 ppm) + 200).toNat }

end Sys2Proof.Machine
end

