-- ==== Sys2Proof/Machine/Issue.lean ====
section
/-! DEFINITION. One main clock: what comes due, and what the quarters and the scalar pipelines issue (R17 to R21, R26, R39, R365, R367). -/

namespace Sys2Proof.Machine

/-! ## Candidates (R365) -/

/-- A READY lane or handler thread of a core at the start of a clock. -/
structure Ready where
  who : Who
  lane : Nat
  gid : Nat
  pc : BitVec 64
  since : Nat
  prio : Nat
  place : Nat
  /-- Would the lull hold its next instruction: a memory instruction of a memory-bound group that is not among those allowed (R367)? -/
  bound : Bool
  deriving DecidableEq, Repr

/-- The group field of a full word (R101); a paired word is of none that the lull holds. -/
def wordGroup (w : BitVec 64) : Nat := if w.getLsbD 63 then 16 else bits w 62 59

/-- Is a thread's next instruction one of groups 5, 6 and 7? -/
def State.nextIsMemory (s : State) (t : Thread) : Bool :=
  match s.gl (s.partOf t) t.pc Want.ex with
  | .ok p => let g := wordGroup (BitVec.ofNat 64 (s.rdNat p.loc 8)); decide (5 ≤ g) && decide (g ≤ 7)
  | .error _ => false

/-- LIMIT of a core's lull register (R366). -/
def State.lullLimit (s : State) (core : Nat) : Nat := bits (s.die (s.dieOf core)).lull 2 0

/-- The group places of a core's memory-bound groups, ascending. -/
def State.boundPlaces (s : State) (core : Nat) : List Nat :=
  sortNats ((s.groupsOn core).filterMap fun e =>
    match s.launch? e.2.lid with
    | some l => if l.membound then some e.2.place else none
    | none => none)

/-- The places whose groups may issue memory instructions while lulled: LIMIT of them, in rotation from the core's first place (R367). -/
def State.allowedPlaces (s : State) (core : Nat) : List Nat :=
  let ps := s.boundPlaces core
  let first := (s.core core).lullPlace
  ((ps.filter fun p => decide (first ≤ p)) ++ ps.filter fun p => decide (p < first)).take (s.lullLimit core)

/-- Does the lull hold a thread in a lulled quarter (R367)? Handler threads never. -/
def State.lullHolds (s : State) (core : Nat) (w : Who) (t : Thread) : Bool :=
  match w with
  | .lane _ _ =>
    (match s.launch? t.lid with | some l => l.membound | none => false)
      && !(s.allowedPlaces core).contains (match s.groupOf t with | some g => g.place | none => 0)
      && s.nextIsMemory t
  | _ => false

/-- The READY threads of a core but its stewards, in ascending lane; a group that is being saved issues nothing (R338). -/
def State.readyOn (s : State) (core : Nat) : List Ready :=
  let lulled := !(s.core core).lulled.isEmpty && decide (s.lullLimit core ≠ 0)
  let rs := s.threads.filterMap fun e =>
    if isSteward e.1 || decide (e.2.status ≠ .ready) || decide (s.coreOf e.1 e.2 ≠ core) || s.savingOf e.1 e.2 then none
    else
      some { who := e.1, lane := laneOf e.1 e.2, gid := e.2.gid, pc := e.2.pc, since := e.2.readySince
             prio := (match s.launch? e.2.lid with | some l => l.prio | none => 0)
             place := (match s.groupOf e.2 with | some g => g.place | none => 4)
             bound := lulled && s.lullHolds core e.1 e.2 }
  sortBy (fun (x : Ready) => x.lane) rs

/-- Has a thread been passed over for 256 clocks (R39)? It is first a candidate in the clock after the one in which it became READY. -/
def Ready.aged (x : Ready) (clock : Nat) : Bool := decide (x.since + 256 < clock)

/-- The measure by which a quarter chooses a candidate: less is chosen first (R365). -/
def candidateKey (clock : Nat) (all : List Ready) (gid : Nat) (pc : BitVec 64) : List Nat :=
  let ts := all.filter fun x => decide (x.gid = gid) && decide (x.pc = pc)
  let sinces := ts.map Ready.since
  let old := sinces.foldl min clock
  let aged := ts.any fun x => x.aged clock
  [if aged then 0 else 1, if aged then old else 0, 3 - (ts.map Ready.prio).foldl max 0, 32 - min 32 ts.length, old,
   (ts.map Ready.place).foldl min 4, pc.toNat]

/-- Lexicographic order. -/
def lexLt : List Nat → List Nat → Bool
  | [], [] => false
  | [], _ => true
  | _, [] => false
  | x :: r, y :: t => decide (x < y) || (decide (x = y) && lexLt r t)

/-- The pair that a quarter chooses among what it may issue (R365). -/
def chooseCandidate (clock : Nat) (all : List Ready) : List Ready → Option (Nat × BitVec 64)
  | [] => none
  | x :: r =>
    match chooseCandidate clock all r with
    | none => some (x.gid, x.pc)
    | some y => if lexLt (candidateKey clock all y.1 y.2) (candidateKey clock all x.gid x.pc) then some y else some (x.gid, x.pc)

/-- May a quarter issue a thread: the lull does not hold it there (R367)? -/
def mayIssue (lulled : List Nat) (q : Nat) (x : Ready) : Bool := !(x.bound && lulled.contains q)

/-! ## Waves (R17, R20, R365) -/

/-- The thread that a lane gives a wave: of several at the pair, the earliest aged, else any: the order is not fixed (R17; DESIGN CHOICE, log entry 8). -/
def laneThread (clock choice : Nat) : List Ready → Option Ready
  | [] => none
  | [x] => some x
  | l =>
    match sortBy (fun (x : Ready) => x.since) (l.filter fun x => x.aged clock) with
    | x :: _ => some x
    | [] => l[choice % l.length]?

/-- A lane's thread at a pair for each of the lanes from `lo` on that are not used yet. -/
def laneThreads (clock : Nat) (draw : Nat → Nat) (ts : List Ready) (used : List Nat) (lo n : Nat) : List Ready :=
  ((List.range n).map (lo + ·)).filterMap fun k =>
    if used.contains k then none else laneThread clock (draw k) (ts.filter fun x => decide (x.lane = k))

/-- The waves of the four quarters from their choices, each thread with its wave's quarter: their own lanes first, then what each borrows, in
ascending quarter order (R20, R365). -/
def formWaves (clock : Nat) (draw : Nat → Nat) (lulled : List Nat) (all : List Ready) (choice : List (Option (Nat × BitVec 64))) : List (Nat × Ready) :=
  let at_ (q : Nat) (p : Nat × BitVec 64) : List Ready := all.filter fun x => decide (x.gid = p.1) && decide (x.pc = p.2) && mayIssue lulled q x
  let own (q : Nat) : List Ready :=
    match choice.getD q none with
    | some p => laneThreads clock draw (at_ q p) [] (32 * q) 32
    | none => []
  let first := (List.range 4).flatMap fun q => (own q).map fun x => (q, x)
  (List.range 4).foldl (fun (w : List (Nat × Ready)) q =>
    match choice.getD q none with
    | none => w
    | some p =>
      let from_ := (at_ q p).filter fun x => decide (x.lane / 32 ≠ q) && decide (choice.getD (x.lane / 32) none ≠ some p)
      w ++ ((laneThreads clock draw from_ (w.map fun x => x.2.lane) 0 128).take (32 - (own q).length)).map fun x => (q, x)) first

/-- The lane and handler threads that a core issues in a clock, each with its wave's quarter. -/
def State.issueLanes (s : State) (core : Nat) : List (Nat × Who) :=
  let all := s.readyOn core
  let lulled := (s.core core).lulled
  let choice := (List.range 4).map fun q =>
    let mine := all.filter (mayIssue lulled q)
    chooseCandidate s.clock mine mine
  (formWaves s.clock (fun k => Config.pickOf s.free (128 * core + k)) lulled all choice).map fun x => (x.1, x.2.who)

/-- The steward that a core's scalar pipeline issues: the READY one that is next in rotation (R26). -/
def State.issueSteward (s : State) (core : Nat) : Option (Nat × Who) :=
  let ready := (s.groupsOn core).filterMap fun e =>
    match s.thread? (.steward e.1) with
    | some t => if t.status = .ready ∧ !s.savingOf (.steward e.1) t then some (e.2.place, Who.steward e.1) else none
    | none => none
  let last := (s.core core).rotation
  (sortBy (fun (x : Nat × Who) => (x.1 + 3 - last) % 4) ready).head?

/-- What a core issues, in ascending thread number (R6); the threads of one wave have its number, by which they share their fetch (R21). -/
def State.issueOn (s : State) (core : Nat) : State × List Turn :=
  let s := s.serving core
  let st := s.issueSteward core
  let lanes := s.issueLanes core
  let ws := lanes.map (·.2) ++ (match st with | some x => [x.2] | none => [])
  let turns := (sortBy s.threadNumber ws).map Turn.thread
  let s := { s with waves := lanes.foldl (fun m x => KV.put m x.2 (4 * core + x.1)) s.waves }
  match st with
  | some (p, _) => (s.updCore core fun c => { c with rotation := p }, turns)
  | none => (s, turns)

/-- The cores with a READY thread. -/
def State.busyCores (s : State) : List Nat :=
  sortNats (eachOnce (s.threads.filterMap fun e => if e.2.status = .ready then some (s.coreOf e.1 e.2) else none))

/-- Move the time since which some threads are READY on by a clock. -/
def State.notAged (s : State) (ws : List Who) : State :=
  if ws.isEmpty then s
  else { s with threads := s.threads.map fun (e : Who × Thread) => if ws.contains e.1 then (e.1, { e.2 with readySince := e.2.readySince + 1 }) else e }

/-- Clocks in which the lull holds a thread do not age it (R39, R367). -/
def State.ageHeld (s : State) (core : Nat) : State :=
  let c := s.core core
  if c.lulled.isEmpty then s
  else s.notAged (((s.readyOn core).filter fun x => x.bound && c.lulled.contains (x.lane / 32)).map Ready.who)

/-! ## What comes due -/

/-- The engines' and arrays' steps that may be taken: a copy that waits for room, a command that may start, an `mma` with its A chunk, an
epilogue's next word, a drain's output. -/
def State.halfDue (s : State) (core h : Nat) (x : Half) : List Turn :=
  let ev (i : Instr) : Turn := .event i
  (match x.queue.find? (fun m => !m.started) with
    | some m => if s.mayStart core m then [ev (.arrayCommandStart core h)] else []
    | none => [])
  ++ (if x.queue.any fun m => m.started && decide ((spanHalves m.span).headD 0 = h) && s.mmaReady core m then [ev (.mmaKgroupStep core h)] else [])
  ++ (match x.run with
    | some r => (if r.finished then [] else [Turn.epilogue core h]) ++ (if r.finished || !r.out.isEmpty then [ev (.drainOutputEntry core h)] else [])
    | none => [])

/-- The same for every half, with the copies that wait for room in a queue. -/
def State.engineDue (s : State) : List Turn :=
  (s.cmds.filterMap fun e => if e.2.waitsRoom && !e.2.held then some (Turn.event (.copyQueueWrite e.1)) else none)
    ++ s.halves.flatMap fun e => s.halfDue e.1.1 e.1.2 e.2

/-- The flits beyond 8 that are queued on the output links of a router (R366). -/
def State.linkBacklog (s : State) (router : Nat) : Nat :=
  let next := eachOnce ((s.net.links.filter fun e => decide (e.1.src = router)).map fun e => e.1.dst)
  (next.map fun b => s.net.queued router b - 8).foldl (· + ·) 0

/-- The memory requests of a thread that are outstanding beyond their unloaded latency (R366): results that have not arrived, accesses parked
at a home or in a wait list, and accesses that wait to be performed, at their port too. -/
def Thread.lateRequests (t : Thread) (clock : Nat) : Nat :=
  let late (o : Outstanding) : Bool :=
    decide (o.due < clock) &&
      match o.state with
      | .latent => true
      | .tagWait => true
      | .redo => decide (bits o.word 62 59 = 5 ∨ bits o.word 62 59 = 6)
      | _ => false
  (t.wins.filter late).length + (t.held.filter fun h => decide (h.1 = 0) && decide (h.2.due < clock)).length

/-- A quarter's congestion counter (R366): the requests of its threads and the drains of its buffer that are outstanding beyond their unloaded
latency, and its router's backlog. -/
def State.congestionNow (s : State) (core quarter : Nat) : BitVec 16 :=
  let mine := s.threads.filter fun e => decide (s.coreOf e.1 e.2 = core) && decide (quarterOf e.1 e.2 = some quarter)
  let late := mine.foldl (fun n e => n + e.2.lateRequests s.clock) 0
  let drains := ((s.buffer core quarter).filter fun e => e.sentBy.isSome && e.failed.isNone && decide (e.due < s.clock)).length
  BitVec.ofNat 16 (min 0xFFFF (late + drains + s.linkBacklog (s.routerOf core)))

/-- Bring a core's four congestion counters up to date. -/
def State.countCongestion (s : State) (core : Nat) : State :=
  s.updCore core fun c => { c with congestion := (List.range 4).map fun q => (q, s.congestionNow core q) }

/-- The lull's steps that are due on a core (R366, R367). -/
def State.lullDue (s : State) (core : Nat) : List Turn :=
  let c := s.core core
  let r := (s.die (s.dieOf core)).lull
  let on := bits r 63 48
  let off := bits r 47 32
  let n (q : Nat) : Nat := ((KV.at? c.congestion q).getD 0).toNat
  ((List.range 4).filterMap fun q =>
    if c.lulled.contains q then (if n q ≤ off then some (Turn.event (.lullRelease core q)) else none)
    else if s.lullLimit core ≠ 0 ∧ on ≤ n q then some (Turn.event (.lullEngage core q)) else none)
  ++ (if !c.lulled.isEmpty && decide (s.clock % 256 = 0) then [Turn.event (.lullRotation core)] else [])

/-- Token refills of the buckets that the root monitor has set, every 64 clocks (R371). -/
def State.gustDue (s : State) : List Turn :=
  if s.clock % 64 ≠ 0 then [] else s.net.buckets.map fun e => Turn.event (.gustRefill e.1.1 e.1.2)

/-- Launches of PRIO 3 that have waited long enough (R360). -/
def State.timeoutsDue (s : State) : List Turn :=
  s.launches.filterMap fun e => if e.2.timedOut s.clock then some (Turn.event (.preemptionTimeout e.2.die e.1)) else none

/-- The recalibrations that are due (R408); whether a lane passes is not fixed (DESIGN CHOICE, log entry 8). -/
def State.rotationDue (s : State) : List Turn :=
  if s.time.toNat < rotationTicks then []
  else sublinkDirections.zipIdx.filterMap fun e =>
    (s.rotationLane e.1).map fun n =>
      Turn.event (.laneRecalibration e.1.1 e.1.2.1 e.1.2.2 n (decide (Config.pickOf s.free (128 * Config.cores + e.2) % 2 = 0)))

/-- The %grp of a group, for the order of groups that end in one clock (R6, R293). -/
def State.endRank (s : State) : Turn → Nat
  | .event (.groupEnd gid) => 1 + (match s.group? gid with | some g => g.grp.toNat | none => 0)
  | _ => 0

/-- The dated turns that come due: in the order of their dates, groups that end last and in ascending %grp. -/
def State.datedDue (s : State) : List Turn :=
  sortBy s.endRank ((sortBy (fun (e : Nat × Turn) => e.1) (s.sched.filter fun e => decide (e.1 ≤ s.clock))).map (·.2))

/-- One main clock goes by: %time runs at 1 GHz, corrected by at most 200 ppm, whatever the clock's step (R9, R392, R412), and packets
move. -/
def State.tick (s : State) : State :=
  let f := s.timeFrac + 1000 * (999800 + s.timeRate)
  let unit := s.mhz * 1000000
  { s with clock := s.clock + 1, time := s.time + BitVec.ofNat 64 (f / unit), timeFrac := f % unit, net := s.net.advance }

/-- The cores whose congestion counters may not be 0 or matter: those with groups or threads, those that hold anything of their own, and
those at a router with packets on its links (R366, R367). -/
def State.watchedCores (s : State) : List Nat :=
  let linked := if s.net.links.isEmpty then [] else
    (List.range Config.cores).filter fun c => s.net.links.any fun e => decide (e.1.src = s.routerOf c)
  sortNats (eachOnce (s.groups.map (fun e => e.2.core) ++ s.threads.map (fun e => s.coreOf e.1 e.2) ++ s.cores.map (·.1) ++ linked))

/-- A new clock: the time, what its start settles, no wave formed yet, and the congestion counters. -/
def State.newClock (s : State) : State :=
  let s := s.tick.settleBoundaries.wakeLeavers
  s.watchedCores.foldl (fun s c => s.countCongestion c) { s with waves := [], fetched := [] }

/-- What comes due in a clock. -/
def State.allDue (s : State) : List Turn :=
  s.datedDue ++ (s.reeveDue.map Turn.event) ++ s.engineDue ++ s.watchedCores.flatMap s.lullDue ++ s.gustDue ++ s.timeoutsDue ++ s.rotationDue

/-- What the cores with READY threads issue in a clock. -/
def State.issueAll (s : State) : State × List Turn :=
  s.busyCores.foldl (fun (acc : State × List Turn) c =>
    let (s, l) := acc.1.issueOn c
    (s.ageHeld c, acc.2 ++ l)) (s, [])

/-- `WAVE_ISSUE` (R365): one clock. Choices use the states at its start; what has come due goes before what issues. -/
def execWaveIssue (s : State) : Out :=
  let s := s.newClock
  let due := s.allDue
  let (s, issue) := s.issueAll
  .next { s with
    sched := s.sched.filter (fun e => !decide (e.1 ≤ s.clock)), turns := s.turns ++ due ++ issue, free := s.free + 1 }

/-! ## The lull (R366, R367) -/

/-- A quarter's congestion counter. -/
def State.congestionAt (s : State) (core q : Nat) : Nat := ((KV.at? (s.core core).congestion q).getD 0).toNat

/-- `LULL_ENGAGE` (R366). -/
def execLullEngage (core quarter : Nat) (s : State) : Out :=
  let on := bits (s.die (s.dieOf core)).lull 63 48
  if s.lullLimit core = 0 ∨ s.congestionAt core quarter < on ∨ (s.core core).lulled.contains quarter then .next s
  else .next (s.updCore core fun c => { c with lulled := c.lulled ++ [quarter] })

/-- `LULL_RELEASE` (R366). -/
def execLullRelease (core quarter : Nat) (s : State) : Out :=
  if bits (s.die (s.dieOf core)).lull 47 32 < s.congestionAt core quarter then .next s
  else .next (s.updCore core fun c => { c with lulled := c.lulled.filter fun q => decide (q ≠ quarter) })

/-- `LULL_ROTATION` (R367): the memory-bound groups after those now allowed are allowed next. -/
def execLullRotation (core : Nat) (s : State) : Out :=
  let ps := s.boundPlaces core
  let last := (s.allowedPlaces core).getLastD 0
  let next := match ps.find? (fun p => decide (last < p)) with | some p => p | none => ps.headD 0
  .next (s.updCore core fun c => { c with lullPlace := next })

end Sys2Proof.Machine
end

