-- ==== Sys2Proof/Machine/Service.lean ====
section
/-! DEFINITION. The acts of service cores and sandbox cores (R383, R386, R387, R395) and of the root monitor (R366, R371, R381). -/

namespace Sys2Proof.Machine

/-! ## KILL and VACATE (R383) -/

/-- The launch of a partition that KLAUNCH names. -/
def State.launchNamed (s : State) (part : Nat) (word : BitVec 64) : Option (Nat × Launch) :=
  s.launches.find? fun e => decide (e.2.part = part) && decide (e.2.doneWord = word)

/-- Free the pending-launch store entry of a launch that has no group to place any more (R363). -/
def State.freeEntry (s : State) (lid : Nat) : State :=
  match s.launch? lid with
  | none => s
  | some l =>
    match l.storeEntry with
    | none => s
    | some e => (s.updDie l.die fun d => { d with store := KV.del d.store e }).updLaunch lid fun l => { l with storeEntry := none }

/-- Kill one group that has no core yet: it is never placed, and counts as killed and ended (R331, R357); none when the launch has no
such group. -/
def State.killWaiting (s : State) (lid : Nat) (grp : BitVec 32) : Option State :=
  match s.launch? lid with
  | none => none
  | some l =>
    let n := grp.toNat
    if n < l.placed ∨ l.ngrp ≤ n ∨ l.dead.contains n then none
    else
      let k := Launch.passDead { l with dead := l.dead ++ [n], ended := l.ended + 1, status := l.status ||| 1 }
      let all := decide (k.ngrp ≤ k.placed)
      let s := s.updLaunch lid fun _ => { k with checked := k.checked || all }
      some ((if all then s.freeEntry lid else s).askPlacement.raise (.launchComplete lid))

/-- The placed group of a launch, by %grp, that is not at its end, whether it has executed an instruction or not. -/
def State.placedByGrp (s : State) (lid : Nat) (grp : BitVec 32) : Option Nat :=
  (s.groups.find? fun e => decide (e.2.lid = lid) && decide (e.2.grp = grp) && !e.2.ending).map (·.1)

/-- Kill a group of a launch, wherever it is; none when the launch has no such group. -/
def State.killGrp (s : State) (lid : Nat) (grp : BitVec 32) : Option State :=
  match s.placedByGrp lid grp with
  | some g => some (s.killGroup g)
  | none =>
    match s.savedByGrp lid grp with
    | some g => some (s.killSaved g)
    | none => s.killWaiting lid grp

/-- Groups that have no core yet are never placed: they count as killed and ended (R331, R357). -/
def State.killUnplaced (s : State) (lid : Nat) : State :=
  match s.launch? lid with
  | none => s
  | some l =>
    let s := s.freeEntry lid
    let early := l.dead.filter fun n => decide (l.placed ≤ n)
    let status := if l.placed < l.ngrp ∨ !l.checked then l.status ||| 1 else l.status
    (s.updLaunch lid fun l =>
      { l with checked := true, placed := l.ngrp, ended := l.ended + (l.ngrp - l.placed - early.length), status := status }).raise
        (.launchComplete lid)

/-- Kill every group of a launch. -/
def State.killLaunch (s : State) (lid : Nat) : State :=
  let s := (s.groups.filter fun e => decide (e.2.lid = lid)).foldl (fun s e => s.killGroup e.1) s
  let s := (s.saved.filter fun e => decide (e.2.group.lid = lid)).foldl (fun s e => s.killSaved e.1) s
  s.killUnplaced lid

/-- An ignored write, logged (R383, R386, R405). -/
def State.logIgnored (s : State) (part source : Nat) (v : BitVec 64) : State :=
  s.log (some part) 0x0070 0 0 (BitVec.ofNat 64 source) v 0 0 0

/-- `KILL` (R383): one group of KLAUNCH or, with all ones, every group; an unknown launch or group is logged and ignored. -/
def execKill (part : Nat) (grp : BitVec 32) (s : State) : Out :=
  let ignored : State := s.logIgnored part 2 (grp.setWidth 64)
  match KV.at? s.parts part with
  | none => .next ignored
  | some p =>
    match s.launchNamed part p.klaunch with
    | none => .next ignored
    | some (lid, _) =>
      if grp = 0xFFFFFFFF then .next (s.killLaunch lid)
      else
        match s.killGrp lid grp with
        | some t => .next t
        | none => .next ignored

/-- `VACATE` (R383, R337): so many cores of the partition on which groups stand, those of the lowest priority first. An estate handler thread
that runs on one of them only delays its being handed over. -/
def execVacate (part n : Nat) (s : State) : Out :=
  let cores := (s.partCores part).filter fun c => !(s.groupsOn c).isEmpty
  .next (s.vacate ((sortBy s.victimRank cores).take n))

/-! ## Notify words and rings (R386, R387, R395) -/

/-- `NRST` (R387): the word takes value 0 and tag EMPTY, and its waiters are served. -/
def execNotifyReset (part index : Nat) (s : State) : Out :=
  if 255 < index then .next s
  else
    match s.notifyLoc part index with
    | none => .next s
    | some l => .next (((s.wrNat l 4 0).setTag (l.key / 4) 0).serve [l.key / 4])

/-- `RCONS` (R386): taken when it passes no entry that has not been posted; when it leaves room, SPACE becomes EMPTY and its waiters are
served. -/
def execRconsWrite (part die : Nat) (v : BitVec 32) (s : State) : Out :=
  match s.ring? part die with
  | none => .next (s.logIgnored part 3 (v.setWidth 64))
  | some r =>
    let c := s.ringCons part die
    if (r.count - c).toNat < (v - c).toNat then .next (s.logIgnored part 3 (v.setWidth 64))
    else
      let s := s.updPart part fun p => { p with rcons := KV.put p.rcons die v }
      if (r.count - v).toNat < r.n then .next ((s.setTag (r.space.key / 4) 0).serve [r.space.key / 4]) else .next s

/-- The partition that a core of the 64 belongs to, and whether it is its service core (R381, R384). -/
def State.rvPart (s : State) (core : Nat) : Option (Nat × Bool) :=
  s.parts.findSome? fun e =>
    if e.2.serviceCore = core then some (e.1, true) else if e.2.sandboxCores.contains core then some (e.1, false) else none

/-- An aligned 32-bit store of a service or sandbox core at a VA of its package: to a notify word it is a fill (R387, R395). One that is not
aligned, that reaches no notify page, or whose core has no partition takes an access fault here. -/
def execNotifyFillStore (core : Nat) (va : BitVec 64) (v : BitVec 32) (s : State) : Out :=
  let fault : State := s.rvTrap core 7 va
  match s.rvPart core with
  | none => .next fault
  | some (part, _) =>
    if va.toNat % 4 ≠ 0 then .next fault
    else
      match s.gl part va Want.wr with
      | .ok p => if p.cls = 4 then .next (s.stf p.loc true v) else .next fault
      | .error _ => .next fault

/-! ## Registers and boundaries (R320, R366, R369, R371, R381) -/

/-- `REGISTER_WRITE`: a configuration register with no behaviour of its own; a value that its table rules out is not taken. -/
def execRegisterWrite (r : ConfigReg) (v : BitVec 64) (s : State) : Out :=
  match r with
  | .lull die => if lullOk v then .next (s.updDie die fun d => { d with lull := v }) else .next s
  | .gust router part => .next (s.setGust router part v)
  | .klaunch part => .next (s.updPart part fun p => { p with klaunch := v })
  | .tableRoot home => if v.toNat % 8192 = 0 then .next (s.updDie home fun d => { d with root := v }) else .next s
  | .congestionThreshold die => .next (s.updDie die fun d => { d with threshold := v.toNat })
  | .resolve part die => .next (s.resolveWrite part die v)
  | .journalPlace die => .next (s.updDie die fun d => { d with journalAt := v.toNat })

/-- Take key slots from a partition that another one gets. -/
def Part.loseKeys (p : Part) (b : Boundary) : Part :=
  let gone (k : Nat) : Bool := b.keysDev.contains k || b.keysHost.contains k
  { p with keysDev := p.keysDev.filter (fun k => !gone k), keysHost := p.keysHost.filter fun k => !gone k }

/-- The RISC-V cores that a boundary gives to a partition which did not have them. -/
def Part.newRv (p : Part) (b : Boundary) : List Nat :=
  (b.serviceCore :: b.sandboxCores).filter fun c => decide (c ≠ p.serviceCore) && !p.sandboxCores.contains c

/-- `PARTITION_BOUNDARY_SET` (R381): everything but cores and halves at once; those when they are clear. A half that the boundary gives
while no group holds it may change hands in the same act. A RISC-V core that changes hands is zeroed (R384), and a key slot serves one side
only (R389). -/
def execPartitionBoundarySet (part : Nat) (b : Boundary) (s : State) : Out :=
  if 15 < part then .next s
  else
    let old := (KV.at? s.parts part).getD Part.reset
    let p : Part := { old with
      keysDev := b.keysDev, keysHost := b.keysHost.filter (fun k => !b.keysDev.contains k), serviceCore := b.serviceCore, sandboxCores := b.sandboxCores, notifyVa := b.notifyVa
      rings := b.rings, faultRings := b.faultRings, logVa := b.logVa, logN := b.logN, kernelMeas := b.kernelMeas, savePool := b.savePool
      want := some (b.cores, b.halves) }
    let fresh := if (KV.at? s.parts part).isNone then b.serviceCore :: b.sandboxCores else old.newRv b
    let parts := s.parts.map fun (e : Nat × Part) =>
      (e.1, { e.2.loseKeys b with sandboxCores := e.2.sandboxCores.filter fun c => !fresh.contains c })
    let s := fresh.foldl (fun s c => s.updRv c fun _ => RvCore.reset) s
    .next (({ s with parts := KV.put parts part p } : State).settleBoundary part p)

end Sys2Proof.Machine
end

