-- ==== Sys2Proof/Machine/Dispatch.lean ====
section
/-! DEFINITION. One arm for every constructor of Instr: a direct call of its meaning. -/

namespace Sys2Proof.Machine

/-- The effect of one instruction or one step of the device on a state. -/
def exec (i : Instr) (s : State) : Host.Outcome State Fault Refusal :=
  match i with
  | .add f => Sys2Proof.Machine.execAdd f s
  | .sub f => Sys2Proof.Machine.execSub f s
  | .mul f => Sys2Proof.Machine.execMul f s
  | .mulh f => Sys2Proof.Machine.execMulh f s
  | .mad f => Sys2Proof.Machine.execMad f s
  | .min f => Sys2Proof.Machine.execMin f s
  | .max f => Sys2Proof.Machine.execMax f s
  | .abs f => Sys2Proof.Machine.execAbs f s
  | .neg f => Sys2Proof.Machine.execNeg f s
  | .adds f => Sys2Proof.Machine.execAdds f s
  | .and f => Sys2Proof.Machine.execAnd f s
  | .or f => Sys2Proof.Machine.execOr f s
  | .xor f => Sys2Proof.Machine.execXor f s
  | .andn f => Sys2Proof.Machine.execAndn f s
  | .not f => Sys2Proof.Machine.execNot f s
  | .shl f => Sys2Proof.Machine.execShl f s
  | .shr f => Sys2Proof.Machine.execShr f s
  | .sar f => Sys2Proof.Machine.execSar f s
  | .rot f => Sys2Proof.Machine.execRot f s
  | .clz f => Sys2Proof.Machine.execClz f s
  | .ctz f => Sys2Proof.Machine.execCtz f s
  | .popc f => Sys2Proof.Machine.execPopc f s
  | .brev f => Sys2Proof.Machine.execBrev f s
  | .bfx f => Sys2Proof.Machine.execBfx f s
  | .bfi f => Sys2Proof.Machine.execBfi f s
  | .sel f => Sys2Proof.Machine.execSel f s
  | .mov f => Sys2Proof.Machine.execMov f s
  | .cmp f => Sys2Proof.Machine.execCmp f s
  | .movi f => Sys2Proof.Machine.execMovi f s
  | .movh f => Sys2Proof.Machine.execMovh f s
  | .addImm f => Sys2Proof.Machine.execAddImm f s
  | .andImm f => Sys2Proof.Machine.execAndImm f s
  | .orImm f => Sys2Proof.Machine.execOrImm f s
  | .xorImm f => Sys2Proof.Machine.execXorImm f s
  | .fadd f => Sys2Proof.Machine.execFadd f s
  | .fsub f => Sys2Proof.Machine.execFsub f s
  | .fmul f => Sys2Proof.Machine.execFmul f s
  | .ffma f => Sys2Proof.Machine.execFfma f s
  | .fdot2 f => Sys2Proof.Machine.execFdot2 f s
  | .fmin f => Sys2Proof.Machine.execFmin f s
  | .fmax f => Sys2Proof.Machine.execFmax f s
  | .fcmp f => Sys2Proof.Machine.execFcmp f s
  | .fround f => Sys2Proof.Machine.execFround f s
  | .fclass f => Sys2Proof.Machine.execFclass f s
  | .frcp f => Sys2Proof.Machine.execFrcp f s
  | .frsq f => Sys2Proof.Machine.execFrsq f s
  | .fsqrt f => Sys2Proof.Machine.execFsqrt f s
  | .fexp2 f => Sys2Proof.Machine.execFexp2 f s
  | .flog2 f => Sys2Proof.Machine.execFlog2 f s
  | .fsin f => Sys2Proof.Machine.execFsin f s
  | .fcos f => Sys2Proof.Machine.execFcos f s
  | .cvt f => Sys2Proof.Machine.execCvt f s
  | .pk f => Sys2Proof.Machine.execPk f s
  | .upk f => Sys2Proof.Machine.execUpk f s
  | .hxq f => Sys2Proof.Machine.execHxq f s
  | .hxd f => Sys2Proof.Machine.execHxd f s
  | .hxe f => Sys2Proof.Machine.execHxe f s
  | .mxcvt f => Sys2Proof.Machine.execMxcvt f s
  | .voteAny f => Sys2Proof.Machine.execVoteAny f s
  | .voteAll f => Sys2Proof.Machine.execVoteAll f s
  | .voteNone f => Sys2Proof.Machine.execVoteNone f s
  | .votePack f => Sys2Proof.Machine.execVotePack f s
  | .voteUnpk f => Sys2Proof.Machine.execVoteUnpk f s
  | .pairedWord sa sb => Sys2Proof.Machine.execPairedWord sa sb s
  | .ld space f => Sys2Proof.Machine.execLd space f s
  | .st space f => Sys2Proof.Machine.execSt space f s
  | .ldq space f => Sys2Proof.Machine.execLdq space f s
  | .stq space f => Sys2Proof.Machine.execStq space f s
  | .pf f => Sys2Proof.Machine.execPf f s
  | .ldwf space f => Sys2Proof.Machine.execLdwf space f s
  | .ldwfe space f => Sys2Proof.Machine.execLdwfe space f s
  | .stwe space f => Sys2Proof.Machine.execStwe space f s
  | .stf space f => Sys2Proof.Machine.execStf space f s
  | .tagrd space f => Sys2Proof.Machine.execTagrd space f s
  | .tagwr space f => Sys2Proof.Machine.execTagwr space f s
  | .atomAdd space f => Sys2Proof.Machine.execAtomAdd space f s
  | .atomMin space f => Sys2Proof.Machine.execAtomMin space f s
  | .atomMax space f => Sys2Proof.Machine.execAtomMax space f s
  | .atomAnd space f => Sys2Proof.Machine.execAtomAnd space f s
  | .atomOr space f => Sys2Proof.Machine.execAtomOr space f s
  | .atomXor space f => Sys2Proof.Machine.execAtomXor space f s
  | .atomXchg space f => Sys2Proof.Machine.execAtomXchg space f s
  | .atomCas space f => Sys2Proof.Machine.execAtomCas space f s
  | .atomFadd space f => Sys2Proof.Machine.execAtomFadd space f s
  | .redAdd f => Sys2Proof.Machine.execRedAdd f s
  | .redMin f => Sys2Proof.Machine.execRedMin f s
  | .redMax f => Sys2Proof.Machine.execRedMax f s
  | .redFadd f => Sys2Proof.Machine.execRedFadd f s
  | .redflush f => Sys2Proof.Machine.execRedflush f s
  | .redseal f => Sys2Proof.Machine.execRedseal f s
  | .fence f => Sys2Proof.Machine.execFence f s
  | .acq f => Sys2Proof.Machine.execAcq f s
  | .rel f => Sys2Proof.Machine.execRel f s
  | .bind f => Sys2Proof.Machine.execBind f s
  | .unbind f => Sys2Proof.Machine.execUnbind f s
  | .cp f => Sys2Proof.Machine.execCp f s
  | .gth f => Sys2Proof.Machine.execGth f s
  | .copyQueueWrite cmd => Sys2Proof.Machine.execCopyQueueWrite cmd s
  | .engineCommandCompletion cmd => Sys2Proof.Machine.execEngineCommandCompletion cmd s
  | .bra f => Sys2Proof.Machine.execBra f s
  | .fbra f => Sys2Proof.Machine.execFbra f s
  | .brx f => Sys2Proof.Machine.execBrx f s
  | .land f => Sys2Proof.Machine.execLand f s
  | .call f => Sys2Proof.Machine.execCall f s
  | .callx f => Sys2Proof.Machine.execCallx f s
  | .ret f => Sys2Proof.Machine.execRet f s
  | .rjmark f => Sys2Proof.Machine.execRjmark f s
  | .rjoin f => Sys2Proof.Machine.execRjoin f s
  | .exit f => Sys2Proof.Machine.execExit f s
  | .yield f => Sys2Proof.Machine.execYield f s
  | .yieldExpiry w => Sys2Proof.Machine.execYieldExpiry w s
  | .nop f => Sys2Proof.Machine.execNop f s
  | .trap f => Sys2Proof.Machine.execTrap f s
  | .tret f => Sys2Proof.Machine.execTret f s
  | .mfsr f => Sys2Proof.Machine.execMfsr f s
  | .mtsr f => Sys2Proof.Machine.execMtsr f s
  | .dqpush f => Sys2Proof.Machine.execDqpush f s
  | .dqpop f => Sys2Proof.Machine.execDqpop f s
  | .nbar f => Sys2Proof.Machine.execNbar f s
  | .nbw f => Sys2Proof.Machine.execNbw f s
  | .grjoin f => Sys2Proof.Machine.execGrjoin f s
  | .grleave f => Sys2Proof.Machine.execGrleave f s
  | .crbeg f => Sys2Proof.Machine.execCrbeg f s
  | .crend f => Sys2Proof.Machine.execCrend f s
  | .sysrpc f => Sys2Proof.Machine.execSysrpc f s
  | .kick f => Sys2Proof.Machine.execKick f s
  | .diagInj f => Sys2Proof.Machine.execDiagInj f s
  | .wrecv f => Sys2Proof.Machine.execWrecv f s
  | .wemit f => Sys2Proof.Machine.execWemit f s
  | .wclose f => Sys2Proof.Machine.execWclose f s
  | .wcloseId f => Sys2Proof.Machine.execWcloseId f s
  | .wcloseEnd f => Sys2Proof.Machine.execWcloseEnd f s
  | .wmret f => Sys2Proof.Machine.execWmret f s
  | .wtimer f => Sys2Proof.Machine.execWtimer f s
  | .wstat f => Sys2Proof.Machine.execWstat f s
  | .holdLock f => Sys2Proof.Machine.execHoldLock f s
  | .holdSlot f => Sys2Proof.Machine.execHoldSlot f s
  | .holdCopy f => Sys2Proof.Machine.execHoldCopy f s
  | .heir f => Sys2Proof.Machine.execHeir f s
  | .heirSlot f => Sys2Proof.Machine.execHeirSlot f s
  | .heirGrp f => Sys2Proof.Machine.execHeirGrp f s
  | .drop f => Sys2Proof.Machine.execDrop f s
  | .dropSlot f => Sys2Proof.Machine.execDropSlot f s
  | .promise f => Sys2Proof.Machine.execPromise f s
  | .fulfil f => Sys2Proof.Machine.execFulfil f s
  | .estqInfo f => Sys2Proof.Machine.execEstqInfo f s
  | .estqObj f => Sys2Proof.Machine.execEstqObj f s
  | .estqFrom f => Sys2Proof.Machine.execEstqFrom f s
  | .estqMask f => Sys2Proof.Machine.execEstqMask f s
  | .qrld f => Sys2Proof.Machine.execQrld f s
  | .qrseed f => Sys2Proof.Machine.execQrseed f s
  | .qrseedKey f => Sys2Proof.Machine.execQrseedKey f s
  | .qrpt f => Sys2Proof.Machine.execQrpt f s
  | .qrpt4 f => Sys2Proof.Machine.execQrpt4 f s
  | .qrf f => Sys2Proof.Machine.execQrf f s
  | .qrhash f => Sys2Proof.Machine.execQrhash f s
  | .qrhashK f => Sys2Proof.Machine.execQrhashK f s
  | .qcset f => Sys2Proof.Machine.execQcset f s
  | .mzero f => Sys2Proof.Machine.execMzero f s
  | .mma f => Sys2Proof.Machine.execMma f s
  | .mdrain f => Sys2Proof.Machine.execMdrain f s
  | .epld f => Sys2Proof.Machine.execEpld f s
  | .cpb f => Sys2Proof.Machine.execCpb f s
  | .coll f => Sys2Proof.Machine.execColl f s
  | .launch f => Sys2Proof.Machine.execLaunch f s
  | .launchEst f => Sys2Proof.Machine.execLaunchEst f s
  | .esNop => Sys2Proof.Machine.execEsNop s
  | .esMov d a => Sys2Proof.Machine.execEsMov d a s
  | .esAdd d a b => Sys2Proof.Machine.execEsAdd d a b s
  | .esMul d a b => Sys2Proof.Machine.execEsMul d a b s
  | .esFma d a b c => Sys2Proof.Machine.execEsFma d a b c s
  | .esMax d a b => Sys2Proof.Machine.execEsMax d a b s
  | .esMin d a b => Sys2Proof.Machine.execEsMin d a b s
  | .esScale d a k => Sys2Proof.Machine.execEsScale d a k s
  | .esBias d a k => Sys2Proof.Machine.execEsBias d a k s
  | .esClamp d a k => Sys2Proof.Machine.execEsClamp d a k s
  | .esExp2 d a => Sys2Proof.Machine.execEsExp2 d a s
  | .esRcp d a => Sys2Proof.Machine.execEsRcp d a s
  | .esLut d a n k => Sys2Proof.Machine.execEsLut d a n k s
  | .esCmp a b c => Sys2Proof.Machine.execEsCmp a b c s
  | .esSel d a b => Sys2Proof.Machine.execEsSel d a b s
  | .esLd d m k => Sys2Proof.Machine.execEsLd d m k s
  | .esHxq d a n => Sys2Proof.Machine.execEsHxq d a n s
  | .esCvt d a n => Sys2Proof.Machine.execEsCvt d a n s
  | .esSt a w => Sys2Proof.Machine.execEsSt a w s
  | .esStt a => Sys2Proof.Machine.execEsStt a s
  | .esLoop c t => Sys2Proof.Machine.execEsLoop c t s
  | .esEnd => Sys2Proof.Machine.execEsEnd s
  | .waveIssue => Sys2Proof.Machine.execWaveIssue s
  | .longLatencyCompletion w => Sys2Proof.Machine.execLongLatencyCompletion w s
  | .reductionDrain core quarter => Sys2Proof.Machine.execReductionDrain core quarter s
  | .tableWalk part va kind who => Sys2Proof.Machine.execTableWalk part va kind who s
  | .resolveRetry part die seq => Sys2Proof.Machine.execResolveRetry part die seq s
  | .resolveTrap part die seq => Sys2Proof.Machine.execResolveTrap part die seq s
  | .resolveKill part die seq => Sys2Proof.Machine.execResolveKill part die seq s
  | .handlerStart core => Sys2Proof.Machine.execHandlerStart core s
  | .estateHandlerStart core => Sys2Proof.Machine.execEstateHandlerStart core s
  | .groupEnd gid => Sys2Proof.Machine.execGroupEnd gid s
  | .containmentUnwind gid epoch who oid cause addr => Sys2Proof.Machine.execContainmentUnwind gid epoch who oid cause addr s
  | .groupSave gid => Sys2Proof.Machine.execGroupSave gid s
  | .groupRestore gid => Sys2Proof.Machine.execGroupRestore gid s
  | .preemptionTimeout die lid => Sys2Proof.Machine.execPreemptionTimeout die lid s
  | .groupPlacement die => Sys2Proof.Machine.execGroupPlacement die s
  | .launchComplete lid => Sys2Proof.Machine.execLaunchComplete lid s
  | .replayStart die => Sys2Proof.Machine.execReplayStart die s
  | .nodeStart die graph node => Sys2Proof.Machine.execNodeStart die graph node s
  | .arrayCommandStart core half => Sys2Proof.Machine.execArrayCommandStart core half s
  | .mmaKgroupStep core half => Sys2Proof.Machine.execMmaKgroupStep core half s
  | .drainOutputEntry core half => Sys2Proof.Machine.execDrainOutputEntry core half s
  | .collectiveRun cid => Sys2Proof.Machine.execCollectiveRun cid s
  | .recordPlacement qid => Sys2Proof.Machine.execRecordPlacement qid s
  | .merge qid => Sys2Proof.Machine.execMerge qid s
  | .paneRecordMulticast qid => Sys2Proof.Machine.execPaneRecordMulticast qid s
  | .fold qid wid => Sys2Proof.Machine.execFold qid wid s
  | .windowRestore qid wid => Sys2Proof.Machine.execWindowRestore qid wid s
  | .bellWheelDue qid wid => Sys2Proof.Machine.execBellWheelDue qid wid s
  | .windowTimerExpiry qid wid => Sys2Proof.Machine.execWindowTimerExpiry qid wid s
  | .batchTimeout qid => Sys2Proof.Machine.execBatchTimeout qid s
  | .streamEnd qid => Sys2Proof.Machine.execStreamEnd qid s
  | .scanRead qid => Sys2Proof.Machine.execScanRead qid s
  | .recordFrame h die streamNo recs => Sys2Proof.Machine.execRecordFrame h die streamNo recs s
  | .lullEngage core quarter => Sys2Proof.Machine.execLullEngage core quarter s
  | .lullRelease core quarter => Sys2Proof.Machine.execLullRelease core quarter s
  | .lullRotation core => Sys2Proof.Machine.execLullRotation core s
  | .gustRefill router part => Sys2Proof.Machine.execGustRefill router part s
  | .packetInjection p => Sys2Proof.Machine.execPacketInjection p s
  | .hamletReset router => Sys2Proof.Machine.execHamletReset router s
  | .laneRecalibration pair sublink dir lane pass => Sys2Proof.Machine.execLaneRecalibration pair sublink dir lane pass s
  | .imageSwitch target unit => Sys2Proof.Machine.execImageSwitch target unit s
  | .coreRetirement core => Sys2Proof.Machine.execCoreRetirement core s
  | .laneSwap die chan sub lane => Sys2Proof.Machine.execLaneSwap die chan sub lane s
  | .schedulerTakeover die reason => Sys2Proof.Machine.execSchedulerTakeover die reason s
  | .clockStep cause watts => Sys2Proof.Machine.execClockStep cause watts s
  | .thermalTrip => Sys2Proof.Machine.execThermalTrip s
  | .illegalEncoding c w => Sys2Proof.Machine.execIllegalEncoding c w s
  | .timeTermDue qid => Sys2Proof.Machine.execTimeTermDue qid s
  | .own h lease => Sys2Proof.Machine.execOwn h lease s
  | .yieldProc h newOwner => Sys2Proof.Machine.execYieldProc h newOwner s
  | .status h => Sys2Proof.Machine.execStatus h s
  | .graphLoad h die graph va len => Sys2Proof.Machine.execGraphLoad h die graph va len s
  | .kickProc h die graph patch => Sys2Proof.Machine.execKickProc h die graph patch s
  | .map h va pfn size cls perm key => Sys2Proof.Machine.execMap h va pfn size cls perm key s
  | .unmap h va => Sys2Proof.Machine.execUnmap h va s
  | .pageGive h va => Sys2Proof.Machine.execPageGive h va s
  | .pageTake h va => Sys2Proof.Machine.execPageTake h va s
  | .write h va bytes => Sys2Proof.Machine.execWrite h va bytes s
  | .read h va len => Sys2Proof.Machine.execRead h va len s
  | .notify h index value => Sys2Proof.Machine.execNotify h index value s
  | .logRead h first count => Sys2Proof.Machine.execLogRead h first count s
  | .update h payload => Sys2Proof.Machine.execUpdate h payload s
  | .attest h nonce => Sys2Proof.Machine.execAttest h nonce s
  | .otherProcedure h => Sys2Proof.Machine.execOtherProcedure h s
  | .kill part grp => Sys2Proof.Machine.execKill part grp s
  | .vacate part n => Sys2Proof.Machine.execVacate part n s
  | .notifyReset part index => Sys2Proof.Machine.execNotifyReset part index s
  | .rconsWrite part die v => Sys2Proof.Machine.execRconsWrite part die v s
  | .notifyFillStore core va v => Sys2Proof.Machine.execNotifyFillStore core va v s
  | .registerWrite r v => Sys2Proof.Machine.execRegisterWrite r v s
  | .partitionBoundarySet part b => Sys2Proof.Machine.execPartitionBoundarySet part b s
  | .powerOn failed => Sys2Proof.Machine.execPowerOn failed s
  | .transferResend req die lane daddr va crossing => Sys2Proof.Machine.execTransferResend req die lane daddr va crossing s
  | .portRecalibration port => Sys2Proof.Machine.execPortRecalibration port s
  | .flitReplay pair sublink dir lane => Sys2Proof.Machine.execFlitReplay pair sublink dir lane s
  | .fabricPortUp port => Sys2Proof.Machine.execFabricPortUp port s
  | .timeLock locked ppm => Sys2Proof.Machine.execTimeLock locked ppm s

end Sys2Proof.Machine
end

