-- ==== Sys2Proof/Machine/RiscV.lean ====
section
/-! DEFINITION. What the service and sandbox cores do to the package: their translation (R382), the accesses of their physical address space
(R382, R384, R387, R395), the register window of a service core (R383), and a sandbox core's interrupt (R384). -/

namespace Sys2Proof.Machine

/-! ## The address space (R382, R384) -/

/-- Why a core's access is not made: an access fault, one at a bad table entry or an aborted walk, a page fault of the core's own tables, a fault
of a guest's second stage at its address, or a page that parks it at its home as a device access is. -/
inductive RvFail where
  | access
  | entry
  | walk (va : BitVec 64)
  | page
  | guest (gpa : Nat)
  | park (va : BitVec 64) (cause : BitVec 32) (entry : BitVec 128) (level : Nat)
  deriving DecidableEq, Repr

/-- The VA that a physical address with bits 55:50 zero reaches: the own package's. -/
def State.rvVa (s : State) (pa : BitVec 56) : BitVec 64 := BitVec.ofNat 64 (s.fleet.pkg * 2 ^ 50 + bits pa 49 0)

/-- The byte of memory that a core of a partition reaches at a physical address, translated at its home like a device access: a sandbox core
reaches pages of class sandbox and notify only, and nothing is fetched from a notify page (R52, R382, R384, R387). -/
def State.rvPlace (s : State) (part : Nat) (service : Bool) (w : Want) (pa : BitVec 56) : Except RvFail Place :=
  if bits pa 55 50 ≠ 0 then .error .access
  else
    match s.gl part (s.rvVa pa) w with
    | .ok p => if (!service && decide (p.cls ≠ 2) && decide (p.cls ≠ 4)) || (w.fetch && decide (p.cls = 4)) then .error .access else .ok p
    | .error (.trap c) => .error (if c = 0x0209 then .entry else if c = 0x020D then .walk (s.rvVa pa) else .access)
    | .error (.fault c e l) =>
      if !service && decide (c = 0x020C) && decide (pteClass e ≠ 2) && decide (pteClass e ≠ 4) then .error .access else .error (.park (s.rvVa pa) c e l)

/-- The places of `n` bytes from a physical address, or the first failure. -/
def State.rvPlaces (s : State) (part : Nat) (service : Bool) (w : Want) : BitVec 56 → Nat → Except RvFail (List Place)
  | _, 0 => .ok []
  | pa, n + 1 =>
    match s.rvPlace part service w pa with
    | .error f => .error f
    | .ok p =>
      match State.rvPlaces s part service w (pa + 1) n with
      | .error f => .error f
      | .ok r => .ok (p :: r)

/-! ## Sv48 (R382; PRESUMED, log entry 95) -/

/-- What a walk comes to, with the physical addresses of the entries that it reads. -/
abbrev RvWalk := List (BitVec 56) × Except RvFail (BitVec 56)

/-- An entry of a core's own table; the read of one whose sector aborts is an access fault. -/
def State.rvPte (s : State) (part : Nat) (service : Bool) (pa : BitVec 56) : Except RvFail (BitVec 64) :=
  match s.rvPlace part service Want.rd pa with
  | .error f => .error f
  | .ok p => if !s.flaws.isEmpty && s.sectorAborts (p.loc.key / 32) then .error .access else .ok (BitVec.ofNat 64 (s.rdNat p.loc 8))

/-- Is an entry of a table invalid: V clear, W without R, or a reserved bit set? -/
def rvBad (e : BitVec 64) : Bool := !e.getLsbD 0 || (!e.getLsbD 1 && e.getLsbD 2) || decide (bits e 63 54 ≠ 0)

/-- May an access use a leaf: the bits U, R, W, X, A and D, with SUM and MXR (a level, and what the access wants)? -/
def rvLeafOk (user sum mxr : Bool) (w : Want) (e : BitVec 64) : Bool :=
  (if user then e.getLsbD 4 else !e.getLsbD 4 || (sum && !w.fetch))
    && (if w.fetch then e.getLsbD 3 else if w.write then e.getLsbD 2 else e.getLsbD 1 || (mxr && e.getLsbD 3))
    && e.getLsbD 6 && (!w.write || e.getLsbD 7)

/-- A walk through `i` levels of tables from the table of a page number: `rd` reads an entry, `ok` says whether a leaf serves, `fail` is the
fault. The root of a second stage has 2,048 entries. -/
def rvWalk (rd : BitVec 56 → List (BitVec 56) × Except RvFail (BitVec 64)) (ok : BitVec 64 → Bool) (fail : RvFail) (wide : Bool) (a : Nat) :
    Nat → Nat → RvWalk
  | 0, _ => ([], .error fail)
  | i + 1, table =>
    let index := a / 2 ^ (12 + 9 * i) % (if wide && decide (i = 3) then 2048 else 512)
    match rd (BitVec.ofNat 56 (table * 4096 + 8 * index)) with
    | (l, .error f) => (l, .error f)
    | (l, .ok e) =>
      let ppn := bits e 53 10
      if rvBad e then (l, .error fail)
      else if e.getLsbD 1 || e.getLsbD 3 then
        if ppn % 2 ^ (9 * i) ≠ 0 || !ok e then (l, .error fail) else (l, .ok (BitVec.ofNat 56 (ppn * 4096 + a % 2 ^ (12 + 9 * i))))
      else
        let (m, r) := rvWalk rd ok fail wide a i ppn
        (l ++ m, r)

/-- Read an entry at a physical address. -/
def State.rvRead (s : State) (part : Nat) (service : Bool) (pa : BitVec 56) : List (BitVec 56) × Except RvFail (BitVec 64) :=
  ([pa], s.rvPte part service pa)

/-- A guest's physical address through the second stage (`hgatp`), whose leaves serve as for U mode. -/
def State.rvGuest (s : State) (part : Nat) (service : Bool) (c : RvCore) (w : Want) (gpa : Nat) : RvWalk :=
  if bits (c.csr 0x680) 63 60 ≠ 9 then ([], .ok (BitVec.ofNat 56 gpa))
  else if 2 ^ 50 ≤ gpa then ([], .error (.guest gpa))
  else rvWalk (s.rvRead part service) (rvLeafOk true false ((c.csr 0x300).getLsbD 19) w) (.guest gpa) true gpa 4 (bits (c.csr 0x680) 43 2 * 4)

/-- An address of a core as its own tables translate it: none in M mode, by `satp`, or for a guest by `vsatp` and then by the second stage. -/
def State.rvTranslate (s : State) (part : Nat) (service : Bool) (c : RvCore) (w : Want) (va : BitVec 64) : RvWalk :=
  let atp := c.csr (if c.virt then 0x280 else 0x180)
  let st := c.csr (if c.virt then 0x200 else 0x300)
  let second (gpa : BitVec 56) : RvWalk := if c.virt then s.rvGuest part service c w gpa.toNat else ([], .ok gpa)
  if c.mode = .m ∨ bits atp 63 60 ≠ 9 then (if bits va 63 56 ≠ 0 then ([], .error .access) else second (va.setWidth 56))
  else if bits va 63 47 ≠ 0 ∧ bits va 63 47 ≠ 2 ^ 17 - 1 then ([], .error .page)
  else
    let rd (gpa : BitVec 56) : List (BitVec 56) × Except RvFail (BitVec 64) :=
      match (if c.virt then s.rvGuest part service c Want.rd gpa.toNat else ([], .ok gpa)) with
      | (l, .error f) => (l, .error f)
      | (l, .ok pa) => (l ++ [pa], s.rvPte part service pa)
    match rvWalk rd (rvLeafOk (decide (c.mode = .u)) (st.getLsbD 18) (st.getLsbD 19) w) .page false (bits va 47 0) 4 (bits atp 43 0) with
    | (l, .error f) => (l, .error f)
    | (l, .ok pa) =>
      let (m, r) := second pa
      (l ++ m, r)

/-! ## The register window (R383) -/

/-- What a load of the register window reads: a register that is only written reads as a free value. -/
def State.windowRead (s : State) (part : Nat) (reg : Nat) : State × BitVec 64 :=
  match KV.at? s.parts part with
  | none => (s, 0)
  | some p =>
    if reg = 0 then (s, p.klaunch)
    else if 0x20 ≤ reg ∧ reg < 0x40 then (s, ((KV.at? p.rcons ((reg - 0x20) / 8)).getD 0).setWidth 64)
    else let (x, s) := s.drawFree; (s, x)

/-- The die whose open fault record of a partition a RESOLVE write names: the lowest that has one of that SEQ, or die 0 (DESIGN CHOICE, log
entry 58). -/
def State.resolveDie (s : State) (part : Nat) (seq : BitVec 32) : Nat :=
  ((List.range 4).find? fun d => s.faults.any fun f =>
    decide (f.part = part) && decide (f.seq = seq) && decide (homeDie f.va % 4 = d)).getD 0

/-- The state after an act of the package that always goes on. -/
def afterAct (s : State) (o : Out) : State := match o with | .next t => t | .fault _ => s | .refused _ => s

/-- A store to the register window of a partition's service core: `lo` and `hi` say which halves of the register it covers. -/
def State.windowWrite (s : State) (part reg : Nat) (lo hi : Bool) (v : BitVec 64) : State :=
  if reg = 0 then
    s.updPart part fun p =>
      { p with klaunch := BitVec.ofNat 64 ((if hi then bits v 63 32 else bits p.klaunch 63 32) * 2 ^ 32
          + if lo then bits v 31 0 else bits p.klaunch 31 0) }
  else if reg = 8 then (if hi then afterAct s (execKill part (v.extractLsb' 32 32) s) else s)
  else if reg = 0x10 then (if lo then afterAct s (execVacate part (bits v 8 0) s) else s)
  else if reg = 0x18 then (if lo then afterAct s (execNotifyReset part (bits v 7 0) s) else s)
  else if 0x20 ≤ reg ∧ reg < 0x40 then (if lo then afterAct s (execRconsWrite part ((reg - 0x20) / 8) (v.setWidth 32) s) else s)
  else if reg = 0x40 then (if lo && hi then s.resolveWrite part (s.resolveDie part (v.extractLsb' 32 32)) v else s)
  else s

/-- Does an access keep to the register window: 4 or 8 bytes, aligned, of a service core? -/
def inWindow (service : Bool) (pa : BitVec 56) (n : Nat) : Bool :=
  service && decide (bits pa 55 50 = 0x20) && decide (bits pa 49 0 < 0x48) && (decide (n = 4) || decide (n = 8)) && decide (pa.toNat % n = 0)

/-! ## Accesses (R382, R384, R387, R395) -/

/-- The result of an atomic of `n` bytes, from the old value and the operand. -/
def amoResult (op : RvAmo) (n old v : Nat) : Nat :=
  let m := 2 ^ (8 * n)
  let signed (x : Nat) : Int := if 2 * x < m then x else (x : Int) - m
  match op with
  | .swap => v
  | .add => (old + v) % m
  | .and => old &&& v
  | .or => old ||| v
  | .xor => old ^^^ v
  | .min => if signed v < signed old then v else old
  | .max => if signed old < signed v then v else old
  | .minu => min old v
  | .maxu => max old v

/-- What an act wants of its page. -/
def RvAct.want : RvAct → Want
  | .load _ _ _ => Want.rd
  | .fetch _ => Want.ex
  | _ => Want.wr

/-- What a fault record of an act says: a read, a write or atomic, or a fetch (R324). -/
def RvAct.kind : RvAct → Nat
  | .load _ _ _ => 0
  | .fetch _ => 2
  | _ => 1

/-- The failure of a core's access: a fault at its own privilege, a report of a bad entry beside it, or an access that stays parked (R52, R323,
R382, R384). The record names the core's own number among the 64 (DESIGN CHOICE, log entry 58). -/
def State.rvFail (s : State) (core part : Nat) (a : RvAct) : RvFail → State
  | .access => s.rvFault core a
  | .entry => ({ s with irqs := s.irqs ++ [.badEntry part] } : State).rvFault core a
  | .walk va => (s.readWalk part va).rvFault core a
  | .page => s.rvTrap core (a.accessFault + if a.accessFault = 1 then 11 else 8) a.addr
  | .guest gpa =>
    (s.updRv core fun c => c.setCsr 0x643 (BitVec.ofNat 64 (gpa / 4))).rvTrap core (a.accessFault + if a.accessFault = 1 then 19 else 16) a.addr
  | .park va c e l => (s.updRv core fun x => { x with parked := true }).park part core va a.kind c e l (.riscv core a)

/-- A core's access of `n` bytes: its own translation, the register window, or the places of its bytes; a swapped sub-bus delays it (R382, R383,
R404). One that crosses a page of 4 KiB is misaligned. -/
def State.rvAccess (s : State) (core part : Nat) (service : Bool) (a : RvAct) (n : Nat) (window : State → BitVec 56 → State)
    (k : State → BitVec 56 → List Place → State) : State :=
  if 4096 < a.addr.toNat % 4096 + n then s.rvTrap core (a.accessFault - 1) a.addr
  else
    let (reads, r) := s.rvTranslate part service (s.rvCore core) a.want a.addr
    let later : State := { s with sched := s.sched ++ [(s.clock + 64, .riscv core a)] }
    if reads.any fun pa => s.readOut part (s.rvVa pa) 8 then later
    else
      let s := reads.foldl (fun s pa => s.touchRead part [s.rvVa pa]) s
      match r with
      | .error f => s.rvFail core part a f
      | .ok pa =>
        if inWindow service pa n then window s pa
        else if decide (bits pa 55 50 = 0) && s.readOut part (s.rvVa pa) n then later
        else
          match s.rvPlaces part service a.want pa n with
          | .error f => s.rvFail core part a f
          | .ok ps => k s pa ps

/-- A load: the register takes the bytes as they stand at their home, in a notify page too (R387, R395). -/
def State.rvLoad (s : State) (core part : Nat) (service : Bool) (va : BitVec 64) (n rd : Nat) : State :=
  s.rvAccess core part service (.load va n rd) n
    (fun s pa =>
      let (s, v) := s.windowRead part (bits pa 49 0 / 8 * 8)
      s.updRv core fun c => c.put rd ((leBytes 8 v.toNat).drop (pa.toNat % 8) |>.take n))
    fun s pa ps =>
      match s.readPlaces part (s.rvVa pa) (ps.map Place.loc) with
      | (s, true) => s.rvFault core (.load va n rd)
      | (s, false) => s.updRv core fun c => c.put rd (ps.map fun p => s.rdByte p.loc 0)

/-- Write bytes at their places. -/
def State.rvWrite (s : State) (ps : List Place) (v : List Byte) : State := (ps.zip v).foldl (fun s e => s.wrByte e.1.loc 0 e.2) s

/-- A store: to the register window, to a notify page if it is an aligned 32-bit one, or plain (R383, R387, R395). -/
def State.rvStore (s : State) (core part : Nat) (service : Bool) (va : BitVec 64) (v : List Byte) : State :=
  let n := v.length
  s.rvAccess core part service (.store va v) n
    (fun s pa =>
      let up := decide (pa.toNat % 8 = 4)
      s.windowWrite part (bits pa 49 0 / 8 * 8) (!up) (up || decide (n = 8)) (BitVec.ofNat 64 (leNat v * if up then 2 ^ 32 else 1)))
    fun s pa ps =>
      if ps.all fun p => decide (p.cls ≠ 4) then s.rvWrite ps v
      else if n = 4 ∧ pa.toNat % 4 = 0 then afterAct s (execNotifyFillStore core (s.rvVa pa) (BitVec.ofNat 32 (leNat v)) s)
      else s.rvFault core (.store va v)

/-- An atomic, aligned, of 4 or 8 bytes; to a notify page it takes an access fault (R387). -/
def State.rvAtomic (s : State) (core part : Nat) (service : Bool) (op : RvAmo) (va : BitVec 64) (n rd v : Nat) : State :=
  let a : RvAct := .atomic op va n rd v
  if (n ≠ 4 ∧ n ≠ 8) ∨ va.toNat % n ≠ 0 then s.rvFault core a
  else
    s.rvAccess core part service a n (fun s _ => s.rvFault core a) fun s pa ps =>
      if !ps.all fun p => decide (p.cls ≠ 4) then s.rvFault core a
      else
        match s.readPlaces part (s.rvVa pa) (ps.map Place.loc) with
        | (s, true) => s.rvFault core a
        | (s, false) =>
          let old := ps.map fun p => s.rdByte p.loc 0
          (s.updRv core fun c => c.put rd old).rvWrite ps (leBytes n (amoResult op n (leNat old) (v % 2 ^ (8 * n))))

/-- What a service or sandbox core does (DESIGN CHOICE, log entry 58); a core that no partition has does nothing, and neither does one whose
access is parked. -/
def State.rvAct (s : State) (core : Nat) (a : RvAct) : State :=
  match (if (s.rvCore core).parked then none else s.rvPart core) with
  | none => s
  | some (part, service) =>
    match a with
    | .load va n rd => s.rvLoad core part service va n rd
    | .store va v => s.rvStore core part service va v
    | .atomic op va n rd v => s.rvAtomic core part service op va n rd v
    | .fetch va => s.rvAccess core part service a 2 (fun s _ => s.rvFault core a) fun s _ _ => s.updRv core fun c => { c with pc := va }
    | .interrupt => if service then s else { s with irqs := s.irqs ++ [.sandbox part core] }
    | .compute rd v => s.updRv core fun c => c.put rd v
    | .jump pc => s.updRv core fun c => { c with pc := pc &&& ~~~1 }
    | .csr n v => s.updRv core fun c => c.writeCsr n v
    | .trap cause tval => s.rvTrap core cause tval
    | .ret machine => s.updRv core fun c => c.ret machine

end Sys2Proof.Machine
end

