-- ==== Sys2Proof/Machine/Fetch.lean ====
section
/-! DEFINITION. Fetching (R52, R103, R329): what a turn executes, and how an instruction is put where the next turn fetches it. -/

namespace Sys2Proof.Machine

/-- What a turn comes to: an instruction to execute in a state, or a state alone. -/
abbrev Chosen := State × Option Instr

/-- The instruction that a fetched word stands for in a stream; an illegal word is the illegal encoding's own step (R104). -/
def wordInstr (st : Stream) (w : BitVec 64) : Instr :=
  match decode st w with
  | .ok i => i
  | .error c => .illegalEncoding c w

/-- The values a replayed word reads (R329). -/
def Thread.replayView (t : Thread) : Option Snap :=
  match t.replays.find? (fun r => decide (r.1 = t.pc)) with
  | some (_, v) => some v
  | none => none

/-- The registers that an operand field of a word reads: a pair or a quad whole, and none for z, a small immediate or a special register
(R333). -/
def Role.reads (st : Stream) (r : Role) (code : BitVec 8) : List Nat :=
  let c := code.toNat
  let run (n : Nat) : List Nat := (List.range n).map (c + ·)
  match r with
  | .src n => if st = .steward then (if c < 0x40 then [c] else []) else if c < 0x94 then run n else []
  | .vblk n => run n
  | .vrun n => run n
  | .qcsrc => if c < 0x40 then [c] else []
  | _ => []

/-- The registers that field d reads, which is a destination where it is a block. -/
def Role.readsD (st : Stream) (r : Role) (code : BitVec 8) : List Nat :=
  match r with
  | .src _ => r.reads st code
  | _ => []

/-- The own registers that an instruction reads for a thread, whose guard holds (R333). -/
def Thread.regReads (t : Thread) (st : Stream) (i : Instr) : List Nat :=
  match i with
  | .pairedWord sa sb =>
    (if t.predAt sa.g.toNat then (Role.src 1).reads st sa.a else []) ++ (if t.predAt sb.g.toNat then (Role.src 1).reads st sb.a else [])
  | _ =>
    match regShape st i with
    | some (x, f) =>
      if t.guard f.neg f.pred then x.d.readsD st f.d ++ x.a.reads st f.a ++ x.b.reads st f.b ++ x.c.reads st f.c else []
    | none =>
      match immShape i with
      | some (_, d, a, f) => if t.guard f.neg f.pred then d.readsD st f.d ++ a.reads st f.a else []
      | none => []

/-- The origin's registers that an `mfsr` of a handler thread reads (R206, R333). -/
def Thread.originReads (t : Thread) : Instr → List Nat
  | .mfsr f =>
    if t.guard f.neg f.pred ∧ bits f.mod 12 11 = 0 then (List.range (1 + bits f.mod 10 10)).map (bits f.mod 7 0 + ·) else []
  | _ => []

/-- The reads of registers of the present instruction: the code of the first uncorrectable one (R332, R333). A word that is executed again
with recorded values reads none. -/
def State.readOperands (s : State) (w : Who) (t : Thread) (i : Instr) : State × Option Nat :=
  if s.flaws.isEmpty || t.view.isSome then (s, none)
  else
    match s.readRegs w t (t.regReads (whoStream w) i) with
    | (s, some c) => (s, some c)
    | (s, none) =>
      match t.origin with
      | none => (s, none)
      | some o => match s.thread? o with | some u => s.readRegs o u (t.originReads i) | none => (s, none)

/-- A group is live from its first instruction on (R293). -/
def State.begin_ (s : State) (gid : Nat) : State :=
  match s.group? gid with
  | some g => if g.began then s else s.updGroup gid fun g => { g with began := true }
  | none => s

/-- The word that a thread has fetched: it is executed, unless a register that it reads is in error (R332, R333). -/
def State.issueWord (s : State) (w : Who) (t : Thread) (word : BitVec 64) : Chosen :=
  let t := { t with view := t.replayView }
  let i := wordInstr (whoStream w) word
  match ({ s with word := word } : State).readOperands w t i with
  | (s, some c) => (s.consume t 0 [] 0x0800 (BitVec.ofNat 64 c), none)
  | (s, none) => (s.setThread w t, some i)

/-- What the wave of a thread has fetched in this clock at an address: a word, or none where a storage error aborted the fetch (R21). -/
def State.waveFetch (s : State) (w : Who) (va : BitVec 64) : Option (Option (BitVec 64)) :=
  match KV.at? s.waves w with
  | none => none
  | some n => match KV.at? s.fetched n with | some (a, x) => if a = va then some x else none | none => none

/-- The threads of a wave share one fetch: keep what came of it for the others (R21). -/
def State.keepFetch (s : State) (w : Who) (va : BitVec 64) (x : Option (BitVec 64)) : State :=
  match KV.at? s.waves w with
  | none => s
  | some n => { s with fetched := KV.put s.fetched n (va, x) }

/-- A thread's fetch has met an uncorrectable error, which it consumes (R332). -/
def State.abortedFetch (s : State) (t : Thread) : Chosen :=
  let (x, s) := s.drawFree
  (({ s with word := x } : State).consume t 0 [] 0x020D t.pc, none)

/-- Fetch from a place: a storage error aborts it, and a swapped sub-bus keeps the thread waiting (R332, R404). -/
def State.fetchFrom (s : State) (w : Who) (t : Thread) (l : Loc) : Chosen :=
  if s.subBusOut l then (s.setThread w { t with status := .waiting .subBus }, none)
  else
    match (s.translate (s.partOf t) t.pc).readFetch (s.victimOf w t) t.pc l with
    | (s, true) => (s.keepFetch w t.pc none).abortedFetch t
    | (s, false) =>
      let x := BitVec.ofNat 64 (s.rdNat l 8)
      (s.keepFetch w t.pc (some x)).issueWord w t x

/-- A thread fetches the word at its PC under the checks of R52; an aborted walk aborts the fetch, and a
swapped sub-bus that the walk needs keeps the thread waiting (R332, R404). -/
def State.fetchWord (s : State) (w : Who) (t : Thread) : Chosen :=
  match (if s.walkOut t.pc then none else some (s.gl (s.partOf t) t.pc Want.ex)) with
  | none => (s.setThread w { t with status := .waiting .subBus }, none)
  | some (.ok p) => s.fetchFrom w t p.loc
  | some (.error (.trap c)) =>
    if c = 0x020D then (((s.readWalk (s.partOf t) t.pc).fetchError (s.coreOf w t)).keepFetch w t.pc none).abortedFetch t
    else
      let (x, s) := s.drawFree
      (({ s with word := x } : State).xfail t 0 [] t.pc t.pc 2 (.trap c), none)
  | some (.error (.fault c e l)) =>
    ((s.setThread w { t with status := .parked .fault }).park (s.partOf t) (s.coreOf w t) t.pc 2 c e l (.fetch w t.pc), none)

/-- A READY thread goes on at its PC: with the word that its wave has fetched, or its own fetch (R21). -/
def State.goThread (s : State) (w : Who) (t : Thread) : Chosen :=
  let s := (({ s with cur := w } : State).serving (s.coreOf w t)).begin_ t.gid
  match s.waveFetch w t.pc with
  | some (some x) => s.issueWord w t x
  | some none => s.abortedFetch t
  | none => s.fetchWord w t

/-- A thread's turn: it traps when its windows have ended with a failure, passes over a word that SKIP names (R329), or executes the word at
its PC; while its group is being saved it issues nothing (R338). -/
def State.chooseThread (s : State) (w : Who) : Chosen :=
  match s.thread? w with
  | none => (s, none)
  | some t =>
    if decide (t.status ≠ .ready) || s.savingOf w t then (s, none)
    else if t.wins.any Outstanding.broken then (s.trapNow w, none)
    else if t.skips.contains t.pc then (s.setThread w (t.passOver s.clock), none)
    else s.goThread w t

/-- The repeated execution of an open window entry, with the values it read at issue (R12, R230, R323). A stopped thread leaves once it owes
nothing more. -/
def State.chooseRedo (s : State) (w : Who) (oid : Nat) : Chosen :=
  match s.thread? w with
  | none => (s, none)
  | some t =>
    match t.wins.find? (fun o => decide (o.oid = oid) && decide (o.state = .redo)) with
    | none => (s, none)
    | some o =>
      let s := if t.status = .waiting .stopped then { s with turns := .reap w :: s.turns } else s
      ((({ s with cur := w, word := o.word } : State).serving (s.coreOf w t)).setThread w { t with view := some o.snap, redo := some oid },
        some (wordInstr (whoStream w) o.word))

/-- The next word of a half's epilogue program (R276). -/
def State.chooseEpilogue (s : State) (core half : Nat) : Chosen :=
  let h := s.half core half
  match h.run with
  | none => (s, none)
  | some r =>
    match (if r.finished then none else h.store[r.at_]?) with
    | none => (s, none)
    | some w => (({ s with cur := .epilogue core half } : State).serving core, esDecode w)

/-- A storage error comes to be, or goes (DESIGN CHOICE, log entry 59). -/
def State.setFlaw (s : State) (x : Site) (there : Bool) : State :=
  if there then s.addFlaw x else s.mend x

/-- The core for which an act of the device is done, where it is done for one; its quadrant's caches serve it. Any other act is served by those
of quadrant 0 (R322; DEDUCED, log entry 62). -/
def State.agentCore (s : State) (i : Instr) : Nat :=
  let ofCmd (cid : Nat) : Nat := match KV.at? s.cmds cid with | some c => c.core | none => 0
  match i with
  | .engineCommandCompletion cid => ofCmd cid
  | .copyQueueWrite cid => ofCmd cid
  | .drainOutputEntry core _ => core
  | .arrayCommandStart core _ => core
  | .mmaKgroupStep core _ => core
  | .reductionDrain core _ => core
  | .containmentUnwind gid _ _ _ _ _ => (match s.group? gid with | some g => g.core | none => 0)
  | .groupEnd gid => (match s.group? gid with | some g => g.core | none => 0)
  | .tableWalk _ _ _ who => (match s.thread? who with | some t => s.coreOf who t | none => 0)
  | _ => 0

/-- What a turn executes. -/
def State.choose (s : State) : Turn → Chosen
  | .thread w => s.chooseThread w
  | .redo w oid => s.chooseRedo w oid
  | .epilogue core half => s.chooseEpilogue core half
  | .event i => (({ s with cur := .nobody } : State).serving (s.agentCore i), some i)
  | .reap w => (s.reap w, none)
  | .flaw x there => (s.setFlaw x there, none)
  | .taken x => ({ s with irqs := s.irqs.erase x }, none)
  | .riscv core a => ((({ s with cur := .nobody } : State).serving 0).rvAct core a, none)

/-! ## Placing an instruction (DEDUCED, log entry 10) -/

/-- A page entry that lets every partition execute: valid, ordinary, 64 KiB, frame 0. -/
def codePage : BitVec 128 := BitVec.ofNat 128 (0xFFFFFFFF * 2 ^ 64 + 2 ^ 63)

/-- A launch of one group of one thread. -/
def placedLaunch : Launch :=
  { part := 0, die := 0, source := .host, record := 0, doneWord := 0, prio := 0, membound := false, laneEntry := 0,
    stewEntry := 0, spUnits := 1, paramLen := 0, heirGrp := 0xFFFFFFFF, estHandler := 0, illHandler := 0, trapHandler := 0,
    winBlock := 0, qruDesc := 0, key := 0, levels := [{ share := false, scope := 1, domain := 2, extent := 1 }],
    raw := [], qru := none, fs := [], checked := true, placed := 1, ended := 0, insts := [], heirs := [], dead := [], reports := 0, status := 0,
    storeEntry := none, accepted := 0, waitingSince := 0, query := none, done := false }

/-- A group of that launch with one READY thread, at PC 0 of a page that it may execute. -/
def State.withThread (s : State) (w : Who) : State :=
  let t := Thread.start 0 0 0 0 0 0 0 s.clock
  let s := { s with
    turns := [.thread w], threads := KV.put s.threads w t, launches := KV.put s.launches 0 placedLaunch
    groups := KV.put s.groups 0 { Group.start 0 0 0 0 0 0 1 with began := true } }
  s.updDie 0 fun d => { d with tcache := KV.put d.tcache 0 ({ page := 0, size := 0, entry := codePage } :: (KV.at? d.tcache 0).getD []) }

/-- The word of an instruction of a stream stored at PC 0, and its thread's turn next. -/
def State.placeWord (s : State) (w : BitVec 64) : State :=
  let lanes := match decode .lanes w with | .ok _ => true | .error _ => false
  let steward := match decode .steward w with | .ok _ => true | .error _ => false
  let who : Who := if !lanes && steward then .steward 0 else .lane 0 0
  (s.withThread who).wrNat { key := 0, slot := some 0 } 8 w.toNat

/-- A drain's run at its first word. -/
def placedRun : DrainRun :=
  { cid := 0, chunk := 0, at_ := 0, e := [], m := 0, loops := [], out := [], chunkOut := [], band := [], passes := 0,
    finished := false, faulted := false }

/-- An epilogue word as the one word of a drain's program on half 0 of core 0, and its epilogue processor's turn next. -/
def State.placeEpilogue (s : State) (w : BitVec 32) : State :=
  let s := s.withThread (.steward 0)
  let s := { s with turns := [.epilogue 0 0] }
  s.updHalf 0 0 fun h => { h with
    part := some 0, holder := some 0, store := [w]
    queue := [{ cid := 0, gid := 0, span := 0, kind := .drain 0 0 0 false 0, started := true }]
    run := some placedRun }

/-- Place an instruction of the opcode table's numbering. -/
def State.placeFetch (s : State) (nbits w : Nat) : State :=
  if nbits = 32 then s.placeEpilogue (BitVec.ofNat 32 w) else s.placeWord (BitVec.ofNat 64 w)

end Sys2Proof.Machine
end

