-- ==== Sys2Proof/Machine/Step.lean ====
section
/-! DEFINITION. One step of the package: the turn that comes next, or, when none waits, one main clock of the cores' issue. -/

namespace Sys2Proof.Machine

/-- One step. The first turn goes; with none waiting the clock advances and the cores choose what issues (R365), unless the compute dies
have no power (R412). -/
def step (s : State) : Host.Outcome State Fault Refusal :=
  match s.turns with
  | [] => if s.power then exec .waveIssue { s with cur := .nobody } else .fault .powerLost
  | t :: r =>
    match ({ s with turns := r, turn := t } : State).choose t with
    | (u, some i) => exec i u
    | (u, none) => .next u

/-- `s` with an instruction stored where the next step fetches it. -/
def State.withFetchWord (s : State) (nbits w : Nat) : State := s.placeFetch nbits w

end Sys2Proof.Machine
end

