-- ==== Sys2Proof/Safety.lean ====
section
/-! DEFINITION. What counts as a safe step and a sound state, and the terms in which claims are stated: the thread that executes, the
families of instructions by what they may change, and their destinations. -/

namespace Sys2Proof.Machine

/-! ## Safe steps and sound states -/

/-- A step is safe when it neither stops with a fault nor is refused. -/
def State.StepsOn (s : State) : Prop := ∃ u, step s = .next u

/-- Memory, tags and key slots are in canonical form: equal contents are equal data. -/
def State.StoresOk (s : State) : Prop := Memory.wf s.mem = true ∧ Sparse.wf s.tags = true ∧ Sparse.wf s.secKey = true

/-! ## The executing thread -/

/-- `t` is the thread that executes, and its guard holds (R94). -/
def State.Executes (s : State) (t : Thread) (neg : Bool) (pred : BitVec 3) : Prop :=
  s.thread? s.cur = some t ∧ t.guard neg pred = true

/-- `t` executes a control transfer whose guard holds, every open window having ended; `u` is `t` with their results written (R10). -/
def State.Transfers (s : State) (t u : Thread) (neg : Bool) (pred : BitVec 3) : Prop :=
  s.thread? s.cur = some t ∧ t.wins.all Outstanding.ended = true ∧ u = t.closeWindows true ∧ u.guard neg pred = true

/-- The thread has no open window and executes nothing again: no replay, no recorded set, no restored values, no access and no flush point under
way (R10, R53, R177, R329). -/
def Thread.Plain (t : Thread) : Prop :=
  t.wins = [] ∧ t.redo = none ∧ t.view = none ∧ t.wrote = [] ∧ t.replays = [] ∧ t.held = [] ∧ t.flushed = []

/-- The access passes the checks of R166 and reaches the place `p`; no earlier access, scoreboard entry, empty token bucket or sub-bus holds it
back, and what it reads has no uncorrectable error. It is then performed in `u`: `s` with its request's tokens taken, its page cached and
correctable errors corrected (R53, R63, R322, R332, R371, R404). -/
def State.Reaches (s : State) (t : Thread) (spc : Space) (ea : BitVec 64) (size : Nat) (a : Acc) (p : Place) (u : State) : Prop :=
  s.access s.cur t spc ea size a = .ok p ∧ s.heldBack t spc (s.homeVa t spc ea) p.loc size a.write = none ∧
    (if a.reads then
        (s.admitted t spc (s.homeVa t spc ea) a.write).readFor
          ((s.admitted t spc (s.homeVa t spc ea) a.write).victimOf (s.admitted t spc (s.homeVa t spc ea) a.write).cur t)
          ((s.homeVa t spc ea).getD 0) p.loc size
      else (s.admitted t spc (s.homeVa t spc ea) a.write, none)) = (u, none)

/-- The flush point of the thread completes in `u`: its quarter's buffer drains without a failure and nothing stays held (R58, R80). -/
def State.Flushes (s : State) (t : Thread) (u : State) : Prop :=
  match quarterOf s.cur t with
  | none => u = s
  | some q =>
    u = s.flushOnce t (s.coreOf s.cur t) q ∧ u.drainHeld (s.coreOf s.cur t) q = false ∧ u.drainFailure (s.coreOf s.cur t) q s.cur = none

/-- A release of the thread completes in `u`: none of its earlier accesses is still to be performed, and its flush point completes (R58,
R62, R80). -/
def State.ReleasesAll (s : State) (t : Thread) (u : State) : Prop := t.owesAccess = false ∧ s.Flushes t u

/-- The release half of a tagged store completes in `u`: a release with `.rel`, nothing without (R62, R98). -/
def State.Releases (s : State) (t : Thread) (m : BitVec 13) (u : State) : Prop := if modOrd m = 2 then s.ReleasesAll t u else u = s

/-- Byte `i` of `l` is none of the `n` bytes of `p`; it lies in another sector, or is read under the slot that `p` is written with, so that
a key slot has no part in it (R390). -/
def Loc.Apart (l : Loc) (i : Nat) (p : Loc) (n : Nat) : Prop :=
  (l.key + i < p.key ∨ p.key + n ≤ l.key + i) ∧
    (l.slot = p.slot ∨ p.slot = none ∨ (l.key + i) / 32 < p.key / 32 ∨ (p.key + n - 1) / 32 < (l.key + i) / 32)

/-- `t` is the steward of group `g`, with no asynchronous fault and no bad queue waiting for it (R56, R264). -/
def State.Commands (s : State) (t : Thread) (g : Group) : Prop :=
  s.cur = .steward t.gid ∧ s.groupOf t = some g ∧ g.asyncFault = none ∧ ∀ e ∈ g.queues, e.2.bad = false

/-- The halves belong to the group's partition, no other group holds one, and their queues have room (R253, R263). -/
def State.HalvesOpen (s : State) (t : Thread) (g : Group) (hs : List Nat) : Prop :=
  ∀ h ∈ hs, (s.half g.core h).part = some g.part ∧ ((s.half g.core h).holder = none ∨ (s.half g.core h).holder = some t.gid) ∧
    (s.half g.core h).queue.length < 32

/-- `u` is `s` after a group 14 command was queued: the command is the last in the queue of each of its halves, which the group now
holds, and its steward has gone on (R253, R263). -/
def State.Queued (s u : State) (t : Thread) (g : Group) (hs : List Nat) (m : MxCmd) : Prop :=
  u.thread? s.cur = (s.done t []).thread? s.cur ∧ u.mem = s.mem ∧
    ∀ h ∈ hs, (u.half g.core h).queue = (s.half g.core h).queue ++ [m] ∧ (u.half g.core h).holder = some t.gid

/-- A well-formed request for a procedure, whose PART names something and whose server is ready (R374, R375, R380); the owner's lease is
renewed in `v` (R378). -/
def State.Served (s : State) (h : MsgHdr) (proc : Nat) (v : State) : Prop :=
  headerOk h proc = true ∧ s.partNamed h = true ∧ v = s.renew h ∧ v.serverReady h = true ∧ s.callDue h = none

/-- The same of a partition's owner. -/
def State.Asks (s : State) (h : MsgHdr) (proc : Nat) (v : State) : Prop := s.Served h proc v ∧ isPackage h = false ∧ s.isOwner h = true

/-- The own translation of a service or sandbox core, which is not parked, gives the physical address `pa` for the `n` bytes of an act, and no sub-bus
that its tables need is out of use; `u` is `s` after the reads of those tables (R382, R404). -/
def State.RvTranslates (s : State) (core part : Nat) (svc : Bool) (a : RvAct) (n : Nat) (pa : BitVec 56) (u : State) : Prop :=
  (s.rvCore core).parked = false ∧ s.rvPart core = some (part, svc) ∧ a.addr.toNat % 4096 + n ≤ 4096 ∧
    ∃ reads, s.rvTranslate part svc (s.rvCore core) a.want a.addr = (reads, .ok pa) ∧ (∀ x ∈ reads, s.readOut part (s.rvVa x) 8 = false) ∧
      u = reads.foldl (fun s x => s.touchRead part [s.rvVa x]) s

/-- The same, for an act outside the register window whose bytes' sub-bus is in use. -/
def State.RvReaches (s : State) (core part : Nat) (svc : Bool) (a : RvAct) (n : Nat) (pa : BitVec 56) (u : State) : Prop :=
  s.RvTranslates core part svc a n pa u ∧ inWindow svc pa n = false ∧ (bits pa 55 50 ≠ 0 ∨ u.readOut part (u.rvVa pa) n = false)

/-- A plain thread after an instruction that wrote `ws` and goes on at `pc`. -/
def Thread.after (t : Thread) (ws : List (Dest × BitVec 64)) (pc : BitVec 64) (clock : Nat) : Thread :=
  { t.putAll ws with pc := pc, status := .ready, readySince := clock }

/-- The content of a destination (R43, R25, R220). -/
def Thread.content (t : Thread) : Dest → BitVec 64
  | .reg c => (Sparse.rd t.regs c).setWidth 64
  | .sreg n => Sparse.rd t.sregs n
  | .pred n => if t.preds.getLsbD n then 1 else 0
  | .recTs => t.recTs
  | .recSeq => t.recSeq
  | .recFlags => t.recFlags.setWidth 64

/-! ## The cases of R104 -/

/-- The cases of R104 that a word in register, memory or immediate format meets by its shape, in no order: an operand field is illegal by its
role, a reserved value of a field or a code that its position forbids. -/
def Shape.Meets (st : Stream) (h : Shape) (f : RegF) : IllCause → Prop
  | .stream => h.stream.allows st = false
  | .field => (f.neg = true ∧ f.pred = 0) ∨ h.modOk = false ∨ h.d.cause st f.d = some .field ∨ h.a.cause st f.a = some .field ∨
      h.b.cause st f.b = some .field ∨ h.c.cause st f.c = some .field
  | .operand => h.d.cause st f.d = some .operand ∨ h.a.cause st f.a = some .operand ∨ h.b.cause st f.b = some .operand ∨
      h.c.cause st f.c = some .operand
  | .lookahead => h.long = false ∧ f.la ≠ 0
  | .bank => st = .lanes ∧ ∃ k, h.a.bank f.a = some k ∧ h.b.bank f.b = some k ∧ h.c.bank f.c = some k
  | .opcode => False
  | .pair => False

/-- The cases that one slot of a paired word meets (R100, R162, R163). -/
def SlotMeets (x : SlotF) : IllCause → Prop
  | .opcode => 0x28 ≤ x.op.toNat
  | .field => 4 ≤ x.g.toNat ∨ slotModOk x = false
  | .operand => slotOperandsOk x = false
  | _ => False

/-- The cases that a paired word meets: none but an unassigned code and the stream in a steward stream; in a lane stream those of slot A, those
of slot B where slot A meets none, and the rules of R100 for both. -/
def PairMeets (st : Stream) (x y : SlotF) (c : IllCause) : Prop :=
  if st = .steward then c = .stream ∨ (c = .opcode ∧ (0x28 ≤ x.op.toNat ∨ 0x28 ≤ y.op.toNat))
  else SlotMeets x c ∨ ((∀ k, ¬ SlotMeets x k) ∧ SlotMeets y c) ∨
    (c = .pair ∧ (pairBanksOk x y = false ∨ (x.d = y.d ∧ x.d ≠ 0x94)))

/-- The cases that an instruction meets in a stream. -/
def Meets (st : Stream) (i : Instr) (c : IllCause) : Prop :=
  match regShape st i, immShape i, i with
  | some (h, f), _, _ => h.Meets st f c
  | none, some (r, d, a, f), _ => (Shape.mk r d a .ofs .ofs true true).Meets st ⟨f.neg, f.pred, f.d, f.a, 0, 0, 0, 0⟩ c
  | none, none, .pairedWord x y => PairMeets st x y c
  | _, _, _ => False

/-- The cases that a word meets in a stream, by what the opcode map makes of it; `bit0` is bit 0 of a format that must hold 0 there. -/
def WordMeets (st : Stream) : Parsed → IllCause → Prop
  | .unassigned, c => c = .opcode
  | .reserved r, c => c = .field ∨ (c = .stream ∧ r.allows st = false)
  | .word i bit0, c => Meets st i c ∨ (c = .field ∧ bit0 = true)

/-! ## Families -/

/-- The registers of a destination of `n` registers in a stream: the lane registers from a code, or one `s` register; z has none
(R44, R92). -/
def regDests (w : Who) (n : Nat) (c : BitVec 8) : List Dest :=
  if c = 0x94 then []
  else match whoStream w with
    | .lanes => (List.range n).map fun e => .reg (c.toNat + e)
    | .steward => [.sreg c.toNat]

end Sys2Proof.Machine

namespace Sys2Proof

open Sys2Proof.Machine

/-- The instructions that only compute: groups 0 to 4 and paired words (R142 to R163). -/
def Instr.isCompute : Instr → Bool
  | .add _ => true | .sub _ => true | .mul _ => true | .mulh _ => true | .mad _ => true | .min _ => true | .max _ => true
  | .abs _ => true | .neg _ => true | .adds _ => true | .and _ => true | .or _ => true | .xor _ => true | .andn _ => true
  | .not _ => true | .shl _ => true | .shr _ => true | .sar _ => true | .rot _ => true | .clz _ => true | .ctz _ => true
  | .popc _ => true | .brev _ => true | .bfx _ => true | .bfi _ => true | .sel _ => true | .mov _ => true | .cmp _ => true
  | .movi _ => true | .movh _ => true | .addImm _ => true | .andImm _ => true | .orImm _ => true | .xorImm _ => true
  | .fadd _ => true | .fsub _ => true | .fmul _ => true | .ffma _ => true | .fdot2 _ => true | .fmin _ => true
  | .fmax _ => true | .fcmp _ => true | .fround _ => true | .fclass _ => true | .cvt _ => true | .pk _ => true | .upk _ => true
  | .voteAny _ => true | .voteAll _ => true | .voteNone _ => true | .votePack _ => true | .voteUnpk _ => true
  | .pairedWord _ _ => true
  | _ => false

/-- What a computing instruction may write besides the pc: its destination registers, or its predicates (R90, R101). -/
def Instr.dests (w : Who) : Instr → List Dest
  | .cmp f => [.pred f.d.toNat]
  | .fcmp f => [.pred f.d.toNat]
  | .voteAny f => [.pred f.d.toNat]
  | .voteAll f => [.pred f.d.toNat]
  | .voteNone f => [.pred f.d.toNat]
  | .voteUnpk _ => (List.range 8).map .pred
  | .pairedWord sa sb => regDests w 1 sa.d ++ regDests w 1 sb.d
  | i =>
    match regShape (whoStream w) i with
    | some (h, f) => (match h.d with | .dst n => regDests w n f.d | _ => [])
    | none =>
      match immShape i with
      | some (_, .dst n, _, f) => regDests w n f.d
      | _ => []

end Sys2Proof
end

