-- ==== Sys2Proof/Certificates/Slice0/Obligations.lean ====
section
/-! DEFINITION. The statements about this model that the provers are asked to prove. -/

section

open Sys2Proof Sys2Proof.Machine

/-! ## Encoding and decoding -/

/-- Words that the spec writes out in its tables "Encodings worked out" decode, in the stream in which each is legal, to the
instruction that stands beside it. -/
def Obligations.SpecWordsDecode : Prop :=
  (decode .lanes 0x0000040409280E00 = .ok (.add ⟨false, 0, 2, 2, 4, 0x94, 0, 0x0E00⟩) ∧
      decode .lanes 0x2800080328000E00 = .ok (.ld .sp ⟨false, 0, 4, 1, 0x94, 0, 0, 0x0E00⟩) ∧
      decode .lanes 0x40032929FFFFFFF6 = .ok (.bra ⟨false, 1, 0x94, 0x94, 0xFFFFFFFB⟩) ∧
      decode .lanes 0x1042101013281600 = .ok (.fmul ⟨false, 1, 8, 8, 9, 0x94, 0, 0x1600⟩) ∧
      decode .lanes 0x18E0060529280764 = .ok (.cvt ⟨false, 0, 3, 2, 0x94, 0x94, 0, 0x0764⟩) ∧
      decode .lanes 0x800080A0000181C0 = .ok (.pairedWord ⟨0, 0, 4, 5, 0⟩ ⟨0, 0, 6, 7, 0⟩) ∧
      decode .lanes 0x08000F28000007D0 = .ok (.movi ⟨false, 0, 7, 0x94, 1000⟩) ∧
      decode .lanes 0x314128080C040F20 = .ok (.stwe .gl ⟨false, 0, 0x94, 4, 6, 2, 0, 0x0F20⟩)) ∧
    (decode .lanes 0x30C0060928004F10 = .ok (.ldwfe .gl ⟨false, 0, 3, 4, 0x94, 0, 2, 0x0F10⟩) ∧
      decode .lanes 0x36C002040C0E0E00 = .ok (.atomCas .gl ⟨false, 0, 1, 2, 6, 7, 0, 0x0E00⟩) ∧
      decode .lanes 0x386128040A001600 = .ok (.redFadd ⟨false, 0, 0x94, 2, 5, 0, 0, 0x1600⟩) ∧
      decode .lanes 0x38C1292929281000 = .ok (.fence ⟨false, 0, 0x94, 0x94, 0x94, 0x94, 0, 0x1000⟩) ∧
      decode .steward 0x3961280929281300 = .ok (.cp ⟨false, 0, 0x94, 4, 0x94, 0x94, 0, 0x1300⟩) ∧
      decode .lanes 0x4141292929280000 = .ok (.nop ⟨false, 0, 0x94, 0x94, 0x94, 0x94, 0, 0⟩) ∧
      decode .lanes 0x4161292929280007 = .ok (.trap ⟨false, 0, 0x94, 0x94, 0x94, 0x94, 0, 7⟩) ∧
      decode .lanes 0x40E0032929280000 = .ok (.rjoin ⟨false, 0, 1, 0x94, 0x94, 0x94, 0, 0⟩)) ∧
    (decode .lanes 0x6120032929284E00 = .ok (.dqpop ⟨false, 0, 1, 0x94, 0x94, 0x94, 2, 0x0E00⟩) ∧
      decode .lanes 0x6140012929280000 = .ok (.nbw ⟨false, 0, 0, 0x94, 0x94, 0x94, 0, 0⟩) ∧
      decode .lanes 0x60A0092929280C00 = .ok (.mfsr ⟨false, 0, 4, 0x94, 0x94, 0x94, 0, 0x0C00⟩) ∧
      decode .steward 0x68432929FFFFFFFA = .ok (.fbra ⟨false, 1, 0x94, 0x94, 0xFFFFFFFD⟩) ∧
      decode .lanes 0x4800032929284000 = .ok (.wrecv ⟨false, 0, 1, 0x94, 0x94, 0x94, 2, 0⟩) ∧
      decode .lanes 0x482128212928000F = .ok (.wemit ⟨false, 0, 0x94, 0x10, 0x94, 0x94, 0, 0x000F⟩) ∧
      decode .steward 0x4840020407280001 = .ok (.wcloseId ⟨false, 0, 1, 2, 3, 0x94, 0, 1⟩) ∧
      decode .lanes 0x48A0099329280000 = .ok (.wstat ⟨false, 0, 4, 0xC9, 0x94, 0x94, 0, 0⟩)) ∧
    (decode .steward 0x7000060F29280000 = .ok (.qcset ⟨false, 0, 3, 7, 0x94, 0x94, 0, 0⟩) ∧
      decode .steward 0x702002080A0C08C0 = .ok (.mma ⟨false, 0, 1, 4, 5, 6, 0, 0x08C0⟩) ∧
      decode .steward 0x7060000407280050 = .ok (.mdrain ⟨false, 0, 0, 2, 3, 0x94, 0, 0x0050⟩) ∧
      decode .steward 0x70A1280929280700 = .ok (.cpb ⟨false, 0, 0x94, 4, 0x94, 0x94, 0, 0x0700⟩) ∧
      decode .lanes 0x5000020587280400 = .ok (.holdLock ⟨false, 0, 1, 2, 0xC3, 0x94, 0, 0x0400⟩) ∧
      decode .lanes 0x508004080D281040 = .ok (.fulfil ⟨false, 0, 2, 4, 6, 0x94, 0, 0x1040⟩) ∧
      decode .lanes 0x5840080205284000 = .ok (.qrpt ⟨false, 0, 4, 1, 2, 0x94, 2, 0⟩) ∧
      decode .lanes 0x5880100205280004 = .ok (.qrf ⟨false, 0, 8, 1, 2, 0x94, 0, 4⟩))

/-- Decode and encode agree: the word of every instruction that is well formed in a stream decodes there to that instruction, whatever
its operands. -/
def Obligations.DecodeOfEncode : Prop :=
  ∀ (st : Stream) (i : Instr), WellFormed st i → decode st (encode i) = .ok i

/-- Each legal word has one spelling: what a word decodes to in a stream is well formed there and encodes to that word. -/
def Obligations.EncodeOfDecode : Prop :=
  ∀ (st : Stream) (w : BitVec 64) (i : Instr), decode st w = .ok i → WellFormed st i ∧ encode i = w

/-- The same for epilogue words, in both directions.

An illegal word decodes to the first case of R104 that it meets, in the order of the codes; within a paired word slot A is judged before
slot B. The codes are those of the table. So a word that parses to an instruction that has a cause in the stream decodes to that cause, bit 0
set where it must be 0 being an ill.field that precedes all causes but ill.opcode and ill.stream. Group 15 is unassigned. An illegal word is
fetched as the illegal encoding of its cause, and what has a cause is never decoded. -/
def Obligations.EpilogueAndIllegalWords : Prop :=
  ((∀ i : Instr, EsWellFormed i → esDecode (esEncode i) = some i) ∧
    ∀ (w : BitVec 32) (i : Instr), esDecode w = some i → EsWellFormed i ∧ esEncode i = w) ∧
  ((∀ (st : Stream) (w : BitVec 64) (c : IllCause), decode st w = .error c ↔
      WordMeets st (parse w) c ∧ ∀ k, WordMeets st (parse w) k → (IllCause.code c).toNat ≤ (IllCause.code k).toNat) ∧
    (IllCause.code .opcode = 0x0100 ∧ IllCause.code .stream = 0x0101 ∧ IllCause.code .field = 0x0102 ∧ IllCause.code .operand = 0x0103 ∧
      IllCause.code .lookahead = 0x0104 ∧ IllCause.code .bank = 0x0105 ∧ IllCause.code .pair = 0x0106) ∧
    (∀ (st : Stream) (w : BitVec 64) (i : Instr) (b : Bool) (c : IllCause), parse w = .word i b → illegal st i = some c →
      decode st w = .error (if b = true ∧ 0x0102 < (IllCause.code c).toNat then .field else c)) ∧
    (∀ (st : Stream) (w : BitVec 64) (c : IllCause), decode st w = .error c → wordInstr st w = .illegalEncoding c w) ∧
    (∀ (w : BitVec 64), bits w 62 59 = 15 → w.getLsbD 63 = false → ∀ st, decode st w = .error .opcode) ∧
    ∀ (st : Stream) (i : Instr), i.isWord = true → illegal st i ≠ none → ∀ w, decode st w ≠ .ok i)

/-! ## How an instruction completes -/

/-- A plain thread that completes an instruction has written its results in order and stands at the next word, READY; every other thread
and every other field of the state is as it was (R15, R18, R86).

Writing a destination: a lane register takes the low 32 bits, z discards; an `s` register takes 64; a predicate becomes set or clear,
number 0 keeps its value; the record registers take the value; and nothing but the destination changes (R25, R43, R91).

Whatever its guard says, an instruction whose guard is false only goes to the next word (R21, R94): every guarded instruction of
either stream, control transfers included. -/
def Obligations.CompletionAndWrites : Prop :=
  (∀ (s : State) (t : Thread) (ws : List (Dest × BitVec 64)), s.thread? s.cur = some t → t.Plain →
    s.done t ws = s.setThread s.cur (t.after ws (t.pc + 8) s.clock)) ∧
  (∀ (t : Thread) (v : BitVec 64), Sparse.wf t.regs = true → Sparse.wf t.sregs = true →
    (∀ c < 0x94, (t.put (.reg c) v).content (.reg c) = (v.setWidth 32).setWidth 64) ∧ t.put (.reg 0x94) v = t ∧
      (∀ n < 64, (t.put (.sreg n) v).content (.sreg n) = v) ∧
      (∀ n, 0 < n → n < 8 → (t.put (.pred n) v).content (.pred n) = if v = 0 then 0 else 1) ∧ t.put (.pred 0) v = t ∧
      (t.put .recTs v).recTs = v ∧ (t.put .recSeq v).recSeq = v ∧ (t.put .recFlags v).recFlags = v.setWidth 32 ∧
      ∀ d e : Dest, e ≠ d → (t.put d v).content e = t.content e) ∧
  (∀ (s : State) (t : Thread) (i : Instr), s.thread? s.cur = some t → t.Plain →
    (∀ op f, regCode i = some (op, f) → t.guard f.neg f.pred = false → exec i s = .next (s.done t [])) ∧
      ∀ op f, immCode i = some (op, f) → t.guard f.neg f.pred = false → exec i s = .next (s.done t []))

/-! ## Integer instructions (R142 to R148) -/

/-- The arithmetic of R142: x is exact, then clamped under SAT or wrapped, and written as the type says. -/
def Obligations.IntegerArithmetic : Prop :=
  ∀ (s : State) (t : Thread) (f : RegF) (ty : Nat) (a b c x : Int), s.Executes t f.neg f.pred → ty = modType f.mod →
    a = valueOf ty (s.srcType s.cur t ty f.a) → b = valueOf ty (s.srcType s.cur t ty f.b) →
    c = valueOf ty (s.srcType s.cur t ty f.c) →
    let put (x : Int) : Out := .next (s.done t (dstType s.cur ty f.d (wrapTo ty x)))
    let sat (x : Int) : Int := if modSat f.mod = true then satTo ty x else x
    (exec (.add f) s = put (sat (a + b)) ∧ exec (.sub f) s = put (sat (a - b)) ∧ exec (.mul f) s = put (sat (a * b)) ∧
        exec (.mad f) s = put (sat (a * b + c)) ∧ exec (.abs f) s = put (sat a.natAbs) ∧ exec (.neg f) s = put (sat (0 - a)) ∧
        exec (.adds f) s = put (sat (a + b * 2 ^ ((s.src32 s.cur t f.c).toNat % typeWidth ty)))) ∧
      (x * 2 ^ typeWidth ty ≤ a * b → a * b < (x + 1) * 2 ^ typeWidth ty → exec (.mulh f) s = put x) ∧
      exec (.min f) s = put (min a b) ∧ exec (.max f) s = put (max a b)

/-- The logical and shift instructions of R143 on the w-bit fields `x` and `y`; CNT is the control operand modulo w.

The counts of R143: leading zeros, trailing zeros and set bits of the w-bit field `x`, written zero-extended, and the reversed
field, bit n of which is bit w − 1 − n. -/
def Obligations.IntegerLogicAndCounts : Prop :=
  (∀ (s : State) (t : Thread) (f : RegF) (ty w x y n : Nat), s.Executes t f.neg f.pred → ty = modType f.mod → w = typeWidth ty →
    x = (s.srcType s.cur t ty f.a).toNat % 2 ^ w → y = (s.srcType s.cur t ty f.b).toNat % 2 ^ w →
    n = (s.src32 s.cur t f.b).toNat % w →
    let put (r : Nat) : Out := .next (s.done t (dstType s.cur ty f.d (wrapTo ty (r : Int))))
    (exec (.and f) s = put (x &&& y) ∧ exec (.or f) s = put (x ||| y) ∧ exec (.xor f) s = put (x ^^^ y) ∧
        exec (.andn f) s = put (x &&& (2 ^ w - 1 - y)) ∧ exec (.not f) s = put (2 ^ w - 1 - x)) ∧
      (exec (.shl f) s = put (x * 2 ^ n % 2 ^ w) ∧ exec (.shr f) s = put (x / 2 ^ n) ∧
        exec (.sar f) s = put (if x < 2 ^ (w - 1) then x / 2 ^ n else 2 ^ w - 1 - (2 ^ w - 1 - x) / 2 ^ n) ∧
        exec (.rot f) s = put (x * 2 ^ n % 2 ^ w + x / 2 ^ (w - n)))) ∧
  (∀ (s : State) (t : Thread) (f : RegF) (ty w x : Nat), s.Executes t f.neg f.pred → ty = modType f.mod → w = typeWidth ty →
    x = (s.srcType s.cur t ty f.a).toNat % 2 ^ w →
    (∃ n ≤ w, x < 2 ^ (w - n) ∧ (n < w → 2 ^ (w - 1 - n) ≤ x) ∧
        exec (.clz f) s = .next (s.done t (dstType s.cur ty f.d (BitVec.ofNat 64 n)))) ∧
      (∃ n ≤ w, 2 ^ n ∣ x ∧ (n < w → x / 2 ^ n % 2 = 1) ∧
        exec (.ctz f) s = .next (s.done t (dstType s.cur ty f.d (BitVec.ofNat 64 n)))) ∧
      exec (.popc f) s =
        .next (s.done t (dstType s.cur ty f.d (BitVec.ofNat 64 ((List.range w).filter fun i => x.testBit i).length))) ∧
      ∃ r : Nat, r < 2 ^ w ∧ (∀ n < w, r.testBit n = x.testBit (w - 1 - n)) ∧
        exec (.brev f) s = .next (s.done t (dstType s.cur ty f.d (wrapTo ty (r : Int)))))

/-- The bit fields of R144: with L = 0 or P at or beyond w the field is empty; else it is bits P + L − 1 to P, cut at w; `.sat` is refused. -/
def Obligations.BitFields : Prop :=
  ∀ (s : State) (t : Thread) (f : RegF) (ty w x y p l : Nat) (ctl : BitVec 32), s.Executes t f.neg f.pred → ty = modType f.mod →
    w = typeWidth ty → x = (s.srcType s.cur t ty f.a).toNat % 2 ^ w → y = (s.srcType s.cur t ty f.b).toNat % 2 ^ w →
    p = ctl.toNat % 256 → l = min (ctl.toNat / 256 % 256) (w - p) →
    let put (r : BitVec 64) : Out := .next (s.done t (dstType s.cur ty f.d r))
    (ctl = s.src32 s.cur t f.b →
        exec (.bfx f) s = put (if l = 0 then 0
          else wrapTo ty (if typeSigned ty = true ∧ 2 ^ (l - 1) ≤ x / 2 ^ p % 2 ^ l then (x / 2 ^ p % 2 ^ l : Int) - 2 ^ l
            else (x / 2 ^ p % 2 ^ l : Nat)))) ∧
      (ctl = s.src32 s.cur t f.c →
        ∃ r : Nat, r < 2 ^ w ∧ (∀ n < w, r.testBit n = if p ≤ n ∧ n < p + l then y.testBit (n - p) else x.testBit n) ∧
          exec (.bfi f) s = put (wrapTo ty (r : Int))) ∧
      bits (encode (.bfx f)) 62 53 = 0x015 ∧ bits (encode (.bfi f)) 62 53 = 0x016 ∧
      (modSat f.mod = true → ∀ st, illegal st (.bfx f) ≠ none ∧ illegal st (.bfi f) ≠ none)

/-- `mov` and `sel` write the VALUE of the operand they take (R145); `cmp` writes the predicate that d names as its condition says,
by the type's signedness (R146).

Group 1 in a lane stream acts on 32 bits with IMM32; `movh` writes the high register of its pair alone; z discards (R148).

Group 1 in a steward stream acts on 64 bits with IMM32 sign-extended; `movh` keeps the low half (R148). -/
def Obligations.MovesComparisonAndImmediates : Prop :=
  (∀ (s : State) (t : Thread) (f : RegF) (ty : Nat) (a b : Int), s.Executes t f.neg f.pred → ty = modType f.mod →
    a = valueOf ty (s.srcType s.cur t ty f.a) → b = valueOf ty (s.srcType s.cur t ty f.b) →
    let put (x : Int) : Out := .next (s.done t (dstType s.cur ty f.d (wrapTo ty x)))
    let flag (v : Bool) : Out := .next (s.done t [(.pred f.d.toNat, if v = true then 1 else 0)])
    exec (.mov f) s = put a ∧ exec (.sel f) s = put (if t.predAt f.c.toNat = true then a else b) ∧
      (modStype f.mod = 0 → exec (.cmp f) s = flag (decide (a = b))) ∧
      (modStype f.mod = 1 → exec (.cmp f) s = flag (decide (a ≠ b))) ∧
      (modStype f.mod = 2 → exec (.cmp f) s = flag (decide (a < b))) ∧
      (modStype f.mod = 3 → exec (.cmp f) s = flag (decide (a ≤ b))) ∧
      (modStype f.mod = 4 → exec (.cmp f) s = flag (decide (a > b))) ∧
      (modStype f.mod = 5 → exec (.cmp f) s = flag (decide (a ≥ b)))) ∧
  (∀ (s : State) (t : Thread) (f : ImmF) (a : BitVec 32), s.Executes t f.neg f.pred → whoStream s.cur = .lanes →
    a = s.src32 s.cur t f.a →
    let put (v : BitVec 32) : Out := .next (s.done t (if f.d = 0x94 then [] else [(.reg f.d.toNat, v.setWidth 64)]))
    exec (.movi f) s = put f.imm ∧
      exec (.movh f) s = .next (s.done t (if f.d = 0x94 then [] else [(.reg (f.d.toNat + 1), f.imm.setWidth 64)])) ∧
      exec (.addImm f) s = put (a + f.imm) ∧ exec (.andImm f) s = put (a &&& f.imm) ∧ exec (.orImm f) s = put (a ||| f.imm) ∧
      exec (.xorImm f) s = put (a ^^^ f.imm)) ∧
  (∀ (s : State) (t : Thread) (f : ImmF) (a d x : BitVec 64), s.Executes t f.neg f.pred → whoStream s.cur = .steward →
    a = s.src64 s.cur t f.a → d = s.src64 s.cur t f.d → x = f.imm.signExtend 64 →
    let put (v : BitVec 64) : Out := .next (s.done t (if f.d = 0x94 then [] else [(.sreg f.d.toNat, v)]))
    exec (.movi f) s = put x ∧ exec (.movh f) s = put (f.imm ++ d.setWidth 32) ∧ exec (.addImm f) s = put (a + x) ∧
      exec (.andImm f) s = put (a &&& x) ∧ exec (.orImm f) s = put (a ||| x) ∧ exec (.xorImm f) s = put (a ^^^ x))

/-! ## Floating point, conversions, narrow formats, masks and pairs (R149 to R163) -/

/-- Element by element, each result of group 2 is the exact value rounded once to the type's format under RM and SAT (R150), with the SR
count advanced once by a rounding under SR (R128); `fdot2` rounds a.0·b.0 + a.1·b.1 + c to FP32. -/
def Obligations.FloatArithmetic : Prop :=
  ∀ (s : State) (t : Thread) (f : RegF) (ty rm : Nat), s.Executes t f.neg f.pred → ty = modType f.mod → rm = modRm f.mod →
    let a := s.elemVal s.cur t ty f.a
    let b := s.elemVal s.cur t ty f.b
    let c := s.elemVal s.cur t ty f.c
    let put (g : Nat → Machine.Num) : Out :=
      .next (s.done (t.countSr rm) (dstElems s.cur ty f.d
        ((List.range (elemCount f.mod)).map fun e => (fmtOf ty).round (g e) rm (modSat f.mod) (s.srBits t e))))
    exec (.fadd f) s = put (fun e => Machine.Num.add (rm == 3) (a e) (b e)) ∧
      exec (.fsub f) s = put (fun e => Machine.Num.add (rm == 3) (a e) (b e).negate) ∧
      exec (.fmul f) s = put (fun e => (a e).mul (b e)) ∧
      exec (.ffma f) s = put (fun e => Machine.Num.add (rm == 3) ((a e).mul (b e)) (c e)) ∧
      exec (.fdot2 f) s = .next (s.done (t.countSr rm) (dstRegs f.d (((List.range (2 ^ modWidth f.mod)).map fun i =>
        fp32.round (dotVal (fmtOf ty) (rm == 3) (s.laneReg s.cur t f.a i) (s.laneReg s.cur t f.b i) (s.laneReg s.cur t f.c i)) rm
          (modSat f.mod) (s.srBits t i)).map (BitVec.ofNat 32))))

/-- `fmin` and `fmax` answer minimumNumber and maximumNumber of each pair of elements (R151), `fround` the nearest integral value under RM
(R153), and each completes; `fclass` writes one bit for the class of each element (R154).

minimumNumber and maximumNumber of FP32 encodings (R151): with one NaN the other operand, with two the canonical NaN, and −0 below
+0.

`fcmp` writes the predicate that d names as its condition says of element 0 (R146, R152): with a NaN only ne and un hold. -/
def Obligations.FloatSelectionsAndComparison : Prop :=
  (∀ (s : State) (t : Thread) (f : RegF) (ty : Nat), s.Executes t f.neg f.pred → ty = modType f.mod →
    let a := s.elem s.cur t ty f.a
    let b := s.elem s.cur t ty f.b
    let put (t : Thread) (g : Nat → Nat) : Out :=
      .next (s.done t (dstElems s.cur ty f.d ((List.range (elemCount f.mod)).map g)))
    exec (.fmin f) s = put t (fun e => minMaxNumber (fmtOf ty) false (a e) (b e)) ∧
      exec (.fmax f) s = put t (fun e => minMaxNumber (fmtOf ty) true (a e) (b e)) ∧
      exec (.fround f) s =
        put (t.countSr (modRm f.mod)) (fun e => roundIntegral (fmtOf ty) (a e) (modRm f.mod) (s.srBits t e)) ∧
      exec (.fclass f) s = .next (s.done t (dst32 s.cur f.d (BitVec.ofNat 64
        (classMask (fmtOf ty) (a 0) + if ty = 9 ∨ ty = 10 then 2 ^ 16 * classMask (fmtOf ty) (a 1) else 0))))) ∧
  (∀ (m : Bool) (x y : Nat), x < 2 ^ 32 → y < 2 ^ 32 →
    ((fp32.val x).isNan = true → (fp32.val y).isNan = false → minMaxNumber fp32 m x y = y) ∧
      ((fp32.val x).isNan = false → (fp32.val y).isNan = true → minMaxNumber fp32 m x y = x) ∧
      ((fp32.val x).isNan = true → (fp32.val y).isNan = true → minMaxNumber fp32 m x y = 0x7FC00000) ∧
      minMaxNumber fp32 false 0 0x80000000 = 0x80000000 ∧ minMaxNumber fp32 true 0x80000000 0 = 0 ∧
      (minMaxNumber fp32 m x y = x ∨ minMaxNumber fp32 m x y = y ∨ minMaxNumber fp32 m x y = 0x7FC00000)) ∧
  (∀ (s : State) (t : Thread) (f : RegF) (c : Nat) (o : Option Int), s.Executes t f.neg f.pred → c = modStype f.mod → c ≤ 7 →
    o = (s.elemVal s.cur t (modType f.mod) f.a 0).compare (s.elemVal s.cur t (modType f.mod) f.b 0) →
    exec (.fcmp f) s = .next (s.done t (dstPred f.d
      (match o with
        | none => decide (c = 1 ∨ c = 6)
        | some x => decide ((c = 0 ∧ x = 0) ∨ (c = 1 ∧ x ≠ 0) ∨ (c = 2 ∧ x < 0) ∨ (c = 3 ∧ x ≤ 0) ∨ (c = 4 ∧ 0 < x) ∨
            (c = 5 ∧ 0 ≤ x) ∨ c = 7)))))

/-- The roots and transcendental functions of R155 round the function of each element and complete as long-latency instructions.

A long-latency instruction whose access has been performed: without lookahead it completes at once; with a lookahead it opens a window
that holds its results, lets that many more instructions issue, and stands at the next word with every register as it was (R10, R95). -/
def Obligations.RootsAndLookahead : Prop :=
  (∀ (s : State) (t : Thread) (f : RegF) (ty rm : Nat), s.Executes t f.neg f.pred → ty = modType f.mod → rm = modRm f.mod →
    let put (g : Machine.Num → Machine.Num) (i : Instr) : Prop := ∃ clocks, exec i s = .next (s.finishLong (t.countSr rm) f.la clocks (dstElems s.cur ty f.d
      ((List.range (elemCount f.mod)).map fun e =>
        (fmtOf ty).round (g (s.elemVal s.cur t ty f.a e)) rm (modSat f.mod) (s.srBits t e))))
    put rcpNum (.frcp f) ∧ put rsqNum (.frsq f) ∧ put rootNum (.fsqrt f) ∧ put exp2Num (.fexp2 f) ∧ put log2Num (.flog2 f) ∧
      put sinNum (.fsin f) ∧ put cosNum (.fcos f)) ∧
  (∀ (s : State) (t : Thread) (la : BitVec 4) (clocks : Nat) (ws : List (Dest × BitVec 64)), t.Plain →
    (la = 0 → s.finishLong t la clocks ws = s.done t ws) ∧
      (la ≠ 0 →
        ∃ u o, s.finishLong t la clocks ws =
            (({ s with ids := s.ids + 1 } : State).setThread s.cur u).plan (s.clock + clocks) (.longLatencyCompletion s.cur) ∧
          u.wins = [o] ∧ o.writes = ws ∧ o.left = la.toNat ∧ o.state = .latent ∧ u.pc = t.pc + 8 ∧ u.status = .ready ∧
          ∀ d, u.content d = t.content d))

/-- `cvt` writes the conversion of R130 (R156); `pk` puts the narrowed elements side by side, the first lowest, and `upk` spreads and
widens them (R157).

The mask tests of R161 write the predicate that d names: any bit of the mask set, all set, none set; `vote.pack` writes the
predicates as bits 7:0 with bit 0 set, and `vote.unpk` writes every predicate from those bits. -/
def Obligations.ConversionsAndMasks : Prop :=
  (∀ (s : State) (t : Thread) (f : RegF) (ty w : Nat), s.Executes t f.neg f.pred → ty = modType f.mod → w = typeWidth ty →
    exec (.cvt f) s = .next (s.done (t.countSr (modCrm f.mod)) (dstType s.cur ty f.d
      (convert ty (modStype f.mod) (s.srcType s.cur t (modStype f.mod) f.a) (modCrm f.mod) (modCsat f.mod) (s.srBits t 0)))) ∧
    (exec (.pk f) s = .next (s.done (t.countSr (modRm f.mod)) (dst32 s.cur f.d (BitVec.ofNat 64 (packFields w
      ((List.range (32 / w)).map fun e =>
        if ty ≤ 8 then
          (wrapTo ty (if modSat f.mod = true then satTo ty (s.laneReg s.cur t f.a e).toInt else (s.laneReg s.cur t f.a e).toInt)).toNat
        else (fmtOf ty).round (val32 (s.laneReg s.cur t f.a e)) (modRm f.mod) (modSat f.mod) (s.srBits t e))))))) ∧
    exec (.upk f) s = .next (s.done t (dstRegs f.d ((List.range (32 / w)).map fun e =>
      let y := (s.laneReg s.cur t f.a 0).toNat / 2 ^ (w * e) % 2 ^ w
      if ty ≤ 8 then (wrapTo ty y).setWidth 32 else BitVec.ofNat 32 (fp32.round ((fmtOf ty).val y) 0 false 0))))) ∧
  (∀ (s : State) (t : Thread) (f : RegF) (a b : BitVec 32), s.Executes t f.neg f.pred → a = s.src32 s.cur t f.a →
    b = s.src32 s.cur t f.b →
    exec (.voteAny f) s = .next (s.done t (dstPred f.d ((List.range 32).any fun i => a.getLsbD i && b.getLsbD i))) ∧
      exec (.voteAll f) s = .next (s.done t (dstPred f.d ((List.range 32).all fun i => !b.getLsbD i || a.getLsbD i))) ∧
      exec (.voteNone f) s = .next (s.done t (dstPred f.d ((List.range 32).all fun i => !(a.getLsbD i && b.getLsbD i)))) ∧
      exec (.votePack f) s = .next (s.done t (dst32 s.cur f.d ((t.rdPreds ||| 1).setWidth 64))) ∧
      exec (.voteUnpk f) s = .next (s.done t ((List.range 8).map fun n => (.pred n, if a.getLsbD n = true then 1 else 0))))

/-- The HX instructions check their format slot: one that fails traps fmt.slot, 0x060A, and one that passes completes with the block
quantised (`hxq`), its sixteen values (`hxd`), or the exponent and group bits of its scale (`hxe`) (R158, R159).

`mxcvt` dequantises a run to 32 FP32 values, or quantises 32 values to a run and its scale byte, in the OCP format that its b operand
names; a format code above 5 traps mx.fmt, 0x060B (R160). -/
def Obligations.NarrowFormats : Prop :=
  (∀ (s : State) (t : Thread) (f : RegF) (x : BitVec 64), s.Executes t f.neg f.pred → x = s.formatSlot t f.b.toNat →
    let h := hxOf (slotEfmt x)
    (hxSlotOk x = true →
        exec (.hxq f) s = .next (s.done (t.countSr (slotOrm x))
          (dstBlock f.d (h.quantise (s.valsOf t f.a 16) (slotOrm x) (s.srBits t)) h.regs)) ∧
        exec (.hxd f) s = .next (s.done t (dstRegs f.d ((List.range 16).map fun n => rne32 (h.val (s.blockOf t f.a h.regs) n)))) ∧
        exec (.hxe f) s = .next (s.done t (dst32 s.cur f.d (BitVec.ofNat 64
          (match hxScale (s.valsOf t f.a 16) with | some (e, mu) => e + 256 * mu | none => 255))))) ∧
      (hxSlotOk x = false →
        exec (.hxq f) s = .next (s.trap t 0x060A 0) ∧ exec (.hxd f) s = .next (s.trap t 0x060A 0) ∧
        exec (.hxe f) s = .next (s.trap t 0x060A 0))) ∧
  (∀ (s : State) (t : Thread) (f : RegF) (code n : Nat), s.Executes t f.neg f.pred → code = (s.src32 s.cur t f.b).toNat →
    n = (ocpOf code).width →
    (code ≤ 5 → modType f.mod = 11 → exec (.mxcvt f) s = .next (s.done t (dstRegs f.d ((List.range 32).map fun e =>
        rne32 (mxVal code (s.blockOf t f.a n) ((s.src32 s.cur t f.c).toNat % 256) e))))) ∧
      (code ≤ 5 → modType f.mod ≠ 11 →
        ∃ run scale, (run, scale) = mxQuantise code (s.valsOf t f.a 32) (modCrm f.mod) (modCsat f.mod) (s.srBits t) ∧
          exec (.mxcvt f) s = .next (s.done (t.countSr (modCrm f.mod)) (dstBlock f.d run n ++ dst32 s.cur f.c (BitVec.ofNat 64 scale)))) ∧
      (5 < code → exec (.mxcvt f) s = .next (s.trap t 0x060B 0)))

/-- A paired word (R100, R162): both slots read before either writes, a slot whose guard is false writes nothing, and the word completes
with the results of its slots.

The integer slots of a paired word (R162): the first operand is the destination's old value. -/
def Obligations.PairedWords : Prop :=
  (∀ (s : State) (t : Thread) (x y : SlotF), s.thread? s.cur = some t →
    let rx := (s.slotResult t x (s.laneReg s.cur t x.d 0) (s.laneReg s.cur t x.a 0) 0).setWidth 64
    let ry := (s.slotResult t y (s.laneReg s.cur t y.d 0) (s.laneReg s.cur t y.a 0)
      (if 0x20 ≤ x.op.toNat ∧ x.op.toNat ≤ 0x23 then 2 else 1)).setWidth 64
    ∃ u, (u = t ∨ u = { t with srCount := t.srCount + 1 }) ∧
      exec (.pairedWord x y) s = .next (s.done u ((if t.predAt x.g.toNat = true then dst32 s.cur x.d rx else []) ++
        if t.predAt y.g.toNat = true then dst32 s.cur y.d ry else []))) ∧
  (∀ (s : State) (t : Thread) (x : SlotF) (d a : BitVec 32) (e : Nat),
    (x.op = 0x00 → s.slotResult t x d a e = d + a) ∧ (x.op = 0x01 → s.slotResult t x d a e = d - a) ∧
      (x.op = 0x02 → s.slotResult t x d a e = d * a) ∧ (x.op = 0x08 → s.slotResult t x d a e = -a) ∧
      (x.op = 0x09 → s.slotResult t x d a e = d &&& a) ∧ (x.op = 0x0A → s.slotResult t x d a e = d ||| a) ∧
      (x.op = 0x0B → s.slotResult t x d a e = d ^^^ a) ∧ (x.op = 0x0C → s.slotResult t x d a e = d &&& ~~~a) ∧
      (x.op = 0x0D → s.slotResult t x d a e = ~~~a) ∧ (x.op = 0x16 → s.slotResult t x d a e = a))

/-! ## The step -/

/-- A step runs the decoded instruction: a READY thread with no failed window, of a group that is not being saved, whose PC's word may be
fetched, on no sub-bus that is being swapped, executes what the word decodes to in its stream, or the illegal encoding's own step, when
neither the fetch nor a register that the word reads meets a storage error; a thread whose wave has fetched that address in this clock
executes the word that came of it; an epilogue processor executes the word at its place; an event is executed as it stands; and with
no turn waiting the cores' issue is. What `step` adds is the turn taken off the list and kept, the executing agent, its quadrant and the
word, the page in its quadrant's cache, the word kept for its wave, and the group's mark that it has begun; with no storage error
anywhere it adds nothing else (R21, R52, R293, R322, R333, R338). -/
def Obligations.StepRunsDecoded : Prop :=
  (∀ (s : State) (w : Who) (r : List Turn) (t : Thread), s.turns = .thread w :: r → s.thread? w = some t → t.status = .ready →
      t.wins.any Outstanding.broken = false → t.skips.contains t.pc = false → s.savingOf w t = false →
      let a : State := (({ s with turns := r, turn := .thread w, cur := w } : State).serving (s.coreOf w t)).begin_ t.gid
      let u : Thread := { t with view := t.replayView }
      let runs (c : State) (x : BitVec 64) : Prop :=
        (∀ i v, decode (whoStream w) x = .ok i → ({ c with word := x } : State).readOperands w u i = (v, none) →
          step s = exec i (v.setThread w u)) ∧
        ∀ k v, decode (whoStream w) x = .error k → ({ c with word := x } : State).readOperands w u (.illegalEncoding k x) = (v, none) →
          step s = exec (.illegalEncoding k x) (v.setThread w u)
      (∀ x, a.waveFetch w t.pc = some (some x) → runs a x) ∧
      (∀ p : Place, a.waveFetch w t.pc = none → a.walkOut t.pc = false → a.gl (a.partOf t) t.pc Want.ex = .ok p →
        a.subBusOut p.loc = false →
        let b := a.translate (a.partOf t) t.pc
        (∀ (c : State) (x : BitVec 64), b.readFetch (a.victimOf w t) t.pc p.loc = (c, false) → x = BitVec.ofNat 64 (c.rdNat p.loc 8) →
          runs (c.keepFetch w t.pc (some x)) x) ∧
        (s.flaws = [] → ∀ (x : BitVec 64) (i : Instr), x = BitVec.ofNat 64 (s.rdNat p.loc 8) → decode (whoStream w) x = .ok i →
          step s = exec i (({ (b.keepFetch w t.pc (some x)) with word := x } : State).setThread w u) ∧
            b.mem = s.mem ∧ b.tags = s.tags ∧ b.threads = s.threads))) ∧
    (∀ (s : State) (core half : Nat) (r : List Turn) (run : DrainRun) (x : BitVec 32) (i : Instr), s.turns = .epilogue core half :: r →
      (s.half core half).run = some run → run.finished = false → (s.half core half).store[run.at_]? = some x → esDecode x = some i →
      step s = exec i (({ s with turns := r, turn := .epilogue core half, cur := .epilogue core half } : State).serving core)) ∧
    (∀ (s : State) (i : Instr) (r : List Turn), s.turns = .event i :: r → 
      step s = exec i (({ s with turns := r, turn := .event i, cur := .nobody } : State).serving
        (({ s with turns := r, turn := .event i } : State).agentCore i))) ∧
    ∀ s : State, s.turns = [] → s.power = true → step s = exec .waveIssue { s with cur := .nobody }

/-- No instruction, event or procedure is refused or stops the machine: each answers a next state, whatever the state; and a step stops
only where the compute dies have no power and no turn waits. That it then answers the fault powerLost is log entry 52: R412 says that the
power goes and of the machine nothing more. -/
def Obligations.OnlyPowerLossStops : Prop :=
  (∀ (i : Instr) (s : State), ∃ u, exec i s = .next u) ∧
    (∀ s : State, s.turns ≠ [] ∨ s.power = true → s.StepsOn) ∧
    ∀ s : State, s.turns = [] → s.power = false → step s = .fault .powerLost

/-- Every step keeps memory, tags and key slots in canonical form. -/
def Obligations.StoresStayCanonical : Prop :=
  ∀ s u : State, s.StoresOk → step s = .next u → u.StoresOk

/-- The package after reset has canonical stores, no thread, launch or partition, power and the full main clock, %time 0; an array half
is unassigned and zeroed (R253, R254), a die has the lull register of R366 and no graph, a token bucket is full at 0xFFFF (R371); and a
thread starts with every register zero, k0 set, the rejoin registers empty and the return stack empty (R15, R25). That the
package has no thread, launch, partition or listed byte then, and the registers for which the spec gives no reset value, are the model's
choice (log entries 3 and 4). -/
def Obligations.ResetState : Prop :=
  (State.reset.StoresOk ∧ State.reset.threads = [] ∧ State.reset.launches = [] ∧ State.reset.parts = [] ∧ State.reset.turns = [] ∧
      State.reset.power = true ∧ State.reset.time = 0) ∧
    (∀ core h, (State.reset.half core h).part = none ∧ (State.reset.half core h).queue = [] ∧ (State.reset.half core h).sram = [] ∧
      (State.reset.half core h).acc = [] ∧ (State.reset.half core h).store = [] ∧ (State.reset.half core h).fills = []) ∧
    (∀ d, (State.reset.die d).lull = 0x0400010000000001 ∧ (State.reset.die d).graphs = []) ∧
    (Bucket.reset.burst = 0xFFFF ∧ Bucket.reset.rate = 0xFFFF ∧ Bucket.reset.tokens = 0xFFFF) ∧
    ∀ (gid lid lane slot clock : Nat) (grp tid : BitVec 32) (pc : BitVec 64), let t := Thread.start gid lid grp pc tid lane slot clock
      (∀ c, t.content (.reg c) = 0 ∧ t.content (.sreg c) = 0) ∧ t.predAt 0 = true ∧ (∀ n, 0 < n → n < 8 → t.predAt n = false) ∧
        (t.j0 = 0 ∧ t.j1 = 0 ∧ t.j2 = 0 ∧ t.j3 = 0) ∧ t.depth = 0 ∧ t.rstack = [] ∧ t.srCount = 0 ∧ t.pc = pc ∧ t.status = .ready

/-- The frame of the computing instructions, in every form: a well-formed one always completes in a plain thread; only that thread
changes; of it only the destinations' content, the pc, the SR count and its standing may change; no destination is touched when the
guard is false. Memory, tags and every other thread are as before. -/
def Obligations.ComputeFrame : Prop :=
  ∀ (s : State) (t : Thread) (i : Instr), i.isCompute = true → WellFormed (whoStream s.cur) i → s.thread? s.cur = some t → t.Plain →
    Sparse.wf t.regs = true → Sparse.wf t.sregs = true →
    ∃ u, exec i s = .next (s.setThread s.cur u) ∧ u.pc = t.pc + 8 ∧ u.status = .ready ∧
      (∀ d, d ∉ i.dests s.cur → u.content d = t.content d) ∧
      u = { t with regs := u.regs, sregs := u.sregs, preds := u.preds, srCount := u.srCount, pc := u.pc, status := .ready,
                   readySince := s.clock }

/-! ## Traps (R105, R204, R205, R317, R326 to R329) -/

/-- Taking an unrecoverable trap in a plain lane thread or steward whose quarter holds no buffered reduction: the instruction performs
nothing; with a handler entry the thread parks at it with its origin record (cause, pc, word, address), joins its core's trap queue, and
a handler start is due twelve clocks on; with none its group is killed (R317, R326, R329).

`trap` takes the user trap of its code (R204); an illegal encoding traps with its cause code whatever its guard (R105); `tret` outside
a handler traps tret.orphan (R205). -/
def Obligations.TakingTraps : Prop :=
  (∀ (s : State) (t : Thread) (cause : BitVec 32) (va : BitVec 64) (l : Launch), t.Plain → cause ≠ 0x0209 → s.launch? t.lid = some l →
    ((∃ g n, s.cur = .lane g n) ∨ ∃ g, s.cur = .steward g) → s.buffer (s.coreOf s.cur t) ((quarterOf s.cur t).getD 0) = [] →
    t.skips = [] →
    (l.handlerFor cause ≠ 0 →
      ∃ u r, (s.trap t cause va).thread? s.cur = some u ∧ u = { t with status := .parked .handler, trapRec := some r, readySince := s.clock } ∧
        r.cause = cause ∧ r.pc = t.pc ∧ r.word = s.word ∧ r.faddr = va ∧ r.skip = 0 ∧ r.held = none ∧
        (∀ w, w ∈ ((s.trap t cause va).core (s.coreOf s.cur t)).trapQueue ↔ w = s.cur ∨ w ∈ (s.core (s.coreOf s.cur t)).trapQueue) ∧
        (s.trap t cause va).sched = s.sched ++ [(s.clock + 12, .event (.handlerStart (s.coreOf s.cur t)))] ∧ (s.trap t cause va).mem = s.mem) ∧
      (l.handlerFor cause = 0 → ∃ u : State, s.trap t cause va = u.killGroup t.gid ∧ u.mem = s.mem)) ∧
  (∀ (s : State) (t : Thread) (f : RegF) (c : IllCause) (w : BitVec 64), s.thread? s.cur = some t →
    (t.guard f.neg f.pred = true → exec (.trap f) s = .next (s.trap t (BitVec.ofNat 32 (0x0400 + f.mod.toNat % 256)) 0)) ∧
      exec (.illegalEncoding c w) s = .next (s.trap t (IllCause.code c) 0) ∧
      (t.Plain → t.guard f.neg f.pred = true → (∀ c n, s.cur ≠ .handler c n) → exec (.tret f) s = .next (s.trap t 0x0305 0)))

/-! ## Accesses (R164 to R169) -/

/-- The checks of an access in the order of R166, space by space: alignment; `.sp` and `.gs` ranges and ranks, a rank that
is being left being no rank to an access that had not issued; what `.lr` refuses and its length; the page of `.gl`, then its class (R38).

An access that fails with a cause that traps changes nothing and traps its thread with that cause and its address, whichever
instruction makes it (R166, R193); a tagged store with `.rel` makes it after its release (R62). One whose table walk is aborted consumes the
error instead (R332, R334). The walk it needs is to cross no sub-bus that is being swapped (R404). -/
def Obligations.AccessChecks : Prop :=
  (∀ (s : State) (t : Thread) (ea : BitVec 64) (size : Nat) (a : Acc),
    let acc (spc : Space) : Except XFail Place := s.access s.cur t spc ea size a
    (ea.toNat % size ≠ 0 → ∀ spc, acc spc = .error (.trap 0x0205)) ∧
      (ea.toNat % size = 0 →
        (∀ g, s.spGroup s.cur t = some g →
          (g.spBytes < ea.toNat + size → acc .sp = .error (.trap 0x0200)) ∧
            (ea.toNat + size ≤ g.spBytes → acc .sp = .ok ⟨spLoc g.core (g.spBase + ea.toNat), 3⟩) ∧
            (bits ea 31 24 ≠ 0 → acc .gs = .error (.trap 0x0201)) ∧
            (bits ea 31 24 = 0 → g.rank = none → acc .gs = .error (.trap 0x0202)) ∧
            (bits ea 31 24 = 0 → g.rank ≠ none → s.rankGroup g.share (bits ea 23 20) = none → acc .gs = .error (.trap 0x0202)) ∧
            ∀ n o, bits ea 31 24 = 0 → g.rank ≠ none → s.rankGroup g.share (bits ea 23 20) = some (n, o) →
              let issued : Prop := KV.at? t.held (t.redo.getD 0) ≠ none
              (¬ issued → g.leaving = true ∨ o.leaving = true → acc .gs = .error (.trap 0x0202)) ∧
                (issued ∨ (g.leaving = false ∧ o.leaving = false) →
                  (o.spBytes < bits ea 19 0 + size → acc .gs = .error (.trap 0x0201)) ∧
                    (bits ea 19 0 + size ≤ o.spBytes → acc .gs = .ok ⟨s.spWord n o (bits ea 19 0), 3⟩))) ∧
        (a.lr ≠ 0 → acc .lr = .error (.trap a.lr)) ∧
        (∀ l, a.lr = 0 → s.launch? t.lid = some l →
          (8 * l.paramLen < ea.toNat + size → acc .lr = .error (.trap 0x0203)) ∧
            (ea.toNat + size ≤ 8 * l.paramLen → acc .lr = s.gl l.part (l.record + 0x100 + ea) Want.rd)) ∧
        (∀ f, s.gl (s.partOf t) ea ⟨a.write, false, false⟩ = .error f → acc .gl = .error f) ∧
        ∀ p, s.gl (s.partOf t) ea ⟨a.write, false, false⟩ = .ok p →
          acc .gl = if a.tagged = true ∧ p.cls ≠ 3 ∧ p.cls ≠ 4 then .error (.trap 0x0206)
            else if a.noNotify = true ∧ p.cls = 4 then .error (.trap 0x0207) else .ok p)) ∧
  (∀ (s v : State) (t : Thread) (spc : Space) (f : RegF) (c : BitVec 32), s.Executes t f.neg f.pred → s.Releases t f.mod v →
    let n := typeBytes (modType f.mod)
    let failsIn (v : State) (ofs : BitVec 8) (unit size : Nat) (a : Acc) (ds : List Dest) (i : Instr) : Prop :=
      let ea := s.ea s.cur t spc f.a ofs unit
      v.access v.cur t spc ea size a = .error (.trap c) → (v.homeVa t spc ea).any v.walkOut = false →
        (c ≠ 0x020D → exec i s = .next (v.trap t c ea)) ∧
          (c = 0x020D →
            exec i s = .next ((v.readWalk (v.partOf t) ((v.homeVa t spc ea).getD ea)).consume t f.la ds c ea))
    let fails := failsIn s
    let d := (dstType s.cur (modType f.mod) f.d 0).map (·.1)
    let d32 := (dst32 s.cur f.d 0).map (·.1)
    (fails f.c (unitOf n) n Acc.load d (.ld spc f) ∧ fails f.c (unitOf n) n Acc.store [] (.st spc f) ∧
        fails f.c 16 16 Acc.load ((dstRegs f.d [0, 0, 0, 0]).map (·.1)) (.ldq spc f) ∧ fails f.c 16 16 Acc.store [] (.stq spc f)) ∧
      (fails f.c 4 4 Acc.tagRead d32 (.ldwf spc f) ∧ fails f.c 4 4 Acc.take d32 (.ldwfe spc f) ∧
        failsIn v f.c 4 4 Acc.await [] (.stwe spc f) ∧ failsIn v f.c 4 4 Acc.fill [] (.stf spc f) ∧
        fails f.c 4 4 Acc.tagRead d32 (.tagrd spc f) ∧ fails f.c 4 4 Acc.tagWrite [] (.tagwr spc f)) ∧
      (fails f.c (unitOf n) n Acc.atomic d (.atomAdd spc f) ∧ fails f.c (unitOf n) n Acc.atomic d (.atomMin spc f) ∧
        fails f.c (unitOf n) n Acc.atomic d (.atomMax spc f) ∧ fails f.c (unitOf n) n Acc.atomic d (.atomAnd spc f) ∧
        fails f.c (unitOf n) n Acc.atomic d (.atomOr spc f) ∧ fails f.c (unitOf n) n Acc.atomic d (.atomXor spc f) ∧
        fails f.c (unitOf n) n Acc.atomic d (.atomXchg spc f) ∧ fails 0 (unitOf n) n Acc.atomic d (.atomCas spc f) ∧
        fails f.c (unitOf n) n Acc.atomic d (.atomFadd spc f)))

/-- Writing n bytes at a place: they read back little-endian (R8), every byte apart from them reads as before, whatever key slots are in
force (R390), and nothing but memory and the sectors' key slots changes.

Loads write their destination from the bytes at the effective address, extended by type; stores write the bytes and nothing else;
the prefetch changes nothing (R168, R169). Performing an access changes no byte, tag or thread but what the instruction itself writes. -/
def Obligations.LoadsAndStores : Prop :=
  (∀ (s : State) (l : Loc) (n x : Nat), Memory.wf s.mem = true → Sparse.wf s.secKey = true →
    (s.wrNat l n x).rdNat l n = x % 256 ^ n ∧
      (∀ (m : Loc) (i : Nat), m.Apart i l n → (s.wrNat l n x).rdByte m i = s.rdByte m i) ∧
      s.wrNat l n x = { s with mem := (s.wrNat l n x).mem, secKey := (s.wrNat l n x).secKey }) ∧
  (∀ (s v : State) (t : Thread) (spc : Space) (f : RegF) (p : Place) (ty n : Nat) (ea ea16 : BitVec 64), s.Executes t f.neg f.pred →
    Memory.wf s.mem = true → Sparse.wf s.secKey = true → ty = modType f.mod → n = typeBytes ty →
    ea = s.ea s.cur t spc f.a f.c (unitOf n) → ea16 = s.ea s.cur t spc f.a f.c 16 →
    (∀ ea size a, s.Reaches t spc ea size a p v → v.mem = s.mem ∧ v.tags = s.tags ∧ v.secKey = s.secKey ∧ v.threads = s.threads ∧
        v.groups = s.groups ∧ v.waits = s.waits ∧ v.cmds = s.cmds ∧ v.clock = s.clock ∧ v.cur = s.cur) ∧
      (s.Reaches t spc ea n Acc.load p v → ∃ clocks,
        exec (.ld spc f) s = .next (v.finishLong t f.la clocks (dstType s.cur ty f.d (wrapTo ty (s.rdNat p.loc n))))) ∧
      (s.Reaches t spc ea16 16 Acc.load p v → ∃ clocks,
        exec (.ldq spc f) s = .next (v.finishLong t f.la clocks
          (dstRegs f.d ((List.range 4).map fun e => s.rdWord { p.loc with key := p.loc.key + 4 * e })))) ∧
      (s.Reaches t spc ea n Acc.store p v → ∃ clocks u,
        exec (.st spc f) s = .next u ∧ u = (v.wrNat p.loc n (s.srcType s.cur t ty f.b).toNat).finishLong t f.la clocks [] ∧
        (∀ (m : Loc) (i : Nat), m.Apart i p.loc n → u.rdByte m i = s.rdByte m i) ∧ u.tags = s.tags) ∧
      (s.Reaches t spc ea16 16 Acc.store p v → ∃ clocks u x, exec (.stq spc f) s = .next u ∧ u = State.finishLong x t f.la clocks [] ∧
        (∀ e < 4, u.rdWord { p.loc with key := p.loc.key + 4 * e } = s.laneReg s.cur t f.b e) ∧
        (∀ (m : Loc) (i : Nat), m.Apart i p.loc 16 → u.rdByte m i = s.rdByte m i) ∧ u.tags = s.tags) ∧
      exec (.pf f) s = .next (s.done t []))

/-! ## Tagged access, atomics and reductions (R170 to R179) -/

/-- Tagged access (R171 to R173): `ldwf` and `ldwfe` complete at a FULLish tag, the second making it EMPTY; `stwe` at an EMPTYish one and
`stf` at any fill the word; %bereaved says whether the tag was bereaved; `tagrd` and `tagwr` read and write the tag alone; and a thread
whose tag does not allow it joins the word's wait list, memory and tags unchanged. A store with `.rel` releases first (R62).

Atomics (R175): one indivisible read and write of the bytes at the address; d takes the old value, extended by type. -/
def Obligations.TaggedAccessAndAtomics : Prop :=
  (∀ (s r v : State) (t : Thread) (spc : Space) (f : RegF) (p : Place) (k : Nat) (ea : BitVec 64), s.Executes t f.neg f.pred →
    ea = s.ea s.cur t spc f.a f.c 4 → k = p.loc.key / 4 →
    let heir (tag : BitVec 2) : Thread := { t with bereaved := tag == tag ||| 2 }
    let waits (i : Instr) (a : State) : Prop := ∃ u x, exec i s = .next u ∧ u.waits = a.waits ++ [x] ∧ x.key = k ∧ x.who = a.cur ∧
      u.mem = a.mem ∧ u.tags = a.tags
    (s.Reaches t spc ea 4 Acc.tagRead p v → ∃ clocks,
        exec (.tagrd spc f) s = .next (v.finishLong t f.la clocks (dst32 s.cur f.d ((s.tagAt k).setWidth 64))) ∧
        (fullish (s.tagAt k) = true →
          exec (.ldwf spc f) s = .next (v.finishLong (heir (s.tagAt k)) f.la clocks
            (dst32 s.cur f.d (extWord (modType f.mod) (s.rdWord p.loc))))) ∧
        (fullish (s.tagAt k) = false → waits (.ldwf spc f) s)) ∧
      (s.Reaches t spc ea 4 Acc.take p v →
        (fullish (s.tagAt k) = true → ∃ clocks, exec (.ldwfe spc f) s = .next (((v.finishLong (heir (s.tagAt k)) f.la clocks
            (dst32 s.cur f.d (extWord (modType f.mod) (s.rdWord p.loc)))).setTag k 0).serve [k])) ∧
        (fullish (s.tagAt k) = false → waits (.ldwfe spc f) s)) ∧
      (s.Releases t f.mod r →
        (r.Reaches t spc ea 4 Acc.fill p v → ∃ clocks, exec (.stf spc f) s =
          .next (((v.fill p.loc (p.cls == 4) (v.src32 v.cur t f.b)).finishLong t f.la clocks []).serve [k])) ∧
        (r.Reaches t spc ea 4 Acc.await p v →
          (fullish (v.tagAt k) = false → ∃ clocks, exec (.stwe spc f) s =
            .next (((v.fill p.loc (p.cls == 4) (v.src32 v.cur t f.b)).finishLong (heir (v.tagAt k)) f.la clocks []).serve [k])) ∧
          (fullish (v.tagAt k) = true → waits (.stwe spc f) v))) ∧
      (s.Reaches t spc ea 4 Acc.tagWrite p v → ∃ clocks, exec (.tagwr spc f) s =
        .next (((v.setTag k ((s.src32 s.cur t f.b).setWidth 2)).finishLong t f.la clocks []).serve [k])) ∧
      s.fill p.loc false (s.src32 s.cur t f.b) = (s.wrNat p.loc 4 (s.src32 s.cur t f.b).toNat).setTag k 1 ∧
      s.fill p.loc true (s.src32 s.cur t f.b) =
        if s.src32 s.cur t f.b ≤ s.rdWord p.loc then s else (s.wrNat p.loc 4 (s.src32 s.cur t f.b).toNat).setTag k 1) ∧
  (∀ (s v : State) (t : Thread) (spc : Space) (f : RegF) (p : Place) (ty n : Nat) (ea ea0 : BitVec 64) (x y : Int),
    s.Executes t f.neg f.pred → ty = modType f.mod → n = typeBytes ty → ea = s.ea s.cur t spc f.a f.c (unitOf n) →
    ea0 = s.ea s.cur t spc f.a 0 (unitOf n) → x = valueOf ty (BitVec.ofNat 64 (s.rdNat p.loc n)) →
    y = valueOf ty (s.srcType s.cur t ty f.b) →
    let put (i : Instr) (u : State) : Prop :=
      ∃ clocks, exec i s = .next (u.finishLong t f.la clocks (dstType s.cur ty f.d (wrapTo ty x)))
    let old := BitVec.ofNat 64 (s.rdNat p.loc n)
    let b := s.srcType s.cur t ty f.b
    (s.Reaches t spc ea n Acc.atomic p v →
        (put (.atomAdd spc f) (v.wrNat p.loc n (wrapTo ty (x + y)).toNat) ∧
          put (.atomMin spc f) (v.wrNat p.loc n (wrapTo ty (min x y)).toNat) ∧
          put (.atomMax spc f) (v.wrNat p.loc n (wrapTo ty (max x y)).toNat)) ∧
        (put (.atomAnd spc f) (v.wrNat p.loc n (old &&& b).toNat) ∧ put (.atomOr spc f) (v.wrNat p.loc n (old ||| b).toNat) ∧
          put (.atomXor spc f) (v.wrNat p.loc n (old ^^^ b).toNat) ∧ put (.atomXchg spc f) (v.wrNat p.loc n b.toNat)) ∧
        put (.atomFadd spc f) (v.wrNat p.loc n (rne32 (Machine.Num.add false (val32 (old.setWidth 32)) (val32 (s.src32 s.cur t f.b)))).toNat)) ∧
      (s.Reaches t spc ea0 n Acc.atomic p v →
        (x = y → put (.atomCas spc f) (v.wrNat p.loc n (s.srcType s.cur t ty f.c).toNat)) ∧ (x ≠ y → put (.atomCas spc f) v)))

/-- Buffered reductions (R58, R59, R176): the value combines into the quarter's entry of its address, operation and type, or opens one;
with all 64 entries in use the buffer is drained first; only the alignment is checked at issue. That an entry which has been sent is not
combined into, so that a second one for the key may stand beside it, is the model's choice (log entry 65).

A flush point drains the quarter's entries (R58, R177 to R179): `redflush` waits for it; `redseal` then writes the sealed sum of the
slot at its address and frees it, or changes nothing where there is none; the drain as an event sends again what is not added; an integer
entry whose request has its tokens and a path, and that meets no storage error, is combined at its home and leaves the buffer; and of entries that fail the one of the lowest address traps the thread that sent
them, once none is held. -/
def Obligations.Reductions : Prop :=
  (∀ (s : State) (t : Thread) (f : RegF) (ty q core op : Nat) (ea v : BitVec 64) (i : Instr), s.Executes t f.neg f.pred →
    ty = modType f.mod → ea = s.ea s.cur t .gl f.a f.c (unitOf (typeBytes ty)) → quarterOf s.cur t = some q →
    core = s.coreOf s.cur t → v = s.srcType s.cur t ty f.b →
    (op, i) ∈ [(0, Instr.redAdd f), (1, .redMin f), (2, .redMax f), (3, .redFadd f)] →
    let same (e : AtomEntry) : Prop := e.va = ea ∧ e.op = op ∧ e.type = ty ∧ e.sentBy = none
    let put (u : State) (l : List AtomEntry) : Prop :=
      exec i s = .next ((u.updCore core fun c => { c with atom := KV.put c.atom q l }).done t [])
    let new (e : AtomEntry) : Prop := same e ∧ e.part = s.partOf t ∧ (op = 3 → e.fp = Exact.zero.add (exactOf ((fmtOf ty).val (v.toNat % 2 ^ (fmtOf ty).width)))) ∧
      (op ≠ 3 → 1 ≤ ty → ty ≤ 8 → valueOf ty e.int = valueOf ty v)
    (ea.toNat % typeBytes ty ≠ 0 → exec i s = .next (s.trap t 0x0205 ea)) ∧
      (ea.toNat % typeBytes ty = 0 →
        (∀ l e r, s.buffer core q = l ++ e :: r → same e → (∀ x ∈ l, ¬ same x) → put s (l ++ e.combine v :: r)) ∧
          ((∀ x ∈ s.buffer core q, ¬ same x) → inUse (s.buffer core q) < 64 → ∃ e, new e ∧ put s (s.buffer core q ++ [e])) ∧
          ∀ u, (∀ x ∈ s.buffer core q, ¬ same x) → 64 ≤ inUse (s.buffer core q) → s.Flushes t u → inUse (u.buffer core q) < 64 →
            ∃ e, new e ∧ put u (u.buffer core q ++ [e]))) ∧
  ((∀ (s u v : State) (t : Thread) (f : RegF) (ty : Nat) (ea : BitVec 64) (p : Place), s.Executes t f.neg f.pred → s.Flushes t u →
    ty = bits f.mod 3 0 → ea = u.src64 u.cur t f.a →
    exec (.redflush f) s = .next (u.done t []) ∧
      (u.Reaches t .gl ea (typeBytes ty) Acc.store p v →
        (KV.at? (u.die (homeDie ea)).redSlots p.loc.key = none → exec (.redseal f) s = .next (v.done t [])) ∧
          ∀ r, KV.at? (u.die (homeDie ea)).redSlots p.loc.key = some r →
            (r.type ≠ ty → exec (.redseal f) s = .next (v.trap t 0x020E ea)) ∧
              (r.type = ty → ∃ x, exec (.redseal f) s = .next x ∧ x.mem = (v.wrNat p.loc (typeBytes ty) (r.acc.seal ty)).mem ∧
                KV.at? (x.die (homeDie ea)).redSlots p.loc.key = none ∧ x.thread? s.cur = (v.done t []).thread? s.cur))) ∧
    (∀ (s u : State) (core q : Nat), (s.unhold core q).resend core q = u →
      ∃ x, exec (.reductionDrain core q) s = .next x ∧ x.mem = u.mem ∧
        (s.trapReleases q core = [] → x.buffer core q = u.buffer core q)) ∧
    (∀ (s : State) (core q : Nat) (w : Who) (e : AtomEntry) (p : Place), s.buffer core q = [e] → e.held = false → e.failed = none →
      e.op ≠ 3 → s.gl e.part e.va Want.wr = .ok p → p.cls ≠ 4 → s.flaws = [] → s.walkOut e.va = false → s.subBusOut p.loc = false →
      s.net.admits (s.routerOf core) e.part drainFlits = true →
      (s.flush core q w).buffer core q = [] ∧
        (s.flush core q w).mem = (s.wrNat p.loc (typeBytes e.type)
          (atomInt e.op e.type (BitVec.ofNat 64 (s.rdNat p.loc (typeBytes e.type))) e.int).toNat).mem) ∧
    ∀ (s : State) (t : Thread) (f : RegF) (q core : Nat) (u : State) (c : BitVec 32) (va : BitVec 64), s.Executes t f.neg f.pred →
      quarterOf s.cur t = some q → core = s.coreOf s.cur t → u = s.flushOnce t core q → u.drainHeld core q = false →
      u.drainFailure core q s.cur = some (c, va) → exec (.redflush f) s = .next ((u.dropFailures core q s.cur).trap t c va))

/-! ## Ordering, binding and copies (R180 to R191, R267) -/

/-- A `fence` and a `rel` wait for every earlier access and flush, and an `acq` does not; each changes nothing else; the object of an `acq`, a `rel`, a `bind` or an `unbind` is
reached as a word of the thread is, after its own earlier accesses of it. `bind` with no length
or one above 2^30 is refused, which clears d and changes nothing; a region that meets no other object's sector, of an object with fewer
than eight regions at a home with room, is recorded and d is set; `unbind` takes the earliest region of the object with the base away, or
clears d where there is none (R180 to R183). That an object waits on the range scoreboard as an access does is the model's reading (log entry 82). -/
def Obligations.OrderingAndBinding : Prop :=
  ∀ (s u : State) (t : Thread) (f : RegF) (spc : Space), s.Executes t f.neg f.pred → spc = objSpace (subSpace f.mod) →
    (s.ReleasesAll t u → exec (.fence f) s = .next (u.done t [])) ∧
      (t.owesAccess = true → exec (.fence f) s = .next (s.waitFor t .access)) ∧
      (∀ p v, s.Reaches t spc (s.srcAddr s.cur t spc f.a) 4 Acc.object p v → exec (.acq f) s = .next (v.done t [])) ∧
      (∀ p, s.access s.cur t spc (s.srcAddr s.cur t spc f.a) 4 Acc.object = .ok p →
        (∀ q v, s.ReleasesAll t u → u.Reaches t spc (s.srcAddr s.cur t spc f.a) 4 Acc.object q v →
            exec (.rel f) s = .next (v.done t [])) ∧
          (t.owesAccess = true → exec (.rel f) s = .next (s.waitFor t .access))) ∧
      ∀ (p : Place) (v : State) (obj base : BitVec 64) (len k : Nat), obj = s.srcAddr s.cur t spc f.c →
        base = s.srcAddr s.cur t spc f.a → len = (s.src32 s.cur t f.b).toNat → s.Reaches t spc obj 4 Acc.object p v →
        k = p.loc.key / 4 →
        (len = 0 ∨ 2 ^ 30 < len → exec (.bind f) s = .next (v.done t (dstPred f.d false))) ∧
          (spc = .gl → len ≠ 0 → len ≤ 2 ^ 30 →
            (∀ d b, d ∈ s.dies → b ∈ d.2.binds → b.obj ≠ k → sectorsMeet b.lo b.hi base.toNat (base.toNat + len) = false) →
            ((s.dies.flatMap fun d => d.2.binds).filter fun b => decide (b.obj = k)).length < 8 →
            (s.die (homeDie obj)).binds.length < 16384 →
            exec (.bind f) s = .next ((v.updDie (homeDie obj) fun d =>
              { d with binds := d.binds ++ [⟨k, base, base.toNat, base.toNat + len, t.lid⟩] }).done t (dstPred f.d true))) ∧
          (∀ g, spc = .sp → s.spGroup s.cur t = some g → len ≠ 0 → len ≤ 2 ^ 30 → bits base 31 0 + len ≤ g.spBytes →
            let core := (p.loc.key - 2 ^ 60) / 2 ^ 20
            let lo := spBaseKey core + g.spBase + bits base 31 0
            ((s.core core).binds.filter fun b => decide (b.obj = k)).length < 8 →
            (∀ b ∈ (s.core core).binds, b.obj ≠ k → sectorsMeet b.lo b.hi lo (lo + len) = false) →
            (∀ q ∈ s.queueRegions core, q.1 ≠ k → sectorsMeet q.2.1 q.2.2 lo (lo + len) = false) → s.poolUsed core < 256 →
            exec (.bind f) s = .next ((v.updCore core fun c =>
              { c with binds := c.binds ++ [⟨k, base, lo, lo + len, t.lid⟩] }).done t (dstPred f.d true))) ∧
          (spc = .gl →
            (∀ l b r, (s.die (homeDie obj)).binds = l ++ b :: r → b.obj = k → b.base = base → (∀ x ∈ l, ¬ (x.obj = k ∧ x.base = base)) →
              exec (.unbind f) s =
                .next ((v.updDie (homeDie obj) fun d => { d with binds := l ++ r }).done t (dstPred f.d true))) ∧
              ((∀ x ∈ (s.die (homeDie obj)).binds, ¬ (x.obj = k ∧ x.base = base)) →
                exec (.unbind f) s = .next (v.done t (dstPred f.d false)))) ∧
          (spc ≠ .gl →
            let core := (p.loc.key - 2 ^ 60) / 2 ^ 20
            (∀ l b r, (s.core core).binds = l ++ b :: r → b.obj = k → b.base = base → (∀ x ∈ l, ¬ (x.obj = k ∧ x.base = base)) →
              exec (.unbind f) s = .next ((v.updCore core fun c => { c with binds := l ++ r }).done t (dstPred f.d true))) ∧
              ((∀ x ∈ (s.core core).binds, ¬ (x.obj = k ∧ x.base = base)) →
                exec (.unbind f) s = .next (v.done t (dstPred f.d false))))

/-- Copies and gathers (R184 to R188): a queue that an engine found bad traps the steward first (R56); a refused descriptor traps cp.desc; an
accepted one becomes a command that keeps the descriptor, its thread goes on, and its completion is due; memory is as it was.

A command's end (R188 to R190): its remaining sectors are moved, all bytes of a sector read before any is written, and its completion
word is filled; a page that is not there keeps it; a fill waits while its group's fill log is replayed; a copy into a queue first waits until
the queue has room for the whole transfer and no earlier command into it has still to write, and then advances PROD (R268, R347). That the
completion is due 64 clocks on, that a queue which an engine found bad is marked for the next copy or gather too, that FADDR of cp.desc is 0, and that a
queue rewritten after its binding counts as stopped, are the model's (log entries 56, 19, 24, 66). -/
def Obligations.Copies : Prop :=
  (∀ (s v : State) (t : Thread) (f : RegF) (gid : Nat) (g : Group) (ofs : Nat) (p : Place), s.Executes t f.neg f.pred →
    s.cur = .steward gid → s.groupOf t = some g → ofs = (s.src32 s.cur t f.a).toNat → t.Plain →
    let words (n : Nat) : List (BitVec 64) := (List.range n).map fun i => BitVec.ofNat 64 (s.rdNat { p.loc with key := p.loc.key + 8 * i } 8)
    let taken (i : Instr) (k : CmdKind) (d : List (BitVec 64)) : Prop :=
      ∃ u c x, exec i s = .next u ∧ u.cmds = KV.put s.cmds s.ids c ∧ c = newCmd k t.gid g d f.mod ∧ c.desc = d ∧ c.progress = 0 ∧
        u.mem = s.mem ∧ u.tags = s.tags ∧ u.thread? s.cur = some x ∧ x.pc = t.pc + 8 ∧
        (bits (d.getD 2 0) 35 34 ≠ 3 → (s.clock + 64, Turn.event (.engineCommandCompletion s.ids)) ∈ u.sched) ∧
        (bits (d.getD 2 0) 35 34 = 3 → Turn.event (.copyQueueWrite s.ids) ∈ u.turns)
    ((∃ e ∈ g.queues, e.2.bad = true) → gid = t.gid → ∃ u : State, u.mem = s.mem ∧ u.cmds = s.cmds ∧
        exec (.cp f) s = .next (u.trap t 0x0604 0) ∧ exec (.gth f) s = .next (u.trap t 0x0604 0)) ∧
      ((∀ e ∈ g.queues, e.2.bad = false) → (∀ a, g.asyncFault ≠ some (0x0604, a)) →
        (s.Reaches t .sp (BitVec.ofNat 64 ofs) 32 Acc.load p v →
          (v.cpRefused g (words 4) = true → exec (.cp f) s = .next (v.trap t 0x020F 0)) ∧
            (v.cpRefused g (words 4) = false → (∀ c, (s.core c).sb.length < 64) → taken (.cp f) .cp (words 4))) ∧
          (s.Reaches t .sp (BitVec.ofNat 64 ofs) 64 Acc.load p v →
            (v.gthRefused g (words 8) = true → exec (.gth f) s = .next (v.trap t 0x020F 0)) ∧
              (v.gthRefused g (words 8) = false → (∀ c, (s.core c).sb.length < 64) → taken (.gth f) .gth (words 8))))) ∧
  ((∀ (s : State) (v : Victim) (c : Cmd) (units : List Nat) (l : List (Loc × Loc)), Memory.wf s.mem = true → s.flaws = [] →
      (∀ e ∈ l, e.1.slot = none ∧ e.2.slot = none ∧ (e.1.key - 2 ^ 60) / 2 ^ 20 = c.core ∧ (e.2.key - 2 ^ 60) / 2 ^ 20 = c.core) → (l.map fun e => e.2.key).Nodup →
      ∃ u, s.moveSector v c units (l.map fun e => (.ok e.1, 0)) (l.map fun e => (.ok e.2, 0)) = .done u [] none ∧
        (∀ e ∈ l, u.rdByte e.2 0 = s.rdByte e.1 0) ∧
        ∀ (m : Loc) (i : Nat), (∀ e ∈ l, m.key + i ≠ e.2.key) → u.rdByte m i = s.rdByte m i) ∧
    ∀ (s u : State) (cid : Nat) (c d : Cmd) (g : Group) (ended : Bool), KV.at? s.cmds cid = some c → c.held = false →
      s.group? c.gid = some g → (c.silent = true ∨ ∃ p, s.donePlace c = .ok p) →
      (c.toQueue = false → c.kind ≠ .cpb ∨ c.started = true → s.fillWaits cid c = false →
        s.moveOn cid g (s.dstOf g c) c (s.pieces g c - c.progress) = (u, d, ended) →
        exec (.engineCommandCompletion cid) s = .next (if ended = true then u.endCmd cid d else u)) ∧
        ∀ (b : QBind) (q : Nat), c.toQueue = true → c.bytes ≠ 0 → KV.at? g.queues (c.dw 0).toNat = some b → q = s.qcw g b.ofs →
          s.groupSaving c.gid = false ∨ c.runs = true →
          (s.qcwRefused g b.ofs = true → exec (.copyQueueWrite cid) s = .next (s.stopCopy cid c)) ∧
            (s.qcwRefused g b.ofs = false →
              let taken := s.queueTaken cid c.gid c.core (c.dw 0).toNat
              (taken = true ∨ (c.progress = 0 ∧ qDepth q - qOcc q < c.bytes / qSize q) →
                exec (.copyQueueWrite cid) s = .next (s.updCmd cid fun c => { c with waitsRoom := true })) ∧
              (taken = false → c.bytes / qSize q ≤ qDepth q - qOcc q →
                s.moveOn cid g (s.dstOf g c) { c with waitsRoom := false } ((s.dstOf g c).sectors - c.progress) = (u, d, ended) →
                exec (.copyQueueWrite cid) s = .next (if ended = true
                  then (u.qAdvance g b.ofs 12 (natBits q 127 96 + c.bytes / qSize q)).endCmd cid d else u))))

/-! ## Control (R192 to R203) -/

/-- Branches move the thread to PC + 8·SEXT(IMM32) (R194); a register target is checked for alignment, for its fetch and for a `land` in
this order (R195), a bad table entry is reported beside the trap (R52), and a fetch that a storage error aborts is a failed one (log entry
83); `land` itself only advances.

Calls and returns (R48, R197): PC + 8 is pushed and the depth rises; from depth 8 the oldest hardware entry goes to spill entry depth − 8
first, and `ret` refills it; at depth 16, or where the spill area does not fit, `call` traps stack.ovf, and `ret` at depth 0 stack.unf. -/
def Obligations.BranchesAndCalls : Prop :=
  (∀ (s : State) (t u : Thread) (f : RegF) (g : ImmF) (a : BitVec 64) (p : Place),
    (t.Plain → ∀ ws, s.goto t ws a = s.setThread s.cur (t.after ws a s.clock)) ∧
      (s.Transfers t u g.neg g.pred →
        exec (.bra g) s = .next (s.goto u [] (u.pc + 8 * g.imm.signExtend 64)) ∧
          exec (.fbra g) s = .next (s.goto u [] (u.pc + 8 * g.imm.signExtend 64))) ∧
      (s.Transfers t u f.neg f.pred → a = s.src64 s.cur u f.a →
        (a.toNat % 8 ≠ 0 → exec (.brx f) s = .next (s.trap u 0x0300 a)) ∧
          (a.toNat % 8 = 0 → s.walkOut a = false →
            (∀ c, s.gl (s.partOf u) a Want.ex = .error (.trap c) →
                exec (.brx f) s = .next ((s.noteTarget u a c).trap u 0x0301 a) ∧
                  (c ≠ 0x0209 → c ≠ 0x020D → s.noteTarget u a c = s) ∧ (c = 0x0209 → Irq.badEntry (s.partOf u) ∈ (s.noteTarget u a c).irqs)) ∧
              (∀ v bad, s.gl (s.partOf u) a Want.ex = .ok p → s.subBusOut p.loc = false →
                (s.translate (s.partOf u) a).readFetch (s.victimOf s.cur u) a p.loc = (v, bad) →
                let x := decode (whoStream s.cur) (BitVec.ofNat 64 (v.rdNat p.loc 8))
                (bad = true → exec (.brx f) s = .next (v.trap u 0x0301 a)) ∧
                  (bad = false → (∀ i, x = .ok (.land i) → exec (.brx f) s = .next (v.goto u [] a)) ∧
                    ((∀ i, x ≠ .ok (.land i)) → exec (.brx f) s = .next (v.trap u 0x0302 a)))))) ∧
      (s.Executes t f.neg f.pred → exec (.land f) s = .next (s.done t []))) ∧
  (∀ (s : State) (t u : Thread) (f : RegF) (g : ImmF) (x target : BitVec 64) (b : Nat) (l : Loc) (p : Place) (i : RegF),
    let push (r : List (BitVec 64)) : Thread := { u with rstack := (u.pc + 8) :: r, depth := u.depth + 1 }
    let calls (v : State) (e : Instr) : Prop :=
      (u.depth = 16 → exec e s = .next (v.trap u 0x0303 target)) ∧
        (u.depth < 8 → exec e s = .next (v.goto (push u.rstack) [] target)) ∧
        (8 ≤ u.depth → u.depth < 16 → v.spillBase v.cur u = none → exec e s = .next (v.trap u 0x0303 target)) ∧
        (8 ≤ u.depth → u.depth < 16 → v.spillBase v.cur u = some b → l = v.spillLoc u b (u.depth - 8) → v.sbBusy u l 8 = false →
          exec e s = .next ((v.wrNat l 8 (u.rstack.getLastD 0).toNat).goto (push u.rstack.dropLast) [] target))
    (s.Transfers t u g.neg g.pred → target = u.pc + 8 * g.imm.signExtend 64 → calls s (.call g)) ∧
      (∀ v, s.Transfers t u f.neg f.pred → target = s.src64 s.cur u f.a → target.toNat % 8 = 0 → s.walkOut target = false →
        s.gl (s.partOf u) target Want.ex = .ok p → s.subBusOut p.loc = false →
        (s.translate (s.partOf u) target).readFetch (s.victimOf s.cur u) target p.loc = (v, false) →
        decode (whoStream s.cur) (BitVec.ofNat 64 (v.rdNat p.loc 8)) = .ok (.land i) → calls v (.callx f)) ∧
      (s.Transfers t u f.neg f.pred →
        (u.depth = 0 → exec (.ret f) s = .next (s.trap u 0x0304 0)) ∧
          ∀ r, u.rstack = x :: r →
            (0 < u.depth → u.depth ≤ 8 → exec (.ret f) s = .next (s.goto { u with rstack := r, depth := u.depth - 1 } [] x)) ∧
              (8 < u.depth → s.spillBase s.cur u = some b → l = s.spillLoc u b (u.depth - 9) → s.sbBusy u l 8 = false →
                ∀ v, s.readFor (s.victimOf s.cur u) 0 l 8 = (v, none) →
                exec (.ret f) s = .next (v.goto { u with rstack := r ++ [BitVec.ofNat 64 (s.rdNat l 8)], depth := u.depth - 1 } [] x))))

/-- Rejoin sets (R199, R200): after leaving its old set, a thread that marks joins the set of its j register, PC and clock, or forms it; one
that arrives parks until every member has arrived, which makes them all READY with %join.bereaved telling a loss, and empties the
arrivals; with the empty set it goes on at once.

The ends and waits of threads (R202, R203): `exit` frees a lane thread's slot and asks for the group's end; a steward's closes every
region; a handler's takes its origin with it. `yield` waits 64 clocks, after which the thread is READY; `nop` only advances. -/
def Obligations.RejoinsEndsAndWaits : Prop :=
  (∀ (s v : State) (t u : Thread) (f : RegF) (gid tid j n : Nat) (g : Group), s.cur = .lane gid tid → j = f.d.toNat →
    (s.Executes t f.neg f.pred → v = s.leaveSet gid tid (t.jAt j) false → v.group? gid = some g →
      (g.markedSet j t.pc s.clock = none → v.clock = s.clock →
        exec (.rjmark f) s = .next ((v.updGroup gid fun _ => { g with
          sets := KV.put g.sets g.setNext { j := j, pc := t.pc, clock := s.clock, members := [tid], arrived := [], lost := false }
          setNext := g.setNext + 1 }).done (t.setJ j g.setNext) [])) ∧
        (g.markedSet j t.pc s.clock = some n → v.clock = s.clock →
          exec (.rjmark f) s = .next ((v.updGroup gid fun _ => { g with
            sets := KV.upd g.sets n fun (r : RejoinSet) => { r with members := r.members ++ [tid] } }).done (t.setJ j n) []))) ∧
      (s.Transfers t u f.neg f.pred → u.jAt j = 0 → exec (.rjoin f) s = .next (s.done { u with joinBereaved := false } [])) ∧
      (∀ r : RejoinSet, s.Transfers t u f.neg f.pred → u.Plain → n = u.jAt j → n ≠ 0 → s.group? gid = some g → KV.at? g.sets n = some r →
        ((∃ m ∈ r.members, m ≠ tid ∧ m ∉ r.arrived) → ∃ w, exec (.rjoin f) s = .next w ∧
          w.thread? s.cur = some { u with pc := u.pc + 8, status := .parked (.rejoin n), readySince := s.clock }) ∧
          ((∀ m ∈ r.members, m = tid ∨ m ∈ r.arrived) → ∃ w h, exec (.rjoin f) s = .next w ∧
            w.thread? s.cur = some { u with pc := u.pc + 8, joinBereaved := r.lost, status := .ready, readySince := s.clock } ∧
            (∀ m x, m ≠ tid → m ∈ r.arrived → s.thread? (.lane gid m) = some x → x.status = .parked (.rejoin n) →
              w.thread? (.lane gid m) = some { x with joinBereaved := r.lost, status := .ready, readySince := s.clock }) ∧
            w.group? gid = some h ∧ KV.at? h.sets n = some { r with arrived := [], lost := false }))) ∧
  ((∀ (s : State) (t u : Thread) (f : RegF) (gid tid core n : Nat), s.Transfers t u f.neg f.pred →
    (s.cur = .lane gid tid → ∃ v w, exec (.exit f) s = .next w ∧ w = State.askEnd v gid ∧ w.thread? s.cur = none ∧ w.mem = s.mem) ∧
      (∀ g, s.cur = .steward gid → u.gid = gid → s.group? gid = some g → g.asyncFault = none → ∃ v w h, exec (.exit f) s = .next w ∧
        w = State.askEnd v gid ∧ w.thread? s.cur = none ∧ w.group? gid = some h ∧ h.regions = [] ∧ w.mem = s.mem) ∧
      (∀ x, s.cur = .handler core n → u.origin = some (.lane gid tid) → s.thread? (.lane gid tid) = some x → ∃ v w,
        exec (.exit f) s = .next w ∧ w = State.askEnd v gid ∧ w.thread? s.cur = none ∧ w.thread? (.lane gid tid) = none) ∧
      (u.Plain → ∃ w, exec (.yield f) s = .next w ∧
        w.thread? s.cur = some { u with pc := u.pc + 8, status := .waiting .yielding, readySince := s.clock } ∧
        w.sched = s.sched ++ [(s.clock + 64, .event (.yieldExpiry s.cur))] ∧ w.mem = s.mem)) ∧
    (∀ (s : State) (w : Who) (t : Thread), s.thread? w = some t → t.status = .waiting .yielding →
      exec (.yieldExpiry w) s = .next (s.setThread w { t with status := .ready, readySince := s.clock })) ∧
    ∀ (s : State) (t : Thread) (f : RegF), s.Executes t f.neg f.pred → exec (.nop f) s = .next (s.done t []))

/-! ## Steward and system (R206 to R218) -/

/-- `mfsr` and `mtsr` (R206, R207), each completing: own control items, origin control items (the eighth ORIGIN: bit 31 a steward, bits 30:22
the core, and of a lane thread 21:15 the lane and 14:11 the slot), and origin registers, whole or, without WIDE, bits 31:0, of a lane thread
or a steward, read into d or written from a. Elsewhere than in a handler thread spaces 0 and 1 trap sr.orphan, and an index outside the origin's
file (a steward's beyond 0x3F, a lane's beyond 0x93), or misaligned for it, traps sr.index; the decoder refuses one above 0x93. -/
def Obligations.ControlRegisters : Prop :=
  ∀ (s : State) (t : Thread) (f : RegF) (sp ix : Nat) (wide : Bool) (a : BitVec 64), s.Executes t f.neg f.pred →
    sp = bits f.mod 12 11 → ix = bits f.mod 7 0 → wide = f.mod.getLsbD 10 →
    a = (if wide = true then s.src64 s.cur t f.a else (s.src32 s.cur t f.a).setWidth 64) →
    let put (v : BitVec 64) : Out := .next (s.done t (if wide = true then dst64 s.cur f.d v else dst32 s.cur f.d v))
    let traps (c : BitVec 32) : Prop := exec (.mfsr f) s = .next (s.trap t c 0) ∧ exec (.mtsr f) s = .next (s.trap t c 0)
    (∀ g, sp = 2 → s.groupOf t = some g →
        (ix = 0 → exec (.mfsr f) s = put (g.crCause.setWidth 64)) ∧ (ix = 1 → exec (.mfsr f) s = put g.crAddr) ∧
          (ix = 2 → exec (.mfsr f) s = put (BitVec.ofNat 64 g.regions.length)) ∧
          (ix = 3 → exec (.mfsr f) s = put (g.crSkip.setWidth 64))) ∧
      (t.origin = none → sp ≠ 2 → traps 0x0306) ∧ (sp = 0 → 0x93 < ix → ∀ st, illegal st (.mfsr f) ≠ none ∧ illegal st (.mtsr f) ≠ none) ∧
      ∀ (o : Who) (u : Thread) (r : TrapRec), t.origin = some o → s.thread? o = some u → u.trapRec = some r →
        let write (x : Thread) : Prop := exec (.mtsr f) s = .next ((s.setThread o x).done t [])
        (sp = 1 →
          (ix = 0 → exec (.mfsr f) s = put u.pc ∧ write { u with pc := a &&& ~~~7 }) ∧
            (ix = 1 → exec (.mfsr f) s = put ((u.preds ||| 1).setWidth 64) ∧ write { u with preds := a.setWidth 8 ||| 1 }) ∧
            (ix = 2 → exec (.mfsr f) s = put (u.srCount.setWidth 64) ∧ write { u with srCount := a.setWidth 32 }) ∧
            (ix = 3 → exec (.mfsr f) s = put r.faddr) ∧ (ix = 4 → exec (.mfsr f) s = put (BitVec.ofNat 64 u.depth)) ∧
            (ix = 5 → exec (.mfsr f) s = put (BitVec.ofNat 64 ((if u.bereaved = true then 1 else 0) + (if u.joinBereaved = true then 2 else 0) +
                if r.pass = true then 4 else 0)) ∧
              write { u with bereaved := a.getLsbD 0, joinBereaved := a.getLsbD 1, trapRec := some { r with pass := a.getLsbD 2 } }) ∧
            (ix = 6 → exec (.mfsr f) s = put (BitVec.ofNat 64 (2 ^ 22 * s.coreOf o u +
                if isSteward o = true then 2 ^ 31 else 2 ^ 15 * u.lane + 2 ^ 11 * u.slot))) ∧
            (ix = 7 → exec (.mfsr f) s = put (r.skip.setWidth 64))) ∧
          (sp = 0 → isSteward o = false →
            (wide = false → ix ≤ 0x93 → exec (.mfsr f) s = put (u.content (.reg ix)) ∧ write (u.put (.reg ix) a)) ∧
              (wide = true → ix ≤ 0x93 → ix % 2 = 0 → exec (.mfsr f) s = put (Sparse.rd u.regs (ix + 1) ++ Sparse.rd u.regs ix) ∧
                write ((u.put (.reg ix) a).put (.reg (ix + 1)) (a >>> 32))) ∧
              (0x93 < ix ∨ (wide = true ∧ ix % 2 = 1) → traps 0x0307)) ∧
          (sp = 0 → isSteward o = true →
            (wide = true → ix ≤ 0x3F → exec (.mfsr f) s = put (u.content (.sreg ix)) ∧ write (u.put (.sreg ix) a)) ∧
              (wide = false → ix ≤ 0x3F → exec (.mfsr f) s = put (((u.content (.sreg ix)).setWidth 32).setWidth 64) ∧
                write (u.put (.sreg ix) ((Sparse.rd u.sregs ix).extractLsb' 32 32 ++ a.setWidth 32))) ∧
              (0x3F < ix → traps 0x0307))

/-- The decision queue (R12, R28, R208): `dqpush` gives its value to every lane thread that is live, keeps nothing when none is, and parks the
steward while 64 entries are unretired; `dqpop` takes the oldest entry that the thread owes, and traps dq.orphan once the steward has
exited with none left.

Numbered barriers (R13, R209): an arriving thread parks behind its instruction, until the steward has arrived or exited and every live
lane thread has arrived; then every thread parked there is READY and the barrier is reset. -/
def Obligations.QueueAndBarriers : Prop :=
  (∀ (s : State) (t : Thread) (f : RegF) (gid tid ty : Nat) (g : Group), s.Executes t f.neg f.pred → t.gid = gid → s.groupOf t = some g →
    ty = modType f.mod →
    (s.cur = .steward gid → t.owesAccess = false →
        (g.dq.length < 64 → exec (.dqpush f) s = .next (((s.updGroup gid fun g => { g with
          dqPushed := g.dqPushed + 1
          dq := if s.liveTids gid = [] then g.dq else g.dq ++ [{ num := g.dqPushed, value := s.src64 s.cur t f.a, owed := s.liveTids gid }] }).done
            t []).promptPops gid)) ∧
          (64 ≤ g.dq.length →
            exec (.dqpush f) s = .next (s.setThread s.cur { t with status := .parked .decisionPush, view := none }))) ∧
      (s.cur = .lane gid tid → t.tid.toNat = tid →
        (∀ l e r, g.dq = l ++ e :: r → tid ∈ e.owed → (∀ x ∈ l, tid ∉ x.owed) → ∃ clocks, exec (.dqpop f) s =
          .next (((s.finishLong { t with dqPos := e.num + 1 } f.la clocks (dstType s.cur ty f.d e.value)).updGroup gid fun g =>
            { g with dq := g.dq.map fun (x : DqEntry) => if x.num = e.num then { x with owed := x.owed.filter (· ≠ tid) } else x }).dqRetire gid)) ∧
          ((∀ x ∈ g.dq, tid ∉ x.owed) → s.stewardLive gid = false → exec (.dqpop f) s = .next (s.trap t 0x0308 0)))) ∧
  (∀ (s u v : State) (t : Thread) (f : RegF) (gid tid n : Nat) (g : Group) (b : Barrier) (i : Instr), s.Executes t f.neg f.pred → t.Plain →
    t.gid = gid → s.Flushes t u → u.group? gid = some g → n = f.d.toNat →
    ((s.cur = .steward gid ∧ g.asyncFault = none ∧ i = .nbar f ∧
        b = { ((KV.at? g.bars n).getD { steward := false, lanes := [] }) with steward := true }) ∨
      (s.cur = .lane gid tid ∧ i = .nbw f ∧ b = { ((KV.at? g.bars n).getD { steward := false, lanes := [] }) with
        lanes := ((KV.at? g.bars n).getD { steward := false, lanes := [] }).lanes ++ [tid] })) →
    v = (u.updGroup gid fun g => { g with bars := KV.put g.bars n b }).setThread u.cur
      { t with pc := t.pc + 8, status := .parked (.barrier n), readySince := u.clock } →
    (((b.steward = false ∧ v.stewardLive gid = true) ∨ ∃ m ∈ v.liveTids gid, m ∉ b.lanes) → exec i s = .next v) ∧
      ((b.steward = true ∨ v.stewardLive gid = false) → (∀ m ∈ v.liveTids gid, m ∈ b.lanes) →
        exec i s = .next ((v.updGroup gid fun g => { g with bars := KV.del g.bars n }).wakeAll fun _ x =>
          decide (x.gid = gid) && decide (x.status = .parked (.barrier n)))))

/-- Sharing groups and containment regions (R36, R210, R211, R213, R214): `grjoin` answers the lowest free rank with a MEMBER entry, or all ones
when refused; `grleave` revokes the rank at once, waits for the accesses to it that were issued before, and then gives both back; `crbeg` opens the innermost region or traps, and `crend` closes it.

System calls, kicks and error injection (R215 to R218): a ring with space takes the entry, its count advances with tag FULL, and d receives
the ticket, and with none its thread waits on SPACE (the ring's sub-bus being in use and its control block free of storage errors); a kick is taken when the graph's bit is clear; `diag.inj` issues its command to the half of its row; each of the three traps
where its operand has no place. What a ring is whose control block's page does not translate, and what becomes of an entry on such a page, are the
model's (log entry 80). -/
def Obligations.SharingRegionsAndCalls : Prop :=
  (∀ (s : State) (t : Thread) (f : RegF) (m : ImmF) (g : Group), s.groupOf t = some g →
    (s.Executes t f.neg f.pred →
      (∀ r i, g.share ≠ none → g.rank = none → r < 16 → r ∉ s.ranksOf g.share → (∀ k < r, k ∈ s.ranksOf g.share) → tableSlot g.estate = some i →
        let e : Entry := ⟨3, 0, BitVec.ofNat 64 r, 0, 0, 0xFFFFFFFF, false, BitVec.allOnes 64, false⟩
        exec (.grjoin f) s = .next ((s.updGroup t.gid fun g => { g with rank := some r, estate := KV.put g.estate i e }).done t
          (dst32 s.cur f.d (BitVec.ofNat 64 r)))) ∧
        ((g.share = none ∨ g.rank ≠ none ∨ (∀ r < 16, r ∈ s.ranksOf g.share) ∨ tableSlot g.estate = none) →
          exec (.grjoin f) s = .next (s.done t (dst32 s.cur f.d (BitVec.allOnes 64)))) ∧
        (g.rank = none → exec (.grleave f) s = .next (s.done t [])) ∧
        (g.rank ≠ none → s.rankOpen t.gid g = true →
          exec (.grleave f) s = .next ((s.updGroup t.gid fun g => { g with leaving := true }).waitFor t .leaving)) ∧
        (g.rank ≠ none → s.rankOpen t.gid g = false → exec (.grleave f) s = .next ((s.updGroup t.gid fun g =>
          { g with rank := none, leaving := false, estate := g.estate.filter fun (e : Nat × Entry) => decide (e.2.kind ≠ 3) }).done t [])) ∧
        (g.regions = [] → exec (.crend f) s = .next (s.trap t 0x0309 0)) ∧
        (∀ x r, g.regions = x :: r → exec (.crend f) s = .next ((s.updGroup t.gid fun g => { g with regions := r }).done t []))) ∧
      (s.Executes t m.neg m.pred → ∀ (base ctl : BitVec 64) (lo len : Nat), base = s.src64 s.cur t m.d → ctl = s.src64 s.cur t m.a →
        len = bits ctl 31 0 → lo = (if ctl.getLsbD 32 = true then base.toNat else bits base 31 0) →
        (4 ≤ g.regions.length → exec (.crbeg m) s = .next (s.trap t 0x0309 0)) ∧
          (g.regions.length < 4 →
            ((bits ctl 63 33 ≠ 0 ∨ len % 4 ≠ 0 ∨ lo % 4 ≠ 0) → exec (.crbeg m) s = .next (s.trap t 0x030A base)) ∧
              (bits ctl 63 33 = 0 → len % 4 = 0 → lo % 4 = 0 →
                (ctl.getLsbD 32 = false → len ≠ 0 → g.spBytes < lo + len → exec (.crbeg m) s = .next (s.trap t 0x0200 base)) ∧
                  ((ctl.getLsbD 32 = true ∨ len = 0 ∨ lo + len ≤ g.spBytes) → exec (.crbeg m) s = .next ((s.updGroup t.gid fun g =>
                    { g with regions := { handler := t.pc + 8 * m.imm.signExtend 64, base := if ctl.getLsbD 32 = true then base else BitVec.ofNat 64 lo,
                                          len := len, gl := ctl.getLsbD 32 } :: g.regions }).done t [])))))) ∧
  (∀ (s u : State) (t : Thread) (f : RegF) (part die : Nat), s.Executes t f.neg f.pred → s.ReleasesAll t u → part = s.partOf t →
    die = s.coreOf s.cur t / Config.coresPerDie →
    (s.ring? part die = none → exec (.sysrpc f) s = .next (s.trap t 0x030B 0)) ∧
      (∀ q r v, s.ring? part die = some q → u.ring? part die = some r → u.ringOut part r = false →
        u.readFor (u.victimOf u.cur t) (r.spaceVa - 20) r.block 24 = (v, none) →
        (fullish (u.tagAt (r.space.key / 4)) = true →
          ∃ w x, exec (.sysrpc f) s = .next w ∧ w.waits = u.waits ++ [x] ∧ x.key = r.space.key / 4 ∧ x.who = u.cur ∧ w.mem = u.mem) ∧
        (∀ w ticket keys, fullish (u.tagAt (r.space.key / 4)) = false →
          (w, ticket, keys) = v.post part die r v.cur t (s.coreOf s.cur t) (v.src32 v.cur t f.a) (v.src64 v.cur t f.b) →
          (∃ clocks, exec (.sysrpc f) s = .next ((State.finishLong w t f.la clocks (loadWrites (((dst32 v.cur f.d 0).map (·.1)).head?) 7 ticket)).serve keys)) ∧
            ticket = r.count ∧ (Memory.wf u.mem = true → Sparse.wf u.secKey = true → State.rdWord w r.prod = r.count + 1))) ∧
      (∀ graph, graph = (s.src32 s.cur t f.a).toNat →
        (4095 < graph → exec (.kick f) s = .next (s.trap t 0x030C 0)) ∧
          (graph ≤ 4095 → (KV.at? (u.die (u.dieOfThread u.cur t)).pending graph).isSome = true →
            exec (.kick f) s = .next (u.done t (dstPred f.d false))) ∧
          (graph ≤ 4095 → KV.at? (u.die (u.dieOfThread u.cur t)).pending graph = none →
            exec (.kick f) s = .next (((u.updDie (u.dieOfThread u.cur t) fun d =>
              { d with pending := KV.put d.pending graph (u.src64 u.cur t f.b) }).raise (.replayStart (u.dieOfThread u.cur t))).done t (dstPred f.d true)))) ∧
      ∀ g v, s.groupOf t = some g → v = s.src64 s.cur t f.a →
        ((bits v 63 21 ≠ 0 ∨ 127 < bits v 7 0 ∨ 128 < bits v 15 8) → exec (.diagInj f) s = .next (s.trap t 0x030D 0)))

/-! ## Windows (R242 to R249) -/

/-- Receiving, emitting and closing (R243 to R245): `wrecv` delivers the first item of the thread's window: a record's sixteen payload words, its
end predicate clear and the record registers; a timer's deadline; a close, which sets the predicate; with nothing queued it stays
pending. A window thread's `wemit` writes a sink entry when the sink has room, a pane thread's only once its pane record. `wclose` closes the
own window, `wclose.id` a named one, `wclose.end` ends the stream. Other threads trap win.role.

Merge returns, timers and statistics (R246 to R248): `wmret` at the depth of the merge makes the suspended `wrecv`s pending again and resumes
where the merge found the thread; `wtimer` arms, disarms or, for a deadline that has passed, appends at once; `wstat` reads a counter.
That a closed window arms no timer, and that counter 9 is read at the present %time, is the model's choice (log entry 29). -/
def Obligations.WindowInstructions : Prop :=
  (∀ (s : State) (t : Thread) (f : RegF) (q w : Nat) (x : Query) (y : Win), s.Executes t f.neg f.pred →
    (s.ownWin t = none → ∀ i ∈ [Instr.wrecv f, .wemit f, .wclose f, .wmret f, .wtimer f], exec i s = .next (s.trap t 0x0500 0)) ∧
      (s.ownWin t = some (q, w, x, y) →
        (t.mergeDepth = none → t.earlier.any Outstanding.receives = false → y.returned = false → ∀ i r, y.queue = i :: r → ∃ clocks v,
          exec (.wrecv f) s = .next ((State.finishLong v t f.la clocks (i.writes x.block.payload f.d y.restored)).prompt q w) ∧
          v = s.updWin q w (fun z => z.deliver i s.time t.receivesMore) ∧
          (∀ c : Rec, i = .record c → i.writes x.block.payload f.d false =
            (List.range 16).map (fun n => (Dest.reg (x.block.payload + n), (c.word n).setWidth 64)) ++
              [(.pred f.d.toNat, 0), (.recTs, c.ts), (.recSeq, c.seq), (.recFlags, c.flags.setWidth 64)]) ∧
          (i = .close → i.writes x.block.payload f.d false = [(.pred f.d.toNat, 1)])) ∧
        (t.mergeDepth = none → t.earlier.any Outstanding.receives = false → y.returned = true → ∃ clocks, exec (.wrecv f) s =
          .next (((s.updWin q w fun z => z.deliver .close s.time t.receivesMore).finishLong t f.la clocks [(.pred f.d.toNat, 1)]).prompt q w)) ∧
        (t.Plain → t.mergeDepth = none → y.returned = false → y.queue = [] → KV.at? x.wins w = some y → KV.at? s.queries q = some x →
          ∃ u v o z m, exec (.wrecv f) s = .next u ∧
          u.thread? s.cur = some v ∧ v.wins = [o] ∧ o.state = .redo ∧ KV.at? u.queries q = some z ∧ KV.at? z.wins w = some m ∧
          m = { y with receiving := true }) ∧
        (y.pane = true → y.emits ≠ 0 → exec (.wemit f) s = .next (s.trap t 0x0501 0)) ∧
        (∀ u, y.pane = true → y.emits = 0 → s.ReleasesAll t u → u.ownWin t = some (q, w, x, y) → ∃ r : Rec,
          exec (.wemit f) s = .next (((u.updQuery q fun x => { x with pane := x.pane ++ [(w, r, 0)] }).updWin q w fun z =>
            { z with emits := 1 }).done t []) ∧ r.ts = y.last ∧ r.seq = BitVec.ofNat 64 y.num ∧ r.key = y.key ∧
            r.len = 4 * (bits f.mod 3 0 + 1) ∧ r.flags = 1) ∧
        (∀ u c p, y.pane = false → s.ReleasesAll t u → u.ownWin t = some (q, w, x, y) → u.gl x.part x.block.sinkCons Want.rd = .ok c →
          u.gl x.part x.block.sinkProd Want.wr = .ok p → sinkRoom x.block.sinkN (u.rdWord p.loc) (u.rdWord c.loc) ≠ 0 →
          u.sinkFault x (u.rdWord p.loc) = none → u.sinkOut x (u.rdWord p.loc) = false → ∀ b, u.readSink t x c.loc p.loc = (b, none) →
          ∃ v keys, (v, keys) = b.sinkWrite q x (emitRec y t b.time (s.srcRegs s.cur t f.a (bits f.mod 3 0 + 1))) p.loc (u.rdWord p.loc) ∧
            exec (.wemit f) s = .next (((State.updWin v q w fun z => { z with emits := z.emits + 1 }).done t []).serve keys)) ∧
        exec (.wclose f) s = .next ((s.closeWin q w).done t (dstPred f.d (!y.closed))) ∧
        (y.closed = true → s.closeWin q w = s) ∧
        (y.closed = false → x.closeWaits w y = false → KV.at? x.wins w = some y → KV.at? s.queries q = some x →
          s.closeWin q w = (s.updWin q w fun z => { z with closed := true, timer := 0, closeHeld := false }).append q w .close)) ∧
      (s.queryOf t = none → ∀ i ∈ [Instr.wcloseId f, .wcloseEnd f, .wstat f], exec i s = .next (s.trap t 0x0500 0)) ∧
      (s.queryOf t = some (q, x) →
        (x.openNamed (s.src32 s.cur t f.a) (s.src64 s.cur t f.b) = none → exec (.wcloseId f) s = .next (s.done t (dstPred f.d false))) ∧
        (x.openNamed (s.src32 s.cur t f.a) (s.src64 s.cur t f.b) = some w →
          exec (.wcloseId f) s = .next ((s.closeWin q w).done t (dstPred f.d true))) ∧
        (x.streamOpen = true → exec (.wcloseEnd f) s =
          .next ((s.updQuery q fun x => { x with streamOpen := false, ending := true, scan := none }).done t (dstPred f.d true))) ∧
        (x.streamOpen = false → exec (.wcloseEnd f) s = .next (s.done t (dstPred f.d false))) ∧
        (13 < (s.src32 s.cur t f.a).toNat → exec (.wstat f) s = .next (s.trap t 0x0502 0)))) ∧
  (∀ (s : State) (t : Thread) (f : RegF) (q w : Nat) (x : Query) (y : Win), s.Executes t f.neg f.pred →
    (s.ownWin t = some (q, w, x, y) →
      (∀ d, t.mergeDepth = some d → t.depth ≠ d → exec (.wmret f) s = .next (s.trap t 0x0503 0)) ∧
        (∀ os pc v, t.Plain → t.mergeDepth = some t.depth → y.suspended = some (os, pc) →
          v = { t with pc := pc, wins := os, mergeDepth := none, readySince := s.clock, status := .ready } →
          exec (.wmret f) s = .next (((s.setThread s.cur { v with status := v.windowStatus }).updWin q w fun z =>
              { z with suspended := none, receiving := true }).prompt q w)) ∧
        (y.closed = true → exec (.wtimer f) s = .next (s.done t [])) ∧
        (y.closed = false → (s.src64 s.cur t f.a = 0 ∨ s.time < s.src64 s.cur t f.a) → exec (.wtimer f) s =
          .next ((s.done t []).updWin q w fun z => { z with timer := s.src64 s.cur t f.a })) ∧
        (y.closed = false → s.src64 s.cur t f.a ≠ 0 → s.src64 s.cur t f.a ≤ s.time → exec (.wtimer f) s =
          .next (((s.done t []).updWin q w fun z => { z with timer := 0 }).append q w (.timer (s.src64 s.cur t f.a))))) ∧
      (s.queryOf t = some (q, x) → ∀ i, i = (s.src32 s.cur t f.a).toNat →
        (i = 4 → exec (.wstat f) s =
          .next (s.done t (dst64 s.cur f.d (BitVec.ofNat 64 (x.wins.filter fun e => !e.2.closed).length)))) ∧
        (i = 5 → exec (.wstat f) s =
          .next (s.done t (dst64 s.cur f.d (BitVec.ofNat 64 (x.wins.filter fun e => e.2.fold.isSome).length)))) ∧
        (i = 9 → exec (.wstat f) s = .next (s.done t (dst64 s.cur f.d (BitVec.ofNat 64 (x.watermark s.time))))) ∧
        (i = 10 → exec (.wstat f) s = .next (s.done t (dst64 s.cur f.d x.tsMax))) ∧
        (i ∈ [0, 1, 2, 3, 6, 7, 8, 11, 12, 13] → exec (.wstat f) s = .next (s.done t (dst64 s.cur f.d ((KV.at? x.counters i).getD 0))))))

/-! ## Estates and the quasi-random unit (R283 to R310) -/

/-- Estate instructions on a tagged object (R285 to R291): with a heir that may be named, no entry on the object and a free index, `hold.lock` at a
FULLish word and `promise` at an EMPTYish one take it at once, making the word EMPTY and the entry held; otherwise d is cleared; `hold.copy`
records an entry without touching the word; `heir` replaces the heir; `drop` of a LOCK and `fulfil` of a PROMISE, which release first, fill the word clean and
retire the entry; `drop` of a COPY or LAUNCH only retires it.

Slots, group heirs and the table's contents (R284, R287, R290 to R292): `hold.slot` reserves room of a queue in a SLOT entry, `drop.slot` gives
part of it back and retires the entry with the last, `heir.slot` and `heir.grp` replace heirs, and the `estq` forms read the table. -/
def Obligations.Estates : Prop :=
  (∀ (s v u : State) (t : Thread) (f : RegF) (g : Group) (p : Place) (spc : Space) (ea : BitVec 64) (sp k : Nat), s.Executes t f.neg f.pred →
    sp = bits f.mod 6 5 → spc = objSpace sp → ea = s.srcAddr s.cur t spc f.a → k = p.loc.key / 4 → v.spGroup v.cur t = some g →
    let heir := v.src32 v.cur t f.b
    let entry (kind : Nat) (waiting : Bool) : Entry := ⟨kind, sp, ea, 0, 0, heir, false, BitVec.allOnes 64, waiting⟩
    let refused : Out := .next (v.done t (dstPred f.d false))
    (s.Reaches t spc ea 4 Acc.await p v →
      ((v.heirOk t heir = false ∨ g.entryOn sp ea ≠ none ∨ tableSlot g.estate = none) → exec (.holdLock f) s = refused ∧ exec (.promise f) s = refused) ∧
      (∀ i, v.heirOk t heir = true → g.entryOn sp ea = none → tableSlot g.estate = some i →
        (fullish (v.tagAt k) = true → exec (.holdLock f) s = .next ((((v.putEntry t.gid i (entry 0 false)).done
          { t with bereaved := v.tagAt k == 3 } (dstPred f.d true)).setTag k 0).serve [k])) ∧
        (fullish (v.tagAt k) = false → exec (.promise f) s = .next ((((v.putEntry t.gid i (entry 1 false)).done
          { t with bereaved := v.tagAt k == 2 } (dstPred f.d true)).setTag k 0).serve [k])) ∧
        (fullish (v.tagAt k) = false → exec (.holdLock f) s =
          .next ((v.putEntry t.gid i (entry 0 true)).waitTag t 0 spc ea p [.pred f.d.toNat] (.lock i f.d.toNat))) ∧
        (fullish (v.tagAt k) = true → exec (.promise f) s =
          .next ((v.putEntry t.gid i (entry 1 true)).waitTag t 0 spc ea p [.pred f.d.toNat] (.promise i f.d.toNat))))) ∧
    (s.Reaches t spc ea 4 Acc.fill p v →
      (g.entryOn sp ea = none → exec (.drop f) s = refused ∧ exec (.fulfil f) s = refused) ∧
      ∀ i e, g.entryOn sp ea = some (i, e) → e.waiting = false →
        (e.kind = 0 → exec (.fulfil f) s = refused) ∧ (e.kind = 1 → exec (.drop f) s = refused) ∧
        (e.kind = 4 ∨ e.kind = 5 → exec (.drop f) s = .next ((v.retireEntry t.gid i).done t (dstPred f.d true)) ∧ exec (.fulfil f) s = refused)) ∧
    (∀ q i e, s.access s.cur t spc ea 4 Acc.fill = .ok q → s.spGroup s.cur t = some g → g.entryOn sp ea = some (i, e) →
      e.waiting = false → s.ReleasesAll t u → ea = u.srcAddr u.cur t spc f.a → u.Reaches t spc ea 4 Acc.fill p v →
      ∀ j, (e.kind = 0 ∧ j = Instr.drop f) ∨ (e.kind = 1 ∧ j = Instr.fulfil f) → exec j s = .next
        ((((v.retireEntry t.gid i).fill p.loc (p.cls == 4) (v.src32 v.cur t f.b)).done t (dstPred f.d true)).serve [k])) ∧
    (s.Reaches t spc ea 4 Acc.object p v →
      ((v.heirOk t heir = false ∨ g.entryOn sp ea ≠ none ∨ tableSlot g.estate = none) → exec (.holdCopy f) s = refused) ∧
      (∀ i, v.heirOk t heir = true → g.entryOn sp ea = none → tableSlot g.estate = some i →
        exec (.holdCopy f) s = .next ((v.putEntry t.gid i (entry 4 false)).done t (dstPred f.d true))) ∧
      (g.entryOn sp ea = none → exec (.heir f) s = refused) ∧
      ∀ i e, g.entryOn sp ea = some (i, e) → e.waiting = false →
        (v.heirOk t heir = false → exec (.heir f) s = refused) ∧
        (v.heirOk t heir = true → exec (.heir f) s = .next ((v.putEntry t.gid i { e with heir := heir }).done t (dstPred f.d true))))) ∧
  (∀ (s : State) (t : Thread) (f : RegF) (g : Group), s.Executes t f.neg f.pred → s.spGroup s.cur t = some g →
    let heir := s.src32 s.cur t f.b
    let c := s.src32 s.cur t f.a
    let n := (s.src32 s.cur t f.c).toNat
    let refused : Out := .next (s.done t (dstPred f.d false))
    (s.slotQueue t.gid g c = none → exec (.holdSlot f) s = refused) ∧
    (bits c 31 9 = 0 → bits c 8 8 = 0 → s.slotQueue t.gid g c = some (t.gid, bits c 3 0)) ∧
    (∀ o q i h b, s.slotQueue t.gid g c = some (o, q) → s.group? o = some h → KV.at? h.queues q = some b →
        tableSlot g.estate = some i → s.heirOk t heir = true → (∀ e ∈ g.estate, ¬ (e.2.kind = 2 ∧ e.2.qgid = o ∧ bits e.2.addr 3 0 = q)) →
        ((n = 0 ∨ 4096 < n ∨ qDepth (s.qcw h b.ofs) < qOcc (s.qcw h b.ofs) + b.rsvd + n) → exec (.holdSlot f) s = refused) ∧
        (n ≠ 0 → n ≤ 4096 → qOcc (s.qcw h b.ofs) + b.rsvd + n ≤ qDepth (s.qcw h b.ofs) → exec (.holdSlot f) s =
          .next (((s.updGroup o fun g => { g with queues := KV.upd g.queues q fun (b : QBind) => { b with rsvd := b.rsvd + n } }).putEntry t.gid i
            ⟨2, 0, c.setWidth 64, n, o, heir, false, BitVec.allOnes 64, false⟩).done t (dstPred f.d true)))) ∧
    (s.slotEntry t.gid g c = none → exec (.dropSlot f) s = refused ∧ exec (.heirSlot f) s = refused) ∧
    (∀ i e, s.slotEntry t.gid g c = some (i, e) →
      (n = 0 ∨ e.count < n → exec (.dropSlot f) s = refused) ∧
      (n ≠ 0 → n < e.count → exec (.dropSlot f) s =
        .next (((s.unreserve e n).putEntry t.gid i { e with count := e.count - n }).done t (dstPred f.d true))) ∧
      (n ≠ 0 → n = e.count → exec (.dropSlot f) s = .next (((s.unreserve e n).retireEntry t.gid i).done t (dstPred f.d true))) ∧
      (s.heirOk t heir = true → exec (.heirSlot f) s = .next ((s.putEntry t.gid i { e with heir := heir }).done t (dstPred f.d true))) ∧
      (s.heirOk t heir = false → exec (.heirSlot f) s = refused)) ∧
    (s.heirOk t heir = true → exec (.heirGrp f) s =
      .next ((s.updLaunch t.lid fun l => { l with heirs := KV.put l.heirs t.grp.toNat heir }).done t (dstPred f.d true))) ∧
    (s.heirOk t heir = false → exec (.heirGrp f) s = refused) ∧
    (∀ e, KV.at? g.estate c.toNat = some e → e.waiting = false → exec (.estqFrom f) s = .next (s.done t (dst64 s.cur f.d e.fromGrp)) ∧
      (e.kind < 8 → e.space < 4 → exec (.estqInfo f) s = .next (s.done t (dst64 s.cur f.d
        (e.heir ++ BitVec.ofNat 32 (128 + (if e.conv = true then 64 else 0) + 16 * e.space + e.kind))))) ∧
      (e.kind ≠ 2 → exec (.estqObj f) s = .next (s.done t (dst64 s.cur f.d e.addr))) ∧
      (e.kind = 2 → exec (.estqObj f) s = .next (s.done t (dst64 s.cur f.d (BitVec.ofNat 64 (e.count * 2 ^ 16 + bits e.addr 8 0)))))) ∧
    (KV.at? g.estate c.toNat = none → exec (.estqInfo f) s = .next (s.done t (dst64 s.cur f.d 0)) ∧
      exec (.estqObj f) s = .next (s.done t (dst64 s.cur f.d 0)) ∧ exec (.estqFrom f) s = .next (s.done t (dst64 s.cur f.d 0))) ∧
    ∃ m : BitVec 64, exec (.estqMask f) s = .next (s.done t (dst64 s.cur f.d m)) ∧
      ∀ i < 64, m.getLsbD i = true ↔ ∃ e, (i, e) ∈ g.estate ∧ e.waiting = false)

/-- The quasi-random unit (R302, R304, R306 to R308): a window load reads the direction numbers and derives the seeds; `qrseed` sets one seed,
`qrseed.key` derives all; a point is the XOR of the direction numbers that the index picks, scrambled with the dimension's seed unless RAW, and
`qrf` is its top 24 bits as a fraction; a failed load leaves an empty window (the table's sub-buses being in use, R404), and while a load is in progress the rest waits; without a context the unit traps qr.none, and outside the window qr.dim. -/
def Obligations.QuasiRandomUnit : Prop :=
  ∀ (s : State) (t : Thread) (f : RegF) (a : Nat), s.Executes t f.neg f.pred → a = (s.src32 s.cur t f.a).toNat →
    (s.quasi t = none → ∀ i ∈ [Instr.qrld f, .qrseed f, .qrseedKey f, .qrpt f, .qrpt4 f, .qrf f], exec i s = .next (s.trap t 0x0702 0)) ∧
      ∀ (g : Group) (q : Qru), s.quasi t = some (g, q) →
        (s.quasiBusy t = true → ∀ i ∈ [Instr.qrld f, .qrseed f, .qrseedKey f, .qrpt f, .qrpt4 f, .qrf f], exec i s = .next (s.waitFor t .quasi)) ∧
        (s.quasiBusy t = false →
        (q.tdims ≤ a → exec (.qrld f) s = .next (s.trap t 0x0701 0)) ∧
        (∀ rows v n, a < q.tdims → n = min q.wcap (q.tdims - a) → s.qruOut (s.partOf t) q a n = false → s.tableWords (s.partOf t) q a n = .ok rows →
          s.readTable s.cur t q a n = (v, none) → ∃ clocks,
          exec (.qrld f) s = .next ((((((List.range n).foldl (fun s k =>
            s.wrBytes (spLoc g.core (g.spBase + q.taofs + 128 * k)) 0 (rows.getD k [])) v).deriveSeeds g q a n).setQru t.gid
              { q with wbase := a, wdims := n }).finishLong t f.la clocks []).wakeQuasi t.gid)) ∧
        (∀ va c, a < q.tdims → c ≠ 0x020D → s.qruOut (s.partOf t) q a (min q.wcap (q.tdims - a)) = false → s.tableWords (s.partOf t) q a (min q.wcap (q.tdims - a)) = .error (va, .trap c) →
          exec (.qrld f) s = .next (((s.setQru t.gid { q with wdims := 0 }).trap t c va).wakeQuasi t.gid)) ∧
        ((a < q.wbase ∨ q.wbase + q.wdims ≤ a) → ∀ i ∈ [Instr.qrseed f, .qrpt f, .qrpt4 f, .qrf f], exec i s = .next (s.trap t 0x0701 0)) ∧
        (∃ clocks, exec (.qrseedKey f) s = .next (((s.deriveSeeds g { q with seedKey := s.src64 s.cur t f.a } q.wbase q.wdims).setQru t.gid
          { q with seedKey := s.src64 s.cur t f.a }).finishLong t f.la clocks [])) ∧
        (q.wbase ≤ a → a < q.wbase + q.wdims → ∃ clocks,
          exec (.qrseed f) s = .next ((s.wrNat (spLoc g.core (g.spBase + q.taofs + 128 * q.wcap + 4 * (a - q.wbase))) 4
            (s.src32 s.cur t f.b).toNat).finishLong t f.la clocks [])) ∧
        (q.wbase ≤ a → a < q.wbase + q.wdims → ∃ clocks, ∀ i raw, i = s.pointIndex t f → raw = f.mod.getLsbD 2 →
          exec (.qrpt f) s = .next (s.finishLong t f.la clocks (dst32 s.cur f.d ((s.point g q a i raw).setWidth 64))) ∧
          exec (.qrf f) s = .next (s.finishLong t f.la clocks
            (dst32 s.cur f.d ((rne32 (.dy false ((s.point g q a i raw).toNat / 256) (-24))).setWidth 64)))) ∧
        (q.wbase ≤ a → a + 3 < q.wbase + q.wdims → ∃ clocks, ∀ i raw, i = s.pointIndex t f → raw = f.mod.getLsbD 2 →
          exec (.qrpt4 f) s = .next (s.finishLong t f.la clocks (dstRegs f.d
            [s.point g q a i raw, s.point g q (a + 1) i raw, s.point g q (a + 2) i raw, s.point g q (a + 3) i raw])))) ∧
        (∀ k j : Nat, k < 32 → s.point g q (q.wbase + j) (1 <<< k) true = s.rdWord (spLoc g.core (g.spBase + q.taofs + 128 * j + 4 * k))) ∧
        (∀ (d : Nat) (x y : BitVec 64), s.point g q d (x ^^^ y) true = s.point g q d x true ^^^ s.point g q d y true) ∧
        ∀ (d : Nat) (x : BitVec 64), x.extractLsb' 32 32 = 0 → s.point g q d x false =
          scramble (s.point g q d x true) (s.rdWord (spLoc g.core (g.spBase + q.taofs + 128 * q.wcap + 4 * (d - q.wbase))))

/-- `qrhash` writes QHASH of two words under LAUNCHKEY, `qrhash.k` under the key it names; both read a and b as 32-bit control operands, use no
context and never trap (R309). Of `qrhash.k` the last is the model's reading (log entry 23): R304 exempts `qrhash` by name alone. -/
def Obligations.KeyedHash : Prop :=
  ∀ (s : State) (t : Thread) (f : RegF) (l : Launch) (a b : BitVec 32), s.Executes t f.neg f.pred → a = s.src32 s.cur t f.a →
    b = s.src32 s.cur t f.b → ∃ clocks,
      (s.launch? t.lid = some l → exec (.qrhash f) s = .next (s.finishLong t f.la clocks (dst32 s.cur f.d ((qhash l.key [a, b]).setWidth 64)))) ∧
        exec (.qrhashK f) s =
          .next (s.finishLong t f.la clocks (dst32 s.cur f.d ((qhash (s.src64 s.cur t f.c) [a, b]).setWidth 64)))

/-! ## The matrix arrays (R252 to R282) -/

/-- Group 14 commands (R253, R261, R263, R267 to R277): `qcset` binds and unbinds a queue; `mzero`, `mma`, `mdrain`, `epld`, `diag.inj` and `cpb`
enter the queues of their halves as they are read at issue, and the steward goes on; a half of another partition traps mx.tenant and one
that another group holds mx.busy. -/
def Obligations.ArrayCommands : Prop :=
  ∀ (s v : State) (t : Thread) (f : RegF) (g : Group) (span : Nat) (hs : List Nat) (p : Place), s.Executes t f.neg f.pred → s.Commands t g →
    span = bits f.mod 6 5 → hs = spanHalves span →
    let queued (i : Instr) (hs : List Nat) (span : Nat) (k : MxKind) : Prop := ∃ u, exec i s = .next u ∧ s.Queued u t g hs ⟨s.ids, t.gid, span, k, false⟩
    ((∃ h ∈ hs, (s.half g.core h).part ≠ some g.part) → ∀ i ∈ [Instr.mzero f, .mma f, .mdrain f, .epld f], exec i s = .next (s.trap t 0x0600 0)) ∧
      ((∀ h ∈ hs, (s.half g.core h).part = some g.part) → (∃ h ∈ hs, ∃ x, (s.half g.core h).holder = some x ∧ x ≠ t.gid) →
        ∀ i ∈ [Instr.mzero f, .mma f, .mdrain f, .epld f], exec i s = .next (s.trap t 0x0601 0)) ∧
      (s.HalvesOpen t g hs →
        queued (.mzero f) hs span (.zero f.d.toNat) ∧
        (∀ fa fb q l0 kg, fa = s.formatSlot t (bits f.mod 12 10) → fb = s.formatSlot t (bits f.mod 9 7) → q = s.src64 s.cur t f.a →
          l0 = s.src64 s.cur t f.b → kg = s.src64 s.cur t f.c → ((slotValid fa = false ∨ slotValid fb = false) → exec (.mma f) s = .next (s.trap t 0x060A 0)) ∧
          (slotValid fa = true → slotValid fb = true → s.mmaRefused g span fa fb q l0 kg = none →
            queued (.mma f) hs span (.mma f.d.toNat q.toNat l0.toNat kg.toNat fa fb))) ∧
        (∀ q pb n, q = s.src64 s.cur t f.a → pb = s.src64 s.cur t f.b → s.queueSize g q = some n → pb.toNat % 4 = 0 → bits pb 63 32 = 0 →
          queued (.mdrain f) hs span (.drain f.d.toNat q.toNat pb.toNat (f.mod.getLsbD 4) g.dser)) ∧
        ∀ ofs n ws l, ofs = (s.src32 s.cur t f.a).toNat → n = (s.src64 s.cur t f.b).toNat → 0 < n → n ≤ 64 → ofs % 4 = 0 → ofs + 4 * n ≤ g.spBytes →
          l = spLoc g.core (g.spBase + ofs) → s.heldBack t .sp none l (4 * n) false = none → s.readFor (s.victimOf s.cur t) 0 l (4 * n) = (v, none) →
          ws = (List.range n).map (fun i => s.rdWord { l with key := l.key + 4 * i }) →
          (v.esIllegal t ws = none → v.esBadSlot t ws = none → queued (.epld f) hs span (.load ws)) ∧
            (∀ i, v.esIllegal t ws = some i → exec (.epld f) s = .next (v.trap t 0x0606 (BitVec.ofNat 64 (ofs + 4 * i))))) ∧
      (∀ v row col, v = s.src64 s.cur t f.a → row = bits v 7 0 → col = bits v 15 8 → bits v 63 21 = 0 → row ≤ 127 → col ≤ 128 →
        s.HalvesOpen t g [row / 64] → queued (.diagInj f) [row / 64] (row / 64) (.inject f.d.toNat (row % 64) col (bits v 20 16))) ∧
      (∀ ofs d, ofs = (s.src32 s.cur t f.a).toNat → (f.mod.getLsbD 9 = true → t.owesAccess = false) →
        s.Reaches t .sp (BitVec.ofNat 64 ofs) 32 Acc.load p v →
        d = (List.range 4).map (fun i => BitVec.ofNat 64 (s.rdNat { p.loc with key := p.loc.key + 8 * i } 8)) →
        (fillRefused g d = true → exec (.cpb f) s = .next (v.trap t 0x020F 0)) ∧
        (fillRefused g d = false → s.HalvesOpen t g (spanHalves (fillSpanOf d)) → (fillRange d).1 + (fillRange d).2 ≤ spanLines (fillSpanOf d) →
          (∀ h, (s.half g.core h).fills.length < 32) → ∃ u, exec (.cpb f) s = .next u ∧ u.cmds = KV.put s.cmds s.ids (newCmd .cpb t.gid g d f.mod) ∧
          (∀ h ∈ spanHalves (fillSpanOf d), (u.half g.core h).holder = some t.gid) ∧
          ∀ h ∈ fillHalves d, (u.half g.core h).queue =
            (s.half g.core h).queue ++ [⟨s.ids, t.gid, fillSpanOf d, .fill s.ids (fillRange d).1 (fillRange d).2, false⟩])) ∧
      (∀ n ofs, n = f.d.toNat → s.queueNamed t.gid n = false →
        (0xC0 ≤ f.a.toNat → exec (.qcset f) s =
          .next (((s.retireSlots t.gid n).updGroup t.gid fun g => { g with queues := KV.del g.queues n }).done t [])) ∧
        (f.a.toNat < 0xC0 → ofs = (s.src32 s.cur t f.a).toNat →
          (s.qcwRefused g ofs = true → exec (.qcset f) s = .next (s.trap t 0x0604 0)) ∧
          (s.qcwRefused g ofs = false → KV.at? g.queues n = none → 256 ≤ s.poolUsed g.core → exec (.qcset f) s = .next (s.trap t 0x0605 0)) ∧
          (s.qcwRefused g ofs = false → (KV.at? g.queues n ≠ none ∨ s.poolUsed g.core < 256) → ∀ w, w = s.qcw g ofs → exec (.qcset f) s =
            .next (((s.retireSlots t.gid n).updGroup t.gid fun g =>
              { g with queues := KV.put g.queues n ⟨ofs, 0, natBits w 63 44, qDepth w * qSize w, false⟩ }).done t []))))

/-- The halves at work (R263, R269 to R278): a command starts when nothing before it is unstarted and none that conflicts is left; `mzero` sets its
bank's elements and cells to +0; an `mma` starts with progress 0, and a step with its A chunk there runs its K-groups and advances CONS; a
drain whose check passes starts its program at chunk 0; each output entry takes the next words and advances PROD, once no earlier command into
the queue has still to write (R347). That CONS advances after each whole step whose chunk is there is the model's choice (log entry 31); that
a fill's completion is planned 64 clocks on is the number of log entry 56. -/
def Obligations.HalvesAtWork : Prop :=
  (∀ (s : State) (core half h : Nat) (m : MxCmd), (s.half core half).queue.find? (fun m => !m.started) = some m → s.cmdHalves core m.cid = [h] →
    (s.mayStart core m = false → exec (.arrayCommandStart core half) s = .next s) ∧
    (s.mayStart core m = true →
      (∀ b, m.kind = .zero b → exec (.arrayCommandStart core half) s =
        .next ((s.updHalf core h fun x => x.zero b).endMx core m.cid m.gid)) ∧
      (∀ ws, m.kind = .load ws → exec (.arrayCommandStart core half) s =
        .next ((s.updHalf core h fun x => { x with store := ws }).endMx core m.cid m.gid)) ∧
      (∀ b q l0 kg fa fb, m.kind = .mma b q l0 kg fa fb → exec (.arrayCommandStart core half) s =
        .next ((s.markStarted core m.cid).updHalf core h fun x => x.setProgress b 0)) ∧
      (∀ c l n, m.kind = .fill c l n → exec (.arrayCommandStart core half) s =
        .next (((s.markStarted core m.cid).updCmd c fun k => { k with started := true }).plan (s.clock + 64) (.engineCommandCompletion c))) ∧
      (∀ b q pb z n, m.kind = .drain b q pb z n → (s.half core h).check b = .pass → exec (.arrayCommandStart core half) s =
        .next ((s.markStarted core m.cid).updHalf core h fun x => { x with run := some (x.startRun m.cid b) })))) ∧
    (∀ (x : Half) (b k : Nat), Sparse.wf x.acc = true → (b = 0 ∨ b = 1) → 8192 * b ≤ k → k < 8192 * b + 8192 →
      Sparse.rd (x.zero b).acc k = 0 ∧ (x.zero b).progress b = 0) ∧
    (∀ (s : State) (core half : Nat) (m : MxCmd) (g : Group) (b q l0 kg p : Nat) (fa fb : BitVec 64) (ofs sofs : Nat) (chunk scales : List Byte)
      (adv : List (Nat × Nat)) (v : State), s.flaws = [] →
      (s.half core half).queue.find? (fun m => m.started && decide ((spanHalves m.span).headD 0 = half) && s.mmaReady core m) = some m →
      m.kind = .mma b q l0 kg fa fb → s.group? m.gid = some g → s.runQueue g q = some ofs →
      (if separate fa = true then s.runQueue g (q + 1) else some 0) = some sofs → p = (s.half core half).progress b →
      s.stepReady g ofs sofs (spanRows m.span) fa fb = some (chunk, scales, adv) →
      v = (spanHalves m.span).foldl (fun s h => s.updHalf core h fun x => x.setProgress b (p + stepGroups fa fb))
        (adv.foldl (fun s e => s.qAdvance g e.1 8 e.2) (s.kgroups core m b l0 p fa fb chunk scales)) →
      exec (.mmaKgroupStep core half) s = .next (if kg ≤ p + stepGroups fa fb then v.endMx core m.cid m.gid else v)) ∧
    ∀ (s : State) (core half ofs : Nat) (r : DrainRun) (m : MxCmd) (g : Group) (b q pb n : Nat) (z : Bool), (s.half core half).run = some r →
      (s.half core half).queue.find? (fun m => decide (m.cid = r.cid)) = some m → m.kind = .drain b q pb z (BitVec.ofNat 32 n) →
      s.group? m.gid = some g → (m.span = 2 → half = 1 → (s.half core 0).run = none) → s.runQueue g q = some ofs →
      (s.queueTaken m.cid m.gid core q = true → exec (.drainOutputEntry core half) s = .next s) ∧
      (s.queueTaken m.cid m.gid core q = false → qSize (s.qcw g ofs) / 4 ≤ r.out.length →
      (qOcc (s.qcw g ofs) < qDepth (s.qcw g ofs) → exec (.drainOutputEntry core half) s =
        .next ((s.putOutput g ofs (r.out.take (qSize (s.qcw g ofs) / 4))).setRun core half (some { r with out := r.out.drop (qSize (s.qcw g ofs) / 4) }))) ∧
      (qDepth (s.qcw g ofs) ≤ qOcc (s.qcw g ofs) → exec (.drainOutputEntry core half) s = .next s))

/-- The epilogue words (R276): each computes its sixteen elements from the registers, or from the parameter block inside the allocation, and the
program goes on at the next word, at the loop's target, or at the next chunk; a parameter beyond the allocation is a fault. -/
def Obligations.EpilogueWords : Prop :=
  ∀ (s : State) (core half : Nat) (r : DrainRun) (k : EsCtx) (x : Half) (d a b c : BitVec 4) (n : BitVec 8) (fs : BitVec 3),
    s.cur = .epilogue core half → (s.half core half).run = some r → s.esContext core half r = some k → x = s.half core half →
    let go (q : DrainRun) : Out := .next (s.setRun core half (some (q.goTo x k.bank (r.at_ + 1))))
    let put (g : Nat → BitVec 32) : Out := go (r.setReg d ((List.range 16).map g))
    let A (i : Nat) : Machine.Num := val32 (r.elem a i)
    let B (i : Nat) : Machine.Num := val32 (r.elem b i)
    let P (i : Nat) : BitVec 32 := s.rdWord (spLoc k.group.core (k.group.spBase + (k.pb + 4 * i)))
    let V (i j : Nat) : BitVec 32 := s.rdWord (spLoc k.group.core (k.group.spBase + (k.pb + 512 * i + 4 * j)))
    (exec .esNop s = go r ∧ exec (.esMov d a) s = put (r.elem a) ∧ exec (.esAdd d a b) s = put (fun i => rne32 (Machine.Num.add false (A i) (B i))) ∧
        exec (.esMul d a b) s = put (fun i => rne32 ((A i).mul (B i))) ∧
        exec (.esFma d a b c) s = put (fun i => rne32 (Machine.Num.add false ((A i).mul (B i)) (val32 (r.elem c i)))) ∧
        exec (.esMax d a b) s = put (fun i => BitVec.ofNat 32 (minMaxNumber fp32 true (r.elem a i).toNat (r.elem b i).toNat)) ∧
        exec (.esMin d a b) s = put (fun i => BitVec.ofNat 32 (minMaxNumber fp32 false (r.elem a i).toNat (r.elem b i).toNat)) ∧
        exec (.esExp2 d a) s = put (fun i => rne32 (exp2Num (A i))) ∧ exec (.esRcp d a) s = put (fun i => rne32 (rcpNum (A i))) ∧
        exec (.esSel d a b) s = put (fun i => if r.m.getLsbD i = true then r.elem a i else r.elem b i)) ∧
      (k.pb + 4 * n.toNat + 4 ≤ k.group.spBytes →
        exec (.esScale d a n) s = put (fun i => rne32 ((A i).mul (val32 (P n.toNat)))) ∧
        exec (.esBias d a n) s = put (fun i => rne32 (Machine.Num.add false (A i) (val32 (P n.toNat)))) ∧
        exec (.esLd d 2 n) s = put (fun _ => P n.toNat)) ∧
      (k.group.spBytes < k.pb + 4 * n.toNat + 4 → ∀ i ∈ [Instr.esScale d a n, .esBias d a n, .esLd d 2 n],
        exec i s = .next (s.esFault k r (k.pb + 4 * n.toNat))) ∧
      (k.pb + 4 * n.toNat + 8 ≤ k.group.spBytes → exec (.esClamp d a n) s = put (fun i => if (A i).isNan = true then 0x7FC00000
        else minMax32 false (minMax32 true (r.elem a i) (P n.toNat)) (P (n.toNat + 1)))) ∧
      (k.pb + 4 * (n.toNat + 63) + 4 ≤ k.group.spBytes → ∀ m : BitVec 6, exec (.esLut d a m n) s = put (fun i =>
        if (A i).isNan = true then 0x7FC00000 else P (n.toNat + lutIndex (A i) (m.toNat + 1)))) ∧
      (k.pb + 512 * n.toNat + 512 ≤ k.group.spBytes → k.half ≤ 1 → r.chunk < 512 →
        exec (.esLd d 0 n) s = put (fun i => V n.toNat (r.col + i)) ∧ exec (.esLd d 1 n) s = put (fun _ => V n.toNat (r.row half))) ∧
      (∃ m : BitVec 16, exec (.esCmp a b fs) s = go { r with m := m } ∧ ∀ i < 16, m.getLsbD i = floatCond fs.toNat (A i) (B i)) ∧
      (exec (.esHxq d a fs) s = put (sixteenWords ((hxOf (slotEfmt (s.esSlot k fs.toNat))).quantise ((List.range 16).map A)
        (slotOrm (s.esSlot k fs.toNat)) (s.esSr k r))) ∧
        exec (.esCvt d a fs) s = put (sixteenWords ((List.range 16).foldl (fun v i => v + plainRound (slotEfmt (s.esSlot k fs.toNat)) (A i)
          (slotOrm (s.esSlot k fs.toNat)) (slotOsat (s.esSlot k fs.toNat)) (s.esSr k r i) *
            2 ^ ((if slotEfmt (s.esSlot k fs.toNat) ≤ 1 then 16 else 8) * i)) 0))) ∧
      (exec (.esSt a b) s = go { r with chunkOut := r.chunkOut ++ (List.range (b.toNat + 1)).map (r.elem a) } ∧
        exec (.esStt a) s = go { r with band := r.band ++ [(r.passes, r.chunk / 8 % 16, r.chunk % 8, (List.range 16).map (r.elem a))], passes := r.passes + 1 }) ∧
      (∀ (m : BitVec 7) (to_ : BitVec 6) (j : Nat), j = (KV.at? r.loops r.at_).getD 0 + 1 →
        (j < m.toNat → exec (.esLoop m to_) s = .next (s.setRun core half (some ({ r with loops := KV.put r.loops r.at_ j }.goTo x k.bank to_.toNat)))) ∧
        (m.toNat ≤ j → exec (.esLoop m to_) s = go { r with loops := KV.put r.loops r.at_ 0 })) ∧
      exec .esEnd s = .next (s.setRun core half (some (r.endChunk x k.bank)))

/-- Collectives (R280 to R282): a refused descriptor traps coll.desc; a participant joins the collective of its tag, opening it when it is the
first, and the last one lets it run; it then delivers and closes, fails all with coll.mismatch, or waits for a sub-bus that is
being swapped (R404; the 64 clocks are log entry 56). -/
def Obligations.Collectives : Prop :=
  (∀ (s v : State) (t : Thread) (f : RegF) (g : Group) (l : Launch) (ofs level tag num : Nat) (d : List (BitVec 64)) (m : CollMember) (p : Place),
    s.Executes t f.neg f.pred → s.Commands t g → ofs = (s.src32 s.cur t f.a).toNat → (f.mod.getLsbD 9 = true → t.owesAccess = false) →
    s.Reaches t .sp (BitVec.ofNat 64 ofs) 64 Acc.load p v →
    d = (List.range 8).map (fun i => BitVec.ofNat 64 (s.rdNat { p.loc with key := p.loc.key + 8 * i } 8)) →
    s.launch? g.lid = some l →
    (l.collRefused d = true → exec (.coll f) s = .next (v.trap t 0x060C 0)) ∧
      (l.collRefused d = false → level = bits (d.getD 3 0) 35 33 → tag = bits (d.getD 2 0) 47 32 → num = (KV.at? s.collNums (t.gid, level, tag)).getD 0 → l.dead = [] →
        m = ⟨t.gid, g.grp.toNat % l.instSize level, d, f.mod.getLsbD 9, f.mod.getLsbD 8, bits f.mod 12 10⟩ →
        (∀ cid c, s.collFor g.lid level (l.instOf level g.grp.toNat) tag num = some (cid, c) → ∃ u, exec (.coll f) s = .next u ∧
          u.colls = KV.put s.colls cid { c with members := c.members ++ [m] } ∧
          (c.size ≤ c.members.length + 1 → Turn.event (.collectiveRun cid) ∈ u.turns)) ∧
        (s.collFor g.lid level (l.instOf level g.grp.toNat) tag num = none → (s.colls.filter fun e => decide (e.2.die = s.dieOf g.core)).length < 256 →
          ∃ u, exec (.coll f) s = .next u ∧ u.colls = KV.put s.colls s.ids
            ⟨g.lid, level, l.instOf level g.grp.toNat, tag, num, l.instSize level, s.dieOf g.core, [m], []⟩))) ∧
    ∀ (s : State) (cid : Nat) (c : Coll) (l : Launch), KV.at? s.colls cid = some c → c.size ≤ c.members.length → c.members ≠ [] → s.launch? c.lid = some l →
      ((∃ x ∈ c.members, ∃ y ∈ c.members, x.shape ≠ y.shape) → ∃ u keys, exec (.collectiveRun cid) s = .next (State.serve u keys) ∧
        (u, keys) = s.failColl cid c 0x060D) ∧
      ((∀ x ∈ c.members, ∀ y ∈ c.members, x.shape = y.shape) → (s.collAll l.part c).any s.spotOut = false →
        firstHold (s.collAll l.part c) = none → ∃ u, exec (.collectiveRun cid) s = .next u ∧
        u.colls = KV.del s.colls cid ∧ u = s.collGo cid l.part c) ∧
      ((∀ x ∈ c.members, ∀ y ∈ c.members, x.shape = y.shape) → (s.collAll l.part c).any s.spotOut = true →
        exec (.collectiveRun cid) s = .next (s.plan (s.clock + 64) (.collectiveRun cid)))

/-- Device-side launch (R361 to R363): a record whose completion word is a tagged word enters the pending-launch store and the launch order, its
word becoming EMPTY and d set; with the store full d is cleared; a misaligned word traps mem.align and one of another class tag.class; `launch.est`
also takes an estate entry, or traps launch.est. -/
def Obligations.DeviceLaunch : Prop :=
  ∀ (s v : State) (t : Thread) (f : RegF) (va word : BitVec 64) (p q : Place) (r : List (BitVec 64)), s.Executes t f.neg f.pred →
    (∀ g, s.groupOf t = some g → g.asyncFault = none) → va = s.src64 s.cur t f.a → (f.mod.getLsbD 9 = true → t.owesAccess = false) →
    s.Reaches t .gl va 256 Acc.load p v →
    r = (List.range 32).map (fun i => BitVec.ofNat 64 (s.rdNat { p.loc with key := p.loc.key + 8 * i } 8)) → word = dwordOf r 4 →
    (word.toNat % 4 ≠ 0 → exec (.launch f) s = .next (v.trap t 0x0205 word) ∧ exec (.launchEst f) s = .next (v.trap t 0x0205 word)) ∧
      (word.toNat % 4 = 0 → v.gl (v.partOf t) word Want.wr = .ok q →
        (q.cls ≠ 3 → exec (.launch f) s = .next (v.trap t 0x0206 word) ∧ exec (.launchEst f) s = .next (v.trap t 0x0206 word)) ∧
        (q.cls = 3 → v.launchEntry t word (s.src32 s.cur t f.b) = none → exec (.launchEst f) s = .next (v.trap t 0x0900 0)) ∧
        (q.cls = 3 → (v.die (v.dieOfThread v.cur t)).storeSlot = none → exec (.launch f) s = .next (v.done t (dstPred f.d false)) ∧
          (v.launchEntry t word (s.src32 s.cur t f.b) ≠ none → exec (.launchEst f) s = .next (v.done t (dstPred f.d false)))) ∧
        ∀ e i, q.cls = 3 → (v.die (v.dieOfThread v.cur t)).storeSlot = some e →
          (∃ u, exec (.launch f) s = .next u ∧ u = v.takeLaunch t f r va e none ∧ (u.die (v.dieOfThread v.cur t)).store = KV.put (v.die (v.dieOfThread v.cur t)).store e v.ids ∧
            (∃ l, u.launch? v.ids = some l ∧ l.record = va ∧ l.part = s.partOf t ∧ l.storeEntry = some e)) ∧
          (v.launchEntry t word (s.src32 s.cur t f.b) = some i → exec (.launchEst f) s = .next (v.takeLaunch t f r va e (some (i, s.src32 s.cur t f.b)))))

/-! ## Handlers, faults and groups -/

/-- The starts and the end of a handler: where a trapped thread is next, it takes the lowest free pool slot, with its handler's entry, the
origin's cause, pc and word in %trap, and every register zero (R326, R327, R330); where a report is next, it takes one for its estate
handler (R297); `tret` ends the handler, and its origin, if no failure of its trap's own release is held for it, is READY again, past its word
with PASS, else where its pc stands, over the words that SKIP names; what later words of its window wrote stays recorded (R205, R329). That the order of a trap and a report goes by their clocks
is the model's (log entry 71). -/
def Obligations.HandlersStartAndReturn : Prop :=
  (∀ (s : State) (core n : Nat) (w : Who) (t : Thread) (r : TrapRec) (l : Launch), s.thread? w = some t → t.trapRec = some r → s.launch? t.lid = some l →
      s.nextHandler core = some (.trap w) → s.poolSlot core = some n →
      ∃ u h, exec (.handlerStart core) s = .next u ∧ u.thread? (.handler core n) = some h ∧ u.thread? w = some t ∧ w ∉ (u.core core).trapQueue ∧
        u.launch? t.lid = some { l with status := l.status ||| 8 } ∧ u.mem = s.mem ∧ h.pc = l.handlerFor r.cause ∧ h.origin = some w ∧
        h.trapRegs.cause = r.cause ∧ h.trapRegs.pc = r.pc ∧ h.trapRegs.word = r.word ∧ h.tid = (if isSteward w = true then 0xFFFFFFFF else t.tid) ∧
        (isSteward w = false → h.lane = t.lane ∧ h.slot = t.slot) ∧ h.status = .ready ∧ (∀ c, h.content (.reg c) = 0) ∧ h.depth = 0) ∧
    (∀ (s : State) (core n : Nat) (r : Report) (l : Launch), s.nextHandler core = some (.report r) → s.poolSlot core = some n →
      s.launch? r.lid = some l →
      ∃ u h, exec (.estateHandlerStart core) s = .next u ∧ u.thread? (.handler core n) = some h ∧ (u.core core).reports = (s.core core).reports.erase r ∧
        h.pc = l.estHandler ∧ h.origin = none ∧ h.tid = 0 ∧ h.grp = r.grp ∧ h.trapRegs.cause = 0x0700 ∧ h.trapRegs.word = r.obj ∧
        h.trapRegs.op = BitVec.ofNat 32 r.kind ∧ h.trapRegs.d = BitVec.ofNat 32 r.index ∧ h.trapRegs.a = r.grp ∧ h.trapRegs.b = r.cand ∧
        h.trapRegs.imm = BitVec.ofNat 32 r.reason) ∧
    ∀ (s u : State) (t v : Thread) (f : RegF) (core n : Nat) (o : Who) (r : TrapRec), s.Executes t f.neg f.pred → s.cur = .handler core n → t.wins = [] →
      t.origin = some o → s.Flushes t u → o ≠ u.cur → u.thread? o = some v → v.trapRec = some r → r.held = none →
      ∃ z x, exec (.tret f) s = .next z ∧ z.thread? u.cur = none ∧ z.thread? o = some x ∧ x.status = .ready ∧ x.trapRec = none ∧
        x.pc = (if v.pc = r.pc ∧ r.pass = true then r.pc + 8 else v.pc) ∧ x.regs = v.regs ∧ x.sregs = v.sregs ∧ x.preds = v.preds ∧
        x.skips = (if v.pc = r.pc then skipPcs r.pc r.skip else []) ∧ x.replays = (if v.pc = r.pc then r.replays else []) ∧
        x.wrote = (if v.pc = r.pc then r.wrote else [])

/-- One clock (R9, R365, R412): the clock and %time go on, and what has come due is a turn while later dates stay. The rate of
%time is within 200 ppm of 1 GHz as the state's correction says (R392). A result under way arrives: its window closes when no further instruction of
it may issue (R10). A table walk keeps the leaf in the cache of its home that serves its agent's quadrant, leaves those of the other quadrants, and
changes no memory, thread or turn (R320, R322). Which of a home's caches serves an agent, which of its entries gives way, and that this act fills it are the
model's (log entries 62, 33).

Resolving a fault record (R324, R325): the record is gone, held records enter the ring, and each of its requests in order is sent again, failed or
killed: a retry executes a parked access again, wakes a thread parked at a fetch, and lets a command, a scan or a drain go on; a trap fails an access with
the record's cause at the request's address, traps a thread at its fetch, and refuses the page to a command; a kill kills the group. A write that names no
open record changes no thread and no record; one with the reserved CODE or reserved bits is only logged. How records wait
while the fault ring is full is the model's (log entry 60). -/
def Obligations.ArrivalsAndResolutions : Prop :=
  ((∀ s : State, ∃ u l f, exec .waveIssue s = .next u ∧ f = s.timeFrac + 1000 * (999800 + s.timeRate) ∧ u.clock = s.clock + 1 ∧
      u.time = s.time + BitVec.ofNat 64 (f / (s.mhz * 1000000)) ∧ u.timeFrac = f % (s.mhz * 1000000) ∧ u.turns = s.turns ++ l ∧
      ((∀ e ∈ s.parts, e.2.want = none) → u.mem = s.mem) ∧
      ∀ e ∈ s.sched, if e.1 ≤ s.clock + 1 then e.2 ∈ l ∧ e ∉ u.sched else e ∈ u.sched) ∧
    (∀ (s : State) (w : Who) (t : Thread) (o : Outstanding), s.thread? w = some t → t.wins = [o] → o.state = .latent → o.later = [] →
      (o.left = 0 → t.status = .waiting .latency → exec (.longLatencyCompletion w) s =
        .next (s.setThread w { Thread.putAll { t with wins := [] } o.writes with status := .ready, readySince := s.clock })) ∧
      (o.left ≠ 0 → t.status = .ready → exec (.longLatencyCompletion w) s = .next (s.setThread w { t with wins := [{ o with state := .done }] }))) ∧
    ∀ (s : State) (part lv core : Nat) (va : BitVec 64) (k : AccKind) (w : Who) (t : Thread) (e : BitVec 128), s.thread? w = some t →
      core = s.coreOf w t → s.flaws = [] → (s.serving core).cached va = none → (s.serving core).leaf va = .ok (e, lv) →
        ∃ u, exec (.tableWalk part va k w) s = .next u ∧ (u.serving core).cached va = some e ∧
          (∀ c x, c / Config.coresPerQuadrant % 4 ≠ core / Config.coresPerQuadrant % 4 → (u.serving c).cached x = (s.serving c).cached x) ∧
          u.mem = s.mem ∧ u.threads = s.threads ∧ u.turns = s.turns) ∧
  ((∀ (s v : State) (part die : Nat) (seq : BitVec 32) (r : FaultRec), s.faultNamed part die seq = some r →
      v = ({ s with faults := s.faults.filter fun x => decide (¬(x.part = part ∧ x.die = die ∧ x.seq = seq)) } : State).writeHeld part die →
      exec (.resolveRetry part die seq) s = .next (r.reqs.foldl (fun s q => s.retryReq r q) v) ∧
      exec (.resolveTrap part die seq) s = .next (r.reqs.foldl (fun s q => s.trapReq r q) v) ∧
      exec (.resolveKill part die seq) s = .next (r.reqs.foldl (fun s q => s.killReq r q) v) ∧
      (∀ x : BitVec 64, bits x 31 2 = 0 → x.extractLsb' 32 32 = seq →
        (bits x 1 0 = 0 → exec (.registerWrite (.resolve part die) x) s = exec (.resolveRetry part die seq) s) ∧
        (bits x 1 0 = 1 → exec (.registerWrite (.resolve part die) x) s = exec (.resolveTrap part die seq) s) ∧
        (bits x 1 0 = 2 → exec (.registerWrite (.resolve part die) x) s = exec (.resolveKill part die seq) s))) ∧
    (∀ (s : State) (r : FaultRec) (w : Who) (oid : Nat) (va : BitVec 64),
      s.retryReq r (.thread w oid va) = { s with turns := s.turns ++ [.redo w oid] } ∧
      s.trapReq r (.thread w oid va) = s.failThread w oid r.cause va ∧ s.trapReq r (.fetch w va) = s.trapAt w r.cause va ∧
      ∀ t, s.thread? w = some t →
        (t.status = .parked .fault → t.wins = [] → ∃ u, s.retryReq r (.fetch w va) = u ∧ u.mem = s.mem ∧
          u.thread? w = some { t with status := .ready, readySince := s.clock }) ∧
        (isEstateHandler w t = false → s.killReq r (.thread w oid va) = s.killGroup t.gid ∧ s.killReq r (.fetch w va) = s.killGroup t.gid)) ∧
    (∀ (s : State) (r : FaultRec) (cid : Nat) (c : Cmd), KV.at? s.cmds cid = some c →
      let next : Turn := .event (if c.toQueue = true then .copyQueueWrite cid else .engineCommandCompletion cid)
      (∃ u, s.retryReq r (.cmd cid) = u ∧ KV.at? u.cmds cid = some { c with held := false } ∧ next ∈ u.turns ∧ u.mem = s.mem) ∧
      (∃ u, s.trapReq r (.cmd cid) = u ∧ KV.at? u.cmds cid = some { c with held := false, refused := c.refused ++ [(r.page, r.cause)] } ∧
        next ∈ u.turns ∧ u.mem = s.mem) ∧
      s.killReq r (.cmd cid) = (s.trapReq r (.cmd cid)).killGroup c.gid) ∧
    (∀ (s : State) (r : FaultRec) (q core quarter : Nat) (x : Query) (n : ScanSt), KV.at? s.queries q = some x → x.scan = some n →
      (∃ u y, s.retryReq r (.scan q) = u ∧ KV.at? u.queries q = some y ∧ y.scan = some { n with held := false } ∧ u.mem = s.mem) ∧
      (∃ u y, s.trapReq r (.scan q) = u ∧ KV.at? u.queries q = some y ∧ y.scan = none ∧ y.streamOpen = false ∧ y.ending = true) ∧
      Turn.event (.reductionDrain core quarter) ∈ (s.retryReq r (.drain core quarter)).turns) ∧
    (∀ (s : State) (part die : Nat) (seq : BitVec 32), s.faultNamed part die seq = none →
      ∀ i ∈ [Instr.resolveRetry part die seq, .resolveTrap part die seq, .resolveKill part die seq],
        ∃ u, exec i s = .next u ∧ u.faults = s.faults ∧ u.threads = s.threads ∧ u.turns = s.turns ∧ u.groups = s.groups) ∧
    ∀ (s : State) (part die : Nat) (v : BitVec 64), (bits v 1 0 = 3 ∨ bits v 31 2 ≠ 0) →
      exec (.registerWrite (.resolve part die) v) s = .next (s.log (some part) 0x0070 (die % 4) 0 0 v 0 0 0))

/-- The end of a group, a kill and an unwind (R14, R265, R293, R331, R334 to R336). A group with a thread, a handler, an issued access of a stopped
thread, a command that holds it or an open query does not end; one without any is no longer live, its commands are cancelled, and once its stopped threads
have performed what they had issued, and the groups of lower %grp that end in the same clock are conveyed, its collectives are withdrawn and its estate is
conveyed. It is gone, counted by its launch, once no other member's access to its allocation is open. A kill stops the group's threads, and those that owe
no access are gone. A consumed error unwinds the innermost region: the threads stop and the commands are cancelled, and once nothing issued is owed, the
steward goes on at the region's handler with the cause in %cr; with none open an array's check waits for the steward, and a thread traps at the word that
consumed it. The report of an error from before the group's last unwind changes nothing. When the place is free, when an unwind cancels the commands, and
whether it releases the array holds are the model's (log entries 17, 84, 26). -/
def Obligations.GroupEndAndUnwind : Prop :=
  (∀ (s : State) (gid : Nat) (g : Group), s.group? gid = some g →
      (g.gone = true → exec (.groupEnd gid) s = .next (s.freeGroup gid) ∧ (s.rankOpen gid g = true → s.freeGroup gid = s)) ∧
      (g.gone = false → g.ending = false → (s.stewardLive gid = true ∨ s.lanesOf gid ≠ [] ∨ s.handlersOf gid ≠ [] ∨ s.owes gid = true ∨
        s.holdsOpen gid = true ∨ s.queryOpen g = true) → exec (.groupEnd gid) s = .next s) ∧
      (g.gone = false → (g.ending = true ∨ (s.stewardLive gid = false ∧ s.lanesOf gid = [] ∧ s.handlersOf gid = [] ∧ s.owes gid = false ∧
          s.holdsOpen gid = false ∧ s.queryOpen g = false)) →
        ∀ v x, v = (s.markEnds.updGroup gid fun g => g.beginEnd s.clock).cancelAll gid → v.group? gid = some x →
          x.ending = true ∧ (∀ e ∈ v.cmds, e.2.gid ≠ gid) ∧
          ((v.owes gid = true ∨ v.endsBefore gid x = true) → exec (.groupEnd gid) s = .next v) ∧
          (v.owes gid = false → v.endsBefore gid x = false → ∀ l b lost c y, v.launch? x.lid = some l →
            (v.discardArray gid true).withdrawColls gid x.lid (fun n => l.instOf n x.grp.toNat) false = (b, lost) →
            c = ((b.convey gid false (x.filled ++ lost)).updGroup gid fun g => { g with gone := true }).askEnds x.endClock → c.group? gid = some y →
            ∃ u, exec (.groupEnd gid) s = .next u ∧ y.gone = true ∧ (c.rankOpen gid y = true → u = c) ∧
              (c.rankOpen gid y = false → u.group? gid = none ∧
                ∀ q, c.launch? y.lid = some q → u.launch? y.lid = some { q with ended := q.ended + 1, dead := q.dead ++ [y.grp.toNat] })))) ∧
    (∀ (s : State) (gid : Nat) (g : Group) (l : Launch), s.group? gid = some g → g.ending = false → s.launch? g.lid = some l →
      ∃ u x, s.killGroup gid = u ∧ u.group? gid = some x ∧ x.ending = true ∧ x.endClock = s.clock ∧
        u.launch? g.lid = some { l with status := l.status ||| 1 } ∧
        ∀ w t, s.thread? w = some t → (∀ x, (w, x) ∈ s.threads → x = t) → s.belongs gid w = true → t.last = false → t.held = [] →
          u.thread? w = none) ∧
    ∀ (s : State) (gid epoch oid : Nat) (g : Group) (who : Who) (cause : BitVec 32) (addr : BitVec 64), s.group? gid = some g → s.isEstate who = false →
      g.ending = false →
      (epoch ≠ g.epoch → exec (.containmentUnwind gid epoch who oid cause addr) s = .next s) ∧
      (epoch = g.epoch →
        (∀ r rest, g.regions = r :: rest → g.unwinding = none → ∀ v x, v = s.stopForUnwind gid g.core cause addr → v.group? gid = some x →
          x.unwinding = some (cause, addr) ∧ (∀ e ∈ v.cmds, e.2.gid ≠ gid) ∧
          (v.owes gid = true → exec (.containmentUnwind gid epoch who oid cause addr) s = .next v) ∧
          (v.owes gid = false → ∃ u, exec (.containmentUnwind gid epoch who oid cause addr) s = .next u ∧ u = v.unwind gid x r cause addr ∧
            (∀ y, u.group? gid = some y → y.crCause = cause ∧ y.crAddr = addr ∧ y.bars = [] ∧ y.dq = [] ∧ y.sets = [] ∧ y.unwinding = none) ∧
            ∀ t, u.thread? (.steward gid) = some t → t.pc = r.handler ∧ t.status = .ready ∧ t.wins = [] ∧ t.trapRec = none)) ∧
        (∀ r rest c a, g.regions = r :: rest → g.unwinding = some (c, a) →
          exec (.containmentUnwind gid epoch who oid cause addr) s = .next (if s.owes gid = true then s else s.unwind gid g r c a)) ∧
        (g.regions = [] → cause = 0x060F → exec (.containmentUnwind gid epoch who oid cause addr) s = .next (s.asyncFault gid cause addr)) ∧
        (g.regions = [] → cause ≠ 0x060F →
          (s.thread? who = none → exec (.containmentUnwind gid epoch who oid cause addr) s = .next s) ∧
          ∀ t, s.thread? who = some t →
            ((∃ o ∈ t.wins, o.oid = oid ∧ o.state = .aborted) →
              exec (.containmentUnwind gid epoch who oid cause addr) s = .next (s.failEntry who oid cause addr)) ∧
            ((∀ o ∈ t.wins, o.oid = oid → o.state ≠ .aborted) → exec (.containmentUnwind gid epoch who oid cause addr) s = .next s)))

/-- Saving and restoring (R337 to R342): a group, with its sharing set, stops issuing, and is saved once its issued accesses, drains, `mdrain`s, full
collectives and copies are done and their partition's save pool has room; then each image is kept with its area of the pool, its threads are gone and its
place is free, and the area of a group without a sharing set holds its scratchpad and tags; until then the save goes on after 64 clocks. A saved group
whose set has spots that nothing ahead of it waits for returns there and issues again, without a sharing set with the scratchpad and the tags that its area
holds; with no spot it waits. What the save awaits, the 64 clocks and the area's place are the model's (log entries 37, 56, 63). -/
def Obligations.SaveAndRestore : Prop :=
  (∀ (s v : State) (gid : Nat) (g : Group) (set : List (Nat × Group)), s.group? gid = some g → set = s.saveSet gid g →
      (g.share = none → set = [(gid, g)]) → v = set.foldl (fun s e => s.flushCore e.1 e.2.core) (s.stopForSave set) →
      (∀ e ∈ set, ∀ x, (s.stopForSave set).group? e.1 = some x → x.saving = true) ∧
      (g.ending = true → exec (.groupSave gid) s = .next s) ∧
      (g.ending = false → (∃ e ∈ set, e.2.unwinding.isSome = true) → exec (.groupSave gid) s = .next (s.plan (s.clock + 64) (.groupSave gid))) ∧
      (g.ending = false → (∀ e ∈ set, e.2.unwinding = none) →
        ((∃ e ∈ set, v.saveWaits e.1 e.2 = true) → exec (.groupSave gid) s = .next (v.plan (v.clock + 64) (.groupSave gid))) ∧
        ((∀ e ∈ set, v.saveWaits e.1 e.2 = false) → ∀ z, z = set.foldl (fun s e => s.finishCopies e.1) v →
          (((∃ e ∈ set, z.copiesRun e.1 = true) ∨ z.imageWaits set = true) → exec (.groupSave gid) s = .next (z.plan (z.clock + 64) (.groupSave gid))) ∧
          ((∀ e ∈ set, z.copiesRun e.1 = false) → z.imageWaits set = false →
            (z.saveAreas set z.areasTaken = none → exec (.groupSave gid) s = .next (z.plan (z.clock + 64) (.groupSave gid))) ∧
            (∀ areas, z.saveAreas set z.areasTaken = some areas → z.flaws = [] → ∃ u, exec (.groupSave gid) s = .next u ∧
              ∀ m a n x, (m, a, n) ∈ areas → z.group? m = some x → (∀ b k, (m, b, k) ∈ areas → b = a ∧ k = n) → u.group? m = none ∧
                (∀ w, z.belongs m w = true → u.thread? w = none) ∧ ∃ y, KV.at? u.saved m = some y ∧ y.group = x ∧ y.area = a ∧ y.areaBytes = n) ∧
            ∀ x a n, g.share = none → z.saveAreas set z.areasTaken = some [(gid, a, n)] → z.flaws = [] → z.group? gid = some x → ∃ u,
              exec (.groupSave gid) s = .next u ∧
              KV.at? u.saved gid = some (z.image gid x a n) ∧ u.group? gid = none ∧ (∀ w, z.belongs gid w = true → u.thread? w = none) ∧
              (∀ m ∈ u.waits, z.belongs gid m.who = false) ∧ (∀ e ∈ u.cmds, e.2.gid ≠ gid) ∧
              Sparse.slice u.mem a x.spBytes = Sparse.slice z.mem (spBaseKey x.core + x.spBase) x.spBytes ∧
              Sparse.slice u.tags (a / 4) (x.spBytes / 4) = Sparse.slice z.tags ((spBaseKey x.core + x.spBase) / 4) (x.spBytes / 4))))) ∧
    ∀ (s : State) (gid : Nat) (y : SavedGroup), KV.at? s.saved gid = some y →
      (s.returnSpots gid y (s.keptFrom gid) = none → exec (.groupRestore gid) s = .next s) ∧
      (∀ l, s.returnSpots gid y (s.keptFrom gid) = some l →
        (s.returnWaits (l.map fun e => e.2.1) = true → exec (.groupRestore gid) s = .next (s.plan (s.clock + 64) (.groupRestore gid))) ∧
        (s.returnWaits (l.map fun e => e.2.1) = false → ∀ v done moves,
          (v, done) = l.foldl (fun a e => let (t, names) := (a.1.takeCore e.2.2.1.core).restoreOne e.1 e.2.1 e.2.2.1 e.2.2.2; (t, a.2 ++ [(e.1, e.2.1, names)]))
            (s, ([] : List (Nat × SavedGroup × List (Who × Who)))) →
          moves = (l.map fun e => (spBaseKey e.2.1.group.core + e.2.1.group.spBase, spBaseKey e.2.2.1.core + e.2.2.1.base, e.2.1.group.spBytes)) →
          exec (.groupRestore gid) s = .next (done.foldl (fun s e => s.restoreRest moves e.1 e.2.1 e.2.2) v).askPlacement ∧
          ((l.map fun e => e.1).Nodup → ∀ m z x insts, (m, z, x, insts) ∈ l → KV.at? v.saved m = none ∧
            ∃ g, v.group? m = some g ∧ g.core = x.core ∧ g.place = x.place ∧ g.spBase = x.base ∧ g.lid = z.group.lid ∧ g.saving = false))) ∧
      ∀ (x : Spot) (insts : KV (Nat × Nat) Nat), y.group.share = none → s.flaws = [] → s.returnWaits [y] = false →
        s.returnSpots gid y (s.keptFrom gid) = some [(gid, y, x, insts)] → ∃ v names, (v, names) = (s.takeCore x.core).restoreOne gid y x insts ∧
        exec (.groupRestore gid) s = .next (v.restoreRest [(spBaseKey y.group.core + y.group.spBase, spBaseKey x.core + x.base, y.group.spBytes)] gid y names).askPlacement ∧
        KV.at? v.saved gid = none ∧ (∃ g, v.group? gid = some g ∧ g.core = x.core ∧ g.place = x.place ∧ g.spBase = x.base ∧ g.lid = y.group.lid) ∧
        Sparse.slice v.mem (spBaseKey x.core + x.base) y.group.spBytes = Sparse.slice s.mem y.area y.group.spBytes ∧
        Sparse.slice v.tags ((spBaseKey x.core + x.base) / 4) (y.group.spBytes / 4) = Sparse.slice s.tags (y.area / 4) (y.group.spBytes / 4)

/-- Placing and pre-empting (R11, R15, R23, R25, R358 to R360): the first of the launch order that fits on the die is placed; a group placed has its
number, a steward and, without a window block, lane threads at their entries, with every tag of its allocation EMPTY, and those of a sharing set stand on
distinct cores; one whose record fails its checks is refused with the code of the check (R34); a PRIO 3 launch that has
waited long enough has the groups of the cores it takes saved, all of PRIO 0 or 1, on no more cores than any other choice that makes room, and with none
to vacate it goes on waiting; a vacated core is not taken while an estate handler runs there (R337). While the scheduler does not act nothing happens.
Which of several such sets of cores is vacated, the acts that wait for an idle scheduler, and the order of the checks are the model's (log entries 38, 35,
34). -/
def Obligations.PlacementAndPreemption : Prop :=
  (∀ (s : State) (die : Nat), (s.die die).idle = true → exec (.groupPlacement die) s = .next s ∧ ∀ lid, exec (.preemptionTimeout die lid) s = .next s) ∧
    (∀ (s v : State) (die lid core : Nat) (cs : List Nat) (l m : Launch) (rest : List Waiting), (s.die die).idle = false →
      s.launchOrder = .launch lid :: rest → s.launch? lid = some l → l.checked = true → s.placeNext lid l [] = some (v, core :: cs) → s.dieOf core = die →
      exec (.groupPlacement die) s = .next (State.dispatch die (2047 + s.launches.length) (v.lastPlaced lid)) ∧
      (l.shareSize = none → s.thread? (.steward s.ids) = none → v.launch? lid = some m → ∃ g t, v.group? s.ids = some g ∧ v.thread? (.steward s.ids) = some t ∧
        g.lid = lid ∧ g.grp = BitVec.ofNat 32 l.placed ∧ g.core = core ∧ s.barred core = false ∧ g.spUnits = l.spUnits ∧ t.pc = l.stewEntry ∧ t.status = .ready ∧
        m.placed = l.placed + 1 ∧ v.mem = s.mem ∧
        (∀ k, spBaseKey core + g.spBase ≤ 4 * k → 4 * k < spBaseKey core + g.spBase + g.spBytes → g.spBase % 4 = 0 → v.tagAt k = 0) ∧
        (l.winBlock = 0 → ∀ n < l.nthr, s.thread? (.lane s.ids n) = none → ∃ x, v.thread? (.lane s.ids n) = some x ∧ x.pc = l.laneEntry ∧
          x.tid = BitVec.ofNat 32 n ∧ x.lane = l.laneOf n)) ∧
      (l.shareSize ≠ none → (core :: cs).Nodup ∧ ∃ k, ∀ c ∈ core :: cs, ∃ gid g, v.group? gid = some g ∧ g.core = c ∧ g.lid = lid ∧ g.share = some k)) ∧
    (∀ (s : State) (die lid c : Nat) (l : Launch) (rest : List Waiting), (s.die die).idle = false → s.launchOrder = .launch lid :: rest →
      s.launch? lid = some l → s.checksOut l = false → s.refusedAtOnce l = some c → exec (.groupPlacement die) s =
        .next (State.dispatch die (2047 + s.launches.length) ((if l.tooWide = true then s.touchChecks l else s).refuseLaunch lid l c))) ∧
    ∀ (s : State) (die lid : Nat) (l : Launch), s.launch? lid = some l → (s.die die).idle = false → l.timedOut s.clock = true →
      (s.enough lid l (s.victims (s.partCores l.part)) = none → exec (.preemptionTimeout die lid) s = .next s) ∧
      ∀ cs, s.enough lid l (s.victims (s.partCores l.part)) = some cs → s.suffices lid l cs = true ∧
        (∀ ds, ds.Sublist (s.victims (s.partCores l.part)) → s.suffices lid l ds = true → cs.length ≤ ds.length) ∧
        ∃ u, exec (.preemptionTimeout die lid) s = .next u ∧ ∀ c ∈ cs, (u.core c).vacated = true ∧
          ∀ e ∈ s.groupsOn c, Turn.event (.groupSave e.1) ∈ u.turns ∧ s.prioOf e.2 ≤ 1

/-- Graphs and completion (R352 to R357): the first pending kick that may start takes its bit, and its nodes without predecessors are decided; a
node whose predecessors did not fail is launched from its record, one with a failed predecessor is filled with 0x80000030; a launch whose groups
and reports have ended is gone and its word takes its status. The code 0x09 of a node's record that cannot be read is the model's (log entry 35), and
so are the 64 clocks after which a node whose record lies behind a swapped sub-bus (R404) is looked at again (log entry 56). -/
def Obligations.GraphsAndCompletion : Prop :=
  (∀ (s : State) (die graph : Nat) (rest : List (Nat × BitVec 64)) (g : Graph), (s.die die).idle = false → s.startable die = (graph, 0) :: rest →
      s.graph? die graph = some g → ∃ u, exec (.replayStart die) s = .next u ∧
        u.graph? die graph = some { g with running := true, started := [], statuses := [] } ∧ KV.at? (u.die die).pending graph = none ∧
        ∀ n x, g.nodes[n]? = some x → x.preds = [] → Turn.event (.nodeStart die graph n) ∈ u.turns) ∧
    (∀ (s : State) (die graph node : Nat) (g : Graph) (x : GraphNode), s.graph? die graph = some g → g.nodes[node]? = some x → (s.die die).idle = false →
      (g.mayStart node = false → exec (.nodeStart die graph node) s = .next s) ∧
      (g.mayStart node = true → s.readOut g.part x.record 256 = true →
        exec (.nodeStart die graph node) s = .next (s.plan (s.clock + 64) (.nodeStart die graph node))) ∧
      (g.mayStart node = true → s.readOut g.part x.record 256 = false →
        ((∃ q ∈ x.preds, 0x80000000 ≤ ((KV.at? g.statuses q).getD 0).toNat) → exec (.nodeStart die graph node) s =
          .next ((s.updGraph die graph fun g => { g with started := g.started ++ [node] }).nodeDone die graph node x.done 0x80000030)) ∧
        ((∀ q ∈ x.preds, ((KV.at? g.statuses q).getD 0).toNat < 0x80000000) → ∀ v t,
          v = (s.updGraph die graph fun g => { g with started := g.started ++ [node] }).journal die 2 node graph x.record →
          t = v.touchRead g.part (rangeSectors x.record 256) →
          (∀ e, v.dwordsAt g.part x.record 32 = .error e → exec (.nodeStart die graph node) s = .next (t.nodeDone die graph node x.done 0x80000009)) ∧
          ∀ r, v.dwordsAt g.part x.record 32 = .ok r → ∃ u l, exec (.nodeStart die graph node) s = .next u ∧ u.launch? t.ids = some l ∧
            l.source = .node die graph node ∧ l.record = x.record ∧ l.doneWord = dwordOf r 4 ∧ l.laneEntry = dwordOf r 1 ∧ l.placed = 0 ∧ u.mem = t.mem))) ∧
    ∀ (s : State) (lid : Nat) (l : Launch), s.launch? lid = some l →
      (l.complete = false → exec (.launchComplete lid) s = .next s) ∧
      (l.complete = true → (s.die l.die).idle = false → (s.dropLaunch lid l).launch? lid = none ∧
        ((∀ d g n, l.source ≠ .node d g n) → exec (.launchComplete lid) s = .next ((s.dropLaunch lid l).fillVa l.part l.doneWord (l.status.setWidth 32))) ∧
        (∀ d g n, l.source = .node d g n → exec (.launchComplete lid) s =
          .next ((s.dropLaunch lid l).nodeDone d g n l.doneWord (l.status.setWidth 32)))) ∧
      (l.complete = true → (s.die l.die).idle = true → ∃ u, exec (.launchComplete lid) s = .next u ∧ u.launch? lid = some { l with done := true } ∧
        (u.die l.die).heldFills = (s.die l.die).heldFills ++ [{ lid := lid }])

/-! ## The reeve (R221 to R239) -/

/-- The placing of a record (R223 to R228, R391): the end marker ends the stream; a record older than the staleness bound is dropped, and, the
watermark brought forward and what it triggers closed, one behind the watermark; any other is placed, and on a time query without panes or batch a
record of one open window is the last of that window's queue. What waited for credit then enters the ingest queue (R221). -/
def Obligations.RecordsPlaced : Prop :=
  (∀ (s : State) (q : Nat) (x : Query) (r : Rec) (rest : List Rec), KV.at? s.queries q = some x → x.ingest = r :: rest →
      (s.mayPlace x = false → exec (.recordPlacement q) s = .next s) ∧
      (s.mayPlace x = true → r.len = 0 → exec (.recordPlacement q) s =
        .next ((s.updQuery q fun x => { x with ingest := rest, streamOpen := false, ending := x.ending || x.streamOpen }).refill q)) ∧
      (s.mayPlace x = true → r.len ≠ 0 → x.block.stale ≠ 0 → x.block.stale < s.time.toNat - r.ts.toNat → exec (.recordPlacement q) s =
        .next ((s.updQuery q fun x => { x with ingest := rest }.bump 1 1).refill q)) ∧
      (s.mayPlace x = true → r.len ≠ 0 → (x.block.stale = 0 ∨ s.time.toNat - r.ts.toNat ≤ x.block.stale) → ∀ v z,
        v = (s.updQuery q fun x => { x with tsMax := if x.tsMax < r.ts then r.ts else x.tsMax }).advanceMark q → KV.at? v.queries q = some z →
        (z.block.kind ≠ 0 → r.ts < z.w → exec (.recordPlacement q) s = .next ((v.updQuery q fun z => { z with ingest := rest }.bump 2 1).refill q)) ∧
        ((z.block.kind = 0 ∨ z.w ≤ r.ts) → exec (.recordPlacement q) s = .next ((v.placeRec q z { r with key := x.block.keyOf r }).refill q)))) ∧
    (∀ (s : State) (q : Nat) (x : Query), KV.at? s.queries q = some x → exec (.timeTermDue q) s = .next (s.advanceMark q) ∧
      ((∀ e ∈ x.wins, x.block.triggered e.2 (x.watermark s.time) = false) →
        exec (.timeTermDue q) s = .next (s.updQuery q fun x => { x with w := BitVec.ofNat 64 (x.watermark s.time) }))) ∧
    ∀ (s : State) (q w n : Nat) (x : Query) (y : Win) (r : Rec), KV.at? s.queries q = some x → x.block.kind = 1 → x.block.panes = false →
      x.block.batch = false → x.merge = none → x.containing r = ([n], none) → x.winNamed r.key false n = some (w, y) → KV.at? x.wins w = some y → y.closed = false →
      y.receiving = false → ∃ z m, KV.at? (s.placeRec q x r).queries q = some z ∧ KV.at? z.wins w = some m ∧
        m.queue = y.queue ++ [.record r] ∧ m.count = y.count + 1 ∧ z.ingest = x.ingest.drop 1

/-- Windows between records (R228, R235 to R237, R247, R314): a foldable thread leaves its slot and its state block, pc and pending `wrecv` stay in
its fold entry; a restore puts them into the lowest free slot; a passed deadline queues one timer item; an incomplete batch is completed with
padding records. That a fold flushes its quarter's buffer first, when a refused one is tried again, and the key of padding records are the model's (log
entry 29), and so is that no thread with a second `wrecv` pending is folded (log entry 89). -/
def Obligations.WindowsBetweenRecords : Prop :=
  (∀ (s v : State) (q w n k : Nat) (x z : Query) (y m : Win) (who : Who) (t : Thread) (o : Outstanding), KV.at? s.queries q = some x →
      KV.at? x.wins w = some y → y.thread = some who → s.thread? who = some t → t.receivingEntry = some o →
      (s.foldable x w y = false → exec (.fold q w) s = .next s) ∧
      (s.foldable x w y = true → x.freeFold = none → exec (.fold q w) s =
        .next ((s.updQuery q fun x => x.bump 12 1).updWin q w fun y => { y with refused := s.time })) ∧
      (s.foldable x w y = true → x.freeFold = some n → quarterOf who t = some k → s.flush (s.coreOf who t) k who = v →
        v.drainHeld (s.coreOf who t) k = false → v.drainFailure (s.coreOf who t) k who = none → KV.at? v.queries q = some z →
        KV.at? z.wins w = some m → ∃ u a b st, exec (.fold q w) s = .next u ∧ u.thread? who = none ∧ KV.at? u.queries q = some a ∧
          KV.at? a.wins w = some b ∧ b.thread = none ∧ b.fold = some st ∧ st.pc = t.pc ∧ st.slot = n ∧ st.wait = o ∧ st.preds = t.preds ∧
          st.srCount = t.srCount ∧ st.state = stateWords x.block t ∧ b.queue = m.queue)) ∧
    (∀ (s : State) (q w gid tid lane slot : Nat) (x : Query) (y : Win) (g : Group) (f : FoldSt), KV.at? s.queries q = some x → KV.at? x.wins w = some y →
      y.fold = some f → s.birthSlot q = some (gid, g, tid, lane, slot) → ∃ u t, exec (.windowRestore q w) s = .next u ∧ u.thread? (.lane gid tid) = some t ∧
        t.pc = f.pc ∧ t.preds = f.preds ∧ t.srCount = f.srCount ∧ t.wins = [f.wait] ∧ t.lane = lane ∧ t.slot = slot ∧ t.win = some (q, w) ∧
        t.winStart = y.start ∧ t.regs = Sparse.wrList [] x.block.stateBase (f.state.take x.block.stateCnt)) ∧
    (∀ (s : State) (q w : Nat) (x : Query) (y : Win), KV.at? s.queries q = some x → KV.at? x.wins w = some y →
      ((y.timer = 0 ∨ s.time < y.timer) → exec (.windowTimerExpiry q w) s = .next s) ∧
      (y.timer ≠ 0 → y.timer ≤ s.time → exec (.windowTimerExpiry q w) s =
        .next ((s.updWin q w fun z => { z with timer := 0 }).append q w (.timer y.timer))) ∧
      (x.block.triggered y (x.watermark s.time) = false → exec (.bellWheelDue q w) s = exec (.windowTimerExpiry q w) s) ∧
      (x.block.triggered y (x.watermark s.time) = true → exec (.bellWheelDue q w) s = exec (.windowTimerExpiry q w) (s.closeWin q w))) ∧
    ∀ (s : State) (q w : Nat) (x : Query) (r p : Rec), KV.at? s.queries q = some x → x.batch = [(r, [w])] →
      p = { payload := [0, 0, 0, 0], ts := r.ts, seq := r.seq, key := r.key, len := 4, flags := 2 } → exec (.batchTimeout q) s =
        .next (((((r :: List.replicate (x.block.batchN - 1) p).foldl (fun s r => s.append q w (.record r))
          ((s.updQuery q fun x => { x with batch := [] }).updWin q w fun y => { y with count := y.count + 1 })).countTrigger q w)).releaseCloses q)

/-- Merges and panes (R226, R227, R232): two windows that a record bridges merge when both threads are ready and no other merge handler runs in the
group: the older one's thread is at MERGEENTRY with its pending `wrecv`s suspended, and the merge block holds the younger one's number, start, extent,
deliveries and state; with one window gone meanwhile the bridging record joins the other, ahead of what was queued for it since, which is the model's
choice (log entry 68); a pane record goes to every window that covers its pane, 64 of them in a clock.

Streams and scans (R221, R222, R234, R332, R391): a scan's next record enters the ingest queue with its SEQ, the scan ends after the last one, an
absent page holds it, a swapped sub-bus keeps it waiting, and one whose read fails, with an uncorrectable error among others, ends it and is logged; a
record of a frame enters the ingest queue of the query bound to its stream, or waits for credit while that is full, a message that is no record frame has
no part in it, and a frame of an unbound stream is counted in the error log of the partition that it names, which is the model's choice (log entry 30);
once an ended stream's records are placed its windows close. -/
def Obligations.MergesStreamsAndScans : Prop :=
  ((∀ (s : State) (q : Nat) (x : Query) (m : MergeSt) (a b : Win) (who : Who) (t : Thread) (g : Group), KV.at? s.queries q = some x →
      x.merge = some m → KV.at? x.wins m.old = some a → KV.at? x.wins m.young = some b →
      ((s.mergeReady a = false ∨ s.mergeReady b = false) → exec (.merge q) s = .next s) ∧
      (s.mergeReady a = true → s.mergeReady b = true → a.fold ≠ none → exec (.merge q) s = .next (s.restoreWin q m.old)) ∧
      (s.mergeReady a = true → s.mergeReady b = true → a.fold = none → a.thread = some who → s.thread? who = some t → s.group? t.gid = some g →
        ((∃ e ∈ s.lanesOf t.gid, e.2.mergeDepth ≠ none) → exec (.merge q) s = .next s) ∧
        ((∀ e ∈ s.lanesOf t.gid, e.2.mergeDepth = none) → ∃ u v, exec (.merge q) s = .next u ∧ u.thread? who = some v ∧ v.pc = x.block.mergeEntry ∧
          v.mergeDepth = some t.depth ∧ v.wins = t.wins.filter (fun o => !o.receives) ∧ v.regs = t.regs ∧
          u.mem = (s.wrBytes (spLoc g.core (g.spBase + x.block.mergeOfs)) 0 (leBytes 8 (b.num % 2 ^ 32) ++ leBytes 8 b.start.toNat ++
            leBytes 8 b.last.toNat ++ leBytes 8 (b.delivered % 2 ^ 32) ++ ((match b.fold with
              | some f => f.state
              | none => match b.thread.bind s.thread? with | some t => stateWords x.block t | none => []).flatMap fun (v : BitVec 32) => leBytes 4 v.toNat))).mem))) ∧
    (∀ (s v : State) (q : Nat) (x : Query) (m : MergeSt), KV.at? s.queries q = some x →
      (x.merge = none → exec (.merge q) s = .next s) ∧
      (x.merge = some m → v = s.updQuery q (fun x => { x with merge := none }) →
        ((KV.at? x.wins m.old).isSome = true → KV.at? x.wins m.young = none → exec (.merge q) s =
          .next (m.forOld.foldl (fun s i => s.append q m.old i) (v.deliverTo q [m.old] m.record))) ∧
        (KV.at? x.wins m.old = none → (KV.at? x.wins m.young).isSome = true → exec (.merge q) s =
          .next (m.forYoung.foldl (fun s i => s.append q m.young i) (v.deliverTo q [m.young] m.record)))) ∧
      (x.pane.find? (fun e => !x.paneWaits e.2.1 (x.watermark s.time)) = none → exec (.paneRecordMulticast q) s = .next s)) ∧
    ∀ (s v : State) (q : Nat) (x : Query) (cover : List (Nat × Win)) (pid n : Nat) (r : Rec), KV.at? s.queries q = some x →
      x.pane.find? (fun e => !x.paneWaits e.2.1 (x.watermark s.time)) = some (pid, r, n) →
      cover = sortBy (fun e => e.2.num) (x.wins.filter fun e =>
        !e.2.pane && decide (e.2.key = r.key) && !e.2.returned && decide (n ≤ e.2.num) && x.block.covers e.2.num r.seq.toNat) →
      v = (cover.take 64).foldl (fun s e => s.appendRec q e.1 r) s →
      (cover.length ≤ 64 → exec (.paneRecordMulticast q) s =
        .next (((v.updQuery q fun x => { x with pane := x.pane.filter fun p => decide (p.1 ≠ pid) }).releaseCloses q).askQueryEnd q)) ∧
      ∀ e, cover[64]? = some e → exec (.paneRecordMulticast q) s =
        .next (v.updQuery q fun x => { x with pane := x.pane.map fun p => if p.1 = pid then (p.1, p.2.1, e.2.num) else p })) ∧
  ((∀ (s : State) (q : Nat) (x : Query) (c : ScanSt), KV.at? s.queries q = some x → x.scan = some c →
      ((c.held = true ∨ x.streamOpen = false ∨ 4096 ≤ x.ingest.length) → exec (.scanRead q) s = .next s) ∧
      (c.held = false → x.streamOpen = true → x.ingest.length < 4096 →
        (c.count ≤ c.next → exec (.scanRead q) s = .next (s.updQuery q fun x => { x with scan := none, streamOpen := false, ending := true })) ∧
        (c.next < c.count → ∀ va v, va = c.base + BitVec.ofNat 64 (c.next * c.stride) → v = s.touchRead x.part (rangeSectors va c.len) →
          (s.readOut x.part va c.len = true → exec (.scanRead q) s = .next s) ∧
          (s.readOut x.part va c.len = false →
            (∀ ls bytes, s.readAt x.part va c.len = .ok ls → bytes = (ls.map fun l => s.rdByte l 0) → ∃ u z r,
              exec (.scanRead q) s = .next u ∧ KV.at? u.queries q = some z ∧ z.ingest = x.ingest ++ [r] ∧ z.scan = some { c with next := c.next + 1 } ∧
              r.payload = bytes ∧ r.len = c.len ∧ r.seq = c.seqBase + BitVec.ofNat 64 c.next ∧
              r.ts = (if c.tsOfs = 255 then s.time else BitVec.ofNat 64 (leNat ((bytes.drop c.tsOfs).take 8)))) ∧
            (∀ k, s.readAt x.part va c.len = .error (.trap k) → exec (.scanRead q) s =
              .next ((v.updQuery q fun x => { x with scan := none, streamOpen := false, ending := true }).log (some x.part) 0x0070 (x.die % 4) 0 5
                (BitVec.ofNat 64 c.next) (k.setWidth 64) 0 0)) ∧
            ∀ k e l, s.readAt x.part va c.len = .error (.fault k e l) →
              ∃ u z, exec (.scanRead q) s = .next u ∧ KV.at? u.queries q = some z ∧ z.scan = some { c with held := true } ∧ z.ingest = x.ingest)))) ∧
    (∀ (s : State) (h : MsgHdr) (die : Nat) (n : BitVec 16) (f : FrameRec),
      (isRecordFrame h = false → exec (.recordFrame h die n [f]) s = .next s) ∧
      (isRecordFrame h = true → s.queries.find? (fun e => decide (e.2.die = die) && !e.2.block.scan && decide (e.2.block.stream = n)) = none →
        exec (.recordFrame h die n [f]) s = .next (s.log (some h.part.toNat) 0x0070 (die % 4) 0 4 (n.setWidth 64) 0 0 0)) ∧
      ∀ q x z, isRecordFrame h = true → s.queries.find? (fun e => decide (e.2.die = die) && !e.2.block.scan && decide (e.2.block.stream = n)) = some (q, z) →
        KV.at? s.queries q = some x → x.streamOpen = true → x.backlog = [] → ∃ u y, exec (.recordFrame h die n [f]) s = .next u ∧
        KV.at? u.queries q = some y ∧
        (64 < f.len → y.ingest = x.ingest ∧ y.backlog = [] ∧ y.counters = (x.bump 13 1).counters) ∧
        (f.len ≤ 64 → x.ingest.length < 4096 →
          y.ingest = x.ingest ++ [{ payload := f.payload.take f.len, ts := f.ts, seq := f.seq, key := 0, len := f.len, flags := 0 }] ∧ y.backlog = []) ∧
        (f.len ≤ 64 → 4096 ≤ x.ingest.length → y.ingest = x.ingest ∧ y.backlog = [f])) ∧
    (∀ (s : State) (h : MsgHdr) (die q : Nat) (n : BitVec 16) (l : List FrameRec) (z : Query), isRecordFrame h = true →
      s.queries.find? (fun e => decide (e.2.die = die) && !e.2.block.scan && decide (e.2.block.stream = n)) = some (q, z) →
        exec (.recordFrame h die n l) s = .next ((s.updQuery q fun x => { x with backlog := x.backlog ++ l }).refill q)) ∧
    ∀ (s : State) (q : Nat) (x : Query), KV.at? s.queries q = some x →
      ((x.ending = false ∨ x.ingest ≠ [] ∨ x.merge ≠ none) → exec (.streamEnd q) s = .next s) ∧
      (x.ending = true → x.ingest = [] → x.merge = none → exec (.streamEnd q) s =
        .next (((((s.refill q).flushBatch q).updQuery q fun x => { x with ending := false }).closeAll q fun y => !y.closed).askQueryEnd q)))

/-! ## The network and the lull (R366 to R372) -/

/-- The lull and the network: a quarter at or above the engage level is lulled while LIMIT is not 0, at or below the release level it is not, and the
rotation goes to the next memory-bound group (R366, R367); a bucket gains RATE tokens, to at most BURST (R371); a request with a token for each of its
flits, its header and its tail among them (R368), departs on its route and pays, one without waits, and any other packet departs without paying (R370,
R371); a hamlet's reset ends what it was injecting with a void tail, discards what arrives for it, returns its allowances at both ends, and leaves the
packets of other hamlets alone (R372). How allowances are counted, and that a packet of a net above 16 has no effect, are the model's (log entries 40,
11). -/
def Obligations.LullAndNetwork : Prop :=
  (∀ (s : State) (core q : Nat) (r : BitVec 64), r = (s.die (s.dieOf core)).lull →
      (bits r 2 0 ≠ 0 → bits r 63 48 ≤ s.congestionAt core q → q ∉ (s.core core).lulled →
        exec (.lullEngage core q) s = .next (s.updCore core fun c => { c with lulled := c.lulled ++ [q] })) ∧
      ((bits r 2 0 = 0 ∨ s.congestionAt core q < bits r 63 48) → exec (.lullEngage core q) s = .next s) ∧
      (s.congestionAt core q ≤ bits r 47 32 → ∃ u, exec (.lullRelease core q) s = .next u ∧
        ∀ k, k ∈ (u.core core).lulled ↔ k ∈ (s.core core).lulled ∧ k ≠ q) ∧
      (bits r 47 32 < s.congestionAt core q → exec (.lullRelease core q) s = .next s) ∧
      ∃ n, exec (.lullRotation core) s = .next (s.updCore core fun c => { c with lullPlace := n }) ∧
        (∀ p, (s.boundPlaces core).find? (fun p => decide ((s.allowedPlaces core).getLastD 0 < p)) = some p → n = p) ∧
        ((s.boundPlaces core).find? (fun p => decide ((s.allowedPlaces core).getLastD 0 < p)) = none → n = (s.boundPlaces core).headD 0)) ∧
    (∀ (s : State) (router part : Nat) (b : Bucket), b = s.net.bucket router part → (∀ p ∈ s.net.waiting, p.src ≠ router ∨ p.net ≠ part) →
      ∃ u, exec (.gustRefill router part) s = .next u ∧ u.net.bucket router part = { b with tokens := min b.burst (b.tokens + b.rate) } ∧
        u.net.waiting = s.net.waiting) ∧
    (∀ (s : State) (p : Packet), 16 < p.net → exec (.packetInjection p) s = .next s) ∧
    (∀ (s : State) (p : Packet) (b : Bucket), p.net ≤ 16 → b = s.net.bucket p.src p.net → (∀ x ∈ s.net.waiting, x.src ≠ p.src ∨ x.net ≠ p.net) →
      (p.cls = .request → p.net < 16 → b.rate ≠ 0xFFFF → b.tokens < p.data + 2 →
        exec (.packetInjection p) s = .next { s with net := { s.net with waiting := s.net.waiting ++ [p] } }) ∧
      (p.cls = .request → p.net < 16 → b.rate ≠ 0xFFFF → p.data + 2 ≤ b.tokens → ∃ u, exec (.packetInjection p) s = .next u ∧
        u.net.bucket p.src p.net = { b with tokens := b.tokens - (p.data + 2) } ∧ u.net.waiting = s.net.waiting ∧
        ∀ x y r, s.route p.src p.dst = x :: y :: r → u.net.flying = s.net.flying ++ [{ packet := p, route := x :: y :: r, void := false }] ∧
          KV.at? u.net.links { src := x, dst := y, net := p.net, cls := p.cls } =
            some ((KV.at? s.net.links { src := x, dst := y, net := p.net, cls := p.cls }).getD 0 + (p.data + 2))) ∧
      ((p.cls ≠ .request ∨ p.net = 16 ∨ b.rate = 0xFFFF) → exec (.packetInjection p) s =
        .next { s with net := s.net.depart { packet := p, route := s.route p.src p.dst, void := false } })) ∧
    ∀ (s : State) (router : Nat), ∃ u, exec (.hamletReset router) s = .next u ∧
      ((∀ e ∈ s.groups, s.routerOf e.2.core ≠ router) → u.groups = s.groups ∧ u.threads = s.threads) ∧
      (∀ f ∈ u.net.flying, f.packet.src = router → f.route.head? = some router → f.void = true) ∧
      (∀ f ∈ u.net.flying, f.packet.dst = router → f.packet.cls ≠ .reply ∧ 2 < f.route.length) ∧
      (∀ f ∈ s.net.flying, f.packet.src ≠ router → f.packet.dst ≠ router → f ∈ u.net.flying) ∧
      (∀ p ∈ u.net.waiting, p.src ≠ router) ∧ (∀ e ∈ u.net.allowances, e.1.src ≠ router) ∧ ∀ e ∈ u.net.mirrors, e.1.src ≠ router

/-! ## Masters (R374 to R393, R400, R401, R410) -/

/-- Who may ask, and owners (R374 to R378, R380): a message of KIND 1 has no effect; a malformed header is answered with BADARG, a PART that names
nothing, or the package where a partition is wanted, with NOPART, a partition where the package is wanted with BADARG, the procedures of an owner
called by another master with NOTOWNER, a server out of service with NOTREADY, an unknown procedure with BADARG; the owner's lease is renewed all the
same, and a request waits for an earlier one of its session to the same PART that waits for a sub-bus (R377). `OWN` is granted to a free PART, to the owner, and once the owner's lease has ended, unless a lower MASTERID asks in the same clock; `YIELD`
passes the PART on with the present lease, or releases it; `STATUS` answers with the readiness map. That a message of KIND 1 to a server has no effect
is the model's (log entry 77), and so are the order of these checks and the layout of STATUS (log entry 42). -/
def Obligations.MastersAndOwners : Prop :=
  (∀ (s v : State) (h : MsgHdr) (a b n : Nat) (m : BitVec 32) (va x : BitVec 64) (l : List (BitVec 8)) (p : BitVec 28) (z : BitVec 2) (y : BitVec 3)
      (k : BitVec 13), v = s.renew h →
      (∀ e ∈ ([(1, .own h m), (2, .yieldProc h va), (3, .status h), (4, .graphLoad h a b va x), (5, .kickProc h a b va), (6, .map h va p z y z k),
          (7, .unmap h va), (8, .pageGive h va), (9, .pageTake h va), (10, .write h va l), (11, .read h va n), (12, .notify h a m),
          (13, .logRead h m n), (14, .update h l), (15, .attest h l)] : List (Nat × Instr)),
        (h.kind = 1 → exec e.2 s = .next s) ∧
        (∀ d, h.kind ≠ 1 → s.callDue h = some d → exec e.2 s = .next { s with sched := s.sched ++ [(d, s.turn)] }) ∧
        (s.callDue h = none → (h.kind ≠ 1 → headerOk h e.1 = false → exec e.2 s = .next (v.reply h 3 [])) ∧
          (headerOk h e.1 = true → s.partNamed h = false → exec e.2 s = .next (v.reply h 4 [])) ∧
          (headerOk h e.1 = true → isPackage h = true → 4 ≤ e.1 → e.1 ≤ 12 → exec e.2 s = .next (v.reply h 4 [])) ∧
          (headerOk h e.1 = true → s.partNamed h = true → isPackage h = false → e.1 = 14 → exec e.2 s = .next (v.reply h 3 [])) ∧
          (headerOk h e.1 = true → s.partNamed h = true → (4 ≤ e.1 → e.1 ≤ 12 → isPackage h = false) → (e.1 = 14 → isPackage h = true) →
            (e.1 ∈ [2, 4, 5, 6, 7, 8, 9, 10, 12, 14] → s.isOwner h = false → exec e.2 s = .next (v.reply h 1 [])) ∧
            ((e.1 ∈ [2, 4, 5, 6, 7, 8, 9, 10, 12, 14] → s.isOwner h = true) → v.serverReady h = false → exec e.2 s = .next (v.reply h 8 []))))) ∧
      ((h.kind = 1 ∨ h.proc = 0x100) → exec (.otherProcedure h) s = .next s) ∧
      (h.kind ≠ 1 → h.proc ≠ 0x100 → s.callDue h = none → exec (.otherProcedure h) s = .next (v.reply h 3 []))) ∧
    (∀ (s v : State) (h : MsgHdr) (lease : BitVec 32) (o : Option (BitVec 64)) (fin : BitVec 64) (ms : BitVec 32), s.Served h 1 v →
      v.ownerOf h = (o, fin, ms) →
      ((lease.toNat < 1 ∨ 60000 < lease.toNat) → exec (.own h lease) s = .next (v.reply h 3 [])) ∧
      (1 ≤ lease.toNat → lease.toNat ≤ 60000 →
        ((o = some h.master ∨ ((o = none ∨ ∃ x, o = some x ∧ fin ≤ s.time) ∧ v.lowerOwn h = false)) → ∃ u, exec (.own h lease) s = .next u ∧
          u.ownerOf h = (some h.master, s.leaseFrom lease, lease) ∧
          u.replies = s.replies ++ [{ hdr := replyHdr h 0 8, payload := leBytes 8 (s.leaseFrom lease).toNat }]) ∧
        (o ≠ some h.master → ((∃ x, o = some x ∧ s.time < fin) ∨ v.lowerOwn h = true) → exec (.own h lease) s = .next (v.reply h 2 [])))) ∧
    (∀ (s v : State) (h : MsgHdr) (new : BitVec 64), s.Served h 2 v → s.isOwner h = true → ∃ u, exec (.yieldProc h new) s = .next u ∧
      u.replies = s.replies ++ [{ hdr := replyHdr h 0 0, payload := [] }] ∧
      u.ownerOf h = (if new = 0 then (none, 0, 0) else (some new, (v.ownerOf h).2.1, (v.ownerOf h).2.2))) ∧
    ∀ (s v : State) (h : MsgHdr), s.Served h 3 v → ∃ p, exec (.status h) s = .next (v.reply h 0 p) ∧ p.take 128 = leBytes 128 s.fleet.ready.toNat

/-- Pages (R84, R388, R390): an address of another package or a misaligned one is a bad argument, and a class or key that the partition may not use
is refused; MAP writes the entry with the partition's PERM, adds the PERM to one that agrees in all else, and is refused for one that differs, that lies
above or below a leaf of another size, or that would be both executable and writable; UNMAP clears the PERM, and V with the last; PAGE.GIVE and PAGE.TAKE turn the owner
and take one of the partition's key slots for it, or are refused without one; each waits for a sub-bus that it crosses (R404); re-encrypting keeps what
every byte reads as. That a page which has that owner is refused, which slot is taken, and that a misaligned address or frame is BADARG ahead of the
other checks are the model's (log entries 43, 42). -/
def Obligations.MappingAndMigration : Prop :=
  (∀ (s v t : State) (h : MsgHdr) (va : BitVec 64) (pfn : BitVec 28) (size perm : BitVec 2) (cls : BitVec 3) (key : BitVec 13), s.Asks h 6 v →
      let bad := v.ownVa va = false ∨ size = 3 ∨ va.toNat % pageBytes size.toNat ≠ 0 ∨ pfn.toNat * 65536 % pageBytes size.toNat ≠ 0 ∨
        Config.dramBytes < pfn.toNat * 65536 + pageBytes size.toNat
      (bad → exec (.map h va pfn size cls perm key) s = .next (v.reply h 3 [])) ∧
      (¬ bad → v.dieReady (homeDie va % 4) = false → exec (.map h va pfn size cls perm key) s = .next (v.reply h 8 [])) ∧
      (¬ bad → v.dieReady (homeDie va % 4) = true → v.tableOut va = true → exec (.map h va pfn size cls perm key) s = .next v.again) ∧
      (¬ bad → v.dieReady (homeDie va % 4) = true → v.tableOut va = false → (5 ≤ cls.toNat ∨ key.toNat ∉ v.keysOf h.part.toNat) →
        exec (.map h va pfn size cls perm key) s = .next (v.reply h 5 [])) ∧
      (¬ bad → v.dieReady (homeDie va % 4) = true → v.tableOut va = false → cls.toNat < 5 → key.toNat ∈ v.keysOf h.part.toNat →
        t = v.makeTables (homeDie va) (bits va 47 0) (levelOfSize size.toNat) 3 → ∀ addr level,
        t.entryAt (homeDie va) (bits va 47 0) (levelOfSize size.toNat) (t.die (homeDie va)).root.toNat walkLevels = .entry addr level →
        (v.placeReady (dramBase (homeDie va) + addr) = false → exec (.map h va pfn size cls perm key) s = .next (v.reply h 8 [])) ∧
        (∀ old, v.placeReady (dramBase (homeDie va) + addr) = true → old = t.pteAt (homeDie va) addr → pteV old = true →
          (pteSize old = 3 → t.hasLeaf (homeDie va) (bits old 43 13 * 8192) (walkLevels.drop level) = true →
            exec (.map h va pfn size cls perm key) s = .next (t.reply h 5 [])) ∧
          (pteSize old ≠ 3 → (level ≠ levelOfSize size.toNat ∨ bits old 61 16 ≠ bits (newPte pfn size cls key) 61 16 ∨
            pteMix (withPerm old h.part.toNat perm.toNat) = true) →
            exec (.map h va pfn size cls perm key) s = .next (t.reply h 5 [])) ∧
          (pteSize old ≠ 3 → level = levelOfSize size.toNat → bits old 61 16 = bits (newPte pfn size cls key) 61 16 →
            pteMix (withPerm old h.part.toNat perm.toNat) = false → s.StoresOk → ∃ u,
            exec (.map h va pfn size cls perm key) s = .next u ∧ u.pteAt (homeDie va) addr = withPerm old h.part.toNat perm.toNat ∧
            u.replies = s.replies ++ [{ hdr := replyHdr h 0 0, payload := [] }])) ∧
        (v.placeReady (dramBase (homeDie va) + addr) = true → s.StoresOk → (pteV (t.pteAt (homeDie va) addr) = false ∨
            (pteSize (t.pteAt (homeDie va) addr) = 3 ∧
              t.hasLeaf (homeDie va) (bits (t.pteAt (homeDie va) addr) 43 13 * 8192) (walkLevels.drop level) = false)) → ∃ u e,
          exec (.map h va pfn size cls perm key) s = .next u ∧ u.pteAt (homeDie va) addr = e ∧
          e = withPerm (newPte pfn size cls key) h.part.toNat perm.toNat ∧ pteV e = true ∧ pteHost e = false ∧ ptePfn e = pfn.toNat ∧
          pteSize e = size.toNat ∧ pteClass e = cls.toNat ∧ pteKey e = key ∧ (h.part.toNat < 16 → ptePerm e h.part.toNat = perm.toNat) ∧
          u.replies = s.replies ++ [{ hdr := replyHdr h 0 0, payload := [] }]))) ∧
    (∀ (s v : State) (h : MsgHdr) (va : BitVec 64),
      (∀ e ∈ ([(7, .unmap h va), (8, .pageGive h va), (9, .pageTake h va)] : List (Nat × Instr)), s.Asks h e.1 v →
        ((v.ownVa va = false ∨ va.toNat % 65536 ≠ 0) → exec e.2 s = .next (v.reply h 3 [])) ∧
        (v.ownVa va = true → va.toNat % 65536 = 0 → v.dieReady (homeDie va % 4) = false → exec e.2 s = .next (v.reply h 8 []))) ∧
      (v.ownVa va = true → va.toNat % 65536 = 0 → v.dieReady (homeDie va % 4) = true → v.tableOut va = true → s.Asks h 7 v →
        exec (.unmap h va) s = .next v.again) ∧
      (s.StoresOk → h.part.toNat < 16 → v.ownVa va = true → va.toNat % 65536 = 0 → v.dieReady (homeDie va % 4) = true → v.tableOut va = false →
        ∀ addr e, v.leafAt va = some (addr, e) → v.placeReady (dramBase (homeDie va) + addr) = true →
        (s.Asks h 7 v → (ptePerm e h.part.toNat = 0 → exec (.unmap h va) s = .next (v.reply h 0 [])) ∧
          (ptePerm e h.part.toNat ≠ 0 → ∃ u, exec (.unmap h va) s = .next u ∧ ptePerm (u.pteAt (homeDie va) addr) h.part.toNat = 0 ∧
            (pteV (u.pteAt (homeDie va) addr) = true ↔ ∃ p < 16, p ≠ h.part.toNat ∧ ptePerm e p ≠ 0))) ∧
        (v.pageReady (dramBase (homeDie va) + ptePfn e * 65536) (pteSize e) = true → ∀ (i : Instr) (proc : Nat) (host : Bool),
          (i = .pageGive h va ∧ proc = 8 ∧ host = false) ∨ (i = .pageTake h va ∧ proc = 9 ∧ host = true) → s.Asks h proc v →
          (v.pageOut (dramBase (homeDie va) + ptePfn e * 65536) (pteSize e) = true → exec i s = .next v.again) ∧
          (v.pageOut (dramBase (homeDie va) + ptePfn e * 65536) (pteSize e) = false → ptePerm e h.part.toNat = 0 → exec i s = .next (v.reply h 7 [])) ∧
          (v.pageOut (dramBase (homeDie va) + ptePfn e * 65536) (pteSize e) = false → ptePerm e h.part.toNat ≠ 0 → (pteHost e = host → exec i s = .next (v.reply h 5 [])) ∧
            (pteHost e ≠ host → ∀ slots, slots = (match KV.at? v.parts h.part.toNat with | some p => if host = true then p.keysHost else p.keysDev | none => []) →
              (slots = [] → exec i s = .next (v.reply h 5 [])) ∧
              (slots ≠ [] → ∃ u, ∃ k ∈ slots, exec i s = .next u ∧
                pteHost (u.pteAt (homeDie va) addr) = host ∧ pteKey (u.pteAt (homeDie va) addr) = BitVec.ofNat 13 k ∧
                ptePfn (u.pteAt (homeDie va) addr) = ptePfn e ∧ u.replies = s.replies ++ [{ hdr := replyHdr h 0 0, payload := [] }])))))) ∧
    ∀ (s : State) (old new : BitVec 13) (sector n k : Nat), s.StoresOk → 32 * sector ≤ k → k < 32 * (sector + n) →
      (s.recrypt old new sector n).rdByte ⟨k, some new⟩ 0 = s.rdByte ⟨k, some old⟩ 0

/-- What a master reads and writes (R376, R380, R387, R393): WRITE puts its bytes where the partition may write, and READ answers the bytes that it may
read, whoever asks, or FAULT where one of its reads aborts, as LOG.READ does (log entry 77); a place that it may not reach is FAULT with nothing written, one
whose die or channel is out of service NOTREADY, and each waits for a sub-bus that it crosses (R404); NOTIFY fills a notify word under the monotone rule;
LOG.READ answers the records asked for. -/
def Obligations.MasterAccess : Prop :=
  (∀ (s v : State) (h : MsgHdr) (va : BitVec 64) (bytes : List (BitVec 8)), s.Asks h 10 v →
      ((bytes = [] ∨ 8192 < bytes.length ∨ v.ownVa va = false) → exec (.write h va bytes) s = .next (v.reply h 3 [])) ∧
      (bytes ≠ [] → bytes.length ≤ 8192 → v.ownVa va = true →
        (v.readOut h.part.toNat va bytes.length = true → exec (.write h va bytes) s = .next v.again) ∧
        (v.readOut h.part.toNat va bytes.length = false → v.places h.part.toNat Want.wr va bytes.length = none →
          exec (.write h va bytes) s = .next ((v.touchRead h.part.toNat (rangeSectors va bytes.length)).reply h 7 [])) ∧
        ∀ ls, v.readOut h.part.toNat va bytes.length = false → v.places h.part.toNat Want.wr va bytes.length = some ls →
          ((∃ l ∈ ls, v.placeReady l.key = false) → exec (.write h va bytes) s = .next (v.reply h 8 [])) ∧
          ((∀ l ∈ ls, v.placeReady l.key = true) →
            exec (.write h va bytes) s = .next (((ls.zip bytes).foldl (fun s e => s.wrByte e.1 0 e.2) v).reply h 0 [])))) ∧
    (∀ (s v : State) (h : MsgHdr) (va : BitVec 64) (n : Nat), s.Served h 11 v → isPackage h = false →
      ((n = 0 ∨ 8192 < n ∨ v.ownVa va = false) → exec (.read h va n) s = .next (v.reply h 3 [])) ∧
      (n ≠ 0 → n ≤ 8192 → v.ownVa va = true → ∀ u, u = v.touchRead h.part.toNat (rangeSectors va n) →
        (v.readOut h.part.toNat va n = true → exec (.read h va n) s = .next v.again) ∧
        (v.readOut h.part.toNat va n = false → v.places h.part.toNat Want.rd va n = none → exec (.read h va n) s = .next (u.reply h 7 [])) ∧
        ∀ ls, v.readOut h.part.toNat va n = false → v.places h.part.toNat Want.rd va n = some ls →
          ((∃ l ∈ ls, v.placeReady l.key = false) → exec (.read h va n) s = .next (v.reply h 8 [])) ∧
          ((∀ l ∈ ls, v.placeReady l.key = true) → exec (.read h va n) s = .next
            (if v.rangeAborts h.part.toNat (va, n) = true then u.reply h 7 [] else u.reply h 0 (ls.map fun l => v.rdByte l 0))))) ∧
    (∀ (s v : State) (h : MsgHdr) (k : Nat) (x : BitVec 32), s.Asks h 12 v → (255 < k → exec (.notify h k x) s = .next (v.reply h 3 [])) ∧
      (k ≤ 255 → v.notifyOut h.part.toNat k = true → exec (.notify h k x) s = .next v.again) ∧
      (k ≤ 255 → v.notifyOut h.part.toNat k = false → v.notifyLoc h.part.toNat k = none → exec (.notify h k x) s = .next (v.reply h 7 [])) ∧
      ∀ l, k ≤ 255 → v.notifyOut h.part.toNat k = false → v.notifyLoc h.part.toNat k = some l →
        (v.placeReady l.key = false → exec (.notify h k x) s = .next (v.reply h 8 [])) ∧
        (v.placeReady l.key = true → (∀ w ∈ v.waits, w.key ≠ l.key / 4) →
          (x ≤ v.rdWord l → exec (.notify h k x) s = .next (v.reply h 0 (leBytes 4 (v.rdWord l).toNat))) ∧
          (v.rdWord l < x → s.StoresOk → ∃ u, u = (v.wrNat l 4 x.toNat).setTag (l.key / 4) 1 ∧
            exec (.notify h k x) s = .next (u.reply h 0 (leBytes 4 x.toNat))))) ∧
    ∀ (s v : State) (h : MsgHdr) (first : BitVec 32) (n : Nat), s.Served h 13 v →
      ((n = 0 ∨ 128 < n) → exec (.logRead h first n) s = .next (v.reply h 3 [])) ∧
      (n ≠ 0 → n ≤ 128 → v.logReady h = false → exec (.logRead h first n) s = .next (v.reply h 8 [])) ∧
      (n ≠ 0 → n ≤ 128 → v.logReady h = true → ∀ seqs vas u, seqs = ((List.range n).map fun i => first + BitVec.ofNat 32 i) → vas = v.recordVas h seqs →
        u = vas.foldl (fun s a => s.touchRead h.part.toNat (rangeSectors a 64)) v →
        ((∃ a ∈ vas, v.readOut h.part.toNat a 64 = true) → exec (.logRead h first n) s = .next v.again) ∧
        ((∀ a ∈ vas, v.readOut h.part.toNat a 64 = false) →
          ((∃ a ∈ vas, v.rangeAborts h.part.toNat (a, 64) = true) → exec (.logRead h first n) s = .next (u.reply h 7 [])) ∧
          ((∀ a ∈ vas, v.rangeAborts h.part.toNat (a, 64) = false) →
            exec (.logRead h first n) s = .next (u.reply h 0 (seqs.flatMap (v.logRecord h))))))

/-- Graphs, images and reports (R349 to R352, R397 to R401, R410): GRAPH.LOAD binds a well-formed image to its number, unless the graph runs, and answers
NOTREADY where a sector that it reads is out of reach and FAULT where one of its reads aborts; KICK takes the graph's bit, or is PENDING; UPDATE keeps the parts of an image until it is whole, and then stages a passed image in every unit of its target or refuses it, and takes a
valid configuration record, and an image whose target still switches is kept until it does not; ATTEST answers a report that begins with the nonce, with the identity
key's signature over it. A running graph, a message after which more must follow, the reports' and signatures' bytes, and an aborted read's answer are the
model's (log entries 44, 78, 49, 54, 77); reserved fields of an image are tested before its magic (log entry 49). -/
def Obligations.GraphsImagesAndReports : Prop :=
  (∀ (s v : State) (h : MsgHdr) (die graph : Nat) (va n : BitVec 64), s.Asks h 4 v →
      ((3 < die ∨ 4095 < graph) → exec (.graphLoad h die graph va n) s = .next (v.reply h 3 [])) ∧
      (die ≤ 3 → graph ≤ 4095 → (v.dieReady die = false ∨ v.schedReady die = false) → exec (.graphLoad h die graph va n) s = .next (v.reply h 8 [])) ∧
      (die ≤ 3 → graph ≤ 4095 → v.dieReady die = true → v.schedReady die = true → ∀ reads u, reads = v.imageReads h.part.toNat va n →
        u = reads.foldl (fun s r => s.touchRead h.part.toNat (rangeSectors r.1 r.2)) v →
        (v.loadImage h.part.toNat va n.toNat = .fault → exec (.graphLoad h die graph va n) s =
          .next ((v.touchRead h.part.toNat (rangeSectors va n.toNat)).reply h 7 [])) ∧
        (v.loadImage h.part.toNat va n.toNat ≠ .fault →
          ((∃ r ∈ reads, v.rangeReady h.part.toNat r = false) → exec (.graphLoad h die graph va n) s = .next (v.reply h 8 [])) ∧
          ((∀ r ∈ reads, v.rangeReady h.part.toNat r = true) →
            ((∃ r ∈ reads, v.readOut h.part.toNat r.1 r.2 = true) → exec (.graphLoad h die graph va n) s = .next v.again) ∧
            ((∀ r ∈ reads, v.readOut h.part.toNat r.1 r.2 = false) →
              ((∃ r ∈ reads, v.rangeAborts h.part.toNat r = true) → exec (.graphLoad h die graph va n) s = .next (u.reply h 7 [])) ∧
              ((∀ r ∈ reads, v.rangeAborts h.part.toNat r = false) →
                (v.loadImage h.part.toNat va n.toNat = .refused → exec (.graphLoad h die graph va n) s = .next (u.reply h 5 [])) ∧
                (∀ g x, v.loadImage h.part.toNat va n.toNat = .ok g → u.graph? (v.localDie die) graph = some x → x.running = true →
                  exec (.graphLoad h die graph va n) s = .next (u.reply h 5 [])) ∧
                (∀ g, v.loadImage h.part.toNat va n.toNat = .ok g → (∀ x, u.graph? (v.localDie die) graph = some x → x.running = false) → ∃ w,
                  exec (.graphLoad h die graph va n) s = .next w ∧ w.graph? (v.localDie die) graph = some g ∧
                  w.replies = u.replies ++ [{ hdr := replyHdr h 0 0, payload := [] }]))))))) ∧
    (∀ (s v : State) (h : MsgHdr) (die graph : Nat) (va : BitVec 64), s.Asks h 5 v →
      ((3 < die ∨ 4095 < graph) → exec (.kickProc h die graph va) s = .next (v.reply h 3 [])) ∧
      (die ≤ 3 → graph ≤ 4095 → v.dieReady die = false → exec (.kickProc h die graph va) s = .next (v.reply h 8 [])) ∧
      (die ≤ 3 → graph ≤ 4095 → v.dieReady die = true →
        (KV.at? (v.die (v.localDie die)).pending graph ≠ none → exec (.kickProc h die graph va) s = .next (v.reply h 6 [])) ∧
        (KV.at? (v.die (v.localDie die)).pending graph = none → ∃ u, exec (.kickProc h die graph va) s = .next u ∧
          KV.at? (u.die (v.localDie die)).pending graph = some va ∧ Turn.event (.replayStart (v.localDie die)) ∈ u.turns ∧
          u.replies = s.replies ++ [{ hdr := replyHdr h 0 0, payload := [] }]))) ∧
    (∀ (s v w : State) (h : MsgHdr) (part : List (BitVec 8)) (i : SignedImage), s.Served h 14 v → isPackage h = true → s.isOwner h = true →
      i = { bytes := (KV.at? v.fleet.uploads (h.master, h.tag)).getD [] ++ part } → w = v.upload h none →
      ((part = [] ∨ part.length ≠ h.len.toNat ∨ i.bytes.length < 256) → exec (.update h part) s = .next (v.reply h 3 [])) ∧
      (part ≠ [] → part.length = h.len.toNat → 256 ≤ i.bytes.length → i.bytes.length < 256 + i.len →
        exec (.update h part) s = .next ((v.upload h (some i.bytes)).reply h 0 [])) ∧
      (part ≠ [] → part.length = h.len.toNat → 256 ≤ i.bytes.length → 256 + i.len ≤ i.bytes.length →
        (i.fieldsOk = false → exec (.update h part) s = .next (w.reply h 3 [])) ∧
        (∀ x, i.fieldsOk = true → i.target ≤ 6 → KV.at? w.fleet.images i.target = some x → x.switching ≠ [] →
          exec (.update h part) s = .next (w.updImages i.target fun x => { x with queued := x.queued ++ [(h, i)] })) ∧
        (∀ x, i.fieldsOk = true → i.target ≤ 6 → KV.at? w.fleet.images i.target = some x → x.switching = [] →
          (∀ c, imageRefused w.fleet.config i = some c → exec (.update h part) s = .next (w.refuseUpdate h i c)) ∧
          (imageRefused w.fleet.config i = none → ∃ u, exec (.update h part) s = .next u ∧ u.replies = s.replies ∧
            KV.at? u.fleet.images i.target = some { x with standby := i, switching := List.range (unitsOf i.target), replyTo := some h } ∧
            ∀ n < unitsOf i.target, (s.clock + 1, Turn.event (.imageSwitch i.target n)) ∈ u.sched)) ∧
        (i.fieldsOk = true → i.target = 7 →
          (∀ c, recordRefusal w.fleet.config i = some c → exec (.update h part) s = .next (w.refuseUpdate h i c)) ∧
          (recordRefusal w.fleet.config i = none → recFollows i.record w.fleet.config = true ∧ ∃ u, exec (.update h part) s = .next u ∧
            u.fleet.config = i.record ∧ u.replies = s.replies ++ [{ hdr := replyHdr h 0 0, payload := [] }])))) ∧
    ∀ (s v : State) (h : MsgHdr) (nonce : List (BitVec 8)), s.Served h 15 v →
      (nonce.length ≠ 48 → exec (.attest h nonce) s = .next (v.reply h 3 [])) ∧
      (nonce.length = 48 → ∃ p, exec (.attest h nonce) s = .next (({ v with free := v.free + 1 } : State).reply h 0 p) ∧ p.take 48 = nonce ∧
        p = v.report410 h nonce ++ ecdsaSign Config.identitySecret (Config.identityNonce v.free) (sha384 (v.report410 h nonce))
          ++ leBytes 8 Config.identityCert.length ++ Config.identityCert)

/-! ## Service cores and the root monitor (R320, R366, R371, R381 to R387, R395) -/

/-- KILL and VACATE (R331, R337, R383): KILL ends the named group of the launch that KLAUNCH names, placed, saved or still waiting, or all its groups
with all ones, and is logged and ignored where there is no such launch or group: a placed group's threads stop at once, those that owe no access are
gone, and the group ends with the clock's others, one that waits is never placed and counts as ended. VACATE has the groups of so many cores saved, those
of the lowest priority first. KILL of a group that waits and the value that is logged are the model's (log entry 45), and so is the order in which VACATE
takes cores (log entry 38).

Notify words, rings and registers (R320, R366, R371, R386, R387, R395): NRST makes a notify word 0 and EMPTY; RCONS is taken when it passes no entry
that has not been posted, and serves those that wait on SPACE once there is room, else it is ignored and logged; an aligned fill store of a sandbox or service core fills a notify word, and any other takes an
access fault; a legal lull value and an aligned table root are taken; a gust register sets a bucket's BURST and RATE; the root monitor fixes the
place of a journal. An illegal lull value or root that is not taken (log entry 47), RCONS without a ring, NRST of a word with no place and the fault of
such a fill store (log entry 48), and the tokens that a write of a gust register keeps (log entry 41) are the model's. -/
def Obligations.ServiceActs : Prop :=
  ((∀ (s : State) (part : Nat) (grp : BitVec 32) (p : Part), KV.at? s.parts part = some p →
      (s.launchNamed part p.klaunch = none → exec (.kill part grp) s = .next (s.logIgnored part 2 (grp.setWidth 64))) ∧
      ∀ lid l m, s.launchNamed part p.klaunch = some (lid, m) → s.launch? lid = some l →
        (grp = 0xFFFFFFFF → exec (.kill part grp) s = .next (s.killLaunch lid)) ∧
        (grp ≠ 0xFFFFFFFF →
          (∀ gid g, s.placedByGrp lid grp = some gid → s.group? gid = some g → g.lid = lid → g.ending = false → ∃ u, exec (.kill part grp) s = .next u ∧
            (∃ x, u.group? gid = some x ∧ x.ending = true) ∧ (∀ w t, s.thread? w = some t → (∀ x, (w, x) ∈ s.threads → x = t) →
              s.belongs gid w = true → t.last = false → t.held = [] → u.thread? w = none) ∧
            (s.clock, Turn.event (.groupEnd gid)) ∈ u.sched ∧ (∃ k, u.launch? lid = some k ∧ k.status = l.status ||| 1) ∧ u.mem = s.mem) ∧
          (s.placedByGrp lid grp = none →
            (∀ gid y, s.savedByGrp lid grp = some gid → KV.at? s.saved gid = some y → y.group.ending = false → ∃ u, exec (.kill part grp) s = .next u ∧
              (∃ x, u.group? gid = some x ∧ x.ending = true) ∧ (s.clock, Turn.event (.groupEnd gid)) ∈ u.sched) ∧
            (s.savedByGrp lid grp = none →
              (l.placed ≤ grp.toNat → grp.toNat < l.ngrp → grp.toNat ∉ l.dead → ∃ u k, exec (.kill part grp) s = .next u ∧ u.launch? lid = some k ∧
                grp.toNat ∈ k.dead ∧ k.ended = l.ended + 1 ∧ k.status = l.status ||| 1) ∧
              ((grp.toNat < l.placed ∨ l.ngrp ≤ grp.toNat ∨ grp.toNat ∈ l.dead) →
                exec (.kill part grp) s = .next (s.logIgnored part 2 (grp.setWidth 64))))))) ∧
    ∀ (s : State) (part n : Nat), ∃ u cs, exec (.vacate part n) s = .next u ∧
      cs = (sortBy s.victimRank ((s.partCores part).filter fun c => !(s.groupsOn c).isEmpty)).take n ∧
      ∀ c ∈ cs, c / Config.coresPerDie < 4 → ((s.die (s.localDie (c / Config.coresPerDie))).idle = false → ∀ e ∈ s.groupsOn c, Turn.event (.groupSave e.1) ∈ u.turns) ∧
        ((s.die (s.localDie (c / Config.coresPerDie))).idle = true → c ∈ (u.die (s.localDie (c / Config.coresPerDie))).heldVacations)) ∧
  ((∀ (s : State) (part k : Nat), ((255 < k ∨ s.notifyLoc part k = none) → exec (.notifyReset part k) s = .next s) ∧
      ∀ l, k ≤ 255 → s.notifyLoc part k = some l →
        exec (.notifyReset part k) s = .next (((s.wrNat l 4 0).setTag (l.key / 4) 0).serve [l.key / 4]) ∧
        ((∀ w ∈ s.waits, w.key ≠ l.key / 4) → exec (.notifyReset part k) s = .next ((s.wrNat l 4 0).setTag (l.key / 4) 0))) ∧
    (∀ (s : State) (part die : Nat) (v : BitVec 32), s.ring? part die = none → exec (.rconsWrite part die v) s = .next (s.logIgnored part 3 (v.setWidth 64))) ∧
    (∀ (s : State) (part die : Nat) (v : BitVec 32) (r : Ring) (p : Part), s.ring? part die = some r → KV.at? s.parts part = some p →
      ((r.count - s.ringCons part die).toNat < (v - s.ringCons part die).toNat → exec (.rconsWrite part die v) s = .next (s.logIgnored part 3 (v.setWidth 64))) ∧
      (∀ w, (v - s.ringCons part die).toNat ≤ (r.count - s.ringCons part die).toNat → w = s.updPart part (fun p => { p with rcons := KV.put p.rcons die v }) →
        (r.n ≤ (r.count - v).toNat → exec (.rconsWrite part die v) s = .next w) ∧
        ((r.count - v).toNat < r.n → exec (.rconsWrite part die v) s = .next ((w.setTag (r.space.key / 4) 0).serve [r.space.key / 4]))) ∧
      ((v - s.ringCons part die).toNat ≤ (r.count - s.ringCons part die).toNat → (∀ w ∈ s.waits, w.key ≠ r.space.key / 4) → ∃ u,
        exec (.rconsWrite part die v) s = .next u ∧ u.ringCons part die = v ∧ (Sparse.wf s.tags = true → (r.count - v).toNat < r.n → u.tagAt (r.space.key / 4) = 0) ∧ u.mem = s.mem)) ∧
    (∀ (s : State) (core : Nat) (va : BitVec 64) (v : BitVec 32),
      (s.rvPart core = none → exec (.notifyFillStore core va v) s = .next (s.rvTrap core 7 va)) ∧
      ∀ part svc, s.rvPart core = some (part, svc) →
        (va.toNat % 4 ≠ 0 → exec (.notifyFillStore core va v) s = .next (s.rvTrap core 7 va)) ∧
        (∀ e, s.gl part va Want.wr = .error e → exec (.notifyFillStore core va v) s = .next (s.rvTrap core 7 va)) ∧
        ∀ p, va.toNat % 4 = 0 → s.gl part va Want.wr = .ok p →
          (p.cls = 4 → exec (.notifyFillStore core va v) s = .next (s.stf p.loc true v)) ∧
          (p.cls ≠ 4 → exec (.notifyFillStore core va v) s = .next (s.rvTrap core 7 va))) ∧
    ∀ (s : State) (v : BitVec 64) (d router part : Nat),
      (bits v 31 3 = 0 → bits v 47 32 < bits v 63 48 → bits v 2 0 ≤ 4 → exec (.registerWrite (.lull d) v) s = .next (s.updDie d fun x => { x with lull := v })) ∧
      ((bits v 31 3 ≠ 0 ∨ bits v 63 48 ≤ bits v 47 32 ∨ 4 < bits v 2 0) → exec (.registerWrite (.lull d) v) s = .next s) ∧
      (v.toNat % 8192 = 0 → exec (.registerWrite (.tableRoot d) v) s = .next (s.updDie d fun x => { x with root := v })) ∧
      exec (.registerWrite (.klaunch part) v) s = .next (s.updPart part fun p => { p with klaunch := v }) ∧
      exec (.registerWrite (.journalPlace d) v) s = .next (s.updDie d fun x => { x with journalAt := v.toNat }) ∧
      exec (.registerWrite (.congestionThreshold d) v) s = .next (s.updDie d fun x => { x with threshold := v.toNat }) ∧
      ∃ u, exec (.registerWrite (.gust router part) v) s = .next u ∧ (u.net.bucket router part).burst = bits v 31 16 ∧
        (u.net.bucket router part).rate = bits v 15 0 ∧ (u.net.bucket router part).tokens ≤ bits v 31 16)

/-- The address space of the service and sandbox cores (R52, R323, R325, R382 to R384, R387, R395): an address that reaches nothing, and for a sandbox
core a page of another class than sandbox and notify, takes an access fault, at the core's own privilege; an absent page parks the core at its home as a
device access is, until its record is resolved; a load reads each byte as it stands at its home, in a notify page too; a store to no notify page writes
its bytes, and to a notify page only an aligned 32-bit one is a fill; an atomic on a notify page and a fetch from one take an access fault; a sandbox
core's interrupt reaches the service core. A service core's 8-byte accesses of its register window reach the registers of its partition (R383). Which
accesses these cores make comes from outside (log entry 58), and what the RISC-V architecture does with a trap is presumed (log entry 95). -/
def Obligations.ServiceCoreAccesses : Prop :=
  (∀ (s : State) (core : Nat) (a : RvAct) (r : List Turn), s.turns = .riscv core a :: r →
      step s = .next ((({ s with turns := r, turn := .riscv core a, cur := .nobody } : State).serving 0).rvAct core a)) ∧
    (∀ (s : State) (core part : Nat) (svc : Bool) (a : RvAct) (c : RvCore) (w : Want) (va : BitVec 64),
      (s.rvPart core = none → s.rvAct core a = s) ∧ ((s.rvCore core).parked = true → s.rvAct core a = s) ∧
      (c.virt = false → (c.mode = .m ∨ bits (c.csr 0x180) 63 60 ≠ 9) →
        (bits va 63 56 = 0 → s.rvTranslate part svc c w va = ([], .ok (va.setWidth 56))) ∧
        (bits va 63 56 ≠ 0 → s.rvTranslate part svc c w va = ([], .error .access)))) ∧
    (∀ (s u : State) (core part n rd : Nat) (svc : Bool) (va : BitVec 64) (pa : BitVec 56), s.RvReaches core part svc (.load va n rd) n pa u →
      (∀ f, u.rvPlaces part svc Want.rd pa n = .error f → s.rvAct core (.load va n rd) = u.rvFail core part (.load va n rd) f) ∧
      (∀ ps, u.rvPlaces part svc Want.rd pa n = .ok ps → u.flaws = [] → s.rvAct core (.load va n rd) =
        u.updRv core fun c => c.put rd (ps.map fun p => u.rdByte p.loc 0)) ∧
      (0 < n → bits pa 55 50 ≠ 0 → s.rvAct core (.load va n rd) = u.rvFault core (.load va n rd)) ∧
      (0 < n → bits pa 55 50 = 0 →
        (∀ p, svc = false → u.gl part (u.rvVa pa) Want.rd = .ok p → p.cls ≠ 2 → p.cls ≠ 4 →
          s.rvAct core (.load va n rd) = u.rvFault core (.load va n rd)) ∧
        ∀ c e l, svc = true → u.gl part (u.rvVa pa) Want.rd = .error (.fault c e l) → s.rvAct core (.load va n rd) =
          (u.updRv core fun x => { x with parked := true }).park part core (u.rvVa pa) 0 c e l (.riscv core (.load va n rd)))) ∧
    (∀ (s u : State) (core part : Nat) (svc : Bool) (va : BitVec 64) (pa : BitVec 56) (v : List (BitVec 8)),
      s.RvReaches core part svc (.store va v) v.length pa u →
      (∀ f, u.rvPlaces part svc Want.wr pa v.length = .error f → s.rvAct core (.store va v) = u.rvFail core part (.store va v) f) ∧
      ∀ ps, u.rvPlaces part svc Want.wr pa v.length = .ok ps →
        ((∀ p ∈ ps, p.cls ≠ 4) → s.rvAct core (.store va v) = u.rvWrite ps v) ∧
        ((∃ p ∈ ps, p.cls = 4) → (v.length ≠ 4 ∨ pa.toNat % 4 ≠ 0) → s.rvAct core (.store va v) = u.rvFault core (.store va v)) ∧
        ((∃ p ∈ ps, p.cls = 4) → v.length = 4 → pa.toNat % 4 = 0 →
          exec (.notifyFillStore core (u.rvVa pa) (BitVec.ofNat 32 (leNat v))) u = .next (s.rvAct core (.store va v)))) ∧
    (∀ (s u : State) (core part rd d : Nat) (p : Part) (va : BitVec 64) (pa : BitVec 56) (v : List (BitVec 8)) (x : BitVec 64) (w : Nat → BitVec 56),
      KV.at? u.parts part = some p → v.length = 8 → x = BitVec.ofNat 64 (leNat v) → (∀ k, w k = BitVec.ofNat 56 (0x20 * 2 ^ 50 + k)) →
      (s.RvTranslates core part true (.load va 8 rd) 8 pa u →
        (pa = w 0 → s.rvAct core (.load va 8 rd) = u.updRv core (fun c => c.put rd (leBytes 8 p.klaunch.toNat))) ∧
        (d < 4 → pa = w (0x20 + 8 * d) → s.rvAct core (.load va 8 rd) = u.updRv core (fun c => c.put rd (leBytes 8 (u.ringCons part d).toNat)))) ∧
      (s.RvTranslates core part true (.store va v) 8 pa u →
        (pa = w 0 → s.rvAct core (.store va v) = u.updPart part (fun p => { p with klaunch := x })) ∧
        (pa = w 8 → exec (.kill part (x.extractLsb' 32 32)) u = .next (s.rvAct core (.store va v))) ∧
        (pa = w 0x10 → exec (.vacate part (bits x 8 0)) u = .next (s.rvAct core (.store va v))) ∧
        (pa = w 0x18 → exec (.notifyReset part (bits x 7 0)) u = .next (s.rvAct core (.store va v))) ∧
        (d < 4 → pa = w (0x20 + 8 * d) → exec (.rconsWrite part d (x.setWidth 32)) u = .next (s.rvAct core (.store va v))) ∧
        (pa = w 0x40 → exec (.registerWrite (.resolve part (u.resolveDie part (x.extractLsb' 32 32))) x) u = .next (s.rvAct core (.store va v))))) ∧
    (∀ (s u : State) (core part n rd x : Nat) (svc : Bool) (op : RvAmo) (va : BitVec 64) (pa : BitVec 56),
      ((s.rvCore core).parked = false → s.rvPart core = some (part, svc) →
        (((n ≠ 4 ∧ n ≠ 8) ∨ va.toNat % n ≠ 0) → s.rvAct core (.atomic op va n rd x) = s.rvFault core (.atomic op va n rd x)) ∧
        (svc = false → s.rvAct core .interrupt = { s with irqs := s.irqs ++ [.sandbox part core] })) ∧
      (s.RvReaches core part svc (.atomic op va n rd x) n pa u → (n = 4 ∨ n = 8) → va.toNat % n = 0 →
        (∀ f, u.rvPlaces part svc Want.wr pa n = .error f → s.rvAct core (.atomic op va n rd x) = u.rvFail core part (.atomic op va n rd x) f) ∧
        (∀ ps, u.rvPlaces part svc Want.wr pa n = .ok ps → (∃ p ∈ ps, p.cls = 4) →
          s.rvAct core (.atomic op va n rd x) = u.rvFault core (.atomic op va n rd x)) ∧
        ∀ ps old, u.rvPlaces part svc Want.wr pa n = .ok ps → (∀ p ∈ ps, p.cls ≠ 4) → u.flaws = [] → old = (ps.map fun p => u.rdByte p.loc 0) →
          s.rvAct core (.atomic op va n rd x) =
            (u.updRv core fun c => c.put rd old).rvWrite ps (leBytes n (amoResult op n (leNat old) (x % 2 ^ (8 * n))))) ∧
      (s.RvReaches core part svc (.fetch va) 2 pa u →
        (∀ f, u.rvPlaces part svc Want.ex pa 2 = .error f → s.rvAct core (.fetch va) = u.rvFail core part (.fetch va) f) ∧
        (∀ ps, u.rvPlaces part svc Want.ex pa 2 = .ok ps → s.rvAct core (.fetch va) = u.updRv core fun c => { c with pc := va }) ∧
        ∀ p, bits pa 55 50 = 0 → u.gl part (u.rvVa pa) Want.ex = .ok p → p.cls = 4 → s.rvAct core (.fetch va) = u.rvFault core (.fetch va))) ∧
    ∀ (s : State) (core part : Nat) (a : RvAct) (f : FaultRec) (c x : RvCore), c = s.rvCore core → x = (s.rvFault core a).rvCore core →
      s.rvFail core part a .access = s.rvFault core a ∧
      (c.mode = .m → x.mode = .m ∧ x.csr 0x342 = a.accessFault ∧ x.csr 0x341 = c.pc ∧ x.csr 0x343 = a.addr ∧ x.pc = vectorOf (c.csr 0x305) a.accessFault) ∧
      (c.mode ≠ .m → c.virt = false → x.mode = .s ∧ x.csr 0x142 = a.accessFault ∧ x.csr 0x141 = c.pc ∧ x.csr 0x143 = a.addr ∧
        x.pc = vectorOf (c.csr 0x105) a.accessFault) ∧ x.parked = false ∧ x.regs = c.regs ∧
      s.retryReq f (.riscv core a) = { s.updRv core (fun c => { c with parked := false }) with turns := s.turns ++ [.riscv core a] } ∧
      s.trapReq f (.riscv core a) = s.rvFault core a

/-- A partition's boundary (R253, R254, R340, R381, R383, R384, R389): its keys, rings, save pool and cores of the service are in force at once, a key
slot serves one side only and no other partition keeps a key that it gets, and a service or sandbox core that joins it is zeroed; with no group in the
way it has its cores and halves, the new ones zeroed, and no other partition has those cores; else the groups in the way are saved first. What is in
force at once, that a key leaves every other partition, and what becomes of groups in the way are the model's (log entry 46), and so is that the act has
no effect for a partition above 15 (log entry 11). -/
def Obligations.PartitionBoundary : Prop :=
  (∀ (s : State) (part : Nat) (b : Boundary), 15 < part → exec (.partitionBoundarySet part b) s = .next s) ∧
    ∀ (s v : State) (part : Nat) (b : Boundary) (old p : Part) (fresh : List Nat), part ≤ 15 → old = (KV.at? s.parts part).getD Part.reset →
      fresh = (if (KV.at? s.parts part).isNone then b.serviceCore :: b.sandboxCores else old.newRv b) →
      v = { fresh.foldl (fun s c => s.updRv c fun _ => RvCore.reset) s with
            parts := KV.put (s.parts.map fun e =>
              (e.1, { e.2.loseKeys b with sandboxCores := e.2.sandboxCores.filter fun c => !fresh.contains c })) part p } →
      p = { old with
            keysDev := b.keysDev, keysHost := b.keysHost.filter (fun k => !b.keysDev.contains k), serviceCore := b.serviceCore
            sandboxCores := b.sandboxCores, notifyVa := b.notifyVa, rings := b.rings, faultRings := b.faultRings, logVa := b.logVa, logN := b.logN
            kernelMeas := b.kernelMeas, savePool := b.savePool, want := some (b.cores, b.halves) } →
      (∀ e ∈ v.parts, e.1 ≠ part → ∀ k, k ∈ b.keysDev ∨ k ∈ b.keysHost → k ∉ e.2.keysDev ∧ k ∉ e.2.keysHost) ∧ (∀ k ∈ p.keysHost, k ∉ p.keysDev) ∧
      (∀ c ∈ fresh, v.rvCore c = RvCore.reset) ∧
      (v.inTheWay part p b.cores b.halves = [] → ∃ u q, exec (.partitionBoundarySet part b) s = .next u ∧ KV.at? u.parts part = some q ∧
        q = { p with cores := b.cores, want := none } ∧ (∀ e ∈ u.parts, e.1 ≠ part → ∀ c ∈ b.cores, c ∉ e.2.cores) ∧
        (∀ h ∈ b.halves, (u.half h.1 h.2).part = some part) ∧
        ∀ h ∈ b.halves, (s.half h.1 h.2).part ≠ some part → u.half h.1 h.2 = { Half.reset with part := some part }) ∧
      (v.inTheWay part p b.cores b.halves ≠ [] → exec (.partitionBoundarySet part b) s =
        .next (v.vacate ((v.inTheWay part p b.cores b.halves).filter fun c => !v.saving c && !(v.die (v.dieOf c)).idle)))

/-! ## Keeping the package in service (R396 to R412) -/

/-- Images and schedulers (R355, R401, R409, R414): a unit runs the new image, but neither scheduler core of a die while a takeover is under way there,
and the last one answers the UPDATE and takes up one that waited; a scheduler core that acts hands over to its standby first, once that one runs it; a
journal record stands in the ring at its SEQ's place before its act, and ACTSEQ counts it; a takeover keeps the die's acts until its end, when the acts
of the records after ACTSEQ are performed and the standby is the active core; without a standby an error leaves the die without a scheduler. The end 64
clocks on, the clocks of a switch that waits, the acts that are held and which records stand ahead of their acts are the model's (log entries 56, 51, 35,
86).

Power (R4, R380, R396 to R398, R412): power above PCAP and temperature lower the main clock a step among 1750, 1500, 1250 and 1000 MHz and recovery
raises it, at most one step in a millisecond and up only after 100 ms without a cause; a thermal trip takes the power and everything of the compute dies;
a power-on whose root monitor firmware is good leaves no thread, launch or partition, flash's records with the newer valid one active, each quadrant's
good cores under its logical numbers in ascending order, each die's lull register from the record, and no readiness bit of what failed. That firmware
which is not good leaves the package without power (log entry 6), and what a thermal trip leaves (log entry 52) are the model's. -/
def Obligations.ImagesSchedulersAndPower : Prop :=
  ((∀ (s : State) (target unit : Nat) (x : Images) (d : Die), KV.at? s.fleet.images target = some x → d = s.die (s.localDie (unit / 2)) →
      (unit ∉ x.switching → exec (.imageSwitch target unit) s = .next s) ∧
      (unit ∈ x.switching → target = 2 → d.takeover = true → exec (.imageSwitch target unit) s = .next (s.plan (s.clock + 64) (.imageSwitch target unit))) ∧
      (unit ∈ x.switching → (target ≠ 2 ∨ (d.takeover = false ∧ s.activeUnit unit = false)) → (∃ n ∈ x.switching, n ≠ unit) → ∃ u y,
        exec (.imageSwitch target unit) s = .next u ∧
        KV.at? u.fleet.images target = some y ∧ y = { x with switching := x.switching.filter fun n => decide (n ≠ unit) } ∧ u.replies = s.replies) ∧
      ((target ≠ 2 ∨ (d.takeover = false ∧ s.activeUnit unit = false)) → x.switching = [unit] → ∃ v,
        v.replies = s.replies ++ (match x.replyTo with | some h => [{ hdr := replyHdr h 0 0, payload := [] }] | none => []) ∧
        KV.at? v.fleet.images target = some { active := x.standby, standby := x.active, switching := [], replyTo := none, queued := x.queued.drop 1 } ∧
        (x.queued = [] → exec (.imageSwitch target unit) s = .next v) ∧
        ∀ h i r, x.queued = (h, i) :: r → exec (.imageSwitch target unit) s = .next (v.takeImage h i)) ∧
      (target = 2 → unit ∈ x.switching → d.takeover = false → d.scheduler = some (unit % 2) → d.standby = true →
        ∃ u, exec (.imageSwitch target unit) s = .next u ∧ u.fleet.images = s.fleet.images ∧
          (s.clock + 64, Turn.event (.imageSwitch target unit)) ∈ u.sched ∧
          (unit / 2 * 2 + (1 - unit % 2) ∉ x.switching → Turn.event (.schedulerTakeover (s.localDie (unit / 2)) 1) ∈ u.turns))) ∧
    (∀ (s : State) (target unit : Nat), KV.at? s.fleet.images target = none → exec (.imageSwitch target unit) s = .next s) ∧
    (∀ (s : State) (die reason : Nat), (s.die die).scheduler = none → exec (.schedulerTakeover die reason) s = .next s) ∧
    (∀ (s : State) (die type index graph : Nat) (value : BitVec 64), s.StoresOk → (s.die die).undone = [] → type < 256 → index < 65536 → graph < 4096 →
      ∃ u, s.journal die type index graph value = u ∧ u.readJournal die (s.die die).journalSeq = (type, index, graph, value) ∧
        (u.die die).journalSeq = (s.die die).journalSeq + 1 ∧ (u.die die).actSeq = (s.die die).journalSeq) ∧
    ∀ (s : State) (die reason n : Nat), (s.die die).scheduler = some n → reason ≤ 2 →
      ((s.die die).takeover = true → reason ≠ 0 → exec (.schedulerTakeover die reason) s = .next (s.plan (s.clock + 64) (.schedulerTakeover die reason))) ∧
      ((s.die die).takeover = true → reason = 0 → ∃ u, exec (.schedulerTakeover die reason) s = .next u ∧ (u.die die).scheduler = none ∧
        (u.die die).takeover = false ∧ (u.die die).idle = true) ∧
      ((s.die die).takeover = false → (s.die die).standby = false → reason ≠ 0 → exec (.schedulerTakeover die reason) s = .next s) ∧
      ((s.die die).takeover = false → exec (.schedulerTakeover die (reason + 4)) s = .next s) ∧
      ((s.die die).takeover = true →
        ((∃ r ∈ s.afterActSeq die, s.redoOut die r = true) →
          exec (.schedulerTakeover die (reason + 4)) s = .next (s.plan (s.clock + 64) (.schedulerTakeover die (reason + 4)))) ∧
        ((∀ r ∈ s.afterActSeq die, s.redoOut die r = false) → ∀ w, w = (({ s with free := s.free + 1 } : State).redoActs die) → ∃ v : State,
          exec (.schedulerTakeover die (reason + 4)) s = .next (v.resumeScheduler die) ∧ (v.die die).scheduler = some (1 - n) ∧ v.mem = w.mem ∧
          (v.die die).actSeq = (v.die die).journalSeq - 1 ∧ (v.die die).undone = [] ∧ (reason ≠ 0 → (v.die die).standby = true) ∧
          (s.afterActSeq die = [] → (v.die die).heldFills = (s.die die).heldFills ∧ (v.die die).heldVacations = (s.die die).heldVacations))) ∧
      ((s.die die).takeover = false → (s.die die).standby = true → ∃ u, exec (.schedulerTakeover die reason) s = .next u ∧ (u.die die).takeover = true ∧
        (s.clock + 64, Turn.event (.schedulerTakeover die (reason + 4))) ∈ u.sched ∧ u.threads = s.threads) ∧
      ((s.die die).takeover = false → (s.die die).standby = false → reason = 0 → ∃ u, exec (.schedulerTakeover die reason) s = .next u ∧
        (u.die die).scheduler = none ∧ (u.die die).idle = true) ∧
      ((s.die die).takeover = true → s.afterActSeq die = [] → (s.die die).heldFills = [] → (s.die die).heldVacations = [] → ∃ u,
        exec (.schedulerTakeover die (reason + 4)) s = .next u ∧
        (u.die die).scheduler = some (1 - n) ∧ (u.die die).takeover = false ∧ Turn.event (.replayStart die) ∈ u.turns)) ∧
  ((∀ (s : State) (cause watts m : Nat),
      (2 < cause → exec (.clockStep cause watts) s = .next s) ∧
      (s.mayStep cause watts = true →
        ((cause = 0 ∨ cause = 1) → (s.mhz, m) ∈ [(1750, 1500), (1500, 1250), (1250, 1000)] → ∃ u, exec (.clockStep cause watts) s = .next u ∧ u.mhz = m) ∧
        (cause = 2 → (m, s.mhz) ∈ [(1750, 1500), (1500, 1250), (1250, 1000)] → ∃ u, exec (.clockStep cause watts) s = .next u ∧ u.mhz = m)) ∧
      (cause ≤ 2 → (s.mayStep cause watts = false ∨ (cause ≤ 1 ∧ s.mhz ≤ 1000) ∨ (cause = 2 ∧ 1750 ≤ s.mhz)) → ∃ u, exec (.clockStep cause watts) s = .next u ∧
        u.mhz = s.mhz ∧ u.threads = s.threads) ∧
      ((cause = 0 ∧ watts ≤ s.fleet.config.pcap) → s.mayStep cause watts = false) ∧
      (∀ t, s.fleet.stepAt = some t → (s.time - t).toNat < 1000000 → s.mayStep cause watts = false) ∧
      (∀ t, 2 ≤ cause → s.fleet.forcedAt = some t → (s.time - t).toNat < 100000000 → s.mayStep cause watts = false)) ∧
    (∀ s : State, ∃ u, exec .thermalTrip s = .next u ∧ u.power = false ∧ u.threads = [] ∧ u.groups = [] ∧ u.launches = [] ∧ u.saved = [] ∧
      (∀ d < 4, u.ready d = false) ∧ u.parts = s.parts ∧ u.mem = s.mem) ∧
    ∀ (s : State) (failed : SelfTest) (a b : ConfigRec), a = s.fleet.slot0 → b = s.fleet.slot1 →
      (s.fleet.rootGood = false → ∃ u, exec (.powerOn failed) s = .next u ∧ u.power = false ∧ u.fleet.ready = 0) ∧
      (s.fleet.rootGood = true → ∃ u, exec (.powerOn failed) s = .next u ∧ u.power = true ∧ u.threads = [] ∧ u.launches = [] ∧ u.parts = [] ∧
        u.mem = [] ∧ u.mhz = 1750 ∧
        (a.seq < b.seq → recFollows b a = true → u.fleet.config = b) ∧ (a.seq < b.seq → recFollows b a = false → u.fleet.config = a) ∧
        (b.seq < a.seq → recFollows a b = true → u.fleet.config = a) ∧ (b.seq < a.seq → recFollows a b = false → u.fleet.config = b) ∧
        u.fleet.pkg = u.fleet.config.pkg.toNat ∧ (∀ d < 4, (u.die (u.localDie d)).lull = u.fleet.config.lull) ∧
        (∀ q < 16, ∀ n < 28, KV.at? u.fleet.repair (28 * q + n) = (goodIn (failedCores failed) u.fleet.retired q)[n]? ∧
          (20 + (28 * q + n) ∉ failed.functions → u.present (28 * q + n) = (KV.at? u.fleet.repair (28 * q + n)).isSome)) ∧
        ∀ k ∈ failed.functions, k < 1024 → u.ready k = false))

/-- Retired cores and DRAM lanes (R4, R5, R402 to R407): a core under retirement is absent, its groups are saved, and with none left the quadrant's
lowest spare takes its number, or the number stays absent; the third transfer error of a lane asks for its swap, and a fourth failed
crossing leaves an error that aborts the sector's next read; with a spare the sub-bus is out of
use for 64 clocks and the spare then carries the lane's bits; with none the lane stays, and what it spoils is left to array ECC. That a swap is two acts,
asked for a clock after the third error, and what marks a lane retired are the model's (log entry 50), and so is what a lane without a spare spoils (log
entry 79).

Links, ports and %time (R380, R392, R408): a failed flit counts against its lane, whose recalibration comes at once at 16 errors; in the rotation
every lane of a sublink direction has a turn in 2^30 ticks, one at a time; a lane that passes its recalibration starts anew, one that fails is retired and
a free spare carries it, or the sublink narrows by 32 lanes; a port is out of service and not ready from its recalibration until it is up;
the lock flag is as it is set, and the rate of
%time is corrected by at most 200 ppm, a greater correction counting as 200, which is the model's (log entry 53). The rotation's phase is the model's (log
entry 94). -/
def Obligations.RepairAndLinks : Prop :=
  ((∀ (s : State) (core : Nat), core ∉ s.fleet.retiring → (Config.cores ≤ core ∨ s.present core = false) →
      exec (.coreRetirement core) s = .next s) ∧
    (∀ (s : State) (core : Nat), core < Config.cores → s.present core = true → core ∉ s.fleet.retiring →
      (∃ u, exec (.coreRetirement core) s = .next u ∧ (s.groupsOn core ≠ [] → (s.die (s.dieOf core)).idle = false →
        core ∈ u.fleet.retiring ∧ u.present core = false ∧ (s.saving core = false → ∀ e ∈ s.groupsOn core, Turn.event (.groupSave e.1) ∈ u.turns))) ∧
      (s.groupsOn core = [] → s.estateBusy core = false → ∃ u, exec (.coreRetirement core) s = .next u ∧ s.builtOf core ∈ u.fleet.retired ∧
        core ∉ u.fleet.retiring ∧ (∀ b, s.spareFor (s.builtOf core) = some b → u.builtOf core = b ∧ u.present core = true ∧ b ∉ u.fleet.spares) ∧
        (s.spareFor (s.builtOf core) = none → u.present core = false))) ∧
    (∀ (s : State) (req : Option Nat) (die lane d k : Nat) (va : BitVec 64) (x : LaneSt), x = s.dramLane die (channelOf d) (subBusOf d) lane →
      (s.carried die (channelOf d) (subBusOf d) lane = none → exec (.transferResend req die lane d va k) s = .next s) ∧
      (lane < 80 → s.carried die (channelOf d) (subBusOf d) lane = some lane) ∧
      ∀ owner, s.carried die (channelOf d) (subBusOf d) lane = some owner → ∃ u, exec (.transferResend req die lane d va k) s = .next u ∧
        u.dramLane die (channelOf d) (subBusOf d) lane = { x with errors := x.errors + 1, daddr := d, va := va, part := req } ∧
        (x.stuck = false → x.errors = 2 → (s.clock + 1, Turn.event (.laneSwap die (channelOf d) (subBusOf d) lane)) ∈ u.sched) ∧
        (x.errors ≠ 2 → u.sched = s.sched) ∧ (x.stuck = false → 4 ≤ k → Site.crossing ((dramBase die + d) / 32) ∈ u.flaws) ∧
        (x.stuck = false → k < 4 → u.flaws = s.flaws) ∧ (x.stuck = true → Site.cell ((dramBase die + d) / 32) (owner / 2) ∈ u.flaws)) ∧
    ∀ (s : State) (die chan sub lane : Nat) (x : LaneSt), x = s.dramLane die chan sub lane →
      (s.carried die chan sub lane = none → exec (.laneSwap die chan sub lane) s = .next s) ∧
      ∀ owner, s.carried die chan sub lane = some owner →
        ((x.errors < 3 ∨ x.retired = true) → exec (.laneSwap die chan sub lane) s = .next s) ∧
        (3 ≤ x.errors → x.retired = false →
          (KV.at? s.fleet.subBusy (die, chan, sub) = none → s.freeSpare die chan sub lane = none → ∃ u,
            exec (.laneSwap die chan sub lane) s = .next u ∧ u.dramLane die chan sub lane = { x with retired := true }) ∧
          (∀ n, KV.at? s.fleet.subBusy (die, chan, sub) = none → s.freeSpare die chan sub lane = some n → ∃ u,
            exec (.laneSwap die chan sub lane) s = .next u ∧ KV.at? u.fleet.subBusy (die, chan, sub) = some (lane, s.clock + 64) ∧
              u.dramLane die chan sub lane = x ∧ (s.clock + 64, Turn.event (.laneSwap die chan sub lane)) ∈ u.sched) ∧
          ∀ m c, KV.at? s.fleet.subBusy (die, chan, sub) = some (m, c) →
            ((m ≠ lane ∨ s.clock < c) → exec (.laneSwap die chan sub lane) s =
              .next (s.plan (max (s.clock + 1) c) (.laneSwap die chan sub lane))) ∧
            (m = lane → c ≤ s.clock → ∃ u, exec (.laneSwap die chan sub lane) s = .next u ∧ KV.at? u.fleet.subBusy (die, chan, sub) = none ∧
              (s.freeSpare die chan sub lane = none → u.dramLane die chan sub lane = x) ∧
              ∀ n, s.freeSpare die chan sub lane = some n →
                (u.dramLane die chan sub lane).retired = true ∧ (u.dramLane die chan sub owner).spare = some n))) ∧
  ((∀ (s : State) (pair sub dir lane : Nat) (x : LaneSt), x = s.linkLane pair sub dir lane →
      (x.errors ≠ 15 → exec (.flitReplay pair sub dir lane) s = .next (s.setLink pair sub dir lane { x with errors := x.errors + 1 })) ∧
      (x.errors = 15 → ∀ v, v = { s.setLink pair sub dir lane { x with errors := 16 } with free := s.free + 1 } →
        ∃ pass, exec (.flitReplay pair sub dir lane) s = .next (v.recalibrate pair sub dir lane pass)) ∧
      (∀ pass, (s.rotationLane (pair, sub, dir) ≠ some lane → exec (.laneRecalibration pair sub dir lane pass) s = .next s) ∧
        (s.rotationLane (pair, sub, dir) = some lane → exec (.laneRecalibration pair sub dir lane pass) s =
          .next ((s.turnRotation (pair, sub, dir)).recalibrate pair sub dir lane pass))) ∧
      (x.retired = true → ∀ pass, s.recalibrate pair sub dir lane pass = s) ∧
      (x.retired = false → (∃ u, s.recalibrate pair sub dir lane true = u ∧ u.linkLane pair sub dir lane = { x with errors := 0 }) ∧
        (∀ n, s.spareLane pair sub dir = some n → ∃ u, s.recalibrate pair sub dir lane false = u ∧
          u.linkLane pair sub dir lane = { x with retired := true, spare := some n } ∧ u.lanesLost pair sub dir = s.lanesLost pair sub dir) ∧
        (s.spareLane pair sub dir = none → ∃ u, s.recalibrate pair sub dir lane false = u ∧
          u.linkLane pair sub dir lane = { x with retired := true } ∧ u.lanesLost pair sub dir = s.lanesLost pair sub dir + 32 ∧
          (pair ≤ 5 → (∀ q < 4, u.sublinkUp pair q = false) → u.ready (596 + pair) = false)))) ∧
    (∀ (s : State) (k : Nat × Nat × Nat) (n : Nat), k.1 < 6 → k.2.1 < 4 → k.2.2 < 2 → n = (KV.at? s.fleet.rotated k).getD 0 →
      ((n + 1) * 2 ^ 21 ≤ s.time.toNat → s.rotationLane k = some (n % 512)) ∧ (s.time.toNat < (n + 1) * 2 ^ 21 → s.rotationLane k = none) ∧
      (KV.at? (s.turnRotation k).fleet.rotated k) = some (n + 1)) ∧
    (∀ (s : State) (port : Nat), (15 < port → exec (.portRecalibration port) s = .next s) ∧
      (port ≤ 15 → port ∉ s.fleet.portsDown → ∃ u, exec (.portRecalibration port) s = .next u ∧ port ∈ u.fleet.portsDown ∧ u.ready (696 + port) = false) ∧
      (port ∈ s.fleet.portsDown → ∃ u, exec (.fabricPortUp port) s = .next u ∧ port ∉ u.fleet.portsDown ∧ u.ready (696 + port) = true) ∧
      (port ∈ s.fleet.portsDown → exec (.portRecalibration port) s = .next s) ∧
      (port ∉ s.fleet.portsDown → exec (.fabricPortUp port) s = .next s)) ∧
    ∀ (s : State) (b : Bool) (ppm : Int) (r : Nat), (r : Int) = max (-200) (min 200 ppm) + 200 →
      exec (.timeLock b ppm) s = .next { s with timeLocked := b, timeRate := r })

end
end

