-- ==== Sys2Proof/Laws/Encoding.lean ====
section
/-! SUPPORT. The laws of the word formats: each field of a packed word reads back, in register, immediate, pair and epilogue format. -/

namespace Sys2Proof

open Machine

/-- A bit of two words side by side. -/
theorem getLsbD_beside {n m : Nat} (x : BitVec n) (y : BitVec m) (i : Nat) :
    (x ++ y).getLsbD i = if i < m then y.getLsbD i else x.getLsbD (i - m) := by
  rw [BitVec.getLsbD_append]


/-- Bit i of a word in register or memory format (R87, R89). -/
theorem packReg_bit (op : Nat) (f : RegF) (i : Nat) :
    (packReg op f).getLsbD i =
      if i < 13 then f.mod.getLsbD i
      else if i < 17 then f.la.getLsbD (i - 13)
      else if i < 25 then f.c.getLsbD (i - 17)
      else if i < 33 then f.b.getLsbD (i - 25)
      else if i < 41 then f.a.getLsbD (i - 33)
      else if i < 49 then f.d.getLsbD (i - 41)
      else if i < 52 then f.pred.getLsbD (i - 49)
      else if i < 53 then f.neg
      else if i < 63 then (BitVec.ofNat 10 op).getLsbD (i - 53)
      else ((0 : BitVec 1)).getLsbD (i - 63) := by
  have h : (packReg op f).getLsbD i =
      ((0 : BitVec 1) ++ BitVec.ofNat 10 op ++ BitVec.ofBool f.neg ++ f.pred ++ f.d ++ f.a ++ f.b ++ f.c ++ f.la ++ f.mod).getLsbD i := rfl
  rw [h]
  simp only [getLsbD_beside, Nat.sub_sub]
  by_cases h13 : i < 13
  · rw [if_pos h13, if_pos h13]
  rw [if_neg h13, if_neg h13]
  by_cases h17 : i < 17
  · rw [if_pos (by omega), if_pos h17]
  rw [if_neg (by omega), if_neg h17]
  by_cases h25 : i < 25
  · rw [if_pos (by omega), if_pos h25]
  rw [if_neg (by omega), if_neg h25]
  by_cases h33 : i < 33
  · rw [if_pos (by omega), if_pos h33]
  rw [if_neg (by omega), if_neg h33]
  by_cases h41 : i < 41
  · rw [if_pos (by omega), if_pos h41]
  rw [if_neg (by omega), if_neg h41]
  by_cases h49 : i < 49
  · rw [if_pos (by omega), if_pos h49]
  rw [if_neg (by omega), if_neg h49]
  by_cases h52 : i < 52
  · rw [if_pos (by omega), if_pos h52]
  rw [if_neg (by omega), if_neg h52]
  by_cases h53 : i < 53
  · rw [if_pos (by omega), if_pos h53]
    rw [show i = 52 by omega]
    simp
  rw [if_neg (by omega), if_neg h53]
  by_cases h63 : i < 63
  · rw [if_pos (by omega), if_pos h63]
  rw [if_neg (by omega), if_neg h63]

/-- Bit i of a word in immediate format (R88). -/
theorem packImm_bit (op : Nat) (f : ImmF) (i : Nat) :
    (packImm op f).getLsbD i =
      if i < 1 then ((0 : BitVec 1)).getLsbD i
      else if i < 33 then f.imm.getLsbD (i - 1)
      else if i < 41 then f.a.getLsbD (i - 33)
      else if i < 49 then f.d.getLsbD (i - 41)
      else if i < 52 then f.pred.getLsbD (i - 49)
      else if i < 53 then f.neg
      else if i < 63 then (BitVec.ofNat 10 op).getLsbD (i - 53)
      else ((0 : BitVec 1)).getLsbD (i - 63) := by
  have h : (packImm op f).getLsbD i =
      ((0 : BitVec 1) ++ BitVec.ofNat 10 op ++ BitVec.ofBool f.neg ++ f.pred ++ f.d ++ f.a ++ f.imm ++ (0 : BitVec 1)).getLsbD i := rfl
  rw [h]
  simp only [getLsbD_beside, Nat.sub_sub]
  by_cases h1 : i < 1
  · rw [if_pos h1, if_pos h1]
  rw [if_neg h1, if_neg h1]
  by_cases h33 : i < 33
  · rw [if_pos (by omega), if_pos h33]
  rw [if_neg (by omega), if_neg h33]
  by_cases h41 : i < 41
  · rw [if_pos (by omega), if_pos h41]
  rw [if_neg (by omega), if_neg h41]
  by_cases h49 : i < 49
  · rw [if_pos (by omega), if_pos h49]
  rw [if_neg (by omega), if_neg h49]
  by_cases h52 : i < 52
  · rw [if_pos (by omega), if_pos h52]
  rw [if_neg (by omega), if_neg h52]
  by_cases h53 : i < 53
  · rw [if_pos (by omega), if_pos h53]
    rw [show i = 52 by omega]
    simp
  rw [if_neg (by omega), if_neg h53]
  by_cases h63 : i < 63
  · rw [if_pos (by omega), if_pos h63]
  rw [if_neg (by omega), if_neg h63]

/-- Bit i of a paired word (R99). -/
theorem packPair_bit (a b : SlotF) (i : Nat) :
    (packPair a b).getLsbD i =
      if i < 1 then ((0 : BitVec 1)).getLsbD i
      else if i < 6 then b.mod.getLsbD (i - 1)
      else if i < 14 then b.a.getLsbD (i - 6)
      else if i < 22 then b.d.getLsbD (i - 14)
      else if i < 25 then b.g.getLsbD (i - 22)
      else if i < 32 then b.op.getLsbD (i - 25)
      else if i < 37 then a.mod.getLsbD (i - 32)
      else if i < 45 then a.a.getLsbD (i - 37)
      else if i < 53 then a.d.getLsbD (i - 45)
      else if i < 56 then a.g.getLsbD (i - 53)
      else if i < 63 then a.op.getLsbD (i - 56)
      else ((1 : BitVec 1)).getLsbD (i - 63) := by
  have h : (packPair a b).getLsbD i =
      ((1 : BitVec 1) ++ a.op ++ a.g ++ a.d ++ a.a ++ a.mod ++ b.op ++ b.g ++ b.d ++ b.a ++ b.mod ++ (0 : BitVec 1)).getLsbD i := rfl
  rw [h]
  simp only [getLsbD_beside, Nat.sub_sub]
  by_cases h1 : i < 1
  · rw [if_pos h1, if_pos h1]
  rw [if_neg h1, if_neg h1]
  by_cases h6 : i < 6
  · rw [if_pos (by omega), if_pos h6]
  rw [if_neg (by omega), if_neg h6]
  by_cases h14 : i < 14
  · rw [if_pos (by omega), if_pos h14]
  rw [if_neg (by omega), if_neg h14]
  by_cases h22 : i < 22
  · rw [if_pos (by omega), if_pos h22]
  rw [if_neg (by omega), if_neg h22]
  by_cases h25 : i < 25
  · rw [if_pos (by omega), if_pos h25]
  rw [if_neg (by omega), if_neg h25]
  by_cases h32 : i < 32
  · rw [if_pos (by omega), if_pos h32]
  rw [if_neg (by omega), if_neg h32]
  by_cases h37 : i < 37
  · rw [if_pos (by omega), if_pos h37]
  rw [if_neg (by omega), if_neg h37]
  by_cases h45 : i < 45
  · rw [if_pos (by omega), if_pos h45]
  rw [if_neg (by omega), if_neg h45]
  by_cases h53 : i < 53
  · rw [if_pos (by omega), if_pos h53]
  rw [if_neg (by omega), if_neg h53]
  by_cases h56 : i < 56
  · rw [if_pos (by omega), if_pos h56]
  rw [if_neg (by omega), if_neg h56]
  by_cases h63 : i < 63
  · rw [if_pos (by omega), if_pos h63]
  rw [if_neg (by omega), if_neg h63]

/-- Bit i of an epilogue word (R276). -/
theorem packEs_bit (op : Nat) (d a b : BitVec 4) (x : BitVec 15) (i : Nat) :
    (packEs op d a b x).getLsbD i =
      if i < 15 then x.getLsbD i
      else if i < 19 then b.getLsbD (i - 15)
      else if i < 23 then a.getLsbD (i - 19)
      else if i < 27 then d.getLsbD (i - 23)
      else (BitVec.ofNat 5 op).getLsbD (i - 27) := by
  have h : (packEs op d a b x).getLsbD i =
      (BitVec.ofNat 5 op ++ d ++ a ++ b ++ x).getLsbD i := rfl
  rw [h]
  simp only [getLsbD_beside, Nat.sub_sub]
  by_cases h15 : i < 15
  · rw [if_pos h15, if_pos h15]
  rw [if_neg h15, if_neg h15]
  by_cases h19 : i < 19
  · rw [if_pos (by omega), if_pos h19]
  rw [if_neg (by omega), if_neg h19]
  by_cases h23 : i < 23
  · rw [if_pos (by omega), if_pos h23]
  rw [if_neg (by omega), if_neg h23]
  by_cases h27 : i < 27
  · rw [if_pos (by omega), if_pos h27]
  rw [if_neg (by omega), if_neg h27]

/-- The fields of a packed register word (R87). -/
@[simp] theorem regOf_packReg (op : Nat) (f : RegF) : regOf (packReg op f) = f := by
  obtain ⟨n, p, d, a, b, c, l, m⟩ := f
  simp only [regOf, modOf, RegF.mk.injEq]
  refine ⟨by rw [packReg_bit]; simp, ?_, ?_, ?_, ?_, ?_, ?_, ?_⟩
  all_goals
    refine BitVec.eq_of_getLsbD_eq fun i hi => ?_
    rw [BitVec.getLsbD_extractLsb', packReg_bit]
    simp only [hi, decide_true, Bool.true_and, Nat.zero_add, if_true]
    try
      repeat rw [if_neg (by omega)]
      rw [if_pos (by omega), Nat.add_sub_cancel_left]

/-- The fields of a packed immediate word (R88). -/
@[simp] theorem immOf_packImm (op : Nat) (f : ImmF) : immOf (packImm op f) = f := by
  obtain ⟨n, p, d, a, x⟩ := f
  simp only [immOf, ImmF.mk.injEq]
  refine ⟨by rw [packImm_bit]; simp, ?_, ?_, ?_, ?_⟩
  all_goals
    refine BitVec.eq_of_getLsbD_eq fun i hi => ?_
    rw [BitVec.getLsbD_extractLsb', packImm_bit]
    simp only [hi, decide_true, Bool.true_and]
    repeat rw [if_neg (by omega)]
    rw [if_pos (by omega)]
    rw [Nat.add_sub_cancel_left]

/-- The slots of a packed pair (R99). -/
@[simp] theorem slotsOf_packPair (a b : SlotF) : slotOf (packPair a b) 32 = a ∧ slotOf (packPair a b) 1 = b := by
  obtain ⟨ao, ag, ad, aa, am⟩ := a
  obtain ⟨bo, bg, bd, ba, bm⟩ := b
  simp only [slotOf, SlotF.mk.injEq]
  refine ⟨⟨?_, ?_, ?_, ?_, ?_⟩, ?_, ?_, ?_, ?_, ?_⟩
  all_goals
    refine BitVec.eq_of_getLsbD_eq fun i hi => ?_
    rw [BitVec.getLsbD_extractLsb', packPair_bit]
    simp only [hi, decide_true, Bool.true_and]
    repeat rw [if_neg (by omega)]
    rw [if_pos (by omega)]
    congr 1
    omega

/-- The opcode of a packed register word: bit 63 is 0, the group and the minor code are the opcode's (R87, R101). -/
theorem packReg_opcode (op : Nat) (f : RegF) (h : op < 1024) :
    (packReg op f).getLsbD 63 = false ∧ bits (packReg op f) 62 59 = op / 64 ∧ bits (packReg op f) 58 53 = op % 64 := by
  have e : (packReg op f).extractLsb' 53 10 = BitVec.ofNat 10 op := by
    refine BitVec.eq_of_getLsbD_eq fun i hi => ?_
    rw [BitVec.getLsbD_extractLsb', packReg_bit]
    simp only [hi, decide_true, Bool.true_and]
    repeat rw [if_neg (by omega)]
    rw [if_pos (by omega), Nat.add_sub_cancel_left]
  have t : (packReg op f).toNat / 2 ^ 53 % 2 ^ 10 = op := by
    have := congrArg BitVec.toNat e
    rw [BitVec.extractLsb'_toNat, BitVec.toNat_ofNat, Nat.shiftRight_eq_div_pow] at this
    omega
  refine ⟨by rw [packReg_bit]; simp, ?_, ?_⟩ <;> simp only [bits] <;> omega

/-- The opcode of a packed immediate word (R88, R101). -/
theorem packImm_opcode (op : Nat) (f : ImmF) (h : op < 1024) :
    (packImm op f).getLsbD 63 = false ∧ bits (packImm op f) 62 59 = op / 64 ∧ bits (packImm op f) 58 53 = op % 64
      ∧ (packImm op f).getLsbD 0 = false := by
  have e : (packImm op f).extractLsb' 53 10 = BitVec.ofNat 10 op := by
    refine BitVec.eq_of_getLsbD_eq fun i hi => ?_
    rw [BitVec.getLsbD_extractLsb', packImm_bit]
    simp only [hi, decide_true, Bool.true_and]
    repeat rw [if_neg (by omega)]
    rw [if_pos (by omega), Nat.add_sub_cancel_left]
  have t : (packImm op f).toNat / 2 ^ 53 % 2 ^ 10 = op := by
    have := congrArg BitVec.toNat e
    rw [BitVec.extractLsb'_toNat, BitVec.toNat_ofNat, Nat.shiftRight_eq_div_pow] at this
    omega
  refine ⟨by rw [packImm_bit]; simp, ?_, ?_, by rw [packImm_bit]; simp⟩ <;> simp only [bits] <;> omega

/-- Bits 63 and 0 of a packed pair (R86, R99). -/
@[simp] theorem packPair_ends (a b : SlotF) : (packPair a b).getLsbD 63 = true ∧ (packPair a b).getLsbD 0 = false := by
  constructor <;> rw [packPair_bit] <;> simp

end Sys2Proof
end

