-- ==== Sys2Proof/Laws/Exec.lean ====
section
/-! SUPPORT. What each arm of the dispatch is: the meaning of its instruction. -/

namespace Sys2Proof.Machine

@[simp] theorem exec_add (s : State) (f) : exec (.add f) s = execAdd f s := rfl
@[simp] theorem exec_sub (s : State) (f) : exec (.sub f) s = execSub f s := rfl
@[simp] theorem exec_mul (s : State) (f) : exec (.mul f) s = execMul f s := rfl
@[simp] theorem exec_mulh (s : State) (f) : exec (.mulh f) s = execMulh f s := rfl
@[simp] theorem exec_mad (s : State) (f) : exec (.mad f) s = execMad f s := rfl
@[simp] theorem exec_min (s : State) (f) : exec (.min f) s = execMin f s := rfl
@[simp] theorem exec_max (s : State) (f) : exec (.max f) s = execMax f s := rfl
@[simp] theorem exec_abs (s : State) (f) : exec (.abs f) s = execAbs f s := rfl
@[simp] theorem exec_neg (s : State) (f) : exec (.neg f) s = execNeg f s := rfl
@[simp] theorem exec_adds (s : State) (f) : exec (.adds f) s = execAdds f s := rfl
@[simp] theorem exec_and (s : State) (f) : exec (.and f) s = execAnd f s := rfl
@[simp] theorem exec_or (s : State) (f) : exec (.or f) s = execOr f s := rfl
@[simp] theorem exec_xor (s : State) (f) : exec (.xor f) s = execXor f s := rfl
@[simp] theorem exec_andn (s : State) (f) : exec (.andn f) s = execAndn f s := rfl
@[simp] theorem exec_not (s : State) (f) : exec (.not f) s = execNot f s := rfl
@[simp] theorem exec_shl (s : State) (f) : exec (.shl f) s = execShl f s := rfl
@[simp] theorem exec_shr (s : State) (f) : exec (.shr f) s = execShr f s := rfl
@[simp] theorem exec_sar (s : State) (f) : exec (.sar f) s = execSar f s := rfl
@[simp] theorem exec_rot (s : State) (f) : exec (.rot f) s = execRot f s := rfl
@[simp] theorem exec_clz (s : State) (f) : exec (.clz f) s = execClz f s := rfl
@[simp] theorem exec_ctz (s : State) (f) : exec (.ctz f) s = execCtz f s := rfl
@[simp] theorem exec_popc (s : State) (f) : exec (.popc f) s = execPopc f s := rfl
@[simp] theorem exec_brev (s : State) (f) : exec (.brev f) s = execBrev f s := rfl
@[simp] theorem exec_bfx (s : State) (f) : exec (.bfx f) s = execBfx f s := rfl
@[simp] theorem exec_bfi (s : State) (f) : exec (.bfi f) s = execBfi f s := rfl
@[simp] theorem exec_sel (s : State) (f) : exec (.sel f) s = execSel f s := rfl
@[simp] theorem exec_mov (s : State) (f) : exec (.mov f) s = execMov f s := rfl
@[simp] theorem exec_cmp (s : State) (f) : exec (.cmp f) s = execCmp f s := rfl
@[simp] theorem exec_movi (s : State) (f) : exec (.movi f) s = execMovi f s := rfl
@[simp] theorem exec_movh (s : State) (f) : exec (.movh f) s = execMovh f s := rfl
@[simp] theorem exec_addImm (s : State) (f) : exec (.addImm f) s = execAddImm f s := rfl
@[simp] theorem exec_andImm (s : State) (f) : exec (.andImm f) s = execAndImm f s := rfl
@[simp] theorem exec_orImm (s : State) (f) : exec (.orImm f) s = execOrImm f s := rfl
@[simp] theorem exec_xorImm (s : State) (f) : exec (.xorImm f) s = execXorImm f s := rfl
@[simp] theorem exec_fadd (s : State) (f) : exec (.fadd f) s = execFadd f s := rfl
@[simp] theorem exec_fsub (s : State) (f) : exec (.fsub f) s = execFsub f s := rfl
@[simp] theorem exec_fmul (s : State) (f) : exec (.fmul f) s = execFmul f s := rfl
@[simp] theorem exec_ffma (s : State) (f) : exec (.ffma f) s = execFfma f s := rfl
@[simp] theorem exec_fdot2 (s : State) (f) : exec (.fdot2 f) s = execFdot2 f s := rfl
@[simp] theorem exec_fmin (s : State) (f) : exec (.fmin f) s = execFmin f s := rfl
@[simp] theorem exec_fmax (s : State) (f) : exec (.fmax f) s = execFmax f s := rfl
@[simp] theorem exec_fcmp (s : State) (f) : exec (.fcmp f) s = execFcmp f s := rfl
@[simp] theorem exec_fround (s : State) (f) : exec (.fround f) s = execFround f s := rfl
@[simp] theorem exec_fclass (s : State) (f) : exec (.fclass f) s = execFclass f s := rfl
@[simp] theorem exec_frcp (s : State) (f) : exec (.frcp f) s = execFrcp f s := rfl
@[simp] theorem exec_frsq (s : State) (f) : exec (.frsq f) s = execFrsq f s := rfl
@[simp] theorem exec_fsqrt (s : State) (f) : exec (.fsqrt f) s = execFsqrt f s := rfl
@[simp] theorem exec_fexp2 (s : State) (f) : exec (.fexp2 f) s = execFexp2 f s := rfl
@[simp] theorem exec_flog2 (s : State) (f) : exec (.flog2 f) s = execFlog2 f s := rfl
@[simp] theorem exec_fsin (s : State) (f) : exec (.fsin f) s = execFsin f s := rfl
@[simp] theorem exec_fcos (s : State) (f) : exec (.fcos f) s = execFcos f s := rfl
@[simp] theorem exec_cvt (s : State) (f) : exec (.cvt f) s = execCvt f s := rfl
@[simp] theorem exec_pk (s : State) (f) : exec (.pk f) s = execPk f s := rfl
@[simp] theorem exec_upk (s : State) (f) : exec (.upk f) s = execUpk f s := rfl
@[simp] theorem exec_hxq (s : State) (f) : exec (.hxq f) s = execHxq f s := rfl
@[simp] theorem exec_hxd (s : State) (f) : exec (.hxd f) s = execHxd f s := rfl
@[simp] theorem exec_hxe (s : State) (f) : exec (.hxe f) s = execHxe f s := rfl
@[simp] theorem exec_mxcvt (s : State) (f) : exec (.mxcvt f) s = execMxcvt f s := rfl
@[simp] theorem exec_voteAny (s : State) (f) : exec (.voteAny f) s = execVoteAny f s := rfl
@[simp] theorem exec_voteAll (s : State) (f) : exec (.voteAll f) s = execVoteAll f s := rfl
@[simp] theorem exec_voteNone (s : State) (f) : exec (.voteNone f) s = execVoteNone f s := rfl
@[simp] theorem exec_votePack (s : State) (f) : exec (.votePack f) s = execVotePack f s := rfl
@[simp] theorem exec_voteUnpk (s : State) (f) : exec (.voteUnpk f) s = execVoteUnpk f s := rfl
@[simp] theorem exec_pairedWord (s : State) (sa sb) : exec (.pairedWord sa sb) s = execPairedWord sa sb s := rfl
@[simp] theorem exec_ld (s : State) (space f) : exec (.ld space f) s = execLd space f s := rfl
@[simp] theorem exec_st (s : State) (space f) : exec (.st space f) s = execSt space f s := rfl
@[simp] theorem exec_ldq (s : State) (space f) : exec (.ldq space f) s = execLdq space f s := rfl
@[simp] theorem exec_stq (s : State) (space f) : exec (.stq space f) s = execStq space f s := rfl
@[simp] theorem exec_pf (s : State) (f) : exec (.pf f) s = execPf f s := rfl
@[simp] theorem exec_ldwf (s : State) (space f) : exec (.ldwf space f) s = execLdwf space f s := rfl
@[simp] theorem exec_ldwfe (s : State) (space f) : exec (.ldwfe space f) s = execLdwfe space f s := rfl
@[simp] theorem exec_stwe (s : State) (space f) : exec (.stwe space f) s = execStwe space f s := rfl
@[simp] theorem exec_stf (s : State) (space f) : exec (.stf space f) s = execStf space f s := rfl
@[simp] theorem exec_tagrd (s : State) (space f) : exec (.tagrd space f) s = execTagrd space f s := rfl
@[simp] theorem exec_tagwr (s : State) (space f) : exec (.tagwr space f) s = execTagwr space f s := rfl
@[simp] theorem exec_atomAdd (s : State) (space f) : exec (.atomAdd space f) s = execAtomAdd space f s := rfl
@[simp] theorem exec_atomMin (s : State) (space f) : exec (.atomMin space f) s = execAtomMin space f s := rfl
@[simp] theorem exec_atomMax (s : State) (space f) : exec (.atomMax space f) s = execAtomMax space f s := rfl
@[simp] theorem exec_atomAnd (s : State) (space f) : exec (.atomAnd space f) s = execAtomAnd space f s := rfl
@[simp] theorem exec_atomOr (s : State) (space f) : exec (.atomOr space f) s = execAtomOr space f s := rfl
@[simp] theorem exec_atomXor (s : State) (space f) : exec (.atomXor space f) s = execAtomXor space f s := rfl
@[simp] theorem exec_atomXchg (s : State) (space f) : exec (.atomXchg space f) s = execAtomXchg space f s := rfl
@[simp] theorem exec_atomCas (s : State) (space f) : exec (.atomCas space f) s = execAtomCas space f s := rfl
@[simp] theorem exec_atomFadd (s : State) (space f) : exec (.atomFadd space f) s = execAtomFadd space f s := rfl
@[simp] theorem exec_redAdd (s : State) (f) : exec (.redAdd f) s = execRedAdd f s := rfl
@[simp] theorem exec_redMin (s : State) (f) : exec (.redMin f) s = execRedMin f s := rfl
@[simp] theorem exec_redMax (s : State) (f) : exec (.redMax f) s = execRedMax f s := rfl
@[simp] theorem exec_redFadd (s : State) (f) : exec (.redFadd f) s = execRedFadd f s := rfl
@[simp] theorem exec_redflush (s : State) (f) : exec (.redflush f) s = execRedflush f s := rfl
@[simp] theorem exec_redseal (s : State) (f) : exec (.redseal f) s = execRedseal f s := rfl
@[simp] theorem exec_fence (s : State) (f) : exec (.fence f) s = execFence f s := rfl
@[simp] theorem exec_acq (s : State) (f) : exec (.acq f) s = execAcq f s := rfl
@[simp] theorem exec_rel (s : State) (f) : exec (.rel f) s = execRel f s := rfl
@[simp] theorem exec_bind (s : State) (f) : exec (.bind f) s = execBind f s := rfl
@[simp] theorem exec_unbind (s : State) (f) : exec (.unbind f) s = execUnbind f s := rfl
@[simp] theorem exec_cp (s : State) (f) : exec (.cp f) s = execCp f s := rfl
@[simp] theorem exec_gth (s : State) (f) : exec (.gth f) s = execGth f s := rfl
@[simp] theorem exec_copyQueueWrite (s : State) (cmd) : exec (.copyQueueWrite cmd) s = execCopyQueueWrite cmd s := rfl
@[simp] theorem exec_engineCommandCompletion (s : State) (cmd) : exec (.engineCommandCompletion cmd) s = execEngineCommandCompletion cmd s := rfl
@[simp] theorem exec_bra (s : State) (f) : exec (.bra f) s = execBra f s := rfl
@[simp] theorem exec_fbra (s : State) (f) : exec (.fbra f) s = execFbra f s := rfl
@[simp] theorem exec_brx (s : State) (f) : exec (.brx f) s = execBrx f s := rfl
@[simp] theorem exec_land (s : State) (f) : exec (.land f) s = execLand f s := rfl
@[simp] theorem exec_call (s : State) (f) : exec (.call f) s = execCall f s := rfl
@[simp] theorem exec_callx (s : State) (f) : exec (.callx f) s = execCallx f s := rfl
@[simp] theorem exec_ret (s : State) (f) : exec (.ret f) s = execRet f s := rfl
@[simp] theorem exec_rjmark (s : State) (f) : exec (.rjmark f) s = execRjmark f s := rfl
@[simp] theorem exec_rjoin (s : State) (f) : exec (.rjoin f) s = execRjoin f s := rfl
@[simp] theorem exec_exit (s : State) (f) : exec (.exit f) s = execExit f s := rfl
@[simp] theorem exec_yield (s : State) (f) : exec (.yield f) s = execYield f s := rfl
@[simp] theorem exec_yieldExpiry (s : State) (w) : exec (.yieldExpiry w) s = execYieldExpiry w s := rfl
@[simp] theorem exec_nop (s : State) (f) : exec (.nop f) s = execNop f s := rfl
@[simp] theorem exec_trap (s : State) (f) : exec (.trap f) s = execTrap f s := rfl
@[simp] theorem exec_tret (s : State) (f) : exec (.tret f) s = execTret f s := rfl
@[simp] theorem exec_mfsr (s : State) (f) : exec (.mfsr f) s = execMfsr f s := rfl
@[simp] theorem exec_mtsr (s : State) (f) : exec (.mtsr f) s = execMtsr f s := rfl
@[simp] theorem exec_dqpush (s : State) (f) : exec (.dqpush f) s = execDqpush f s := rfl
@[simp] theorem exec_dqpop (s : State) (f) : exec (.dqpop f) s = execDqpop f s := rfl
@[simp] theorem exec_nbar (s : State) (f) : exec (.nbar f) s = execNbar f s := rfl
@[simp] theorem exec_nbw (s : State) (f) : exec (.nbw f) s = execNbw f s := rfl
@[simp] theorem exec_grjoin (s : State) (f) : exec (.grjoin f) s = execGrjoin f s := rfl
@[simp] theorem exec_grleave (s : State) (f) : exec (.grleave f) s = execGrleave f s := rfl
@[simp] theorem exec_crbeg (s : State) (f) : exec (.crbeg f) s = execCrbeg f s := rfl
@[simp] theorem exec_crend (s : State) (f) : exec (.crend f) s = execCrend f s := rfl
@[simp] theorem exec_sysrpc (s : State) (f) : exec (.sysrpc f) s = execSysrpc f s := rfl
@[simp] theorem exec_kick (s : State) (f) : exec (.kick f) s = execKick f s := rfl
@[simp] theorem exec_diagInj (s : State) (f) : exec (.diagInj f) s = execDiagInj f s := rfl
@[simp] theorem exec_wrecv (s : State) (f) : exec (.wrecv f) s = execWrecv f s := rfl
@[simp] theorem exec_wemit (s : State) (f) : exec (.wemit f) s = execWemit f s := rfl
@[simp] theorem exec_wclose (s : State) (f) : exec (.wclose f) s = execWclose f s := rfl
@[simp] theorem exec_wcloseId (s : State) (f) : exec (.wcloseId f) s = execWcloseId f s := rfl
@[simp] theorem exec_wcloseEnd (s : State) (f) : exec (.wcloseEnd f) s = execWcloseEnd f s := rfl
@[simp] theorem exec_wmret (s : State) (f) : exec (.wmret f) s = execWmret f s := rfl
@[simp] theorem exec_wtimer (s : State) (f) : exec (.wtimer f) s = execWtimer f s := rfl
@[simp] theorem exec_wstat (s : State) (f) : exec (.wstat f) s = execWstat f s := rfl
@[simp] theorem exec_holdLock (s : State) (f) : exec (.holdLock f) s = execHoldLock f s := rfl
@[simp] theorem exec_holdSlot (s : State) (f) : exec (.holdSlot f) s = execHoldSlot f s := rfl
@[simp] theorem exec_holdCopy (s : State) (f) : exec (.holdCopy f) s = execHoldCopy f s := rfl
@[simp] theorem exec_heir (s : State) (f) : exec (.heir f) s = execHeir f s := rfl
@[simp] theorem exec_heirSlot (s : State) (f) : exec (.heirSlot f) s = execHeirSlot f s := rfl
@[simp] theorem exec_heirGrp (s : State) (f) : exec (.heirGrp f) s = execHeirGrp f s := rfl
@[simp] theorem exec_drop (s : State) (f) : exec (.drop f) s = execDrop f s := rfl
@[simp] theorem exec_dropSlot (s : State) (f) : exec (.dropSlot f) s = execDropSlot f s := rfl
@[simp] theorem exec_promise (s : State) (f) : exec (.promise f) s = execPromise f s := rfl
@[simp] theorem exec_fulfil (s : State) (f) : exec (.fulfil f) s = execFulfil f s := rfl
@[simp] theorem exec_estqInfo (s : State) (f) : exec (.estqInfo f) s = execEstqInfo f s := rfl
@[simp] theorem exec_estqObj (s : State) (f) : exec (.estqObj f) s = execEstqObj f s := rfl
@[simp] theorem exec_estqFrom (s : State) (f) : exec (.estqFrom f) s = execEstqFrom f s := rfl
@[simp] theorem exec_estqMask (s : State) (f) : exec (.estqMask f) s = execEstqMask f s := rfl
@[simp] theorem exec_qrld (s : State) (f) : exec (.qrld f) s = execQrld f s := rfl
@[simp] theorem exec_qrseed (s : State) (f) : exec (.qrseed f) s = execQrseed f s := rfl
@[simp] theorem exec_qrseedKey (s : State) (f) : exec (.qrseedKey f) s = execQrseedKey f s := rfl
@[simp] theorem exec_qrpt (s : State) (f) : exec (.qrpt f) s = execQrpt f s := rfl
@[simp] theorem exec_qrpt4 (s : State) (f) : exec (.qrpt4 f) s = execQrpt4 f s := rfl
@[simp] theorem exec_qrf (s : State) (f) : exec (.qrf f) s = execQrf f s := rfl
@[simp] theorem exec_qrhash (s : State) (f) : exec (.qrhash f) s = execQrhash f s := rfl
@[simp] theorem exec_qrhashK (s : State) (f) : exec (.qrhashK f) s = execQrhashK f s := rfl
@[simp] theorem exec_qcset (s : State) (f) : exec (.qcset f) s = execQcset f s := rfl
@[simp] theorem exec_mzero (s : State) (f) : exec (.mzero f) s = execMzero f s := rfl
@[simp] theorem exec_mma (s : State) (f) : exec (.mma f) s = execMma f s := rfl
@[simp] theorem exec_mdrain (s : State) (f) : exec (.mdrain f) s = execMdrain f s := rfl
@[simp] theorem exec_epld (s : State) (f) : exec (.epld f) s = execEpld f s := rfl
@[simp] theorem exec_cpb (s : State) (f) : exec (.cpb f) s = execCpb f s := rfl
@[simp] theorem exec_coll (s : State) (f) : exec (.coll f) s = execColl f s := rfl
@[simp] theorem exec_launch (s : State) (f) : exec (.launch f) s = execLaunch f s := rfl
@[simp] theorem exec_launchEst (s : State) (f) : exec (.launchEst f) s = execLaunchEst f s := rfl
@[simp] theorem exec_esNop (s : State) : exec .esNop s = execEsNop s := rfl
@[simp] theorem exec_esMov (s : State) (d a) : exec (.esMov d a) s = execEsMov d a s := rfl
@[simp] theorem exec_esAdd (s : State) (d a b) : exec (.esAdd d a b) s = execEsAdd d a b s := rfl
@[simp] theorem exec_esMul (s : State) (d a b) : exec (.esMul d a b) s = execEsMul d a b s := rfl
@[simp] theorem exec_esFma (s : State) (d a b c) : exec (.esFma d a b c) s = execEsFma d a b c s := rfl
@[simp] theorem exec_esMax (s : State) (d a b) : exec (.esMax d a b) s = execEsMax d a b s := rfl
@[simp] theorem exec_esMin (s : State) (d a b) : exec (.esMin d a b) s = execEsMin d a b s := rfl
@[simp] theorem exec_esScale (s : State) (d a k) : exec (.esScale d a k) s = execEsScale d a k s := rfl
@[simp] theorem exec_esBias (s : State) (d a k) : exec (.esBias d a k) s = execEsBias d a k s := rfl
@[simp] theorem exec_esClamp (s : State) (d a k) : exec (.esClamp d a k) s = execEsClamp d a k s := rfl
@[simp] theorem exec_esExp2 (s : State) (d a) : exec (.esExp2 d a) s = execEsExp2 d a s := rfl
@[simp] theorem exec_esRcp (s : State) (d a) : exec (.esRcp d a) s = execEsRcp d a s := rfl
@[simp] theorem exec_esLut (s : State) (d a n k) : exec (.esLut d a n k) s = execEsLut d a n k s := rfl
@[simp] theorem exec_esCmp (s : State) (a b c) : exec (.esCmp a b c) s = execEsCmp a b c s := rfl
@[simp] theorem exec_esSel (s : State) (d a b) : exec (.esSel d a b) s = execEsSel d a b s := rfl
@[simp] theorem exec_esLd (s : State) (d m k) : exec (.esLd d m k) s = execEsLd d m k s := rfl
@[simp] theorem exec_esHxq (s : State) (d a n) : exec (.esHxq d a n) s = execEsHxq d a n s := rfl
@[simp] theorem exec_esCvt (s : State) (d a n) : exec (.esCvt d a n) s = execEsCvt d a n s := rfl
@[simp] theorem exec_esSt (s : State) (a w) : exec (.esSt a w) s = execEsSt a w s := rfl
@[simp] theorem exec_esStt (s : State) (a) : exec (.esStt a) s = execEsStt a s := rfl
@[simp] theorem exec_esLoop (s : State) (c t) : exec (.esLoop c t) s = execEsLoop c t s := rfl
@[simp] theorem exec_esEnd (s : State) : exec .esEnd s = execEsEnd s := rfl
@[simp] theorem exec_waveIssue (s : State) : exec .waveIssue s = execWaveIssue s := rfl
@[simp] theorem exec_longLatencyCompletion (s : State) (w) : exec (.longLatencyCompletion w) s = execLongLatencyCompletion w s := rfl
@[simp] theorem exec_reductionDrain (s : State) (core quarter) : exec (.reductionDrain core quarter) s = execReductionDrain core quarter s := rfl
@[simp] theorem exec_tableWalk (s : State) (part va kind who) : exec (.tableWalk part va kind who) s = execTableWalk part va kind who s := rfl
@[simp] theorem exec_resolveRetry (s : State) (part die seq) : exec (.resolveRetry part die seq) s = execResolveRetry part die seq s := rfl
@[simp] theorem exec_resolveTrap (s : State) (part die seq) : exec (.resolveTrap part die seq) s = execResolveTrap part die seq s := rfl
@[simp] theorem exec_resolveKill (s : State) (part die seq) : exec (.resolveKill part die seq) s = execResolveKill part die seq s := rfl
@[simp] theorem exec_handlerStart (s : State) (core) : exec (.handlerStart core) s = execHandlerStart core s := rfl
@[simp] theorem exec_estateHandlerStart (s : State) (core) : exec (.estateHandlerStart core) s = execEstateHandlerStart core s := rfl
@[simp] theorem exec_groupEnd (s : State) (gid) : exec (.groupEnd gid) s = execGroupEnd gid s := rfl
@[simp] theorem exec_containmentUnwind (s : State) (gid epoch who oid cause addr) : exec (.containmentUnwind gid epoch who oid cause addr) s = execContainmentUnwind gid epoch who oid cause addr s := rfl
@[simp] theorem exec_groupSave (s : State) (gid) : exec (.groupSave gid) s = execGroupSave gid s := rfl
@[simp] theorem exec_groupRestore (s : State) (gid) : exec (.groupRestore gid) s = execGroupRestore gid s := rfl
@[simp] theorem exec_preemptionTimeout (s : State) (die lid) : exec (.preemptionTimeout die lid) s = execPreemptionTimeout die lid s := rfl
@[simp] theorem exec_groupPlacement (s : State) (die) : exec (.groupPlacement die) s = execGroupPlacement die s := rfl
@[simp] theorem exec_launchComplete (s : State) (lid) : exec (.launchComplete lid) s = execLaunchComplete lid s := rfl
@[simp] theorem exec_replayStart (s : State) (die) : exec (.replayStart die) s = execReplayStart die s := rfl
@[simp] theorem exec_nodeStart (s : State) (die graph node) : exec (.nodeStart die graph node) s = execNodeStart die graph node s := rfl
@[simp] theorem exec_arrayCommandStart (s : State) (core half) : exec (.arrayCommandStart core half) s = execArrayCommandStart core half s := rfl
@[simp] theorem exec_mmaKgroupStep (s : State) (core half) : exec (.mmaKgroupStep core half) s = execMmaKgroupStep core half s := rfl
@[simp] theorem exec_drainOutputEntry (s : State) (core half) : exec (.drainOutputEntry core half) s = execDrainOutputEntry core half s := rfl
@[simp] theorem exec_collectiveRun (s : State) (cid) : exec (.collectiveRun cid) s = execCollectiveRun cid s := rfl
@[simp] theorem exec_recordPlacement (s : State) (qid) : exec (.recordPlacement qid) s = execRecordPlacement qid s := rfl
@[simp] theorem exec_merge (s : State) (qid) : exec (.merge qid) s = execMerge qid s := rfl
@[simp] theorem exec_paneRecordMulticast (s : State) (qid) : exec (.paneRecordMulticast qid) s = execPaneRecordMulticast qid s := rfl
@[simp] theorem exec_fold (s : State) (qid wid) : exec (.fold qid wid) s = execFold qid wid s := rfl
@[simp] theorem exec_windowRestore (s : State) (qid wid) : exec (.windowRestore qid wid) s = execWindowRestore qid wid s := rfl
@[simp] theorem exec_bellWheelDue (s : State) (qid wid) : exec (.bellWheelDue qid wid) s = execBellWheelDue qid wid s := rfl
@[simp] theorem exec_windowTimerExpiry (s : State) (qid wid) : exec (.windowTimerExpiry qid wid) s = execWindowTimerExpiry qid wid s := rfl
@[simp] theorem exec_batchTimeout (s : State) (qid) : exec (.batchTimeout qid) s = execBatchTimeout qid s := rfl
@[simp] theorem exec_streamEnd (s : State) (qid) : exec (.streamEnd qid) s = execStreamEnd qid s := rfl
@[simp] theorem exec_scanRead (s : State) (qid) : exec (.scanRead qid) s = execScanRead qid s := rfl
@[simp] theorem exec_recordFrame (s : State) (h die streamNo recs) : exec (.recordFrame h die streamNo recs) s = execRecordFrame h die streamNo recs s := rfl
@[simp] theorem exec_lullEngage (s : State) (core quarter) : exec (.lullEngage core quarter) s = execLullEngage core quarter s := rfl
@[simp] theorem exec_lullRelease (s : State) (core quarter) : exec (.lullRelease core quarter) s = execLullRelease core quarter s := rfl
@[simp] theorem exec_lullRotation (s : State) (core) : exec (.lullRotation core) s = execLullRotation core s := rfl
@[simp] theorem exec_gustRefill (s : State) (router part) : exec (.gustRefill router part) s = execGustRefill router part s := rfl
@[simp] theorem exec_packetInjection (s : State) (p) : exec (.packetInjection p) s = execPacketInjection p s := rfl
@[simp] theorem exec_hamletReset (s : State) (router) : exec (.hamletReset router) s = execHamletReset router s := rfl
@[simp] theorem exec_laneRecalibration (s : State) (pair sublink dir lane pass) : exec (.laneRecalibration pair sublink dir lane pass) s = execLaneRecalibration pair sublink dir lane pass s := rfl
@[simp] theorem exec_imageSwitch (s : State) (target unit) : exec (.imageSwitch target unit) s = execImageSwitch target unit s := rfl
@[simp] theorem exec_coreRetirement (s : State) (core) : exec (.coreRetirement core) s = execCoreRetirement core s := rfl
@[simp] theorem exec_laneSwap (s : State) (die chan sub lane) : exec (.laneSwap die chan sub lane) s = execLaneSwap die chan sub lane s := rfl
@[simp] theorem exec_schedulerTakeover (s : State) (die reason) : exec (.schedulerTakeover die reason) s = execSchedulerTakeover die reason s := rfl
@[simp] theorem exec_clockStep (s : State) (cause watts) : exec (.clockStep cause watts) s = execClockStep cause watts s := rfl
@[simp] theorem exec_thermalTrip (s : State) : exec .thermalTrip s = execThermalTrip s := rfl
@[simp] theorem exec_illegalEncoding (s : State) (c w) : exec (.illegalEncoding c w) s = execIllegalEncoding c w s := rfl
@[simp] theorem exec_timeTermDue (s : State) (qid) : exec (.timeTermDue qid) s = execTimeTermDue qid s := rfl
@[simp] theorem exec_own (s : State) (h lease) : exec (.own h lease) s = execOwn h lease s := rfl
@[simp] theorem exec_yieldProc (s : State) (h newOwner) : exec (.yieldProc h newOwner) s = execYieldProc h newOwner s := rfl
@[simp] theorem exec_status (s : State) (h) : exec (.status h) s = execStatus h s := rfl
@[simp] theorem exec_graphLoad (s : State) (h die graph va len) : exec (.graphLoad h die graph va len) s = execGraphLoad h die graph va len s := rfl
@[simp] theorem exec_kickProc (s : State) (h die graph patch) : exec (.kickProc h die graph patch) s = execKickProc h die graph patch s := rfl
@[simp] theorem exec_map (s : State) (h va pfn size cls perm key) : exec (.map h va pfn size cls perm key) s = execMap h va pfn size cls perm key s := rfl
@[simp] theorem exec_unmap (s : State) (h va) : exec (.unmap h va) s = execUnmap h va s := rfl
@[simp] theorem exec_pageGive (s : State) (h va) : exec (.pageGive h va) s = execPageGive h va s := rfl
@[simp] theorem exec_pageTake (s : State) (h va) : exec (.pageTake h va) s = execPageTake h va s := rfl
@[simp] theorem exec_write (s : State) (h va bytes) : exec (.write h va bytes) s = execWrite h va bytes s := rfl
@[simp] theorem exec_read (s : State) (h va len) : exec (.read h va len) s = execRead h va len s := rfl
@[simp] theorem exec_notify (s : State) (h index value) : exec (.notify h index value) s = execNotify h index value s := rfl
@[simp] theorem exec_logRead (s : State) (h first count) : exec (.logRead h first count) s = execLogRead h first count s := rfl
@[simp] theorem exec_update (s : State) (h payload) : exec (.update h payload) s = execUpdate h payload s := rfl
@[simp] theorem exec_attest (s : State) (h nonce) : exec (.attest h nonce) s = execAttest h nonce s := rfl
@[simp] theorem exec_otherProcedure (s : State) (h) : exec (.otherProcedure h) s = execOtherProcedure h s := rfl
@[simp] theorem exec_kill (s : State) (part grp) : exec (.kill part grp) s = execKill part grp s := rfl
@[simp] theorem exec_vacate (s : State) (part n) : exec (.vacate part n) s = execVacate part n s := rfl
@[simp] theorem exec_notifyReset (s : State) (part index) : exec (.notifyReset part index) s = execNotifyReset part index s := rfl
@[simp] theorem exec_rconsWrite (s : State) (part die v) : exec (.rconsWrite part die v) s = execRconsWrite part die v s := rfl
@[simp] theorem exec_notifyFillStore (s : State) (core va v) : exec (.notifyFillStore core va v) s = execNotifyFillStore core va v s := rfl
@[simp] theorem exec_registerWrite (s : State) (r v) : exec (.registerWrite r v) s = execRegisterWrite r v s := rfl
@[simp] theorem exec_partitionBoundarySet (s : State) (part b) : exec (.partitionBoundarySet part b) s = execPartitionBoundarySet part b s := rfl
@[simp] theorem exec_powerOn (s : State) (failed) : exec (.powerOn failed) s = execPowerOn failed s := rfl
@[simp] theorem exec_transferResend (s : State) (req die lane daddr va crossing) : exec (.transferResend req die lane daddr va crossing) s = execTransferResend req die lane daddr va crossing s := rfl
@[simp] theorem exec_portRecalibration (s : State) (port) : exec (.portRecalibration port) s = execPortRecalibration port s := rfl
@[simp] theorem exec_flitReplay (s : State) (pair sublink dir lane) : exec (.flitReplay pair sublink dir lane) s = execFlitReplay pair sublink dir lane s := rfl
@[simp] theorem exec_fabricPortUp (s : State) (port) : exec (.fabricPortUp port) s = execFabricPortUp port s := rfl
@[simp] theorem exec_timeLock (s : State) (locked ppm) : exec (.timeLock locked ppm) s = execTimeLock locked ppm s := rfl

end Sys2Proof.Machine
end

