-- ==== Sys2Proof/Laws/Store.lean ====
section
/-! SUPPORT. The laws of the stores: every operation on a sparse array keeps its canonical form, a read after a write answers what
was written and leaves every other key alone, and the same for keyed lists of records and for little-endian bytes. -/

namespace Sys2Proof.Machine

/-! ## The canonical form -/

theorem Sparse.wfFrom_cons {w : Nat} {lo : Nat} {e : Nat × BitVec w} {r : Sparse w} :
    Sparse.wfFrom lo (e :: r) = true ↔ lo ≤ e.1 ∧ e.2 ≠ 0 ∧ Sparse.wfFrom (e.1 + 1) r = true := by
  simp only [Sparse.wfFrom, Bool.and_eq_true, decide_eq_true_eq, and_assoc]

theorem Sparse.wfFrom_mono {w : Nat} {lo lo' : Nat} {m : Sparse w} (h : Sparse.wfFrom lo m = true) (hl : lo' ≤ lo) :
    Sparse.wfFrom lo' m = true := by
  cases m with
  | nil => rfl
  | cons e r => rw [Sparse.wfFrom_cons] at h ⊢; exact ⟨by omega, h.2⟩

/-- A key below every listed one reads zero. -/
theorem Sparse.rd_below {w : Nat} {m : Sparse w} {lo k : Nat} (h : Sparse.wfFrom lo m = true) (hk : k < lo) : Sparse.rd m k = 0 := by
  induction m generalizing lo with
  | nil => rfl
  | cons e r ih =>
    simp only [Sparse.wfFrom, Bool.and_eq_true, decide_eq_true_eq] at h
    simp only [Sparse.rd, show e.1 ≠ k by omega, if_false]
    exact ih h.2 (by omega)

theorem Sparse.wr_wfFrom {w : Nat} {m : Sparse w} {lo k : Nat} {v : BitVec w} (h : Sparse.wfFrom lo m = true) (hk : lo ≤ k) :
    Sparse.wfFrom lo (Sparse.wr m k v) = true := by
  induction m generalizing lo with
  | nil =>
    unfold Sparse.wr
    split
    · rfl
    · exact Sparse.wfFrom_cons.mpr ⟨hk, by assumption, rfl⟩
  | cons e r ih =>
    obtain ⟨ha, hx, hr⟩ := Sparse.wfFrom_cons.mp h
    unfold Sparse.wr
    split
    · split
      · exact h
      · exact Sparse.wfFrom_cons.mpr ⟨hk, by assumption, Sparse.wfFrom_cons.mpr ⟨by simpa using by omega, hx, hr⟩⟩
    · split
      · subst k
        split
        · exact Sparse.wfFrom_mono hr (by omega)
        · exact Sparse.wfFrom_cons.mpr ⟨hk, by assumption, hr⟩
      · exact Sparse.wfFrom_cons.mpr ⟨ha, hx, ih hr (by simp only; omega)⟩

/-- A write keeps the canonical form. -/
theorem Sparse.wr_wf {w : Nat} {m : Sparse w} {k : Nat} {v : BitVec w} (h : Sparse.wf m = true) : Sparse.wf (Sparse.wr m k v) = true :=
  Sparse.wr_wfFrom h (Nat.zero_le k)

/-- Consecutive writes keep the canonical form. -/
theorem Sparse.wrList_wf {w : Nat} {vs : List (BitVec w)} {m : Sparse w} {k : Nat} (h : Sparse.wf m = true) :
    Sparse.wf (Sparse.wrList m k vs) = true := by
  induction vs generalizing m k with
  | nil => exact h
  | cons v r ih => exact ih (Sparse.wr_wf h)

theorem Sparse.filter_wfFrom {w : Nat} {m : Sparse w} {lo : Nat} (p : Nat × BitVec w → Bool) (h : Sparse.wfFrom lo m = true) :
    Sparse.wfFrom lo (m.filter p) = true := by
  induction m generalizing lo with
  | nil => rfl
  | cons e r ih =>
    simp only [Sparse.wfFrom, Bool.and_eq_true, decide_eq_true_eq] at h
    by_cases hp : p e = true
    · simp only [List.filter_cons, hp, if_true, Sparse.wfFrom, Bool.and_eq_true, decide_eq_true_eq]
      exact ⟨h.1, ih h.2⟩
    · simp only [List.filter_cons, hp, Bool.false_eq_true, if_false]
      exact Sparse.wfFrom_mono (ih h.2) (by omega)

/-- Dropping entries keeps the canonical form. -/
theorem Sparse.filter_wf {w : Nat} {m : Sparse w} (p : Nat × BitVec w → Bool) (h : Sparse.wf m = true) : Sparse.wf (m.filter p) = true :=
  Sparse.filter_wfFrom p h

/-- Clearing a range keeps the canonical form. -/
theorem Sparse.clear_wf {w : Nat} {m : Sparse w} {lo hi : Nat} (h : Sparse.wf m = true) : Sparse.wf (Sparse.clear m lo hi) = true :=
  Sparse.filter_wf _ h

/-- A list of values as a store is canonical above its first key, and holds no key beyond its last. -/
theorem Sparse.ofList_wfFrom {w : Nat} {vs : List (BitVec w)} {k : Nat} :
    Sparse.wfFrom k (Sparse.ofList k vs) = true ∧ ∀ e ∈ Sparse.ofList k vs, e.1 < k + vs.length := by
  induction vs generalizing k with
  | nil => simp [Sparse.ofList, Sparse.wfFrom]
  | cons v r ih =>
    obtain ⟨h1, h2⟩ := ih (k := k + 1)
    simp only [Sparse.ofList, List.length_cons]
    split
    · exact ⟨Sparse.wfFrom_mono h1 (by omega), fun e he => by have := h2 e he; omega⟩
    · rename_i hv
      refine ⟨Sparse.wfFrom_cons.mpr ⟨Nat.le_refl k, hv, h1⟩, fun e he => ?_⟩
      rcases List.mem_cons.mp he with rfl | he
      · show k < _; omega
      · have := h2 e he; omega

/-- Two canonical stores joined: the keys of the first lie below the second's bound. -/
theorem Sparse.append_wfFrom {w : Nat} {m n : Sparse w} {lo mid : Nat} (hm : Sparse.wfFrom lo m = true) (hn : Sparse.wfFrom mid n = true)
    (hl : lo ≤ mid) (hk : ∀ e ∈ m, e.1 < mid) : Sparse.wfFrom lo (m ++ n) = true := by
  induction m generalizing lo with
  | nil => exact Sparse.wfFrom_mono hn hl
  | cons e r ih =>
    simp only [Sparse.wfFrom, Bool.and_eq_true, decide_eq_true_eq] at hm
    simp only [List.cons_append, Sparse.wfFrom, Bool.and_eq_true, decide_eq_true_eq]
    have := hk e (List.mem_cons_self ..)
    exact ⟨hm.1, ih hm.2 (by omega) fun x hx => hk x (List.mem_cons_of_mem _ hx)⟩

/-- The entries of a canonical store from a key on are canonical above that key. -/
theorem Sparse.filter_ge_wfFrom {w : Nat} {m : Sparse w} {lo k : Nat} (h : Sparse.wfFrom lo m = true) :
    Sparse.wfFrom k (m.filter fun e => decide (k ≤ e.1)) = true := by
  induction m generalizing lo with
  | nil => rfl
  | cons e r ih =>
    simp only [Sparse.wfFrom, Bool.and_eq_true, decide_eq_true_eq] at h
    by_cases hk : k ≤ e.1
    · simp only [List.filter_cons, hk, decide_true, if_true, Sparse.wfFrom, Bool.and_eq_true, decide_eq_true_eq]
      exact ⟨⟨trivial, h.1.2⟩, Sparse.filter_wfFrom _ h.2⟩
    · simp only [List.filter_cons, hk, decide_false, Bool.false_eq_true, if_false]
      exact ih h.2

/-- Putting a list of values keeps the canonical form. -/
theorem Sparse.setRange_wf {w : Nat} {m : Sparse w} {k : Nat} {vs : List (BitVec w)} (h : Sparse.wf m = true) :
    Sparse.wf (Sparse.setRange m k vs) = true := by
  obtain ⟨h1, h2⟩ := Sparse.ofList_wfFrom (vs := vs) (k := k)
  have h3 : Sparse.wfFrom (k + vs.length) (m.filter fun e => decide (k + vs.length ≤ e.1)) = true := Sparse.filter_ge_wfFrom h
  unfold Sparse.setRange Sparse.wf
  rw [List.append_assoc]
  refine Sparse.append_wfFrom (Sparse.filter_wfFrom _ h) (Sparse.append_wfFrom h1 h3 (by omega) h2) (Nat.zero_le k) ?_
  intro e he
  simpa using (List.mem_filter.mp he).2

theorem Sparse.map_add_wfFrom {w : Nat} {m : Sparse w} {lo k : Nat} (h : Sparse.wfFrom lo m = true) :
    Sparse.wfFrom (k + lo) (m.map fun e => (k + e.1, e.2)) = true := by
  induction m generalizing lo with
  | nil => rfl
  | cons e r ih =>
    simp only [Sparse.wfFrom, Bool.and_eq_true, decide_eq_true_eq] at h
    simp only [List.map_cons, Sparse.wfFrom, Bool.and_eq_true, decide_eq_true_eq]
    exact ⟨⟨by omega, h.1.2⟩, ih h.2⟩

theorem Sparse.slice_wfFrom {w : Nat} {m : Sparse w} {lo b n : Nat} (h : Sparse.wfFrom b m = true) :
    Sparse.wfFrom (b - lo) (Sparse.slice m lo n) = true := by
  induction m generalizing b with
  | nil => rfl
  | cons e r ih =>
    simp only [Sparse.wfFrom, Bool.and_eq_true, decide_eq_true_eq] at h
    have hr := ih h.2
    unfold Sparse.slice at hr ⊢
    by_cases hp : lo ≤ e.1 ∧ e.1 < lo + n
    · simp only [List.filter_cons, hp.1, hp.2, decide_true, Bool.and_true, if_true, List.map_cons, Sparse.wfFrom,
        Bool.and_eq_true, decide_eq_true_eq]
      exact ⟨⟨by omega, h.1.2⟩, Sparse.wfFrom_mono hr (by omega)⟩
    · have : (decide (lo ≤ e.1) && decide (e.1 < lo + n)) = false := by simpa using hp
      simp only [List.filter_cons, this, Bool.false_eq_true, if_false]
      exact Sparse.wfFrom_mono hr (by omega)

/-- A slice is canonical, and its keys lie below its length. -/
theorem Sparse.slice_wf {w : Nat} {m : Sparse w} {lo n : Nat} (h : Sparse.wf m = true) :
    Sparse.wf (Sparse.slice m lo n) = true ∧ ∀ e ∈ Sparse.slice m lo n, e.1 < n := by
  refine ⟨Sparse.wfFrom_mono (Sparse.slice_wfFrom h) (Nat.zero_le _), fun e he => ?_⟩
  simp only [Sparse.slice, List.mem_map, List.mem_filter, Bool.and_eq_true, decide_eq_true_eq] at he
  obtain ⟨x, ⟨-, h1, h2⟩, rfl⟩ := he
  show x.1 - lo < n
  omega

/-- Pasting a canonical slice whose keys lie below its length keeps the canonical form. -/
theorem Sparse.paste_wf {w : Nat} {m sl : Sparse w} {lo n : Nat} (h : Sparse.wf m = true) (hs : Sparse.wf sl = true)
    (hk : ∀ e ∈ sl, e.1 < n) : Sparse.wf (Sparse.paste m lo n sl) = true := by
  have h1 : Sparse.wfFrom lo (sl.map fun e => (lo + e.1, e.2)) = true := Sparse.map_add_wfFrom (lo := 0) hs
  have h3 : Sparse.wfFrom (lo + n) (m.filter fun e => decide (lo + n ≤ e.1)) = true := Sparse.filter_ge_wfFrom h
  unfold Sparse.paste Sparse.wf
  rw [List.append_assoc]
  refine Sparse.append_wfFrom (Sparse.filter_wfFrom _ h) (Sparse.append_wfFrom h1 h3 (by omega) ?_) (Nat.zero_le lo) ?_
  · intro e he
    obtain ⟨x, hx, rfl⟩ := List.mem_map.mp he
    have := hk x hx
    show lo + x.1 < _
    omega
  · intro e he
    simpa using (List.mem_filter.mp he).2

/-! ## Reading after writing -/

/-- A read after a write to the same key answers the value written. -/
@[simp] theorem Sparse.rd_wr_same {w : Nat} {m : Sparse w} {k : Nat} {v : BitVec w} (h : Sparse.wf m = true) :
    Sparse.rd (Sparse.wr m k v) k = v := by
  suffices ∀ (m : Sparse w) lo, Sparse.wfFrom lo m = true → Sparse.rd (Sparse.wr m k v) k = v from this m 0 h
  intro m
  induction m with
  | nil =>
    intro lo _
    unfold Sparse.wr
    split
    · simp_all [Sparse.rd]
    · simp [Sparse.rd]
  | cons e r ih =>
    intro lo h
    obtain ⟨ha, hx, hr⟩ := Sparse.wfFrom_cons.mp h
    unfold Sparse.wr
    split
    · split
      · simp only [Sparse.rd, show e.1 ≠ k by omega, if_false]
        rw [Sparse.rd_below hr (by omega)]
        exact Eq.symm ‹_›
      · simp [Sparse.rd]
    · split
      · split
        · rw [Sparse.rd_below hr (by omega)]
          exact Eq.symm ‹_›
        · simp [Sparse.rd]
      · simp only [Sparse.rd, show e.1 ≠ k by omega, if_false]
        exact ih _ hr

/-- A write leaves every other key alone. -/
@[simp] theorem Sparse.rd_wr_other {w : Nat} {m : Sparse w} {k j : Nat} {v : BitVec w} (hj : j ≠ k) :
    Sparse.rd (Sparse.wr m k v) j = Sparse.rd m j := by
  induction m with
  | nil =>
    unfold Sparse.wr
    split <;> simp [Sparse.rd, Ne.symm hj]
  | cons e r ih =>
    unfold Sparse.wr
    split
    · split
      · rfl
      · rw [Sparse.rd, if_neg (Ne.symm hj)]
    · split
      · subst k
        split <;> simp [Sparse.rd, Ne.symm hj]
      · simp only [Sparse.rd, ih]

/-- Consecutive writes leave every key outside them alone. -/
theorem Sparse.rd_wrList_outside {w : Nat} {vs : List (BitVec w)} {m : Sparse w} {k j : Nat} (hj : j < k ∨ k + vs.length ≤ j) :
    Sparse.rd (Sparse.wrList m k vs) j = Sparse.rd m j := by
  induction vs generalizing m k with
  | nil => rfl
  | cons v r ih =>
    simp only [List.length_cons] at hj
    rw [Sparse.wrList, ih (by omega), Sparse.rd_wr_other (by omega)]

/-- A read inside consecutive writes answers the value written there. -/
theorem Sparse.rd_wrList_inside {w : Nat} {vs : List (BitVec w)} {m : Sparse w} {k i : Nat} (h : Sparse.wf m = true)
    (hi : i < vs.length) : Sparse.rd (Sparse.wrList m k vs) (k + i) = vs[i] := by
  induction vs generalizing m k i with
  | nil => simp at hi
  | cons v r ih =>
    cases i with
    | zero => rw [Sparse.wrList, Sparse.rd_wrList_outside (by omega)]; exact Sparse.rd_wr_same h
    | succ i =>
      have := ih (m := Sparse.wr m k v) (k := k + 1) (i := i) (Sparse.wr_wf h) (by simpa using hi)
      simpa [Sparse.wrList, Nat.add_assoc, Nat.add_comm 1] using this

/-- A read in a cleared range answers zero, elsewhere what was there. -/
theorem Sparse.rd_clear {w : Nat} {m : Sparse w} {lo hi k : Nat} :
    Sparse.rd (Sparse.clear m lo hi) k = if lo ≤ k ∧ k < hi then 0 else Sparse.rd m k := by
  unfold Sparse.clear
  induction m with
  | nil => simp [Sparse.rd]
  | cons e r ih =>
    obtain ⟨a, x⟩ := e
    by_cases ha : a < lo ∨ hi ≤ a
    · have : (decide (a < lo) || decide (hi ≤ a)) = true := by simpa using ha
      simp only [List.filter_cons, this, if_true, Sparse.rd, ih]
      by_cases hk : a = k
      · subst hk
        have : ¬(lo ≤ a ∧ a < hi) := by omega
        simp [this]
      · simp [hk]
    · have : (decide (a < lo) || decide (hi ≤ a)) = false := by simpa using ha
      simp only [List.filter_cons, this, Bool.false_eq_true, if_false, Sparse.rd, ih]
      by_cases hk : a = k
      · subst hk
        have : lo ≤ a ∧ a < hi := by omega
        simp [this]
      · simp [hk]

/-! ## Keyed lists of records -/

section
variable {κ α : Type} [DecidableEq κ]

@[simp] theorem KV.at?_put_same {m : KV κ α} {k : κ} {v : α} : KV.at? (KV.put m k v) k = some v := by
  induction m with
  | nil => simp [KV.put, KV.at?]
  | cons e r ih =>
    simp only [KV.put]
    split <;> simp_all [KV.at?]

@[simp] theorem KV.at?_put_other {m : KV κ α} {k j : κ} {v : α} (h : j ≠ k) : KV.at? (KV.put m k v) j = KV.at? m j := by
  induction m with
  | nil => simp [KV.put, KV.at?, Ne.symm h]
  | cons e r ih =>
    simp only [KV.put]
    split
    · rename_i hk
      subst hk
      simp [KV.at?, Ne.symm h]
    · simp only [KV.at?, ih]

theorem KV.at?_upd_same {m : KV κ α} {k : κ} {f : α → α} : KV.at? (KV.upd m k f) k = (KV.at? m k).map f := by
  induction m with
  | nil => rfl
  | cons e r ih =>
    simp only [KV.upd, KV.at?]
    split <;> simp_all [KV.at?]

@[simp] theorem KV.at?_upd_other {m : KV κ α} {k j : κ} {f : α → α} (h : j ≠ k) : KV.at? (KV.upd m k f) j = KV.at? m j := by
  induction m with
  | nil => rfl
  | cons e r ih =>
    simp only [KV.upd]
    split
    · rename_i hk
      subst hk
      simp [KV.at?, Ne.symm h]
    · simp only [KV.at?, ih]

@[simp] theorem KV.at?_del_same {m : KV κ α} {k : κ} : KV.at? (KV.del m k) k = none := by
  unfold KV.del
  induction m with
  | nil => rfl
  | cons e r ih =>
    by_cases hk : e.1 = k
    · simpa [List.filter_cons, hk] using ih
    · simp [hk, KV.at?]
      simpa using ih

@[simp] theorem KV.at?_del_other {m : KV κ α} {k j : κ} (h : j ≠ k) : KV.at? (KV.del m k) j = KV.at? m j := by
  unfold KV.del
  induction m with
  | nil => rfl
  | cons e r ih =>
    by_cases hk : e.1 = k
    · have : e.1 ≠ j := fun hj => h (hj.symm.trans hk)
      simp only [List.filter_cons, hk, ne_eq, not_true_eq_false, decide_false, Bool.false_eq_true, if_false, KV.at?]
      rw [← hk, if_neg this]
      simpa [hk] using ih
    · simp only [List.filter_cons, hk, ne_eq, not_false_eq_true, decide_true, if_true, KV.at?]
      simp only [ne_eq] at ih
      rw [ih]

end

/-! ## Bytes -/

@[simp] theorem leBytes_length (n x : Nat) : (leBytes n x).length = n := by
  induction n generalizing x with
  | zero => rfl
  | succ n ih => simp [leBytes, ih]

/-- The little-endian bytes of a number assemble to it (R8). -/
@[simp] theorem leNat_leBytes (n x : Nat) : leNat (leBytes n x) = x % 2 ^ (8 * n) := by
  induction n generalizing x with
  | zero => simp [leBytes, leNat, Nat.mod_one]
  | succ n ih =>
    have h : 2 ^ (8 * (n + 1)) = 256 * 2 ^ (8 * n) := by rw [Nat.mul_add, Nat.pow_add]; omega
    simp only [leBytes, leNat, ih, BitVec.toNat_ofNat, h, Nat.mod_mul]

end Sys2Proof.Machine
end

