-- ==== Sys2Proof/Laws/State.lean ====
section
/-! SUPPORT. The laws of the state's updates: each named update of one entity leaves every other field of the state as it was, and a
read of the entity after its update answers what was put. -/

namespace Sys2Proof.Machine

/-! ## What each update leaves alone -/

/-- Putting a thread changes the threads alone. -/
@[simp] theorem State.setThread_frame (s : State) (w : Who) (t : Thread) :
    (s.setThread w t).clock = s.clock ∧ (s.setThread w t).time = s.time ∧
    (s.setThread w t).timeFrac = s.timeFrac ∧ (s.setThread w t).timeRate = s.timeRate ∧
    (s.setThread w t).mhz = s.mhz ∧ (s.setThread w t).timeLocked = s.timeLocked ∧
    (s.setThread w t).power = s.power ∧ (s.setThread w t).turns = s.turns ∧
    (s.setThread w t).sched = s.sched ∧ (s.setThread w t).turn = s.turn ∧
    (s.setThread w t).quadrant = s.quadrant ∧
    (s.setThread w t).waves = s.waves ∧
    (s.setThread w t).fetched = s.fetched ∧
    (s.setThread w t).cur = s.cur ∧
    (s.setThread w t).word = s.word ∧ (s.setThread w t).free = s.free ∧
    (s.setThread w t).ids = s.ids ∧ (s.setThread w t).mem = s.mem ∧
    (s.setThread w t).tags = s.tags ∧ (s.setThread w t).secKey = s.secKey ∧
    (s.setThread w t).flaws = s.flaws ∧ (s.setThread w t).groups = s.groups ∧
    (s.setThread w t).launches = s.launches ∧ (s.setThread w t).waits = s.waits ∧
    (s.setThread w t).faults = s.faults ∧ (s.setThread w t).cores = s.cores ∧
    (s.setThread w t).halves = s.halves ∧ (s.setThread w t).dies = s.dies ∧
    (s.setThread w t).cmds = s.cmds ∧ (s.setThread w t).colls = s.colls ∧
    (s.setThread w t).collNums = s.collNums ∧ (s.setThread w t).queries = s.queries ∧
    (s.setThread w t).saved = s.saved ∧ (s.setThread w t).parts = s.parts ∧
    (s.setThread w t).rvCores = s.rvCores ∧ (s.setThread w t).net = s.net ∧
    (s.setThread w t).fleet = s.fleet ∧ (s.setThread w t).logs = s.logs ∧
    (s.setThread w t).replies = s.replies ∧ (s.setThread w t).irqs = s.irqs := by
  and_intros <;> rfl

/-- Changing a thread changes the threads alone. -/
@[simp] theorem State.updThread_frame (s : State) (w : Who) (f : Thread → Thread) :
    (s.updThread w f).clock = s.clock ∧ (s.updThread w f).time = s.time ∧
    (s.updThread w f).timeFrac = s.timeFrac ∧ (s.updThread w f).timeRate = s.timeRate ∧
    (s.updThread w f).mhz = s.mhz ∧ (s.updThread w f).timeLocked = s.timeLocked ∧
    (s.updThread w f).power = s.power ∧ (s.updThread w f).turns = s.turns ∧
    (s.updThread w f).sched = s.sched ∧ (s.updThread w f).turn = s.turn ∧
    (s.updThread w f).quadrant = s.quadrant ∧
    (s.updThread w f).waves = s.waves ∧
    (s.updThread w f).fetched = s.fetched ∧
    (s.updThread w f).cur = s.cur ∧
    (s.updThread w f).word = s.word ∧ (s.updThread w f).free = s.free ∧
    (s.updThread w f).ids = s.ids ∧ (s.updThread w f).mem = s.mem ∧
    (s.updThread w f).tags = s.tags ∧ (s.updThread w f).secKey = s.secKey ∧
    (s.updThread w f).flaws = s.flaws ∧ (s.updThread w f).groups = s.groups ∧
    (s.updThread w f).launches = s.launches ∧ (s.updThread w f).waits = s.waits ∧
    (s.updThread w f).faults = s.faults ∧ (s.updThread w f).cores = s.cores ∧
    (s.updThread w f).halves = s.halves ∧ (s.updThread w f).dies = s.dies ∧
    (s.updThread w f).cmds = s.cmds ∧ (s.updThread w f).colls = s.colls ∧
    (s.updThread w f).collNums = s.collNums ∧ (s.updThread w f).queries = s.queries ∧
    (s.updThread w f).saved = s.saved ∧ (s.updThread w f).parts = s.parts ∧
    (s.updThread w f).rvCores = s.rvCores ∧ (s.updThread w f).net = s.net ∧
    (s.updThread w f).fleet = s.fleet ∧ (s.updThread w f).logs = s.logs ∧
    (s.updThread w f).replies = s.replies ∧ (s.updThread w f).irqs = s.irqs := by
  and_intros <;> rfl

/-- Removing a thread changes the threads alone. -/
@[simp] theorem State.delThread_frame (s : State) (w : Who) :
    (s.delThread w).clock = s.clock ∧ (s.delThread w).time = s.time ∧
    (s.delThread w).timeFrac = s.timeFrac ∧ (s.delThread w).timeRate = s.timeRate ∧
    (s.delThread w).mhz = s.mhz ∧ (s.delThread w).timeLocked = s.timeLocked ∧
    (s.delThread w).power = s.power ∧ (s.delThread w).turns = s.turns ∧
    (s.delThread w).sched = s.sched ∧ (s.delThread w).turn = s.turn ∧
    (s.delThread w).quadrant = s.quadrant ∧
    (s.delThread w).waves = s.waves ∧
    (s.delThread w).fetched = s.fetched ∧
    (s.delThread w).cur = s.cur ∧
    (s.delThread w).word = s.word ∧ (s.delThread w).free = s.free ∧
    (s.delThread w).ids = s.ids ∧ (s.delThread w).mem = s.mem ∧
    (s.delThread w).tags = s.tags ∧ (s.delThread w).secKey = s.secKey ∧
    (s.delThread w).flaws = s.flaws ∧ (s.delThread w).groups = s.groups ∧
    (s.delThread w).launches = s.launches ∧ (s.delThread w).waits = s.waits ∧
    (s.delThread w).faults = s.faults ∧ (s.delThread w).cores = s.cores ∧
    (s.delThread w).halves = s.halves ∧ (s.delThread w).dies = s.dies ∧
    (s.delThread w).cmds = s.cmds ∧ (s.delThread w).colls = s.colls ∧
    (s.delThread w).collNums = s.collNums ∧ (s.delThread w).queries = s.queries ∧
    (s.delThread w).saved = s.saved ∧ (s.delThread w).parts = s.parts ∧
    (s.delThread w).rvCores = s.rvCores ∧ (s.delThread w).net = s.net ∧
    (s.delThread w).fleet = s.fleet ∧ (s.delThread w).logs = s.logs ∧
    (s.delThread w).replies = s.replies ∧ (s.delThread w).irqs = s.irqs := by
  and_intros <;> rfl

/-- Changing a group changes the groups alone. -/
@[simp] theorem State.updGroup_frame (s : State) (g : Nat) (f : Group → Group) :
    (s.updGroup g f).clock = s.clock ∧ (s.updGroup g f).time = s.time ∧
    (s.updGroup g f).timeFrac = s.timeFrac ∧ (s.updGroup g f).timeRate = s.timeRate ∧
    (s.updGroup g f).mhz = s.mhz ∧ (s.updGroup g f).timeLocked = s.timeLocked ∧
    (s.updGroup g f).power = s.power ∧ (s.updGroup g f).turns = s.turns ∧
    (s.updGroup g f).sched = s.sched ∧ (s.updGroup g f).turn = s.turn ∧
    (s.updGroup g f).quadrant = s.quadrant ∧
    (s.updGroup g f).waves = s.waves ∧
    (s.updGroup g f).fetched = s.fetched ∧
    (s.updGroup g f).cur = s.cur ∧
    (s.updGroup g f).word = s.word ∧ (s.updGroup g f).free = s.free ∧
    (s.updGroup g f).ids = s.ids ∧ (s.updGroup g f).mem = s.mem ∧
    (s.updGroup g f).tags = s.tags ∧ (s.updGroup g f).secKey = s.secKey ∧
    (s.updGroup g f).flaws = s.flaws ∧ (s.updGroup g f).threads = s.threads ∧
    (s.updGroup g f).launches = s.launches ∧ (s.updGroup g f).waits = s.waits ∧
    (s.updGroup g f).faults = s.faults ∧ (s.updGroup g f).cores = s.cores ∧
    (s.updGroup g f).halves = s.halves ∧ (s.updGroup g f).dies = s.dies ∧
    (s.updGroup g f).cmds = s.cmds ∧ (s.updGroup g f).colls = s.colls ∧
    (s.updGroup g f).collNums = s.collNums ∧ (s.updGroup g f).queries = s.queries ∧
    (s.updGroup g f).saved = s.saved ∧ (s.updGroup g f).parts = s.parts ∧
    (s.updGroup g f).rvCores = s.rvCores ∧ (s.updGroup g f).net = s.net ∧
    (s.updGroup g f).fleet = s.fleet ∧ (s.updGroup g f).logs = s.logs ∧
    (s.updGroup g f).replies = s.replies ∧ (s.updGroup g f).irqs = s.irqs := by
  and_intros <;> rfl

/-- Changing a launch changes the launches alone. -/
@[simp] theorem State.updLaunch_frame (s : State) (l : Nat) (f : Launch → Launch) :
    (s.updLaunch l f).clock = s.clock ∧ (s.updLaunch l f).time = s.time ∧
    (s.updLaunch l f).timeFrac = s.timeFrac ∧ (s.updLaunch l f).timeRate = s.timeRate ∧
    (s.updLaunch l f).mhz = s.mhz ∧ (s.updLaunch l f).timeLocked = s.timeLocked ∧
    (s.updLaunch l f).power = s.power ∧ (s.updLaunch l f).turns = s.turns ∧
    (s.updLaunch l f).sched = s.sched ∧ (s.updLaunch l f).turn = s.turn ∧
    (s.updLaunch l f).quadrant = s.quadrant ∧
    (s.updLaunch l f).waves = s.waves ∧
    (s.updLaunch l f).fetched = s.fetched ∧
    (s.updLaunch l f).cur = s.cur ∧
    (s.updLaunch l f).word = s.word ∧ (s.updLaunch l f).free = s.free ∧
    (s.updLaunch l f).ids = s.ids ∧ (s.updLaunch l f).mem = s.mem ∧
    (s.updLaunch l f).tags = s.tags ∧ (s.updLaunch l f).secKey = s.secKey ∧
    (s.updLaunch l f).flaws = s.flaws ∧ (s.updLaunch l f).threads = s.threads ∧
    (s.updLaunch l f).groups = s.groups ∧ (s.updLaunch l f).waits = s.waits ∧
    (s.updLaunch l f).faults = s.faults ∧ (s.updLaunch l f).cores = s.cores ∧
    (s.updLaunch l f).halves = s.halves ∧ (s.updLaunch l f).dies = s.dies ∧
    (s.updLaunch l f).cmds = s.cmds ∧ (s.updLaunch l f).colls = s.colls ∧
    (s.updLaunch l f).collNums = s.collNums ∧ (s.updLaunch l f).queries = s.queries ∧
    (s.updLaunch l f).saved = s.saved ∧ (s.updLaunch l f).parts = s.parts ∧
    (s.updLaunch l f).rvCores = s.rvCores ∧ (s.updLaunch l f).net = s.net ∧
    (s.updLaunch l f).fleet = s.fleet ∧ (s.updLaunch l f).logs = s.logs ∧
    (s.updLaunch l f).replies = s.replies ∧ (s.updLaunch l f).irqs = s.irqs := by
  and_intros <;> rfl

/-- Changing a core changes the cores alone. -/
@[simp] theorem State.updCore_frame (s : State) (c : Nat) (f : CoreSt → CoreSt) :
    (s.updCore c f).clock = s.clock ∧ (s.updCore c f).time = s.time ∧
    (s.updCore c f).timeFrac = s.timeFrac ∧ (s.updCore c f).timeRate = s.timeRate ∧
    (s.updCore c f).mhz = s.mhz ∧ (s.updCore c f).timeLocked = s.timeLocked ∧
    (s.updCore c f).power = s.power ∧ (s.updCore c f).turns = s.turns ∧
    (s.updCore c f).sched = s.sched ∧ (s.updCore c f).turn = s.turn ∧
    (s.updCore c f).quadrant = s.quadrant ∧
    (s.updCore c f).waves = s.waves ∧
    (s.updCore c f).fetched = s.fetched ∧
    (s.updCore c f).cur = s.cur ∧
    (s.updCore c f).word = s.word ∧ (s.updCore c f).free = s.free ∧
    (s.updCore c f).ids = s.ids ∧ (s.updCore c f).mem = s.mem ∧
    (s.updCore c f).tags = s.tags ∧ (s.updCore c f).secKey = s.secKey ∧
    (s.updCore c f).flaws = s.flaws ∧ (s.updCore c f).threads = s.threads ∧
    (s.updCore c f).groups = s.groups ∧ (s.updCore c f).launches = s.launches ∧
    (s.updCore c f).waits = s.waits ∧ (s.updCore c f).faults = s.faults ∧
    (s.updCore c f).halves = s.halves ∧ (s.updCore c f).dies = s.dies ∧
    (s.updCore c f).cmds = s.cmds ∧ (s.updCore c f).colls = s.colls ∧
    (s.updCore c f).collNums = s.collNums ∧ (s.updCore c f).queries = s.queries ∧
    (s.updCore c f).saved = s.saved ∧ (s.updCore c f).parts = s.parts ∧
    (s.updCore c f).rvCores = s.rvCores ∧ (s.updCore c f).net = s.net ∧
    (s.updCore c f).fleet = s.fleet ∧ (s.updCore c f).logs = s.logs ∧
    (s.updCore c f).replies = s.replies ∧ (s.updCore c f).irqs = s.irqs := by
  and_intros <;> rfl

/-- Changing a half changes the halves alone. -/
@[simp] theorem State.updHalf_frame (s : State) (c h : Nat) (f : Half → Half) :
    (s.updHalf c h f).clock = s.clock ∧ (s.updHalf c h f).time = s.time ∧
    (s.updHalf c h f).timeFrac = s.timeFrac ∧ (s.updHalf c h f).timeRate = s.timeRate ∧
    (s.updHalf c h f).mhz = s.mhz ∧ (s.updHalf c h f).timeLocked = s.timeLocked ∧
    (s.updHalf c h f).power = s.power ∧ (s.updHalf c h f).turns = s.turns ∧
    (s.updHalf c h f).sched = s.sched ∧ (s.updHalf c h f).turn = s.turn ∧
    (s.updHalf c h f).quadrant = s.quadrant ∧
    (s.updHalf c h f).waves = s.waves ∧
    (s.updHalf c h f).fetched = s.fetched ∧
    (s.updHalf c h f).cur = s.cur ∧
    (s.updHalf c h f).word = s.word ∧ (s.updHalf c h f).free = s.free ∧
    (s.updHalf c h f).ids = s.ids ∧ (s.updHalf c h f).mem = s.mem ∧
    (s.updHalf c h f).tags = s.tags ∧ (s.updHalf c h f).secKey = s.secKey ∧
    (s.updHalf c h f).flaws = s.flaws ∧ (s.updHalf c h f).threads = s.threads ∧
    (s.updHalf c h f).groups = s.groups ∧ (s.updHalf c h f).launches = s.launches ∧
    (s.updHalf c h f).waits = s.waits ∧ (s.updHalf c h f).faults = s.faults ∧
    (s.updHalf c h f).cores = s.cores ∧ (s.updHalf c h f).dies = s.dies ∧
    (s.updHalf c h f).cmds = s.cmds ∧ (s.updHalf c h f).colls = s.colls ∧
    (s.updHalf c h f).collNums = s.collNums ∧ (s.updHalf c h f).queries = s.queries ∧
    (s.updHalf c h f).saved = s.saved ∧ (s.updHalf c h f).parts = s.parts ∧
    (s.updHalf c h f).rvCores = s.rvCores ∧ (s.updHalf c h f).net = s.net ∧
    (s.updHalf c h f).fleet = s.fleet ∧ (s.updHalf c h f).logs = s.logs ∧
    (s.updHalf c h f).replies = s.replies ∧ (s.updHalf c h f).irqs = s.irqs := by
  and_intros <;> rfl

/-- Changing a die changes the dies alone. -/
@[simp] theorem State.updDie_frame (s : State) (d : Nat) (f : Die → Die) :
    (s.updDie d f).clock = s.clock ∧ (s.updDie d f).time = s.time ∧
    (s.updDie d f).timeFrac = s.timeFrac ∧ (s.updDie d f).timeRate = s.timeRate ∧
    (s.updDie d f).mhz = s.mhz ∧ (s.updDie d f).timeLocked = s.timeLocked ∧
    (s.updDie d f).power = s.power ∧ (s.updDie d f).turns = s.turns ∧
    (s.updDie d f).sched = s.sched ∧ (s.updDie d f).turn = s.turn ∧
    (s.updDie d f).quadrant = s.quadrant ∧
    (s.updDie d f).waves = s.waves ∧
    (s.updDie d f).fetched = s.fetched ∧
    (s.updDie d f).cur = s.cur ∧
    (s.updDie d f).word = s.word ∧ (s.updDie d f).free = s.free ∧
    (s.updDie d f).ids = s.ids ∧ (s.updDie d f).mem = s.mem ∧
    (s.updDie d f).tags = s.tags ∧ (s.updDie d f).secKey = s.secKey ∧
    (s.updDie d f).flaws = s.flaws ∧ (s.updDie d f).threads = s.threads ∧
    (s.updDie d f).groups = s.groups ∧ (s.updDie d f).launches = s.launches ∧
    (s.updDie d f).waits = s.waits ∧ (s.updDie d f).faults = s.faults ∧
    (s.updDie d f).cores = s.cores ∧ (s.updDie d f).halves = s.halves ∧
    (s.updDie d f).cmds = s.cmds ∧ (s.updDie d f).colls = s.colls ∧
    (s.updDie d f).collNums = s.collNums ∧ (s.updDie d f).queries = s.queries ∧
    (s.updDie d f).saved = s.saved ∧ (s.updDie d f).parts = s.parts ∧
    (s.updDie d f).rvCores = s.rvCores ∧ (s.updDie d f).net = s.net ∧
    (s.updDie d f).fleet = s.fleet ∧ (s.updDie d f).logs = s.logs ∧
    (s.updDie d f).replies = s.replies ∧ (s.updDie d f).irqs = s.irqs := by
  and_intros <;> rfl

/-- Changing a partition changes the partitions alone. -/
@[simp] theorem State.updPart_frame (s : State) (p : Nat) (f : Part → Part) :
    (s.updPart p f).clock = s.clock ∧ (s.updPart p f).time = s.time ∧
    (s.updPart p f).timeFrac = s.timeFrac ∧ (s.updPart p f).timeRate = s.timeRate ∧
    (s.updPart p f).mhz = s.mhz ∧ (s.updPart p f).timeLocked = s.timeLocked ∧
    (s.updPart p f).power = s.power ∧ (s.updPart p f).turns = s.turns ∧
    (s.updPart p f).sched = s.sched ∧ (s.updPart p f).turn = s.turn ∧
    (s.updPart p f).quadrant = s.quadrant ∧
    (s.updPart p f).waves = s.waves ∧
    (s.updPart p f).fetched = s.fetched ∧
    (s.updPart p f).cur = s.cur ∧
    (s.updPart p f).word = s.word ∧ (s.updPart p f).free = s.free ∧
    (s.updPart p f).ids = s.ids ∧ (s.updPart p f).mem = s.mem ∧
    (s.updPart p f).tags = s.tags ∧ (s.updPart p f).secKey = s.secKey ∧
    (s.updPart p f).flaws = s.flaws ∧ (s.updPart p f).threads = s.threads ∧
    (s.updPart p f).groups = s.groups ∧ (s.updPart p f).launches = s.launches ∧
    (s.updPart p f).waits = s.waits ∧ (s.updPart p f).faults = s.faults ∧
    (s.updPart p f).cores = s.cores ∧ (s.updPart p f).halves = s.halves ∧
    (s.updPart p f).dies = s.dies ∧ (s.updPart p f).cmds = s.cmds ∧
    (s.updPart p f).colls = s.colls ∧ (s.updPart p f).collNums = s.collNums ∧
    (s.updPart p f).queries = s.queries ∧ (s.updPart p f).saved = s.saved ∧
    (s.updPart p f).rvCores = s.rvCores ∧ (s.updPart p f).net = s.net ∧
    (s.updPart p f).fleet = s.fleet ∧ (s.updPart p f).logs = s.logs ∧
    (s.updPart p f).replies = s.replies ∧ (s.updPart p f).irqs = s.irqs := by
  and_intros <;> rfl

/-- Changing a query changes the queries alone. -/
@[simp] theorem State.updQuery_frame (s : State) (q : Nat) (f : Query → Query) :
    (s.updQuery q f).clock = s.clock ∧ (s.updQuery q f).time = s.time ∧
    (s.updQuery q f).timeFrac = s.timeFrac ∧ (s.updQuery q f).timeRate = s.timeRate ∧
    (s.updQuery q f).mhz = s.mhz ∧ (s.updQuery q f).timeLocked = s.timeLocked ∧
    (s.updQuery q f).power = s.power ∧ (s.updQuery q f).turns = s.turns ∧
    (s.updQuery q f).sched = s.sched ∧ (s.updQuery q f).turn = s.turn ∧
    (s.updQuery q f).quadrant = s.quadrant ∧
    (s.updQuery q f).waves = s.waves ∧
    (s.updQuery q f).fetched = s.fetched ∧
    (s.updQuery q f).cur = s.cur ∧
    (s.updQuery q f).word = s.word ∧ (s.updQuery q f).free = s.free ∧
    (s.updQuery q f).ids = s.ids ∧ (s.updQuery q f).mem = s.mem ∧
    (s.updQuery q f).tags = s.tags ∧ (s.updQuery q f).secKey = s.secKey ∧
    (s.updQuery q f).flaws = s.flaws ∧ (s.updQuery q f).threads = s.threads ∧
    (s.updQuery q f).groups = s.groups ∧ (s.updQuery q f).launches = s.launches ∧
    (s.updQuery q f).waits = s.waits ∧ (s.updQuery q f).faults = s.faults ∧
    (s.updQuery q f).cores = s.cores ∧ (s.updQuery q f).halves = s.halves ∧
    (s.updQuery q f).dies = s.dies ∧ (s.updQuery q f).cmds = s.cmds ∧
    (s.updQuery q f).colls = s.colls ∧ (s.updQuery q f).collNums = s.collNums ∧
    (s.updQuery q f).saved = s.saved ∧ (s.updQuery q f).parts = s.parts ∧
    (s.updQuery q f).rvCores = s.rvCores ∧ (s.updQuery q f).net = s.net ∧
    (s.updQuery q f).fleet = s.fleet ∧ (s.updQuery q f).logs = s.logs ∧
    (s.updQuery q f).replies = s.replies ∧ (s.updQuery q f).irqs = s.irqs := by
  and_intros <;> rfl

/-- Changing a command changes the commands alone. -/
@[simp] theorem State.updCmd_frame (s : State) (c : Nat) (f : Cmd → Cmd) :
    (s.updCmd c f).clock = s.clock ∧ (s.updCmd c f).time = s.time ∧
    (s.updCmd c f).timeFrac = s.timeFrac ∧ (s.updCmd c f).timeRate = s.timeRate ∧
    (s.updCmd c f).mhz = s.mhz ∧ (s.updCmd c f).timeLocked = s.timeLocked ∧
    (s.updCmd c f).power = s.power ∧ (s.updCmd c f).turns = s.turns ∧
    (s.updCmd c f).sched = s.sched ∧ (s.updCmd c f).turn = s.turn ∧
    (s.updCmd c f).quadrant = s.quadrant ∧
    (s.updCmd c f).waves = s.waves ∧
    (s.updCmd c f).fetched = s.fetched ∧
    (s.updCmd c f).cur = s.cur ∧
    (s.updCmd c f).word = s.word ∧ (s.updCmd c f).free = s.free ∧
    (s.updCmd c f).ids = s.ids ∧ (s.updCmd c f).mem = s.mem ∧
    (s.updCmd c f).tags = s.tags ∧ (s.updCmd c f).secKey = s.secKey ∧
    (s.updCmd c f).flaws = s.flaws ∧ (s.updCmd c f).threads = s.threads ∧
    (s.updCmd c f).groups = s.groups ∧ (s.updCmd c f).launches = s.launches ∧
    (s.updCmd c f).waits = s.waits ∧ (s.updCmd c f).faults = s.faults ∧
    (s.updCmd c f).cores = s.cores ∧ (s.updCmd c f).halves = s.halves ∧
    (s.updCmd c f).dies = s.dies ∧ (s.updCmd c f).colls = s.colls ∧
    (s.updCmd c f).collNums = s.collNums ∧ (s.updCmd c f).queries = s.queries ∧
    (s.updCmd c f).saved = s.saved ∧ (s.updCmd c f).parts = s.parts ∧
    (s.updCmd c f).rvCores = s.rvCores ∧ (s.updCmd c f).net = s.net ∧
    (s.updCmd c f).fleet = s.fleet ∧ (s.updCmd c f).logs = s.logs ∧
    (s.updCmd c f).replies = s.replies ∧ (s.updCmd c f).irqs = s.irqs := by
  and_intros <;> rfl

/-- Dating an event changes the dated turns alone. -/
@[simp] theorem State.plan_frame (s : State) (k : Nat) (i : Instr) :
    (s.plan k i).clock = s.clock ∧ (s.plan k i).time = s.time ∧
    (s.plan k i).timeFrac = s.timeFrac ∧ (s.plan k i).timeRate = s.timeRate ∧
    (s.plan k i).mhz = s.mhz ∧ (s.plan k i).timeLocked = s.timeLocked ∧
    (s.plan k i).power = s.power ∧ (s.plan k i).turns = s.turns ∧
    (s.plan k i).turn = s.turn ∧
    (s.plan k i).quadrant = s.quadrant ∧
    (s.plan k i).waves = s.waves ∧
    (s.plan k i).fetched = s.fetched ∧
    (s.plan k i).cur = s.cur ∧ (s.plan k i).word = s.word ∧
    (s.plan k i).free = s.free ∧ (s.plan k i).ids = s.ids ∧
    (s.plan k i).mem = s.mem ∧ (s.plan k i).tags = s.tags ∧
    (s.plan k i).secKey = s.secKey ∧ (s.plan k i).flaws = s.flaws ∧
    (s.plan k i).threads = s.threads ∧ (s.plan k i).groups = s.groups ∧
    (s.plan k i).launches = s.launches ∧ (s.plan k i).waits = s.waits ∧
    (s.plan k i).faults = s.faults ∧ (s.plan k i).cores = s.cores ∧
    (s.plan k i).halves = s.halves ∧ (s.plan k i).dies = s.dies ∧
    (s.plan k i).cmds = s.cmds ∧ (s.plan k i).colls = s.colls ∧
    (s.plan k i).collNums = s.collNums ∧ (s.plan k i).queries = s.queries ∧
    (s.plan k i).saved = s.saved ∧ (s.plan k i).parts = s.parts ∧
    (s.plan k i).rvCores = s.rvCores ∧ (s.plan k i).net = s.net ∧
    (s.plan k i).fleet = s.fleet ∧ (s.plan k i).logs = s.logs ∧
    (s.plan k i).replies = s.replies ∧ (s.plan k i).irqs = s.irqs := by
  and_intros <;> rfl

/-- Dating a repeated execution changes the dated turns alone. -/
@[simp] theorem State.planRedo_frame (s : State) (k : Nat) (w : Who) (o : Nat) :
    (s.planRedo k w o).clock = s.clock ∧ (s.planRedo k w o).time = s.time ∧
    (s.planRedo k w o).timeFrac = s.timeFrac ∧ (s.planRedo k w o).timeRate = s.timeRate ∧
    (s.planRedo k w o).mhz = s.mhz ∧ (s.planRedo k w o).timeLocked = s.timeLocked ∧
    (s.planRedo k w o).power = s.power ∧ (s.planRedo k w o).turns = s.turns ∧
    (s.planRedo k w o).turn = s.turn ∧
    (s.planRedo k w o).quadrant = s.quadrant ∧
    (s.planRedo k w o).waves = s.waves ∧
    (s.planRedo k w o).fetched = s.fetched ∧
    (s.planRedo k w o).cur = s.cur ∧ (s.planRedo k w o).word = s.word ∧
    (s.planRedo k w o).free = s.free ∧ (s.planRedo k w o).ids = s.ids ∧
    (s.planRedo k w o).mem = s.mem ∧ (s.planRedo k w o).tags = s.tags ∧
    (s.planRedo k w o).secKey = s.secKey ∧ (s.planRedo k w o).flaws = s.flaws ∧
    (s.planRedo k w o).threads = s.threads ∧ (s.planRedo k w o).groups = s.groups ∧
    (s.planRedo k w o).launches = s.launches ∧ (s.planRedo k w o).waits = s.waits ∧
    (s.planRedo k w o).faults = s.faults ∧ (s.planRedo k w o).cores = s.cores ∧
    (s.planRedo k w o).halves = s.halves ∧ (s.planRedo k w o).dies = s.dies ∧
    (s.planRedo k w o).cmds = s.cmds ∧ (s.planRedo k w o).colls = s.colls ∧
    (s.planRedo k w o).collNums = s.collNums ∧ (s.planRedo k w o).queries = s.queries ∧
    (s.planRedo k w o).saved = s.saved ∧ (s.planRedo k w o).parts = s.parts ∧
    (s.planRedo k w o).rvCores = s.rvCores ∧ (s.planRedo k w o).net = s.net ∧
    (s.planRedo k w o).fleet = s.fleet ∧ (s.planRedo k w o).logs = s.logs ∧
    (s.planRedo k w o).replies = s.replies ∧ (s.planRedo k w o).irqs = s.irqs := by
  and_intros <;> rfl

/-- Raising an event changes the turns alone. -/
@[simp] theorem State.raise_frame (s : State) (i : Instr) :
    (s.raise i).clock = s.clock ∧ (s.raise i).time = s.time ∧
    (s.raise i).timeFrac = s.timeFrac ∧ (s.raise i).timeRate = s.timeRate ∧
    (s.raise i).mhz = s.mhz ∧ (s.raise i).timeLocked = s.timeLocked ∧
    (s.raise i).power = s.power ∧ (s.raise i).sched = s.sched ∧
    (s.raise i).turn = s.turn ∧
    (s.raise i).quadrant = s.quadrant ∧
    (s.raise i).waves = s.waves ∧
    (s.raise i).fetched = s.fetched ∧
    (s.raise i).cur = s.cur ∧ (s.raise i).word = s.word ∧
    (s.raise i).free = s.free ∧ (s.raise i).ids = s.ids ∧
    (s.raise i).mem = s.mem ∧ (s.raise i).tags = s.tags ∧
    (s.raise i).secKey = s.secKey ∧ (s.raise i).flaws = s.flaws ∧
    (s.raise i).threads = s.threads ∧ (s.raise i).groups = s.groups ∧
    (s.raise i).launches = s.launches ∧ (s.raise i).waits = s.waits ∧
    (s.raise i).faults = s.faults ∧ (s.raise i).cores = s.cores ∧
    (s.raise i).halves = s.halves ∧ (s.raise i).dies = s.dies ∧
    (s.raise i).cmds = s.cmds ∧ (s.raise i).colls = s.colls ∧
    (s.raise i).collNums = s.collNums ∧ (s.raise i).queries = s.queries ∧
    (s.raise i).saved = s.saved ∧ (s.raise i).parts = s.parts ∧
    (s.raise i).rvCores = s.rvCores ∧ (s.raise i).net = s.net ∧
    (s.raise i).fleet = s.fleet ∧ (s.raise i).logs = s.logs ∧
    (s.raise i).replies = s.replies ∧ (s.raise i).irqs = s.irqs := by
  and_intros <;> rfl

/-- Writing a tag changes the tags alone. -/
@[simp] theorem State.setTag_frame (s : State) (k : Nat) (v : BitVec 2) :
    (s.setTag k v).clock = s.clock ∧ (s.setTag k v).time = s.time ∧
    (s.setTag k v).timeFrac = s.timeFrac ∧ (s.setTag k v).timeRate = s.timeRate ∧
    (s.setTag k v).mhz = s.mhz ∧ (s.setTag k v).timeLocked = s.timeLocked ∧
    (s.setTag k v).power = s.power ∧ (s.setTag k v).turns = s.turns ∧
    (s.setTag k v).sched = s.sched ∧ (s.setTag k v).turn = s.turn ∧
    (s.setTag k v).quadrant = s.quadrant ∧
    (s.setTag k v).waves = s.waves ∧
    (s.setTag k v).fetched = s.fetched ∧
    (s.setTag k v).cur = s.cur ∧
    (s.setTag k v).word = s.word ∧ (s.setTag k v).free = s.free ∧
    (s.setTag k v).ids = s.ids ∧ (s.setTag k v).mem = s.mem ∧
    (s.setTag k v).secKey = s.secKey ∧ (s.setTag k v).flaws = s.flaws ∧
    (s.setTag k v).threads = s.threads ∧ (s.setTag k v).groups = s.groups ∧
    (s.setTag k v).launches = s.launches ∧ (s.setTag k v).waits = s.waits ∧
    (s.setTag k v).faults = s.faults ∧ (s.setTag k v).cores = s.cores ∧
    (s.setTag k v).halves = s.halves ∧ (s.setTag k v).dies = s.dies ∧
    (s.setTag k v).cmds = s.cmds ∧ (s.setTag k v).colls = s.colls ∧
    (s.setTag k v).collNums = s.collNums ∧ (s.setTag k v).queries = s.queries ∧
    (s.setTag k v).saved = s.saved ∧ (s.setTag k v).parts = s.parts ∧
    (s.setTag k v).rvCores = s.rvCores ∧ (s.setTag k v).net = s.net ∧
    (s.setTag k v).fleet = s.fleet ∧ (s.setTag k v).logs = s.logs ∧
    (s.setTag k v).replies = s.replies ∧ (s.setTag k v).irqs = s.irqs := by
  and_intros <;> rfl

/-- Waking threads changes the threads alone. -/
@[simp] theorem State.wakeAll_frame (s : State) (p : Who → Thread → Bool) :
    (s.wakeAll p).clock = s.clock ∧ (s.wakeAll p).time = s.time ∧
    (s.wakeAll p).timeFrac = s.timeFrac ∧ (s.wakeAll p).timeRate = s.timeRate ∧
    (s.wakeAll p).mhz = s.mhz ∧ (s.wakeAll p).timeLocked = s.timeLocked ∧
    (s.wakeAll p).power = s.power ∧ (s.wakeAll p).turns = s.turns ∧
    (s.wakeAll p).sched = s.sched ∧ (s.wakeAll p).turn = s.turn ∧
    (s.wakeAll p).quadrant = s.quadrant ∧
    (s.wakeAll p).waves = s.waves ∧
    (s.wakeAll p).fetched = s.fetched ∧
    (s.wakeAll p).cur = s.cur ∧
    (s.wakeAll p).word = s.word ∧ (s.wakeAll p).free = s.free ∧
    (s.wakeAll p).ids = s.ids ∧ (s.wakeAll p).mem = s.mem ∧
    (s.wakeAll p).tags = s.tags ∧ (s.wakeAll p).secKey = s.secKey ∧
    (s.wakeAll p).flaws = s.flaws ∧ (s.wakeAll p).groups = s.groups ∧
    (s.wakeAll p).launches = s.launches ∧ (s.wakeAll p).waits = s.waits ∧
    (s.wakeAll p).faults = s.faults ∧ (s.wakeAll p).cores = s.cores ∧
    (s.wakeAll p).halves = s.halves ∧ (s.wakeAll p).dies = s.dies ∧
    (s.wakeAll p).cmds = s.cmds ∧ (s.wakeAll p).colls = s.colls ∧
    (s.wakeAll p).collNums = s.collNums ∧ (s.wakeAll p).queries = s.queries ∧
    (s.wakeAll p).saved = s.saved ∧ (s.wakeAll p).parts = s.parts ∧
    (s.wakeAll p).rvCores = s.rvCores ∧ (s.wakeAll p).net = s.net ∧
    (s.wakeAll p).fleet = s.fleet ∧ (s.wakeAll p).logs = s.logs ∧
    (s.wakeAll p).replies = s.replies ∧ (s.wakeAll p).irqs = s.irqs := by
  and_intros <;> rfl

/-! ## Reading an entity after its update -/

@[simp] theorem State.thread?_setThread_same (s : State) (w : Who) (t : Thread) : (s.setThread w t).thread? w = some t :=
  KV.at?_put_same

@[simp] theorem State.thread?_setThread_other (s : State) {w x : Who} (t : Thread) (h : x ≠ w) :
    (s.setThread w t).thread? x = s.thread? x :=
  KV.at?_put_other h

@[simp] theorem State.thread?_delThread_same (s : State) (w : Who) : (s.delThread w).thread? w = none :=
  KV.at?_del_same

@[simp] theorem State.thread?_delThread_other (s : State) {w x : Who} (h : x ≠ w) : (s.delThread w).thread? x = s.thread? x :=
  KV.at?_del_other h

theorem State.thread?_updThread_same (s : State) (w : Who) (f : Thread → Thread) : (s.updThread w f).thread? w = (s.thread? w).map f :=
  KV.at?_upd_same

@[simp] theorem State.thread?_updThread_other (s : State) {w x : Who} (f : Thread → Thread) (h : x ≠ w) :
    (s.updThread w f).thread? x = s.thread? x :=
  KV.at?_upd_other h

theorem State.group?_updGroup_same (s : State) (g : Nat) (f : Group → Group) : (s.updGroup g f).group? g = (s.group? g).map f :=
  KV.at?_upd_same

@[simp] theorem State.group?_updGroup_other (s : State) {g x : Nat} (f : Group → Group) (h : x ≠ g) :
    (s.updGroup g f).group? x = s.group? x :=
  KV.at?_upd_other h

theorem State.launch?_updLaunch_same (s : State) (l : Nat) (f : Launch → Launch) :
    (s.updLaunch l f).launch? l = (s.launch? l).map f :=
  KV.at?_upd_same

@[simp] theorem State.launch?_updLaunch_other (s : State) {l x : Nat} (f : Launch → Launch) (h : x ≠ l) :
    (s.updLaunch l f).launch? x = s.launch? x :=
  KV.at?_upd_other h

@[simp] theorem State.core_updCore_same (s : State) (c : Nat) (f : CoreSt → CoreSt) : (s.updCore c f).core c = f (s.core c) := by
  simp [State.core, State.updCore]

@[simp] theorem State.core_updCore_other (s : State) {c x : Nat} (f : CoreSt → CoreSt) (h : x ≠ c) :
    (s.updCore c f).core x = s.core x := by
  simp [State.core, State.updCore, h]

@[simp] theorem State.half_updHalf_same (s : State) (c h : Nat) (f : Half → Half) : (s.updHalf c h f).half c h = f (s.half c h) := by
  simp [State.half, State.updHalf]

@[simp] theorem State.half_updHalf_other (s : State) {c h c' h' : Nat} (f : Half → Half) (e : (c', h') ≠ (c, h)) :
    (s.updHalf c h f).half c' h' = s.half c' h' := by
  simp only [State.half, State.updHalf]
  rw [KV.at?_put_other e]

@[simp] theorem State.die_updDie_same (s : State) (d : Nat) (f : Die → Die) : (s.updDie d f).die d = f (s.die d) := by
  simp [State.die, State.updDie]

@[simp] theorem State.die_updDie_other (s : State) {d x : Nat} (f : Die → Die) (h : x ≠ d) : (s.updDie d f).die x = s.die x := by
  simp [State.die, State.updDie, h]

/-- A tag read after it was written. -/
@[simp] theorem State.tagAt_setTag_same (s : State) (k : Nat) (v : BitVec 2) (h : Sparse.wf s.tags = true) :
    (s.setTag k v).tagAt k = v :=
  Sparse.rd_wr_same h

@[simp] theorem State.tagAt_setTag_other (s : State) {k j : Nat} (v : BitVec 2) (h : j ≠ k) : (s.setTag k v).tagAt j = s.tagAt j :=
  Sparse.rd_wr_other h

end Sys2Proof.Machine
end

