-- ==== Sys2Proof/Laws/Thread.lean ====
section
/-! SUPPORT. The laws of a thread's registers and windows: writing destinations changes the register files alone, and a thread without
windows has none to close. -/

namespace Sys2Proof.Machine

/-- `t` with the register files and the record registers of `u`. -/
def Thread.withFiles (t u : Thread) : Thread :=
  { t with regs := u.regs, sregs := u.sregs, preds := u.preds, recTs := u.recTs, recSeq := u.recSeq, recFlags := u.recFlags }

@[simp] theorem Thread.withFiles_self (t : Thread) : t.withFiles t = t := rfl

@[simp] theorem Thread.withFiles_twice (t u v : Thread) : (t.withFiles u).withFiles v = t.withFiles v := rfl

/-- Writing a destination changes the register files alone. -/
theorem Thread.put_files (t : Thread) (d : Dest) (v : BitVec 64) : t.put d v = t.withFiles (t.put d v) := by
  cases d <;> simp only [Thread.put] <;> (repeat' split) <;> rfl

/-- Writing destinations changes the register files alone. -/
theorem Thread.putAll_files (t : Thread) (ws : List (Dest × BitVec 64)) : t.putAll ws = t.withFiles (t.putAll ws) := by
  induction ws generalizing t with
  | nil => rfl
  | cons e r ih =>
    show Thread.putAll (t.put e.1 e.2) r = t.withFiles (Thread.putAll (t.put e.1 e.2) r)
    generalize hu : Thread.putAll (t.put e.1 e.2) r = u
    have h := ih (t.put e.1 e.2)
    rw [hu, Thread.put_files t e.1 e.2] at h
    exact h

@[simp] theorem Thread.putAll_pc (t : Thread) (ws : List (Dest × BitVec 64)) : (t.putAll ws).pc = t.pc := by
  rw [Thread.putAll_files]; rfl

@[simp] theorem Thread.putAll_wins (t : Thread) (ws : List (Dest × BitVec 64)) : (t.putAll ws).wins = t.wins := by
  rw [Thread.putAll_files]; rfl

@[simp] theorem Thread.putAll_status (t : Thread) (ws : List (Dest × BitVec 64)) : (t.putAll ws).status = t.status := by
  rw [Thread.putAll_files]; rfl

@[simp] theorem Thread.putAll_nil (t : Thread) : t.putAll [] = t := rfl

/-- With no window open, none closes. -/
@[simp] theorem Thread.closeWindows_none (t : Thread) (force : Bool) (h : t.wins = []) : t.closeWindows force = t := by
  cases t
  simp only at h
  subst h
  rfl

/-- With no window open, a thread is READY between two instructions. -/
@[simp] theorem Thread.windowStatus_none (t : Thread) (h : t.wins = []) : t.windowStatus = .ready := by
  simp [Thread.windowStatus, h]

/-- Outside a replay nothing is blocked. -/
@[simp] theorem Thread.blocked_none (t : Thread) (d : Dest) (h : t.wrote = []) : t.blocked d = false := by
  simp [Thread.blocked, Thread.wroteAfter, h]

/-- With no window open, an issue notes nothing. -/
@[simp] theorem Thread.noteIssue_none (t : Thread) (ds : List Dest) (h : t.wins = []) : t.noteIssue ds = t := by
  cases t
  simp only at h
  subst h
  rfl

end Sys2Proof.Machine
end

