-- ==== Sys2Proof/Laws/Ops.lean ====
section
/-! SUPPORT. What each shared operation of the meanings does: guarded execution, completion, flush points, transfers, accesses and windows. -/

namespace Sys2Proof.Machine

/-! ## Guarded execution -/

theorem State.act_true {s : State} {t : Thread} {n : Bool} {p : BitVec 3} (h : s.Executes t n p) (k : Thread → State) :
    s.act n p k = .next (k t) := by
  simp [State.act, h.1, h.2]

theorem State.act_false {s : State} {t : Thread} {n : Bool} {p : BitVec 3} (h : s.thread? s.cur = some t) (g : t.guard n p = false)
    (k : Thread → State) : s.act n p k = .next (s.done t []) := by
  simp [State.act, h, g]

theorem State.act_none {s : State} {n : Bool} {p : BitVec 3} (h : s.thread? s.cur = none) (k : Thread → State) :
    s.act n p k = .next s := by
  simp [State.act, h]

/-- A guarded meaning answers the meaning's state, the state with the thread at its next word, or the state itself. -/
theorem State.act_cases (s : State) (n : Bool) (p : BitVec 3) (k : Thread → State) :
    (∃ t, s.Executes t n p ∧ s.act n p k = .next (k t)) ∨
      (∃ t, s.thread? s.cur = some t ∧ t.guard n p = false ∧ s.act n p k = .next (s.done t [])) ∨
      (s.thread? s.cur = none ∧ s.act n p k = .next s) := by
  cases h : s.thread? s.cur with
  | none => exact .inr (.inr ⟨rfl, State.act_none h k⟩)
  | some t =>
    cases g : t.guard n p with
    | true => exact .inl ⟨t, ⟨h, g⟩, State.act_true ⟨h, g⟩ k⟩
    | false => exact .inr (.inl ⟨t, rfl, g, State.act_false h g k⟩)

theorem State.compute_true {s : State} {t : Thread} {n : Bool} {p : BitVec 3} (h : s.Executes t n p)
    (k : Thread → List (Dest × BitVec 64)) : s.compute n p k = .next (s.done t (k t)) := by
  simp [State.compute, State.act_true h]

theorem State.compute_false {s : State} {t : Thread} {n : Bool} {p : BitVec 3} (h : s.thread? s.cur = some t)
    (g : t.guard n p = false) (k : Thread → List (Dest × BitVec 64)) : s.compute n p k = .next (s.done t []) := by
  simp [State.compute, State.act_false h g]

/-! ## Flush points, transfers and accesses -/

/-- Of an empty list of entries, nothing is sent and nothing is left. -/
@[simp] theorem State.sendAll_nil (s : State) (core q : Nat) : s.sendAll core q [] = (s, []) := rfl

@[simp] theorem State.buffer_setBuffer (s : State) (core q : Nat) (l : List AtomEntry) : (s.setBuffer core q l).buffer core q = l := by
  simp [State.buffer, State.setBuffer]

/-- The flush point of a quarter that buffers nothing leaves an empty buffer. -/
theorem State.flush_empty (s : State) (core q : Nat) (w : Who) (h : s.buffer core q = []) :
    s.flush core q w = (s.setBuffer core q []).setBuffer core q [] := by
  simp [State.flush, State.resend, h, sortBy]

/-- A flush point that has sent its buffer once sends nothing more while it waits (R177). -/
theorem State.flushOnce_again {s : State} {t : Thread} {core q : Nat} (h : t.redo.getD 0 ∈ s.flushMarks s.cur) :
    s.flushOnce t core q = s := by
  simp [State.flushOnce, h]

/-- A flush point sends its buffer when it is first met. -/
theorem State.flushOnce_first {s : State} {t : Thread} {core q : Nat} (h : t.redo.getD 0 ∉ s.flushMarks s.cur) :
    s.flushOnce t core q = (s.flush core q s.cur).updThread s.cur fun u => { u with flushed := u.flushed ++ [t.redo.getD 0] } := by
  simp [State.flushOnce, h]

/-- What follows a release waits for no access of a thread that owes none. -/
theorem State.performThen_done {s : State} {t : Thread} (h : t.owesAccess = false) (k : State → State) : s.performThen t k = k s := by
  simp [State.performThen, h]

/-- A thread that still owes an access waits at its release, which performs nothing (R62). -/
theorem State.performThen_waits {s : State} {t : Thread} (h : t.owesAccess = true) (k : State → State) :
    s.performThen t k = s.waitFor t .access := by
  simp [State.performThen, h]

/-- A flush point that completes goes on in the drained state. -/
theorem State.flushThen_done {s u : State} {t : Thread} (h : s.Flushes t u) (k : State → State) : s.flushThen t k = k u := by
  unfold State.Flushes at h
  unfold State.flushThen
  cases q : quarterOf s.cur t with
  | none => rw [q] at h; simp only at h ⊢; rw [h]
  | some n =>
    rw [q] at h
    obtain ⟨rfl, h1, h2⟩ := h
    simp only [h1, h2, Bool.false_eq_true, if_false]

/-- A flush point that meets a drain still to be added waits for it (R58, R177). -/
theorem State.flushThen_waits {s : State} {t : Thread} {q : Nat} (hq : quarterOf s.cur t = some q)
    (h : (s.flushOnce t (s.coreOf s.cur t) q).drainHeld (s.coreOf s.cur t) q = true) (k : State → State) :
    s.flushThen t k = (s.flushOnce t (s.coreOf s.cur t) q).waitFor t .drain := by
  simp [State.flushThen, hq, h]

/-- A release that completes goes on in the drained state. -/
theorem State.releaseFirst_done {s u : State} {t : Thread} (h : s.ReleasesAll t u) (k : State → State) : s.releaseFirst t k = k u := by
  rw [State.releaseFirst, State.performThen_done h.1, State.flushThen_done h.2]

/-- A transfer whose windows have ended goes on with their results written. -/
theorem State.transfer_true {s : State} {t u : Thread} {n : Bool} {p : BitVec 3} (h : s.Transfers t u n p) (k : Thread → State) :
    s.transfer n p k = .next (k u) := by
  obtain ⟨a, b, rfl, g⟩ := h
  have e : t.wins.any (fun o => !o.ended) = false := by
    rw [List.any_eq_false]
    intro o m
    simp [List.all_eq_true.1 b o m]
  simp [State.transfer, a, e, g]

/-- An access that passes its checks and that nothing holds back is performed. -/
theorem State.reach_done {s u : State} {t : Thread} {spc : Space} {ea : BitVec 64} {n : Nat} {a : Acc} {p : Place}
    (h : s.Reaches t spc ea n a p u) (la : BitVec 4) (ds : List Dest) (k : State → Place → State) :
    s.reach t la ds spc ea n a k = k u p := by
  obtain ⟨h1, h2, h3⟩ := h
  simp only [State.reach, h1, State.reach.perform, h2, State.reach.finish, h3]

/-- An access that fails a check with a trap traps its thread, unless a walk that needs a swapped sub-bus keeps it waiting. -/
theorem State.reach_trap {s : State} {t : Thread} {spc : Space} {ea : BitVec 64} {n : Nat} {a : Acc} {c : BitVec 32}
    (h : s.access s.cur t spc ea n a = .error (.trap c)) (hc : c ≠ 0x020D) (o : (s.homeVa t spc ea).any s.walkOut = false) (la : BitVec 4) (ds : List Dest)
    (k : State → Place → State) : s.reach t la ds spc ea n a k = s.trap t c ea := by
  simp only [State.reach, h, o, State.xfail, if_neg hc, Bool.false_eq_true, if_false]

/-- An access whose table walk is aborted consumes the error (R332). -/
theorem State.reach_abort {s : State} {t : Thread} {spc : Space} {ea : BitVec 64} {n : Nat} {a : Acc}
    (h : s.access s.cur t spc ea n a = .error (.trap 0x020D)) (o : (s.homeVa t spc ea).any s.walkOut = false) (la : BitVec 4) (ds : List Dest) (k : State → Place → State) :
    s.reach t la ds spc ea n a k = (s.readWalk (s.partOf t) ((s.homeVa t spc ea).getD ea)).consume t la ds 0x020D ea := by
  simp [State.reach, h, o, State.xfail]

/-! ## Completion -/

/-- Outside a replay and with no window open, completing writes the destinations and goes on. -/
theorem Thread.complete_plain {t : Thread} (h : t.Plain) (ws : List (Dest × BitVec 64)) (pc : BitVec 64) (clock : Nat) :
    t.complete ws pc clock = t.after ws pc clock := by
  obtain ⟨h1, h2, h3, h4, h5, h6, h7⟩ := h
  have e : ws.filter (fun x => !t.blocked x.1) = ws := List.filter_eq_self.2 fun x _ => by simp [h4]
  have w : t.wroteAfter = [] := by simp [Thread.wroteAfter, h4]
  unfold Thread.complete
  simp only [h2, e, w, Thread.noteIssue_none t _ h1]
  rw [Thread.closeWindows_none _ _ (by simpa using h1), Thread.windowStatus_none _ (by simpa using h1)]
  unfold Thread.after
  rw [Thread.putAll_files t ws]
  simp only [Thread.withFiles, h3, h4, h5, h6, h7, List.filter_nil, KV.del]

/-- A plain thread that completes stands at the next word, READY, with its results written. -/
theorem State.done_plain {s : State} {t : Thread} (h : t.Plain) (ws : List (Dest × BitVec 64)) :
    s.done t ws = s.setThread s.cur (t.after ws (t.pc + 8) s.clock) := by
  rw [State.done, Thread.complete_plain h]

/-- Without a lookahead a long-latency instruction of a thread that executes nothing again completes at once. -/
theorem State.finishLong_zero {s : State} {t : Thread} (clocks : Nat) (ws : List (Dest × BitVec 64)) :
    s.finishLong t 0 clocks ws = s.done t ws := by
  unfold State.finishLong
  cases t.redo <;> rfl

end Sys2Proof.Machine
end

