-- ==== Sys2Proof/Laws/PerInstr.lean ====
section
/-! SUPPORT. The laws that hold of every instruction as syntax, one lemma for each constructor: the word of an instruction carries its
opcode and its fields. -/

namespace Sys2Proof.Laws.Carries

open Sys2Proof Machine

/-- A word carries an opcode in bits 62:53 below a clear bit 63 (R87, R88, R101). -/
def Opcode (w : BitVec 64) (op : Nat) : Prop :=
  w.getLsbD 63 = false ∧ bits w 62 59 = op / 64 ∧ bits w 58 53 = op % 64

/-- The word of an instruction carries its opcode and its fields, in register or memory format (R87, R89) or in immediate format, whose
bit 0 is 0 (R88); a paired word carries its slots between a set bit 63 and a clear bit 0 (R99). Of an epilogue word, or of a step of
the device, which is no word of a stream, it says nothing. -/
def Statement (i : Instr) : Prop :=
  match regCode i with
  | some (op, f) => regOf (encode i) = f ∧ Opcode (encode i) op
  | none =>
    match immCode i with
    | some (op, f) => immOf (encode i) = f ∧ Opcode (encode i) op ∧ (encode i).getLsbD 0 = false
    | none =>
      match i with
      | .pairedWord sa sb =>
        (slotOf (encode i) 32 = sa ∧ slotOf (encode i) 1 = sb) ∧ (encode i).getLsbD 63 = true ∧ (encode i).getLsbD 0 = false
      | _ => True

theorem packReg_fields (op : Nat) (f : RegF) (h : op < 1024) : regOf (packReg op f) = f ∧ Opcode (packReg op f) op :=
  ⟨regOf_packReg op f, packReg_opcode op f h⟩

theorem packImm_fields (op : Nat) (f : ImmF) (h : op < 1024) :
    immOf (packImm op f) = f ∧ Opcode (packImm op f) op ∧ (packImm op f).getLsbD 0 = false :=
  let ⟨a, b, c, d⟩ := packImm_opcode op f h
  ⟨immOf_packImm op f, ⟨a, b, c⟩, d⟩

theorem add (f : RegF) : Statement (.add f) := packReg_fields _ _ (by decide)
theorem sub (f : RegF) : Statement (.sub f) := packReg_fields _ _ (by decide)
theorem mul (f : RegF) : Statement (.mul f) := packReg_fields _ _ (by decide)
theorem mulh (f : RegF) : Statement (.mulh f) := packReg_fields _ _ (by decide)
theorem mad (f : RegF) : Statement (.mad f) := packReg_fields _ _ (by decide)
theorem min (f : RegF) : Statement (.min f) := packReg_fields _ _ (by decide)
theorem max (f : RegF) : Statement (.max f) := packReg_fields _ _ (by decide)
theorem abs (f : RegF) : Statement (.abs f) := packReg_fields _ _ (by decide)
theorem neg (f : RegF) : Statement (.neg f) := packReg_fields _ _ (by decide)
theorem adds (f : RegF) : Statement (.adds f) := packReg_fields _ _ (by decide)
theorem and (f : RegF) : Statement (.and f) := packReg_fields _ _ (by decide)
theorem or (f : RegF) : Statement (.or f) := packReg_fields _ _ (by decide)
theorem xor (f : RegF) : Statement (.xor f) := packReg_fields _ _ (by decide)
theorem andn (f : RegF) : Statement (.andn f) := packReg_fields _ _ (by decide)
theorem not (f : RegF) : Statement (.not f) := packReg_fields _ _ (by decide)
theorem shl (f : RegF) : Statement (.shl f) := packReg_fields _ _ (by decide)
theorem shr (f : RegF) : Statement (.shr f) := packReg_fields _ _ (by decide)
theorem sar (f : RegF) : Statement (.sar f) := packReg_fields _ _ (by decide)
theorem rot (f : RegF) : Statement (.rot f) := packReg_fields _ _ (by decide)
theorem clz (f : RegF) : Statement (.clz f) := packReg_fields _ _ (by decide)
theorem ctz (f : RegF) : Statement (.ctz f) := packReg_fields _ _ (by decide)
theorem popc (f : RegF) : Statement (.popc f) := packReg_fields _ _ (by decide)
theorem brev (f : RegF) : Statement (.brev f) := packReg_fields _ _ (by decide)
theorem bfx (f : RegF) : Statement (.bfx f) := packReg_fields _ _ (by decide)
theorem bfi (f : RegF) : Statement (.bfi f) := packReg_fields _ _ (by decide)
theorem sel (f : RegF) : Statement (.sel f) := packReg_fields _ _ (by decide)
theorem mov (f : RegF) : Statement (.mov f) := packReg_fields _ _ (by decide)
theorem cmp (f : RegF) : Statement (.cmp f) := packReg_fields _ _ (by decide)
theorem movi (f : ImmF) : Statement (.movi f) := packImm_fields _ _ (by decide)
theorem movh (f : ImmF) : Statement (.movh f) := packImm_fields _ _ (by decide)
theorem addImm (f : ImmF) : Statement (.addImm f) := packImm_fields _ _ (by decide)
theorem andImm (f : ImmF) : Statement (.andImm f) := packImm_fields _ _ (by decide)
theorem orImm (f : ImmF) : Statement (.orImm f) := packImm_fields _ _ (by decide)
theorem xorImm (f : ImmF) : Statement (.xorImm f) := packImm_fields _ _ (by decide)
theorem fadd (f : RegF) : Statement (.fadd f) := packReg_fields _ _ (by decide)
theorem fsub (f : RegF) : Statement (.fsub f) := packReg_fields _ _ (by decide)
theorem fmul (f : RegF) : Statement (.fmul f) := packReg_fields _ _ (by decide)
theorem ffma (f : RegF) : Statement (.ffma f) := packReg_fields _ _ (by decide)
theorem fdot2 (f : RegF) : Statement (.fdot2 f) := packReg_fields _ _ (by decide)
theorem fmin (f : RegF) : Statement (.fmin f) := packReg_fields _ _ (by decide)
theorem fmax (f : RegF) : Statement (.fmax f) := packReg_fields _ _ (by decide)
theorem fcmp (f : RegF) : Statement (.fcmp f) := packReg_fields _ _ (by decide)
theorem fround (f : RegF) : Statement (.fround f) := packReg_fields _ _ (by decide)
theorem fclass (f : RegF) : Statement (.fclass f) := packReg_fields _ _ (by decide)
theorem frcp (f : RegF) : Statement (.frcp f) := packReg_fields _ _ (by decide)
theorem frsq (f : RegF) : Statement (.frsq f) := packReg_fields _ _ (by decide)
theorem fsqrt (f : RegF) : Statement (.fsqrt f) := packReg_fields _ _ (by decide)
theorem fexp2 (f : RegF) : Statement (.fexp2 f) := packReg_fields _ _ (by decide)
theorem flog2 (f : RegF) : Statement (.flog2 f) := packReg_fields _ _ (by decide)
theorem fsin (f : RegF) : Statement (.fsin f) := packReg_fields _ _ (by decide)
theorem fcos (f : RegF) : Statement (.fcos f) := packReg_fields _ _ (by decide)
theorem cvt (f : RegF) : Statement (.cvt f) := packReg_fields _ _ (by decide)
theorem pk (f : RegF) : Statement (.pk f) := packReg_fields _ _ (by decide)
theorem upk (f : RegF) : Statement (.upk f) := packReg_fields _ _ (by decide)
theorem hxq (f : RegF) : Statement (.hxq f) := packReg_fields _ _ (by decide)
theorem hxd (f : RegF) : Statement (.hxd f) := packReg_fields _ _ (by decide)
theorem hxe (f : RegF) : Statement (.hxe f) := packReg_fields _ _ (by decide)
theorem mxcvt (f : RegF) : Statement (.mxcvt f) := packReg_fields _ _ (by decide)
theorem voteAny (f : RegF) : Statement (.voteAny f) := packReg_fields _ _ (by decide)
theorem voteAll (f : RegF) : Statement (.voteAll f) := packReg_fields _ _ (by decide)
theorem voteNone (f : RegF) : Statement (.voteNone f) := packReg_fields _ _ (by decide)
theorem votePack (f : RegF) : Statement (.votePack f) := packReg_fields _ _ (by decide)
theorem voteUnpk (f : RegF) : Statement (.voteUnpk f) := packReg_fields _ _ (by decide)
theorem pairedWord (sa sb : SlotF) : Statement (.pairedWord sa sb) := ⟨slotsOf_packPair sa sb, packPair_ends sa sb⟩
theorem ld (space : Space) (f : RegF) : Statement (.ld space f) := packReg_fields _ _ (by cases space <;> decide)
theorem st (space : Space) (f : RegF) : Statement (.st space f) := packReg_fields _ _ (by cases space <;> decide)
theorem ldq (space : Space) (f : RegF) : Statement (.ldq space f) := packReg_fields _ _ (by cases space <;> decide)
theorem stq (space : Space) (f : RegF) : Statement (.stq space f) := packReg_fields _ _ (by cases space <;> decide)
theorem pf (f : RegF) : Statement (.pf f) := packReg_fields _ _ (by decide)
theorem ldwf (space : Space) (f : RegF) : Statement (.ldwf space f) := packReg_fields _ _ (by cases space <;> decide)
theorem ldwfe (space : Space) (f : RegF) : Statement (.ldwfe space f) := packReg_fields _ _ (by cases space <;> decide)
theorem stwe (space : Space) (f : RegF) : Statement (.stwe space f) := packReg_fields _ _ (by cases space <;> decide)
theorem stf (space : Space) (f : RegF) : Statement (.stf space f) := packReg_fields _ _ (by cases space <;> decide)
theorem tagrd (space : Space) (f : RegF) : Statement (.tagrd space f) := packReg_fields _ _ (by cases space <;> decide)
theorem tagwr (space : Space) (f : RegF) : Statement (.tagwr space f) := packReg_fields _ _ (by cases space <;> decide)
theorem atomAdd (space : Space) (f : RegF) : Statement (.atomAdd space f) := packReg_fields _ _ (by cases space <;> decide)
theorem atomMin (space : Space) (f : RegF) : Statement (.atomMin space f) := packReg_fields _ _ (by cases space <;> decide)
theorem atomMax (space : Space) (f : RegF) : Statement (.atomMax space f) := packReg_fields _ _ (by cases space <;> decide)
theorem atomAnd (space : Space) (f : RegF) : Statement (.atomAnd space f) := packReg_fields _ _ (by cases space <;> decide)
theorem atomOr (space : Space) (f : RegF) : Statement (.atomOr space f) := packReg_fields _ _ (by cases space <;> decide)
theorem atomXor (space : Space) (f : RegF) : Statement (.atomXor space f) := packReg_fields _ _ (by cases space <;> decide)
theorem atomXchg (space : Space) (f : RegF) : Statement (.atomXchg space f) := packReg_fields _ _ (by cases space <;> decide)
theorem atomCas (space : Space) (f : RegF) : Statement (.atomCas space f) := packReg_fields _ _ (by cases space <;> decide)
theorem atomFadd (space : Space) (f : RegF) : Statement (.atomFadd space f) := packReg_fields _ _ (by cases space <;> decide)
theorem redAdd (f : RegF) : Statement (.redAdd f) := packReg_fields _ _ (by decide)
theorem redMin (f : RegF) : Statement (.redMin f) := packReg_fields _ _ (by decide)
theorem redMax (f : RegF) : Statement (.redMax f) := packReg_fields _ _ (by decide)
theorem redFadd (f : RegF) : Statement (.redFadd f) := packReg_fields _ _ (by decide)
theorem redflush (f : RegF) : Statement (.redflush f) := packReg_fields _ _ (by decide)
theorem redseal (f : RegF) : Statement (.redseal f) := packReg_fields _ _ (by decide)
theorem fence (f : RegF) : Statement (.fence f) := packReg_fields _ _ (by decide)
theorem acq (f : RegF) : Statement (.acq f) := packReg_fields _ _ (by decide)
theorem rel (f : RegF) : Statement (.rel f) := packReg_fields _ _ (by decide)
theorem bind (f : RegF) : Statement (.bind f) := packReg_fields _ _ (by decide)
theorem unbind (f : RegF) : Statement (.unbind f) := packReg_fields _ _ (by decide)
theorem cp (f : RegF) : Statement (.cp f) := packReg_fields _ _ (by decide)
theorem gth (f : RegF) : Statement (.gth f) := packReg_fields _ _ (by decide)
theorem copyQueueWrite (cmd : Nat) : Statement (.copyQueueWrite cmd) := trivial
theorem engineCommandCompletion (cmd : Nat) : Statement (.engineCommandCompletion cmd) := trivial
theorem bra (f : ImmF) : Statement (.bra f) := packImm_fields _ _ (by decide)
theorem fbra (f : ImmF) : Statement (.fbra f) := packImm_fields _ _ (by decide)
theorem brx (f : RegF) : Statement (.brx f) := packReg_fields _ _ (by decide)
theorem land (f : RegF) : Statement (.land f) := packReg_fields _ _ (by decide)
theorem call (f : ImmF) : Statement (.call f) := packImm_fields _ _ (by decide)
theorem callx (f : RegF) : Statement (.callx f) := packReg_fields _ _ (by decide)
theorem ret (f : RegF) : Statement (.ret f) := packReg_fields _ _ (by decide)
theorem rjmark (f : RegF) : Statement (.rjmark f) := packReg_fields _ _ (by decide)
theorem rjoin (f : RegF) : Statement (.rjoin f) := packReg_fields _ _ (by decide)
theorem exit (f : RegF) : Statement (.exit f) := packReg_fields _ _ (by decide)
theorem yield (f : RegF) : Statement (.yield f) := packReg_fields _ _ (by decide)
theorem yieldExpiry (w : Who) : Statement (.yieldExpiry w) := trivial
theorem nop (f : RegF) : Statement (.nop f) := packReg_fields _ _ (by decide)
theorem trap (f : RegF) : Statement (.trap f) := packReg_fields _ _ (by decide)
theorem tret (f : RegF) : Statement (.tret f) := packReg_fields _ _ (by decide)
theorem mfsr (f : RegF) : Statement (.mfsr f) := packReg_fields _ _ (by decide)
theorem mtsr (f : RegF) : Statement (.mtsr f) := packReg_fields _ _ (by decide)
theorem dqpush (f : RegF) : Statement (.dqpush f) := packReg_fields _ _ (by decide)
theorem dqpop (f : RegF) : Statement (.dqpop f) := packReg_fields _ _ (by decide)
theorem nbar (f : RegF) : Statement (.nbar f) := packReg_fields _ _ (by decide)
theorem nbw (f : RegF) : Statement (.nbw f) := packReg_fields _ _ (by decide)
theorem grjoin (f : RegF) : Statement (.grjoin f) := packReg_fields _ _ (by decide)
theorem grleave (f : RegF) : Statement (.grleave f) := packReg_fields _ _ (by decide)
theorem crbeg (f : ImmF) : Statement (.crbeg f) := packImm_fields _ _ (by decide)
theorem crend (f : RegF) : Statement (.crend f) := packReg_fields _ _ (by decide)
theorem sysrpc (f : RegF) : Statement (.sysrpc f) := packReg_fields _ _ (by decide)
theorem kick (f : RegF) : Statement (.kick f) := packReg_fields _ _ (by decide)
theorem diagInj (f : RegF) : Statement (.diagInj f) := packReg_fields _ _ (by decide)
theorem wrecv (f : RegF) : Statement (.wrecv f) := packReg_fields _ _ (by decide)
theorem wemit (f : RegF) : Statement (.wemit f) := packReg_fields _ _ (by decide)
theorem wclose (f : RegF) : Statement (.wclose f) := packReg_fields _ _ (by decide)
theorem wcloseId (f : RegF) : Statement (.wcloseId f) := packReg_fields _ _ (by decide)
theorem wcloseEnd (f : RegF) : Statement (.wcloseEnd f) := packReg_fields _ _ (by decide)
theorem wmret (f : RegF) : Statement (.wmret f) := packReg_fields _ _ (by decide)
theorem wtimer (f : RegF) : Statement (.wtimer f) := packReg_fields _ _ (by decide)
theorem wstat (f : RegF) : Statement (.wstat f) := packReg_fields _ _ (by decide)
theorem holdLock (f : RegF) : Statement (.holdLock f) := packReg_fields _ _ (by decide)
theorem holdSlot (f : RegF) : Statement (.holdSlot f) := packReg_fields _ _ (by decide)
theorem holdCopy (f : RegF) : Statement (.holdCopy f) := packReg_fields _ _ (by decide)
theorem heir (f : RegF) : Statement (.heir f) := packReg_fields _ _ (by decide)
theorem heirSlot (f : RegF) : Statement (.heirSlot f) := packReg_fields _ _ (by decide)
theorem heirGrp (f : RegF) : Statement (.heirGrp f) := packReg_fields _ _ (by decide)
theorem drop (f : RegF) : Statement (.drop f) := packReg_fields _ _ (by decide)
theorem dropSlot (f : RegF) : Statement (.dropSlot f) := packReg_fields _ _ (by decide)
theorem promise (f : RegF) : Statement (.promise f) := packReg_fields _ _ (by decide)
theorem fulfil (f : RegF) : Statement (.fulfil f) := packReg_fields _ _ (by decide)
theorem estqInfo (f : RegF) : Statement (.estqInfo f) := packReg_fields _ _ (by decide)
theorem estqObj (f : RegF) : Statement (.estqObj f) := packReg_fields _ _ (by decide)
theorem estqFrom (f : RegF) : Statement (.estqFrom f) := packReg_fields _ _ (by decide)
theorem estqMask (f : RegF) : Statement (.estqMask f) := packReg_fields _ _ (by decide)
theorem qrld (f : RegF) : Statement (.qrld f) := packReg_fields _ _ (by decide)
theorem qrseed (f : RegF) : Statement (.qrseed f) := packReg_fields _ _ (by decide)
theorem qrseedKey (f : RegF) : Statement (.qrseedKey f) := packReg_fields _ _ (by decide)
theorem qrpt (f : RegF) : Statement (.qrpt f) := packReg_fields _ _ (by decide)
theorem qrpt4 (f : RegF) : Statement (.qrpt4 f) := packReg_fields _ _ (by decide)
theorem qrf (f : RegF) : Statement (.qrf f) := packReg_fields _ _ (by decide)
theorem qrhash (f : RegF) : Statement (.qrhash f) := packReg_fields _ _ (by decide)
theorem qrhashK (f : RegF) : Statement (.qrhashK f) := packReg_fields _ _ (by decide)
theorem qcset (f : RegF) : Statement (.qcset f) := packReg_fields _ _ (by decide)
theorem mzero (f : RegF) : Statement (.mzero f) := packReg_fields _ _ (by decide)
theorem mma (f : RegF) : Statement (.mma f) := packReg_fields _ _ (by decide)
theorem mdrain (f : RegF) : Statement (.mdrain f) := packReg_fields _ _ (by decide)
theorem epld (f : RegF) : Statement (.epld f) := packReg_fields _ _ (by decide)
theorem cpb (f : RegF) : Statement (.cpb f) := packReg_fields _ _ (by decide)
theorem coll (f : RegF) : Statement (.coll f) := packReg_fields _ _ (by decide)
theorem launch (f : RegF) : Statement (.launch f) := packReg_fields _ _ (by decide)
theorem launchEst (f : RegF) : Statement (.launchEst f) := packReg_fields _ _ (by decide)
theorem esNop : Statement .esNop := trivial
theorem esMov (d a : BitVec 4) : Statement (.esMov d a) := trivial
theorem esAdd (d a b : BitVec 4) : Statement (.esAdd d a b) := trivial
theorem esMul (d a b : BitVec 4) : Statement (.esMul d a b) := trivial
theorem esFma (d a b c : BitVec 4) : Statement (.esFma d a b c) := trivial
theorem esMax (d a b : BitVec 4) : Statement (.esMax d a b) := trivial
theorem esMin (d a b : BitVec 4) : Statement (.esMin d a b) := trivial
theorem esScale (d a : BitVec 4) (k : BitVec 8) : Statement (.esScale d a k) := trivial
theorem esBias (d a : BitVec 4) (k : BitVec 8) : Statement (.esBias d a k) := trivial
theorem esClamp (d a : BitVec 4) (k : BitVec 8) : Statement (.esClamp d a k) := trivial
theorem esExp2 (d a : BitVec 4) : Statement (.esExp2 d a) := trivial
theorem esRcp (d a : BitVec 4) : Statement (.esRcp d a) := trivial
theorem esLut (d a : BitVec 4) (n : BitVec 6) (k : BitVec 8) : Statement (.esLut d a n k) := trivial
theorem esCmp (a b : BitVec 4) (c : BitVec 3) : Statement (.esCmp a b c) := trivial
theorem esSel (d a b : BitVec 4) : Statement (.esSel d a b) := trivial
theorem esLd (d : BitVec 4) (m : BitVec 2) (k : BitVec 8) : Statement (.esLd d m k) := trivial
theorem esHxq (d a : BitVec 4) (n : BitVec 3) : Statement (.esHxq d a n) := trivial
theorem esCvt (d a : BitVec 4) (n : BitVec 3) : Statement (.esCvt d a n) := trivial
theorem esSt (a w : BitVec 4) : Statement (.esSt a w) := trivial
theorem esStt (a : BitVec 4) : Statement (.esStt a) := trivial
theorem esLoop (c : BitVec 7) (t : BitVec 6) : Statement (.esLoop c t) := trivial
theorem esEnd : Statement .esEnd := trivial
theorem waveIssue : Statement .waveIssue := trivial
theorem longLatencyCompletion (w : Who) : Statement (.longLatencyCompletion w) := trivial
theorem reductionDrain (core quarter : Nat) : Statement (.reductionDrain core quarter) := trivial
theorem tableWalk (part : Nat) (va : BitVec 64) (kind : AccKind) (who : Who) : Statement (.tableWalk part va kind who) := trivial
theorem resolveRetry (part die : Nat) (seq : BitVec 32) : Statement (.resolveRetry part die seq) := trivial
theorem resolveTrap (part die : Nat) (seq : BitVec 32) : Statement (.resolveTrap part die seq) := trivial
theorem resolveKill (part die : Nat) (seq : BitVec 32) : Statement (.resolveKill part die seq) := trivial
theorem handlerStart (core : Nat) : Statement (.handlerStart core) := trivial
theorem estateHandlerStart (core : Nat) : Statement (.estateHandlerStart core) := trivial
theorem groupEnd (gid : Nat) : Statement (.groupEnd gid) := trivial
theorem containmentUnwind (gid epoch : Nat) (who : Who) (oid : Nat) (cause : BitVec 32) (addr : BitVec 64) : Statement (.containmentUnwind gid epoch who oid cause addr) := trivial
theorem groupSave (gid : Nat) : Statement (.groupSave gid) := trivial
theorem groupRestore (gid : Nat) : Statement (.groupRestore gid) := trivial
theorem preemptionTimeout (die lid : Nat) : Statement (.preemptionTimeout die lid) := trivial
theorem groupPlacement (die : Nat) : Statement (.groupPlacement die) := trivial
theorem launchComplete (lid : Nat) : Statement (.launchComplete lid) := trivial
theorem replayStart (die : Nat) : Statement (.replayStart die) := trivial
theorem nodeStart (die graph node : Nat) : Statement (.nodeStart die graph node) := trivial
theorem arrayCommandStart (core half : Nat) : Statement (.arrayCommandStart core half) := trivial
theorem mmaKgroupStep (core half : Nat) : Statement (.mmaKgroupStep core half) := trivial
theorem drainOutputEntry (core half : Nat) : Statement (.drainOutputEntry core half) := trivial
theorem collectiveRun (cid : Nat) : Statement (.collectiveRun cid) := trivial
theorem recordPlacement (qid : Nat) : Statement (.recordPlacement qid) := trivial
theorem merge (qid : Nat) : Statement (.merge qid) := trivial
theorem paneRecordMulticast (qid : Nat) : Statement (.paneRecordMulticast qid) := trivial
theorem fold (qid wid : Nat) : Statement (.fold qid wid) := trivial
theorem windowRestore (qid wid : Nat) : Statement (.windowRestore qid wid) := trivial
theorem bellWheelDue (qid wid : Nat) : Statement (.bellWheelDue qid wid) := trivial
theorem windowTimerExpiry (qid wid : Nat) : Statement (.windowTimerExpiry qid wid) := trivial
theorem batchTimeout (qid : Nat) : Statement (.batchTimeout qid) := trivial
theorem streamEnd (qid : Nat) : Statement (.streamEnd qid) := trivial
theorem scanRead (qid : Nat) : Statement (.scanRead qid) := trivial
theorem recordFrame (h : MsgHdr) (die : Nat) (streamNo : BitVec 16) (recs : List FrameRec) : Statement (.recordFrame h die streamNo recs) := trivial
theorem lullEngage (core quarter : Nat) : Statement (.lullEngage core quarter) := trivial
theorem lullRelease (core quarter : Nat) : Statement (.lullRelease core quarter) := trivial
theorem lullRotation (core : Nat) : Statement (.lullRotation core) := trivial
theorem gustRefill (router part : Nat) : Statement (.gustRefill router part) := trivial
theorem packetInjection (p : Packet) : Statement (.packetInjection p) := trivial
theorem hamletReset (router : Nat) : Statement (.hamletReset router) := trivial
theorem laneRecalibration (pair sublink dir lane : Nat) (pass : Bool) : Statement (.laneRecalibration pair sublink dir lane pass) := trivial
theorem imageSwitch (target : Nat) (unit : Nat) : Statement (.imageSwitch target unit) := trivial
theorem coreRetirement (core : Nat) : Statement (.coreRetirement core) := trivial
theorem laneSwap (die chan sub lane : Nat) : Statement (.laneSwap die chan sub lane) := trivial
theorem schedulerTakeover (die reason : Nat) : Statement (.schedulerTakeover die reason) := trivial
theorem clockStep (cause watts : Nat) : Statement (.clockStep cause watts) := trivial
theorem thermalTrip : Statement .thermalTrip := trivial
theorem illegalEncoding (c : IllCause) (w : BitVec 64) : Statement (.illegalEncoding c w) := trivial
theorem timeTermDue (qid : Nat) : Statement (.timeTermDue qid) := trivial
theorem own (h : MsgHdr) (lease : BitVec 32) : Statement (.own h lease) := trivial
theorem yieldProc (h : MsgHdr) (newOwner : BitVec 64) : Statement (.yieldProc h newOwner) := trivial
theorem status (h : MsgHdr) : Statement (.status h) := trivial
theorem graphLoad (h : MsgHdr) (die graph : Nat) (va len : BitVec 64) : Statement (.graphLoad h die graph va len) := trivial
theorem kickProc (h : MsgHdr) (die graph : Nat) (patch : BitVec 64) : Statement (.kickProc h die graph patch) := trivial
theorem map (h : MsgHdr) (va : BitVec 64) (pfn : BitVec 28) (size : BitVec 2) (cls : BitVec 3) (perm : BitVec 2) (key : BitVec 13) : Statement (.map h va pfn size cls perm key) := trivial
theorem unmap (h : MsgHdr) (va : BitVec 64) : Statement (.unmap h va) := trivial
theorem pageGive (h : MsgHdr) (va : BitVec 64) : Statement (.pageGive h va) := trivial
theorem pageTake (h : MsgHdr) (va : BitVec 64) : Statement (.pageTake h va) := trivial
theorem write (h : MsgHdr) (va : BitVec 64) (bytes : List (BitVec 8)) : Statement (.write h va bytes) := trivial
theorem read (h : MsgHdr) (va : BitVec 64) (len : Nat) : Statement (.read h va len) := trivial
theorem notify (h : MsgHdr) (index : Nat) (value : BitVec 32) : Statement (.notify h index value) := trivial
theorem logRead (h : MsgHdr) (first : BitVec 32) (count : Nat) : Statement (.logRead h first count) := trivial
theorem update (h : MsgHdr) (payload : List (BitVec 8)) : Statement (.update h payload) := trivial
theorem attest (h : MsgHdr) (nonce : List (BitVec 8)) : Statement (.attest h nonce) := trivial
theorem otherProcedure (h : MsgHdr) : Statement (.otherProcedure h) := trivial
theorem kill (part : Nat) (grp : BitVec 32) : Statement (.kill part grp) := trivial
theorem vacate (part n : Nat) : Statement (.vacate part n) := trivial
theorem notifyReset (part index : Nat) : Statement (.notifyReset part index) := trivial
theorem rconsWrite (part die : Nat) (v : BitVec 32) : Statement (.rconsWrite part die v) := trivial
theorem notifyFillStore (core : Nat) (va : BitVec 64) (v : BitVec 32) : Statement (.notifyFillStore core va v) := trivial
theorem registerWrite (r : ConfigReg) (v : BitVec 64) : Statement (.registerWrite r v) := trivial
theorem partitionBoundarySet (part : Nat) (b : Boundary) : Statement (.partitionBoundarySet part b) := trivial
theorem powerOn (failed : SelfTest) : Statement (.powerOn failed) := trivial
theorem transferResend (req : Option Nat) (die lane : Nat) (daddr : Nat) (va : BitVec 64) (crossing : Nat) : Statement (.transferResend req die lane daddr va crossing) := trivial
theorem portRecalibration (port : Nat) : Statement (.portRecalibration port) := trivial
theorem flitReplay (pair sublink dir lane : Nat) : Statement (.flitReplay pair sublink dir lane) := trivial
theorem fabricPortUp (port : Nat) : Statement (.fabricPortUp port) := trivial
theorem timeLock (locked : Bool) (ppm : Int) : Statement (.timeLock locked ppm) := trivial

end Sys2Proof.Laws.Carries
end

