-- ==== Sys2Proof/Laws/Stores.lean ====
section
/-! SUPPORT. The stores stay canonical under every operation of the machine: the predicates for what an operation answers, folds, memory, tags,
storage errors, kills, drains and the shared operations of the meanings. -/

namespace Sys2Proof.Machine

/-! ## What an operation answers -/

/-- An outcome that is a next state has canonical stores. -/
def OutOk : Out → Prop
  | .next u => u.StoresOk
  | _ => True

/-- A state answered with something else has canonical stores. -/
def FstOk {β : Type} : State × β → Prop
  | (u, _) => u.StoresOk

/-- A state answered behind something else has canonical stores. -/
def SndOk {β : Type} : β × State → Prop
  | (_, u) => u.StoresOk

/-- A state answered, if one is, has canonical stores. -/
def OptOk : Option State → Prop
  | some u => u.StoresOk
  | none => True

/-- The same for one answered with something else. -/
def OptFstOk {β : Type} : Option (State × β) → Prop
  | some p => FstOk p
  | none => True

/-- The same for one answered behind something else. -/
def OptSndOk {β : Type} : Option (β × State) → Prop
  | some p => SndOk p
  | none => True

/-- A state answered without an error has canonical stores. -/
def ExcOk {ε : Type} : Except ε State → Prop
  | .ok u => u.StoresOk
  | .error _ => True

theorem OutOk.mk {u : State} (h : u.StoresOk) : OutOk (.next u) := h
theorem FstOk.mk_iff {β : Type} {u : State} {b : β} : FstOk (u, b) ↔ u.StoresOk := Iff.rfl
theorem FstOk.of_eq {β : Type} {p : State × β} {u : State} {b : β} (e : p = (u, b)) (h : FstOk p) : u.StoresOk := by subst e; exact h
theorem FstOk.fst {β : Type} {p : State × β} (h : FstOk p) : p.1.StoresOk := h
theorem SndOk.mk_iff {β : Type} {u : State} {b : β} : SndOk (b, u) ↔ u.StoresOk := Iff.rfl
theorem SndOk.of_eq {β : Type} {p : β × State} {u : State} {b : β} (e : p = (b, u)) (h : SndOk p) : u.StoresOk := by subst e; exact h
theorem SndOk.snd {β : Type} {p : β × State} (h : SndOk p) : p.2.StoresOk := h
theorem OptOk.mk {u : State} (h : u.StoresOk) : OptOk (some u) := h
theorem OptOk.none : OptOk none := trivial
theorem OptOk.of_eq {o : Option State} {u : State} (e : o = some u) (h : OptOk o) : u.StoresOk := by subst e; exact h
theorem OptFstOk.mk_iff {β : Type} {p : State × β} : OptFstOk (some p) ↔ FstOk p := Iff.rfl
theorem OptFstOk.none {β : Type} : OptFstOk (none : Option (State × β)) := trivial
theorem OptFstOk.of_eq {β : Type} {o : Option (State × β)} {u : State} {b : β} (e : o = some (u, b)) (h : OptFstOk o) : u.StoresOk := by
  subst e; exact h
theorem OptSndOk.mk_iff {β : Type} {p : β × State} : OptSndOk (some p) ↔ SndOk p := Iff.rfl
theorem OptSndOk.none {β : Type} : OptSndOk (none : Option (β × State)) := trivial
theorem OptSndOk.of_eq {β : Type} {o : Option (β × State)} {u : State} {b : β} (e : o = some (b, u)) (h : OptSndOk o) : u.StoresOk := by
  subst e; exact h
theorem ExcOk.mk {ε : Type} {u : State} (h : u.StoresOk) : ExcOk (.ok u : Except ε State) := h
theorem ExcOk.error {ε : Type} {x : ε} : ExcOk (.error x : Except ε State) := trivial
theorem ExcOk.of_eq {ε : Type} {o : Except ε State} {u : State} (e : o = .ok u) (h : ExcOk o) : u.StoresOk := by subst e; exact h

/-- A fold keeps the stores canonical if its step does. -/
theorem foldl_storesOk {α : Type} (l : List α) (f : State → α → State) (s : State) (h : s.StoresOk)
    (hf : ∀ u x, u.StoresOk → (f u x).StoresOk) : (l.foldl f s).StoresOk := by
  induction l generalizing s with
  | nil => exact h
  | cons x r ih => exact ih _ (hf _ _ h)

/-- The same for a fold that carries something beside the state. -/
theorem foldl_fst_storesOk {α β : Type} (l : List α) (f : State × β → α → State × β) (p : State × β) (h : FstOk p)
    (hf : ∀ q x, FstOk q → FstOk (f q x)) : FstOk (l.foldl f p) := by
  induction l generalizing p with
  | nil => exact h
  | cons x r ih => exact ih _ (hf _ _ h)

/-- The same for a fold that may stop. -/
theorem foldl_opt_storesOk {α β : Type} (l : List α) (f : Option (State × β) → α → Option (State × β)) (p : Option (State × β)) (h : OptFstOk p)
    (hf : ∀ q x, OptFstOk q → OptFstOk (f q x)) : OptFstOk (l.foldl f p) := by
  induction l generalizing p with
  | nil => exact h
  | cons x r ih => exact ih _ (hf _ _ h)

theorem OptFstOk.map {β γ : Type} {o : Option (State × β)} {f : State × β → γ} (h : OptFstOk o) : OptFstOk (o.map fun r => (r.1, f r)) := by
  cases o with
  | none => trivial
  | some p => exact h

/-- The same for a fold over elements that are known to be in the list. -/
theorem foldl_fst_mem_storesOk {α β : Type} (l : List α) (f : State × β → α → State × β) (p : State × β) (h : FstOk p)
    (hf : ∀ q x, x ∈ l → FstOk q → FstOk (f q x)) : FstOk (l.foldl f p) := by
  induction l generalizing p with
  | nil => exact h
  | cons x r ih => exact ih _ (hf _ _ (List.mem_cons_self ..) h) fun q y m => hf q y (List.mem_cons_of_mem _ m)

/-- The stores are canonical in every state that has the same memory, tags and key slots. -/
theorem StoresOk.mk_iff {x0 : Nat} {x1 : BitVec 64} {x2 : Nat} {x3 : Nat} {x4 : Nat} {x5 : Bool} {x6 : Bool} {x7 : List Turn} {x8 : List
    (Nat × Turn)} {x9 : Turn} {x10 : Who} {x11 : BitVec 64} {x12 : Nat} {x13 : KV Who Nat} {x14 : KV Nat (BitVec 64 × Option (BitVec 64))}
    {x15 : Nat} {x16 : Nat} {x20 : List Site} {x21 : KV Who Thread} {x22 : KV Nat Group} {x23 : KV Nat Launch} {x24 : List Waiter} {x25 :
    List FaultRec} {x26 : KV Nat CoreSt} {x27 : KV (Nat × Nat) Half} {x28 : KV Nat Die} {x29 : KV Nat Cmd} {x30 : KV Nat Coll} {x31 : KV
    (Nat × Nat × Nat) Nat} {x32 : KV Nat Query} {x33 : KV Nat SavedGroup} {x34 : KV Nat Part} {x35 : KV Nat RvCore} {x36 : Net} {x37 :
    Fleet} {x38 : List LogRec} {x39 : List Reply} {x40 : List Irq} {s : State} : State.StoresOk (State.mk x0 x1 x2 x3 x4 x5 x6 x7 x8 x9
    x10 x11 x12 x13 x14 x15 x16 s.mem s.tags s.secKey x20 x21 x22 x23 x24 x25 x26 x27 x28 x29 x30 x31 x32 x33 x34 x35 x36 x37 x38 x39 x40)
    ↔ s.StoresOk := Iff.rfl

/-- The stores are canonical when each of the three is. -/
theorem StoresOk.parts {x0 : Nat} {x1 : BitVec 64} {x2 : Nat} {x3 : Nat} {x4 : Nat} {x5 : Bool} {x6 : Bool} {x7 : List Turn} {x8 : List
    (Nat × Turn)} {x9 : Turn} {x10 : Who} {x11 : BitVec 64} {x12 : Nat} {x13 : KV Who Nat} {x14 : KV Nat (BitVec 64 × Option (BitVec 64))}
    {x15 : Nat} {x16 : Nat} {x20 : List Site} {x21 : KV Who Thread} {x22 : KV Nat Group} {x23 : KV Nat Launch} {x24 : List Waiter} {x25 :
    List FaultRec} {x26 : KV Nat CoreSt} {x27 : KV (Nat × Nat) Half} {x28 : KV Nat Die} {x29 : KV Nat Cmd} {x30 : KV Nat Coll} {x31 : KV
    (Nat × Nat × Nat) Nat} {x32 : KV Nat Query} {x33 : KV Nat SavedGroup} {x34 : KV Nat Part} {x35 : KV Nat RvCore} {x36 : Net} {x37 :
    Fleet} {x38 : List LogRec} {x39 : List Reply} {x40 : List Irq} {mem : Memory} {tags : Sparse 2} {secKey : Sparse 13} (hm : Sparse.wf
    mem = true) (ht : Sparse.wf tags = true) (hk : Sparse.wf secKey = true) : State.StoresOk (State.mk x0 x1 x2 x3 x4 x5 x6 x7 x8 x9 x10
    x11 x12 x13 x14 x15 x16 mem tags secKey x20 x21 x22 x23 x24 x25 x26 x27 x28 x29 x30 x31 x32 x33 x34 x35 x36 x37 x38 x39 x40) := ⟨hm,
    ht, hk⟩

theorem State.StoresOk.memWf {s : State} (h : s.StoresOk) : Sparse.wf s.mem = true := h.1
theorem State.StoresOk.tagsWf {s : State} (h : s.StoresOk) : Sparse.wf s.tags = true := h.2.1
theorem State.StoresOk.secKeyWf {s : State} (h : s.StoresOk) : Sparse.wf s.secKey = true := h.2.2

/-! ## Machine/Base -/

theorem State.setThread_storesOk (s : State) (w : Who) (t : Thread) (oks : s.StoresOk) : (s.setThread w t).StoresOk := oks

theorem State.updThread_storesOk (s : State) (w : Who) (f : Thread → Thread) (oks : s.StoresOk) : (s.updThread w f).StoresOk := oks

theorem State.delThread_storesOk (s : State) (w : Who) (oks : s.StoresOk) : (s.delThread w).StoresOk := oks

theorem State.updGroup_storesOk (s : State) (g : Nat) (f : Group → Group) (oks : s.StoresOk) : (s.updGroup g f).StoresOk := oks

theorem State.updLaunch_storesOk (s : State) (l : Nat) (f : Launch → Launch) (oks : s.StoresOk) : (s.updLaunch l f).StoresOk := oks

theorem State.updCore_storesOk (s : State) (c : Nat) (f : CoreSt → CoreSt) (oks : s.StoresOk) : (s.updCore c f).StoresOk := oks

theorem State.updHalf_storesOk (s : State) (c h : Nat) (f : Half → Half) (oks : s.StoresOk) : (s.updHalf c h f).StoresOk := oks

theorem State.updDie_storesOk (s : State) (d : Nat) (f : Die → Die) (oks : s.StoresOk) : (s.updDie d f).StoresOk := oks

theorem State.updPart_storesOk (s : State) (p : Nat) (f : Part → Part) (oks : s.StoresOk) : (s.updPart p f).StoresOk := oks

theorem State.updQuery_storesOk (s : State) (q : Nat) (f : Query → Query) (oks : s.StoresOk) : (s.updQuery q f).StoresOk := oks

theorem State.updWin_storesOk (s : State) (q w : Nat) (f : Win → Win) (oks : s.StoresOk) : (s.updWin q w f).StoresOk := by
  unfold State.updWin
  repeat' first | with_reducible (first | assumption | apply State.updQuery_storesOk | intro) | simp only [StoresOk.mk_iff] | split

theorem State.updCmd_storesOk (s : State) (c : Nat) (f : Cmd → Cmd) (oks : s.StoresOk) : (s.updCmd c f).StoresOk := oks

theorem State.plan_storesOk (s : State) (clock : Nat) (i : Instr) (oks : s.StoresOk) : (s.plan clock i).StoresOk := oks

theorem State.planRedo_storesOk (s : State) (clock : Nat) (w : Who) (oid : Nat) (oks : s.StoresOk) : (s.planRedo clock w oid).StoresOk := oks

theorem State.again_storesOk (s : State) (oks : s.StoresOk) : (s.again).StoresOk := oks

theorem State.raise_storesOk (s : State) (i : Instr) (oks : s.StoresOk) : (s.raise i).StoresOk := oks

theorem State.serving_storesOk (s : State) (core : Nat) (oks : s.StoresOk) : (s.serving core).StoresOk := oks

theorem State.setDue_storesOk (s : State) (w : Who) (oid due : Nat) (oks : s.StoresOk) : (s.setDue w oid due).StoresOk := by
  unfold State.setDue
  repeat' first | with_reducible (first | assumption | apply State.updThread_storesOk | intro) | simp only [StoresOk.mk_iff] | split

theorem State.wakeAll_storesOk (s : State) (p : Who → Thread → Bool) (oks : s.StoresOk) : (s.wakeAll p).StoresOk := oks

/-! ## Machine/Mem -/

theorem State.setMem_storesOk (u : State) (m : Memory) (ok : u.StoresOk) (h : Sparse.wf m = true) : State.StoresOk { u with mem := m } :=
  StoresOk.parts h ok.tagsWf ok.secKeyWf

theorem State.setTags_storesOk (u : State) (m : Sparse 2) (ok : u.StoresOk) (h : Sparse.wf m = true) : State.StoresOk { u with tags := m } :=
  StoresOk.parts ok.memWf h ok.secKeyWf

theorem State.rekey_storesOk (s : State) (sector : Nat) (ks : BitVec 13) (oks : s.StoresOk) : (s.rekey sector ks).StoresOk := by
  unfold State.rekey
  split
  · exact oks
  · dsimp only
    exact StoresOk.parts (Sparse.wrList_wf oks.memWf) oks.tagsWf (Sparse.wr_wf oks.secKeyWf)

theorem State.wrByte_storesOk (s : State) (l : Loc) (i : Nat) (v : Byte) (oks : s.StoresOk) : (s.wrByte l i v).StoresOk := by
  unfold State.wrByte
  dsimp only
  split <;> apply State.setMem_storesOk
  · exact oks
  · exact Sparse.wr_wf oks.memWf
  · exact State.rekey_storesOk _ _ _ oks
  · exact Sparse.wr_wf (State.rekey_storesOk _ _ _ oks).memWf

theorem State.wrBytes_storesOk (s : State) (l : Loc) (a0 : Nat) (a1 : List Byte) (oks : s.StoresOk) : (s.wrBytes l a0 a1).StoresOk := by
  induction a1 generalizing s a0 with
  | nil => exact oks
  | cons b r ih => exact ih _ _ (State.wrByte_storesOk _ _ _ _ oks)

theorem State.wrNat_storesOk (s : State) (l : Loc) (n x : Nat) (oks : s.StoresOk) : (s.wrNat l n x).StoresOk := by
  unfold State.wrNat
  repeat' first | with_reducible (first | assumption | apply State.wrBytes_storesOk | intro) | dsimp only | split

theorem State.setTag_storesOk (s : State) (key : Nat) (v : BitVec 2) (oks : s.StoresOk) : (s.setTag key v).StoresOk := by
  exact State.setTags_storesOk _ _ oks (Sparse.wr_wf oks.tagsWf)

theorem State.deviceWrite_storesOk (s : State) (part : Nat) (va : BitVec 64) (a0 : List Byte) (oks : s.StoresOk) :
    (s.deviceWrite part va a0).StoresOk := by
  induction a0 generalizing s va with
  | nil => exact oks
  | cons b r ih =>
    unfold State.deviceWrite
    apply ih
    split
    · exact State.wrByte_storesOk _ _ _ _ oks
    · exact oks

theorem State.writeFault_storesOk (s : State) (f : FaultRec) (oks : s.StoresOk) : (s.writeFault f).StoresOk := by
  unfold State.writeFault
  repeat' first | with_reducible (first | assumption | apply State.deviceWrite_storesOk | intro) | simp only [StoresOk.mk_iff] | split

theorem State.writeHeld_storesOk (s : State) (part die : Nat) (oks : s.StoresOk) : (s.writeHeld part die).StoresOk := by
  unfold State.writeHeld
  repeat' first
    | with_reducible (first | assumption | apply State.writeFault_storesOk | apply foldl_storesOk | intro)
    | simp only [StoresOk.mk_iff] | split

theorem State.park_storesOk (s : State) (part core : Nat) (va : BitVec 64) (kind : Nat) (cause : BitVec 32) (entry : BitVec 128) (level : Nat)
    (req : Req) (oks : s.StoresOk) :
    (s.park part core va kind cause entry level req).StoresOk := by
  unfold State.park
  repeat' first
    | with_reducible (first | assumption | apply State.updDie_storesOk | apply State.writeFault_storesOk | intro)
    | simp only [StoresOk.mk_iff] | split

theorem State.log_storesOk (s : State) (part : Option Nat) (type die core : Nat) (p18 p20 p28 p30 p38 : BitVec 64) (oks : s.StoresOk) :
    (s.log part type die core p18 p20 p28 p30 p38).StoresOk := by
  unfold State.log
  repeat' first
    | with_reducible (first | assumption | apply State.updPart_storesOk | apply State.deviceWrite_storesOk | intro)
    | simp only [StoresOk.mk_iff] | split

/-! ## Machine/Errors -/

theorem State.logDram_storesOk (s : State) (part : Nat) (va : BitVec 64) (sector symbol : Nat) (unc : Bool) (oks : s.StoresOk) :
    (s.logDram part va sector symbol unc).StoresOk := by
  unfold State.logDram
  repeat' first | with_reducible (first | assumption | apply State.log_storesOk | intro) | dsimp only | split

theorem State.logSlice_storesOk (s : State) (part die : Nat) (va : BitVec 64) (unc : Bool) (oks : s.StoresOk) :
    (s.logSlice part die va unc).StoresOk := by
  unfold State.logSlice
  repeat' first | with_reducible (first | assumption | apply State.log_storesOk | intro) | dsimp only | split

theorem State.logUnit_storesOk (s : State) (type : Nat) (v : Victim) (core row col unit : Nat) (unc : Bool) (ofs : Nat) (oks : s.StoresOk) :
    (s.logUnit type v core row col unit unc ofs).StoresOk := by
  unfold State.logUnit
  repeat' first | with_reducible (first | assumption | apply State.log_storesOk | intro) | simp only [StoresOk.mk_iff] | split

theorem State.errorIrq_storesOk (s : State) (part : Nat) (oks : s.StoresOk) : (s.errorIrq part).StoresOk := oks

theorem State.coreError_storesOk (s : State) (core : Nat) (oks : s.StoresOk) : (s.coreError core).StoresOk := by
  unfold State.coreError
  repeat' first | with_reducible (first | assumption | apply State.updCore_storesOk | apply State.raise_storesOk | intro) | dsimp only | split

theorem State.fetchError_storesOk (s : State) (core : Nat) (oks : s.StoresOk) : (s.fetchError core).StoresOk := by
  unfold State.fetchError
  repeat' first | with_reducible (first | assumption | apply State.updCore_storesOk | apply State.raise_storesOk | intro) | dsimp only | split

theorem State.addFlaw_storesOk (s : State) (x : Site) (oks : s.StoresOk) : (s.addFlaw x).StoresOk := by
  unfold State.addFlaw
  repeat' first | with_reducible (first | assumption | intro) | simp only [StoresOk.mk_iff] | split

theorem State.mend_storesOk (s : State) (x : Site) (oks : s.StoresOk) : (s.mend x).StoresOk := oks

theorem State.readSector_storesOk (s : State) (part : Nat) (va : BitVec 64) (sector : Nat) (oks : s.StoresOk) :
    FstOk (s.readSector part va sector) := by
  unfold State.readSector
  repeat' first
    | with_reducible (first
        | assumption | apply State.logDram_storesOk | apply State.logSlice_storesOk | apply State.errorIrq_storesOk | apply State.mend_storesOk
        | intro)
    | simp only [FstOk.mk_iff] | split

theorem State.readSpWord_storesOk (s : State) (v : Victim) (word : Nat) (oks : s.StoresOk) : FstOk (s.readSpWord v word) := by
  unfold State.readSpWord
  repeat' first
    | with_reducible (first
        | assumption | apply State.logUnit_storesOk | apply State.errorIrq_storesOk | apply State.coreError_storesOk | apply State.mend_storesOk
        | intro)
    | simp only [FstOk.mk_iff] | split

theorem readUnits_storesOk (f : State → Nat → State × Bool) (k : Nat) (a0 : Nat) (a1 : State) (hkf : ∀ x0 x1, x0.StoresOk → FstOk (f x0 x1))
    (oka1 : a1.StoresOk) :
    FstOk (readUnits f k a0 a1) := by
  induction a0 generalizing k a1 with
  | zero =>
    unfold readUnits
    repeat' first | with_reducible (first | assumption | apply hkf | apply FstOk.fst | intro) | simp only [FstOk.mk_iff] | split
  | succ n ih =>
    unfold readUnits
    repeat' first | with_reducible (first | assumption | apply hkf | apply ih | apply FstOk.fst | intro) | simp only [FstOk.mk_iff] | split

theorem State.readFor_storesOk (s : State) (v : Victim) (va : BitVec 64) (l : Loc) (n : Nat) (oks : s.StoresOk) : FstOk (s.readFor v va l n) := by
  unfold State.readFor
  repeat' first
    | with_reducible (first
        | assumption | apply State.readSector_storesOk | apply State.readSpWord_storesOk | apply readUnits_storesOk | apply FstOk.fst | intro)
    | simp only [FstOk.mk_iff] | split

theorem State.readWalk_storesOk (s : State) (part : Nat) (va : BitVec 64) (oks : s.StoresOk) : (s.readWalk part va).StoresOk := by
  unfold State.readWalk
  repeat' first
    | with_reducible (first | assumption | apply State.readSector_storesOk | apply foldl_storesOk | apply FstOk.fst | intro)
    | dsimp only | split

theorem State.readReg_storesOk (s : State) (w : Who) (t : Thread) (code : Nat) (oks : s.StoresOk) : FstOk (s.readReg w t code) := by
  unfold State.readReg
  repeat' first
    | with_reducible (first
        | assumption | apply State.logUnit_storesOk | apply State.errorIrq_storesOk | apply State.coreError_storesOk | apply State.mend_storesOk
        | intro)
    | simp only [FstOk.mk_iff] | split

theorem State.readRegs_storesOk (s : State) (w : Who) (t : Thread) (a0 : List Nat) (oks : s.StoresOk) : FstOk (s.readRegs w t a0) := by
  induction a0 generalizing s with
  | nil =>
    unfold State.readRegs
    repeat' first
      | with_reducible (first | assumption | apply State.readReg_storesOk | apply FstOk.fst | intro)
      | simp only [FstOk.mk_iff] | split
  | cons b r ih =>
    unfold State.readRegs
    repeat' first
      | with_reducible (first | assumption | apply State.readReg_storesOk | apply ih | apply FstOk.fst | intro)
      | simp only [FstOk.mk_iff] | split

theorem State.readFetch_storesOk (s : State) (v : Victim) (va : BitVec 64) (l : Loc) (oks : s.StoresOk) : FstOk (s.readFetch v va l) := by
  unfold State.readFetch
  repeat' first
    | with_reducible (first
        | assumption | apply State.logSlice_storesOk | apply State.errorIrq_storesOk | apply State.fetchError_storesOk | apply State.mend_storesOk
        | apply State.readFor_storesOk | intro)
    | (apply FstOk.of_eq (by assumption)) | simp only [FstOk.mk_iff] | split

theorem State.keepLeaf_storesOk (s : State) (va : BitVec 64) (e : BitVec 128) (oks : s.StoresOk) : (s.keepLeaf va e).StoresOk := by
  unfold State.keepLeaf
  repeat' first | with_reducible (first | assumption | apply State.updDie_storesOk | intro) | simp only [StoresOk.mk_iff] | split

theorem State.translate_storesOk (s : State) (part : Nat) (va : BitVec 64) (oks : s.StoresOk) : (s.translate part va).StoresOk := by
  unfold State.translate
  repeat' first
    | with_reducible (first | assumption | apply State.readWalk_storesOk | apply State.keepLeaf_storesOk | intro)
    | simp only [StoresOk.mk_iff] | split

theorem State.touchRead_storesOk (s : State) (part : Nat) (a0 : List (BitVec 64)) (oks : s.StoresOk) : (s.touchRead part a0).StoresOk := by
  induction a0 generalizing s part with
  | nil =>
    unfold State.touchRead
    repeat' first
      | with_reducible (first | assumption | apply State.readSector_storesOk | apply State.readWalk_storesOk | apply State.translate_storesOk | intro)
      | (apply FstOk.of_eq (by assumption)) | simp only [StoresOk.mk_iff, FstOk.mk_iff] | split
  | cons b r ih =>
    unfold State.touchRead
    repeat' first
      | with_reducible (first
          | assumption | apply State.readSector_storesOk | apply State.readWalk_storesOk | apply State.translate_storesOk | apply ih | intro)
      | (apply FstOk.of_eq (by assumption)) | simp only [StoresOk.mk_iff, FstOk.mk_iff] | split

/-! ## Machine/Serve -/

theorem State.post_storesOk (s : State) (part die : Nat) (r : Ring) (w : Who) (t : Thread) (core : Nat) (call : BitVec 32) (packet : BitVec 64)
    (oks : s.StoresOk) :
    FstOk (s.post part die r w t core call packet) := by
  unfold State.post
  repeat' first
    | with_reducible (first | assumption | apply State.wrNat_storesOk | apply State.setTag_storesOk | apply State.deviceWrite_storesOk | intro)
    | simp only [StoresOk.mk_iff, FstOk.mk_iff] | split

theorem State.sinkWrite_storesOk (s : State) (q : Nat) (x : Query) (r : Rec) (prod : Loc) (n : BitVec 32) (oks : s.StoresOk) :
    FstOk (s.sinkWrite q x r prod n) := by
  unfold State.sinkWrite
  repeat' first
    | with_reducible (first
        | assumption | apply State.updQuery_storesOk | apply State.wrNat_storesOk | apply State.setTag_storesOk | apply State.deviceWrite_storesOk
        | intro)
    | simp only [FstOk.mk_iff] | split

theorem State.fill_storesOk (s : State) (l : Loc) (notify : Bool) (v : BitVec 32) (oks : s.StoresOk) : (s.fill l notify v).StoresOk := by
  unfold State.fill
  repeat' first | with_reducible (first | assumption | apply State.wrNat_storesOk | apply State.setTag_storesOk | intro) | dsimp only | split

theorem State.runAgain_storesOk (s : State) (w : Who) (t : Thread) (oid : Nat) (oks : s.StoresOk) : (s.runAgain w t oid).StoresOk := by
  unfold State.runAgain
  repeat' first | with_reducible (first | assumption | apply State.setThread_storesOk | intro) | simp only [StoresOk.mk_iff] | split

theorem State.abortEntry_storesOk (s : State) (w : Who) (t : Thread) (oid : Nat) (cause : BitVec 32) (addr : BitVec 64) (oks : s.StoresOk) :
    (s.abortEntry w t oid cause addr).StoresOk := by
  unfold State.abortEntry
  repeat' first
    | with_reducible (first | assumption | apply State.updThread_storesOk | apply State.raise_storesOk | intro)
    | simp only [StoresOk.mk_iff] | split

theorem State.unreserveEntry_storesOk (s : State) (gid : Nat) (a : WaitAct) (oks : s.StoresOk) : (s.unreserveEntry gid a).StoresOk := by
  unfold State.unreserveEntry
  repeat' first | with_reducible (first | assumption | apply State.updGroup_storesOk | intro) | simp only [StoresOk.mk_iff] | split

theorem State.servedRead_storesOk (s : State) (x : Waiter) (k : State → State × List Nat) (oks : s.StoresOk) (hkk : ∀ x0, x0.StoresOk → FstOk (k
    x0)) :
    FstOk (s.servedRead x k) := by
  unfold State.servedRead
  repeat' first
    | with_reducible (first
        | assumption | apply State.readFor_storesOk | apply State.abortEntry_storesOk | apply State.unreserveEntry_storesOk | apply hkk | intro)
    | (apply FstOk.of_eq (by assumption)) | simp only [FstOk.mk_iff] | split

theorem State.serveOne_storesOk (s : State) (x : Waiter) (oks : s.StoresOk) : OptFstOk (s.serveOne x) := by
  unfold State.serveOne
  repeat' first
    | with_reducible (first
        | assumption | apply State.updThread_storesOk | apply State.updGroup_storesOk | apply State.updWin_storesOk | apply State.setTag_storesOk
        | apply State.post_storesOk | apply State.sinkWrite_storesOk | apply State.fill_storesOk | apply State.runAgain_storesOk
        | apply State.servedRead_storesOk | apply FstOk.fst | apply OptFstOk.none | intro)
    | simp only [FstOk.mk_iff, OptFstOk.mk_iff] | split

theorem State.serveFuel_storesOk (a0 : Nat) (a1 : List Nat) (a2 : State) (oka2 : a2.StoresOk) : (State.serveFuel a0 a1 a2).StoresOk := by
  induction a0 generalizing a1 a2 with
  | zero => exact oka2
  | succ n ih =>
    cases a1 with
    | nil => exact oka2
    | cons k ks =>
      unfold State.serveFuel
      repeat' first
        | with_reducible assumption | with_reducible apply State.serveOne_storesOk | with_reducible apply ih
        | (apply OptFstOk.of_eq (by assumption)) | simp only [StoresOk.mk_iff] | split

theorem State.serve_storesOk (s : State) (keys : List Nat) (oks : s.StoresOk) : (s.serve keys).StoresOk := by
  unfold State.serve
  repeat' first | with_reducible (first | assumption | apply State.serveFuel_storesOk | intro) | dsimp only | split

theorem State.stf_storesOk (s : State) (l : Loc) (notify : Bool) (v : BitVec 32) (oks : s.StoresOk) : (s.stf l notify v).StoresOk := by
  unfold State.stf
  repeat' first | with_reducible (first | assumption | apply State.fill_storesOk | apply State.serve_storesOk | intro) | dsimp only | split

theorem State.fillVa_storesOk (s : State) (part : Nat) (va : BitVec 64) (v : BitVec 32) (oks : s.StoresOk) : (s.fillVa part va v).StoresOk := by
  unfold State.fillVa
  repeat' first | with_reducible (first | assumption | apply State.stf_storesOk | intro) | simp only [StoresOk.mk_iff] | split

theorem State.emptyVa_storesOk (s : State) (part : Nat) (va : BitVec 64) (oks : s.StoresOk) : (s.emptyVa part va).StoresOk := by
  unfold State.emptyVa
  repeat' first
    | with_reducible (first | assumption | apply State.setTag_storesOk | apply State.serve_storesOk | intro)
    | simp only [StoresOk.mk_iff] | split

/-! ## Machine/Kill -/

theorem State.askEnd_storesOk (s : State) (gid : Nat) (oks : s.StoresOk) : (s.askEnd gid).StoresOk := by
  unfold State.askEnd
  repeat' first | with_reducible (first | assumption | apply State.plan_storesOk | intro) | dsimp only | split

theorem State.rejoinCheck_storesOk (s : State) (gid n : Nat) (oks : s.StoresOk) : (s.rejoinCheck gid n).StoresOk := by
  unfold State.rejoinCheck
  repeat' first | with_reducible (first | assumption | apply State.updGroup_storesOk | intro) | simp only [StoresOk.mk_iff] | split

theorem State.leaveSet_storesOk (s : State) (gid tid n : Nat) (loss : Bool) (oks : s.StoresOk) : (s.leaveSet gid tid n loss).StoresOk := by
  unfold State.leaveSet
  repeat' first | with_reducible (first | assumption | apply State.updGroup_storesOk | apply State.rejoinCheck_storesOk | intro) | dsimp only | split

theorem State.barrierCheck_storesOk (s : State) (gid n : Nat) (oks : s.StoresOk) : (s.barrierCheck gid n).StoresOk := by
  unfold State.barrierCheck
  repeat' first | with_reducible (first | assumption | apply State.updGroup_storesOk | apply State.wakeAll_storesOk | intro) | dsimp only | split

theorem State.dqRetire_storesOk (s : State) (gid : Nat) (oks : s.StoresOk) : (s.dqRetire gid).StoresOk := by
  unfold State.dqRetire
  repeat' first
    | with_reducible (first | assumption | apply State.updGroup_storesOk | apply State.wakeAll_storesOk | intro)
    | simp only [StoresOk.mk_iff] | split

theorem State.laneGone_storesOk (s : State) (gid : Nat) (t : Thread) (oks : s.StoresOk) : (s.laneGone gid t).StoresOk := by
  unfold State.laneGone
  repeat' first
    | with_reducible (first
        | assumption | apply State.updGroup_storesOk | apply State.wakeAll_storesOk | apply State.leaveSet_storesOk
        | apply State.barrierCheck_storesOk | apply State.dqRetire_storesOk | apply foldl_storesOk | intro)
    | simp only [StoresOk.mk_iff] | split

theorem State.prompt_storesOk (s : State) (q w : Nat) (oks : s.StoresOk) : (s.prompt q w).StoresOk := by
  unfold State.prompt
  repeat' first | with_reducible (first | assumption | apply State.raise_storesOk | intro) | simp only [StoresOk.mk_iff] | split

theorem State.append_storesOk (s : State) (q w : Nat) (i : Item) (oks : s.StoresOk) : (s.append q w i).StoresOk := by
  unfold State.append
  repeat' first
    | with_reducible (first | assumption | apply State.updQuery_storesOk | apply State.updWin_storesOk | apply State.prompt_storesOk | intro)
    | simp only [StoresOk.mk_iff] | split

theorem State.releaseCloses_storesOk (s : State) (q : Nat) (oks : s.StoresOk) : (s.releaseCloses q).StoresOk := by
  unfold State.releaseCloses
  repeat' first
    | with_reducible (first | assumption | apply State.updWin_storesOk | apply State.append_storesOk | apply foldl_storesOk | intro)
    | simp only [StoresOk.mk_iff] | split

theorem State.dropWin_storesOk (s : State) (q w : Nat) (oks : s.StoresOk) : (s.dropWin q w).StoresOk := by
  unfold State.dropWin
  repeat' first
    | with_reducible (first | assumption | apply State.updQuery_storesOk | apply State.releaseCloses_storesOk | intro)
    | simp only [StoresOk.mk_iff] | split

theorem State.winThreadGone_storesOk (s : State) (t : Thread) (oks : s.StoresOk) : (s.winThreadGone t).StoresOk := by
  unfold State.winThreadGone
  repeat' first
    | with_reducible (first | assumption | apply State.updQuery_storesOk | apply State.dropWin_storesOk | intro)
    | simp only [StoresOk.mk_iff] | split

theorem State.withdraw_storesOk (s : State) (p : Who → Bool) (oks : s.StoresOk) : (s.withdraw p).StoresOk := by
  unfold State.withdraw
  repeat' first | with_reducible (first | assumption | intro) | simp only [StoresOk.mk_iff] | split

theorem State.retireCmd_storesOk (s : State) (cid : Nat) (oks : s.StoresOk) : (s.retireCmd cid).StoresOk := by
  unfold State.retireCmd
  repeat' first | with_reducible (first | assumption | apply State.wakeAll_storesOk | intro) | simp only [StoresOk.mk_iff] | split

theorem State.fillDone_storesOk (s : State) (cid : Nat) (c : Cmd) (v : BitVec 32) (oks : s.StoresOk) : FstOk (s.fillDone cid c v) := by
  unfold State.fillDone
  repeat' first
    | with_reducible (first | assumption | apply State.fill_storesOk | apply State.retireCmd_storesOk | intro)
    | simp only [FstOk.mk_iff] | split

theorem State.finishCmd_storesOk (s : State) (cid : Nat) (c : Cmd) (v : BitVec 32) (oks : s.StoresOk) : (s.finishCmd cid c v).StoresOk := by
  unfold State.finishCmd
  repeat' first
    | with_reducible (first | assumption | apply State.serve_storesOk | apply State.fillDone_storesOk | apply FstOk.fst | intro)
    | simp only [FstOk.mk_iff] | split

theorem State.unlogFill_storesOk (s : State) (cid : Nat) (c : Cmd) (oks : s.StoresOk) : (s.unlogFill cid c).StoresOk := by
  unfold State.unlogFill
  repeat' first | with_reducible (first | assumption | intro) | simp only [StoresOk.mk_iff] | split

theorem State.cancelCmd_storesOk (s : State) (cid : Nat) (c : Cmd) (oks : s.StoresOk) : FstOk (s.cancelCmd cid c) := by
  unfold State.cancelCmd
  repeat' first
    | with_reducible (first | assumption | apply State.fillDone_storesOk | apply State.unlogFill_storesOk | intro)
    | simp only [FstOk.mk_iff] | split

theorem State.cancelCmds_storesOk (s : State) (gid : Nat) (oks : s.StoresOk) : FstOk (s.cancelCmds gid) := by
  unfold State.cancelCmds
  repeat' first
    | with_reducible (first | assumption | apply State.cancelCmd_storesOk | apply foldl_fst_storesOk | apply FstOk.fst | intro)
    | simp only [StoresOk.mk_iff, FstOk.mk_iff] | split

theorem State.discardArray_storesOk (s : State) (gid : Nat) (release : Bool) (oks : s.StoresOk) : (s.discardArray gid release).StoresOk := oks

theorem State.fillVaNow_storesOk (s : State) (part : Nat) (va : BitVec 64) (v : BitVec 32) (oks : s.StoresOk) :
    FstOk (s.fillVaNow part va v) := by
  unfold State.fillVaNow
  repeat' first | with_reducible (first | assumption | apply State.fill_storesOk | intro) | simp only [FstOk.mk_iff] | split

theorem State.failColl_storesOk (s : State) (cid : Nat) (c : Coll) (cause : BitVec 16) (oks : s.StoresOk) : FstOk (s.failColl cid c cause) := by
  unfold State.failColl
  repeat' first
    | with_reducible (first
        | assumption | apply State.wakeAll_storesOk | apply State.askEnd_storesOk | apply State.fillVaNow_storesOk | apply foldl_fst_storesOk
        | apply FstOk.fst | intro)
    | simp only [StoresOk.mk_iff, FstOk.mk_iff] | split

theorem State.withdrawColls_storesOk (s : State) (gid lid : Nat) (inst : Nat → Nat) (joinedOnly : Bool) (oks : s.StoresOk) :
    FstOk (s.withdrawColls gid lid inst joinedOnly) := by
  unfold State.withdrawColls
  repeat' first
    | with_reducible (first | assumption | apply State.failColl_storesOk | apply foldl_fst_storesOk | apply FstOk.fst | intro)
    | simp only [FstOk.mk_iff] | split

theorem State.enterColl_storesOk (s : State) (c : Coll) (m : CollMember) (oks : s.StoresOk) : SndOk (s.enterColl c m) := by
  unfold State.enterColl
  repeat' first | with_reducible (first | assumption | intro) | simp only [StoresOk.mk_iff, SndOk.mk_iff] | split

theorem State.give_storesOk (s : State) (l : Launch) (grp : BitVec 32) (e : Entry) (t : Taker) (oks : s.StoresOk) :
    (s.give l grp e t).StoresOk := by
  unfold State.give
  repeat' first | with_reducible (first | assumption | apply State.updGroup_storesOk | intro) | simp only [StoresOk.mk_iff] | split

theorem State.unreserve_storesOk (s : State) (e : Entry) (n : Nat) (oks : s.StoresOk) : (s.unreserve e n).StoresOk := by
  unfold State.unreserve
  repeat' first | with_reducible (first | assumption | apply State.updGroup_storesOk | intro) | simp only [StoresOk.mk_iff] | split

theorem State.settleEntry_storesOk (s : State) (giverId : Nat) (giver : Group) (e : Entry) (report : Report) (v : Option (BitVec 32)) (oks :
    s.StoresOk) :
    FstOk (s.settleEntry giverId giver e report v) := by
  unfold State.settleEntry
  repeat' first
    | with_reducible (first | assumption | apply State.wrNat_storesOk | apply State.setTag_storesOk | intro)
    | simp only [FstOk.mk_iff] | split

theorem State.resolveEntry_storesOk (s : State) (l : Launch) (giver : Group) (giverId i : Nat) (e : Entry) (oks : s.StoresOk) :
    FstOk (s.resolveEntry l giver giverId i e) := by
  unfold State.resolveEntry
  repeat' first
    | with_reducible (first
        | assumption | apply State.setTag_storesOk | apply State.give_storesOk | apply State.unreserve_storesOk | apply State.settleEntry_storesOk
        | intro)
    | simp only [FstOk.mk_iff] | split

theorem State.report_storesOk (s : State) (l : Launch) (core : Nat) (r : Report) (oks : s.StoresOk) : (s.report l core r).StoresOk := by
  unfold State.report
  repeat' first
    | with_reducible (first
        | assumption | apply State.updLaunch_storesOk | apply State.updCore_storesOk | apply State.plan_storesOk | apply State.log_storesOk | intro)
    | dsimp only | split

theorem State.convey_storesOk (s : State) (gid : Nat) (unwind : Bool) (filled : List Nat) (oks : s.StoresOk) :
    (s.convey gid unwind filled).StoresOk := by
  unfold State.convey
  repeat' first
    | with_reducible (first
        | assumption | apply State.updGroup_storesOk | apply State.serve_storesOk | apply State.resolveEntry_storesOk | apply State.report_storesOk
        | apply foldl_storesOk | apply foldl_fst_storesOk | apply FstOk.fst | intro)
    | simp only [FstOk.mk_iff] | split

theorem State.removeGroup_storesOk (s : State) (gid : Nat) (g : Group) (oks : s.StoresOk) : (s.removeGroup gid g).StoresOk := by
  unfold State.removeGroup
  repeat' first
    | with_reducible (first | assumption | apply State.updLaunch_storesOk | apply State.raise_storesOk | intro)
    | simp only [StoresOk.mk_iff] | split

theorem State.freeSlot_storesOk (s : State) (core slot : Nat) (oks : s.StoresOk) : (s.freeSlot core slot).StoresOk := by
  unfold State.freeSlot
  repeat' first
    | with_reducible (first | assumption | apply State.updCore_storesOk | apply State.plan_storesOk | intro)
    | simp only [StoresOk.mk_iff] | split

theorem State.stopThread_storesOk (s : State) (w : Who) (t : Thread) (last : Bool) (oks : s.StoresOk) : (s.stopThread w t last).StoresOk := by
  unfold State.stopThread
  repeat' first
    | with_reducible (first | assumption | apply State.setThread_storesOk | apply State.planRedo_storesOk | intro)
    | simp only [StoresOk.mk_iff] | split

theorem State.stopThreads_storesOk (s : State) (p : Who → Bool) (oks : s.StoresOk) : (s.stopThreads p).StoresOk := by
  unfold State.stopThreads
  repeat' first
    | with_reducible (first
        | assumption | apply State.delThread_storesOk | apply State.winThreadGone_storesOk | apply State.withdraw_storesOk
        | apply State.freeSlot_storesOk | apply State.stopThread_storesOk | apply foldl_storesOk | intro)
    | simp only [StoresOk.mk_iff] | split

theorem State.reap_storesOk (s : State) (w : Who) (oks : s.StoresOk) : (s.reap w).StoresOk := by
  unfold State.reap
  repeat' first
    | with_reducible (first
        | assumption | apply State.delThread_storesOk | apply State.raise_storesOk | apply State.askEnd_storesOk | apply State.withdraw_storesOk
        | apply State.freeSlot_storesOk | intro)
    | dsimp only | split

theorem State.askEnds_storesOk (s : State) (clock : Nat) (oks : s.StoresOk) : (s.askEnds clock).StoresOk := by
  unfold State.askEnds
  repeat' first | with_reducible (first | assumption | apply State.raise_storesOk | apply foldl_storesOk | intro) | dsimp only | split

theorem State.cancelAll_storesOk (s : State) (gid : Nat) (oks : s.StoresOk) : (s.cancelAll gid).StoresOk := by
  unfold State.cancelAll
  repeat' first
    | with_reducible (first | assumption | apply State.updGroup_storesOk | apply State.cancelCmds_storesOk | apply FstOk.fst | intro)
    | simp only [StoresOk.mk_iff, FstOk.mk_iff] | split

theorem State.freeGroup_storesOk (s : State) (gid : Nat) (oks : s.StoresOk) : (s.freeGroup gid).StoresOk := by
  unfold State.freeGroup
  repeat' first | with_reducible (first | assumption | apply State.removeGroup_storesOk | intro) | simp only [StoresOk.mk_iff] | split

theorem State.endGroup_storesOk (s : State) (gid : Nat) (g : Group) (oks : s.StoresOk) : (s.endGroup gid g).StoresOk := by
  unfold State.endGroup
  repeat' first
    | with_reducible (first
        | assumption | apply State.updGroup_storesOk | apply State.discardArray_storesOk | apply State.withdrawColls_storesOk
        | apply State.convey_storesOk | apply State.askEnds_storesOk | apply State.freeGroup_storesOk | apply FstOk.fst | intro)
    | simp only [StoresOk.mk_iff, FstOk.mk_iff] | split

theorem State.killGroup_storesOk (s : State) (gid : Nat) (oks : s.StoresOk) : (s.killGroup gid).StoresOk := by
  unfold State.killGroup
  repeat' first
    | with_reducible (first
        | assumption | apply State.updGroup_storesOk | apply State.updLaunch_storesOk | apply State.askEnd_storesOk | apply State.stopThreads_storesOk
        | intro)
    | dsimp only | split

theorem State.killSaved_storesOk (s : State) (gid : Nat) (oks : s.StoresOk) : (s.killSaved gid).StoresOk := by
  unfold State.killSaved
  repeat' first
    | with_reducible (first
        | assumption | apply State.updLaunch_storesOk | apply State.askEnd_storesOk | apply State.winThreadGone_storesOk
        | apply State.enterColl_storesOk | apply foldl_storesOk | apply SndOk.snd | intro)
    | simp only [StoresOk.mk_iff] | split

/-! ## Machine/Drain -/

/-- What a drain of one entry comes to has canonical stores. -/
def DrainedOk : Drained → Prop
  | .ok u => u.StoresOk
  | .held u => u.StoresOk
  | .full => True
  | .later => True
  | .fail u _ => u.StoresOk

theorem DrainedOk.mk0 {u : State} : DrainedOk (.ok u) ↔ u.StoresOk := Iff.rfl
theorem DrainedOk.mk1 {u : State} : DrainedOk (.held u) ↔ u.StoresOk := Iff.rfl
theorem DrainedOk.mk2 : DrainedOk .full ↔ True := Iff.rfl
theorem DrainedOk.mk3 : DrainedOk .later ↔ True := Iff.rfl
theorem DrainedOk.mk4 {u : State} {c : BitVec 32} : DrainedOk (.fail u c) ↔ u.StoresOk := Iff.rfl
theorem DrainedOk.of_ok {d : Drained} {u : State} (e : d = .ok u) (h : DrainedOk d) : u.StoresOk := by subst e; exact h
theorem DrainedOk.of_held {d : Drained} {u : State} (e : d = .held u) (h : DrainedOk d) : u.StoresOk := by subst e; exact h
theorem DrainedOk.of_fail {d : Drained} {u : State} {c : BitVec 32} (e : d = .fail u c) (h : DrainedOk d) : u.StoresOk := by subst e; exact h

theorem State.addDrain_storesOk (s : State) (e : AtomEntry) (l : Loc) (old : Nat) (oks : s.StoresOk) : DrainedOk (s.addDrain e l old) := by
  unfold State.addDrain
  repeat' first
    | with_reducible (first | assumption | apply State.updDie_storesOk | apply State.wrNat_storesOk | intro)
    | simp only [DrainedOk.mk0] | split

theorem State.readDrain_storesOk (s : State) (core : Nat) (e : AtomEntry) (l : Loc) (oks : s.StoresOk) : DrainedOk (s.readDrain core e l) := by
  unfold State.readDrain
  repeat' first
    | with_reducible (first | assumption | apply State.readFor_storesOk | apply State.addDrain_storesOk | intro)
    | (apply FstOk.of_eq (by assumption)) | dsimp only | split

theorem State.drainEntry_storesOk (s : State) (core quarter : Nat) (e : AtomEntry) (oks : s.StoresOk) :
    DrainedOk (s.drainEntry core quarter e) := by
  unfold State.drainEntry
  repeat' first
    | with_reducible (first
        | assumption | apply State.park_storesOk | apply State.readWalk_storesOk | apply State.translate_storesOk | apply State.addDrain_storesOk
        | apply State.readDrain_storesOk | intro)
    | simp only [StoresOk.mk_iff, DrainedOk.mk1, DrainedOk.mk2, DrainedOk.mk3, DrainedOk.mk4] | split

theorem State.planDrain_storesOk (s : State) (core quarter : Nat) (oks : s.StoresOk) : (s.planDrain core quarter).StoresOk := by
  unfold State.planDrain
  repeat' first | with_reducible (first | assumption | apply State.plan_storesOk | intro) | dsimp only | split

theorem State.sendEntry_storesOk (s : State) (core quarter : Nat) (e : AtomEntry) (oks : s.StoresOk) : FstOk (s.sendEntry core quarter e) := by
  unfold State.sendEntry
  repeat' first
    | with_reducible (first | assumption | apply State.drainEntry_storesOk | apply State.planDrain_storesOk | intro)
    | (apply DrainedOk.of_ok (by assumption)) | (apply DrainedOk.of_held (by assumption)) | (apply DrainedOk.of_fail (by assumption)) | simp only [FstOk.mk_iff] | split

theorem State.sendAll_storesOk (s : State) (core quarter : Nat) (a0 : List AtomEntry) (oks : s.StoresOk) : FstOk (s.sendAll core quarter a0) := by
  induction a0 generalizing s core quarter with
  | nil =>
    unfold State.sendAll
    repeat' first
      | with_reducible (first | assumption | apply State.sendEntry_storesOk | apply FstOk.fst | intro)
      | simp only [FstOk.mk_iff] | split
  | cons b r ih =>
    unfold State.sendAll
    repeat' first
      | with_reducible (first | assumption | apply State.sendEntry_storesOk | apply ih | apply FstOk.fst | intro)
      | simp only [FstOk.mk_iff] | split

theorem State.setBuffer_storesOk (s : State) (core quarter : Nat) (l : List AtomEntry) (oks : s.StoresOk) :
    (s.setBuffer core quarter l).StoresOk := by
  unfold State.setBuffer
  repeat' first | with_reducible (first | assumption | apply State.updCore_storesOk | intro) | simp only [StoresOk.mk_iff] | split

theorem State.resend_storesOk (s : State) (core quarter : Nat) (oks : s.StoresOk) : (s.resend core quarter).StoresOk := by
  unfold State.resend
  repeat' first
    | with_reducible (first | assumption | apply State.sendAll_storesOk | apply State.setBuffer_storesOk | apply FstOk.fst | intro)
    | simp only [StoresOk.mk_iff, FstOk.mk_iff] | split

theorem State.flush_storesOk (s : State) (core quarter : Nat) (w : Who) (oks : s.StoresOk) : (s.flush core quarter w).StoresOk := by
  unfold State.flush
  repeat' first
    | with_reducible (first | assumption | apply State.setBuffer_storesOk | apply State.resend_storesOk | intro)
    | simp only [StoresOk.mk_iff] | split

theorem State.dropFailures_storesOk (s : State) (core quarter : Nat) (w : Who) (oks : s.StoresOk) : (s.dropFailures core quarter w).StoresOk := by
  unfold State.dropFailures
  repeat' first | with_reducible (first | assumption | apply State.setBuffer_storesOk | intro) | dsimp only | split

theorem State.unhold_storesOk (s : State) (core quarter : Nat) (oks : s.StoresOk) : (s.unhold core quarter).StoresOk := by
  unfold State.unhold
  repeat' first | with_reducible (first | assumption | apply State.updCore_storesOk | intro) | simp only [StoresOk.mk_iff] | split

theorem State.wakeDrains_storesOk (s : State) (oks : s.StoresOk) : (s.wakeDrains).StoresOk := by
  unfold State.wakeDrains
  repeat' first | with_reducible (first | assumption | apply State.wakeAll_storesOk | intro) | dsimp only | split

theorem State.keepFailure_storesOk (s : State) (core quarter : Nat) (w : Who) (oks : s.StoresOk) : (s.keepFailure core quarter w).StoresOk := by
  unfold State.keepFailure
  repeat' first
    | with_reducible (first | assumption | apply State.updThread_storesOk | apply State.dropFailures_storesOk | intro)
    | simp only [StoresOk.mk_iff] | split

theorem State.drainAgain_storesOk (s : State) (core quarter : Nat) (oks : s.StoresOk) : (s.drainAgain core quarter).StoresOk := by
  unfold State.drainAgain
  repeat' first
    | with_reducible (first
        | assumption | apply State.raise_storesOk | apply State.resend_storesOk | apply State.wakeDrains_storesOk | apply State.keepFailure_storesOk
        | apply foldl_storesOk | intro)
    | dsimp only | split

/-! ## Machine/Ops -/

theorem State.done_storesOk (s : State) (t : Thread) (ws : List (Dest × BitVec 64)) (oks : s.StoresOk) : (s.done t ws).StoresOk := by
  unfold State.done
  repeat' first | with_reducible (first | assumption | apply State.setThread_storesOk | intro) | dsimp only | split

theorem State.act_storesOk (s : State) (neg : Bool) (pred : BitVec 3) (k : Thread → State) (oks : s.StoresOk) (hkk : ∀ x0, State.StoresOk (k
    x0)) :
    OutOk (s.act neg pred k) := by
  unfold State.act
  repeat' first
    | with_reducible (first | assumption | apply State.done_storesOk | apply hkk | apply OutOk.mk | intro)
    | simp only [StoresOk.mk_iff] | split

theorem State.compute_storesOk (s : State) (neg : Bool) (pred : BitVec 3) (k : Thread → List (Dest × BitVec 64)) (oks : s.StoresOk) :
    OutOk (s.compute neg pred k) := by
  unfold State.compute
  repeat' first | with_reducible (first | assumption | apply State.done_storesOk | apply State.act_storesOk | intro) | dsimp only | split

theorem State.waitFor_storesOk (s : State) (t : Thread) (y : Why) (oks : s.StoresOk) : (s.waitFor t y).StoresOk := by
  unfold State.waitFor
  repeat' first | with_reducible (first | assumption | apply State.setThread_storesOk | apply State.planRedo_storesOk | intro) | dsimp only | split

theorem State.parkFor_storesOk (s : State) (t : Thread) (y : Why) (oks : s.StoresOk) : (s.parkFor t y).StoresOk := by
  unfold State.parkFor
  repeat' first | with_reducible (first | assumption | apply State.setThread_storesOk | intro) | simp only [StoresOk.mk_iff] | split

theorem State.fresh_storesOk (s : State) (oks : s.StoresOk) : SndOk (s.fresh) := by
  unfold State.fresh
  repeat' first | with_reducible (first | assumption | intro) | simp only [StoresOk.mk_iff, SndOk.mk_iff] | split

theorem State.drawFree_storesOk (s : State) (oks : s.StoresOk) : SndOk (s.drawFree) := by
  unfold State.drawFree
  repeat' first | with_reducible (first | assumption | intro) | simp only [StoresOk.mk_iff, SndOk.mk_iff] | split

theorem State.openWindow_storesOk (s : State) (t : Thread) (la : BitVec 4) (st : OState) (writes : List (Dest × BitVec 64)) (dests : List Dest)
    (oks : s.StoresOk) :
    (s.openWindow t la st writes dests).StoresOk := by
  unfold State.openWindow
  repeat' first | with_reducible (first | assumption | apply State.setThread_storesOk | intro) | simp only [StoresOk.mk_iff] | split

theorem State.finishLong_storesOk (s : State) (t : Thread) (la : BitVec 4) (latency : Nat) (ws : List (Dest × BitVec 64)) (oks : s.StoresOk) :
    (s.finishLong t la latency ws).StoresOk := by
  unfold State.finishLong
  repeat' first
    | with_reducible (first
        | assumption | apply State.plan_storesOk | apply State.setDue_storesOk | apply State.done_storesOk | apply State.openWindow_storesOk | intro)
    | dsimp only | split

theorem State.askPlacement_storesOk (s : State) (oks : s.StoresOk) : (s.askPlacement).StoresOk := by
  unfold State.askPlacement
  repeat' first | with_reducible (first | assumption | apply State.raise_storesOk | apply foldl_storesOk | intro) | dsimp only | split

theorem State.endEstateHandler_storesOk (s : State) (w : Who) (t : Thread) (oks : s.StoresOk) : (s.endEstateHandler w t).StoresOk := by
  unfold State.endEstateHandler
  repeat' first
    | with_reducible (first
        | assumption | apply State.delThread_storesOk | apply State.updLaunch_storesOk | apply State.raise_storesOk | apply State.freeSlot_storesOk
        | apply State.askPlacement_storesOk | intro)
    | simp only [StoresOk.mk_iff] | split

theorem State.queueTrap_storesOk (s : State) (core : Nat) (w : Who) (oks : s.StoresOk) : (s.queueTrap core w).StoresOk := by
  unfold State.queueTrap
  repeat' first | with_reducible (first | assumption | apply State.updCore_storesOk | intro) | simp only [StoresOk.mk_iff] | split

theorem State.trapNow_storesOk (s : State) (w : Who) (oks : s.StoresOk) : (s.trapNow w).StoresOk := by
  unfold State.trapNow
  repeat' first
    | with_reducible (first
        | assumption | apply State.setThread_storesOk | apply State.plan_storesOk | apply State.killGroup_storesOk | apply State.flush_storesOk
        | apply State.keepFailure_storesOk | apply State.endEstateHandler_storesOk | apply State.queueTrap_storesOk | intro)
    | simp only [StoresOk.mk_iff] | split

theorem State.failEntry_storesOk (s : State) (w : Who) (oid : Nat) (cause : BitVec 32) (faddr : BitVec 64) (oks : s.StoresOk) :
    (s.failEntry w oid cause faddr).StoresOk := by
  unfold State.failEntry
  repeat' first | with_reducible (first | assumption | apply State.setThread_storesOk | apply State.trapNow_storesOk | intro) | dsimp only | split

theorem State.trap_storesOk (s : State) (t : Thread) (cause : BitVec 32) (faddr : BitVec 64) (oks : s.StoresOk) :
    (s.trap t cause faddr).StoresOk := by
  unfold State.trap
  repeat' first
    | with_reducible (first | assumption | apply State.setThread_storesOk | apply State.failEntry_storesOk | intro)
    | simp only [StoresOk.mk_iff] | split

theorem State.parkFault_storesOk (s : State) (t : Thread) (la : BitVec 4) (dests : List Dest) (va : BitVec 64) (kind : Nat) (cause : BitVec 32)
    (entry : BitVec 128) (level : Nat) (oks : s.StoresOk) :
    (s.parkFault t la dests va kind cause entry level).StoresOk := by
  unfold State.parkFault
  repeat' first
    | with_reducible (first | assumption | apply State.setDue_storesOk | apply State.park_storesOk | apply State.openWindow_storesOk | intro)
    | dsimp only | split

theorem State.consume_storesOk (s : State) (t : Thread) (la : BitVec 4) (dests : List Dest) (cause : BitVec 32) (addr : BitVec 64) (oks :
    s.StoresOk) :
    (s.consume t la dests cause addr).StoresOk := by
  unfold State.consume
  repeat' first
    | with_reducible (first | assumption | apply State.raise_storesOk | apply State.openWindow_storesOk | intro)
    | simp only [StoresOk.mk_iff] | split

theorem State.xfail_storesOk (s : State) (t : Thread) (la : BitVec 4) (dests : List Dest) (ea home : BitVec 64) (kind : Nat) (f : XFail) (oks :
    s.StoresOk) :
    (s.xfail t la dests ea home kind f).StoresOk := by
  unfold State.xfail
  repeat' first
    | with_reducible (first
        | assumption | apply State.readWalk_storesOk | apply State.trap_storesOk | apply State.parkFault_storesOk | apply State.consume_storesOk
        | intro)
    | simp only [StoresOk.mk_iff] | split

theorem State.performThen_storesOk (s : State) (t : Thread) (k : State → State) (oks : s.StoresOk) (hkk : ∀ x0, x0.StoresOk → State.StoresOk (k
    x0)) :
    (s.performThen t k).StoresOk := by
  unfold State.performThen
  repeat' first | with_reducible (first | assumption | apply State.waitFor_storesOk | apply hkk | intro) | dsimp only | split

theorem State.flushOnce_storesOk (s : State) (t : Thread) (core q : Nat) (oks : s.StoresOk) : (s.flushOnce t core q).StoresOk := by
  unfold State.flushOnce
  repeat' first | with_reducible (first | assumption | apply State.updThread_storesOk | apply State.flush_storesOk | intro) | dsimp only | split

theorem State.flushThen_storesOk (s : State) (t : Thread) (k : State → State) (oks : s.StoresOk) (hkk : ∀ x0, x0.StoresOk → State.StoresOk (k
    x0)) :
    (s.flushThen t k).StoresOk := by
  unfold State.flushThen
  repeat' first
    | with_reducible (first
        | assumption | apply State.dropFailures_storesOk | apply State.waitFor_storesOk | apply State.trap_storesOk | apply State.consume_storesOk
        | apply State.flushOnce_storesOk | apply hkk | intro)
    | dsimp only | split

theorem State.releaseFirst_storesOk (s : State) (t : Thread) (k : State → State) (oks : s.StoresOk) (hkk : ∀ x0, x0.StoresOk → State.StoresOk (k
    x0)) :
    (s.releaseFirst t k).StoresOk := by
  unfold State.releaseFirst
  repeat' first
    | with_reducible (first | assumption | apply State.performThen_storesOk | apply State.flushThen_storesOk | apply hkk | intro)
    | dsimp only | split

theorem State.transfer_storesOk (s : State) (neg : Bool) (pred : BitVec 3) (k : Thread → State) (oks : s.StoresOk) (hkk : ∀ x0, State.StoresOk
    (k x0)) :
    OutOk (s.transfer neg pred k) := by
  unfold State.transfer
  repeat' first
    | with_reducible (first | assumption | apply State.setThread_storesOk | apply State.done_storesOk | apply hkk | apply OutOk.mk | intro)
    | dsimp only | split

theorem State.goto_storesOk (s : State) (t : Thread) (ws : List (Dest × BitVec 64)) (pc : BitVec 64) (oks : s.StoresOk) :
    (s.goto t ws pc).StoresOk := by
  unfold State.goto
  repeat' first | with_reducible (first | assumption | apply State.setThread_storesOk | intro) | dsimp only | split

theorem State.waitAccess_storesOk (s : State) (t : Thread) (spc : Space) (l : Loc) (size : Nat) (y : Why) (oks : s.StoresOk) :
    (s.waitAccess t spc l size y).StoresOk := by
  unfold State.waitAccess
  repeat' first | with_reducible (first | assumption | apply State.waitFor_storesOk | intro) | simp only [StoresOk.mk_iff] | split

theorem State.admitted_storesOk (s : State) (t : Thread) (spc : Space) (va : Option (BitVec 64)) (write : Bool) (oks : s.StoresOk) :
    (s.admitted t spc va write).StoresOk := by
  unfold State.admitted
  repeat' first | with_reducible (first | assumption | apply State.translate_storesOk | intro) | simp only [StoresOk.mk_iff] | split

theorem State.reach_storesOk (s : State) (t : Thread) (la : BitVec 4) (dests : List Dest) (spc : Space) (ea : BitVec 64) (size : Nat) (a : Acc)
    (k : State → Place → State) (oks : s.StoresOk) (hkk : ∀ x0 x1, x0.StoresOk → State.StoresOk (k x0 x1)) :
    (s.reach t la dests spc ea size a k).StoresOk := by
  unfold State.reach
  dsimp only
  split
  · split
    · exact State.waitAccess_storesOk _ _ _ _ _ _ oks
    · exact State.xfail_storesOk _ _ _ _ _ _ _ _ oks
  · rename_i p _
    unfold State.reach.perform
    split
    · exact State.waitAccess_storesOk _ _ _ _ _ _ oks
    · have oa := State.admitted_storesOk s t spc (s.homeVa t spc ea) a.write oks
      generalize s.admitted t spc (s.homeVa t spc ea) a.write = u at oa ⊢
      have h : FstOk (if a.reads then u.readFor (u.victimOf u.cur t) ((s.homeVa t spc ea).getD 0) p.loc size else (u, none)) := by
        split
        · exact State.readFor_storesOk _ _ _ _ _ oa
        · exact oa
      unfold State.reach.finish
      split <;> rename_i e
      · exact State.consume_storesOk _ _ _ _ _ _ (FstOk.of_eq e h)
      · exact hkk _ _ (FstOk.of_eq e h)

theorem State.tret_storesOk (s : State) (t : Thread) (o : Who) (oks : s.StoresOk) : (s.tret t o).StoresOk := by
  unfold State.tret
  repeat' first
    | with_reducible (first
        | assumption | apply State.setThread_storesOk | apply State.delThread_storesOk | apply State.freeSlot_storesOk | apply State.drawFree_storesOk
        | apply State.failEntry_storesOk | apply SndOk.snd | intro)
    | simp only [StoresOk.mk_iff] | split

end Sys2Proof.Machine
end

