-- ==== Sys2Proof/Laws/StoresCore.lean ====
section
/-! SUPPORT. The stores stay canonical under the operations of the instruction families, the engines, the arrays and the reeve. -/

namespace Sys2Proof.Machine

/-! ## Machine/Control -/

theorem State.noteTarget_storesOk (s : State) (t : Thread) (a : BitVec 64) (c : BitVec 32) (oks : s.StoresOk) :
    (s.noteTarget t a c).StoresOk := by
  unfold State.noteTarget
  repeat' first
    | with_reducible (first | assumption | apply State.fetchError_storesOk | apply State.readWalk_storesOk | intro)
    | simp only [StoresOk.mk_iff] | split

theorem State.fetchTarget_storesOk (s : State) (t : Thread) (a : BitVec 64) (l : Loc) (k : State → State) (oks : s.StoresOk) (hkk : ∀ x0,
    x0.StoresOk → State.StoresOk (k x0)) :
    (s.fetchTarget t a l k).StoresOk := by
  unfold State.fetchTarget
  repeat' first
    | with_reducible (first
        | assumption | apply State.readFetch_storesOk | apply State.translate_storesOk | apply State.waitFor_storesOk | apply State.trap_storesOk
        | apply hkk | intro)
    | (apply FstOk.of_eq (by assumption)) | simp only [StoresOk.mk_iff, FstOk.mk_iff] | split

theorem State.checkTarget_storesOk (s : State) (t : Thread) (a : BitVec 64) (k : State → State) (oks : s.StoresOk) (hkk : ∀ x0, x0.StoresOk →
    State.StoresOk (k x0)) :
    (s.checkTarget t a k).StoresOk := by
  unfold State.checkTarget
  repeat' first
    | with_reducible (first
        | assumption | apply State.setThread_storesOk | apply State.park_storesOk | apply State.waitFor_storesOk | apply State.trap_storesOk
        | apply State.noteTarget_storesOk | apply State.fetchTarget_storesOk | apply hkk | intro)
    | simp only [StoresOk.mk_iff] | split

theorem State.spillThen_storesOk (s : State) (t : Thread) (base i : Nat) (reads : Bool) (k : State → Loc → State) (oks : s.StoresOk) (hkk : ∀ x0
    x1, x0.StoresOk → State.StoresOk (k x0 x1)) :
    (s.spillThen t base i reads k).StoresOk := by
  unfold State.spillThen
  repeat' first
    | with_reducible (first | assumption | apply State.readFor_storesOk | apply State.consume_storesOk | apply State.waitAccess_storesOk | apply hkk | intro)
    | (apply FstOk.of_eq (by assumption)) | simp only [FstOk.mk_iff] | split

theorem State.call_storesOk (s : State) (t : Thread) (target : BitVec 64) (oks : s.StoresOk) : (s.call t target).StoresOk := by
  unfold State.call
  repeat' first
    | with_reducible (first
        | assumption | apply State.wrNat_storesOk | apply State.trap_storesOk | apply State.goto_storesOk | apply State.spillThen_storesOk | intro)
    | dsimp only | split

theorem State.endLane_storesOk (s : State) (gid tid : Nat) (t : Thread) (oks : s.StoresOk) : (s.endLane gid tid t).StoresOk := by
  unfold State.endLane
  repeat' first
    | with_reducible (first
        | assumption | apply State.delThread_storesOk | apply State.askEnd_storesOk | apply State.laneGone_storesOk
        | apply State.winThreadGone_storesOk | intro)
    | dsimp only | split

theorem State.promptPops_storesOk (s : State) (gid : Nat) (oks : s.StoresOk) : (s.promptPops gid).StoresOk := by
  unfold State.promptPops
  repeat' first | with_reducible (first | assumption | intro) | simp only [StoresOk.mk_iff] | split

theorem State.endSteward_storesOk (s : State) (gid : Nat) (oks : s.StoresOk) : (s.endSteward gid).StoresOk := by
  unfold State.endSteward
  repeat' first
    | with_reducible (first
        | assumption | apply State.delThread_storesOk | apply State.updGroup_storesOk | apply State.askEnd_storesOk
        | apply State.barrierCheck_storesOk | apply State.promptPops_storesOk | apply foldl_storesOk | intro)
    | simp only [StoresOk.mk_iff] | split

theorem State.asyncThen_storesOk (s : State) (t : Thread) (k : State) (oks : s.StoresOk) (okk : k.StoresOk) : (s.asyncThen t k).StoresOk := by
  unfold State.asyncThen
  repeat' first
    | with_reducible (first | assumption | apply State.updGroup_storesOk | apply State.trap_storesOk | intro)
    | simp only [StoresOk.mk_iff] | split

/-! ## Machine/OrderOps -/

theorem State.object_storesOk (s : State) (t : Thread) (spc : Space) (ea : BitVec 64) (k : State → Place → State) (oks : s.StoresOk) (hkk : ∀ x0
    x1, x0.StoresOk → State.StoresOk (k x0 x1)) :
    (s.object t spc ea k).StoresOk := by
  unfold State.object
  repeat' first | with_reducible (first | assumption | apply State.reach_storesOk | apply hkk | intro) | dsimp only | split

theorem State.tryBind_storesOk (s : State) (t : Thread) (spc : Space) (p : Place) (obj base : BitVec 64) (len : Nat) (oks : s.StoresOk) :
    OptOk (s.tryBind t spc p obj base len) := by
  unfold State.tryBind
  repeat' first
    | with_reducible (first | assumption | apply State.updCore_storesOk | apply State.updDie_storesOk | apply OptOk.mk | apply OptOk.none | intro)
    | dsimp only | split

/-! ## Machine/Engine -/

/-- What a move of some bytes comes to has canonical stores. -/
def MovedOk : Moved → Prop
  | .done u _ _ => u.StoresOk
  | .held _ _ _ _ => True
  | .later u _ => u.StoresOk

theorem MovedOk.mk0 {u : State} {l : List (Nat × BitVec 16)} {a : Option (BitVec 64)} : MovedOk (.done u l a) ↔ u.StoresOk := Iff.rfl
theorem MovedOk.mk1 {a : BitVec 64} {c : BitVec 32} {e : BitVec 128} {n : Nat} : MovedOk (.held a c e n) ↔ True := Iff.rfl
theorem MovedOk.mk2 {u : State} {n : Nat} : MovedOk (.later u n) ↔ u.StoresOk := Iff.rfl
theorem MovedOk.of_done {d : Moved} {u : State} {l : List (Nat × BitVec 16)} {a : Option (BitVec 64)} (e : d = .done u l a) (h : MovedOk d) :
    u.StoresOk := by
  subst e; exact h
theorem MovedOk.of_later {d : Moved} {u : State} {n : Nat} (e : d = .later u n) (h : MovedOk d) : u.StoresOk := by subst e; exact h

theorem State.engineThen_storesOk (s : State) (t : Thread) (k : State) (oks : s.StoresOk) (okk : k.StoresOk) : (s.engineThen t k).StoresOk := by
  unfold State.engineThen
  repeat' first
    | with_reducible (first | assumption | apply State.updGroup_storesOk | apply State.trap_storesOk | intro)
    | simp only [StoresOk.mk_iff] | split

theorem State.arrayThen_storesOk (s : State) (t : Thread) (k : State) (oks : s.StoresOk) (okk : k.StoresOk) : (s.arrayThen t k).StoresOk := by
  unfold State.arrayThen
  repeat' first | with_reducible (first | assumption | apply State.asyncThen_storesOk | apply State.engineThen_storesOk | intro) | dsimp only | split

theorem State.qAdvance_storesOk (s : State) (g : Group) (ofs byte n : Nat) (oks : s.StoresOk) : (s.qAdvance g ofs byte n).StoresOk := by
  unfold State.qAdvance
  repeat' first | with_reducible (first | assumption | apply State.stf_storesOk | intro) | dsimp only | split

theorem State.markBad_storesOk (s : State) (gid n : Nat) (oks : s.StoresOk) : (s.markBad gid n).StoresOk := by
  unfold State.markBad
  repeat' first | with_reducible (first | assumption | apply State.updGroup_storesOk | intro) | simp only [StoresOk.mk_iff] | split

theorem State.touchSpots_storesOk (s : State) (part : Nat) (l : List EngByte) (oks : s.StoresOk) : (s.touchSpots part l).StoresOk := by
  unfold State.touchSpots
  repeat' first
    | with_reducible (first | assumption | apply State.translate_storesOk | apply foldl_storesOk | intro)
    | simp only [StoresOk.mk_iff] | split

theorem State.readSectors_storesOk (s : State) (v : Victim) (l : List EngByte) (oks : s.StoresOk) : FstOk (s.readSectors v l) := by
  unfold State.readSectors
  repeat' first
    | with_reducible (first | assumption | apply State.readFor_storesOk | apply foldl_fst_storesOk | apply FstOk.fst | intro)
    | simp only [FstOk.mk_iff] | split

theorem State.readSpots_storesOk (s : State) (v : Victim) (l : List EngByte) (oks : s.StoresOk) : FstOk (s.readSpots v l) := by
  unfold State.readSpots
  repeat' first
    | with_reducible (first | assumption | apply State.readSectors_storesOk | apply FstOk.fst | intro)
    | simp only [FstOk.mk_iff] | split

theorem State.writeSpots_storesOk (s : State) (a0 : List (Except (BitVec 16) Byte × EngByte)) (oks : s.StoresOk) : FstOk (s.writeSpots a0) := by
  induction a0 generalizing s with
  | nil =>
    unfold State.writeSpots
    repeat' first
      | with_reducible (first | assumption | apply State.wrByte_storesOk | apply FstOk.fst | intro)
      | simp only [StoresOk.mk_iff, FstOk.mk_iff] | split
  | cons b r ih =>
    unfold State.writeSpots
    repeat' first
      | with_reducible (first | assumption | apply State.wrByte_storesOk | apply ih | apply FstOk.fst | intro)
      | simp only [StoresOk.mk_iff, FstOk.mk_iff] | split

theorem State.holdCmd_storesOk (s : State) (cid : Nat) (c : Cmd) (va : BitVec 64) (cause : BitVec 32) (entry : BitVec 128) (level : Nat) (oks :
    s.StoresOk) :
    (s.holdCmd cid c va cause entry level).StoresOk := by
  unfold State.holdCmd
  repeat' first | with_reducible (first | assumption | apply State.park_storesOk | intro) | simp only [StoresOk.mk_iff] | split

theorem State.raiseTo_storesOk (s : State) (gid : Nat) (cause : BitVec 32) (addr : BitVec 64) (oks : s.StoresOk) :
    (s.raiseTo gid cause addr).StoresOk := by
  unfold State.raiseTo
  repeat' first | with_reducible (first | assumption | apply State.raise_storesOk | intro) | simp only [StoresOk.mk_iff] | split

theorem State.nextFills_storesOk (s : State) (c : Cmd) (oks : s.StoresOk) : (s.nextFills c).StoresOk := by
  unfold State.nextFills
  repeat' first | with_reducible (first | assumption | apply State.raise_storesOk | apply foldl_storesOk | intro) | dsimp only | split

theorem State.endCmd_storesOk (s : State) (cid : Nat) (c : Cmd) (oks : s.StoresOk) : (s.endCmd cid c).StoresOk := by
  unfold State.endCmd
  repeat' first
    | with_reducible (first
        | assumption | apply State.askEnd_storesOk | apply State.finishCmd_storesOk | apply State.raiseTo_storesOk | apply State.nextFills_storesOk
        | intro)
    | dsimp only | split

theorem State.failDone_storesOk (s : State) (cid : Nat) (c : Cmd) (x : BitVec 32) (oks : s.StoresOk) : (s.failDone cid c x).StoresOk := by
  unfold State.failDone
  repeat' first
    | with_reducible (first
        | assumption | apply State.askEnd_storesOk | apply State.retireCmd_storesOk | apply State.touchSpots_storesOk | apply State.raiseTo_storesOk
        | intro)
    | dsimp only | split

theorem State.withDone_storesOk (s : State) (cid : Nat) (c : Cmd) (k : State) (oks : s.StoresOk) (okk : k.StoresOk) :
    (s.withDone cid c k).StoresOk := by
  unfold State.withDone
  repeat' first
    | with_reducible (first | assumption | apply State.holdCmd_storesOk | apply State.failDone_storesOk | intro)
    | simp only [StoresOk.mk_iff] | split

/-! ## Machine/CopyOps -/

theorem State.descriptor_storesOk (s : State) (t : Thread) (la : BitVec 4) (ofs n : Nat) (k : State → List (BitVec 64) → State) (oks :
    s.StoresOk) (hkk : ∀ x0 x1, x0.StoresOk → State.StoresOk (k x0 x1)) :
    (s.descriptor t la ofs n k).StoresOk := by
  unfold State.descriptor
  repeat' first | with_reducible (first | assumption | apply State.reach_storesOk | apply hkk | intro) | simp only [StoresOk.mk_iff] | split

theorem State.acquireFirst_storesOk (s : State) (t : Thread) (m : BitVec 13) (k : State → State) (oks : s.StoresOk) (hkk : ∀ x0, x0.StoresOk →
    State.StoresOk (k x0)) :
    (s.acquireFirst t m k).StoresOk := by
  unfold State.acquireFirst
  repeat' first | with_reducible (first | assumption | apply State.performThen_storesOk | apply hkk | intro) | dsimp only | split

theorem State.sbTake_storesOk (s : State) (cid : Nat) (a0 : Option (Nat × Nat × Nat)) (oks : s.StoresOk) : (s.sbTake cid a0).StoresOk := by
  cases a0 <;> unfold State.sbTake
  all_goals repeat' first | with_reducible (first | assumption | apply State.updCore_storesOk | intro) | simp only [StoresOk.mk_iff] | split

theorem State.acceptCopy_storesOk (s : State) (t : Thread) (la : BitVec 4) (g : Group) (c : Cmd) (oks : s.StoresOk) :
    (s.acceptCopy t la g c).StoresOk := by
  unfold State.acceptCopy
  repeat' first
    | with_reducible (first
        | assumption | apply State.plan_storesOk | apply State.raise_storesOk | apply State.waitFor_storesOk | apply State.fresh_storesOk
        | apply State.finishLong_storesOk | apply State.sbTake_storesOk | apply SndOk.snd | intro)
    | simp only [StoresOk.mk_iff] | split

theorem State.readIndices_storesOk (s : State) (v : Victim) (g : Group) (c : Cmd) (a0 : List Nat) (oks : s.StoresOk) :
    FstOk (s.readIndices v g c a0) := by
  induction a0 generalizing s c with
  | nil =>
    unfold State.readIndices
    repeat' first
      | with_reducible (first | assumption | apply State.readSpots_storesOk | apply FstOk.fst | intro)
      | simp only [FstOk.mk_iff] | split
  | cons b r ih =>
    unfold State.readIndices
    repeat' first
      | with_reducible (first | assumption | apply State.readSpots_storesOk | apply ih | apply FstOk.fst | intro)
      | simp only [FstOk.mk_iff] | split

theorem State.payFor_storesOk (s : State) (c : Cmd) (a0 : List Nat) (a1 : Nat) (oks : s.StoresOk) : FstOk (s.payFor c a0 a1) := by
  induction a0 generalizing s c a1 with
  | nil =>
    unfold State.payFor
    repeat' first | with_reducible (first | assumption | intro) | simp only [StoresOk.mk_iff, FstOk.mk_iff] | split
  | cons b r ih =>
    unfold State.payFor
    repeat' first | with_reducible (first | assumption | apply ih | intro) | simp only [StoresOk.mk_iff, FstOk.mk_iff] | split

theorem State.payAll_storesOk (s : State) (c : Cmd) (src : List Nat) (write : Bool) (oks : s.StoresOk) : FstOk (s.payAll c src write) := by
  unfold State.payAll
  repeat' first | with_reducible (first | assumption | apply State.payFor_storesOk | apply FstOk.fst | intro) | simp only [FstOk.mk_iff] | split

theorem State.moveSector_storesOk (s : State) (v : Victim) (c : Cmd) (units : List Nat) (src dst : List EngByte) (oks : s.StoresOk) :
    MovedOk (s.moveSector v c units src dst) := by
  unfold State.moveSector
  repeat' first
    | with_reducible (first
        | assumption | apply State.touchSpots_storesOk | apply State.readSpots_storesOk | apply State.writeSpots_storesOk
        | apply State.payAll_storesOk | apply FstOk.fst | intro)
    | simp only [MovedOk.mk0, MovedOk.mk1, MovedOk.mk2] | split

theorem State.copySector_storesOk (s : State) (g : Group) (c : Cmd) (d : Dst) (oks : s.StoresOk) : MovedOk (s.copySector g c d) := by
  unfold State.copySector
  repeat' first
    | with_reducible (first | assumption | apply State.readIndices_storesOk | apply State.moveSector_storesOk | apply FstOk.fst | intro)
    | dsimp only | split

theorem State.fillUnit_storesOk (s : State) (g : Group) (c : Cmd) (oks : s.StoresOk) : MovedOk (s.fillUnit g c) := by
  unfold State.fillUnit
  repeat' first
    | with_reducible (first
        | assumption | apply State.updHalf_storesOk | apply State.touchSpots_storesOk | apply State.readSpots_storesOk | apply State.payAll_storesOk
        | apply FstOk.fst | intro)
    | simp only [MovedOk.mk0, MovedOk.mk1, MovedOk.mk2] | split

theorem State.movePiece_storesOk (s : State) (g : Group) (c : Cmd) (d : Dst) (oks : s.StoresOk) : MovedOk (s.movePiece g c d) := by
  unfold State.movePiece
  repeat' first
    | with_reducible (first | assumption | apply State.copySector_storesOk | apply State.fillUnit_storesOk | intro)
    | simp only [StoresOk.mk_iff, MovedOk.mk0, MovedOk.mk1, MovedOk.mk2] | split

theorem State.moveOn_storesOk (s : State) (cid : Nat) (g : Group) (d : Dst) (c : Cmd) (a0 : Nat) (oks : s.StoresOk) :
    FstOk (s.moveOn cid g d c a0) := by
  induction a0 generalizing s cid c with
  | zero =>
    unfold State.moveOn
    repeat' first
      | with_reducible (first | assumption | apply State.plan_storesOk | apply State.holdCmd_storesOk | apply State.movePiece_storesOk | intro)
      | (apply MovedOk.of_done (by assumption)) | (apply MovedOk.of_later (by assumption)) | simp only [StoresOk.mk_iff, FstOk.mk_iff, MovedOk.mk0, MovedOk.mk1, MovedOk.mk2] | split
  | succ n ih =>
    unfold State.moveOn
    repeat' first
      | with_reducible (first | assumption | apply State.plan_storesOk | apply State.holdCmd_storesOk | apply State.movePiece_storesOk | apply ih | intro)
      | (apply MovedOk.of_done (by assumption)) | (apply MovedOk.of_later (by assumption)) | simp only [StoresOk.mk_iff, FstOk.mk_iff, MovedOk.mk0, MovedOk.mk1, MovedOk.mk2] | split

theorem State.stopCopy_storesOk (s : State) (cid : Nat) (c : Cmd) (oks : s.StoresOk) : (s.stopCopy cid c).StoresOk := by
  unfold State.stopCopy
  repeat' first
    | with_reducible (first | assumption | apply State.askEnd_storesOk | apply State.finishCmd_storesOk | apply State.markBad_storesOk | intro)
    | dsimp only | split

theorem State.copyEntries_storesOk (s : State) (cid : Nat) (c : Cmd) (g : Group) (ofs q : Nat) (oks : s.StoresOk) :
    (s.copyEntries cid c g ofs q).StoresOk := by
  unfold State.copyEntries
  repeat' first
    | with_reducible (first
        | assumption | apply State.qAdvance_storesOk | apply State.endCmd_storesOk | apply State.moveOn_storesOk | apply FstOk.fst | intro)
    | dsimp only | split

theorem State.completeCmd_storesOk (s : State) (cid : Nat) (oks : s.StoresOk) : (s.completeCmd cid).StoresOk := by
  unfold State.completeCmd
  repeat' first
    | with_reducible (first
        | assumption | apply State.endCmd_storesOk | apply State.withDone_storesOk | apply State.moveOn_storesOk | apply FstOk.fst | intro)
    | dsimp only | split

/-! ## Machine/FloatOps -/

theorem floatOp_storesOk (f : RegF) (s : State) (g : Thread → Nat → Num) (oks : s.StoresOk) : OutOk (floatOp f s g) := by
  unfold floatOp
  repeat' first | with_reducible (first | assumption | apply State.done_storesOk | apply State.act_storesOk | intro) | dsimp only | split

theorem encOp_storesOk (f : RegF) (s : State) (g : Thread → Nat → Nat) (oks : s.StoresOk) : OutOk (encOp f s g) := by
  unfold encOp
  repeat' first | with_reducible (first | assumption | apply State.compute_storesOk | intro) | dsimp only | split

theorem rootOp_storesOk (f : RegF) (s : State) (latency : Nat) (g : Num → Num) (oks : s.StoresOk) : OutOk (rootOp f s latency g) := by
  unfold rootOp
  repeat' first | with_reducible (first | assumption | apply State.act_storesOk | apply State.finishLong_storesOk | intro) | dsimp only | split

/-! ## Machine/IntOps -/

theorem intOp_storesOk (f : RegF) (s : State) (g : Nat → Bool → BitVec 64 → BitVec 64 → BitVec 64) (oks : s.StoresOk) : OutOk (intOp f s g) := by
  unfold intOp
  repeat' first | with_reducible (first | assumption | apply State.compute_storesOk | intro) | dsimp only | split

theorem intCtlOp_storesOk (f : RegF) (s : State) (g : Nat → BitVec 64 → BitVec 32 → BitVec 64) (oks : s.StoresOk) : OutOk (intCtlOp f s g) := by
  unfold intCtlOp
  repeat' first | with_reducible (first | assumption | apply State.compute_storesOk | intro) | dsimp only | split

theorem immOp_storesOk (f : ImmF) (s : State) (g : BitVec 64 → BitVec 64 → BitVec 64) (oks : s.StoresOk) : OutOk (immOp f s g) := by
  unfold immOp
  repeat' first | with_reducible (first | assumption | apply State.compute_storesOk | intro) | simp only [StoresOk.mk_iff] | split

/-! ## Machine/NarrowOps -/

theorem hxOp_storesOk (f : RegF) (s : State) (k : Thread → BitVec 64 → State) (oks : s.StoresOk) (hkk : ∀ x0 x1, State.StoresOk (k x0 x1)) :
    OutOk (hxOp f s k) := by
  unfold hxOp
  repeat' first | with_reducible (first | assumption | apply State.act_storesOk | apply State.trap_storesOk | apply hkk | intro) | dsimp only | split

theorem voteOp_storesOk (sub : Nat) (f : RegF) (s : State) (oks : s.StoresOk) : OutOk (voteOp sub f s) := by
  unfold voteOp
  repeat' first | with_reducible (first | assumption | apply State.compute_storesOk | intro) | dsimp only | split

/-! ## Machine/ArrayOps -/

theorem State.spanThen_storesOk (s : State) (t : Thread) (g : Group) (hs : List Nat) (tenant : BitVec 32) (k : State) (oks : s.StoresOk) (okk :
    k.StoresOk) :
    (s.spanThen t g hs tenant k).StoresOk := by
  unfold State.spanThen
  repeat' first | with_reducible (first | assumption | apply State.trap_storesOk | intro) | simp only [StoresOk.mk_iff] | split

theorem State.holdHalves_storesOk (s : State) (gid : Nat) (g : Group) (hs : List Nat) (oks : s.StoresOk) : (s.holdHalves gid g hs).StoresOk := by
  unfold State.holdHalves
  repeat' first
    | with_reducible (first | assumption | apply State.updGroup_storesOk | apply State.updHalf_storesOk | apply foldl_storesOk | intro)
    | simp only [StoresOk.mk_iff] | split

theorem State.enqueue_storesOk (s : State) (g : Group) (hs : List Nat) (m : MxCmd) (oks : s.StoresOk) : (s.enqueue g hs m).StoresOk := by
  unfold State.enqueue
  repeat' first
    | with_reducible (first | assumption | apply State.updHalf_storesOk | apply foldl_storesOk | intro)
    | simp only [StoresOk.mk_iff] | split

theorem State.arrayIssue_storesOk (s : State) (t : Thread) (g : Group) (span : Nat) (hs : List Nat) (k : MxKind) (oks : s.StoresOk) :
    (s.arrayIssue t g span hs k).StoresOk := by
  unfold State.arrayIssue
  repeat' first
    | with_reducible (first
        | assumption | apply State.done_storesOk | apply State.waitFor_storesOk | apply State.fresh_storesOk | apply State.holdHalves_storesOk
        | apply State.enqueue_storesOk | apply SndOk.snd | intro)
    | dsimp only | split

theorem State.arrayAct_storesOk (s : State) (f : RegF) (k : Thread → Group → State) (oks : s.StoresOk) (hkk : ∀ x0 x1, State.StoresOk (k x0 x1))
    :
    OutOk (s.arrayAct f k) := by
  unfold State.arrayAct
  repeat' first
    | with_reducible (first | assumption | apply State.act_storesOk | apply State.trap_storesOk | apply State.arrayThen_storesOk | apply hkk | intro)
    | simp only [StoresOk.mk_iff] | split

theorem State.retireSlots_storesOk (s : State) (gid n : Nat) (oks : s.StoresOk) : (s.retireSlots gid n).StoresOk := by
  unfold State.retireSlots
  repeat' first | with_reducible (first | assumption | intro) | simp only [StoresOk.mk_iff] | split

theorem State.programWords_storesOk (s : State) (t : Thread) (g : Group) (ofs n : Nat) (k : State → List (BitVec 32) → State) (oks : s.StoresOk)
    (hkk : ∀ x0 x1, x0.StoresOk → State.StoresOk (k x0 x1)) :
    (s.programWords t g ofs n k).StoresOk := by
  unfold State.programWords
  repeat' first
    | with_reducible (first | assumption | apply State.readFor_storesOk | apply State.consume_storesOk | apply State.waitAccess_storesOk | apply hkk | intro)
    | (apply FstOk.of_eq (by assumption)) | dsimp only | split

theorem State.acceptFill_storesOk (s : State) (t : Thread) (la : BitVec 4) (g : Group) (c : Cmd) (hs : List Nat) (oks : s.StoresOk) :
    (s.acceptFill t la g c hs).StoresOk := by
  unfold State.acceptFill
  repeat' first
    | with_reducible (first
        | assumption | apply State.updHalf_storesOk | apply State.waitFor_storesOk | apply State.fresh_storesOk | apply State.finishLong_storesOk
        | apply State.trap_storesOk | apply State.holdHalves_storesOk | apply State.enqueue_storesOk | apply foldl_storesOk | apply SndOk.snd | intro)
    | simp only [StoresOk.mk_iff] | split

theorem State.joinColl_storesOk (s : State) (t : Thread) (la : BitVec 4) (g : Group) (l : Launch) (m : CollMember) (oks : s.StoresOk) :
    (s.joinColl t la g l m).StoresOk := by
  unfold State.joinColl
  repeat' first
    | with_reducible (first
        | assumption | apply State.raise_storesOk | apply State.serve_storesOk | apply State.failColl_storesOk | apply State.waitFor_storesOk
        | apply State.fresh_storesOk | apply State.finishLong_storesOk | apply FstOk.fst | apply SndOk.snd | intro)
    | simp only [StoresOk.mk_iff, SndOk.mk_iff] | split

/-! ## Machine/Array -/

theorem State.dropMx_storesOk (s : State) (core cid : Nat) (oks : s.StoresOk) : (s.dropMx core cid).StoresOk := by
  unfold State.dropMx
  repeat' first
    | with_reducible (first | assumption | apply State.updHalf_storesOk | apply foldl_storesOk | intro)
    | simp only [StoresOk.mk_iff] | split

theorem State.endMx_storesOk (s : State) (core cid gid : Nat) (oks : s.StoresOk) : (s.endMx core cid gid).StoresOk := by
  unfold State.endMx
  repeat' first
    | with_reducible (first | assumption | apply State.wakeAll_storesOk | apply State.askEnd_storesOk | apply State.dropMx_storesOk | intro)
    | dsimp only | split

theorem State.markStarted_storesOk (s : State) (core cid : Nat) (oks : s.StoresOk) : (s.markStarted core cid).StoresOk := by
  unfold State.markStarted
  repeat' first
    | with_reducible (first | assumption | apply State.updHalf_storesOk | apply foldl_storesOk | intro)
    | simp only [StoresOk.mk_iff] | split

theorem State.discardAfter_storesOk (s : State) (core cid h : Nat) (oks : s.StoresOk) : (s.discardAfter core cid h).StoresOk := by
  unfold State.discardAfter
  repeat' first
    | with_reducible (first
        | assumption | apply State.serve_storesOk | apply State.askEnd_storesOk | apply State.cancelCmd_storesOk | apply State.endMx_storesOk
        | apply foldl_storesOk | apply FstOk.fst | intro)
    | dsimp only | split

theorem State.discardLater_storesOk (s : State) (core cid : Nat) (oks : s.StoresOk) : (s.discardLater core cid).StoresOk := by
  unfold State.discardLater
  repeat' first | with_reducible (first | assumption | apply State.discardAfter_storesOk | apply foldl_storesOk | intro) | dsimp only | split

theorem State.asyncFault_storesOk (s : State) (gid : Nat) (cause : BitVec 32) (addr : BitVec 64) (oks : s.StoresOk) :
    (s.asyncFault gid cause addr).StoresOk := by
  unfold State.asyncFault
  repeat' first | with_reducible (first | assumption | apply State.updGroup_storesOk | intro) | simp only [StoresOk.mk_iff] | split

theorem State.queueFault_storesOk (s : State) (gid n : Nat) (oks : s.StoresOk) : (s.queueFault gid n).StoresOk := by
  unfold State.queueFault
  repeat' first
    | with_reducible (first | assumption | apply State.markBad_storesOk | apply State.asyncFault_storesOk | intro)
    | simp only [StoresOk.mk_iff] | split

theorem State.logArray_storesOk (s : State) (core h gid bank row col nrows ncols : Nat) (unc : Bool) (oks : s.StoresOk) :
    (s.logArray core h gid bank row col nrows ncols unc).StoresOk := by
  unfold State.logArray
  repeat' first | with_reducible (first | assumption | apply State.log_storesOk | intro) | dsimp only | split

theorem State.checkHalf_storesOk (s : State) (core h bank gid : Nat) (oks : s.StoresOk) : FstOk (s.checkHalf core h bank gid) := by
  unfold State.checkHalf
  repeat' first
    | with_reducible (first
        | assumption | apply State.updHalf_storesOk | apply State.errorIrq_storesOk | apply State.coreError_storesOk | apply State.raiseTo_storesOk
        | apply State.logArray_storesOk | intro)
    | simp only [FstOk.mk_iff] | split

theorem State.checkHalves_storesOk (s : State) (core bank gid : Nat) (a0 : List Nat) (oks : s.StoresOk) :
    FstOk (s.checkHalves core bank gid a0) := by
  induction a0 generalizing s core bank gid with
  | nil =>
    unfold State.checkHalves
    repeat' first
      | with_reducible (first | assumption | apply State.checkHalf_storesOk | apply FstOk.fst | intro)
      | simp only [FstOk.mk_iff] | split
  | cons b r ih =>
    unfold State.checkHalves
    repeat' first
      | with_reducible (first | assumption | apply State.checkHalf_storesOk | apply ih | apply FstOk.fst | intro)
      | simp only [FstOk.mk_iff] | split

theorem State.countDrain_storesOk (s : State) (core : Nat) (hs : List Nat) (oks : s.StoresOk) : (s.countDrain core hs).StoresOk := by
  unfold State.countDrain
  repeat' first
    | with_reducible (first | assumption | apply State.updHalf_storesOk | apply foldl_storesOk | intro)
    | simp only [StoresOk.mk_iff] | split

theorem State.startDrain_storesOk (s : State) (core : Nat) (m : MxCmd) (bank : Nat) (oks : s.StoresOk) : (s.startDrain core m bank).StoresOk := by
  unfold State.startDrain
  repeat' first
    | with_reducible (first
        | assumption | apply State.updHalf_storesOk | apply State.endMx_storesOk | apply State.markStarted_storesOk
        | apply State.discardLater_storesOk | apply State.checkHalves_storesOk | apply State.countDrain_storesOk | apply foldl_storesOk
        | apply FstOk.fst | intro)
    | dsimp only | split

theorem State.startMx_storesOk (s : State) (core : Nat) (m : MxCmd) (oks : s.StoresOk) : (s.startMx core m).StoresOk := by
  unfold State.startMx
  repeat' first
    | with_reducible (first
        | assumption | apply State.updHalf_storesOk | apply State.updCmd_storesOk | apply State.plan_storesOk | apply State.endMx_storesOk
        | apply State.markStarted_storesOk | apply State.startDrain_storesOk | apply foldl_storesOk | intro)
    | dsimp only | split

theorem State.kgroups_storesOk (s : State) (core : Nat) (m : MxCmd) (bank l0 p : Nat) (fa fb : BitVec 64) (chunk scales : List Byte) (oks :
    s.StoresOk) :
    (s.kgroups core m bank l0 p fa fb chunk scales).StoresOk := by
  unfold State.kgroups
  repeat' first | with_reducible (first | assumption | apply State.updHalf_storesOk | apply foldl_storesOk | intro) | dsimp only | split

theorem State.readEntries_storesOk (s : State) (gid : Nat) (g : Group) (ofs n : Nat) (oks : s.StoresOk) :
    (s.readEntries gid g ofs n).StoresOk := by
  unfold State.readEntries
  repeat' first
    | with_reducible (first | assumption | apply State.readFor_storesOk | apply State.raiseTo_storesOk | apply foldl_storesOk | intro)
    | (apply FstOk.of_eq (by assumption)) | dsimp only | split

theorem State.mmaTake_storesOk (s : State) (core : Nat) (m : MxCmd) (g : Group) (bank l0 kg : Nat) (fa fb : BitVec 64) (a0 : Option (List Byte ×
    List Byte × List (Nat × Nat))) (oks : s.StoresOk) :
    (s.mmaTake core m g bank l0 kg fa fb a0).StoresOk := by
  cases a0 <;> unfold State.mmaTake
  all_goals repeat' first
    | with_reducible (first
        | assumption | apply State.updHalf_storesOk | apply State.qAdvance_storesOk | apply State.endMx_storesOk | apply State.kgroups_storesOk
        | apply State.readEntries_storesOk | apply foldl_storesOk | intro)
    | dsimp only | split

theorem State.mmaStep_storesOk (s : State) (core : Nat) (m : MxCmd) (g : Group) (bank q l0 kg : Nat) (fa fb : BitVec 64) (oks : s.StoresOk) :
    (s.mmaStep core m g bank q l0 kg fa fb).StoresOk := by
  unfold State.mmaStep
  repeat' first
    | with_reducible (first
        | assumption | apply State.endMx_storesOk | apply State.discardLater_storesOk | apply State.queueFault_storesOk | apply State.mmaTake_storesOk
        | intro)
    | simp only [StoresOk.mk_iff] | split

theorem State.putOutput_storesOk (s : State) (g : Group) (ofs : Nat) (ws : List (BitVec 32)) (oks : s.StoresOk) :
    (s.putOutput g ofs ws).StoresOk := by
  unfold State.putOutput
  repeat' first | with_reducible (first | assumption | apply State.wrBytes_storesOk | apply State.qAdvance_storesOk | intro) | dsimp only | split

theorem State.endDrain_storesOk (s : State) (core : Nat) (m : MxCmd) (bank : Nat) (zero : Bool) (oks : s.StoresOk) :
    (s.endDrain core m bank zero).StoresOk := by
  unfold State.endDrain
  repeat' first
    | with_reducible (first
        | assumption | apply State.updHalf_storesOk | apply State.endMx_storesOk | apply State.countDrain_storesOk | apply foldl_storesOk | intro)
    | dsimp only | split

theorem State.setRun_storesOk (s : State) (core h : Nat) (r : Option DrainRun) (oks : s.StoresOk) : (s.setRun core h r).StoresOk := by
  unfold State.setRun
  repeat' first | with_reducible (first | assumption | apply State.updHalf_storesOk | intro) | simp only [StoresOk.mk_iff] | split

theorem State.handOver_storesOk (s : State) (core : Nat) (ws : List (BitVec 32)) (oks : s.StoresOk) : (s.handOver core ws).StoresOk := by
  unfold State.handOver
  repeat' first | with_reducible (first | assumption | apply State.setRun_storesOk | intro) | dsimp only | split

theorem State.closeOutput_storesOk (s : State) (core half : Nat) (m : MxCmd) (g : Group) (ofs bank words : Nat) (zero : Bool) (r : DrainRun)
    (oks : s.StoresOk) :
    (s.closeOutput core half m g ofs bank words zero r).StoresOk := by
  unfold State.closeOutput
  repeat' first
    | with_reducible (first | assumption | apply State.putOutput_storesOk | apply State.endDrain_storesOk | apply State.handOver_storesOk | intro)
    | dsimp only | split

theorem State.drainOutput_storesOk (s : State) (core half : Nat) (m : MxCmd) (g : Group) (bank q : Nat) (zero : Bool) (r : DrainRun) (oks :
    s.StoresOk) :
    (s.drainOutput core half m g bank q zero r).StoresOk := by
  unfold State.drainOutput
  repeat' first
    | with_reducible (first
        | assumption | apply State.discardLater_storesOk | apply State.queueFault_storesOk | apply State.putOutput_storesOk
        | apply State.endDrain_storesOk | apply State.setRun_storesOk | apply State.closeOutput_storesOk | intro)
    | dsimp only | split

theorem State.collRead_storesOk (s : State) (part : Nat) (c : Coll) (a0 : List CollMember) (oks : s.StoresOk) : FstOk (s.collRead part c a0) := by
  induction a0 generalizing s part with
  | nil =>
    unfold State.collRead
    repeat' first
      | with_reducible (first | assumption | apply State.readSpots_storesOk | apply FstOk.fst | intro)
      | simp only [FstOk.mk_iff] | split
  | cons b r ih =>
    unfold State.collRead
    repeat' first
      | with_reducible (first | assumption | apply State.readSpots_storesOk | apply ih | apply FstOk.fst | intro)
      | simp only [FstOk.mk_iff] | split

theorem State.collDeliver_storesOk (s : State) (part : Nat) (c : Coll) (m : CollMember) (bytes : List (Except (BitVec 16) Byte)) (oks :
    s.StoresOk) :
    (s.collDeliver part c m bytes).StoresOk := by
  unfold State.collDeliver
  repeat' first
    | with_reducible (first
        | assumption | apply State.stf_storesOk | apply State.writeSpots_storesOk | apply State.raiseTo_storesOk | apply FstOk.fst | intro)
    | dsimp only | split

theorem State.collGo_storesOk (s : State) (cid part : Nat) (c : Coll) (oks : s.StoresOk) : (s.collGo cid part c).StoresOk := by
  unfold State.collGo
  repeat' first
    | with_reducible (first
        | assumption | apply State.wakeAll_storesOk | apply State.askEnd_storesOk | apply State.touchSpots_storesOk | apply State.collRead_storesOk
        | apply State.collDeliver_storesOk | apply foldl_storesOk | apply FstOk.fst | intro)
    | simp only [StoresOk.mk_iff] | split

/-! ## Machine/AtomOps -/

theorem atomOp_storesOk (space : Space) (f : RegF) (s : State) (ofs : BitVec 8) (g : Thread → BitVec 64 → Option (BitVec 64)) (oks : s.StoresOk)
    :
    OutOk (atomOp space f s ofs g) := by
  unfold atomOp
  repeat' first
    | with_reducible (first
        | assumption | apply State.wrNat_storesOk | apply State.act_storesOk | apply State.finishLong_storesOk | apply State.reach_storesOk | intro)
    | simp only [StoresOk.mk_iff] | split

theorem atomIntOp_storesOk (op : Nat) (space : Space) (f : RegF) (s : State) (oks : s.StoresOk) : OutOk (atomIntOp op space f s) := by
  unfold atomIntOp
  repeat' first | with_reducible (first | assumption | apply atomOp_storesOk | intro) | dsimp only | split

/-! ## Machine/TagOps -/

theorem State.waitTag_storesOk (s : State) (t : Thread) (la : BitVec 4) (spc : Space) (ea : BitVec 64) (p : Place) (dests : List Dest) (a :
    WaitAct) (oks : s.StoresOk) :
    (s.waitTag t la spc ea p dests a).StoresOk := by
  unfold State.waitTag
  repeat' first
    | with_reducible (first | assumption | apply State.setDue_storesOk | apply State.openWindow_storesOk | intro)
    | simp only [StoresOk.mk_iff] | split

theorem tagLoad_storesOk (take : Bool) (space : Space) (f : RegF) (s : State) (oks : s.StoresOk) : OutOk (tagLoad take space f s) := by
  unfold tagLoad
  repeat' first
    | with_reducible (first
        | assumption | apply State.setTag_storesOk | apply State.serve_storesOk | apply State.act_storesOk | apply State.finishLong_storesOk
        | apply State.reach_storesOk | apply State.waitTag_storesOk | intro)
    | dsimp only | split

theorem State.releaseThen_storesOk (s : State) (t : Thread) (m : BitVec 13) (k : State → State) (oks : s.StoresOk) (hkk : ∀ x0, x0.StoresOk →
    State.StoresOk (k x0)) :
    (s.releaseThen t m k).StoresOk := by
  unfold State.releaseThen
  repeat' first | with_reducible (first | assumption | apply State.releaseFirst_storesOk | apply hkk | intro) | dsimp only | split

/-! ## Machine/Windows -/

theorem State.closeWin_storesOk (s : State) (q w : Nat) (oks : s.StoresOk) : (s.closeWin q w).StoresOk := by
  unfold State.closeWin
  repeat' first | with_reducible (first | assumption | apply State.updWin_storesOk | apply State.append_storesOk | intro) | dsimp only | split

theorem State.readSink_storesOk (s : State) (t : Thread) (x : Query) (cons prod : Loc) (oks : s.StoresOk) : FstOk (s.readSink t x cons prod) := by
  unfold State.readSink
  repeat' first
    | with_reducible (first | assumption | apply State.readFor_storesOk | intro)
    | (apply FstOk.of_eq (by assumption)) | dsimp only | split

theorem State.emitSink_storesOk (s : State) (t : Thread) (q w : Nat) (x : Query) (y : Win) (words : List (BitVec 32)) (oks : s.StoresOk) :
    (s.emitSink t q w x y words).StoresOk := by
  unfold State.emitSink
  repeat' first
    | with_reducible (first
        | assumption | apply State.updWin_storesOk | apply State.sinkWrite_storesOk | apply State.serve_storesOk | apply State.done_storesOk
        | apply State.waitFor_storesOk | apply State.consume_storesOk | apply State.xfail_storesOk | apply State.waitTag_storesOk
        | apply State.readSink_storesOk | apply FstOk.fst | intro)
    | (apply FstOk.of_eq (by assumption)) | dsimp only | split

theorem State.emitPane_storesOk (s : State) (t : Thread) (q w : Nat) (y : Win) (words : List (BitVec 32)) (oks : s.StoresOk) :
    (s.emitPane t q w y words).StoresOk := by
  unfold State.emitPane
  repeat' first
    | with_reducible (first | assumption | apply State.updQuery_storesOk | apply State.updWin_storesOk | apply State.done_storesOk | intro)
    | simp only [StoresOk.mk_iff] | split

/-! ## Machine/Reeve -/

theorem State.askQueryEnd_storesOk (s : State) (q : Nat) (oks : s.StoresOk) : (s.askQueryEnd q).StoresOk := by
  unfold State.askQueryEnd
  repeat' first | with_reducible (first | assumption | apply State.askEnd_storesOk | apply foldl_storesOk | intro) | dsimp only | split

theorem State.foldHeader_storesOk (a0 : Nat) (a1 : State) (oka1 : a1.StoresOk) : FstOk (State.foldHeader a0 a1) := by
  induction a0 generalizing a1 with
  | zero =>
    unfold State.foldHeader
    repeat' first
      | with_reducible (first | assumption | apply State.drawFree_storesOk | apply FstOk.fst | apply SndOk.snd | intro)
      | simp only [FstOk.mk_iff, SndOk.mk_iff] | split
  | succ n ih =>
    unfold State.foldHeader
    repeat' first
      | with_reducible (first | assumption | apply State.drawFree_storesOk | apply ih | apply FstOk.fst | apply SndOk.snd | intro)
      | simp only [FstOk.mk_iff, SndOk.mk_iff] | split

theorem State.putFold_storesOk (s : State) (q w : Nat) (x : Query) (n : Nat) (who : Who) (t : Thread) (o : Outstanding) (oks : s.StoresOk) :
    (s.putFold q w x n who t o).StoresOk := by
  unfold State.putFold
  repeat' first
    | with_reducible (first
        | assumption | apply State.delThread_storesOk | apply State.updWin_storesOk | apply State.deviceWrite_storesOk | apply State.laneGone_storesOk
        | apply State.foldHeader_storesOk | apply FstOk.fst | intro)
    | simp only [StoresOk.mk_iff, FstOk.mk_iff] | split

theorem State.foldThread_storesOk (s : State) (q w : Nat) (x : Query) (who : Who) (t : Thread) (o : Outstanding) (oks : s.StoresOk) :
    (s.foldThread q w x who t o).StoresOk := by
  unfold State.foldThread
  repeat' first
    | with_reducible (first
        | assumption | apply State.updQuery_storesOk | apply State.updWin_storesOk | apply State.flush_storesOk | apply State.dropFailures_storesOk
        | apply State.failEntry_storesOk | apply State.putFold_storesOk | intro)
    | dsimp only | split

theorem State.foldWin_storesOk (s : State) (q w : Nat) (oks : s.StoresOk) : (s.foldWin q w).StoresOk := by
  unfold State.foldWin
  repeat' first | with_reducible (first | assumption | apply State.foldThread_storesOk | intro) | simp only [StoresOk.mk_iff] | split

theorem State.makeRoom_storesOk (s : State) (q : Nat) (oks : s.StoresOk) : (s.makeRoom q).StoresOk := by
  unfold State.makeRoom
  repeat' first | with_reducible (first | assumption | apply State.foldWin_storesOk | intro) | simp only [StoresOk.mk_iff] | split

theorem State.restoreWin_storesOk (s : State) (q w : Nat) (oks : s.StoresOk) : (s.restoreWin q w).StoresOk := by
  unfold State.restoreWin
  repeat' first
    | with_reducible (first
        | assumption | apply State.setThread_storesOk | apply State.updWin_storesOk | apply State.prompt_storesOk | apply State.askQueryEnd_storesOk
        | apply State.makeRoom_storesOk | intro)
    | dsimp only | split

theorem State.birth_storesOk (s : State) (q : Nat) (key : BitVec 64) (pane : Bool) (num : Nat) (start ts : BitVec 64) (oks : s.StoresOk) :
    OptFstOk (s.birth q key pane num start ts) := by
  unfold State.birth
  repeat' first
    | with_reducible (first
        | assumption | apply State.setThread_storesOk | apply State.updQuery_storesOk | apply State.makeRoom_storesOk | apply OptFstOk.none
        | intro)
    | simp only [FstOk.mk_iff, OptFstOk.mk_iff] | split

theorem State.closeAll_storesOk (s : State) (q : Nat) (p : Win → Bool) (oks : s.StoresOk) : (s.closeAll q p).StoresOk := by
  unfold State.closeAll
  repeat' first
    | with_reducible (first | assumption | apply State.closeWin_storesOk | apply foldl_storesOk | intro)
    | simp only [StoresOk.mk_iff] | split

theorem State.advanceMark_storesOk (s : State) (q : Nat) (oks : s.StoresOk) : (s.advanceMark q).StoresOk := by
  unfold State.advanceMark
  repeat' first | with_reducible (first | assumption | apply State.updQuery_storesOk | apply State.closeAll_storesOk | intro) | dsimp only | split

theorem State.timerDue_storesOk (s : State) (q w : Nat) (oks : s.StoresOk) : (s.timerDue q w).StoresOk := by
  unfold State.timerDue
  repeat' first
    | with_reducible (first | assumption | apply State.updWin_storesOk | apply State.append_storesOk | intro)
    | simp only [StoresOk.mk_iff] | split

theorem State.countTrigger_storesOk (s : State) (q w : Nat) (oks : s.StoresOk) : (s.countTrigger q w).StoresOk := by
  unfold State.countTrigger
  repeat' first | with_reducible (first | assumption | apply State.closeWin_storesOk | intro) | dsimp only | split

theorem State.birthAll_storesOk (s : State) (q : Nat) (key ts : BitVec 64) (a0 : List (Bool × Nat)) (oks : s.StoresOk) :
    FstOk (s.birthAll q key ts a0) := by
  induction a0 generalizing s q key ts with
  | nil =>
    unfold State.birthAll
    repeat' first
      | with_reducible (first | assumption | apply State.birth_storesOk | intro)
      | (apply OptFstOk.of_eq (by assumption)) | simp only [StoresOk.mk_iff, FstOk.mk_iff, OptFstOk.mk_iff] | split
  | cons b r ih =>
    unfold State.birthAll
    repeat' first
      | with_reducible (first | assumption | apply State.birth_storesOk | apply ih | intro)
      | (apply OptFstOk.of_eq (by assumption)) | simp only [StoresOk.mk_iff, FstOk.mk_iff, OptFstOk.mk_iff] | split

theorem State.appendRec_storesOk (s : State) (q w : Nat) (r : Rec) (oks : s.StoresOk) : (s.appendRec q w r).StoresOk := by
  unfold State.appendRec
  repeat' first
    | with_reducible (first | assumption | apply State.updWin_storesOk | apply State.append_storesOk | apply State.countTrigger_storesOk | intro)
    | simp only [StoresOk.mk_iff] | split

theorem State.flushBatch_storesOk (s : State) (q : Nat) (oks : s.StoresOk) : (s.flushBatch q).StoresOk := by
  unfold State.flushBatch
  repeat' first
    | with_reducible (first
        | assumption | apply State.updQuery_storesOk | apply State.updWin_storesOk | apply State.append_storesOk | apply State.releaseCloses_storesOk
        | apply State.countTrigger_storesOk | apply foldl_storesOk | intro)
    | dsimp only | split

theorem State.deliverTo_storesOk (s : State) (q : Nat) (ws : List Nat) (r : Rec) (oks : s.StoresOk) : (s.deliverTo q ws r).StoresOk := by
  unfold State.deliverTo
  repeat' first
    | with_reducible (first
        | assumption | apply State.updQuery_storesOk | apply State.updWin_storesOk | apply State.appendRec_storesOk | apply State.flushBatch_storesOk
        | apply foldl_storesOk | intro)
    | dsimp only | split

theorem State.placeFixed_storesOk (s : State) (q : Nat) (x : Query) (r : Rec) (oks : s.StoresOk) : FstOk (s.placeFixed q x r) := by
  unfold State.placeFixed
  repeat' first
    | with_reducible (first
        | assumption | apply State.updQuery_storesOk | apply State.updWin_storesOk | apply State.birthAll_storesOk | apply State.deliverTo_storesOk
        | apply foldl_storesOk | apply FstOk.fst | intro)
    | simp only [FstOk.mk_iff] | split

theorem State.placeGap_storesOk (s : State) (q : Nat) (x : Query) (r : Rec) (oks : s.StoresOk) : FstOk (s.placeGap q x r) := by
  unfold State.placeGap
  repeat' first
    | with_reducible (first
        | assumption | apply State.updQuery_storesOk | apply State.birth_storesOk | apply State.appendRec_storesOk | apply State.deliverTo_storesOk
        | intro)
    | (apply OptFstOk.of_eq (by assumption)) | simp only [FstOk.mk_iff] | split

theorem State.intake_storesOk (s : State) (q : Nat) (a0 : List FrameRec) (oks : s.StoresOk) : FstOk (s.intake q a0) := by
  induction a0 generalizing s q with
  | nil =>
    unfold State.intake
    repeat' first
      | with_reducible (first | assumption | apply State.updQuery_storesOk | intro)
      | simp only [StoresOk.mk_iff, FstOk.mk_iff] | split
  | cons b r ih =>
    unfold State.intake
    repeat' first
      | with_reducible (first | assumption | apply State.updQuery_storesOk | apply ih | intro)
      | simp only [StoresOk.mk_iff, FstOk.mk_iff] | split

theorem State.refill_storesOk (s : State) (q : Nat) (oks : s.StoresOk) : (s.refill q).StoresOk := by
  unfold State.refill
  repeat' first
    | with_reducible (first | assumption | apply State.updQuery_storesOk | apply State.intake_storesOk | apply FstOk.fst | intro)
    | dsimp only | split

theorem State.placeRec_storesOk (s : State) (q : Nat) (x : Query) (r : Rec) (oks : s.StoresOk) : (s.placeRec q x r).StoresOk := by
  unfold State.placeRec
  repeat' first
    | with_reducible (first
        | assumption | apply State.updQuery_storesOk | apply State.placeFixed_storesOk | apply State.placeGap_storesOk | apply FstOk.fst | intro)
    | dsimp only | split

theorem State.placeFirst_storesOk (s : State) (qid : Nat) (x : Query) (r : Rec) (rest : List Rec) (oks : s.StoresOk) :
    (s.placeFirst qid x r rest).StoresOk := by
  unfold State.placeFirst
  repeat' first
    | with_reducible (first | assumption | apply State.updQuery_storesOk | apply State.advanceMark_storesOk | apply State.placeRec_storesOk | intro)
    | dsimp only | split

theorem State.endYounger_storesOk (s : State) (q w : Nat) (y : Win) (oks : s.StoresOk) : (s.endYounger q w y).StoresOk := by
  unfold State.endYounger
  repeat' first
    | with_reducible (first
        | assumption | apply State.delThread_storesOk | apply State.updQuery_storesOk | apply State.askEnd_storesOk | apply State.laneGone_storesOk
        | apply State.withdraw_storesOk | intro)
    | dsimp only | split

theorem State.enterMerge_storesOk (s : State) (q w : Nat) (entry : BitVec 64) (who : Who) (t : Thread) (oks : s.StoresOk) :
    (s.enterMerge q w entry who t).StoresOk := by
  unfold State.enterMerge
  repeat' first
    | with_reducible (first | assumption | apply State.setThread_storesOk | apply State.updWin_storesOk | intro)
    | simp only [StoresOk.mk_iff] | split

theorem State.mergeNow_storesOk (s : State) (q : Nat) (x : Query) (m : MergeSt) (b : Win) (who : Who) (t : Thread) (oks : s.StoresOk) :
    (s.mergeNow q x m b who t).StoresOk := by
  unfold State.mergeNow
  repeat' first
    | with_reducible (first
        | assumption | apply State.updQuery_storesOk | apply State.updWin_storesOk | apply State.wrBytes_storesOk | apply State.append_storesOk
        | apply State.appendRec_storesOk | apply State.endYounger_storesOk | apply State.enterMerge_storesOk | apply foldl_storesOk | intro)
    | dsimp only | split

theorem State.mergeAgain_storesOk (s : State) (q : Nat) (x : Query) (m : MergeSt) (oks : s.StoresOk) : (s.mergeAgain q x m).StoresOk := by
  unfold State.mergeAgain
  repeat' first
    | with_reducible (first
        | assumption | apply State.updQuery_storesOk | apply State.append_storesOk | apply State.deliverTo_storesOk | apply State.placeGap_storesOk
        | apply foldl_storesOk | apply FstOk.fst | intro)
    | dsimp only | split

theorem State.scanRecord_storesOk (s : State) (qid : Nat) (x : Query) (sc : ScanSt) (oks : s.StoresOk) : (s.scanRecord qid x sc).StoresOk := by
  unfold State.scanRecord
  repeat' first
    | with_reducible (first
        | assumption | apply State.updQuery_storesOk | apply State.park_storesOk | apply State.log_storesOk | apply State.touchRead_storesOk | intro)
    | dsimp only | split

/-! ## Machine/RedOps -/

theorem State.roomThen_storesOk (s : State) (t : Thread) (core q : Nat) (k : State → State) (oks : s.StoresOk) (hkk : ∀ x0, x0.StoresOk →
    State.StoresOk (k x0)) :
    (s.roomThen t core q k).StoresOk := by
  unfold State.roomThen
  repeat' first
    | with_reducible (first | assumption | apply State.updThread_storesOk | apply State.flushThen_storesOk | apply hkk | intro)
    | simp only [StoresOk.mk_iff] | split

theorem redOp_storesOk (op : Nat) (f : RegF) (s : State) (oks : s.StoresOk) : OutOk (redOp op f s) := by
  unfold redOp
  repeat' first
    | with_reducible (first
        | assumption | apply State.setBuffer_storesOk | apply State.done_storesOk | apply State.act_storesOk | apply State.trap_storesOk
        | apply State.roomThen_storesOk | intro)
    | dsimp only | split

/-! ## Machine/System -/

theorem State.arriveBarrier_storesOk (s : State) (t : Thread) (n : Nat) (f : Barrier → Barrier) (oks : s.StoresOk) :
    (s.arriveBarrier t n f).StoresOk := by
  unfold State.arriveBarrier
  repeat' first
    | with_reducible (first | assumption | apply State.setThread_storesOk | apply State.updGroup_storesOk | apply State.barrierCheck_storesOk | intro)
    | simp only [StoresOk.mk_iff] | split

theorem State.wakeLeavers_storesOk (s : State) (oks : s.StoresOk) : (s.wakeLeavers).StoresOk := by
  unfold State.wakeLeavers
  repeat' first
    | with_reducible (first | assumption | apply State.wakeAll_storesOk | apply State.freeGroup_storesOk | apply foldl_storesOk | intro)
    | simp only [StoresOk.mk_iff] | split

theorem State.markEnds_storesOk (s : State) (oks : s.StoresOk) : (s.markEnds).StoresOk := by
  unfold State.markEnds
  repeat' first
    | with_reducible (first | assumption | apply State.updGroup_storesOk | apply foldl_storesOk | intro)
    | simp only [StoresOk.mk_iff] | split

/-! ## Machine/Quasi -/

theorem State.setQru_storesOk (s : State) (gid : Nat) (q : Qru) (oks : s.StoresOk) : (s.setQru gid q).StoresOk := by
  unfold State.setQru
  repeat' first | with_reducible (first | assumption | apply State.updGroup_storesOk | intro) | simp only [StoresOk.mk_iff] | split

theorem State.deriveSeeds_storesOk (s : State) (g : Group) (q : Qru) (base n : Nat) (oks : s.StoresOk) : (s.deriveSeeds g q base n).StoresOk := by
  unfold State.deriveSeeds
  repeat' first | with_reducible (first | assumption | apply State.wrNat_storesOk | apply foldl_storesOk | intro) | dsimp only | split

theorem State.readTable_storesOk (s : State) (w : Who) (t : Thread) (q : Qru) (a : Nat) (a0 : Nat) (oks : s.StoresOk) :
    FstOk (s.readTable w t q a a0) := by
  induction a0 generalizing s a with
  | zero =>
    unfold State.readTable
    repeat' first
      | with_reducible (first | assumption | apply State.readFor_storesOk | apply State.translate_storesOk | intro)
      | (apply FstOk.of_eq (by assumption)) | simp only [StoresOk.mk_iff, FstOk.mk_iff] | split
  | succ n ih =>
    unfold State.readTable
    repeat' first
      | with_reducible (first | assumption | apply State.readFor_storesOk | apply State.translate_storesOk | apply ih | intro)
      | (apply FstOk.of_eq (by assumption)) | simp only [StoresOk.mk_iff, FstOk.mk_iff] | split

theorem State.wakeQuasi_storesOk (s : State) (gid : Nat) (oks : s.StoresOk) : (s.wakeQuasi gid).StoresOk := by
  unfold State.wakeQuasi
  repeat' first | with_reducible (first | assumption | apply State.wakeAll_storesOk | intro) | dsimp only | split

theorem State.loadWindow_storesOk (s : State) (t : Thread) (la : BitVec 4) (g : Group) (q : Qru) (a : Nat) (rows : List (List Byte)) (oks :
    s.StoresOk) :
    (s.loadWindow t la g q a rows).StoresOk := by
  unfold State.loadWindow
  repeat' first
    | with_reducible (first
        | assumption | apply State.wrBytes_storesOk | apply State.finishLong_storesOk | apply State.setQru_storesOk | apply State.deriveSeeds_storesOk
        | apply State.wakeQuasi_storesOk | apply foldl_storesOk | intro)
    | simp only [StoresOk.mk_iff] | split

theorem State.quasiThen_storesOk (s : State) (t : Thread) (k : Group → Qru → State) (oks : s.StoresOk) (hkk : ∀ x0 x1, State.StoresOk (k x0 x1))
    :
    (s.quasiThen t k).StoresOk := by
  unfold State.quasiThen
  repeat' first
    | with_reducible (first | assumption | apply State.waitFor_storesOk | apply State.trap_storesOk | apply hkk | intro)
    | simp only [StoresOk.mk_iff] | split

end Sys2Proof.Machine
end

