-- ==== Sys2Proof/Laws/StoresPackage.lean ====
section
/-! SUPPORT. The stores stay canonical under the operations of traps, launches, saves and restores, masters and the fleet. -/

namespace Sys2Proof.Machine

/-! ## Machine/Privilege -/

theorem State.updRv_storesOk (s : State) (core : Nat) (f : RvCore → RvCore) (oks : s.StoresOk) : (s.updRv core f).StoresOk := oks

theorem State.rvTrap_storesOk (s : State) (core : Nat) (cause tval : BitVec 64) (oks : s.StoresOk) : (s.rvTrap core cause tval).StoresOk := by
  unfold State.rvTrap
  repeat' first | with_reducible (first | assumption | apply State.updRv_storesOk | intro) | simp only [StoresOk.mk_iff] | split

theorem State.rvFault_storesOk (s : State) (core : Nat) (a : RvAct) (oks : s.StoresOk) : (s.rvFault core a).StoresOk := by
  unfold State.rvFault
  repeat' first | with_reducible (first | assumption | apply State.rvTrap_storesOk | intro) | dsimp only | split

theorem State.rvRetry_storesOk (s : State) (core : Nat) (a : RvAct) (oks : s.StoresOk) : (s.rvRetry core a).StoresOk := by
  unfold State.rvRetry
  repeat' first | with_reducible (first | assumption | apply State.updRv_storesOk | intro) | simp only [StoresOk.mk_iff] | split

/-! ## Machine/Traps -/

theorem State.ignoreResolve_storesOk (s : State) (part die : Nat) (v : BitVec 64) (oks : s.StoresOk) : (s.ignoreResolve part die v).StoresOk := by
  unfold State.ignoreResolve
  repeat' first | with_reducible (first | assumption | apply State.log_storesOk | intro) | dsimp only | split

theorem State.resolve_storesOk (s : State) (part die : Nat) (seq : BitVec 32) (code : Nat) (k : State → FaultRec → Req → State) (oks :
    s.StoresOk) (hkk : ∀ x0 x1 x2, x0.StoresOk → State.StoresOk (k x0 x1 x2)) :
    (s.resolve part die seq code k).StoresOk := by
  unfold State.resolve
  repeat' first
    | with_reducible (first | assumption | apply State.writeHeld_storesOk | apply State.ignoreResolve_storesOk | apply hkk | apply foldl_storesOk | intro)
    | simp only [StoresOk.mk_iff] | split

theorem State.resumeCmd_storesOk (s : State) (cid : Nat) (oks : s.StoresOk) : (s.resumeCmd cid).StoresOk := by
  unfold State.resumeCmd
  repeat' first | with_reducible (first | assumption | apply State.updCmd_storesOk | apply State.raise_storesOk | intro) | dsimp only | split

theorem State.retryReq_storesOk (s : State) (w1_0 : FaultRec) (r : Req) (oks : s.StoresOk) : (s.retryReq w1_0 r).StoresOk := by
  unfold State.retryReq
  repeat' first
    | with_reducible (first
        | assumption | apply State.updThread_storesOk | apply State.updQuery_storesOk | apply State.raise_storesOk | apply State.rvRetry_storesOk
        | apply State.resumeCmd_storesOk | intro)
    | simp only [StoresOk.mk_iff] | split

theorem State.wordAt_storesOk (s : State) (t : Thread) (oks : s.StoresOk) : SndOk (s.wordAt t) := by
  unfold State.wordAt
  repeat' first | with_reducible (first | assumption | apply State.drawFree_storesOk | intro) | simp only [SndOk.mk_iff] | split

theorem State.trapAt_storesOk (s : State) (w : Who) (cause : BitVec 32) (faddr : BitVec 64) (oks : s.StoresOk) :
    (s.trapAt w cause faddr).StoresOk := by
  unfold State.trapAt
  repeat' first
    | with_reducible (first | assumption | apply State.trap_storesOk | apply State.wordAt_storesOk | apply SndOk.snd | intro)
    | simp only [StoresOk.mk_iff] | split

theorem State.failHeld_storesOk (s : State) (cid : Nat) (f : FaultRec) (oks : s.StoresOk) : (s.failHeld cid f).StoresOk := by
  unfold State.failHeld
  repeat' first
    | with_reducible (first | assumption | apply State.updCmd_storesOk | apply State.resumeCmd_storesOk | intro)
    | simp only [StoresOk.mk_iff] | split

theorem State.failScan_storesOk (s : State) (q : Nat) (cause : BitVec 32) (oks : s.StoresOk) : (s.failScan q cause).StoresOk := by
  unfold State.failScan
  repeat' first | with_reducible (first | assumption | apply State.updQuery_storesOk | apply State.log_storesOk | intro) | dsimp only | split

theorem State.failDrain_storesOk (s : State) (core quarter : Nat) (f : FaultRec) (oks : s.StoresOk) : (s.failDrain core quarter f).StoresOk := by
  unfold State.failDrain
  repeat' first
    | with_reducible (first | assumption | apply State.setBuffer_storesOk | apply State.drainAgain_storesOk | intro)
    | simp only [StoresOk.mk_iff] | split

theorem State.failLoad_storesOk (s : State) (w : Who) (oid : Nat) (oks : s.StoresOk) : (s.failLoad w oid).StoresOk := by
  unfold State.failLoad
  repeat' first | with_reducible (first | assumption | apply State.updGroup_storesOk | intro) | simp only [StoresOk.mk_iff] | split

theorem State.failThread_storesOk (s : State) (w : Who) (oid : Nat) (cause : BitVec 32) (va : BitVec 64) (oks : s.StoresOk) :
    (s.failThread w oid cause va).StoresOk := by
  unfold State.failThread
  repeat' first
    | with_reducible (first | assumption | apply State.failEntry_storesOk | apply State.wakeQuasi_storesOk | apply State.failLoad_storesOk | intro)
    | simp only [StoresOk.mk_iff] | split

theorem State.trapReq_storesOk (s : State) (f : FaultRec) (r : Req) (oks : s.StoresOk) : (s.trapReq f r).StoresOk := by
  unfold State.trapReq
  repeat' first
    | with_reducible (first
        | assumption | apply State.rvFault_storesOk | apply State.trapAt_storesOk | apply State.failHeld_storesOk | apply State.failScan_storesOk
        | apply State.failDrain_storesOk | apply State.failThread_storesOk | intro)
    | simp only [StoresOk.mk_iff] | split

theorem State.killOf_storesOk (s : State) (w : Who) (oks : s.StoresOk) : (s.killOf w).StoresOk := by
  unfold State.killOf
  repeat' first
    | with_reducible (first | assumption | apply State.killGroup_storesOk | apply State.endEstateHandler_storesOk | intro)
    | simp only [StoresOk.mk_iff] | split

theorem State.killReq_storesOk (s : State) (f : FaultRec) (r : Req) (oks : s.StoresOk) : (s.killReq f r).StoresOk := by
  unfold State.killReq
  repeat' first
    | with_reducible (first
        | assumption | apply State.raise_storesOk | apply State.killGroup_storesOk | apply State.rvFault_storesOk | apply State.failHeld_storesOk
        | apply State.failScan_storesOk | apply State.killOf_storesOk | apply foldl_storesOk | intro)
    | simp only [StoresOk.mk_iff] | split

theorem State.resolveWrite_storesOk (s : State) (part die : Nat) (v : BitVec 64) (oks : s.StoresOk) : (s.resolveWrite part die v).StoresOk := by
  unfold State.resolveWrite
  repeat' first
    | with_reducible (first
        | assumption | apply State.ignoreResolve_storesOk | apply State.resolve_storesOk | apply State.retryReq_storesOk
        | apply State.trapReq_storesOk | apply State.killReq_storesOk | intro)
    | dsimp only | split

theorem State.startHandler_storesOk (s : State) (core n : Nat) (w : Who) (oks : s.StoresOk) : (s.startHandler core n w).StoresOk := by
  unfold State.startHandler
  repeat' first
    | with_reducible (first | assumption | apply State.setThread_storesOk | apply State.updLaunch_storesOk | apply State.updCore_storesOk | intro)
    | dsimp only | split

theorem State.startReport_storesOk (s : State) (core n : Nat) (r : Report) (oks : s.StoresOk) : (s.startReport core n r).StoresOk := by
  unfold State.startReport
  repeat' first
    | with_reducible (first | assumption | apply State.setThread_storesOk | apply State.updLaunch_storesOk | apply State.updCore_storesOk | intro)
    | simp only [StoresOk.mk_iff] | split

theorem State.emptyRange_storesOk (s : State) (g : Group) (r : Region) (a0 : Nat) (a1 : Nat) (oks : s.StoresOk) :
    FstOk (s.emptyRange g r a0 a1) := by
  induction a0 generalizing s a1 with
  | zero =>
    unfold State.emptyRange
    repeat' first
      | with_reducible (first | assumption | apply State.setTag_storesOk | apply State.serve_storesOk | apply FstOk.fst | intro)
      | simp only [StoresOk.mk_iff, FstOk.mk_iff] | split
  | succ n ih =>
    unfold State.emptyRange
    repeat' first
      | with_reducible (first | assumption | apply State.setTag_storesOk | apply State.serve_storesOk | apply ih | apply FstOk.fst | intro)
      | simp only [StoresOk.mk_iff, FstOk.mk_iff] | split

theorem State.stopForUnwind_storesOk (s : State) (gid core : Nat) (cause : BitVec 32) (addr : BitVec 64) (oks : s.StoresOk) :
    (s.stopForUnwind gid core cause addr).StoresOk := by
  unfold State.stopForUnwind
  repeat' first
    | with_reducible (first
        | assumption | apply State.updGroup_storesOk | apply State.updCore_storesOk | apply State.withdraw_storesOk | apply State.stopThread_storesOk
        | apply State.stopThreads_storesOk | apply State.cancelAll_storesOk | intro)
    | simp only [StoresOk.mk_iff] | split

theorem State.unwind_storesOk (s : State) (gid : Nat) (g : Group) (r : Region) (cause : BitVec 32) (addr : BitVec 64) (oks : s.StoresOk) :
    (s.unwind gid g r cause addr).StoresOk := by
  unfold State.unwind
  repeat' first
    | with_reducible (first
        | assumption | apply State.updThread_storesOk | apply State.updGroup_storesOk | apply State.updLaunch_storesOk | apply State.withdraw_storesOk
        | apply State.discardArray_storesOk | apply State.withdrawColls_storesOk | apply State.convey_storesOk | apply State.emptyRange_storesOk
        | apply FstOk.fst | intro)
    | simp only [StoresOk.mk_iff, FstOk.mk_iff] | split

theorem State.goOnUnwind_storesOk (s : State) (gid : Nat) (oks : s.StoresOk) : (s.goOnUnwind gid).StoresOk := by
  unfold State.goOnUnwind
  repeat' first | with_reducible (first | assumption | apply State.unwind_storesOk | intro) | simp only [StoresOk.mk_iff] | split

theorem State.trapConsumer_storesOk (s : State) (who : Who) (oid : Nat) (cause : BitVec 32) (addr : BitVec 64) (oks : s.StoresOk) :
    (s.trapConsumer who oid cause addr).StoresOk := by
  unfold State.trapConsumer
  repeat' first | with_reducible (first | assumption | apply State.failEntry_storesOk | intro) | simp only [StoresOk.mk_iff] | split

/-! ## Machine/Estate -/

theorem State.putEntry_storesOk (s : State) (gid i : Nat) (e : Entry) (oks : s.StoresOk) : (s.putEntry gid i e).StoresOk := by
  unfold State.putEntry
  repeat' first | with_reducible (first | assumption | apply State.updGroup_storesOk | intro) | simp only [StoresOk.mk_iff] | split

theorem State.retireEntry_storesOk (s : State) (gid i : Nat) (oks : s.StoresOk) : (s.retireEntry gid i).StoresOk := by
  unfold State.retireEntry
  repeat' first | with_reducible (first | assumption | apply State.updGroup_storesOk | intro) | simp only [StoresOk.mk_iff] | split

theorem State.estate_storesOk (s : State) (t : Thread) (f : RegF) (a : Acc) (k : State → Group → Place → Nat → BitVec 64 → State) (oks :
    s.StoresOk) (hkk : ∀ x0 x1 x2 x3 x4, x0.StoresOk → State.StoresOk (k x0 x1 x2 x3 x4)) :
    (s.estate t f a k).StoresOk := by
  unfold State.estate
  repeat' first
    | with_reducible (first | assumption | apply State.done_storesOk | apply State.reach_storesOk | apply hkk | intro)
    | simp only [StoresOk.mk_iff] | split

theorem State.holdWord_storesOk (s : State) (t : Thread) (f : RegF) (lock : Bool) (oks : s.StoresOk) : (s.holdWord t f lock).StoresOk := by
  unfold State.holdWord
  repeat' first
    | with_reducible (first
        | assumption | apply State.setTag_storesOk | apply State.serve_storesOk | apply State.done_storesOk | apply State.waitTag_storesOk
        | apply State.putEntry_storesOk | apply State.estate_storesOk | intro)
    | dsimp only | split

theorem State.beforeFill_storesOk (s : State) (t : Thread) (f : RegF) (kind : Nat) (k : State → State) (oks : s.StoresOk) (hkk : ∀ x0,
    x0.StoresOk → State.StoresOk (k x0)) :
    (s.beforeFill t f kind k).StoresOk := by
  unfold State.beforeFill
  repeat' first | with_reducible (first | assumption | apply State.releaseFirst_storesOk | apply hkk | intro) | dsimp only | split

theorem State.fillEntry_storesOk (s : State) (t : Thread) (f : RegF) (i : Nat) (p : Place) (oks : s.StoresOk) :
    (s.fillEntry t f i p).StoresOk := by
  unfold State.fillEntry
  repeat' first
    | with_reducible (first
        | assumption | apply State.fill_storesOk | apply State.serve_storesOk | apply State.done_storesOk | apply State.retireEntry_storesOk | intro)
    | dsimp only | split

/-! ## Machine/LaunchRec -/

theorem State.touchChecks_storesOk (s : State) (l : Launch) (oks : s.StoresOk) : (s.touchChecks l).StoresOk := by
  unfold State.touchChecks
  repeat' first | with_reducible (first | assumption | apply State.touchRead_storesOk | apply foldl_storesOk | intro) | dsimp only | split

/-! ## Machine/LaunchOps -/

theorem State.writeJournal_storesOk (s : State) (die type index graph : Nat) (value : BitVec 64) (oks : s.StoresOk) :
    (s.writeJournal die type index graph value).StoresOk := by
  unfold State.writeJournal
  repeat' first
    | with_reducible (first | assumption | apply State.updDie_storesOk | apply State.wrBytes_storesOk | intro)
    | simp only [StoresOk.mk_iff] | split

theorem State.journal_storesOk (s : State) (die type index graph : Nat) (value : BitVec 64) (oks : s.StoresOk) :
    (s.journal die type index graph value).StoresOk := by
  unfold State.journal
  repeat' first | with_reducible (first | assumption | apply State.updDie_storesOk | apply State.writeJournal_storesOk | intro) | dsimp only | split

theorem State.acceptLaunch_storesOk (s : State) (r : List (BitVec 64)) (part die : Nat) (source : LSource) (va : BitVec 64) (entry : Option Nat)
    (oks : s.StoresOk) :
    (s.acceptLaunch r part die source va entry).StoresOk := by
  unfold State.acceptLaunch
  repeat' first
    | with_reducible (first | assumption | apply State.fresh_storesOk | apply State.askPlacement_storesOk | apply SndOk.snd | intro)
    | simp only [StoresOk.mk_iff] | split

theorem State.kickWrite_storesOk (s : State) (die graph : Nat) (patch : BitVec 64) (oks : s.StoresOk) : FstOk (s.kickWrite die graph patch) := by
  unfold State.kickWrite
  repeat' first
    | with_reducible (first | assumption | apply State.updDie_storesOk | apply State.raise_storesOk | intro)
    | simp only [FstOk.mk_iff] | split

theorem State.updGraph_storesOk (s : State) (die graph : Nat) (f : Graph → Graph) (oks : s.StoresOk) : (s.updGraph die graph f).StoresOk := by
  unfold State.updGraph
  repeat' first | with_reducible (first | assumption | apply State.updDie_storesOk | intro) | simp only [StoresOk.mk_iff] | split

theorem State.graphDone_storesOk (s : State) (die graph : Nat) (g : Graph) (oks : s.StoresOk) : (s.graphDone die graph g).StoresOk := by
  unfold State.graphDone
  repeat' first
    | with_reducible (first
        | assumption | apply State.raise_storesOk | apply State.fillVa_storesOk | apply State.journal_storesOk | apply State.updGraph_storesOk | intro)
    | dsimp only | split

theorem State.nodeDone_storesOk (s : State) (die graph node : Nat) (word : BitVec 64) (v : BitVec 32) (oks : s.StoresOk) :
    (s.nodeDone die graph node word v).StoresOk := by
  unfold State.nodeDone
  repeat' first
    | with_reducible (first
        | assumption | apply State.raise_storesOk | apply State.fillVa_storesOk | apply State.journal_storesOk | apply State.updGraph_storesOk
        | apply State.graphDone_storesOk | apply foldl_storesOk | intro)
    | dsimp only | split

theorem State.applyPatches_storesOk (s : State) (g : Graph) (vs : List (BitVec 64)) (oks : s.StoresOk) : (s.applyPatches g vs).StoresOk := by
  unfold State.applyPatches
  repeat' first
    | with_reducible (first | assumption | apply State.deviceWrite_storesOk | apply foldl_storesOk | intro)
    | simp only [StoresOk.mk_iff] | split

theorem State.failReplay_storesOk (s : State) (die graph : Nat) (g : Graph) (oks : s.StoresOk) : (s.failReplay die graph g).StoresOk := by
  unfold State.failReplay
  repeat' first
    | with_reducible (first | assumption | apply State.fillVa_storesOk | apply State.journal_storesOk | apply foldl_storesOk | intro)
    | simp only [StoresOk.mk_iff] | split

theorem State.runReplay_storesOk (s : State) (die graph : Nat) (g : Graph) (vs : List (BitVec 64)) (oks : s.StoresOk) :
    (s.runReplay die graph g vs).StoresOk := by
  unfold State.runReplay
  repeat' first
    | with_reducible (first
        | assumption | apply State.raise_storesOk | apply State.emptyVa_storesOk | apply State.updGraph_storesOk | apply State.applyPatches_storesOk
        | apply foldl_storesOk | intro)
    | simp only [StoresOk.mk_iff] | split

theorem State.replay_storesOk (s : State) (die graph : Nat) (patch : BitVec 64) (oks : s.StoresOk) : (s.replay die graph patch).StoresOk := by
  unfold State.replay
  repeat' first
    | with_reducible (first
        | assumption | apply State.updDie_storesOk | apply State.log_storesOk | apply State.touchRead_storesOk | apply State.journal_storesOk
        | apply State.failReplay_storesOk | apply State.runReplay_storesOk | intro)
    | dsimp only | split

theorem State.startNode_storesOk (s : State) (die graph node : Nat) (g : Graph) (x : GraphNode) (oks : s.StoresOk) :
    (s.startNode die graph node g x).StoresOk := by
  unfold State.startNode
  repeat' first
    | with_reducible (first
        | assumption | apply State.touchRead_storesOk | apply State.journal_storesOk | apply State.acceptLaunch_storesOk
        | apply State.updGraph_storesOk | apply State.nodeDone_storesOk | intro)
    | dsimp only | split

theorem State.takeLaunch_storesOk (s : State) (t : Thread) (f : RegF) (r : List (BitVec 64)) (va : BitVec 64) (entry : Nat) (est : Option (Nat ×
    BitVec 32)) (oks : s.StoresOk) :
    (s.takeLaunch t f r va entry est).StoresOk := by
  unfold State.takeLaunch
  repeat' first
    | with_reducible (first
        | assumption | apply State.updDie_storesOk | apply State.emptyVa_storesOk | apply State.done_storesOk | apply State.putEntry_storesOk
        | apply State.journal_storesOk | apply State.acceptLaunch_storesOk | intro)
    | simp only [StoresOk.mk_iff] | split

theorem State.launchOp_storesOk (s : State) (t : Thread) (f : RegF) (est : Bool) (oks : s.StoresOk) : (s.launchOp t f est).StoresOk := by
  unfold State.launchOp
  repeat' first
    | with_reducible (first
        | assumption | apply State.done_storesOk | apply State.trap_storesOk | apply State.xfail_storesOk | apply State.reach_storesOk
        | apply State.takeLaunch_storesOk | intro)
    | dsimp only | split

theorem State.dropLaunch_storesOk (s : State) (lid : Nat) (l : Launch) (oks : s.StoresOk) : (s.dropLaunch lid l).StoresOk := by
  unfold State.dropLaunch
  repeat' first | with_reducible (first | assumption | intro) | simp only [StoresOk.mk_iff] | split

theorem State.endLaunch_storesOk (s : State) (lid : Nat) (l : Launch) (v : BitVec 32) (oks : s.StoresOk) : (s.endLaunch lid l v).StoresOk := by
  unfold State.endLaunch
  repeat' first
    | with_reducible (first | assumption | apply State.fillVa_storesOk | apply State.nodeDone_storesOk | apply State.dropLaunch_storesOk | intro)
    | dsimp only | split

/-! ## Machine/Placement -/

/-- What a look at one entry comes to has canonical stores. -/
def LookOk : Look → Prop
  | .acted u => u.StoresOk
  | .elsewhere _ => True
  | .waits => True

theorem LookOk.mk0 {u : State} : LookOk (.acted u) ↔ u.StoresOk := Iff.rfl
theorem LookOk.mk1 {d : Nat} : LookOk (.elsewhere d) ↔ True := Iff.rfl
theorem LookOk.mk2 : LookOk .waits ↔ True := Iff.rfl
theorem LookOk.of_acted {d : Look} {u : State} (e : d = .acted u) (h : LookOk d) : u.StoresOk := by subst e; exact h

theorem State.emptyTags_storesOk (s : State) (core base bytes : Nat) (oks : s.StoresOk) : (s.emptyTags core base bytes).StoresOk := by
  exact State.setTags_storesOk _ _ oks (Sparse.clear_wf oks.tagsWf)

theorem State.takeCore_storesOk (s : State) (core : Nat) (oks : s.StoresOk) : (s.takeCore core).StoresOk := by
  unfold State.takeCore
  repeat' first | with_reducible (first | assumption | apply State.updCore_storesOk | intro) | simp only [StoresOk.mk_iff] | split

theorem State.setDown_storesOk (s : State) (lid : Nat) (l : Launch) (grp : Nat) (share : Option Nat) (x : Spot) (oks : s.StoresOk) :
    (s.setDown lid l grp share x).StoresOk := by
  unfold State.setDown
  repeat' first
    | with_reducible (first
        | assumption | apply State.updLaunch_storesOk | apply State.fresh_storesOk | apply State.emptyTags_storesOk | apply State.takeCore_storesOk
        | apply SndOk.snd | intro)
    | simp only [StoresOk.mk_iff] | split

theorem State.placeGroup_storesOk (s : State) (lid grp : Nat) (share : Option Nat) (avoid : List Nat) (oks : s.StoresOk) :
    OptFstOk (s.placeGroup lid grp share avoid) := by
  unfold State.placeGroup
  repeat' first
    | with_reducible (first | assumption | apply State.updLaunch_storesOk | apply State.setDown_storesOk | apply OptFstOk.none | intro)
    | simp only [FstOk.mk_iff, OptFstOk.mk_iff] | split

theorem State.placeSet_storesOk (s : State) (lid share : Nat) (avoid : List Nat) (a0 : Nat) (a1 : Nat) (oks : s.StoresOk) :
    OptFstOk (s.placeSet lid share avoid a0 a1) := by
  induction a0 generalizing s lid share avoid a1 with
  | zero =>
    unfold State.placeSet
    repeat' first
      | with_reducible (first | assumption | apply State.placeGroup_storesOk | apply OptFstOk.map | apply OptFstOk.none | intro)
      | (apply OptFstOk.of_eq (by assumption)) | simp only [StoresOk.mk_iff, FstOk.mk_iff, OptFstOk.mk_iff] | split
  | succ n ih =>
    unfold State.placeSet
    repeat' first
      | with_reducible (first | assumption | apply State.placeGroup_storesOk | apply ih | apply OptFstOk.map | apply OptFstOk.none | intro)
      | (apply OptFstOk.of_eq (by assumption)) | simp only [StoresOk.mk_iff, FstOk.mk_iff, OptFstOk.mk_iff] | split

theorem State.placeNext_storesOk (s : State) (lid : Nat) (l : Launch) (avoid : List Nat) (oks : s.StoresOk) :
    OptFstOk (s.placeNext lid l avoid) := by
  unfold State.placeNext
  repeat' first
    | with_reducible (first
        | assumption | apply State.fresh_storesOk | apply State.placeGroup_storesOk | apply State.placeSet_storesOk | apply SndOk.snd
        | apply OptFstOk.map | intro)
    | dsimp only | split

theorem State.startQuery_storesOk (s : State) (lid : Nat) (l : Launch) (die : Nat) (b : Option WinBlock) (oks : s.StoresOk) :
    (s.startQuery lid l die b).StoresOk := by
  unfold State.startQuery
  repeat' first
    | with_reducible (first
        | assumption | apply State.updLaunch_storesOk | apply State.updDie_storesOk | apply State.fresh_storesOk | apply SndOk.snd | intro)
    | simp only [StoresOk.mk_iff] | split

theorem State.refuseLaunch_storesOk (s : State) (lid : Nat) (l : Launch) (code : Nat) (oks : s.StoresOk) :
    (s.refuseLaunch lid l code).StoresOk := by
  unfold State.refuseLaunch
  repeat' first | with_reducible (first | assumption | apply State.endLaunch_storesOk | intro) | dsimp only | split

theorem State.firstChecks_storesOk (s : State) (lid : Nat) (l : Launch) (die : Nat) (oks : s.StoresOk) : ExcOk (s.firstChecks lid l die) := by
  unfold State.firstChecks
  repeat' first
    | with_reducible (first
        | assumption | apply State.updLaunch_storesOk | apply State.touchChecks_storesOk | apply State.startQuery_storesOk | apply ExcOk.mk
        | apply ExcOk.error | intro)
    | simp only [StoresOk.mk_iff] | split

theorem State.lastPlaced_storesOk (s : State) (lid : Nat) (oks : s.StoresOk) : (s.lastPlaced lid).StoresOk := by
  unfold State.lastPlaced
  repeat' first
    | with_reducible (first | assumption | apply State.updLaunch_storesOk | apply State.updDie_storesOk | apply State.journal_storesOk | intro)
    | dsimp only | split

theorem State.placeChecked_storesOk (s : State) (lid : Nat) (avoid : List Nat) (oks : s.StoresOk) : LookOk (s.placeChecked lid avoid) := by
  unfold State.placeChecked
  repeat' first
    | with_reducible (first | assumption | apply State.placeNext_storesOk | apply State.lastPlaced_storesOk | intro)
    | (apply OptFstOk.of_eq (by assumption)) | simp only [LookOk.mk0, LookOk.mk2] | split

theorem State.lookLaunch_storesOk (s : State) (die lid : Nat) (l : Launch) (avoid : List Nat) (oks : s.StoresOk) :
    LookOk (s.lookLaunch die lid l avoid) := by
  unfold State.lookLaunch
  repeat' first
    | with_reducible (first
        | assumption | apply State.touchChecks_storesOk | apply State.refuseLaunch_storesOk | apply State.firstChecks_storesOk
        | apply State.placeChecked_storesOk | intro)
    | (apply ExcOk.of_eq (by assumption)) | simp only [LookOk.mk0, LookOk.mk1, LookOk.mk2] | split

theorem State.walkOrder_storesOk (s : State) (die : Nat) (a0 : List Waiting) (a1 : List Nat) (oks : s.StoresOk) :
    FstOk (s.walkOrder die a0 a1) := by
  induction a0 generalizing s a1 with
  | nil => exact oks
  | cons b r ih =>
    cases b <;> unfold State.walkOrder <;> (repeat' first
      | with_reducible assumption | with_reducible apply State.raise_storesOk | with_reducible apply State.lookLaunch_storesOk
      | with_reducible apply ih | (apply LookOk.of_acted (by assumption)) | simp only [FstOk.mk_iff] | split)

theorem State.dispatch_storesOk (die : Nat) (a0 : Nat) (a1 : State) (oka1 : a1.StoresOk) : (State.dispatch die a0 a1).StoresOk := by
  induction a0 generalizing die a1 with
  | zero =>
    unfold State.dispatch
    repeat' first
      | with_reducible (first | assumption | apply State.walkOrder_storesOk | apply FstOk.fst | intro)
      | simp only [FstOk.mk_iff] | split
  | succ n ih =>
    unfold State.dispatch
    repeat' first
      | with_reducible (first | assumption | apply State.walkOrder_storesOk | apply ih | apply FstOk.fst | intro)
      | simp only [FstOk.mk_iff] | split

theorem State.without_storesOk (s : State) (cores : List Nat) (oks : s.StoresOk) : (s.without cores).StoresOk := by
  unfold State.without
  repeat' first | with_reducible (first | assumption | intro) | simp only [StoresOk.mk_iff] | split

theorem State.vacateCores_storesOk (s : State) (die : Nat) (cores : List Nat) (oks : s.StoresOk) : (s.vacateCores die cores).StoresOk := by
  unfold State.vacateCores
  repeat' first
    | with_reducible (first
        | assumption | apply State.updCore_storesOk | apply State.updDie_storesOk | apply State.raise_storesOk | apply State.journal_storesOk
        | apply foldl_storesOk | intro)
    | dsimp only | split

/-! ## Machine/SaveRestore -/

theorem State.saveFailure_storesOk (s : State) (gid core q : Nat) (oks : s.StoresOk) : (s.saveFailure gid core q).StoresOk := by
  unfold State.saveFailure
  repeat' first | with_reducible (first | assumption | apply State.dropFailures_storesOk | apply State.trapAt_storesOk | intro) | dsimp only | split

theorem State.flushCore_storesOk (s : State) (gid core : Nat) (oks : s.StoresOk) : (s.flushCore gid core).StoresOk := by
  unfold State.flushCore
  repeat' first
    | with_reducible (first | assumption | apply State.flush_storesOk | apply State.saveFailure_storesOk | apply foldl_storesOk | intro)
    | dsimp only | split

theorem State.stopForSave_storesOk (s : State) (set : List (Nat × Group)) (oks : s.StoresOk) : (s.stopForSave set).StoresOk := by
  unfold State.stopForSave
  repeat' first
    | with_reducible (first | assumption | apply State.updGroup_storesOk | apply foldl_storesOk | intro)
    | simp only [StoresOk.mk_iff] | split

theorem State.finishCopies_storesOk (s : State) (gid : Nat) (oks : s.StoresOk) : (s.finishCopies gid).StoresOk := by
  unfold State.finishCopies
  repeat' first | with_reducible (first | assumption | apply State.completeCmd_storesOk | apply foldl_storesOk | intro) | dsimp only | split

theorem State.readArea_storesOk (s : State) (part lo n : Nat) (oks : s.StoresOk) : (s.readArea part lo n).StoresOk := by
  unfold State.readArea
  repeat' first
    | with_reducible (first | assumption | apply State.readSector_storesOk | apply foldl_storesOk | apply FstOk.fst | intro)
    | simp only [StoresOk.mk_iff, FstOk.mk_iff] | split

theorem State.copyStore_storesOk (s : State) (lo goal n : Nat) (oks : s.StoresOk) : (s.copyStore lo goal n).StoresOk := by
  have hm := oks.memWf
  have ht := oks.tagsWf
  exact StoresOk.parts (Sparse.paste_wf hm (Sparse.slice_wf hm).1 (Sparse.slice_wf hm).2) (Sparse.paste_wf ht (Sparse.slice_wf ht).1 (Sparse.slice_wf ht).2)
    oks.secKeyWf

theorem State.takeOut_storesOk (s : State) (gid : Nat) (g : Group) (oks : s.StoresOk) : (s.takeOut gid g).StoresOk := by
  unfold State.takeOut
  repeat' first | with_reducible (first | assumption | intro) | simp only [StoresOk.mk_iff] | split

theorem State.forgetInstances_storesOk (s : State) (lid : Nat) (oks : s.StoresOk) : (s.forgetInstances lid).StoresOk := by
  unfold State.forgetInstances
  repeat' first | with_reducible (first | assumption | apply State.updLaunch_storesOk | intro) | simp only [StoresOk.mk_iff] | split

theorem State.saveGroup_storesOk (s : State) (gid area bytes : Nat) (oks : s.StoresOk) : (s.saveGroup gid area bytes).StoresOk := by
  unfold State.saveGroup
  repeat' first
    | with_reducible (first
        | assumption | apply State.freeSlot_storesOk | apply State.copyStore_storesOk | apply State.takeOut_storesOk
        | apply State.forgetInstances_storesOk | apply foldl_storesOk | intro)
    | simp only [StoresOk.mk_iff] | split

theorem State.imageError_storesOk (s : State) (gid : Nat) (g : Group) (oks : s.StoresOk) : FstOk (s.imageError gid g) := by
  unfold State.imageError
  repeat' first
    | with_reducible (first
        | assumption | apply State.readSpWord_storesOk | apply State.readReg_storesOk | apply foldl_fst_storesOk | apply FstOk.fst | intro)
    | simp only [FstOk.mk_iff] | split

theorem State.saveError_storesOk (s : State) (gid : Nat) (g : Group) (cause : BitVec 32) (addr : BitVec 64) (oks : s.StoresOk) :
    (s.saveError gid g cause addr).StoresOk := by
  unfold State.saveError
  repeat' first
    | with_reducible (first | assumption | apply State.killGroup_storesOk | apply State.unwind_storesOk | intro)
    | simp only [StoresOk.mk_iff] | split

theorem State.readImages_storesOk (s : State) (a0 : List (Nat × Group)) (oks : s.StoresOk) : FstOk (s.readImages a0) := by
  induction a0 generalizing s with
  | nil =>
    unfold State.readImages
    repeat' first
      | with_reducible (first | assumption | apply State.imageError_storesOk | apply State.saveError_storesOk | apply FstOk.fst | intro)
      | (apply FstOk.of_eq (by assumption)) | simp only [StoresOk.mk_iff, FstOk.mk_iff] | split
  | cons b r ih =>
    unfold State.readImages
    repeat' first
      | with_reducible (first | assumption | apply State.imageError_storesOk | apply State.saveError_storesOk | apply ih | apply FstOk.fst | intro)
      | (apply FstOk.of_eq (by assumption)) | simp only [StoresOk.mk_iff, FstOk.mk_iff] | split

theorem State.saveAll_storesOk (s : State) (gid : Nat) (set : List (Nat × Group)) (oks : s.StoresOk) : (s.saveAll gid set).StoresOk := by
  unfold State.saveAll
  repeat' first
    | with_reducible (first
        | assumption | apply State.plan_storesOk | apply State.wakeAll_storesOk | apply State.askPlacement_storesOk | apply State.saveGroup_storesOk
        | apply State.readImages_storesOk | apply foldl_storesOk | intro)
    | (apply FstOk.of_eq (by assumption)) | dsimp only | split

theorem State.goOnSave_storesOk (s : State) (gid : Nat) (set : List (Nat × Group)) (oks : s.StoresOk) : (s.goOnSave gid set).StoresOk := by
  unfold State.goOnSave
  repeat' first
    | with_reducible (first
        | assumption | apply State.plan_storesOk | apply State.flushCore_storesOk | apply State.finishCopies_storesOk | apply State.saveAll_storesOk
        | apply foldl_storesOk | intro)
    | dsimp only | split

theorem State.putThreads_storesOk (s : State) (core : Nat) (f : Who → Thread → Thread) (a0 : KV Who Thread) (oks : s.StoresOk) :
    FstOk (s.putThreads core f a0) := by
  induction a0 generalizing s core with
  | nil =>
    unfold State.putThreads
    repeat' first
      | with_reducible (first | assumption | apply State.setThread_storesOk | apply FstOk.fst | intro)
      | simp only [StoresOk.mk_iff, FstOk.mk_iff] | split
  | cons b r ih =>
    unfold State.putThreads
    repeat' first
      | with_reducible (first | assumption | apply State.setThread_storesOk | apply ih | apply FstOk.fst | intro)
      | simp only [StoresOk.mk_iff, FstOk.mk_iff] | split

theorem State.restoreBody_storesOk (s : State) (gid : Nat) (v : SavedGroup) (x : Spot) (oks : s.StoresOk) : (s.restoreBody gid v x).StoresOk := by
  unfold State.restoreBody
  repeat' first
    | with_reducible (first
        | assumption | apply State.updCore_storesOk | apply State.updHalf_storesOk | apply State.readArea_storesOk | apply State.copyStore_storesOk
        | apply foldl_storesOk | intro)
    | simp only [StoresOk.mk_iff] | split

theorem State.replayFill_storesOk (s : State) (gid : Nat) (g : Group) (r : FillRec) (limit : Option Nat) (oks : s.StoresOk) :
    (s.replayFill gid g r limit).StoresOk := by
  unfold State.replayFill
  repeat' first
    | with_reducible (first
        | assumption | apply State.updHalf_storesOk | apply State.fresh_storesOk | apply State.completeCmd_storesOk | apply foldl_storesOk
        | apply SndOk.snd | intro)
    | simp only [StoresOk.mk_iff] | split

theorem State.restoreCmd_storesOk (s : State) (g : Group) (cid : Nat) (c : Cmd) (oks : s.StoresOk) : (s.restoreCmd g cid c).StoresOk := by
  unfold State.restoreCmd
  repeat' first
    | with_reducible (first | assumption | apply State.raise_storesOk | apply State.sbTake_storesOk | intro)
    | simp only [StoresOk.mk_iff] | split

theorem State.rejoinColl_storesOk (s : State) (c : Coll) (m : CollMember) (oks : s.StoresOk) : (s.rejoinColl c m).StoresOk := by
  unfold State.rejoinColl
  repeat' first
    | with_reducible (first
        | assumption | apply State.raise_storesOk | apply State.serve_storesOk | apply State.failColl_storesOk | apply State.enterColl_storesOk
        | apply FstOk.fst | apply SndOk.snd | intro)
    | dsimp only | split

theorem State.resumeThread_storesOk (s : State) (v : SavedGroup) (core : Nat) (old w : Who) (t : Thread) (oks : s.StoresOk) :
    (s.resumeThread v core old w t).StoresOk := by
  unfold State.resumeThread
  repeat' first
    | with_reducible (first | assumption | apply State.updThread_storesOk | apply State.plan_storesOk | apply State.queueTrap_storesOk | intro)
    | simp only [StoresOk.mk_iff] | split

theorem State.restoreOne_storesOk (s : State) (gid : Nat) (v : SavedGroup) (x : Spot) (insts : KV (Nat × Nat) Nat) (oks : s.StoresOk) :
    FstOk (s.restoreOne gid v x insts) := by
  unfold State.restoreOne
  repeat' first
    | with_reducible (first | assumption | apply State.updLaunch_storesOk | apply State.putThreads_storesOk | apply State.restoreBody_storesOk | intro)
    | simp only [StoresOk.mk_iff, FstOk.mk_iff] | split

theorem State.rewait_storesOk (s : State) (moves : List (Nat × Nat × Nat)) (names : List (Who × Who)) (x : Waiter) (oks : s.StoresOk) :
    (s.rewait moves names x).StoresOk := by
  unfold State.rewait
  repeat' first
    | with_reducible (first | assumption | apply State.runAgain_storesOk | apply State.unreserveEntry_storesOk | apply State.serve_storesOk | intro)
    | simp only [StoresOk.mk_iff] | split

theorem State.restoreRest_storesOk (s : State) (moves : List (Nat × Nat × Nat)) (gid : Nat) (v : SavedGroup) (names : List (Who × Who)) (oks :
    s.StoresOk) :
    (s.restoreRest moves gid v names).StoresOk := by
  unfold State.restoreRest
  repeat' first
    | with_reducible (first
        | assumption | apply State.askEnd_storesOk | apply State.replayFill_storesOk | apply State.restoreCmd_storesOk
        | apply State.rejoinColl_storesOk | apply State.resumeThread_storesOk | apply State.rewait_storesOk | apply foldl_storesOk | intro)
    | dsimp only | split

/-! ## Machine/Boundary -/

theorem State.vacate_storesOk (s : State) (cores : List Nat) (oks : s.StoresOk) : (s.vacate cores).StoresOk := by
  unfold State.vacate
  repeat' first | with_reducible (first | assumption | apply State.vacateCores_storesOk | apply foldl_storesOk | intro) | dsimp only | split

theorem State.zeroCore_storesOk (s : State) (core : Nat) (oks : s.StoresOk) : (s.zeroCore core).StoresOk := by
  unfold State.zeroCore
  exact State.updCore_storesOk _ _ _ (StoresOk.parts (Sparse.clear_wf oks.memWf) (Sparse.clear_wf oks.tagsWf) oks.secKeyWf)

theorem State.giveCores_storesOk (s : State) (part : Nat) (cores : List Nat) (oks : s.StoresOk) : (s.giveCores part cores).StoresOk := by
  unfold State.giveCores
  repeat' first
    | with_reducible (first | assumption | apply State.zeroCore_storesOk | apply foldl_storesOk | intro)
    | simp only [StoresOk.mk_iff] | split

theorem State.giveHalves_storesOk (s : State) (part : Nat) (halves : List (Nat × Nat)) (oks : s.StoresOk) :
    (s.giveHalves part halves).StoresOk := by
  unfold State.giveHalves
  repeat' first
    | with_reducible (first | assumption | apply State.updHalf_storesOk | apply foldl_storesOk | intro)
    | simp only [StoresOk.mk_iff] | split

theorem State.settleBoundary_storesOk (s : State) (part : Nat) (p : Part) (oks : s.StoresOk) : (s.settleBoundary part p).StoresOk := by
  unfold State.settleBoundary
  repeat' first
    | with_reducible (first
        | assumption | apply State.updPart_storesOk | apply State.askPlacement_storesOk | apply State.vacate_storesOk | apply State.giveCores_storesOk
        | apply State.giveHalves_storesOk | intro)
    | dsimp only | split

theorem State.settleBoundaries_storesOk (s : State) (oks : s.StoresOk) : (s.settleBoundaries).StoresOk := by
  unfold State.settleBoundaries
  repeat' first | with_reducible (first | assumption | apply State.settleBoundary_storesOk | apply foldl_storesOk | intro) | dsimp only | split

/-! ## Machine/Epilogue -/

theorem State.esFault_storesOk (s : State) (k : EsCtx) (r : DrainRun) (addr : Nat) (oks : s.StoresOk) : (s.esFault k r addr).StoresOk := by
  unfold State.esFault
  repeat' first
    | with_reducible (first | assumption | apply State.discardLater_storesOk | apply State.asyncFault_storesOk | apply State.setRun_storesOk | intro)
    | simp only [StoresOk.mk_iff] | split

theorem State.esGo_storesOk (s : State) (k : EsCtx) (r : DrainRun) (f : EsFlow) (oks : s.StoresOk) : (s.esGo k r f).StoresOk := by
  unfold State.esGo
  repeat' first | with_reducible (first | assumption | apply State.setRun_storesOk | apply State.esFault_storesOk | intro) | dsimp only | split

theorem State.esAct_storesOk (s : State) (f : EsCtx → DrainRun → EsFlow) (oks : s.StoresOk) : OutOk (s.esAct f) := by
  unfold State.esAct
  repeat' first | with_reducible (first | assumption | apply State.esGo_storesOk | apply OutOk.mk | intro) | simp only [StoresOk.mk_iff] | split

/-! ## Machine/Masters -/

theorem State.reply_storesOk (s : State) (h : MsgHdr) (status : Nat) (payload : List Byte) (oks : s.StoresOk) :
    (s.reply h status payload).StoresOk := by
  unfold State.reply
  repeat' first | with_reducible (first | assumption | intro) | simp only [StoresOk.mk_iff] | split

theorem State.setOwner_storesOk (s : State) (h : MsgHdr) (owner : Option (BitVec 64)) (lease : BitVec 64) (ms : BitVec 32) (oks : s.StoresOk) :
    (s.setOwner h owner lease ms).StoresOk := by
  unfold State.setOwner
  repeat' first | with_reducible (first | assumption | apply State.updPart_storesOk | intro) | simp only [StoresOk.mk_iff] | split

theorem State.renew_storesOk (s : State) (h : MsgHdr) (oks : s.StoresOk) : (s.renew h).StoresOk := by
  unfold State.renew
  repeat' first | with_reducible (first | assumption | apply State.setOwner_storesOk | intro) | dsimp only | split

theorem State.inTurn_storesOk (s : State) (h : MsgHdr) (k : State → State) (oks : s.StoresOk) (hkk : ∀ x0, x0.StoresOk → State.StoresOk (k x0))
    :
    (s.inTurn h k).StoresOk := by
  unfold State.inTurn
  repeat' first | with_reducible (first | assumption | apply hkk | intro) | simp only [StoresOk.mk_iff] | split

theorem State.procedure_storesOk (s : State) (h : MsgHdr) (proc : Nat) (owner : Bool) (package : Option Bool) (k : State → State) (oks :
    s.StoresOk) (hkk : ∀ x0, x0.StoresOk → State.StoresOk (k x0)) :
    OutOk (s.procedure h proc owner package k) := by
  unfold State.procedure
  repeat' first
    | with_reducible (first
        | assumption | apply State.reply_storesOk | apply State.renew_storesOk | apply State.inTurn_storesOk | apply hkk | apply OutOk.mk
        | intro)
    | dsimp only | split

theorem State.bindGraph_storesOk (s : State) (h : MsgHdr) (d graph : Nat) (a0 : Loaded) (oks : s.StoresOk) :
    (s.bindGraph h d graph a0).StoresOk := by
  cases a0 <;> unfold State.bindGraph
  all_goals repeat' first | with_reducible (first | assumption | apply State.updDie_storesOk | apply State.reply_storesOk | intro) | dsimp only | split

theorem State.setPte_storesOk (s : State) (die addr : Nat) (e : BitVec 128) (oks : s.StoresOk) : (s.setPte die addr e).StoresOk := by
  unfold State.setPte
  repeat' first | with_reducible (first | assumption | apply State.wrNat_storesOk | intro) | dsimp only | split

theorem State.newTable_storesOk (s : State) (die : Nat) (oks : s.StoresOk) : FstOk (s.newTable die) := by
  unfold State.newTable
  split
  rename_i x u e
  have ou : u.StoresOk := SndOk.of_eq e (State.drawFree_storesOk s oks)
  exact State.setMem_storesOk _ _ ou (Sparse.clear_wf ou.memWf)

theorem State.makeTables_storesOk (s : State) (die ofs target : Nat) (a0 : Nat) (oks : s.StoresOk) :
    (s.makeTables die ofs target a0).StoresOk := by
  induction a0 generalizing s die ofs target with
  | zero =>
    unfold State.makeTables
    repeat' first
      | with_reducible (first | assumption | apply State.setPte_storesOk | apply State.newTable_storesOk | apply FstOk.fst | intro)
      | simp only [StoresOk.mk_iff, FstOk.mk_iff] | split
  | succ n ih =>
    unfold State.makeTables
    repeat' first
      | with_reducible (first | assumption | apply State.setPte_storesOk | apply State.newTable_storesOk | apply ih | apply FstOk.fst | intro)
      | simp only [StoresOk.mk_iff, FstOk.mk_iff] | split

theorem State.invalidate_storesOk (s : State) (va : BitVec 64) (size : Nat) (oks : s.StoresOk) : (s.invalidate va size).StoresOk := by
  unfold State.invalidate
  repeat' first | with_reducible (first | assumption | apply State.updDie_storesOk | intro) | simp only [StoresOk.mk_iff] | split

theorem State.mapWrite_storesOk (s : State) (va : BitVec 64) (addr : Nat) (old e : BitVec 128) (oks : s.StoresOk) :
    (s.mapWrite va addr old e).StoresOk := by
  have ou := State.setPte_storesOk s (homeDie va) addr e oks
  unfold State.mapWrite
  dsimp only
  apply State.invalidate_storesOk
  split
  · exact State.setTags_storesOk _ _ ou (Sparse.clear_wf ou.tagsWf)
  · exact ou

theorem State.mapAt_storesOk (s : State) (h : MsgHdr) (va : BitVec 64) (addr level : Nat) (want : BitVec 128) (perm : Nat) (oks : s.StoresOk) :
    (s.mapAt h va addr level want perm).StoresOk := by
  unfold State.mapAt
  repeat' first | with_reducible (first | assumption | apply State.reply_storesOk | apply State.mapWrite_storesOk | intro) | dsimp only | split

theorem State.recrypt_storesOk (s : State) (old new : BitVec 13) (a0 : Nat) (a1 : Nat) (oks : s.StoresOk) :
    (s.recrypt old new a0 a1).StoresOk := by
  induction a1 generalizing s a0 with
  | zero => exact oks
  | succ n ih =>
    have ou := State.rekey_storesOk s a0 old oks
    exact ih _ _ (StoresOk.parts ou.memWf ou.tagsWf (Sparse.wr_wf ou.secKeyWf))

theorem State.someSlot_storesOk (s : State) (a0 : List Nat) (oks : s.StoresOk) : OptSndOk (s.someSlot a0) := by
  unfold State.someSlot
  split
  · trivial
  · exact oks
  · cases a0[Config.pick s.free % a0.length]? with
    | none => trivial
    | some k => exact oks

theorem State.migrate_storesOk (s : State) (h : MsgHdr) (va : BitVec 64) (toHost : Bool) (oks : s.StoresOk) :
    (s.migrate h va toHost).StoresOk := by
  unfold State.migrate
  repeat' first
    | with_reducible (first
        | assumption | apply State.again_storesOk | apply State.reply_storesOk | apply State.setPte_storesOk | apply State.invalidate_storesOk
        | apply State.recrypt_storesOk | apply State.someSlot_storesOk | intro)
    | (apply OptSndOk.of_eq (by assumption)) | dsimp only | split

theorem State.pageProc_storesOk (s : State) (h : MsgHdr) (proc : Nat) (va : BitVec 64) (toHost : Bool) (oks : s.StoresOk) :
    OutOk (s.pageProc h proc va toHost) := by
  unfold State.pageProc
  repeat' first
    | with_reducible (first | assumption | apply State.reply_storesOk | apply State.procedure_storesOk | apply State.migrate_storesOk | intro)
    | dsimp only | split

theorem State.readPlaces_storesOk (s : State) (part : Nat) (va : BitVec 64) (ls : List Loc) (oks : s.StoresOk) :
    FstOk (s.readPlaces part va ls) := by
  unfold State.readPlaces
  repeat' first
    | with_reducible (first | assumption | apply State.readSector_storesOk | apply foldl_fst_storesOk | apply FstOk.fst | intro)
    | simp only [FstOk.mk_iff] | split

theorem State.refuseUpdate_storesOk (s : State) (h : MsgHdr) (i : SignedImage) (reason : Nat) (oks : s.StoresOk) :
    (s.refuseUpdate h i reason).StoresOk := by
  unfold State.refuseUpdate
  repeat' first | with_reducible (first | assumption | apply State.log_storesOk | apply State.reply_storesOk | intro) | dsimp only | split

theorem State.updImages_storesOk (s : State) (target : Nat) (f : Images → Images) (oks : s.StoresOk) : (s.updImages target f).StoresOk := by
  unfold State.updImages
  repeat' first | with_reducible (first | assumption | intro) | simp only [StoresOk.mk_iff] | split

theorem State.stage_storesOk (s : State) (h : MsgHdr) (i : SignedImage) (oks : s.StoresOk) : (s.stage h i).StoresOk := by
  unfold State.stage
  repeat' first
    | with_reducible (first | assumption | apply State.plan_storesOk | apply State.updImages_storesOk | apply foldl_storesOk | intro)
    | simp only [StoresOk.mk_iff] | split

theorem State.takeImage_storesOk (s : State) (h : MsgHdr) (i : SignedImage) (oks : s.StoresOk) : (s.takeImage h i).StoresOk := by
  unfold State.takeImage
  repeat' first
    | with_reducible (first | assumption | apply State.refuseUpdate_storesOk | apply State.stage_storesOk | intro)
    | simp only [StoresOk.mk_iff] | split

theorem State.takeConfig_storesOk (s : State) (h : MsgHdr) (i : SignedImage) (oks : s.StoresOk) : (s.takeConfig h i).StoresOk := by
  unfold State.takeConfig
  repeat' first
    | with_reducible (first | assumption | apply State.reply_storesOk | apply State.refuseUpdate_storesOk | intro)
    | simp only [StoresOk.mk_iff] | split

theorem State.wholeImage_storesOk (s : State) (h : MsgHdr) (i : SignedImage) (oks : s.StoresOk) : (s.wholeImage h i).StoresOk := by
  unfold State.wholeImage
  repeat' first
    | with_reducible (first
        | assumption | apply State.reply_storesOk | apply State.updImages_storesOk | apply State.takeImage_storesOk | apply State.takeConfig_storesOk
        | intro)
    | simp only [StoresOk.mk_iff] | split

theorem State.upload_storesOk (s : State) (h : MsgHdr) (l : Option (List Byte)) (oks : s.StoresOk) : (s.upload h l).StoresOk := by
  unfold State.upload
  repeat' first | with_reducible (first | assumption | intro) | simp only [StoresOk.mk_iff] | split

/-! ## Machine/Network -/

theorem State.inject_storesOk (s : State) (p : Packet) (oks : s.StoresOk) : (s.inject p).StoresOk := by
  unfold State.inject
  repeat' first | with_reducible (first | assumption | intro) | simp only [StoresOk.mk_iff] | split

theorem State.retryPort_storesOk (s : State) (router part : Nat) (oks : s.StoresOk) : (s.retryPort router part).StoresOk := by
  unfold State.retryPort
  repeat' first
    | with_reducible (first | assumption | apply State.wakeAll_storesOk | apply State.inject_storesOk | apply foldl_storesOk | intro)
    | simp only [StoresOk.mk_iff] | split

theorem State.setGust_storesOk (s : State) (router part : Nat) (v : BitVec 64) (oks : s.StoresOk) : (s.setGust router part v).StoresOk := by
  unfold State.setGust
  repeat' first | with_reducible (first | assumption | apply State.retryPort_storesOk | intro) | simp only [StoresOk.mk_iff] | split

theorem State.turnRotation_storesOk (s : State) (k : Nat × Nat × Nat) (oks : s.StoresOk) : (s.turnRotation k).StoresOk := by
  unfold State.turnRotation
  repeat' first | with_reducible (first | assumption | intro) | simp only [StoresOk.mk_iff] | split

/-! ## Machine/Fleet -/

theorem State.setReady_storesOk (s : State) (bit : Nat) (v : Bool) (oks : s.StoresOk) : (s.setReady bit v).StoresOk := by
  unfold State.setReady
  repeat' first | with_reducible (first | assumption | intro) | simp only [StoresOk.mk_iff] | split

theorem State.note_storesOk (s : State) (type die : Nat) (a b c d : BitVec 64) (oks : s.StoresOk) : (s.note type die a b c d).StoresOk := by
  unfold State.note
  repeat' first | with_reducible (first | assumption | apply State.log_storesOk | intro) | dsimp only | split

theorem State.endSwitch_storesOk (s : State) (target : Nat) (x : Images) (oks : s.StoresOk) : (s.endSwitch target x).StoresOk := by
  unfold State.endSwitch
  repeat' first
    | with_reducible (first | assumption | apply State.reply_storesOk | apply State.updImages_storesOk | apply State.takeImage_storesOk | intro)
    | dsimp only | split

theorem State.switchUnit_storesOk (s : State) (target unit : Nat) (x : Images) (oks : s.StoresOk) : (s.switchUnit target unit x).StoresOk := by
  unfold State.switchUnit
  repeat' first
    | with_reducible (first | assumption | apply State.updImages_storesOk | apply State.note_storesOk | apply State.endSwitch_storesOk | intro)
    | dsimp only | split

theorem State.takeNumber_storesOk (s : State) (core built spare : Nat) (oks : s.StoresOk) : (s.takeNumber core built spare).StoresOk := by
  unfold State.takeNumber
  repeat' first
    | with_reducible (first
        | assumption | apply State.updCore_storesOk | apply State.updHalf_storesOk | apply State.log_storesOk | apply State.zeroCore_storesOk
        | apply State.setReady_storesOk | intro)
    | simp only [StoresOk.mk_iff] | split

theorem State.loseNumber_storesOk (s : State) (core built : Nat) (oks : s.StoresOk) : (s.loseNumber core built).StoresOk := by
  unfold State.loseNumber
  repeat' first | with_reducible (first | assumption | apply State.log_storesOk | intro) | simp only [StoresOk.mk_iff] | split

theorem State.finishRetirement_storesOk (s : State) (core : Nat) (oks : s.StoresOk) : (s.finishRetirement core).StoresOk := by
  unfold State.finishRetirement
  repeat' first
    | with_reducible (first | assumption | apply State.askPlacement_storesOk | apply State.takeNumber_storesOk | apply State.loseNumber_storesOk | intro)
    | simp only [StoresOk.mk_iff] | split

theorem State.goOnRetiring_storesOk (s : State) (core : Nat) (oks : s.StoresOk) : (s.goOnRetiring core).StoresOk := by
  unfold State.goOnRetiring
  repeat' first
    | with_reducible (first | assumption | apply State.plan_storesOk | apply State.vacate_storesOk | apply State.finishRetirement_storesOk | intro)
    | dsimp only | split

theorem State.setLane_storesOk (s : State) (die chan sub lane : Nat) (x : LaneSt) (oks : s.StoresOk) :
    (s.setLane die chan sub lane x).StoresOk := by
  unfold State.setLane
  repeat' first | with_reducible (first | assumption | intro) | simp only [StoresOk.mk_iff] | split

theorem State.setLink_storesOk (s : State) (pair sub dir lane : Nat) (x : LaneSt) (oks : s.StoresOk) :
    (s.setLink pair sub dir lane x).StoresOk := by
  unfold State.setLink
  repeat' first | with_reducible (first | assumption | intro) | simp only [StoresOk.mk_iff] | split

theorem State.noteLane_storesOk (s : State) (pair sub dir lane code : Nat) (oks : s.StoresOk) : (s.noteLane pair sub dir lane code).StoresOk := by
  unfold State.noteLane
  repeat' first | with_reducible (first | assumption | apply State.note_storesOk | intro) | dsimp only | split

theorem State.narrowLink_storesOk (s : State) (pair sub dir lane : Nat) (oks : s.StoresOk) : (s.narrowLink pair sub dir lane).StoresOk := by
  unfold State.narrowLink
  repeat' first
    | with_reducible (first | assumption | apply State.setReady_storesOk | apply State.noteLane_storesOk | intro)
    | simp only [StoresOk.mk_iff] | split

theorem State.recalibrate_storesOk (s : State) (pair sub dir lane : Nat) (pass : Bool) (oks : s.StoresOk) :
    (s.recalibrate pair sub dir lane pass).StoresOk := by
  unfold State.recalibrate
  repeat' first
    | with_reducible (first | assumption | apply State.setLink_storesOk | apply State.noteLane_storesOk | apply State.narrowLink_storesOk | intro)
    | dsimp only | split

theorem State.noScheduler_storesOk (s : State) (die : Nat) (oks : s.StoresOk) : (s.noScheduler die).StoresOk := by
  unfold State.noScheduler
  repeat' first
    | with_reducible (first | assumption | apply State.updDie_storesOk | apply State.setReady_storesOk | intro)
    | simp only [StoresOk.mk_iff] | split

theorem State.journalAhead_storesOk (s : State) (die : Nat) (oks : s.StoresOk) : (s.journalAhead die).StoresOk := by
  unfold State.journalAhead
  repeat' first
    | with_reducible (first | assumption | apply State.updDie_storesOk | apply State.writeJournal_storesOk | intro)
    | simp only [StoresOk.mk_iff] | split

theorem State.beginTakeover_storesOk (s : State) (die reason n : Nat) (oks : s.StoresOk) : (s.beginTakeover die reason n).StoresOk := by
  unfold State.beginTakeover
  repeat' first
    | with_reducible (first
        | assumption | apply State.updDie_storesOk | apply State.plan_storesOk | apply State.setReady_storesOk | apply State.journalAhead_storesOk
        | intro)
    | simp only [StoresOk.mk_iff] | split

theorem State.resumeScheduler_storesOk (s : State) (die : Nat) (oks : s.StoresOk) : (s.resumeScheduler die).StoresOk := by
  unfold State.resumeScheduler
  repeat' first
    | with_reducible (first
        | assumption | apply State.updDie_storesOk | apply State.raise_storesOk | apply State.askPlacement_storesOk | apply State.endLaunch_storesOk
        | apply State.vacateCores_storesOk | apply foldl_storesOk | intro)
    | simp only [StoresOk.mk_iff] | split

theorem State.redoAct_storesOk (s : State) (die : Nat) (r : Nat × Nat × Nat × BitVec 64) (oks : s.StoresOk) : (s.redoAct die r).StoresOk := by
  unfold State.redoAct
  repeat' first
    | with_reducible (first | assumption | apply State.replay_storesOk | apply State.startNode_storesOk | intro)
    | simp only [StoresOk.mk_iff] | split

theorem State.redoActs_storesOk (s : State) (die : Nat) (oks : s.StoresOk) : (s.redoActs die).StoresOk := by
  unfold State.redoActs
  repeat' first
    | with_reducible (first | assumption | apply State.updDie_storesOk | apply State.redoAct_storesOk | apply foldl_storesOk | intro)
    | simp only [StoresOk.mk_iff] | split

theorem State.endTakeover_storesOk (s : State) (die reason n : Nat) (oks : s.StoresOk) : (s.endTakeover die reason n).StoresOk := by
  unfold State.endTakeover
  repeat' first
    | with_reducible (first
        | assumption | apply State.updDie_storesOk | apply State.setReady_storesOk | apply State.note_storesOk | apply State.resumeScheduler_storesOk
        | apply State.redoActs_storesOk | intro)
    | simp only [StoresOk.mk_iff] | split

/-! ## Machine/Issue -/

theorem State.issueOn_storesOk (s : State) (core : Nat) (oks : s.StoresOk) : FstOk (s.issueOn core) := by
  unfold State.issueOn
  repeat' first
    | with_reducible (first | assumption | apply State.updCore_storesOk | apply State.serving_storesOk | intro)
    | simp only [StoresOk.mk_iff, FstOk.mk_iff] | split

theorem State.notAged_storesOk (s : State) (ws : List Who) (oks : s.StoresOk) : (s.notAged ws).StoresOk := by
  unfold State.notAged
  repeat' first | with_reducible (first | assumption | intro) | simp only [StoresOk.mk_iff] | split

theorem State.ageHeld_storesOk (s : State) (core : Nat) (oks : s.StoresOk) : (s.ageHeld core).StoresOk := by
  unfold State.ageHeld
  repeat' first | with_reducible (first | assumption | apply State.notAged_storesOk | intro) | dsimp only | split

theorem State.countCongestion_storesOk (s : State) (core : Nat) (oks : s.StoresOk) : (s.countCongestion core).StoresOk := by
  unfold State.countCongestion
  repeat' first | with_reducible (first | assumption | apply State.updCore_storesOk | intro) | simp only [StoresOk.mk_iff] | split

theorem State.tick_storesOk (s : State) (oks : s.StoresOk) : (s.tick).StoresOk := by
  unfold State.tick
  repeat' first | with_reducible (first | assumption | intro) | simp only [StoresOk.mk_iff] | split

theorem State.newClock_storesOk (s : State) (oks : s.StoresOk) : (s.newClock).StoresOk := by
  unfold State.newClock
  repeat' first
    | with_reducible (first
        | assumption | apply State.wakeLeavers_storesOk | apply State.settleBoundaries_storesOk | apply State.countCongestion_storesOk
        | apply State.tick_storesOk | apply foldl_storesOk | intro)
    | simp only [StoresOk.mk_iff] | split

theorem State.issueAll_storesOk (s : State) (oks : s.StoresOk) : FstOk (s.issueAll) := by
  unfold State.issueAll
  repeat' first
    | with_reducible (first | assumption | apply State.issueOn_storesOk | apply State.ageHeld_storesOk | apply foldl_fst_storesOk | apply FstOk.fst | intro)
    | simp only [FstOk.mk_iff] | split

/-! ## Machine/Service -/

theorem State.freeEntry_storesOk (s : State) (lid : Nat) (oks : s.StoresOk) : (s.freeEntry lid).StoresOk := by
  unfold State.freeEntry
  repeat' first
    | with_reducible (first | assumption | apply State.updLaunch_storesOk | apply State.updDie_storesOk | intro)
    | simp only [StoresOk.mk_iff] | split

theorem State.killWaiting_storesOk (s : State) (lid : Nat) (grp : BitVec 32) (oks : s.StoresOk) : OptOk (s.killWaiting lid grp) := by
  unfold State.killWaiting
  repeat' first
    | with_reducible (first
        | assumption | apply State.updLaunch_storesOk | apply State.raise_storesOk | apply State.askPlacement_storesOk
        | apply State.freeEntry_storesOk | apply OptOk.mk | apply OptOk.none | intro)
    | dsimp only | split

theorem State.killGrp_storesOk (s : State) (lid : Nat) (grp : BitVec 32) (oks : s.StoresOk) : OptOk (s.killGrp lid grp) := by
  unfold State.killGrp
  repeat' first
    | with_reducible (first
        | assumption | apply State.killGroup_storesOk | apply State.killSaved_storesOk | apply State.killWaiting_storesOk | apply OptOk.mk
        | intro)
    | simp only [StoresOk.mk_iff] | split

theorem State.killUnplaced_storesOk (s : State) (lid : Nat) (oks : s.StoresOk) : (s.killUnplaced lid).StoresOk := by
  unfold State.killUnplaced
  repeat' first
    | with_reducible (first | assumption | apply State.updLaunch_storesOk | apply State.raise_storesOk | apply State.freeEntry_storesOk | intro)
    | dsimp only | split

theorem State.killLaunch_storesOk (s : State) (lid : Nat) (oks : s.StoresOk) : (s.killLaunch lid).StoresOk := by
  unfold State.killLaunch
  repeat' first
    | with_reducible (first
        | assumption | apply State.killGroup_storesOk | apply State.killSaved_storesOk | apply State.killUnplaced_storesOk | apply foldl_storesOk
        | intro)
    | dsimp only | split

theorem State.logIgnored_storesOk (s : State) (part source : Nat) (v : BitVec 64) (oks : s.StoresOk) : (s.logIgnored part source v).StoresOk := by
  unfold State.logIgnored
  repeat' first | with_reducible (first | assumption | apply State.log_storesOk | intro) | dsimp only | split

theorem execKill_storesOk (part : Nat) (grp : BitVec 32) (s : State) (oks : s.StoresOk) : OutOk (execKill part grp s) := by
  unfold execKill
  repeat' first
    | with_reducible (first
        | assumption | apply State.killGrp_storesOk | apply State.killLaunch_storesOk | apply State.logIgnored_storesOk | apply OutOk.mk | intro)
    | (apply OptOk.of_eq (by assumption)) | dsimp only | split

theorem execVacate_storesOk (part n : Nat) (s : State) (oks : s.StoresOk) : OutOk (execVacate part n s) := by
  unfold execVacate
  repeat' first | with_reducible (first | assumption | apply State.vacate_storesOk | apply OutOk.mk | intro) | dsimp only | split

theorem execNotifyReset_storesOk (part index : Nat) (s : State) (oks : s.StoresOk) : OutOk (execNotifyReset part index s) := by
  unfold execNotifyReset
  repeat' first
    | with_reducible (first | assumption | apply State.wrNat_storesOk | apply State.setTag_storesOk | apply State.serve_storesOk | apply OutOk.mk | intro)
    | simp only [StoresOk.mk_iff] | split

theorem execRconsWrite_storesOk (part die : Nat) (v : BitVec 32) (s : State) (oks : s.StoresOk) : OutOk (execRconsWrite part die v s) := by
  unfold execRconsWrite
  repeat' first
    | with_reducible (first
        | assumption | apply State.updPart_storesOk | apply State.setTag_storesOk | apply State.serve_storesOk | apply State.logIgnored_storesOk
        | apply OutOk.mk | intro)
    | dsimp only | split

theorem execNotifyFillStore_storesOk (core : Nat) (va : BitVec 64) (v : BitVec 32) (s : State) (oks : s.StoresOk) :
    OutOk (execNotifyFillStore core va v s) := by
  unfold execNotifyFillStore
  repeat' first
    | with_reducible (first | assumption | apply State.stf_storesOk | apply State.rvTrap_storesOk | apply OutOk.mk | intro)
    | dsimp only | split

/-! ## Machine/RiscV -/

theorem State.windowRead_storesOk (s : State) (part : Nat) (reg : Nat) (oks : s.StoresOk) : FstOk (s.windowRead part reg) := by
  unfold State.windowRead
  repeat' first | with_reducible (first | assumption | apply State.drawFree_storesOk | apply SndOk.snd | intro) | simp only [FstOk.mk_iff] | split

theorem afterAct_storesOk (s : State) (o : Out) (oks : s.StoresOk) (oko : OutOk o) : State.StoresOk (afterAct s o) := by
  cases o with
  | next u => exact oko
  | fault _ => exact oks
  | refused _ => exact oks

theorem State.windowWrite_storesOk (s : State) (part reg : Nat) (lo hi : Bool) (v : BitVec 64) (oks : s.StoresOk) :
    (s.windowWrite part reg lo hi v).StoresOk := by
  unfold State.windowWrite
  repeat' first
    | with_reducible (first
        | assumption | apply State.updPart_storesOk | apply State.resolveWrite_storesOk | apply execKill_storesOk | apply execVacate_storesOk
        | apply execNotifyReset_storesOk | apply execRconsWrite_storesOk | apply afterAct_storesOk | intro)
    | simp only [StoresOk.mk_iff] | split

theorem State.rvFail_storesOk (s : State) (core part : Nat) (a : RvAct) (a0 : RvFail) (oks : s.StoresOk) :
    (s.rvFail core part a a0).StoresOk := by
  cases a0 <;> unfold State.rvFail
  all_goals repeat' first
    | with_reducible (first
        | assumption | apply State.park_storesOk | apply State.readWalk_storesOk | apply State.updRv_storesOk | apply State.rvTrap_storesOk
        | apply State.rvFault_storesOk | intro)
    | simp only [StoresOk.mk_iff] | split

theorem State.rvAccess_storesOk (s : State) (core part : Nat) (service : Bool) (a : RvAct) (n : Nat) (window : State → BitVec 56 → State) (k :
    State → BitVec 56 → List Place → State) (oks : s.StoresOk) (hkwindow : ∀ x0 x1, x0.StoresOk → State.StoresOk (window x0 x1)) (hkk : ∀
    x0 x1 x2, x0.StoresOk → State.StoresOk (k x0 x1 x2)) :
    (s.rvAccess core part service a n window k).StoresOk := by
  unfold State.rvAccess
  repeat' first
    | with_reducible (first
        | assumption | apply State.touchRead_storesOk | apply State.rvTrap_storesOk | apply State.rvFail_storesOk | apply hkwindow | apply hkk
        | apply foldl_storesOk | intro)
    | simp only [StoresOk.mk_iff] | split

theorem State.rvLoad_storesOk (s : State) (core part : Nat) (service : Bool) (va : BitVec 64) (n rd : Nat) (oks : s.StoresOk) :
    (s.rvLoad core part service va n rd).StoresOk := by
  unfold State.rvLoad
  repeat' first
    | with_reducible (first
        | assumption | apply State.updRv_storesOk | apply State.rvFault_storesOk | apply State.readPlaces_storesOk | apply State.windowRead_storesOk
        | apply State.rvAccess_storesOk | apply FstOk.fst | intro)
    | (apply FstOk.of_eq (by assumption)) | simp only [StoresOk.mk_iff, FstOk.mk_iff] | split

theorem State.rvWrite_storesOk (s : State) (ps : List Place) (v : List Byte) (oks : s.StoresOk) : (s.rvWrite ps v).StoresOk := by
  unfold State.rvWrite
  repeat' first | with_reducible (first | assumption | apply State.wrByte_storesOk | apply foldl_storesOk | intro) | dsimp only | split

theorem State.rvStore_storesOk (s : State) (core part : Nat) (service : Bool) (va : BitVec 64) (v : List Byte) (oks : s.StoresOk) :
    (s.rvStore core part service va v).StoresOk := by
  unfold State.rvStore
  repeat' first
    | with_reducible (first
        | assumption | apply State.rvFault_storesOk | apply execNotifyFillStore_storesOk | apply afterAct_storesOk | apply State.windowWrite_storesOk
        | apply State.rvAccess_storesOk | apply State.rvWrite_storesOk | intro)
    | dsimp only | split

theorem State.rvAtomic_storesOk (s : State) (core part : Nat) (service : Bool) (op : RvAmo) (va : BitVec 64) (n rd v : Nat) (oks : s.StoresOk) :
    (s.rvAtomic core part service op va n rd v).StoresOk := by
  unfold State.rvAtomic
  repeat' first
    | with_reducible (first
        | assumption | apply State.updRv_storesOk | apply State.rvFault_storesOk | apply State.readPlaces_storesOk | apply State.rvAccess_storesOk
        | apply State.rvWrite_storesOk | intro)
    | (apply FstOk.of_eq (by assumption)) | dsimp only | split

theorem State.rvAct_storesOk (s : State) (core : Nat) (a : RvAct) (oks : s.StoresOk) : (s.rvAct core a).StoresOk := by
  unfold State.rvAct
  repeat' first
    | with_reducible (first
        | assumption | apply State.updRv_storesOk | apply State.rvTrap_storesOk | apply State.rvFault_storesOk | apply State.rvAccess_storesOk
        | apply State.rvLoad_storesOk | apply State.rvStore_storesOk | apply State.rvAtomic_storesOk | intro)
    | simp only [StoresOk.mk_iff] | split

/-! ## Machine/Fetch -/

theorem State.readOperands_storesOk (s : State) (w : Who) (t : Thread) (i : Instr) (oks : s.StoresOk) : FstOk (s.readOperands w t i) := by
  unfold State.readOperands
  repeat' first
    | with_reducible (first | assumption | apply State.readRegs_storesOk | intro)
    | (apply FstOk.of_eq (by assumption)) | simp only [FstOk.mk_iff] | split

theorem State.begin__storesOk (s : State) (gid : Nat) (oks : s.StoresOk) : (s.begin_ gid).StoresOk := by
  unfold State.begin_
  repeat' first | with_reducible (first | assumption | apply State.updGroup_storesOk | intro) | simp only [StoresOk.mk_iff] | split

theorem State.issueWord_storesOk (s : State) (w : Who) (t : Thread) (word : BitVec 64) (oks : s.StoresOk) : FstOk (s.issueWord w t word) := by
  unfold State.issueWord
  repeat' first
    | with_reducible (first | assumption | apply State.setThread_storesOk | apply State.consume_storesOk | apply State.readOperands_storesOk | intro)
    | (apply FstOk.of_eq (by assumption)) | simp only [StoresOk.mk_iff, FstOk.mk_iff] | split

theorem State.keepFetch_storesOk (s : State) (w : Who) (va : BitVec 64) (x : Option (BitVec 64)) (oks : s.StoresOk) :
    (s.keepFetch w va x).StoresOk := by
  unfold State.keepFetch
  repeat' first | with_reducible (first | assumption | intro) | simp only [StoresOk.mk_iff] | split

theorem State.abortedFetch_storesOk (s : State) (t : Thread) (oks : s.StoresOk) : FstOk (s.abortedFetch t) := by
  unfold State.abortedFetch
  repeat' first
    | with_reducible (first | assumption | apply State.drawFree_storesOk | apply State.consume_storesOk | apply SndOk.snd | intro)
    | simp only [StoresOk.mk_iff, FstOk.mk_iff] | split

theorem State.fetchFrom_storesOk (s : State) (w : Who) (t : Thread) (l : Loc) (oks : s.StoresOk) : FstOk (s.fetchFrom w t l) := by
  unfold State.fetchFrom
  repeat' first
    | with_reducible (first
        | assumption | apply State.setThread_storesOk | apply State.readFetch_storesOk | apply State.translate_storesOk
        | apply State.issueWord_storesOk | apply State.keepFetch_storesOk | apply State.abortedFetch_storesOk | intro)
    | (apply FstOk.of_eq (by assumption)) | simp only [FstOk.mk_iff] | split

theorem State.fetchWord_storesOk (s : State) (w : Who) (t : Thread) (oks : s.StoresOk) : FstOk (s.fetchWord w t) := by
  unfold State.fetchWord
  repeat' first
    | with_reducible (first
        | assumption | apply State.setThread_storesOk | apply State.park_storesOk | apply State.fetchError_storesOk | apply State.readWalk_storesOk
        | apply State.drawFree_storesOk | apply State.xfail_storesOk | apply State.keepFetch_storesOk | apply State.abortedFetch_storesOk
        | apply State.fetchFrom_storesOk | apply SndOk.snd | intro)
    | simp only [StoresOk.mk_iff, FstOk.mk_iff] | split

theorem State.goThread_storesOk (s : State) (w : Who) (t : Thread) (oks : s.StoresOk) : FstOk (s.goThread w t) := by
  unfold State.goThread
  repeat' first
    | with_reducible (first
        | assumption | apply State.serving_storesOk | apply State.begin__storesOk | apply State.issueWord_storesOk | apply State.abortedFetch_storesOk
        | apply State.fetchWord_storesOk | intro)
    | simp only [StoresOk.mk_iff] | split

theorem State.chooseThread_storesOk (s : State) (w : Who) (oks : s.StoresOk) : FstOk (s.chooseThread w) := by
  unfold State.chooseThread
  repeat' first
    | with_reducible (first | assumption | apply State.setThread_storesOk | apply State.trapNow_storesOk | apply State.goThread_storesOk | intro)
    | simp only [FstOk.mk_iff] | split

theorem State.chooseRedo_storesOk (s : State) (w : Who) (oid : Nat) (oks : s.StoresOk) : FstOk (s.chooseRedo w oid) := by
  unfold State.chooseRedo
  repeat' first
    | with_reducible (first | assumption | apply State.setThread_storesOk | apply State.serving_storesOk | intro)
    | simp only [StoresOk.mk_iff, FstOk.mk_iff] | split

theorem State.chooseEpilogue_storesOk (s : State) (core half : Nat) (oks : s.StoresOk) : FstOk (s.chooseEpilogue core half) := by
  unfold State.chooseEpilogue
  repeat' first | with_reducible (first | assumption | apply State.serving_storesOk | intro) | simp only [StoresOk.mk_iff, FstOk.mk_iff] | split

theorem State.setFlaw_storesOk (s : State) (x : Site) (there : Bool) (oks : s.StoresOk) : (s.setFlaw x there).StoresOk := by
  unfold State.setFlaw
  repeat' first | with_reducible (first | assumption | apply State.addFlaw_storesOk | apply State.mend_storesOk | intro) | dsimp only | split

theorem State.choose_storesOk (s : State) (a0 : Turn) (oks : s.StoresOk) : FstOk (s.choose a0) := by
  cases a0 <;> unfold State.choose
  all_goals repeat' first
    | with_reducible (first
        | assumption | apply State.serving_storesOk | apply State.reap_storesOk | apply State.rvAct_storesOk | apply State.chooseThread_storesOk
        | apply State.chooseRedo_storesOk | apply State.chooseEpilogue_storesOk | apply State.setFlaw_storesOk | intro)
    | simp only [StoresOk.mk_iff, FstOk.mk_iff] | split

theorem State.withThread_storesOk (s : State) (w : Who) (oks : s.StoresOk) : (s.withThread w).StoresOk := by
  unfold State.withThread
  repeat' first | with_reducible (first | assumption | apply State.updDie_storesOk | intro) | simp only [StoresOk.mk_iff] | split

theorem State.placeWord_storesOk (s : State) (w : BitVec 64) (oks : s.StoresOk) : (s.placeWord w).StoresOk := by
  unfold State.placeWord
  repeat' first
    | with_reducible (first | assumption | apply State.wrNat_storesOk | apply State.withThread_storesOk | intro)
    | simp only [StoresOk.mk_iff] | split

theorem State.placeEpilogue_storesOk (s : State) (w : BitVec 32) (oks : s.StoresOk) : (s.placeEpilogue w).StoresOk := by
  unfold State.placeEpilogue
  repeat' first
    | with_reducible (first | assumption | apply State.updHalf_storesOk | apply State.withThread_storesOk | intro)
    | simp only [StoresOk.mk_iff] | split

theorem State.placeFetch_storesOk (s : State) (nbits w : Nat) (oks : s.StoresOk) : (s.placeFetch nbits w).StoresOk := by
  unfold State.placeFetch
  repeat' first | with_reducible (first | assumption | apply State.placeWord_storesOk | apply State.placeEpilogue_storesOk | intro) | dsimp only | split

end Sys2Proof.Machine
end

