-- ==== Sys2Proof/Tests/Slice0.lean ====
section
/-! SUPPORT. Tests of single steps and of decoding, and for every statement that has hypotheses a theorem that names states and operands which meet them.
Expected values are the specification's own (its tables, its worked examples, its encodings) or are calculated by hand from its rules. -/
open Sys2Proof Sys2Proof.Machine
namespace Sys2Proof.Tests

set_option Elab.async false

/-- Each word decodes, in its stream, to the instruction beside it. -/
abbrev Decodes (l : List (Stream × BitVec 64 × Instr)) : Prop := ∀ e ∈ l, (decode e.1 e.2.1).toOption = some e.2.2

theorem test_decode_group0_0 : Decodes [
    (.lanes, 0x00160A0C0F280600, .add ⟨true, 3, 5, 6, 7, 0x94, 0, 0x0600⟩),
    (.steward, 0x00360A0C0F280600, .sub ⟨true, 3, 5, 6, 7, 0x94, 0, 0x0600⟩),
    (.lanes, 0x00560A0C0F280600, .mul ⟨true, 3, 5, 6, 7, 0x94, 0, 0x0600⟩),
    (.steward, 0x00760A0C0F280600, .mulh ⟨true, 3, 5, 6, 7, 0x94, 0, 0x0600⟩),
    (.lanes, 0x00960A0C0E120600, .mad ⟨true, 3, 5, 6, 7, 9, 0, 0x0600⟩),
    (.steward, 0x00B60A0C0F280600, .min ⟨true, 3, 5, 6, 7, 0x94, 0, 0x0600⟩),
    (.lanes, 0x00D60A0C0F280600, .max ⟨true, 3, 5, 6, 7, 0x94, 0, 0x0600⟩),
    (.steward, 0x00F60A0D29280600, .abs ⟨true, 3, 5, 6, 0x94, 0x94, 0, 0x0600⟩),
    (.lanes, 0x01160A0D29280600, .neg ⟨true, 3, 5, 6, 0x94, 0x94, 0, 0x0600⟩),
    (.steward, 0x01360A0C0F280600, .and ⟨true, 3, 5, 6, 7, 0x94, 0, 0x0600⟩),
    (.lanes, 0x01560A0C0F280600, .or ⟨true, 3, 5, 6, 7, 0x94, 0, 0x0600⟩),
    (.steward, 0x01760A0C0F280600, .xor ⟨true, 3, 5, 6, 7, 0x94, 0, 0x0600⟩),
    (.lanes, 0x01960A0C0F280600, .andn ⟨true, 3, 5, 6, 7, 0x94, 0, 0x0600⟩),
    (.steward, 0x01B60A0D29280600, .not ⟨true, 3, 5, 6, 0x94, 0x94, 0, 0x0600⟩),
    (.lanes, 0x01D60A0C0F280600, .shl ⟨true, 3, 5, 6, 7, 0x94, 0, 0x0600⟩),
    (.steward, 0x01F60A0C0F280600, .shr ⟨true, 3, 5, 6, 7, 0x94, 0, 0x0600⟩)] := by
  decide +kernel

theorem test_decode_group0_1 : Decodes [
    (.lanes, 0x02160A0C0F280600, .sar ⟨true, 3, 5, 6, 7, 0x94, 0, 0x0600⟩),
    (.steward, 0x02360A0C0F280600, .rot ⟨true, 3, 5, 6, 7, 0x94, 0, 0x0600⟩),
    (.lanes, 0x02560A0D29280600, .clz ⟨true, 3, 5, 6, 0x94, 0x94, 0, 0x0600⟩),
    (.steward, 0x02760A0D29280600, .ctz ⟨true, 3, 5, 6, 0x94, 0x94, 0, 0x0600⟩),
    (.lanes, 0x02960A0D29280600, .popc ⟨true, 3, 5, 6, 0x94, 0x94, 0, 0x0600⟩),
    (.steward, 0x02B60A0C0F280600, .bfx ⟨true, 3, 5, 6, 7, 0x94, 0, 0x0600⟩),
    (.lanes, 0x02D60A0C0E120600, .bfi ⟨true, 3, 5, 6, 7, 9, 0, 0x0600⟩),
    (.steward, 0x02F60A0D29280600, .brev ⟨true, 3, 5, 6, 0x94, 0x94, 0, 0x0600⟩),
    (.lanes, 0x03160A0C0E0A0600, .sel ⟨true, 3, 5, 6, 7, 5, 0, 0x0600⟩),
    (.steward, 0x03360A0D29280600, .mov ⟨true, 3, 5, 6, 0x94, 0x94, 0, 0x0600⟩),
    (.lanes, 0x0356080C0F280640, .cmp ⟨true, 3, 4, 6, 7, 0x94, 0, 0x0640⟩),
    (.steward, 0x03760A0C0E120600, .adds ⟨true, 3, 5, 6, 7, 9, 0, 0x0600⟩)] := by
  decide +kernel

theorem test_decode_group1 : Decodes [
    (.lanes, 0x0804092913579BDE, .movi ⟨false, 2, 4, 0x94, 0x89ABCDEF⟩),
    (.lanes, 0x0824092913579BDE, .movh ⟨false, 2, 4, 0x94, 0x89ABCDEF⟩),
    (.lanes, 0x0844081313579BDE, .addImm ⟨false, 2, 4, 9, 0x89ABCDEF⟩),
    (.lanes, 0x0864081313579BDE, .andImm ⟨false, 2, 4, 9, 0x89ABCDEF⟩),
    (.lanes, 0x0884081313579BDE, .orImm ⟨false, 2, 4, 9, 0x89ABCDEF⟩),
    (.lanes, 0x08A4081313579BDE, .xorImm ⟨false, 2, 4, 9, 0x89ABCDEF⟩)] := by
  decide +kernel

theorem test_decode_group2 : Decodes [
    (.lanes, 0x10160A0C0F281600, .fadd ⟨true, 3, 5, 6, 7, 0x94, 0, 0x1600⟩),
    (.lanes, 0x10360A0C0F281600, .fsub ⟨true, 3, 5, 6, 7, 0x94, 0, 0x1600⟩),
    (.lanes, 0x10560A0C0F281600, .fmul ⟨true, 3, 5, 6, 7, 0x94, 0, 0x1600⟩),
    (.lanes, 0x10760A0C0E121600, .ffma ⟨true, 3, 5, 6, 7, 9, 0, 0x1600⟩),
    (.lanes, 0x10960A0C0F281200, .fmin ⟨true, 3, 5, 6, 7, 0x94, 0, 0x1200⟩),
    (.lanes, 0x10B60C1015281800, .fmax ⟨true, 3, 6, 8, 0x0A, 0x94, 0, 0x1800⟩),
    (.lanes, 0x10D6080C0F2816C0, .fcmp ⟨true, 3, 4, 6, 7, 0x94, 0, 0x16C0⟩),
    (.lanes, 0x10F60A0D29281600, .fround ⟨true, 3, 5, 6, 0x94, 0x94, 0, 0x1600⟩),
    (.lanes, 0x11160A0D29281600, .fclass ⟨true, 3, 5, 6, 0x94, 0x94, 0, 0x1600⟩),
    (.lanes, 0x11360A0C0E121400, .fdot2 ⟨true, 3, 5, 6, 7, 9, 0, 0x1400⟩)] := by
  decide +kernel

theorem test_decode_group3 : Decodes [
    (.lanes, 0x18160A0D2929F600, .frcp ⟨true, 3, 5, 6, 0x94, 0x94, 15, 0x1600⟩),
    (.lanes, 0x18360A0D2929F600, .frsq ⟨true, 3, 5, 6, 0x94, 0x94, 15, 0x1600⟩),
    (.lanes, 0x18560A0D2929F600, .fsqrt ⟨true, 3, 5, 6, 0x94, 0x94, 15, 0x1600⟩),
    (.lanes, 0x18760A0D2929F600, .fexp2 ⟨true, 3, 5, 6, 0x94, 0x94, 15, 0x1600⟩),
    (.lanes, 0x18960A0D2929F600, .flog2 ⟨true, 3, 5, 6, 0x94, 0x94, 15, 0x1600⟩),
    (.lanes, 0x18B60A0D2929F600, .fsin ⟨true, 3, 5, 6, 0x94, 0x94, 15, 0x1600⟩),
    (.lanes, 0x18D60A0D2929F600, .fcos ⟨true, 3, 5, 6, 0x94, 0x94, 15, 0x1600⟩),
    (.lanes, 0x18F60A0D29281660, .cvt ⟨true, 3, 5, 6, 0x94, 0x94, 0, 0x1660⟩)] := by
  decide +kernel

theorem test_decode_group4 : Decodes [
    (.lanes, 0x201610200B280000, .hxq ⟨true, 3, 8, 0x10, 5, 0x94, 0, 0⟩),
    (.lanes, 0x203620100B280000, .hxd ⟨true, 3, 0x10, 8, 5, 0x94, 0, 0⟩),
    (.lanes, 0x205606200B280000, .hxe ⟨true, 3, 3, 0x10, 5, 0x94, 0, 0⟩),
    (.lanes, 0x20764010060A16A0, .mxcvt ⟨true, 3, 0x20, 8, 3, 5, 0, 0x16A0⟩),
    (.lanes, 0x20960A1129280200, .pk ⟨true, 3, 5, 8, 0x94, 0x94, 0, 0x0200⟩),
    (.lanes, 0x20B6100B29281200, .upk ⟨true, 3, 8, 5, 0x94, 0x94, 0, 0x1200⟩),
    (.lanes, 0x20D6080C0F280000, .voteAny ⟨true, 3, 4, 6, 7, 0x94, 0, 0⟩),
    (.lanes, 0x20D6080C0F280001, .voteAll ⟨true, 3, 4, 6, 7, 0x94, 0, 0x0001⟩),
    (.lanes, 0x20D6080C0F280002, .voteNone ⟨true, 3, 4, 6, 7, 0x94, 0, 0x0002⟩),
    (.lanes, 0x20D60B2929280003, .votePack ⟨true, 3, 5, 0x94, 0x94, 0x94, 0, 0x0003⟩),
    (.lanes, 0x20D7280D29280004, .voteUnpk ⟨true, 3, 0x94, 6, 0x94, 0x94, 0, 0x0004⟩)] := by
  decide +kernel

theorem test_decode_group5_0 : Decodes [
    (.lanes, 0x28160A0D29FC4600, .ld .sp ⟨true, 3, 5, 6, 0x94, 0xFE, 2, 0x0600⟩),
    (.lanes, 0x28360A0D29FC4600, .ld .gs ⟨true, 3, 5, 6, 0x94, 0xFE, 2, 0x0600⟩),
    (.lanes, 0x28560A0D29FC4600, .ld .gl ⟨true, 3, 5, 6, 0x94, 0xFE, 2, 0x0600⟩),
    (.lanes, 0x28760A0D29FC4600, .ld .lr ⟨true, 3, 5, 6, 0x94, 0xFE, 2, 0x0600⟩),
    (.lanes, 0x2897280C0FFC4600, .st .sp ⟨true, 3, 0x94, 6, 7, 0xFE, 2, 0x0600⟩),
    (.lanes, 0x28B7280C0FFC4600, .st .gs ⟨true, 3, 0x94, 6, 7, 0xFE, 2, 0x0600⟩),
    (.lanes, 0x28D7280C0FFC4600, .st .gl ⟨true, 3, 0x94, 6, 7, 0xFE, 2, 0x0600⟩),
    (.lanes, 0x28F7280C0FFC4600, .st .lr ⟨true, 3, 0x94, 6, 7, 0xFE, 2, 0x0600⟩),
    (.lanes, 0x2916100D29FC4000, .ldq .sp ⟨true, 3, 8, 6, 0x94, 0xFE, 2, 0⟩),
    (.lanes, 0x2936100D29FC4000, .ldq .gs ⟨true, 3, 8, 6, 0x94, 0xFE, 2, 0⟩),
    (.lanes, 0x2956100D29FC4000, .ldq .gl ⟨true, 3, 8, 6, 0x94, 0xFE, 2, 0⟩),
    (.lanes, 0x2976100D29FC4000, .ldq .lr ⟨true, 3, 8, 6, 0x94, 0xFE, 2, 0⟩),
    (.lanes, 0x2997280C11FC4000, .stq .sp ⟨true, 3, 0x94, 6, 8, 0xFE, 2, 0⟩),
    (.lanes, 0x29B7280C11FC4000, .stq .gs ⟨true, 3, 0x94, 6, 8, 0xFE, 2, 0⟩),
    (.lanes, 0x29D7280C11FC4000, .stq .gl ⟨true, 3, 0x94, 6, 8, 0xFE, 2, 0⟩),
    (.lanes, 0x29F7280C11FC4000, .stq .lr ⟨true, 3, 0x94, 6, 8, 0xFE, 2, 0⟩)] := by
  decide +kernel

theorem test_decode_group5_1 : Decodes [
    (.lanes, 0x2A57280D29000000, .pf ⟨true, 3, 0x94, 6, 0x94, 0x80, 0, 0⟩)] := by
  decide +kernel

theorem test_decode_group6_0 : Decodes [
    (.lanes, 0x30160A0D28FE2F10, .ldwf .sp ⟨true, 3, 5, 6, 0x94, 0x7F, 1, 0x0F10⟩),
    (.lanes, 0x30360A0D28FE2F10, .ldwf .gs ⟨true, 3, 5, 6, 0x94, 0x7F, 1, 0x0F10⟩),
    (.lanes, 0x30560A0D28FE2F10, .ldwf .gl ⟨true, 3, 5, 6, 0x94, 0x7F, 1, 0x0F10⟩),
    (.lanes, 0x30760A0D28FE2F10, .ldwf .lr ⟨true, 3, 5, 6, 0x94, 0x7F, 1, 0x0F10⟩),
    (.lanes, 0x30960A0D28FE2F10, .ldwfe .sp ⟨true, 3, 5, 6, 0x94, 0x7F, 1, 0x0F10⟩),
    (.lanes, 0x30B60A0D28FE2F10, .ldwfe .gs ⟨true, 3, 5, 6, 0x94, 0x7F, 1, 0x0F10⟩),
    (.lanes, 0x30D60A0D28FE2F10, .ldwfe .gl ⟨true, 3, 5, 6, 0x94, 0x7F, 1, 0x0F10⟩),
    (.lanes, 0x30F60A0D28FE2F10, .ldwfe .lr ⟨true, 3, 5, 6, 0x94, 0x7F, 1, 0x0F10⟩),
    (.lanes, 0x3117280C0EFE2F20, .stwe .sp ⟨true, 3, 0x94, 6, 7, 0x7F, 1, 0x0F20⟩),
    (.lanes, 0x3137280C0EFE2F20, .stwe .gs ⟨true, 3, 0x94, 6, 7, 0x7F, 1, 0x0F20⟩),
    (.lanes, 0x3157280C0EFE2F20, .stwe .gl ⟨true, 3, 0x94, 6, 7, 0x7F, 1, 0x0F20⟩),
    (.lanes, 0x3177280C0EFE2F20, .stwe .lr ⟨true, 3, 0x94, 6, 7, 0x7F, 1, 0x0F20⟩),
    (.lanes, 0x3197280C0EFE2F20, .stf .sp ⟨true, 3, 0x94, 6, 7, 0x7F, 1, 0x0F20⟩),
    (.lanes, 0x31B7280C0EFE2F20, .stf .gs ⟨true, 3, 0x94, 6, 7, 0x7F, 1, 0x0F20⟩),
    (.lanes, 0x31D7280C0EFE2F20, .stf .gl ⟨true, 3, 0x94, 6, 7, 0x7F, 1, 0x0F20⟩),
    (.lanes, 0x31F7280C0EFE2F20, .stf .lr ⟨true, 3, 0x94, 6, 7, 0x7F, 1, 0x0F20⟩)] := by
  decide +kernel

theorem test_decode_group6_1 : Decodes [
    (.lanes, 0x32160A0D28FE2000, .tagrd .sp ⟨true, 3, 5, 6, 0x94, 0x7F, 1, 0⟩),
    (.lanes, 0x32360A0D28FE2000, .tagrd .gs ⟨true, 3, 5, 6, 0x94, 0x7F, 1, 0⟩),
    (.lanes, 0x32560A0D28FE2000, .tagrd .gl ⟨true, 3, 5, 6, 0x94, 0x7F, 1, 0⟩),
    (.lanes, 0x32760A0D28FE2000, .tagrd .lr ⟨true, 3, 5, 6, 0x94, 0x7F, 1, 0⟩),
    (.lanes, 0x3297280C0EFE2000, .tagwr .sp ⟨true, 3, 0x94, 6, 7, 0x7F, 1, 0⟩),
    (.lanes, 0x32B7280C0EFE2000, .tagwr .gs ⟨true, 3, 0x94, 6, 7, 0x7F, 1, 0⟩),
    (.lanes, 0x32D7280C0EFE2000, .tagwr .gl ⟨true, 3, 0x94, 6, 7, 0x7F, 1, 0⟩),
    (.lanes, 0x32F7280C0EFE2000, .tagwr .lr ⟨true, 3, 0x94, 6, 7, 0x7F, 1, 0⟩),
    (.lanes, 0x33160A0C0EFE2600, .atomAdd .sp ⟨true, 3, 5, 6, 7, 0x7F, 1, 0x0600⟩),
    (.lanes, 0x33360A0C0EFE2600, .atomAdd .gs ⟨true, 3, 5, 6, 7, 0x7F, 1, 0x0600⟩),
    (.lanes, 0x33560A0C0EFE2600, .atomAdd .gl ⟨true, 3, 5, 6, 7, 0x7F, 1, 0x0600⟩),
    (.lanes, 0x33760A0C0EFE2600, .atomAdd .lr ⟨true, 3, 5, 6, 7, 0x7F, 1, 0x0600⟩),
    (.lanes, 0x33960A0C0EFE2600, .atomMin .sp ⟨true, 3, 5, 6, 7, 0x7F, 1, 0x0600⟩),
    (.lanes, 0x33B60A0C0EFE2600, .atomMin .gs ⟨true, 3, 5, 6, 7, 0x7F, 1, 0x0600⟩),
    (.lanes, 0x33D60A0C0EFE2600, .atomMin .gl ⟨true, 3, 5, 6, 7, 0x7F, 1, 0x0600⟩),
    (.lanes, 0x33F60A0C0EFE2600, .atomMin .lr ⟨true, 3, 5, 6, 7, 0x7F, 1, 0x0600⟩)] := by
  decide +kernel

theorem test_decode_group6_2 : Decodes [
    (.lanes, 0x34160A0C0EFE2600, .atomMax .sp ⟨true, 3, 5, 6, 7, 0x7F, 1, 0x0600⟩),
    (.lanes, 0x34360A0C0EFE2600, .atomMax .gs ⟨true, 3, 5, 6, 7, 0x7F, 1, 0x0600⟩),
    (.lanes, 0x34560A0C0EFE2600, .atomMax .gl ⟨true, 3, 5, 6, 7, 0x7F, 1, 0x0600⟩),
    (.lanes, 0x34760A0C0EFE2600, .atomMax .lr ⟨true, 3, 5, 6, 7, 0x7F, 1, 0x0600⟩),
    (.lanes, 0x34960A0C0EFE2600, .atomAnd .sp ⟨true, 3, 5, 6, 7, 0x7F, 1, 0x0600⟩),
    (.lanes, 0x34B60A0C0EFE2600, .atomAnd .gs ⟨true, 3, 5, 6, 7, 0x7F, 1, 0x0600⟩),
    (.lanes, 0x34D60A0C0EFE2600, .atomAnd .gl ⟨true, 3, 5, 6, 7, 0x7F, 1, 0x0600⟩),
    (.lanes, 0x34F60A0C0EFE2600, .atomAnd .lr ⟨true, 3, 5, 6, 7, 0x7F, 1, 0x0600⟩),
    (.lanes, 0x35160A0C0EFE2600, .atomOr .sp ⟨true, 3, 5, 6, 7, 0x7F, 1, 0x0600⟩),
    (.lanes, 0x35360A0C0EFE2600, .atomOr .gs ⟨true, 3, 5, 6, 7, 0x7F, 1, 0x0600⟩),
    (.lanes, 0x35560A0C0EFE2600, .atomOr .gl ⟨true, 3, 5, 6, 7, 0x7F, 1, 0x0600⟩),
    (.lanes, 0x35760A0C0EFE2600, .atomOr .lr ⟨true, 3, 5, 6, 7, 0x7F, 1, 0x0600⟩),
    (.lanes, 0x35960A0C0EFE2600, .atomXor .sp ⟨true, 3, 5, 6, 7, 0x7F, 1, 0x0600⟩),
    (.lanes, 0x35B60A0C0EFE2600, .atomXor .gs ⟨true, 3, 5, 6, 7, 0x7F, 1, 0x0600⟩),
    (.lanes, 0x35D60A0C0EFE2600, .atomXor .gl ⟨true, 3, 5, 6, 7, 0x7F, 1, 0x0600⟩),
    (.lanes, 0x35F60A0C0EFE2600, .atomXor .lr ⟨true, 3, 5, 6, 7, 0x7F, 1, 0x0600⟩)] := by
  decide +kernel

theorem test_decode_group6_3 : Decodes [
    (.lanes, 0x36160A0C0EFE2600, .atomXchg .sp ⟨true, 3, 5, 6, 7, 0x7F, 1, 0x0600⟩),
    (.lanes, 0x36360A0C0EFE2600, .atomXchg .gs ⟨true, 3, 5, 6, 7, 0x7F, 1, 0x0600⟩),
    (.lanes, 0x36560A0C0EFE2600, .atomXchg .gl ⟨true, 3, 5, 6, 7, 0x7F, 1, 0x0600⟩),
    (.lanes, 0x36760A0C0EFE2600, .atomXchg .lr ⟨true, 3, 5, 6, 7, 0x7F, 1, 0x0600⟩),
    (.lanes, 0x36960A0C0E122600, .atomCas .sp ⟨true, 3, 5, 6, 7, 9, 1, 0x0600⟩),
    (.lanes, 0x36B60A0C0E122600, .atomCas .gs ⟨true, 3, 5, 6, 7, 9, 1, 0x0600⟩),
    (.lanes, 0x36D60A0C0E122600, .atomCas .gl ⟨true, 3, 5, 6, 7, 9, 1, 0x0600⟩),
    (.lanes, 0x36F60A0C0E122600, .atomCas .lr ⟨true, 3, 5, 6, 7, 9, 1, 0x0600⟩),
    (.lanes, 0x37160A0C0EFE3600, .atomFadd .sp ⟨true, 3, 5, 6, 7, 0x7F, 1, 0x1600⟩),
    (.lanes, 0x37360A0C0EFE3600, .atomFadd .gs ⟨true, 3, 5, 6, 7, 0x7F, 1, 0x1600⟩),
    (.lanes, 0x37560A0C0EFE3600, .atomFadd .gl ⟨true, 3, 5, 6, 7, 0x7F, 1, 0x1600⟩),
    (.lanes, 0x37760A0C0EFE3600, .atomFadd .lr ⟨true, 3, 5, 6, 7, 0x7F, 1, 0x1600⟩)] := by
  decide +kernel

theorem test_decode_group7 : Decodes [
    (.lanes, 0x3817280C0EFE0600, .redAdd ⟨true, 3, 0x94, 6, 7, 0x7F, 0, 0x0600⟩),
    (.lanes, 0x3837280C0F000E00, .redMin ⟨true, 3, 0x94, 6, 7, 0x80, 0, 0x0E00⟩),
    (.lanes, 0x3857280C0E000600, .redMax ⟨true, 3, 0x94, 6, 7, 0, 0, 0x0600⟩),
    (.lanes, 0x3877280C0E021600, .redFadd ⟨true, 3, 0x94, 6, 7, 1, 0, 0x1600⟩),
    (.lanes, 0x3897292929280000, .redflush ⟨true, 3, 0x94, 0x94, 0x94, 0x94, 0, 0⟩),
    (.lanes, 0x38B7280D2928000B, .redseal ⟨true, 3, 0x94, 6, 0x94, 0x94, 0, 0x000B⟩),
    (.lanes, 0x38D7292929281800, .fence ⟨true, 3, 0x94, 0x94, 0x94, 0x94, 0, 0x1800⟩),
    (.steward, 0x38F7280D29281002, .acq ⟨true, 3, 0x94, 6, 0x94, 0x94, 0, 0x1002⟩),
    (.steward, 0x3917280D29281002, .rel ⟨true, 3, 0x94, 6, 0x94, 0x94, 0, 0x1002⟩),
    (.lanes, 0x3936080C0E100002, .bind ⟨true, 3, 4, 6, 7, 8, 0, 0x0002⟩),
    (.lanes, 0x3956080D28100002, .unbind ⟨true, 3, 4, 6, 0x94, 8, 0, 0x0002⟩),
    (.steward, 0x3977280D29287300, .cp ⟨true, 3, 0x94, 6, 0x94, 0x94, 3, 0x1300⟩),
    (.steward, 0x3997280D29287300, .gth ⟨true, 3, 0x94, 6, 0x94, 0x94, 3, 0x1300⟩)] := by
  decide +kernel

theorem test_decode_group8 : Decodes [
    (.lanes, 0x401F2929FFFFFFF6, .bra ⟨true, 7, 0x94, 0x94, 0xFFFFFFFB⟩),
    (.lanes, 0x4037280D29280000, .brx ⟨true, 3, 0x94, 6, 0x94, 0x94, 0, 0⟩),
    (.steward, 0x405F2928FFFFFFFE, .call ⟨true, 7, 0x94, 0x94, 0x7FFFFFFF⟩),
    (.lanes, 0x4077280D29280000, .callx ⟨true, 3, 0x94, 6, 0x94, 0x94, 0, 0⟩),
    (.steward, 0x4097292929280000, .ret ⟨true, 3, 0x94, 0x94, 0x94, 0x94, 0, 0⟩),
    (.lanes, 0x40A1292929280000, .land ⟨false, 0, 0x94, 0x94, 0x94, 0x94, 0, 0⟩),
    (.lanes, 0x40D6072929280000, .rjmark ⟨true, 3, 3, 0x94, 0x94, 0x94, 0, 0⟩),
    (.lanes, 0x40F6072929280000, .rjoin ⟨true, 3, 3, 0x94, 0x94, 0x94, 0, 0⟩),
    (.steward, 0x4117292929280000, .exit ⟨true, 3, 0x94, 0x94, 0x94, 0x94, 0, 0⟩),
    (.lanes, 0x4137292929280000, .yield ⟨true, 3, 0x94, 0x94, 0x94, 0x94, 0, 0⟩),
    (.steward, 0x4157292929280000, .nop ⟨true, 3, 0x94, 0x94, 0x94, 0x94, 0, 0⟩),
    (.lanes, 0x41772929292800FF, .trap ⟨true, 3, 0x94, 0x94, 0x94, 0x94, 0, 0x00FF⟩),
    (.lanes, 0x4197292929280000, .tret ⟨true, 3, 0x94, 0x94, 0x94, 0x94, 0, 0⟩)] := by
  decide +kernel

theorem test_decode_group9 : Decodes [
    (.lanes, 0x48160F292929E000, .wrecv ⟨true, 3, 7, 0x94, 0x94, 0x94, 15, 0⟩),
    (.lanes, 0x483728E12928000F, .wemit ⟨true, 3, 0x94, 0x70, 0x94, 0x94, 0, 0x000F⟩),
    (.steward, 0x48560F2929280000, .wclose ⟨true, 3, 7, 0x94, 0x94, 0x94, 0, 0⟩),
    (.steward, 0x48560E0C0F280001, .wcloseId ⟨true, 3, 7, 6, 7, 0x94, 0, 0x0001⟩),
    (.lanes, 0x48560F2929280002, .wcloseEnd ⟨true, 3, 7, 0x94, 0x94, 0x94, 0, 0x0002⟩),
    (.lanes, 0x4877292929280000, .wmret ⟨true, 3, 0x94, 0x94, 0x94, 0x94, 0, 0⟩),
    (.lanes, 0x4897280D29280000, .wtimer ⟨true, 3, 0x94, 6, 0x94, 0x94, 0, 0⟩),
    (.lanes, 0x48B60C0F29280000, .wstat ⟨true, 3, 6, 7, 0x94, 0x94, 0, 0⟩)] := by
  decide +kernel

theorem test_decode_group10 : Decodes [
    (.lanes, 0x50160E0C0B281040, .holdLock ⟨true, 3, 7, 6, 5, 0x94, 0, 0x1040⟩),
    (.lanes, 0x50160E0C0A100001, .holdSlot ⟨true, 3, 7, 6, 5, 8, 0, 0x0001⟩),
    (.lanes, 0x50160E0C0B280042, .holdCopy ⟨true, 3, 7, 6, 5, 0x94, 0, 0x0042⟩),
    (.lanes, 0x50360E0C0B280040, .heir ⟨true, 3, 7, 6, 5, 0x94, 0, 0x0040⟩),
    (.lanes, 0x50360E0C0B280001, .heirSlot ⟨true, 3, 7, 6, 5, 0x94, 0, 0x0001⟩),
    (.lanes, 0x50360F280B280002, .heirGrp ⟨true, 3, 7, 0x94, 5, 0x94, 0, 0x0002⟩),
    (.lanes, 0x50560E0C0B281040, .drop ⟨true, 3, 7, 6, 5, 0x94, 0, 0x1040⟩),
    (.lanes, 0x50560E0D28100001, .dropSlot ⟨true, 3, 7, 6, 0x94, 8, 0, 0x0001⟩),
    (.lanes, 0x50760E0C0B280040, .promise ⟨true, 3, 7, 6, 5, 0x94, 0, 0x0040⟩),
    (.lanes, 0x50960E0C0B281040, .fulfil ⟨true, 3, 7, 6, 5, 0x94, 0, 0x1040⟩),
    (.lanes, 0x50B60C0F29280000, .estqInfo ⟨true, 3, 6, 7, 0x94, 0x94, 0, 0⟩),
    (.lanes, 0x50B60C0F29280001, .estqObj ⟨true, 3, 6, 7, 0x94, 0x94, 0, 0x0001⟩),
    (.steward, 0x50B60C0F29280002, .estqFrom ⟨true, 3, 6, 7, 0x94, 0x94, 0, 0x0002⟩),
    (.steward, 0x50B60D2929280003, .estqMask ⟨true, 3, 6, 0x94, 0x94, 0x94, 0, 0x0003⟩)] := by
  decide +kernel

theorem test_decode_group11 : Decodes [
    (.lanes, 0x5817280D29282000, .qrld ⟨true, 3, 0x94, 6, 0x94, 0x94, 1, 0⟩),
    (.lanes, 0x5837280C0F282000, .qrseed ⟨true, 3, 0x94, 6, 7, 0x94, 1, 0⟩),
    (.lanes, 0x5837280D29282001, .qrseedKey ⟨true, 3, 0x94, 6, 0x94, 0x94, 1, 0x0001⟩),
    (.lanes, 0x58560A0C1128200C, .qrpt ⟨true, 3, 5, 6, 8, 0x94, 1, 0x000C⟩),
    (.lanes, 0x5876080C11282004, .qrpt4 ⟨true, 3, 4, 6, 8, 0x94, 1, 0x0004⟩),
    (.lanes, 0x58960A0C0F282000, .qrf ⟨true, 3, 5, 6, 7, 0x94, 1, 0⟩),
    (.steward, 0x58B60A0C0F282000, .qrhash ⟨true, 3, 5, 6, 7, 0x94, 1, 0⟩),
    (.lanes, 0x58B60A0C0E102001, .qrhashK ⟨true, 3, 5, 6, 7, 8, 1, 0x0001⟩)] := by
  decide +kernel

theorem test_decode_group12 : Decodes [
    (.steward, 0x60160B2929280000, .grjoin ⟨true, 3, 5, 0x94, 0x94, 0x94, 0, 0⟩),
    (.steward, 0x6037292929280000, .grleave ⟨true, 3, 0x94, 0x94, 0x94, 0x94, 0, 0⟩),
    (.steward, 0x60440C0E00000022, .crbeg ⟨false, 2, 6, 7, 0x00000011⟩),
    (.steward, 0x6077292929280000, .crend ⟨true, 3, 0x94, 0x94, 0x94, 0x94, 0, 0⟩),
    (.lanes, 0x60960A0C11288000, .sysrpc ⟨true, 3, 5, 6, 8, 0x94, 4, 0⟩),
    (.lanes, 0x60B6092929280C00, .mfsr ⟨true, 3, 4, 0x94, 0x94, 0x94, 0, 0x0C00⟩),
    (.lanes, 0x60D7280D29280C00, .mtsr ⟨true, 3, 0x94, 6, 0x94, 0x94, 0, 0x0C00⟩),
    (.steward, 0x60F6020D29280000, .diagInj ⟨true, 3, 1, 6, 0x94, 0x94, 0, 0⟩),
    (.steward, 0x61160E0C13280000, .kick ⟨true, 3, 7, 6, 9, 0x94, 0, 0⟩),
    (.lanes, 0x6136092929285000, .dqpop ⟨true, 3, 4, 0x94, 0x94, 0x94, 2, 0x1000⟩),
    (.lanes, 0x61561F2929280000, .nbw ⟨true, 3, 0x0F, 0x94, 0x94, 0x94, 0, 0⟩)] := by
  decide +kernel

theorem test_decode_group13 : Decodes [
    (.steward, 0x6817280D29280000, .dqpush ⟨true, 3, 0x94, 6, 0x94, 0x94, 0, 0⟩),
    (.steward, 0x68361F2929280000, .nbar ⟨true, 3, 0x0F, 0x94, 0x94, 0x94, 0, 0⟩),
    (.steward, 0x68532929FFFFFFFA, .fbra ⟨true, 1, 0x94, 0x94, 0xFFFFFFFD⟩)] := by
  decide +kernel

theorem test_decode_group14 : Decodes [
    (.steward, 0x70161FFF29280000, .qcset ⟨true, 3, 0x0F, 0xFF, 0x94, 0x94, 0, 0⟩),
    (.steward, 0x703602080A0C08C0, .mma ⟨true, 3, 1, 4, 5, 6, 0, 0x08C0⟩),
    (.steward, 0x7056032929280040, .mzero ⟨true, 3, 1, 0x94, 0x94, 0x94, 0, 0x0040⟩),
    (.steward, 0x707602080B280050, .mdrain ⟨true, 3, 1, 4, 5, 0x94, 0, 0x0050⟩),
    (.steward, 0x709728080B280020, .epld ⟨true, 3, 0x94, 4, 5, 0x94, 0, 0x0020⟩),
    (.steward, 0x70B7280929287300, .cpb ⟨true, 3, 0x94, 4, 0x94, 0x94, 3, 0x1300⟩),
    (.steward, 0x70D7280929287300, .coll ⟨true, 3, 0x94, 4, 0x94, 0x94, 3, 0x1300⟩),
    (.steward, 0x70F60E0929280300, .launch ⟨true, 3, 7, 4, 0x94, 0x94, 0, 0x0300⟩),
    (.steward, 0x70F60E080B280301, .launchEst ⟨true, 3, 7, 4, 5, 0x94, 0, 0x0301⟩)] := by
  decide +kernel

theorem test_decode_paired : Decodes [
    (.lanes, 0x800080A0000181C0, .pairedWord ⟨0, 0, 4, 5, 0⟩ ⟨0, 0, 6, 7, 0⟩),
    (.lanes, 0x9B6080B04E653040, .pairedWord ⟨0x1B, 3, 4, 5, 16⟩ ⟨0x27, 1, 0x94, 0xC1, 0⟩)] := by
  decide +kernel

/-- Each word decodes, as an epilogue word, to the instruction beside it. -/
abbrev EsDecodes (l : List (BitVec 32 × Instr)) : Prop := ∀ e ∈ l, esDecode e.1 = some e.2

/-- The layout and the OP codes of R276: OP in bits 31:27, d in 26:23, a in 22:19, b in 18:15, the rest below. -/
theorem test_decode_epilogue : EsDecodes [
    (0x00000000, .esNop), (0x09980000, .esMov 3 3), (0x11930000, .esAdd 3 2 6), (0x19930000, .esMul 3 2 6),
    (0x21937800, .esFma 3 2 6 15), (0x29930000, .esMax 3 2 6), (0x31930000, .esMin 3 2 6), (0x399000FF, .esScale 3 2 255),
    (0x41900080, .esBias 3 2 128), (0x499000FE, .esClamp 3 2 254), (0x51900000, .esExp2 3 2), (0x59900000, .esRcp 3 2),
    (0x61903F01, .esLut 3 2 63 1), (0x68130005, .esCmp 2 6 5), (0x71930000, .esSel 3 2 6), (0x7980020A, .esLd 3 2 10),
    (0x81900007, .esHxq 3 2 7), (0x89900001, .esCvt 3 2 1), (0x9010000F, .esSt 2 15), (0x98100000, .esStt 2),
    (0xA0001FC5, .esLoop 127 5), (0xA8000000, .esEnd)] := by
  decide +kernel

/-- Epilogue words that R276 refuses: an unassigned OP, a set unused bit, and each field limit one step beyond its bound. -/
theorem test_epilogue_words_refused :
    ([0xB0000000, 0xF8000000, 0x00000001, 0x80900008, 0x499000FF, 0x68130006, 0x7980030A, 0xA0000005] : List (BitVec 32)).map esDecode =
      List.replicate 8 none := by
  decide +kernel

/-- One ill-formed term for each field check of the epilogue words, which the check refuses. -/
theorem test_epilogue_terms_refused : ¬ EsWellFormed (.esClamp 0 0 255) ∧ ¬ EsWellFormed (.esCmp 0 0 6) ∧ ¬ EsWellFormed (.esLd 0 3 0) ∧
    ¬ EsWellFormed (.esLoop 0 1) ∧ ¬ EsWellFormed .waveIssue := by
  unfold EsWellFormed; decide +kernel

/-- Each instruction is ill-formed in the stream, and the first cause of R104 is the one beside it. -/
abbrev IllFormed (l : List (Stream × Instr × IllCause)) : Prop := ∀ e ∈ l, illegal e.1 e.2.1 = some e.2.2

/-- One ill-formed term for each check on a full word: the stream, the guard, MOD, an unused field, a numbered field, a special register as a
destination, an odd pair, a reserved code, a block, a run, a steward register, a lookahead, and three operands of one bank. -/
theorem test_ill_formed_words : IllFormed [
    (.steward, .fadd ⟨false, 0, 5, 6, 7, 0x94, 0, 0x1600⟩, .stream), (.lanes, .cp ⟨false, 0, 0x94, 4, 0x94, 0x94, 0, 0⟩, .stream),
    (.lanes, .add ⟨true, 0, 5, 6, 7, 0x94, 0, 0x0600⟩, .field), (.lanes, .add ⟨false, 0, 5, 6, 7, 0x94, 0, 0x1200⟩, .field),
    (.lanes, .and ⟨false, 0, 5, 6, 7, 0x94, 0, 0x0602⟩, .field), (.lanes, .add ⟨false, 0, 5, 6, 7, 0, 0, 0x0600⟩, .field),
    (.lanes, .cmp ⟨false, 0, 8, 6, 7, 0x94, 0, 0x0600⟩, .field), (.lanes, .rjmark ⟨false, 0, 4, 0x94, 0x94, 0x94, 0, 0⟩, .field),
    (.lanes, .nbw ⟨false, 0, 16, 0x94, 0x94, 0x94, 0, 0⟩, .field), (.lanes, .land ⟨false, 1, 0x94, 0x94, 0x94, 0x94, 0, 0⟩, .field),
    (.lanes, .mov ⟨false, 0, 0xA1, 6, 0x94, 0x94, 0, 0x0600⟩, .operand), (.lanes, .mov ⟨false, 0, 5, 6, 0x94, 0x94, 0, 0x0800⟩, .operand),
    (.lanes, .mov ⟨false, 0, 5, 0xB8, 0x94, 0x94, 0, 0x0600⟩, .operand), (.lanes, .hxq ⟨false, 0, 4, 16, 0, 0x94, 0, 0⟩, .operand),
    (.lanes, .wemit ⟨false, 0, 0x94, 0x71, 0x94, 0x94, 0, 15⟩, .operand), (.steward, .mov ⟨false, 0, 0x40, 6, 0x94, 0x94, 0, 0x0600⟩, .operand),
    (.steward, .qcset ⟨false, 0, 0, 0xC0, 0x94, 0x94, 0, 0⟩, .operand), (.lanes, .add ⟨false, 0, 5, 6, 7, 0x94, 1, 0x0600⟩, .lookahead),
    (.lanes, .mad ⟨false, 0, 5, 2, 6, 10, 0, 0x0600⟩, .bank)] := by
  decide +kernel

/-- The same for immediate words and paired words: an opcode of the pair table that is unassigned, the steward stream, a guard, a slot's MOD, an
operand, two registers of one bank, and one destination for both slots. -/
theorem test_ill_formed_pairs : IllFormed [
    (.lanes, .fbra ⟨false, 0, 0x94, 0x94, 1⟩, .stream), (.lanes, .movi ⟨true, 0, 5, 0x94, 1⟩, .field), (.lanes, .movi ⟨false, 0, 5, 6, 1⟩, .field),
    (.lanes, .movh ⟨false, 0, 5, 0x94, 1⟩, .operand), (.lanes, .pairedWord ⟨0x28, 0, 4, 5, 0⟩ ⟨0, 0, 6, 7, 0⟩, .opcode),
    (.steward, .pairedWord ⟨0, 0, 4, 5, 0⟩ ⟨0, 0, 6, 7, 0⟩, .stream), (.lanes, .pairedWord ⟨0, 4, 4, 5, 0⟩ ⟨0, 0, 6, 7, 0⟩, .field),
    (.lanes, .pairedWord ⟨0, 0, 4, 5, 1⟩ ⟨0, 0, 6, 7, 0⟩, .field), (.lanes, .pairedWord ⟨0, 0, 4, 0xA0, 0⟩ ⟨0, 0, 6, 7, 0⟩, .operand),
    (.lanes, .pairedWord ⟨0, 0, 4, 5, 0⟩ ⟨0, 0, 8, 7, 0⟩, .pair), (.lanes, .pairedWord ⟨0, 0, 0x90, 5, 0⟩ ⟨0, 0, 0x90, 7, 0⟩, .pair)] := by
  decide +kernel

/-- A step of the device is no word of a stream. -/
theorem test_no_word : ¬ WellFormed .lanes .waveIssue ∧ ¬ WellFormed .steward (.groupEnd 0) := by
  unfold WellFormed; decide +kernel

/-! ## Small machines -/

/-- A page that partition 0 may read and write, its frame of its own number, under key slot 0. -/
def dataPage (n : Nat) (cls : BitVec 3) : TEntry := ⟨n, 0, withPerm (newPte (BitVec.ofNat 28 n) 0 cls 0) 0 2⟩

/-- One agent that executes, in group 0 of launch 0 on core 0, with a code page at VA 0 and an ordinary, a tagged and a notify page after it. -/
def machine (w : Who) (t : Thread) : State :=
  { State.reset with
    cur := w, threads := [(w, t)], launches := [(0, placedLaunch)], groups := [(0, { Group.start 0 0 0 0 0 0 1 with began := true })]
    dies := [(0, { Die.reset with tcache := [(0, [⟨0, 0, codePage⟩, dataPage 1 0, dataPage 2 3, dataPage 3 4])] })] }

/-- A thread at its start in that group. -/
def young : Thread := Thread.start 0 0 0 0 0 0 0 0

/-- A lane thread with some registers set, executing. -/
def lane (r : Sparse 32) : State := machine (.lane 0 0) { young with regs := r }

/-- A steward with some registers set, executing. -/
def steward (r : Sparse 64) : State := machine (.steward 0) { young with sregs := r }

/-- The state after an instruction; the state itself where it stops. -/
def after (s : State) (i : Instr) : State := match exec i s with | .next u => u | _ => s

/-- The thread that executed, after an instruction. -/
def runs (s : State) (i : Instr) : Option Thread := (after s i).thread? s.cur

/-- Fields with destination 5 and sources 6, 7 and 9. -/
def ops (mod : BitVec 13) : RegF := ⟨false, 0, 5, 6, 7, 9, 0, mod⟩

/-- v5 after an instruction of a lane thread whose registers are as listed. -/
def v5 (i : Instr) (r : Sparse 32) : Option (BitVec 32) := (runs (lane r) i).map fun t => Sparse.rd t.regs 5

/-- Each instruction, with the registers listed, writes the value beside it into v5. -/
abbrev Gives (l : List (Instr × Sparse 32 × BitVec 32)) : Prop := ∀ e ∈ l, v5 e.1 e.2.1 = some e.2.2

/-- The predicates of a lane thread after an instruction. -/
def flags (i : Instr) (r : Sparse 32) : Option (BitVec 8) := (runs (lane r) i).map Thread.preds

/-! ## Groups 0 and 1: the borderline results of R142, and hand calculation -/

theorem test_arithmetic : Gives [
    (.add (ops 0x0600), [(6, 0x7FFFFFFF), (7, 1)], 0x80000000), (.add (ops 0x0620), [(6, 0x7FFFFFFF), (7, 1)], 0x7FFFFFFF),
    (.sub (ops 0x0E20), [(6, 1), (7, 2)], 0), (.sub (ops 0x0200), [(6, 0x80), (7, 1)], 0x7F),
    (.mul (ops 0x0620), [(6, 0x00010000), (7, 0x00010000)], 0x7FFFFFFF), (.mulh (ops 0x0E00), [(6, 0xFFFFFFFF), (7, 0xFFFFFFFF)], 0xFFFFFFFE),
    (.mulh (ops 0x0600), [(6, 0xFFFFFFFF), (7, 0xFFFFFFFF)], 0), (.mad (ops 0x0600), [(6, 3), (7, 4), (9, 5)], 17),
    (.min (ops 0x0600), [(6, 0xFFFFFFFF), (7, 1)], 0xFFFFFFFF), (.min (ops 0x0E00), [(6, 0xFFFFFFFF), (7, 1)], 1),
    (.max (ops 0x0600), [(6, 0xFFFFFFFF), (7, 1)], 1), (.abs (ops 0x0600), [(6, 0x80000000)], 0x80000000),
    (.abs (ops 0x0620), [(6, 0x80000000)], 0x7FFFFFFF), (.neg (ops 0x0E20), [(6, 3)], 0), (.neg (ops 0x0600), [(6, 3)], 0xFFFFFFFD),
    (.adds (ops 0x0600), [(6, 1), (7, 3), (9, 36)], 49)] := by
  decide +kernel

theorem test_logic_and_counts : Gives [
    (.and (ops 0x0E00), [(6, 0xF0), (7, 0x3C)], 0x30), (.or (ops 0x0E00), [(6, 0xF0), (7, 0x3C)], 0xFC), (.xor (ops 0x0E00), [(6, 0xF0), (7, 0x3C)], 0xCC),
    (.andn (ops 0x0E00), [(6, 0xF0), (7, 0x3C)], 0xC0), (.not (ops 0x0200), [], 0xFFFFFFFF), (.not (ops 0x0A00), [], 0xFF),
    (.shl (ops 0x0A00), [(6, 0x81), (7, 1)], 2), (.shr (ops 0x0A00), [(6, 0x81), (7, 1)], 0x40), (.sar (ops 0x0200), [(6, 0x80), (7, 1)], 0xFFFFFFC0),
    (.rot (ops 0x0A00), [(6, 0x81), (7, 1)], 3), (.clz (ops 0x0A00), [(6, 1)], 7), (.ctz (ops 0x0600), [], 32), (.popc (ops 0x0600), [(6, 0xFF0)], 8),
    (.brev (ops 0x0A00), [(6, 1)], 0x80)] := by
  decide +kernel

theorem test_fields_and_moves : Gives [
    (.bfx (ops 0x0600), [(6, 0xF0), (7, 0x0404)], 0xFFFFFFFF), (.bfx (ops 0x0E00), [(6, 0xF0), (7, 0x0404)], 0xF),
    (.bfx (ops 0x0E00), [(6, 0xF0), (7, 0x0420)], 0), (.bfi (ops 0x0E00), [(6, 0xFFFFFFFF), (9, 0x0808)], 0xFFFF00FF),
    (.sel ⟨false, 0, 5, 6, 7, 0, 0, 0x0600⟩, [(6, 1), (7, 2)], 1), (.sel ⟨false, 0, 5, 6, 7, 1, 0, 0x0600⟩, [(6, 1), (7, 2)], 2),
    (.mov (ops 0x0200), [(6, 0x80)], 0xFFFFFF80), (.movi ⟨false, 0, 5, 0x94, 0xFFFFFFFF⟩, [], 0xFFFFFFFF), (.movh ⟨false, 0, 4, 0x94, 9⟩, [], 9),
    (.addImm ⟨false, 0, 5, 6, 0xFFFFFFFF⟩, [(6, 1)], 0), (.andImm ⟨false, 0, 5, 6, 0xF⟩, [(6, 0x3C)], 0xC), (.orImm ⟨false, 0, 5, 6, 0xF⟩, [(6, 0x30)], 0x3F),
    (.xorImm ⟨false, 0, 5, 6, 0xF⟩, [(6, 0x3C)], 0x33)] := by
  decide +kernel

/-- A comparison writes the predicate that d names, by the type's signedness; a false guard writes nothing (R94, R146). -/
theorem test_comparison :
    [flags (.cmp ⟨false, 0, 3, 6, 7, 0x94, 0, 0x0640⟩) [(6, 0xFFFFFFFF), (7, 1)], flags (.cmp ⟨false, 0, 3, 6, 7, 0x94, 0, 0x0E40⟩) [(6, 0xFFFFFFFF), (7, 1)],
      flags (.cmp ⟨true, 1, 0, 6, 7, 0x94, 0, 0x0E40⟩) [], flags (.cmp ⟨false, 1, 3, 6, 7, 0x94, 0, 0x0600⟩) []] =
      [some 0x09, some 0x01, some 0x01, some 0x01] := by
  decide +kernel

/-- In a steward stream a narrow type is extended to the whole register, and an immediate is sign-extended (R147, R148). -/
theorem test_steward_integers :
    [(runs (steward [(6, 0x1FFFFFFFF), (7, 1)]) (.sub (ops 0x0600))).map fun t => Sparse.rd t.sregs 5,
      (runs (steward []) (.movi ⟨false, 0, 5, 0x94, 0x80000000⟩)).map fun t => Sparse.rd t.sregs 5,
      (runs (steward [(5, 7)]) (.movh ⟨false, 0, 5, 0x94, 1⟩)).map fun t => Sparse.rd t.sregs 5] =
      [some 0xFFFFFFFFFFFFFFFE, some 0xFFFFFFFF80000000, some 0x100000007] := by
  decide +kernel

/-! ## Groups 2 to 4: values of IEEE 754 and of the examples of R155 and R160 -/

theorem test_floats : Gives [
    (.fadd (ops 0x1600), [(6, 0x3F800000), (7, 0x3F800000)], 0x40000000), (.fadd (ops 0x1600), [(6, 0x7F800000), (7, 0xFF800000)], 0x7FC00000),
    (.fsub (ops 0x1600), [(6, 0x40400000), (7, 0x3F800000)], 0x40000000), (.fmul (ops 0x1600), [(6, 0x40400000), (7, 0xC0000000)], 0xC0C00000),
    (.ffma (ops 0x1600), [(6, 0x40000000), (7, 0x40400000), (9, 0x3F800000)], 0x40E00000),
    (.fdot2 (ops 0x1200), [(6, 0x40003C00), (7, 0x40003C00), (9, 0x3F800000)], 0x40C00000),
    (.fmin (ops 0x1600), [(6, 0), (7, 0x80000000)], 0x80000000), (.fmax (ops 0x1600), [(6, 0x7FC00001), (7, 0x3F800000)], 0x3F800000),
    (.fround (ops 0x1600), [(6, 0xBECCCCCD)], 0x80000000), (.fclass (ops 0x1600), [(6, 0x7F800001)], 0x100), (.fclass (ops 0x1600), [], 0x10)] := by
  decide +kernel

theorem test_roots : Gives [
    (.frcp (ops 0x1600), [(6, 0x40000000)], 0x3F000000), (.frsq (ops 0x1600), [(6, 0x40800000)], 0x3F000000), (.fsqrt (ops 0x1600), [(6, 0x40800000)], 0x40000000),
    (.fexp2 (ops 0x1600), [(6, 0x40400000)], 0x41000000), (.flog2 (ops 0x1600), [(6, 0x41000000)], 0x40400000), (.fsin (ops 0x1600), [(6, 0x3F000000)], 0x3F800000),
    (.fcos (ops 0x1600), [(6, 0x3F800000)], 0xBF800000), (.frsq (ops 0x1600), [(6, 0x80000000)], 0xFF800000)] := by
  decide +kernel

/-- The table "Rounding one value five ways", and the conversions and packings of R130 and R157. -/
theorem test_conversions : Gives [
    (.cvt (ops 0x1560), [(6, 0x3F808000)], 0x3F80), (.cvt (ops 0x1564), [(6, 0xBF808000)], 0xBF80), (.cvt (ops 0x1568), [(6, 0x3F808000)], 0x3F81),
    (.cvt (ops 0x1568), [(6, 0xBF808000)], 0xBF80), (.cvt (ops 0x156C), [(6, 0xBF808000)], 0xBF81), (.cvt (ops 0x1660), [(6, 3)], 0x40400000),
    (.pk (ops 0x0220), [(6, 0x7F), (7, 0x80), (8, 0xFFFFFF00), (9, 1)], 0x01807F7F), (.upk ⟨false, 0, 4, 6, 0x94, 0x94, 0, 0x0400⟩, [(6, 0x80000001)], 0xFFFF8000)] := by
  decide +kernel

theorem test_predicates :
    [flags (.fcmp ⟨false, 0, 3, 6, 7, 0x94, 0, 0x16C0⟩) [(6, 0x7FC00000)], flags (.fcmp ⟨false, 0, 3, 6, 7, 0x94, 0, 0x1600⟩) [(6, 0x80000000)],
      flags (.voteAny ⟨false, 0, 2, 6, 7, 0x94, 0, 0⟩) [(6, 6), (7, 4)], flags (.voteAll ⟨false, 0, 2, 6, 7, 0x94, 0, 1⟩) [(6, 6), (7, 5)],
      flags (.voteNone ⟨false, 0, 2, 6, 7, 0x94, 0, 2⟩) [(6, 6), (7, 1)], flags (.voteUnpk ⟨false, 0, 0x94, 6, 0x94, 0x94, 0, 4⟩) [(6, 0x1A4)]] =
      [some 9, some 9, some 5, some 1, some 5, some 0xA5] ∧ v5 (.votePack ⟨false, 0, 5, 0x94, 0x94, 0x94, 0, 3⟩) [] = some 1 := by
  decide +kernel

/-- The worked quantisation of R160: the scale byte is 0x80, element 0 is 0b0110 and element 1 is 0b0001; back it gives 8.0 and 1.0. -/
theorem test_narrow_formats :
    ((runs (lane [(32, 0x41200000), (33, 0x3F19999A)]) (.mxcvt ⟨false, 0, 64, 32, 0xC0, 5, 0, 0x0B60⟩)).map fun t => [Sparse.rd t.regs 5, Sparse.rd t.regs 64]) =
      some [0x80, 0x16] ∧
    ((runs (lane [(5, 0x80), (8, 0x16)]) (.mxcvt ⟨false, 0, 32, 8, 0xC0, 5, 0, 0x16A0⟩)).map fun t => [Sparse.rd t.regs 32, Sparse.rd t.regs 33]) =
      some [0x41000000, 0x3F800000] := by
  decide +kernel

/-- Both slots of a paired word read before either writes (R100). -/
theorem test_paired : (runs (lane [(4, 1), (7, 2)]) (.pairedWord ⟨0x16, 0, 4, 7, 0⟩ ⟨0x16, 0, 7, 4, 0⟩)).map (fun t => (t.regs, t.pc)) =
    some ([(4, 2), (7, 1)], 8) := by
  decide +kernel

/-! ## Groups 5 to 7: memory -/

/-- A lane thread with registers and scratchpad bytes at the offsets listed. -/
def laneMem (r : Sparse 32) (m : Memory) : State := { lane r with mem := m.map fun e => (2 ^ 60 + e.1, e.2) }

/-- v5 after an instruction of a lane thread with scratchpad bytes. -/
def v5Mem (i : Instr) (r : Sparse 32) (m : Memory) : Option (BitVec 32) := (runs (laneMem r m) i).map fun t => Sparse.rd t.regs 5

/-- The scratchpad bytes, by offset, and the tags, by word, after an instruction. -/
def spAfter (i : Instr) (r : Sparse 32) (m : Memory) : Memory × Sparse 2 :=
  let s := after (laneMem r m) i
  (s.mem.map fun e => (e.1 - 2 ^ 60, e.2), s.tags.map fun e => (e.1 - 2 ^ 58, e.2))

theorem test_loads :
    [v5Mem (.ld .sp ⟨false, 0, 5, 6, 0x94, 0xFF, 0, 0x0200⟩) [(6, 12)] [(8, 0x80)], v5Mem (.ld .sp ⟨false, 0, 5, 6, 0x94, 1, 0, 0x0E00⟩) [(6, 4)] [(8, 0x78), (9, 0x56), (11, 0x12)],
      v5Mem (.ld .sp ⟨false, 0, 5, 6, 0x94, 0, 0, 0x0C00⟩) [(6, 8)] [(8, 0x80), (9, 0xFF)], v5Mem (.ldq .sp ⟨false, 0, 4, 6, 0x94, 0, 0, 0⟩) [(6, 16)] [(20, 7)]] =
      [some 0xFFFFFF80, some 0x12005678, some 0xFF80, some 7] := by
  decide +kernel

/-- A misaligned access traps and the group, which has no handler, is gone; one past the allocation too (R166). -/
theorem test_access_checks :
    [v5Mem (.ld .sp ⟨false, 0, 5, 6, 0x94, 0, 0, 0x0E00⟩) [(6, 2)] [], v5Mem (.ld .sp ⟨false, 0, 5, 6, 0x94, 0, 0, 0x0E00⟩) [(6, 4096)] []] = [none, none] ∧
      v5Mem (.ld .sp ⟨false, 0, 5, 6, 0x94, 0, 0, 0x0E00⟩) [(6, 4092)] [] = some 0 := by
  decide +kernel

theorem test_stores :
    [spAfter (.st .sp ⟨false, 0, 0x94, 6, 7, 0, 0, 0x0C00⟩) [(6, 8), (7, 0x12345678)] [(8, 1), (10, 5)], spAfter (.stq .sp ⟨false, 0, 0x94, 6, 8, 0, 0, 0⟩) [(6, 16), (11, 0xFF000000)] [],
      spAfter (.stf .sp ⟨false, 0, 0x94, 6, 7, 0, 0, 0x0E00⟩) [(6, 8), (7, 9)] [], spAfter (.stwe .sp ⟨false, 0, 0x94, 6, 7, 1, 0, 0x0E00⟩) [(6, 4), (7, 9)] [],
      spAfter (.tagwr .sp ⟨false, 0, 0x94, 6, 7, 0, 0, 0⟩) [(6, 8), (7, 6)] [(8, 1)]] =
      [([(8, 0x78), (9, 0x56), (10, 5)], []), ([(31, 0xFF)], []), ([(8, 9)], [(2, 1)]), ([(8, 9)], [(2, 1)]), ([(8, 1)], [(2, 2)])] := by
  decide +kernel

/-- A `.gl` store goes to the frame of its page; a load finds it (R51). -/
theorem test_global_memory :
    (after (lane [(6, 0x1FFFC), (8, 0xAABBCCDD)]) (.st .gl ⟨false, 0, 0x94, 6, 8, 0, 0, 0x0E00⟩)).mem =
      [(0x1FFFC, 0xDD), (0x1FFFD, 0xCC), (0x1FFFE, 0xBB), (0x1FFFF, 0xAA)] ∧
    (runs { lane [(6, 0x10000)] with mem := [(0x10000, 0x44)] } (.ld .gl ⟨false, 0, 5, 6, 0x94, 0, 0, 0x0E00⟩)).map (fun t => Sparse.rd t.regs 5) = some 0x44 := by
  decide +kernel

/-- `ldwf` and `ldwfe` take a FULL word, the second making it EMPTY; at an EMPTY one the thread waits (R171, R172). -/
theorem test_tagged_loads :
    [(fun u : State => (u.tags, u.waits.length, (u.thread? (.lane 0 0)).map fun t => (Sparse.rd t.regs 5, t.bereaved)))
        (after { laneMem [(6, 8)] [(8, 3)] with tags := [(2 ^ 58 + 2, 1)] } (.ldwf .sp ⟨false, 0, 5, 6, 0x94, 0, 0, 0x0E00⟩)),
      (fun u : State => (u.tags, u.waits.length, (u.thread? (.lane 0 0)).map fun t => (Sparse.rd t.regs 5, t.bereaved)))
        (after { laneMem [(6, 8)] [(8, 3)] with tags := [(2 ^ 58 + 2, 3)] } (.ldwfe .sp ⟨false, 0, 5, 6, 0x94, 0, 0, 0x0E00⟩)),
      (fun u : State => (u.tags, u.waits.length, (u.thread? (.lane 0 0)).map fun t => (Sparse.rd t.regs 5, t.bereaved)))
        (after (laneMem [(6, 8)] [(8, 3)]) (.ldwfe .sp ⟨false, 0, 5, 6, 0x94, 0, 0, 0x0E00⟩))] =
      [([(2 ^ 58 + 2, 1)], 0, some (3, false)), ([], 0, some (3, true)), ([], 1, some (0, false))] ∧
    (runs { lane [(6, 8)] with tags := [(2 ^ 58 + 2, 3)] } (.tagrd .sp ⟨false, 0, 5, 6, 0x94, 0, 0, 0⟩)).map (fun t => Sparse.rd t.regs 5) = some 3 := by
  decide +kernel

/-- Each atomic leaves its result in the word and the old value in d (R175). -/
theorem test_atomics :
    ([Instr.atomAdd .sp (ops 0x0600), .atomMin .sp (ops 0x0600), .atomMax .sp (ops 0x0E00), .atomAnd .sp (ops 0x0600), .atomOr .sp (ops 0x0600), .atomXor .sp (ops 0x0600),
        .atomXchg .sp (ops 0x0600)].map fun i => spAfter (match i with
          | .atomAdd c f => .atomAdd c { f with c := 0 } | .atomMin c f => .atomMin c { f with c := 0 } | .atomMax c f => .atomMax c { f with c := 0 }
          | .atomAnd c f => .atomAnd c { f with c := 0 } | .atomOr c f => .atomOr c { f with c := 0 } | .atomXor c f => .atomXor c { f with c := 0 }
          | .atomXchg c f => .atomXchg c { f with c := 0 } | i => i) [(6, 8), (7, 6)] [(8, 5)]) =
      [([(8, 11)], []), ([(8, 5)], []), ([(8, 6)], []), ([(8, 4)], []), ([(8, 7)], []), ([(8, 3)], []), ([(8, 6)], [])] ∧
    [spAfter (.atomCas .sp (ops 0x0600)) [(6, 8), (7, 5), (9, 1)] [(8, 5)], spAfter (.atomCas .sp (ops 0x0600)) [(6, 8), (7, 6), (9, 1)] [(8, 5)],
      spAfter (.atomFadd .sp ⟨false, 0, 5, 6, 7, 0, 0, 0x1600⟩) [(6, 8), (7, 0x3F800000)] [(10, 0x80), (11, 0x3F)]] =
      [([(8, 1)], []), ([(8, 5)], []), ([(11, 0x40)], [])] ∧
    v5Mem (.atomCas .sp (ops 0x0600)) [(6, 8), (7, 6), (9, 1)] [(8, 5)] = some 5 := by
  decide +kernel

/-- A buffered reduction combines in the quarter's buffer and reaches memory at a flush point (R58, R176, R177). -/
theorem test_reductions :
    (fun u : State => (u.mem, (u.buffer 0 0).map fun e => (e.va, e.op, e.int)))
      (after (after (lane [(6, 0x10000), (8, 3)]) (.redAdd ⟨false, 0, 0x94, 6, 8, 0, 0, 0x0E00⟩)) (.redAdd ⟨false, 0, 0x94, 6, 8, 0, 0, 0x0E00⟩)) =
      ([], [(0x10000, 0, 6)]) ∧
    ([Instr.redflush ⟨false, 0, 0x94, 0x94, 0x94, 0x94, 0, 0⟩, .fence ⟨false, 0, 0x94, 0x94, 0x94, 0x94, 0, 0x1000⟩].map fun i =>
      (fun u : State => (u.mem, u.buffer 0 0)) (after (after { lane [(6, 0x10000), (8, 3)] with mem := [(0x10000, 5)] } (.redMax ⟨false, 0, 0x94, 6, 8, 0, 0, 0x0E00⟩)) i)) =
      [([(0x10000, 5)], []), ([(0x10000, 5)], [])] ∧
    (after (after (lane [(6, 0x10000), (8, 0x3F800000)]) (.redFadd ⟨false, 0, 0x94, 6, 8, 0, 0, 0x1600⟩)) (.redseal ⟨false, 0, 0x94, 6, 0x94, 0x94, 0, 11⟩)).mem =
      [(0x10002, 0x80), (0x10003, 0x3F)] := by
  decide +kernel

/-- `bind` refuses a length of 0, and `unbind` gives back what `bind` recorded (R182). -/
theorem test_binding :
    [(runs (lane [(6, 0x20000), (8, 0), (10, 0x10000)]) (.bind ⟨false, 0, 2, 10, 8, 6, 0, 2⟩)).map Thread.preds,
      (runs (lane [(6, 0x20000), (8, 64), (10, 0x10000)]) (.bind ⟨false, 0, 2, 10, 8, 6, 0, 2⟩)).map Thread.preds] = [some 1, some 5] ∧
    ((after (after (lane [(6, 0x20000), (8, 64), (10, 0x10000)]) (.bind ⟨false, 0, 2, 10, 8, 6, 0, 2⟩)) (.unbind ⟨false, 0, 2, 10, 0x94, 6, 0, 2⟩)).die 0).binds = [] := by
  decide +kernel

/-! ## Groups 8, 12 and 13: control and system -/

/-- The pc, the standing and the call depth after an instruction at pc 0x80. -/
def stands (r : Sparse 32) (i : Instr) : Option (BitVec 64 × Status × Nat) :=
  (runs (machine (.lane 0 0) { young with pc := 0x80, regs := r }) i).map fun t => (t.pc, t.status, t.depth)

/-- No operand. -/
def bare0 : RegF := ⟨false, 0, 0x94, 0x94, 0x94, 0x94, 0, 0⟩

theorem test_control :
    [stands [] (.bra ⟨false, 0, 0x94, 0x94, 0xFFFFFFFB⟩), stands [] (.bra ⟨false, 1, 0x94, 0x94, 5⟩), stands [] (.call ⟨false, 0, 0x94, 0x94, 2⟩), stands [] (.land bare0),
      stands [] (.nop bare0), stands [] (.yield bare0), stands [] (.rjoin ⟨false, 0, 1, 0x94, 0x94, 0x94, 0, 0⟩), stands [] (.exit bare0), stands [] (.ret bare0)] =
      [some (0x58, .ready, 0), some (0x88, .ready, 0), some (0x90, .ready, 1), some (0x88, .ready, 0), some (0x88, .ready, 0), some (0x88, .waiting .yielding, 0),
        some (0x88, .ready, 0), none, none] := by
  decide +kernel

/-- An indirect branch goes to a `land` alone, whose word is written out here (R195). -/
theorem test_indirect :
    [0x04, 0x0B].map (fun m : BitVec 64 => (runs { machine (.lane 0 0) { young with regs := [(6, 0x40)] } with
        mem := [(0x42, 0x28), (0x43, 0x29), (0x44, 0x29), (0x45, 0x29), (0x46, 0xA1), (0x47, 0x40)].map fun e : Nat × BitVec 8 => if m = 4 then e else (e.1 + 8, e.2) }
      (.brx ⟨false, 0, 0x94, 6, 0x94, 0x94, 0, 0⟩)).map Thread.pc) = [some 0x40, none] := by
  decide +kernel

/-- A trap with a handler entry parks the thread at its instruction with its origin record; `trap` has the cause of its code (R204, R326). -/
theorem test_trap :
    (runs { lane [] with launches := [(0, { placedLaunch with trapHandler := 0x400 })], word := 0x77 } (.trap ⟨false, 0, 0x94, 0x94, 0x94, 0x94, 0, 7⟩)).map
        (fun t => (t.pc, t.status, t.trapRec.map fun r => (r.cause, r.pc, r.word))) =
      some (0, .parked .handler, some (0x0407, 0, 0x77)) ∧
    (runs (lane []) (.trap ⟨false, 0, 0x94, 0x94, 0x94, 0x94, 0, 7⟩)) = none := by
  decide +kernel

/-- A group's steward and a lane thread, the one named first executing. -/
def pair (w : Who) (g : Group) : State :=
  { machine w young with threads := [(.steward 0, young), (.lane 0 0, young)], groups := [(0, g)] }

/-- The group of the small machines. -/
def group0 : Group := { Group.start 0 0 0 0 0 0 1 with began := true }

/-- A decision reaches the lane thread; a barrier opens when all have arrived (R12, R13). -/
theorem test_decisions_and_barriers :
    (((after (pair (.steward 0) group0) (.dqpush ⟨false, 0, 0x94, 0xC9, 0x94, 0x94, 0, 0⟩)).group? 0).map fun g => g.dq.map fun e => (e.num, e.value, e.owed)) =
      some [(0, 9, [0])] ∧
    (runs (pair (.lane 0 0) { group0 with dq := [⟨4, 9, [0]⟩] }) (.dqpop ⟨false, 0, 6, 0x94, 0x94, 0x94, 0, 0x0E00⟩)).map (fun t => (Sparse.rd t.regs 6, t.dqPos)) = some (9, 5) ∧
    (fun u : State => [(u.thread? (.steward 0)).map Thread.status, (u.thread? (.lane 0 0)).map Thread.status]) (after (pair (.steward 0) group0) (.nbar ⟨false, 0, 3, 0x94, 0x94, 0x94, 0, 0⟩)) =
      [some (.parked (.barrier 3)), some .ready] ∧
    (fun u : State => [(u.thread? (.steward 0)).map Thread.status, (u.thread? (.lane 0 0)).map Thread.status])
      (after { after (pair (.steward 0) group0) (.nbar ⟨false, 0, 3, 0x94, 0x94, 0x94, 0, 0⟩) with cur := .lane 0 0 } (.nbw ⟨false, 0, 3, 0x94, 0x94, 0x94, 0, 0⟩)) =
      [some .ready, some .ready] := by
  decide +kernel

/-- Regions open and close innermost first; a group without a sharing set is refused a rank; a kick is taken once; `mfsr` reads %cr (R36, R206, R213, R217). -/
theorem test_system :
    (((after (steward [(6, 0x10000), (7, 0x100000040)]) (.crbeg ⟨false, 0, 6, 7, 4⟩)).group? 0).map fun g => g.regions) = some [⟨32, 0x10000, 0x40, true⟩] ∧
    (((after (pair (.steward 0) { group0 with regions := [⟨8, 0, 4, false⟩, ⟨16, 0, 8, false⟩] }) (.crend bare0)).group? 0).map fun g => g.regions) = some [⟨16, 0, 8, false⟩] ∧
    (runs (steward []) (.grjoin ⟨false, 0, 5, 0x94, 0x94, 0x94, 0, 0⟩)).map (fun t => Sparse.rd t.sregs 5) = some 0xFFFFFFFFFFFFFFFF ∧
    (runs (steward []) (.grleave bare0)).map Thread.pc = some 8 ∧
    (fun u : State => ((u.thread? (.steward 0)).map Thread.preds, (u.die 0).pending)) (after (steward [(6, 5), (7, 0x10000)]) (.kick ⟨false, 0, 2, 6, 7, 0x94, 0, 0⟩)) = (some 5, [(5, 0x10000)]) ∧
    (runs (pair (.steward 0) { group0 with crCause := 0x60F }) (.mfsr ⟨false, 0, 5, 0x94, 0x94, 0x94, 0, 0x1000⟩)).map (fun t => Sparse.rd t.sregs 5) = some 0x60F ∧
    (runs (steward []) (.fbra ⟨false, 0, 0x94, 0x94, 2⟩)).map Thread.pc = some 16 ∧ (runs (steward [(6, 16384)]) (.sysrpc ⟨false, 0, 5, 6, 7, 0x94, 0, 0⟩)) = none := by
  decide +kernel

/-! ## Witnesses: for every statement that has hypotheses, states and operands that meet them, clause by clause -/

/-- Terms that are well formed in each stream, a word that is refused and one that decodes. -/
theorem test_witness_DecodeAndEncode : WellFormed .lanes (.mad (ops 0x0600)) ∧ WellFormed .steward (.nbar ⟨true, 7, 15, 0x94, 0x94, 0x94, 0, 0⟩) ∧
    (decode .lanes 0xFFFFFFFFFFFFFFFF).toOption = none ∧ (decode .steward 0x4141292929280000).toOption = some (.nop bare0) := by
  unfold WellFormed; decide +kernel

/-- One word of each case of R104, written out; a word that meets two cases has the first, and slot A of a paired word is judged before slot B. -/
theorem test_illegal_words :
    ([(.lanes, 0x7800000000000000, .opcode), (.lanes, 0x3961280929281300, .stream), (.steward, 0x800080A0000181C0, .stream), (.lanes, 0x800080A0000181C1, .field),
      (.lanes, 0x00160B2A0F280600, .operand), (.lanes, 0x00160A0C0F282600, .lookahead), (.lanes, 0x00960A0C141C0600, .bank), (.lanes, 0x800080A0000201C0, .pair),
      (.steward, 0x800080A0000201C1, .stream), (.lanes, 0x800080A0000201C1, .field)] : List (Stream × BitVec 64 × IllCause)).all
      (fun e => match decode e.1 e.2.1 with | .error c => decide (c = e.2.2) | .ok _ => false) = true := by
  decide +kernel

/-- Epilogue terms at their limits, words with each clause's premise, and a term that is illegal in one stream. -/
theorem test_witness_EpilogueAndIllegalWords : EsWellFormed (.esClamp 15 15 254) ∧ EsWellFormed (.esLoop 1 63) ∧ esDecode 0xA8000000 = some .esEnd ∧
    (match decode .lanes 0x7800000000000000 with | .error c => decide (c = .opcode) | .ok _ => false) = true ∧ bits (0x7FFFFFFFFFFFFFFF : BitVec 64) 62 59 = 15 ∧
    (0x7FFFFFFFFFFFFFFF : BitVec 64).getLsbD 63 = false ∧ Instr.isWord (.cp bare0) = true ∧ illegal .lanes (.cp bare0) ≠ none := by
  unfold EsWellFormed; decide +kernel

/-- A plain thread executes; register numbers at both ends of each range; an instruction of each format whose guard is false. -/
theorem test_witness_CompletionAndWrites : (lane []).thread? (lane []).cur = some young ∧ young.Plain ∧ Sparse.wf young.regs = true ∧ Sparse.wf young.sregs = true ∧
    regCode (.tret ⟨true, 7, 0, 0, 0, 0, 0, 0⟩) = some (0x20C, ⟨true, 7, 0, 0, 0, 0, 0, 0⟩) ∧ immCode (.bra ⟨false, 1, 0x94, 0x94, 1⟩) = some (0x200, ⟨false, 1, 0x94, 0x94, 1⟩) ∧
    young.guard false 1 = false ∧ young.guard true 7 = true ∧ young.guard false 0 = true := by
  unfold Thread.Plain; decide +kernel

/-- Operands for the integer statements: two operands, a shift count at both ends, an empty and a full field, and the bounds of `mulh`. -/
theorem test_witness_integers : (lane [(6, 0xFFFFFFFF), (7, 31)]).Executes { young with regs := [(6, 0xFFFFFFFF), (7, 31)] } false 0 ∧ modType 0x0600 = 3 ∧ typeWidth 3 = 32 ∧
    valueOf 3 ((lane [(6, 0xFFFFFFFF), (7, 31)]).srcType (.lane 0 0) { young with regs := [(6, 0xFFFFFFFF), (7, 31)] } 3 6) = -1 ∧
    ((-1 : Int) * 2 ^ 32 ≤ -1 * 31 ∧ (-1 * 31 : Int) < (-1 + 1) * 2 ^ 32) ∧ (31 : Nat) = (31 : BitVec 32).toNat % 32 ∧ (0 : Nat) = (32 : BitVec 32).toNat % 32 ∧
    Nat.min ((0x2000 : BitVec 32).toNat / 256 % 256) (32 - 0) = 32 ∧ Nat.min ((0x2020 : BitVec 32).toNat / 256 % 256) (32 - 32) = 0 ∧ modSat 0x0620 = true := by
  unfold State.Executes; decide +kernel

/-- A lane thread and a steward execute immediate forms; every condition of a comparison is some MOD. -/
theorem test_witness_MovesComparisonAndImmediates : (lane []).Executes young false 0 ∧ whoStream (lane []).cur = .lanes ∧ (steward []).Executes young false 0 ∧
    whoStream (steward []).cur = .steward ∧ [0x0600, 0x0620, 0x0640, 0x0660, 0x0680, 0x06A0].map modStype = [0, 1, 2, 3, 4, 5] ∧ young.predAt 0 = true ∧ young.predAt 7 = false := by
  unfold State.Executes; decide +kernel

/-- FP32 NaNs and numbers for `minimumNumber`, the conditions 0 and 7 of `fcmp`, and each outcome of a comparison. -/
theorem test_witness_FloatSelectionsAndComparison : (fp32.val 0x7FC00000).isNan = true ∧ (fp32.val 0xFFFFFFFF).isNan = true ∧ (fp32.val 0x3F800000).isNan = false ∧
    (fp32.val 0x80000000).isNan = false ∧ modStype 0x1600 = 0 ∧ modStype 0x16E0 = 7 ∧ (fp32.val 0x3F800000).compare (fp32.val 0x3F800000) = some 0 ∧
    (fp32.val 0x7FC00000).compare (fp32.val 0) = none ∧ ((fp32.val 0).compare (fp32.val 0x3F800000)).map (fun x => decide (x < 0)) = some true ∧
    (lane []).Executes young false 0 := by
  unfold State.Executes; decide +kernel

/-- A plain thread, without and with a lookahead. -/
theorem test_witness_RootsAndLookahead : (lane []).Executes young false 0 ∧ young.Plain ∧ (0 : BitVec 4) = 0 ∧ (15 : BitVec 4) ≠ 0 := by
  unfold State.Executes Thread.Plain; decide +kernel

/-- A launch whose format slot 0 names HX4, one whose slot 0 is 0, and format codes 5 and 6. -/
theorem test_witness_NarrowFormats : hxSlotOk ({ lane [] with launches := [(0, { placedLaunch with fs := [4] })] }.formatSlot young 0) = true ∧
    hxSlotOk ((lane []).formatSlot young 0) = false ∧ ((lane []).src32 (.lane 0 0) young 0xC5).toNat ≤ 5 ∧ 5 < ((lane []).src32 (.lane 0 0) young 0xC6).toNat ∧
    modType 0x16A0 = 11 ∧ modType 0x0B60 ≠ 11 := by
  decide +kernel

/-- A thread whose turn it is, at a page that it may execute: a legal word and an illegal one, fetched and read with no storage error; a program of
one epilogue word; an event; no turn. -/
theorem test_witness_StepRunsDecoded :
    ([0x4141292929280000, 0].all fun x =>
      let s : State := State.reset.withFetchWord 64 x
      let a : State := (({ s with turns := [], turn := .thread (.lane 0 0), cur := .lane 0 0 } : State).serving (s.coreOf (.lane 0 0) young)).begin_ young.gid
      let b := a.translate (a.partOf young) young.pc
      decide (s.turns = [.thread (.lane 0 0)]) && decide (s.thread? (.lane 0 0) = some young) && !young.wins.any Outstanding.broken && !young.skips.contains young.pc &&
        !s.savingOf (.lane 0 0) young && (a.waveFetch (.lane 0 0) young.pc).isNone && !a.walkOut young.pc &&
        decide (({ a with waves := [(.lane 0 0, 3)], fetched := [(3, (0, some 9))] } : State).waveFetch (.lane 0 0) young.pc = some (some 9)) &&
        (match a.gl (a.partOf young) young.pc Want.ex with | .ok p => decide (p = ⟨⟨0, some 0⟩, 0⟩) && !a.subBusOut p.loc | .error _ => false) &&
        decide ((b.readFetch (b.victimOf (.lane 0 0) young) young.pc ⟨0, some 0⟩).2 = false) && decide (s.flaws = []) && decide (BitVec.ofNat 64 (b.rdNat ⟨0, some 0⟩ 8) = BitVec.ofNat 64 x) &&
        decide (({ b with word := BitVec.ofNat 64 x } : State).readOperands (.lane 0 0) { young with view := young.replayView }
          (wordInstr .lanes (BitVec.ofNat 64 x))).2.isNone) = true ∧ young.status = .ready ∧
      (decode .lanes 0x4141292929280000).toOption = some (.nop bare0) ∧ (match decode .lanes 0 with | .error _ => true | .ok _ => false) = true ∧
    (fun s : State => s.turns = [.epilogue 0 0] ∧ (s.half 0 0).run = some placedRun ∧ placedRun.finished = false ∧ (s.half 0 0).store[placedRun.at_]? = some 0xA8000000 ∧
      esDecode 0xA8000000 = some .esEnd) (State.reset.withFetchWord 32 0xA8000000) ∧ State.reset.turns = [] ∧ State.reset.power = true := by
  refine ⟨by decide +kernel, rfl, by decide +kernel, by decide +kernel, ⟨by decide +kernel, by decide +kernel, rfl, by decide +kernel, by decide +kernel⟩, rfl, rfl⟩

/-- A state with a turn, one with none, and one without power. -/
theorem test_witness_OnlyPowerLossStops : (State.reset.withFetchWord 64 0).turns ≠ [] ∧ (State.reset.turns = [] ∧ State.reset.power = true) ∧
    (fun s : State => s.turns = [] ∧ s.power = false) (after State.reset .thermalTrip) := by
  decide +kernel

/-- A sound state whose step answers a next state. -/
theorem test_witness_StoresStayCanonical : (State.reset.withFetchWord 64 0).StoresOk ∧ ∃ u, step (State.reset.withFetchWord 64 0) = .next u := by
  refine ⟨by unfold State.StoresOk; decide +kernel, ?_⟩
  cases h : step (State.reset.withFetchWord 64 0) with
  | next u => exact ⟨u, rfl⟩
  | fault f => exact absurd (show (match step (State.reset.withFetchWord 64 0) with | .fault _ => true | _ => false) = false by decide +kernel) (by simp [h])
  | refused f => exact absurd (show (match step (State.reset.withFetchWord 64 0) with | .refused _ => true | _ => false) = false by decide +kernel) (by simp [h])

/-- A computing instruction in a lane, and one in a steward. -/
theorem test_witness_ComputeFrame : Instr.isCompute (.voteUnpk ⟨false, 0, 0x94, 6, 0x94, 0x94, 0, 4⟩) = true ∧ WellFormed (whoStream (lane []).cur) (.voteUnpk ⟨false, 0, 0x94, 6, 0x94, 0x94, 0, 4⟩) ∧
    WellFormed (whoStream (steward []).cur) (.movh ⟨false, 0, 63, 0x94, 1⟩) ∧ (lane []).thread? (lane []).cur = some young ∧ young.Plain ∧ Sparse.wf young.regs = true ∧ Sparse.wf young.sregs = true := by
  unfold WellFormed Thread.Plain; decide +kernel

/-- A plain thread with an empty buffer, in a launch with a handler and in one without; an illegal encoding and `tret` need a thread alone. -/
theorem test_witness_TakingTraps : young.Plain ∧ (0x0407 : BitVec 32) ≠ 0x0209 ∧ (lane []).launch? young.lid = some placedLaunch ∧ (lane []).cur = .lane 0 0 ∧
    (lane []).buffer ((lane []).coreOf (lane []).cur young) ((quarterOf (lane []).cur young).getD 0) = [] ∧ young.skips = [] ∧ placedLaunch.handlerFor 0x0407 = 0 ∧
    ({ placedLaunch with trapHandler := 8 } : Launch).handlerFor 0x0407 ≠ 0 ∧ (steward []).cur = .steward 0 ∧ young.guard false 0 = true := by
  unfold Thread.Plain; decide +kernel

/-- What an access that is performed reads, and the state in which it is performed. -/
def performed (s : State) (t : Thread) (spc : Space) (ea : BitVec 64) (n : Nat) (a : Acc) (p : Place) : State × Option (BitVec 32) :=
  let v := s.admitted t spc (s.homeVa t spc ea) a.write
  if a.reads then v.readFor (v.victimOf v.cur t) ((s.homeVa t spc ea).getD 0) p.loc n else (v, none)

/-- An access that passes the checks, with nothing that holds it back, reaches its place. -/
theorem reaches_of {s : State} {t : Thread} {spc : Space} {ea : BitVec 64} {n : Nat} {a : Acc} {p : Place}
    (h : (s.access s.cur t spc ea n a).toOption = some p) (b : s.heldBack t spc (s.homeVa t spc ea) p.loc n a.write = none)
    (r : (performed s t spc ea n a p).2 = none) : ∃ u, s.Reaches t spc ea n a p u := by
  refine ⟨(performed s t spc ea n a p).1, ?_, b, ?_⟩
  · cases e : s.access s.cur t spc ea n a <;> simp_all [Except.toOption]
  · exact show performed s t spc ea n a p = _ from Prod.ext rfl r

/-- A buffer that drains without a failure completes the flush point. -/
theorem flushes_of {s : State} {t : Thread} {q : Nat} (h : quarterOf s.cur t = some q)
    (k : (s.flushOnce t (s.coreOf s.cur t) q).drainHeld (s.coreOf s.cur t) q = false)
    (d : (s.flushOnce t (s.coreOf s.cur t) q).drainFailure (s.coreOf s.cur t) q s.cur = none) : s.Flushes t (s.flushOnce t (s.coreOf s.cur t) q) := by
  unfold State.Flushes; rw [h]; exact ⟨rfl, k, d⟩

/-- Why an access fails. -/
def failure (e : Except XFail Place) : Option XFail := match e with | .error f => some f | .ok _ => none

/-- A lane thread of a member of a sharing set, with rank 15 held on core 1. -/
def sharing : State := { lane [] with groups := [(0, { group0 with share := some 1, rank := some 0 }), (1, { Group.start 0 1 0 1 0 0 1 with share := some 1, rank := some 15 })] }

/-- Each check of R166 at its bound, and what passes it. -/
theorem test_witness_AccessChecks : (1 : BitVec 64).toNat % 4 ≠ 0 ∧ (4092 : BitVec 64).toNat % 4 = 0 ∧ (lane []).spGroup (lane []).cur young = some group0 ∧
    group0.spBytes < (4096 : BitVec 64).toNat + 4 ∧ (4092 : BitVec 64).toNat + 4 ≤ group0.spBytes ∧ bits (0x1000000 : BitVec 64) 31 24 ≠ 0 ∧ group0.rank = none ∧
    sharing.rankGroup (some 1) (bits (0x100000 : BitVec 64) 23 20) = none ∧ (sharing.rankGroup (some 1) (bits (0xF00FFC : BitVec 64) 23 20)).map (·.1) = some 1 ∧
    bits (0xF00FFC : BitVec 64) 31 24 = 0 ∧ bits (0xF00FFC : BitVec 64) 19 0 + 4 ≤ group0.spBytes ∧ group0.spBytes < bits (0xF01000 : BitVec 64) 19 0 + 4 ∧
    Acc.store.lr ≠ 0 ∧ Acc.load.lr = 0 ∧ (lane []).launch? young.lid = some placedLaunch ∧ 8 * placedLaunch.paramLen < (0 : BitVec 64).toNat + 4 ∧
    (0 : BitVec 64).toNat + 8 ≤ 8 * ({ placedLaunch with paramLen := 1 } : Launch).paramLen ∧
    failure ((lane []).gl ((lane []).partOf young) 0 Want.wr) = some (.trap 0x020A) ∧ ((lane []).gl ((lane []).partOf young) 0x10000 Want.wr).toOption.map Place.cls = some 0 ∧
    ((lane []).gl ((lane []).partOf young) 0x20000 Want.wr).toOption.map Place.cls = some 3 ∧ ((lane []).gl ((lane []).partOf young) 0x30000 Want.wr).toOption.map Place.cls = some 4 ∧
    failure ((lane []).access (lane []).cur young .gl 0x30000 4 Acc.store) = some (.trap 0x0207) := by
  decide +kernel

/-- Places apart on both sides and in other sectors, and an access of each size that reaches its place. -/
theorem test_witness_LoadsAndStores : Memory.wf (lane []).mem = true ∧ Sparse.wf (lane []).secKey = true ∧ (⟨2 ^ 60, none⟩ : Loc).Apart 7 ⟨2 ^ 60 + 8, none⟩ 4 ∧ (⟨2 ^ 60, none⟩ : Loc).Apart 12 ⟨2 ^ 60 + 8, none⟩ 4 ∧
    (⟨0, some 1⟩ : Loc).Apart 31 ⟨32, some 0⟩ 4 ∧ (lane []).Executes young false 0 ∧
    (∃ u, (lane []).Reaches young .sp 4092 4 Acc.load ⟨⟨2 ^ 60 + 4092, none⟩, 3⟩ u) ∧ (∃ u, (lane []).Reaches young .gl 0x1FFF0 16 Acc.store ⟨⟨0x1FFF0, some 0⟩, 0⟩ u) ∧
    (∃ u, (lane []).Reaches young .gl 0x10000 1 Acc.store ⟨⟨0x10000, some 0⟩, 0⟩ u) :=
  ⟨rfl, rfl, by unfold Loc.Apart; decide +kernel, by unfold Loc.Apart; decide +kernel, by unfold Loc.Apart; decide +kernel, by unfold State.Executes; decide +kernel,
    reaches_of (by decide +kernel) (by decide +kernel) (by decide +kernel), reaches_of (by decide +kernel) (by decide +kernel) (by decide +kernel), reaches_of (by decide +kernel) (by decide +kernel) (by decide +kernel)⟩

/-- Tagged words of both states, in a scratchpad and on a notify page, a release that completes, and an atomic's place. -/
theorem test_witness_TaggedAccessAndAtomics : (lane []).Executes young false 0 ∧ (∃ u, (lane []).Reaches young .sp 8 4 Acc.take ⟨⟨2 ^ 60 + 8, none⟩, 3⟩ u) ∧
    (∃ u, (lane []).Reaches young .sp 8 4 Acc.tagRead ⟨⟨2 ^ 60 + 8, none⟩, 3⟩ u) ∧ (∃ u, (lane []).Reaches young .gl 0x30000 4 Acc.fill ⟨⟨0x30000, some 0⟩, 4⟩ u) ∧
    (∃ u, (lane []).Reaches young .gl 0x20000 4 Acc.tagWrite ⟨⟨0x20000, some 0⟩, 3⟩ u) ∧ (∃ u, (lane []).Reaches young .gl 0x10000 8 Acc.atomic ⟨⟨0x10000, some 0⟩, 0⟩ u) ∧
    fullish 1 = true ∧ fullish 3 = true ∧ fullish 0 = false ∧ fullish 2 = false ∧ modOrd 0x0F20 = 2 ∧ (lane []).Flushes young ((lane []).flushOnce young 0 0) ∧
    (lane []).Releases young 0x0E00 (lane []) ∧ (lane []).Releases young 0x0F20 ((lane []).flushOnce young 0 0) := by
  have f : (lane []).Flushes young ((lane []).flushOnce young 0 0) := flushes_of (q := 0) (by decide +kernel) (by decide +kernel) (by decide +kernel)
  refine ⟨by unfold State.Executes; decide +kernel, reaches_of (by decide +kernel) (by decide +kernel) (by decide +kernel), reaches_of (by decide +kernel) (by decide +kernel) (by decide +kernel),
    reaches_of (by decide +kernel) (by decide +kernel) (by decide +kernel), reaches_of (by decide +kernel) (by decide +kernel) (by decide +kernel), reaches_of (by decide +kernel) (by decide +kernel) (by decide +kernel),
    rfl, rfl, rfl, rfl, by decide +kernel, f, ?_, ?_⟩
  · unfold State.Releases; rw [if_neg (by decide +kernel)]
  · unfold State.Releases; rw [if_pos (by decide +kernel)]; exact ⟨rfl, f⟩

/-- A quarter's buffer of `n` entries at word addresses of the ordinary page. -/
def buffered (n : Nat) : State := (lane []).updCore 0 fun c => { c with atom := [(0, (List.range n).map fun k => ⟨0x10000 + BitVec.ofNat 64 (4 * k), 0, 7, 1, Exact.zero, 0, false, none, 0, none⟩)] }

/-- A buffer with an entry on a page that may not be written. -/
def unwritable : State := (lane []).updCore 0 fun c => { c with atom := [(0, [⟨0, 0, 7, 1, Exact.zero, 0, false, none, 0, none⟩])] }

/-- A buffer with the same entry, one with 63 others and one with 64, which drains; one whose entry fails; a seal slot of the type and one of another. -/
theorem test_witness_Reductions : (lane []).Executes young false 0 ∧ quarterOf (lane []).cur young = some 0 ∧ (buffered 1).buffer 0 0 = [] ++ ⟨0x10000, 0, 7, 1, Exact.zero, 0, false, none, 0, none⟩ :: [] ∧
    inUse ((buffered 63).buffer 0 0) < 64 ∧ 64 ≤ inUse ((buffered 64).buffer 0 0) ∧ inUse (((buffered 64).flushOnce young 0 0).buffer 0 0) < 64 ∧ (∀ x ∈ (buffered 64).buffer 0 0, ¬(x.va = 0x1F000 ∧ x.op = 0 ∧ x.type = 7 ∧ x.sentBy = none)) ∧
    ((buffered 64).flushOnce young 0 0).drainFailure 0 0 (.lane 0 0) = none ∧ ((buffered 64).flushOnce young 0 0).drainHeld 0 0 = false ∧ (1 : BitVec 64).toNat % typeBytes 7 ≠ 0 ∧
    (∃ u, (lane []).Reaches young .gl 0x10000 (typeBytes 11) Acc.store ⟨⟨0x10000, some 0⟩, 0⟩ u) ∧ KV.at? ((lane []).die 0).redSlots 0x10000 = none ∧
    KV.at? (((lane []).updDie 0 fun d => { d with redSlots := [(0x10000, ⟨11, Exact.zero⟩)] }).die 0).redSlots 0x10000 = some ⟨11, Exact.zero⟩ ∧
    (buffered 1).trapReleases 0 0 = [] ∧ ((buffered 1).gl 0 0x10000 Want.wr).toOption = some ⟨⟨0x10000, some 0⟩, 0⟩ ∧ (buffered 1).flaws = [] ∧ (buffered 1).walkOut 0x10000 = false ∧
    (buffered 1).subBusOut ⟨0x10000, some 0⟩ = false ∧ (buffered 1).net.admits ((buffered 1).routerOf 0) 0 drainFlits = true ∧ (unwritable.flushOnce young 0 0).drainHeld 0 0 = false ∧
    (unwritable.flushOnce young 0 0).drainFailure 0 0 (.lane 0 0) = some (0x020A, 0) :=
  by and_intros <;> first | decide +kernel | (unfold State.Executes; decide +kernel) | exact reaches_of (by decide +kernel) (by decide +kernel) (by decide +kernel)

/-- An object, regions of length 0, of 2^30 and beyond, a home with room, and a region recorded at the first and at a later place. -/
theorem test_witness_OrderingAndBinding : (lane []).Executes young false 0 ∧ objSpace (subSpace 2) = .gl ∧ objSpace (subSpace 0) = .sp ∧
    ((lane []).access (lane []).cur young .gl 0x20000 4 Acc.object).toOption = some ⟨⟨0x20000, some 0⟩, 3⟩ ∧ 2 ^ 30 < (0x40000001 : BitVec 32).toNat ∧ (0x40000000 : BitVec 32).toNat ≤ 2 ^ 30 ∧
    ((lane []).dies.flatMap fun d => d.2.binds) = [] ∧ (∀ d ∈ (lane []).dies, d.2.binds = []) ∧
    (((lane []).updDie 0 fun d => { d with binds := [⟨1, 0, 0, 32, 0⟩, ⟨0x8000, 64, 64, 96, 0⟩] }).die 0).binds = [⟨1, 0, 0, 32, 0⟩] ++ ⟨0x8000, 64, 64, 96, 0⟩ :: [] ∧
    ((lane []).core 0).binds = [] ∧ (lane []).Flushes young ((lane []).flushOnce young 0 0) :=
  by refine ⟨by unfold State.Executes; decide +kernel, ?_, ?_, ?_, ?_, ?_, ?_, ?_, ?_, ?_, flushes_of (q := 0) (by decide +kernel) (by decide +kernel) (by decide +kernel)⟩ <;> decide +kernel

/-- A steward with a copy descriptor of 64 bytes within its scratchpad at offset 0. -/
def copier : State := { steward [] with mem := [(2 ^ 60 + 1, 2), (2 ^ 60 + 9, 1), (2 ^ 60 + 16, 64), (2 ^ 60 + 25, 3)] }

/-- An accepted descriptor and a refused one; a command at its end; one for a queue with room and one without. -/
theorem test_witness_Copies : copier.Executes young false 0 ∧ copier.groupOf young = some group0 ∧ young.Plain ∧
    copier.cpRefused group0 [0x200, 0x100, 64, 0x300] = false ∧ copier.cpRefused group0 [0x200, 0x100, 0x0000000340000001, 0x300] = true ∧
    ((List.range 4).map fun i => BitVec.ofNat 64 (copier.rdNat { spLoc 0 0 with key := (spLoc 0 0).key + 8 * i } 8)) = [0x200, 0x100, 64, 0x300] ∧ copier.heldBack young .sp (copier.homeVa young .sp 0) (spLoc 0 0) 64 false = none ∧
    copier.gthRefused group0 [0x200, 0x100, 16, 0x400, 0x300, 0, 0, 0] = false ∧ copier.gthRefused group0 [0, 0, 65537, 0, 0, 0, 0, 0] = true ∧
    (copier.donePlace (newCmd .cp 0 group0 [0x200, 0x100, 64, 0x300] 0)).toOption = some (spLoc 0 0x300, false) ∧
    (fun c : Cmd => (copier.moveOn 0 group0 (copier.dstOf group0 c) c (copier.pieces group0 c - c.progress)).2.2 = true ∧ c.toQueue = false ∧ c.kind ≠ .cpb ∧ c.held = false)
      (newCmd .cp 0 group0 [0x200, 0x100, 64, 0x300] 0) ∧ copier.flaws = [] ∧ Memory.wf copier.mem = true ∧
    (fun c : Cmd => c.toQueue = true ∧ c.bytes ≠ 0 ∧ (KV.at? [(3, (⟨0x400, 0, 0, 128, false⟩ : QBind))] (c.dw 0).toNat).isSome = true ∧ copier.queueTaken 0 0 0 3 = false)
      (newCmd .cp 0 group0 [3, 0x100, 0xC00000040, 0x300] 0) ∧ (∃ e ∈ [(3, (⟨0x400, 0, 0, 128, true⟩ : QBind))], e.2.bad = true) ∧
    copier.qcwRefused group0 0x400 = true ∧
    ({ copier with mem := [(2 ^ 60 + 0x403, 0x40), (2 ^ 60 + 0x404, 1)] } : State).qcwRefused group0 0x400 = false ∧
    qDepth (({ copier with mem := [(2 ^ 60 + 0x403, 0x40), (2 ^ 60 + 0x404, 1)] } : State).qcw group0 0x400) = 2 ∧
    qSize (({ copier with mem := [(2 ^ 60 + 0x403, 0x40), (2 ^ 60 + 0x404, 1)] } : State).qcw group0 0x400) = 64 := by
  unfold State.Executes Thread.Plain; decide +kernel

/-- A place that an access of a page reaches. -/
theorem ok_of {e : Except XFail Place} {p : Place} (h : e.toOption = some p) : e = .ok p := by cases e <;> simp_all [Except.toOption]

/-- A thread of call depth `n`, with the hardware part of its return stack. -/
def deep (n : Nat) : Thread := { young with depth := n, rstack := List.replicate (min n 8) 0x40 }

/-- Targets of each kind, and call depths on both sides of 0, 8 and 16, with and without room for the spill area. -/
theorem test_witness_BranchesAndCalls : (lane []).Transfers young (young.closeWindows true) false 0 ∧ (lane []).Executes young false 0 ∧ (4 : BitVec 64).toNat % 8 ≠ 0 ∧
    failure ((lane []).gl ((lane []).partOf young) 0x10000 Want.ex) = some (.trap 0x020A) ∧ ((lane []).gl ((lane []).partOf young) 0x40 Want.ex).toOption = some ⟨⟨0x40, some 0⟩, 0⟩ ∧
    (decode .lanes 0x40A1292929280000).toOption = some (.land bare0) ∧ (decode .lanes 0).toOption = none ∧
    ([0, 1, 7, 8, 9, 15, 16].all fun n => decide (((machine (.lane 0 0) (deep n)).thread? (.lane 0 0)) = some (deep n)) && decide ((deep n).rstack.length = min n 8)) = true ∧
    (machine (.lane 0 0) (deep 8)).spillBase (.lane 0 0) (deep 8) = some 3968 ∧
    ({ machine (.lane 0 0) (deep 8) with groups := [(0, { group0 with spUnits := 0 })] } : State).spillBase (.lane 0 0) (deep 8) = none ∧
    (machine (.lane 0 0) (deep 8)).sbBusy (deep 8) ((machine (.lane 0 0) (deep 8)).spillLoc (deep 8) 3968 0) 8 = false ∧
    ((machine (.lane 0 0) (deep 9)).readFor ((machine (.lane 0 0) (deep 9)).victimOf (.lane 0 0) (deep 9)) 0 ((machine (.lane 0 0) (deep 9)).spillLoc (deep 9) 3968 0) 8).2 = none := by
  unfold State.Executes State.Transfers; decide +kernel

/-- A thread of a rejoin set, and a group with the set of two members: none, or the other one, has arrived. -/
def rejoining (arrived : List Nat) (t : Thread) : State :=
  { lane [] with threads := [(.lane 0 0, t), (.lane 0 1, { young with tid := 1, j1 := 1, status := .parked (.rejoin 1) })]
                 groups := [(0, { group0 with sets := [(1, ⟨1, 8, 0, [0, 1], arrived, true⟩)], setNext := 2 })] }

/-- The empty set, a set in which another member is missing and one in which all have arrived; marks that form and that join; the three kinds of
thread at `exit`; a thread that yields. -/
theorem test_witness_RejoinsEndsAndWaits : (rejoining [] { young with j1 := 1 }).Transfers { young with j1 := 1 } { young with j1 := 1 } false 0 ∧ ({ young with j1 := 1 } : Thread).jAt 1 ≠ 0 ∧ young.jAt 1 = 0 ∧
    (∃ m ∈ [0, 1], m ≠ 0 ∧ m ∉ ([] : List Nat)) ∧ (∀ m ∈ [0, 1], m = 0 ∨ m ∈ [1]) ∧ ((rejoining [1] { young with j1 := 1 }).group? 0).map (fun g => (KV.at? g.sets 1).map RejoinSet.arrived) = some (some [1]) ∧
    ((rejoining [1] young).thread? (.lane 0 1)).map Thread.status = some (.parked (.rejoin 1)) ∧ group0.markedSet 1 0 0 = none ∧
    ({ group0 with sets := [(1, ⟨1, 0, 0, [1], [], false⟩)] } : Group).markedSet 1 0 0 = some 1 ∧ ((rejoining [] young).leaveSet 0 0 (young.jAt 1) false).clock = (rejoining [] young).clock ∧
    (steward []).Transfers young young false 0 ∧ young.gid = 0 ∧ (steward []).group? 0 = some group0 ∧ group0.asyncFault = none ∧
    (pair (.handler 0 0) group0).thread? (.lane 0 0) = some young ∧ ({ young with origin := some (.lane 0 0) } : Thread).origin = some (.lane 0 0) ∧
    young.Plain ∧ (machine (.lane 0 0) { young with status := .waiting .yielding }).thread? (.lane 0 0) = some { young with status := .waiting .yielding } := by
  unfold State.Transfers Thread.Plain; decide +kernel

/-- A handler thread, its origin and the origin's record; a selector of each space, and indexes at both ends of the files. -/
def handling (o : Who) : State :=
  { machine (.handler 0 0) { young with origin := some o } with
    threads := [(.handler 0 0, { young with origin := some o }), (o, { young with trapRec := some ⟨0x0407, 0, 0, 0, 0, false, [], [], none⟩ })] }

theorem test_witness_ControlRegisters : (handling (.lane 0 0)).Executes { young with origin := some (.lane 0 0) } false 0 ∧ ((handling (.lane 0 0)).thread? (.lane 0 0)).bind Thread.trapRec ≠ none ∧
    (handling (.steward 0)).Executes { young with origin := some (.steward 0) } false 0 ∧ isSteward (.steward 0) = true ∧ isSteward (.lane 0 0) = false ∧ (lane []).Executes young false 0 ∧
    young.origin = none ∧ [0x0000, 0x0C00, 0x0093, 0x0C07, 0x1000, 0x1003].map (fun m : BitVec 13 => (bits m 12 11, m.getLsbD 10, bits m 7 0)) =
      [(0, false, 0), (1, true, 0), (0, false, 0x93), (1, true, 7), (2, false, 0), (2, false, 3)] ∧ (steward []).groupOf young = some group0 := by
  unfold State.Executes; decide +kernel

/-- The decision queue empty, with 63 entries and with 64; a lane thread that owes an entry and one that owes none, with the steward gone; barriers at which the last and
at which another participant arrives. -/
theorem test_witness_QueueAndBarriers : (pair (.steward 0) group0).Executes young false 0 ∧ (pair (.steward 0) group0).groupOf young = some group0 ∧ ((List.range 63).map fun n => (⟨n, 0, [0]⟩ : DqEntry)).length < 64 ∧
    64 ≤ ((List.range 64).map fun n => (⟨n, 0, [0]⟩ : DqEntry)).length ∧ young.redo = none ∧ young.tid.toNat = 0 ∧ 0 ∈ (⟨4, 9, [0]⟩ : DqEntry).owed ∧ (lane []).stewardLive 0 = false ∧
    young.Plain ∧ (pair (.lane 0 0) group0).Flushes young ((pair (.lane 0 0) group0).flushOnce young 0 0) ∧ (pair (.steward 0) group0).Flushes young (pair (.steward 0) group0) ∧
    (pair (.steward 0) group0).stewardLive 0 = true ∧ (pair (.steward 0) group0).liveTids 0 = [0] ∧ (pair (.steward 0) group0).group? 0 = some group0 :=
  ⟨by unfold State.Executes; decide +kernel, by decide +kernel, by decide +kernel, by decide +kernel, rfl, rfl, by decide, by decide +kernel, by unfold Thread.Plain; decide,
    flushes_of (q := 0) (by decide +kernel) (by decide +kernel) (by decide +kernel), rfl, by decide +kernel, by decide +kernel, by decide +kernel⟩

/-- A steward of a sharing set with rank 0 free and with every rank taken; regions at 0, 3 and 4; operands of `crbeg` at each check; a partition with a ring and one without;
graph numbers 4095 and 4096; operands of `diag.inj` beyond each limit. -/
def ringed : State :=
  { steward [] with parts := [(0, { Part.reset with rings := [0x10000, 0, 0, 0] })], mem := [(0x10001, 2), (0x10008, 4)] }

theorem test_witness_SharingRegionsAndCalls : (steward []).Executes young false 0 ∧ (steward []).groupOf young = some group0 ∧ sharing.ranksOf (some 1) = [0, 15] ∧ tableSlot [] = some 0 ∧
    tableSlot ((List.range 64).map fun i => (i, (⟨4, 2, 0, 0, 0, 0, false, 0, false⟩ : Entry))) = none ∧ (∀ k < 0, k ∈ sharing.ranksOf (some 1)) ∧ 1 ∉ sharing.ranksOf (some 1) ∧
    ({ sharing with groups := (List.range 16).map fun r => (r, { group0 with share := some 1, rank := some r }) } : State).ranksOf (some 1) = List.range 16 ∧
    (steward []).rankOpen 0 { group0 with rank := some 0 } = false ∧ ({ steward [] with waits := [⟨2 ^ 58, none, false, .steward 1, 0, true, 0, .ldwf none 0⟩] } : State).rankOpen 0 { group0 with rank := some 0 } = true ∧ (4 : Nat) ≤ [(⟨8, 0, 4, false⟩ : Region), ⟨8, 0, 4, false⟩, ⟨8, 0, 4, false⟩, ⟨8, 0, 4, false⟩].length ∧
    bits (0x200000000 : BitVec 64) 63 33 ≠ 0 ∧ bits (0x1FFFFFFFF : BitVec 64) 63 33 = 0 ∧ group0.spBytes < 4092 + 8 ∧ 4092 + 4 ≤ group0.spBytes ∧
    (steward []).ring? 0 0 = none ∧ (ringed.ring? 0 0).map (fun r => (r.base, r.n, r.count)) = some (0x200, 4, 0) ∧ ringed.ReleasesAll young ringed ∧
    (ringed.ring? 0 0).map (fun r => (fullish (ringed.tagAt (r.space.key / 4)), fullish ((ringed.setTag (r.space.key / 4) 1).tagAt (r.space.key / 4)))) = some (false, true) ∧
    (ringed.ring? 0 0).map (fun r => (ringed.ringOut 0 r, (ringed.readFor (ringed.victimOf ringed.cur young) (r.spaceVa - 20) r.block 24).2)) = some (false, none) ∧ Memory.wf ringed.mem = true ∧ (4095 : BitVec 32).toNat ≤ 4095 ∧ 4095 < (4096 : BitVec 32).toNat ∧
    KV.at? ((steward []).die ((steward []).dieOfThread (steward []).cur young)).pending 4095 = none ∧ 127 < bits (0x80 : BitVec 64) 7 0 ∧ 128 < bits (0x8100 : BitVec 64) 15 8 ∧ bits (0x200000 : BitVec 64) 63 21 ≠ 0 :=
  ⟨by unfold State.Executes; decide +kernel, by decide +kernel, by decide +kernel, by decide +kernel, by decide +kernel, by decide, by decide +kernel, by decide +kernel, by decide +kernel, by decide,
    by decide, by decide, by decide, by decide, by decide +kernel, by decide +kernel, by decide +kernel, ⟨rfl, rfl⟩, by decide +kernel, by decide +kernel, by decide +kernel, by decide, by decide, by decide +kernel, by decide, by decide, by decide⟩

/-- A window block with the fields that the tests use. -/
def block0 : WinBlock :=
  { kind := 1, panes := false, explicitOnly := false, batch := false, scan := false, keyW := 0, keyOfs := 0, payload := 16, stateBase := 32, stateCnt := 2, length := 100, step := 100,
    late := 0, gap := 0, stale := 0, idle := 0, origin := 0, paneEntry := 0, mergeEntry := 0x100, mergeOfs := 0, stream := 7, scanDesc := 0, sinkBase := 0x10100, sinkN := 4,
    sinkProd := 0x20000, sinkCons := 0x20004, foldBase := 0, foldCap := 1, batchN := 2, batchWait := 10 }

/-- A window with nothing in it. -/
def win0 : Win :=
  { key := 0, pane := false, num := 0, start := 0, first := 0, last := 0, count := 0, delivered := 0, queue := [], thread := some (.lane 0 0), fold := none, closed := false,
    closeHeld := false, returned := false, timer := 0, lastDelivery := 0, emits := 0, restored := false, receiving := false, refused := 0, suspended := none }

/-- A record of 16 bytes. -/
def rec0 (ts : BitVec 64) : Rec := ⟨List.replicate 16 1, ts, 3, 0, 16, 0⟩

/-- A query with its windows. -/
def query0 (wins : KV Nat Win) : Query :=
  { lid := 0, part := 0, die := 0, block := block0, ingest := [], streamOpen := true, ending := false, tsMax := 0, w := 0, counts := [], births := [], wins := wins, winNext := 2, gone := [], gaps := [],
    counters := [], batch := [], batchSince := 0, scan := none, merge := none, pane := [], backlog := [] }

/-- The thread of window 0 of query 0. -/
def winThread : Thread := { young with win := some (0, 0) }

/-- The thread of a window executes, in a launch with the query. -/
def windowed (x : Query) : State :=
  { machine (.lane 0 0) winThread with launches := [(0, { placedLaunch with query := some 0 })], queries := [(0, x)], groups := [(0, { group0 with query := some 0 })] }

/-- A window with nothing, a record and a close queued; a returned one, a closed one, a pane before and after its emit; a sink with room and the pages of its words; threads with no window
and of no query; a merge at its depth and at another; a timer now, later and off; counters at both ends. -/
theorem test_witness_WindowInstructions : (lane []).Executes young false 0 ∧ (lane []).ownWin young = none ∧ (lane []).queryOf young = none ∧ (windowed (query0 [(0, win0)])).Executes winThread false 0 ∧
    (windowed (query0 [(0, win0)])).ownWin winThread = some (0, 0, query0 [(0, win0)], win0) ∧ (windowed (query0 [(0, win0)])).queryOf winThread = some (0, query0 [(0, win0)]) ∧ winThread.Plain ∧ winThread.mergeDepth = none ∧
    ({ win0 with queue := [.record (rec0 5), .close] } : Win).queue = .record (rec0 5) :: [.close] ∧ win0.queue = [] ∧ win0.returned = false ∧ ({ win0 with returned := true } : Win).returned = true ∧
    KV.at? (query0 [(0, win0)]).wins 0 = some win0 ∧ (query0 [(0, win0)]).closeWaits 0 win0 = false ∧
    ((windowed (query0 [(0, win0)])).flushOnce winThread 0 0).drainFailure 0 0 (.lane 0 0) = none ∧ ((windowed (query0 [(0, win0)])).flushOnce winThread 0 0).drainHeld 0 0 = false ∧ winThread.owesAccess = false ∧
    winThread.earlier.any Outstanding.receives = false ∧ ((windowed (query0 [(0, win0)])).flushOnce winThread 0 0).ownWin winThread = some (0, 0, query0 [(0, win0)], win0) ∧
    (((windowed (query0 [(0, win0)])).flushOnce winThread 0 0).gl 0 0x20000 Want.wr).toOption = some ⟨⟨0x20000, some 0⟩, 3⟩ ∧ (((windowed (query0 [(0, win0)])).flushOnce winThread 0 0).gl 0 0x20004 Want.rd).toOption = some ⟨⟨0x20004, some 0⟩, 3⟩ ∧
    sinkRoom 4 3 0 ≠ 0 ∧ sinkRoom 4 4 0 = 0 ∧ ((windowed (query0 [(0, win0)])).flushOnce winThread 0 0).sinkFault (query0 [(0, win0)]) 0 = none ∧
    (query0 [(0, win0)]).openNamed 0 5 = none ∧ ((query0 [(0, win0)]).openNamed 0 0).isSome = true ∧ (13 : BitVec 32).toNat ≤ 13 ∧ 13 < (14 : BitVec 32).toNat ∧
    ({ winThread with mergeDepth := some 1 } : Thread).depth ≠ 1 ∧ ({ winThread with mergeDepth := some 0 } : Thread).mergeDepth = some ({ winThread with mergeDepth := some 0 } : Thread).depth := by
  unfold State.Executes Thread.Plain; and_intros <;> decide +kernel

/-- A group with an entry of a kind at index 5, on the tagged word 0x20000. -/
def estated (kind : Nat) : Group := { group0 with estate := [(5, ⟨kind, 2, 0x20000, 0, 0, 0xFFFFFFFF, false, 0, false⟩)] }

/-- A steward whose group has queue 3 bound to a control word of depth 2 and entries of 64 bytes, with a SLOT entry of 2 on it. -/
def slotted : State :=
  { steward [] with
    mem := [(2 ^ 60 + 0x403, 0x40), (2 ^ 60 + 0x404, 1)]
    groups := [(0, { group0 with queues := [(3, ⟨0x400, 0, 0, 128, false⟩)], estate := [(0, ⟨2, 0, 3, 2, 0, 0xFFFFFFFF, false, 0, false⟩)] })] }

theorem test_witness_Estates : (lane []).Executes young false 0 ∧ (lane []).spGroup (lane []).cur young = some group0 ∧ objSpace (bits (0x40 : BitVec 13) 6 5) = .gl ∧
    (∃ u, (lane []).Reaches young .gl 0x20000 4 Acc.fill ⟨⟨0x20000, some 0⟩, 3⟩ u) ∧ (∃ u, (lane []).Reaches young .gl 0x20000 4 Acc.object ⟨⟨0x20000, some 0⟩, 3⟩ u) ∧
    (lane []).heirOk young 0xFFFFFFFF = true ∧ (lane []).heirOk young 0 = false ∧ group0.entryOn 2 0x20000 = none ∧ tableSlot group0.estate = some 0 ∧
    (([0, 1, 4, 5].all fun k => decide (((estated k).entryOn 2 0x20000).map (fun e => (e.1, e.2.kind, e.2.waiting)) = some (5, k, false))) = true) ∧
    slotted.Executes young false 0 ∧ slotted.slotQueue 0 group0 3 = some (0, 3) ∧ slotted.slotQueue 0 group0 0x200 = none ∧ qDepth (slotted.qcw group0 0x400) = 2 ∧ qOcc (slotted.qcw group0 0x400) = 0 ∧
    ((slotted.group? 0).bind fun g => slotted.slotEntry 0 g 3).map (fun e => (e.1, e.2.count)) = some (0, 2) ∧ slotted.slotEntry 0 group0 3 = none ∧ KV.at? (estated 4).estate 5 ≠ none ∧ KV.at? group0.estate 63 = none :=
  by and_intros <;> first | decide +kernel | (unfold State.Executes; decide +kernel) | exact reaches_of (by decide +kernel) (by decide +kernel) (by decide +kernel)

/-- A context with a window of four dimensions from dimension 8 of a table of 12. -/
def qru0 : Qru := { tbase := 0x10000, tdims := 12, taofs := 0, wcap := 4, wbase := 8, wdims := 4, seedKey := 0 }

/-- A lane thread of a group with that context. -/
def quasiLane : State := { lane [] with groups := [(0, { group0 with qru := some qru0 })] }

theorem test_witness_QuasiRandomUnit : quasiLane.Executes young false 0 ∧ quasiLane.quasi young = some ({ group0 with qru := some qru0 }, qru0) ∧ quasiLane.quasiBusy young = false ∧ (lane []).quasi young = none ∧ qru0.tdims ≤ 12 ∧ 11 < qru0.tdims ∧
    7 < qru0.wbase ∧ qru0.wbase + qru0.wdims ≤ 12 ∧ qru0.wbase ≤ 8 ∧ 11 < qru0.wbase + qru0.wdims ∧ 8 + 3 < qru0.wbase + qru0.wdims ∧
    (quasiLane.tableWords (quasiLane.partOf young) qru0 11 (min qru0.wcap (qru0.tdims - 11))).toOption.isSome = true ∧ (lane []).launch? young.lid = some placedLaunch ∧ (quasiLane.readTable quasiLane.cur young qru0 11 1).2 = none ∧
    (match ({ quasiLane with launches := [] } : State).tableWords 1 qru0 11 1 with | .error (_, .trap c) => decide (c ≠ 0x020D) | _ => false) = true ∧
    (0xFFFFFFFF : BitVec 64).extractLsb' 32 32 = 0 := by
  unfold State.Executes; decide +kernel

/-- A steward whose partition has both halves of core 0, with queue 3 bound and format slot 0 naming HX4. -/
def arrayed : State :=
  { slotted with
    launches := [(0, { placedLaunch with fs := [0x44] })], halves := [((0, 0), { Half.reset with part := some 0 }), ((0, 1), { Half.reset with part := some 0 })] }

/-- The group of that steward. -/
def arrayGroup : Group := { group0 with queues := [(3, ⟨0x400, 0, 0, 128, false⟩)], estate := [(0, ⟨2, 0, 3, 2, 0, 0xFFFFFFFF, false, 0, false⟩)] }

theorem test_witness_ArrayCommands : arrayed.Executes young false 0 ∧ arrayed.Commands young arrayGroup ∧ arrayed.HalvesOpen young arrayGroup [0, 1] ∧ (∃ h ∈ [0, 1], ((steward []).half 0 h).part ≠ some 0) ∧
    (∃ h ∈ [0, 1], ∃ x, (({ arrayed with halves := [((0, 0), { Half.reset with part := some 0, holder := some 1 })] } : State).half 0 h).holder = some x ∧ x ≠ 0) ∧
    slotValid 4 = false ∧ slotValid 0x44 = true ∧ arrayed.mmaRefused arrayGroup 0 0x44 0x44 3 0 1 = none ∧ arrayed.queueSize arrayGroup 3 = some 64 ∧ bits (0xFFFFFFFC : BitVec 64) 63 32 = 0 ∧
    arrayed.esIllegal young [0xA8000000] = none ∧ arrayed.esBadSlot young [0xA8000000] = none ∧ arrayed.heldBack young .sp none (spLoc 0 0) 256 false = none ∧ (arrayed.readFor (arrayed.victimOf arrayed.cur young) 0 (spLoc 0 0) 256).2 = none ∧ young.owesAccess = false ∧ (0 : Nat) + 4 * 64 ≤ arrayGroup.spBytes ∧
    bits (0x1F807F : BitVec 64) 63 21 = 0 ∧ bits (0x1F807F : BitVec 64) 7 0 ≤ 127 ∧ bits (0x1F807F : BitVec 64) 15 8 ≤ 128 ∧
    fillRefused arrayGroup [0, 0, 0x1000, 0x300] = false ∧ fillRefused arrayGroup [0, 0, 0, 0x300] = true ∧ (fillRange [0, 0, 0x12FF, 0x300]).1 + (fillRange [0, 0, 0x12FF, 0x300]).2 ≤ spanLines 0 ∧
    arrayed.queueNamed 0 3 = false ∧ arrayed.qcwRefused arrayGroup 0x400 = false ∧ arrayed.qcwRefused arrayGroup 0x404 = true ∧ arrayed.poolUsed 0 < 256 := by
  unfold State.Executes State.Commands State.HalvesOpen
  refine ⟨by decide +kernel, by decide +kernel, by decide +kernel, by decide +kernel, ⟨0, by decide, 1, by decide +kernel, by decide⟩, by decide +kernel⟩

/-- Half 0 of core 0 with one command, which has started or not, and with a drain's run. -/
def working (k : MxKind) (started : Bool) (run : Option DrainRun) : State :=
  { arrayed with halves := [((0, 0), { Half.reset with part := some 0, holder := some 0, queue := [⟨9, 0, 0, k, started⟩], run := run })] }

/-- A run of command 9 with 16 output words. -/
def run9 : DrainRun := { placedRun with cid := 9, out := List.replicate 16 1 }

/-- Zeros agree with a zero cell. -/
theorem zero_line (tol n : Nat) : lineMismatch tol (0#32) (List.replicate n (0#32)) = false := by
  have h0 : (val32 (0#32)).isNan = false ∧ (val32 (0#32)).isInf = false ∧ (val32 (0#32)).isZero = true := by decide +kernel
  generalize hv : val32 (0#32) = v at h0
  have e : ((0#32) :: List.replicate n (0#32)).map val32 = List.replicate (n + 1) v := by rw [← List.replicate_succ, List.map_replicate, hv]
  have f : (List.replicate (n + 1) v).filter (fun v => !v.isZero) = [] := by
    apply List.filter_eq_nil_iff.2; intro a ha; rw [List.eq_of_mem_replicate ha]; simp [h0.2.2]
  simp only [lineMismatch, e, f, ite_self]

/-- The lines and cells of an idle half. -/
theorem zero_cells : Half.reset.ccol 0 = List.replicate 64 (0#32) ∧ Half.reset.crow 0 = List.replicate 128 (0#32) ∧
    Half.reset.rows 0 = List.replicate 64 (List.replicate 128 (0#32)) := by decide +kernel

/-- No line of zeros mismatches. -/
theorem zero_check (n m : Nat) :
    ((List.range n).filter fun i => lineMismatch 129 ((List.replicate n (0#32)).getD i (0#32)) ((List.replicate n (List.replicate m (0#32))).getD i [])) = [] ∧
    ((List.range m).filter fun j => lineMismatch 65 ((List.replicate m (0#32)).getD j (0#32)) (columnOf (List.replicate n (List.replicate m (0#32))) j)) = [] := by
  constructor
  · apply List.filter_eq_nil_iff.2
    intro i hi
    have : i < n := List.mem_range.1 hi
    simp [List.getD_eq_getElem?_getD, this, zero_line]
  · apply List.filter_eq_nil_iff.2
    intro i hi
    have : i < m := List.mem_range.1 hi
    simp [columnOf, List.map_replicate, List.getD_eq_getElem?_getD, this, zero_line]

/-- A half with no mismatching line passes. -/
theorem pass_of (x : Half) (b : Nat) (h1 : ((List.range 64).filter fun i => lineMismatch 129 ((x.ccol b).getD i 0) ((x.rows b).getD i [])) = [])
    (h2 : ((List.range 128).filter fun j => lineMismatch 65 ((x.crow b).getD j 0) (columnOf (x.rows b) j)) = []) : x.check b = .pass := by
  unfold Half.check
  simp only [h1, h2]

/-- A half whose cells and lines are zero passes. -/
theorem pass_of_zero (x : Half) (b n m : Nat) (hn : n = 64) (hm : m = 128) (hc : x.ccol b = List.replicate n (0#32)) (hr : x.crow b = List.replicate m (0#32))
    (hw : x.rows b = List.replicate n (List.replicate m (0#32))) : x.check b = .pass := by
  have h := zero_check n m
  rw [← hw, ← hc, ← hr, hn, hm] at h
  exact pass_of x b h.1 h.2

/-- An idle half passes its check. -/
theorem idle_half_passes : Half.reset.check 0 = .pass :=
  pass_of_zero Half.reset 0 64 128 rfl rfl zero_cells.1 zero_cells.2.1 zero_cells.2.2

/-- A command of each kind that may start and one that may not, a check that passes, a step with its chunk in the queue, an output entry with room and without. -/
theorem test_witness_HalvesAtWork :
 ((working (.drain 0 3 0 false 0) false none).half 0 0).check 0 = .pass ∧
    ([MxKind.zero 0, .load [0xA8000000], .mma 1 3 0 1 0x44 0x44, .fill 9 0 1, .drain 0 3 0 false 0].all fun k =>
      decide (((working k false none).half 0 0).queue.find? (fun m => !m.started) = some ⟨9, 0, 0, k, false⟩) && decide ((working k false none).cmdHalves 0 9 = [0]) &&
        (working k false none).mayStart 0 ⟨9, 0, 0, k, false⟩) = true ∧
    (fun s : State => s.mayStart 0 ⟨9, 0, 0, .zero 0, false⟩) { arrayed with halves := [((0, 0), { Half.reset with queue := [⟨8, 0, 0, .zero 0, true⟩, ⟨9, 0, 0, .zero 0, false⟩] })] } = false ∧
    Sparse.wf Half.reset.acc = true ∧ 8192 * 1 ≤ 16383 ∧ 16383 < 8192 * 1 + 8192 ∧
    (fun s : State => ((s.half 0 0).queue.find? fun m => m.started && decide ((spanHalves m.span).headD 0 = 0) && s.mmaReady 0 m).isSome ∧ s.runQueue arrayGroup 3 = some 0x400 ∧
      (s.stepReady arrayGroup 0x400 0 (spanRows 0) 0x44 0x44).isSome ∧ s.group? 0 = some arrayGroup)
      { working (.mma 0 3 0 1 0x44 0x44) true none with mem := [(2 ^ 60 + 0x403, 0x30), (2 ^ 60 + 0x404, 8), (2 ^ 60 + 0x40C, 16)] } ∧
    (fun s : State => (s.half 0 0).run = some run9 ∧ (s.half 0 0).queue.find? (fun m => decide (m.cid = run9.cid)) = some ⟨9, 0, 0, .drain 0 3 0 false 0, true⟩ ∧ s.runQueue arrayGroup 3 = some 0x400 ∧
      qSize (s.qcw arrayGroup 0x400) / 4 ≤ run9.out.length ∧ qOcc (s.qcw arrayGroup 0x400) < qDepth (s.qcw arrayGroup 0x400)) (working (.drain 0 3 0 false 0) true (some run9)) ∧
    (fun s : State => qDepth (s.qcw arrayGroup 0x400) ≤ qOcc (s.qcw arrayGroup 0x400) ∧ s.runQueue arrayGroup 3 = some 0x400)
      { working (.drain 0 3 0 false 0) true (some run9) with mem := [(2 ^ 60 + 0x403, 0x40), (2 ^ 60 + 0x404, 1), (2 ^ 60 + 0x40C, 2)] } := by
  refine ⟨?_, by decide +kernel⟩
  have e : (working (.drain 0 3 0 false 0) false none).half 0 0 = { Half.reset with part := some 0, holder := some 0, queue := [⟨9, 0, 0, .drain 0 3 0 false 0, false⟩] } := by decide +kernel
  rw [e]
  exact pass_of_zero _ 0 64 128 rfl rfl (by decide +kernel) (by decide +kernel) (by decide +kernel)

/-- A drain's run with its context; parameters at the end of the allocation and beyond it; a chunk number and a half at their limits. -/
theorem test_witness_EpilogueWords : (fun s : State => s.cur = .epilogue 0 0 ∧ (s.half 0 0).run = some run9 ∧ (s.esContext 0 0 run9).map (fun k => (k.gid, k.pb, k.half, k.bank)) = some (0, 4092, 0, 1) ∧
      (s.esContext 0 0 run9).map (fun k => decide (k.pb + 4 * 0 + 4 ≤ k.group.spBytes) && decide (k.group.spBytes < k.pb + 4 * 1 + 4)) = some true)
      { working (.drain 1 3 4092 false 0) true (some run9) with cur := .epilogue 0 0 } ∧
    (fun s : State => (s.esContext 0 0 run9).map (fun k => decide (k.pb + 4 * 255 + 8 ≤ k.group.spBytes) && decide (k.pb + 512 * 7 + 512 ≤ k.group.spBytes) &&
      decide (k.pb + 4 * (192 + 63) + 4 ≤ k.group.spBytes)) = some true) (working (.drain 0 3 0 false 0) true (some run9)) ∧ ({ run9 with chunk := 511 } : DrainRun).chunk < 512 ∧
    (KV.at? ([(0, 2)] : KV Nat Nat) 0).getD 0 + 1 < (4 : BitVec 7).toNat ∧ (3 : BitVec 7).toNat ≤ (KV.at? ([(0, 2)] : KV Nat Nat) 0).getD 0 + 1 := by
  decide +kernel

/-- A launch of two groups in one cluster, whose collectives have two participants. -/
def twoGroups : Launch := { placedLaunch with levels := [⟨false, 1, 2, 1⟩, ⟨false, 2, 4, 2⟩], placed := 2 }

/-- A descriptor of one i32 element of level 1 that adds. -/
def collDesc : List (BitVec 64) := [0x10000, 0x10040, 1, 0x30200000000, 0x20000, 0, 0, 0]

/-- A steward of that launch, with a collective that waits for its second participant or not. -/
def collecting (ms : List CollMember) : State :=
  { steward [] with launches := [(0, twoGroups)], colls := if ms = [] then [] else [(5, ⟨0, 1, 0, 0, 0, 2, 0, ms, []⟩)] }

/-- A refused descriptor and one that is not; the first participant, the last, and a full collective whose members agree or differ. -/
theorem test_witness_Collectives : (collecting []).Executes young false 0 ∧ (collecting []).Commands young group0 ∧ (collecting []).heldBack young .sp none (spLoc 0 0) 64 false = none ∧ (collecting []).launch? group0.lid = some twoGroups ∧
    twoGroups.collRefused [0, 0, 0, 0, 0, 1, 0, 0] = true ∧ twoGroups.collRefused collDesc = false ∧ twoGroups.instSize 1 = 2 ∧ twoGroups.dead = [] ∧ (collecting []).collFor 0 1 (twoGroups.instOf 1 0) 0 0 = none ∧
    ((collecting [⟨1, 1, collDesc, false, false, 0⟩]).collFor 0 1 (twoGroups.instOf 1 0) 0 0).map (·.1) = some 5 ∧
    (KV.at? (collecting [⟨1, 1, collDesc, false, false, 0⟩, ⟨0, 0, collDesc, false, false, 0⟩]).colls 5).map (fun c => decide (c.size ≤ c.members.length)) = some true ∧
    (firstHold ((collecting []).collAll 0 ⟨0, 1, 0, 0, 0, 2, 0, [⟨1, 1, collDesc, false, false, 0⟩, ⟨0, 0, collDesc, false, false, 0⟩], []⟩)).isNone = true ∧
    (⟨1, 1, collDesc, false, false, 0⟩ : CollMember).shape = (⟨0, 0, collDesc, false, false, 0⟩ : CollMember).shape ∧
    (⟨1, 1, collDesc, false, false, 0⟩ : CollMember).shape ≠ (⟨0, 0, [], false, false, 0⟩ : CollMember).shape := by
  unfold State.Executes State.Commands
  and_intros <;> decide +kernel

/-- A steward that launches the record at 0x10000, whose completion word is the tagged word 0x20000. -/
def launcher : State := { steward [(6, 0x10000)] with mem := [(0x10022, 2)] }

/-- The record's place, a completion word of each kind, a store with room and a full one. -/
theorem test_witness_DeviceLaunch : launcher.Executes { young with sregs := [(6, 0x10000)] } false 0 ∧ launcher.groupOf { young with sregs := [(6, 0x10000)] } = some group0 ∧
    launcher.src64 launcher.cur { young with sregs := [(6, 0x10000)] } 6 = 0x10000 ∧ (∃ u, launcher.Reaches { young with sregs := [(6, 0x10000)] } .gl 0x10000 256 Acc.load ⟨⟨0x10000, some 0⟩, 0⟩ u) ∧
    dwordOf ((List.range 32).map fun i => BitVec.ofNat 64 (launcher.rdNat ⟨0x10000 + 8 * i, some 0⟩ 8)) 4 = 0x20000 ∧ (0x20001 : BitVec 64).toNat % 4 ≠ 0 ∧
    (launcher.gl (launcher.partOf young) 0x20000 Want.wr).toOption.map Place.cls = some 3 ∧ (launcher.gl (launcher.partOf young) 0x10000 Want.wr).toOption.map Place.cls = some 0 ∧
    launcher.launchEntry young 0x20000 0 = none ∧ launcher.launchEntry young 0x20000 0xFFFFFFFF = some 0 ∧ (launcher.die (launcher.dieOfThread launcher.cur young)).storeSlot = some 0 ∧
    lowestFree (List.range 16) 0 16 = none :=
  ⟨by unfold State.Executes; decide +kernel, by decide +kernel, by decide +kernel, reaches_of (by decide +kernel) (by decide +kernel) (by decide +kernel), by decide +kernel, by decide, by decide +kernel, by decide +kernel,
    by decide +kernel, by decide +kernel, by decide +kernel, by decide +kernel⟩

/-- A lane thread that has waited for its handler since clock 0, at clock `n`. -/
def trapped (n : Nat) : State :=
  { machine (.lane 0 0) { young with trapRec := some ⟨0x0407, 0, 0, 0, 0, false, [], [], none⟩, status := .parked .handler } with
    clock := n, cores := [(0, { CoreSt.reset with trapQueue := [.lane 0 0] })] }

/-- A report that waits since clock `n`. -/
def report0 (n : Nat) : Report := ⟨0, 0, 0, 0, 5, 0, 0, 1, 0x20000, n⟩

/-- A trapped thread whose twelve clocks have passed and one whose have not, a report that waits, and a handler thread whose origin waits for it, with and without PASS. -/
theorem test_witness_HandlersStartAndReturn : (trapped 12).nextHandler 0 = some (.trap (.lane 0 0)) ∧ (trapped 11).nextHandler 0 = none ∧
    (trapped 12).poolSlot 0 = some 0 ∧ (trapped 12).launch? young.lid = some placedLaunch ∧
    (fun s : State => s.nextHandler 0 = some (.report (report0 0)) ∧ s.poolSlot 0 = some 0 ∧ s.launch? 0 = some placedLaunch)
      { (lane []).updCore 0 fun c => { c with reports := [report0 0] } with clock := 12 } ∧
    (handling (.lane 0 0)).Executes { young with origin := some (.lane 0 0) } false 0 ∧
    (handling (.lane 0 0)).Flushes { young with origin := some (.lane 0 0) } ((handling (.lane 0 0)).flushOnce { young with origin := some (.lane 0 0) } 0 0) ∧
    ((((handling (.lane 0 0)).flushOnce { young with origin := some (.lane 0 0) } 0 0).thread? (.lane 0 0)).bind Thread.trapRec).map (fun r => (r.pass, r.held, r.pc)) = some (false, none, 0) ∧ Who.lane 0 0 ≠ .handler 0 0 :=
  ⟨by decide +kernel, by decide +kernel, by decide +kernel, by decide +kernel, by decide +kernel, by unfold State.Executes; decide +kernel,
    flushes_of (q := 0) (by decide +kernel) (by decide +kernel) (by decide +kernel), by decide +kernel, by decide⟩

/-- A window of one thread that still lets an instruction issue, and one that does not. -/
def latent0 (left : Nat) : Outstanding := { oid := 1, pc := 0, word := 0, left := left, issued := 0, due := 0, state := .latent, writes := [(.reg 5, 9)], later := [], snap := ⟨[], [], 0⟩ }

/-- A page table at DRAM address 0x2000 of die 0 for the page at VA 0x40000. -/
def tabled : State :=
  { (State.reset.updDie 0 fun d => { d with root := 0x2000 }) with
    mem := Sparse.wrList (Sparse.wrList (Sparse.wrList (Sparse.wrList [] 0x2000 (leBytes 16 (2 ^ 63 + 3 * 2 ^ 44 + 0x4000))) 0x4000 (leBytes 16 (2 ^ 63 + 3 * 2 ^ 44 + 0x6000)))
      0x6000 (leBytes 16 (2 ^ 63 + 3 * 2 ^ 44 + 0x8000))) 0x8040 (leBytes 16 (2 ^ 65 + 2 ^ 63 + 4 * 2 ^ 16)) }

/-- A result under way in each kind of window, a rate correction, a walk that finds a leaf; an open fault record and a number that names none, and written values of each refused kind. -/
theorem test_witness_ArrivalsAndResolutions : (machine (.lane 0 0) { young with wins := [latent0 0], status := .waiting .latency }).thread? (.lane 0 0) = some { young with wins := [latent0 0], status := .waiting .latency } ∧
    (latent0 0).left = 0 ∧ (latent0 1).left ≠ 0 ∧ (latent0 1).later = [] ∧ tabled.cached 0x40000 = none ∧ tabled.flaws = [] ∧
    (fun s : State => (s.thread? (.steward 0)).isSome = true ∧ (s.serving 0).cached 0x40000 = none) { tabled with threads := [(.steward 0, young)] } ∧
    Config.coresPerQuadrant / Config.coresPerQuadrant % 4 ≠ 0 / Config.coresPerQuadrant % 4 ∧ ((tabled.serving 0).leaf 0x40000).toOption = some (BitVec.ofNat 128 (2 ^ 65 + 2 ^ 63 + 4 * 2 ^ 16), 4) ∧
    (fun s : State => (s.faultNamed 0 0 7).map FaultRec.reqs = some [.thread (.lane 0 0) 1 0x40000] ∧ s.faultNamed 0 0 8 = none ∧
      (fun v : State => (v.thread? (.lane 0 0)).map (isEstateHandler (.lane 0 0)) = some false) (({ s with faults := [] } : State).writeHeld 0 0))
      { lane [] with faults := [⟨0, 0, 7, 0x40000, 4, 0x020B, 0, 0, 0, 0, 0, 4, false, [.thread (.lane 0 0) 1 0x40000]⟩] } ∧ (∀ e ∈ (lane []).parts, e.2.want = none) ∧
    bits (3 : BitVec 64) 1 0 = 3 ∧ bits (4 : BitVec 64) 31 2 ≠ 0 := by
  decide +kernel

/-- A stopped thread of group 0 whose access of its scratchpad has still to be performed. -/
def owing : Thread := { young with status := .waiting .stopped, last := true, held := [(0, ⟨none, 0, 2 ^ 60 + 8, 4, false, 0⟩)] }

/-- The first half of a group's end, and a look at what then holds it back: an owed access, a group of lower %grp, an open access to its scratchpad. -/
def endState (s : State) : State := (s.markEnds.updGroup 0 fun g => g.beginEnd s.clock).cancelAll 0

/-- The same after its array holds, collectives and estate are given away. -/
def conveyed (s : State) : State :=
  ((((endState s).discardArray 0 true).withdrawColls 0 0 (fun n => placedLaunch.instOf n 0) false).1.convey 0 false []).updGroup 0 fun g => { g with gone := true }

/-- A group with a thread, one with none that may end and one that ends already, one that is gone; one of which a stopped thread owes an access, one behind a group of lower %grp,
and one at whose scratchpad another member's access still waits. -/
theorem test_witness_GroupEnd : (pair (.steward 0) group0).stewardLive 0 = true ∧ (pair (.steward 0) group0).group? 0 = some group0 ∧ group0.ending = false ∧ group0.gone = false ∧
    ({ group0 with gone := true } : Group).gone = true ∧
    (fun s : State => s.group? 0 = some group0 ∧ s.launch? group0.lid = some placedLaunch ∧ s.stewardLive 0 = false ∧ s.lanesOf 0 = [] ∧ s.handlersOf 0 = [] ∧ s.owes 0 = false ∧
      s.holdsOpen 0 = false ∧ s.queryOpen group0 = false ∧ ((endState s).group? 0).map (fun x => (x.ending, (endState s).endsBefore 0 x)) = some (true, false) ∧
      (endState s).owes 0 = false ∧ ((endState s).launch? 0).isSome = true ∧
      (((conveyed s).askEnds s.clock).group? 0).map (fun y => (y.gone, ((conveyed s).askEnds s.clock).rankOpen 0 y)) = some (true, false) ∧
      (((conveyed s).askEnds s.clock).launch? 0).isSome = true) { steward [] with threads := [] } ∧
    (fun s : State => (endState s).owes 0 = true ∧ s.lanesOf 0 = []) { steward [] with threads := [(.lane 0 0, owing)], groups := [(0, { group0 with ending := true })] } ∧
    (fun s : State => ((endState s).group? 0).map (fun x => (endState s).endsBefore 0 x) = some true)
      { steward [] with threads := [], groups := [(0, { group0 with grp := 1 }), (1, { Group.start 0 0 0 1 0 0 1 with ending := true })] } ∧
    (fun s : State => (((conveyed s).askEnds s.clock).group? 0).map (fun y => ((conveyed s).askEnds s.clock).rankOpen 0 y) = some true ∧ s.rankOpen 0 { group0 with gone := true } = true)
      { steward [] with threads := [], waits := [⟨2 ^ 58, none, false, .steward 1, 0, true, 0, .ldwf none 0⟩] } := by
  and_intros <;> decide +kernel

/-- A group that is killed, with a thread that owes nothing; an open region, with an unwind begun and not; an error of each kind, of now and of before the last unwind, with an
access owed and none, and one whose window entry has aborted. -/
theorem test_witness_KillAndUnwind : (pair (.steward 0) group0).launch? group0.lid = some placedLaunch ∧ (pair (.steward 0) group0).belongs 0 (.lane 0 0) = true ∧ young.last = false ∧ young.held = [] ∧
    (pair (.steward 0) group0).thread? (.lane 0 0) = some young ∧
    (fun s : State => (s.group? 0).map (fun g => (g.regions, g.epoch, g.unwinding)) = some ([⟨0x80, 0, 64, false⟩], 0, none) ∧ s.isEstate (.steward 0) = false ∧
      ((s.stopForUnwind 0 0 0x060F 9).group? 0).isSome = true ∧ (s.stopForUnwind 0 0 0x060F 9).owes 0 = false ∧ (s.thread? (.steward 0)).isSome = true ∧ s.thread? (.lane 0 1) = none)
      (pair (.steward 0) { group0 with regions := [⟨0x80, 0, 64, false⟩] }) ∧
    (fun s : State => s.owes 0 = true ∧ (s.stopForUnwind 0 0 0x060F 9).owes 0 = true)
      { pair (.steward 0) { group0 with regions := [⟨0x80, 0, 64, false⟩], unwinding := some (0x060F, 9) } with threads := [(.lane 0 0, owing)] } ∧
    group0.regions = [] ∧ (1 : Nat) ≠ group0.epoch ∧ (0x060F : BitVec 32) ≠ 0x020D ∧
    (∃ o ∈ [{ latent0 0 with state := .aborted }], o.oid = 1 ∧ o.state = .aborted) ∧ (∀ o ∈ ([] : List Outstanding), o.oid = 1 → o.state ≠ .aborted) := by
  and_intros <;> decide +kernel

/-- A state of the tests with cores 0 and 1 present and with a partition that has cores 0 and 1, key slot 0 on the device and key slot 5 for pages of the host. -/
def housed (s : State) : State :=
  { s with parts := [(0, { Part.reset with cores := [0, 1], keysDev := [0], keysHost := [5], savePool := [(2 ^ 30, 2 ^ 24)] })], fleet := { Fleet.reset with ready := BitVec.ofNat 1024 (2 ^ 22 - 2 ^ 20) } }

/-- The state in which the group of a steward is written to its area. -/
def quiet (s : State) : State := (((housed s).stopForSave [(0, group0)]).flushCore 0 0).finishCopies 0

/-- A group that may be saved at once, one at its end, one that waits for a drain that holds a buffer, one for which a copy runs, and one for which the pool has no room;
a saved group with a place to return to. -/
theorem test_witness_SaveAndRestore : (housed (steward [])).group? 0 = some group0 ∧ group0.share = none ∧ group0.ending = false ∧ ({ group0 with ending := true } : Group).share = none ∧
    (housed (steward [])).saveSet 0 group0 = [(0, group0)] ∧ (((housed (steward [])).stopForSave [(0, group0)]).group? 0).map Group.saving = some true ∧
    group0.unwinding = none ∧ ({ group0 with unwinding := some (0x060F, 0) } : Group).unwinding.isSome = true ∧
    (((housed (steward [])).stopForSave [(0, group0)]).flushCore 0 0).saveWaits 0 group0 = false ∧ (quiet (steward [])).group? 0 = some { group0 with saving := true } ∧
    (quiet (steward [])).belongs 0 (.steward 0) = true ∧ (quiet (steward [])).copiesRun 0 = false ∧
    (quiet (steward [])).imageWaits [(0, group0)] = false ∧ (quiet (steward [])).flaws = [] ∧
    ((quiet (steward [])).saveAreas [(0, group0)] (quiet (steward [])).areasTaken).map (fun l => l.map fun e => (e.1, e.2.1)) = some [(0, 2 ^ 30)] ∧
    ({ quiet (steward []) with parts := [(0, Part.reset)] } : State).saveAreas [(0, group0)] (quiet (steward [])).areasTaken = none ∧
    ({ quiet (steward []) with cmds := [(0, { newCmd .cp 0 group0 [0x200, 0x100, 64, 0x300] 0 with progress := 1 })] } : State).copiesRun 0 = true ∧
    (fun s : State => ((s.stopForSave [(0, group0)]).flushCore 0 0).saveWaits 0 group0 = true ∧ s.group? 0 = some group0)
      { working (.drain 0 3 0 false 0) true (some run9) with groups := [(0, group0)] } ∧
    (fun s : State => (KV.at? s.saved 0).map (fun y => y.group.share) = some none ∧
        (KV.at? s.saved 0).map (fun y => (s.returnWaits [y], y.group.spBytes % 4)) = some (false, 0) ∧ s.flaws = [] ∧
        (KV.at? s.saved 0).bind (fun y => (s.returnSpots 0 y (s.keptFrom 0)).map fun l => l.map fun e => (e.1, e.2.2.1.core, e.2.2.1.base)) = some [(0, 0, 0)])
      (after (housed (steward [])) (.groupSave 0)) := by
  and_intros <;> decide +kernel

/-- A launch of PRIO `p` that waits for its first group, with three lane threads, numbered 1, beside the launch 0 that is placed. -/
def queued (p : Nat) : State :=
  { housed State.reset with ids := 7, launches := [(0, placedLaunch), (1, { placedLaunch with prio := p, placed := 0, spUnits := 2, levels := [⟨false, 1, 2, 1⟩], accepted := 1 })] }

theorem test_witness_PlacementAndPreemption : ((queued 0).die 0).idle = false ∧ ({ Die.reset with scheduler := none } : Die).idle = true ∧
    (queued 0).launchOrder = [.launch 1] ∧ ((queued 0).launch? 1).map (fun l => (l.checked, l.shareSize, l.winBlock)) = some (true, none, 0) ∧
    (((queued 0).launch? 1).bind fun l => ((queued 0).placeNext 1 l []).map fun r => (r.2, (r.1.launch? 1).isSome)) = some ([0], true) ∧ (queued 0).dieOf 0 = 0 ∧
    (queued 0).thread? (.steward (queued 0).ids) = none ∧ (queued 0).barred 0 = false ∧ ((queued 0).launch? 1).map (queued 0).checksOut = some false ∧
    (fun s : State => (s.launch? 1).map (fun l => (s.suffices 1 l [0], s.suffices 1 l [], (s.groupsOn 0).map fun e => s.prioOf e.2)) = some (true, false, [0]))
      { queued 3 with clock := 65536, groups := [(0, { group0 with spUnits := 240 }), (1, { Group.start 0 1 0 1 0 0 1 with spUnits := 240 })], launches := [(0, placedLaunch), (1, { placedLaunch with prio := 3, placed := 0, levels := [⟨false, 1, 2, 1⟩], spUnits := 40 })] } ∧
    (fun s : State => (s.launch? 1).map (fun l => (l.timedOut s.clock, s.enough 1 l (s.victims (s.partCores l.part)))) = some (true, some [0]) ∧ (s.die 0).idle = false)
      { queued 3 with clock := 65536, groups := [(0, { group0 with spUnits := 240 }), (1, { Group.start 0 1 0 1 0 0 1 with spUnits := 240 })], launches := [(0, placedLaunch), (1, { placedLaunch with prio := 3, placed := 0, levels := [⟨false, 1, 2, 1⟩], spUnits := 40 })] } := by
  decide +kernel

/-- A graph of three nodes, the last one after the first. -/
def graph0 : Graph :=
  { part := 0, gdone := 0, nodes := [⟨0x10000, 0x20000, []⟩, ⟨0x10000, 0x20000, []⟩, ⟨0x10000, 0x20000, [0]⟩], patches := [], running := false, started := [], statuses := [] }

/-- A die with that graph, running or with a kick of it pending. -/
def graphed (g : Graph) (pend : KV Nat (BitVec 64)) : State :=
  (housed { machine (.steward 0) young with mem := [(0x10022, 2)] }).updDie 0 fun d => { d with graphs := [(3, g)], pending := pend }

theorem test_witness_GraphsAndCompletion : ((graphed graph0 [(3, 0)]).die 0).idle = false ∧ (graphed graph0 [(3, 0)]).startable 0 = [(3, 0)] ∧ (graphed graph0 [(3, 0)]).graph? 0 3 = some graph0 ∧
    graph0.nodes[0]?.map GraphNode.preds = some [] ∧ ({ graph0 with running := true } : Graph).mayStart 2 = false ∧ ({ graph0 with running := true } : Graph).mayStart 0 = true ∧
    ({ graph0 with running := true, statuses := [(0, 0x80000030)] } : Graph).mayStart 2 = true ∧ 0x80000000 ≤ ((KV.at? ([(0, 0x80000030)] : KV Nat (BitVec 32)) 0).getD 0).toNat ∧
    ({ graph0 with running := true, statuses := [(0, 0)] } : Graph).mayStart 2 = true ∧ ((KV.at? ([(0, 0)] : KV Nat (BitVec 32)) 0).getD 0).toNat < 0x80000000 ∧
    (fun s : State => ((((s.updGraph 0 3 fun g => { g with started := g.started ++ [0] }).journal 0 2 0 3 0x10000).dwordsAt 0 0x10000 32).toOption.map fun r => dwordOf r 4) = some 0x20000)
      (graphed { graph0 with running := true } []) ∧
    (graphed graph0 []).readOut 0 0x10000 256 = false ∧
    ({ graphed graph0 [] with fleet := { (graphed graph0 []).fleet with subBusy := [((0, channelOf 0x10000, subBusOf 0x10000), (5, 9))] } } : State).readOut 0 0x10000 256 = true ∧
    (match (graphed graph0 []).dwordsAt 0 0x50000 32 with | .error _ => true | .ok _ => false) = true ∧
    placedLaunch.complete = false ∧ ({ placedLaunch with ended := 1 } : Launch).complete = true ∧ (∀ d g n, placedLaunch.source ≠ .node d g n) ∧
    ({ placedLaunch with source := .node 0 3 0 } : Launch).source = .node 0 3 0 := by
  and_intros <;> first | decide +kernel | exact fun _ _ _ => by simp [placedLaunch]

/-- A time query with windows of 100 and the records that wait in it. -/
def tumbling (l : List Rec) (w : KV Nat Win) : Query := { query0 w with ingest := l }

theorem test_witness_RecordsPlaced : KV.at? (windowed (tumbling [rec0 5] [(0, { win0 with last := 100 })])).queries 0 = some (tumbling [rec0 5] [(0, { win0 with last := 100 })]) ∧
    (windowed (tumbling [rec0 5] [])).mayPlace (tumbling [rec0 5] []) = true ∧
    (windowed (tumbling [rec0 5] [])).mayPlace { tumbling [rec0 5] [] with merge := some ⟨0, 1, rec0 5, [], []⟩ } = false ∧ (rec0 5).len ≠ 0 ∧ ({ rec0 5 with len := 0 } : Rec).len = 0 ∧
    (fun s : State => ({ block0 with stale := 9 } : WinBlock).stale < s.time.toNat - (rec0 5).ts.toNat ∧ s.time.toNat - (rec0 95).ts.toNat ≤ ({ block0 with stale := 9 } : WinBlock).stale)
      { windowed (tumbling [rec0 5] []) with time := 100 } ∧ block0.kind ≠ 0 ∧
    (fun x : Query => (KV.at? (((windowed x).updQuery 0 fun x => { x with tsMax := x.tsMax }).advanceMark 0).queries 0).map (fun z => (decide ((5 : BitVec 64) < z.w), decide (z.w ≤ 60))) = some (true, true))
      { tumbling [rec0 5] [] with tsMax := 50, block := { block0 with late := 10 } } ∧
    (∀ e ∈ (query0 [(0, { win0 with last := 99 })]).wins, (query0 [(0, { win0 with last := 99 })]).block.triggered e.2 ((query0 [(0, { win0 with last := 99 })]).watermark 0) = false) ∧
    block0.kind = 1 ∧ block0.panes = false ∧ block0.batch = false ∧ (tumbling [rec0 5] [(0, win0)]).containing (rec0 5) = ([0], none) ∧
    (tumbling [rec0 5] [(0, win0)]).winNamed (rec0 5).key false 0 = some (0, win0) ∧ win0.closed = false ∧ win0.receiving = false := by
  decide +kernel

/-- The thread of window 0 at its `wrecv`. -/
def receiver : Thread := { winThread with wins := [{ latent0 0 with word := 0x4800000000000000, state := .redo }], status := .waiting .windows }

/-- A query whose windows fold after 10 and that has `cap` fold entries, with a window at its `wrecv`. -/
def resting (cap : Nat) : Query := { query0 [(0, { win0 with receiving := true })] with block := { block0 with idle := 10, foldCap := cap } }

/-- That window's thread at time 50, in a group with two reserved slots. -/
def restful (x : Query) : State :=
  { windowed x with threads := [(.lane 0 0, receiver)], time := 50, groups := [(0, { group0 with query := some 0, reserved := [(4, 0), (6, 2)] })] }

/-- What a folded window keeps. -/
def folded : FoldSt := { pc := 0x40, slot := 0, wait := latent0 0, preds := 1, srCount := 0, state := [1, 2] }

/-- A foldable thread with a fold entry and with none, one that is not foldable; a folded window and a free slot; a timer off, to come and passed; an incomplete batch. -/
theorem test_witness_WindowsBetweenRecords : KV.at? (restful (resting 2)).queries 0 = some (resting 2) ∧ (restful (resting 2)).thread? (.lane 0 0) = some receiver ∧
    receiver.receivingEntry.isSome = true ∧ (restful (resting 2)).foldable (resting 2) 0 { win0 with receiving := true } = true ∧
    (restful (query0 [(0, win0)])).foldable (query0 [(0, win0)]) 0 win0 = false ∧ (resting 2).freeFold = some 0 ∧ (resting 0).freeFold = none ∧ quarterOf (.lane 0 0) receiver = some 0 ∧
    ((restful (resting 2)).flush ((restful (resting 2)).coreOf (.lane 0 0) receiver) 0 (.lane 0 0)).drainHeld 0 0 = false ∧ ((restful (resting 2)).flush ((restful (resting 2)).coreOf (.lane 0 0) receiver) 0 (.lane 0 0)).drainFailure 0 0 (.lane 0 0) = none ∧
    (KV.at? (((restful (resting 2)).flush ((restful (resting 2)).coreOf (.lane 0 0) receiver) 0 (.lane 0 0)).queries) 0).map Query.wins = some (resting 2).wins ∧
    ((restful (query0 [(0, { win0 with fold := some folded })])).birthSlot 0).map (fun e => (e.1, e.2.2)) = some (0, 1, 6, 2) ∧ win0.timer = 0 ∧
    (50 : BitVec 64) < ({ win0 with timer := 51 } : Win).timer ∧ ({ win0 with timer := 50 } : Win).timer ≤ (50 : BitVec 64) ∧
    (query0 [(0, { win0 with last := 10 })]).block.triggered { win0 with last := 10 } ((query0 [(0, { win0 with last := 10 })]).watermark 0) = false ∧
    ({ query0 [(0, { win0 with start := 0, last := 10 })] with tsMax := 500 } : Query).block.triggered { win0 with last := 10 }
      (({ query0 [(0, { win0 with last := 10 })] with tsMax := 500 } : Query).watermark 0) = true ∧
    ({ query0 [(0, win0)] with batch := [(rec0 5, [0])] } : Query).batch = [(rec0 5, [0])] := by
  decide +kernel

/-- Two windows of a query of sessions whose merge is due; the older one folded or not. -/
def merging (f : Option FoldSt) (o : Outstanding) : State :=
  { windowed { query0 [(0, { win0 with receiving := true, fold := f }), (1, { win0 with num := 1, thread := some (.lane 0 1), receiving := true })] with merge := some ⟨0, 1, rec0 5, [], []⟩ } with
    threads := [(.lane 0 0, { receiver with wins := [o] }), (.lane 0 1, { receiver with tid := 1, win := some (0, 1) })] }

/-- The entry of the receiving thread. -/
def waitRec : Outstanding := { latent0 0 with word := 0x4800000000000000, state := .redo }

/-- Windows 0 to n − 1 of a query. -/
def paned (n : Nat) : KV Nat Win := (List.range n).map fun k => (k, { win0 with num := k })

/-- A query of `n` windows that all cover its pane record. -/
def paneQuery (n : Nat) : Query :=
  { query0 (paned n) with tsMax := 2 ^ 40, block := { block0 with panes := true, length := 6600, step := 100 }, pane := [(9, { rec0 5 with key := 0, seq := 64 }, 0)] }

/-- A scan of two records at the ordinary page; held, ended, and one at a page that is not mapped. -/
def scan0 : ScanSt := { base := 0x10000, count := 2, tsOfs := 255, len := 16, stride := 16, seqBase := 0, next := 0, held := false }

/-- A frame's record of `n` bytes. -/
def frame0 (n : Nat) : FrameRec := ⟨1, 2, n, List.replicate 64 3⟩

/-- A merge with both threads ready, one of them not, and the older one folded; a pane record that 64 windows cover and one that 65 do; a scan before each record, at its end,
held and at an absent page; a bound and an unbound stream, a record of 64 bytes and a longer one; an ended stream with nothing and with something under way. -/
theorem test_witness_MergesStreamsAndScans : ((merging none waitRec).mergeReady { win0 with receiving := true } = true ∧ (merging none waitRec).mergeReady win0 = false ∧
      (merging (some folded) waitRec).mergeReady { win0 with receiving := true, fold := some folded } = true ∧
      (merging none waitRec).thread? (.lane 0 0) = some { receiver with wins := [waitRec] } ∧ (merging none waitRec).group? 0 = some { group0 with query := some 0 } ∧
      [waitRec].find? Outstanding.receives = some waitRec ∧ (∀ e ∈ (merging none waitRec).lanesOf 0, e.2.mergeDepth = none)) ∧
    (List.map (fun n => (((paneQuery n).pane.find? fun e => !(paneQuery n).paneWaits e.2.1 ((paneQuery n).watermark 0)).map (·.1),
      (sortBy (fun (e : Nat × Win) => e.2.num) ((paneQuery n).wins.filter fun e =>
        !e.2.pane && decide (e.2.key = 0) && !e.2.returned && decide (0 ≤ e.2.num) && (paneQuery n).block.covers e.2.num 64)).length)) [64, 65]) = [(some 9, 64), (some 9, 65)] ∧
    (scan0.held = false ∧ scan0.next < scan0.count ∧ ({ scan0 with held := true } : ScanSt).held = true ∧ ({ scan0 with next := 2 } : ScanSt).count ≤ ({ scan0 with next := 2 } : ScanSt).next ∧
      (windowed (query0 [])).readOut 0 (scan0.base + BitVec.ofNat 64 (scan0.next * scan0.stride)) scan0.len = false ∧
      ({ windowed (query0 []) with fleet := { Fleet.reset with subBusy := [((0, channelOf 0x10000, subBusOf 0x10000), (5, 9))] } } : State).readOut 0 0x10000 16 = true ∧
      ((windowed (query0 [])).readAt 0 (scan0.base + BitVec.ofNat 64 (scan0.next * scan0.stride)) scan0.len).toOption.isSome = true ∧
      (match (windowed (query0 [])).readAt 0 0x50000 16 with | .error (.fault _ _ _) => true | _ => false) = true) ∧
    isRecordFrame ⟨5, 0x4852, 1, 0, 0x100, 8, 9, 0, 0, 0, 0⟩ = true ∧ isRecordFrame ⟨5, 0x4852, 1, 2, 0x100, 8, 9, 0, 0, 0, 0⟩ = false ∧ (query0 []).backlog = [] ∧
    (fun s : State => (s.queries.find? (fun e => decide (e.2.die = 0) && !e.2.block.scan && decide (e.2.block.stream = 7))).map (·.1) = some 0 ∧
        s.queries.find? (fun e => decide (e.2.die = 0) && !e.2.block.scan && decide (e.2.block.stream = 8)) = none) (windowed (query0 [])) ∧
    (query0 []).streamOpen = true ∧ (query0 []).ingest.length < 4096 ∧ 4096 ≤ (List.replicate 4096 (rec0 5)).length ∧ (frame0 64).len ≤ 64 ∧ 64 < (frame0 65).len ∧
    (query0 []).ending = false ∧ ({ query0 [] with ending := true } : Query).ingest = [] ∧ ({ query0 [] with ending := true } : Query).merge = none := by
  decide +kernel

/-- Core 0's quarter 1 with a congestion level, under the lull of the reset and with two groups of a memory-bound launch. -/
def congested (n : BitVec 16) (l : BitVec 64) : State :=
  ({ lane [] with launches := [(0, { placedLaunch with membound := true })], groups := [(0, group0), (1, { Group.start 0 1 0 0 0 0 1 with place := 1, spBase := 4096 })] }.updCore 0
    fun c => { c with congestion := [(1, n)] }).updDie 0 fun d => { d with lull := l }

/-- A request of partition 0 from router 3 to router 5, of no data flit. -/
def packet0 : Packet := ⟨0, .request, 3, 5, 0⟩

/-- That partition's bucket at router 3. -/
def bucketed (b : Bucket) : State := { lane [] with net := { (lane []).net with buckets := [((3, 0), b)] } }

/-- Congestion at the engage and the release level and on their other sides; a rotation with a later group and with none; tokens enough and too few; a hamlet with no group. -/
theorem test_witness_LullAndNetwork : bits ((congested 4 0x0004000100000001).die ((congested 4 0x0004000100000001).dieOf 0)).lull 2 0 ≠ 0 ∧
    bits (0x0004000100000001 : BitVec 64) 63 48 ≤ (congested 4 0x0004000100000001).congestionAt 0 1 ∧ 1 ∉ ((congested 4 0x0004000100000001).core 0).lulled ∧
    (congested 3 0x0004000100000001).congestionAt 0 1 < bits (0x0004000100000001 : BitVec 64) 63 48 ∧ (congested 1 0x0004000100000001).congestionAt 0 1 ≤ bits (0x0004000100000001 : BitVec 64) 47 32 ∧
    bits (0x0004000100000001 : BitVec 64) 47 32 < (congested 2 0x0004000100000001).congestionAt 0 1 ∧ bits (0x0004000100000000 : BitVec 64) 2 0 = 0 ∧
    ((congested 4 0x0004000100000001).boundPlaces 0).find? (fun p => decide (((congested 4 0x0004000100000001).allowedPlaces 0).getLastD 0 < p)) = some 1 ∧
    ((congested 4 0x0004000100000002).boundPlaces 0).find? (fun p => decide (((congested 4 0x0004000100000002).allowedPlaces 0).getLastD 0 < p)) = none ∧
    (bucketed ⟨8, 1, 2⟩).net.bucket packet0.src packet0.net = ⟨8, 1, 2⟩ ∧ (bucketed ⟨8, 1, 2⟩).net.waiting = [] ∧ packet0.data + 2 ≤ (⟨8, 1, 2⟩ : Bucket).tokens ∧ packet0.net < 16 ∧ ({ packet0 with cls := .reply } : Packet).cls ≠ .request ∧
    (⟨8, 1, 1⟩ : Bucket).tokens < packet0.data + 2 ∧ (⟨8, 0xFFFF, 0⟩ : Bucket).rate = 0xFFFF ∧ ((bucketed ⟨8, 1, 2⟩).route 3 5).length ≠ 0 ∧ 2 ≤ ((bucketed ⟨8, 1, 2⟩).route 3 5).length ∧
    ∀ e ∈ (lane []).groups, (lane []).routerOf e.2.core ≠ 7 := by
  decide +kernel

/-- A request of a master to partition 0 for a procedure. -/
def msg (m : BitVec 64) (proc : BitVec 16) : MsgHdr := ⟨m, 0x4852, 1, 0, proc, 8, 9, 0, 0, 0, 0⟩

/-- The same to the package. -/
def pkgMsg (m : BitVec 64) (proc : BitVec 16) : MsgHdr := { msg m proc with part := 0xFF }

/-- The ordinary machine with its dies, DRAM channels, service core 0, root monitor cores and scheduler cores ready, and partition 0 owned by master 5 until time 100; a
second partition without an owner. -/
def owned (s : State) : State :=
  { housed s with
    parts := [(0, { Part.reset with owner := some 5, leaseEnd := 100, leaseMs := 10, cores := [0, 1], keysDev := [0], keysHost := [5], notifyVa := 0x30000 }), (1, Part.reset)]
    fleet := { Fleet.reset with
      ready := BitVec.ofNat 1024 (15 + 3 * 2 ^ 20 + (2 ^ 128 - 1) * 2 ^ 468 + 2 ^ 622 + 1023 * 2 ^ 686), owner := some 5 } }

/-- The same with one part out of service. -/
def without (bit : Nat) (s : State) : State :=
  { owned s with fleet := { (owned s).fleet with ready := (owned s).fleet.ready &&& ~~~((1 : BitVec 1024) <<< bit) } }

/-- A procedure's request is served. -/
abbrev served (s : State) (h : MsgHdr) (proc : Nat) : Prop :=
  headerOk h proc = true ∧ s.partNamed h = true ∧ (s.renew h).serverReady h = true ∧ s.callDue h = none

theorem served_of {s : State} {h : MsgHdr} {proc : Nat} (a : served s h proc) : ∃ v, s.Served h proc v := ⟨s.renew h, a.1, a.2.1, rfl, a.2.2.1, a.2.2.2⟩

/-- And it comes from the owner of a partition. -/
theorem asks_of {s : State} {h : MsgHdr} {proc : Nat} (a : served s h proc) (p : isPackage h = false) (o : s.isOwner h = true) : ∃ v, s.Asks h proc v :=
  ⟨s.renew h, ⟨a.1, a.2.1, rfl, a.2.2.1, a.2.2.2⟩, p, o⟩

/-- The owner of partition 0 asks for each of the procedures of a partition. -/
theorem test_witness_Requests : ∀ n ∈ [1, 2, 3, 4, 5, 6, 7, 8, 9, 10, 11, 12, 13, 15],
    ∃ v, (owned (lane [])).Asks (msg 5 (BitVec.ofNat 16 n)) n v := by
  intro n hn
  exact asks_of (by revert n; decide +kernel) rfl (by revert n; decide +kernel)

/-- A request behind one of its session that waits for a sub-bus, a reply, a malformed header, a PART that names nothing, a package address, the owner and another master, a server out of service; a free partition, a lease that runs and
one that has ended, with a lower claim beside it. -/
theorem test_witness_MastersAndOwners : ({ owned (lane []) with sched := [(7, .event (.kickProc (msg 5 5) 0 0 0))] } : State).callDue (msg 5 1) = some 7 ∧
    ({ owned (lane []) with sched := [(7, .event (.kickProc (msg 5 5) 0 0 0))] } : State).callDue (msg 6 1) = none ∧ ({ msg 5 1 with kind := 1 } : MsgHdr).kind = 1 ∧ headerOk { msg 5 1 with len := 8449 } 1 = false ∧ (msg 5 1).kind ≠ 1 ∧
    headerOk { msg 5 1 with part := 9 } 1 = true ∧ (owned (lane [])).partNamed { msg 5 1 with part := 9 } = false ∧
    (owned (lane [])).partNamed (msg 5 14) = true ∧ isPackage (pkgMsg 5 4) = true ∧ isPackage (msg 5 14) = false ∧ (owned (lane [])).isOwner (msg 5 1) = true ∧ (owned (lane [])).isOwner (msg 6 1) = false ∧
    ((without 622 (lane [])).renew (msg 5 1)).serverReady (msg 5 1) = false ∧ (msg 5 0x99).proc ≠ 0x100 ∧
    ((owned (lane [])).renew (msg 6 1)).ownerOf (msg 6 1) = (some 5, 100, 10) ∧
    (owned (lane [])).time < 100 ∧ ((100 : BitVec 64) ≤ ({ owned (lane []) with time := 100 } : State).time) ∧ (owned (lane [])).ownerOf { msg 6 1 with part := 1 } = (none, 0, 0) ∧
    ((owned (lane [])).renew (msg 6 1)).lowerOwn (msg 6 1) = false ∧ (1 : BitVec 32).toNat < 2 ∧ (60000 : BitVec 32).toNat ≤ 60000 ∧ (0 : BitVec 32).toNat < 1 ∧ 60000 < (60001 : BitVec 32).toNat := by
  and_intros <;> decide +kernel

/-- A table of four levels at die 0 with a page of partition 0 at VA 0x40000, for the device or for the host. -/
def pages (host : Bool) : State :=
  { owned ((lane []).updDie 0 fun d => { d with root := 0x2000 }) with
    mem := tabled.mem.filter (fun e => decide (e.1 < 0x8040)) ++ Sparse.wrList [] 0x8040 (leBytes 16 (withPerm (newPte 7 0 0 (if host then 5 else 0)) 0 2 ||| if host then 1 <<< 62 else 0).toNat) }

theorem test_witness_MappingAndMigration : (owned (lane [])).ownVa 0x4000000000000 = false ∧ (owned (lane [])).ownVa 0x40000 = true ∧ (0x40001 : BitVec 64).toNat % pageBytes 0 ≠ 0 ∧
    (0x40000 : BitVec 64).toNat % pageBytes 0 = 0 ∧ (2 : BitVec 28).toNat * 65536 % pageBytes 0 = 0 ∧ (2 : BitVec 28).toNat * 65536 + pageBytes 0 ≤ Config.dramBytes ∧ (owned (lane [])).dieReady (homeDie 0x40000 % 4) = true ∧
    (housed (lane [])).dieReady 0 = false ∧ 5 ≤ (5 : BitVec 3).toNat ∧ (0 : BitVec 13).toNat ∈ (owned (lane [])).keysOf 0 ∧ (1 : BitVec 13).toNat ∉ (owned (lane [])).keysOf 0 ∧
    ((List.map (fun b => ((pages b).leafAt 0x40000).map fun e => (e.1, pteHost e.2, ptePerm e.2 0, ptePerm e.2 1)) [false, true]) = [some (0x8040, false, 2, 0), some (0x8040, true, 2, 0)]) ∧
    (match (pages false).entryAt 0 0x50000 4 0x2000 walkLevels with | .entry a _ => decide (a = 0x8050) && !pteV ((pages false).pteAt 0 a) | _ => false) = true ∧
    (pages false).placeReady (dramBase (homeDie 0x40000) + 0x8040) = true ∧ (without 468 (lane [])).placeReady 0 = false ∧
    (pages false).pageReady (dramBase 0 + 7 * 65536) 0 = true ∧ (KV.at? (pages false).parts 0).map (fun p => (p.keysDev, p.keysHost)) = some ([0], [5]) ∧
    (pages false).tableOut 0x40000 = false ∧ (pages false).pageOut (dramBase 0 + 7 * 65536) 0 = false ∧
    (fun s : State => s.tableOut 0x40000 = true ∧ s.pageOut (dramBase 0 + 7 * 65536) 0 = true)
      { pages false with fleet := { (pages false).fleet with subBusy := [((0, channelOf 0x2000, subBusOf 0x2000), (5, 9)), ((0, channelOf (7 * 65536), 0), (5, 9))] } } ∧
    (pages false).StoresOk ∧ (0 : Nat) < 8192 ∧ 32 * 3 ≤ 127 ∧ 127 < 32 * (3 + 1) := by
  unfold State.StoresOk
  and_intros <;> decide +kernel

/-- A thread that executes with operands for the floating-point, conversion, mask and hash statements, and the slots of a paired word with a true and a false guard. -/
theorem test_witness_FloatArithmeticConversionsPairsAndHash : (lane [(6, 0x3F800000)]).Executes { young with regs := [(6, 0x3F800000)] } false 0 ∧ modType 0x16C0 = 11 ∧ modRm 0x16C0 = 3 ∧
    (lane []).thread? (lane []).cur = some young ∧ young.predAt (0 : BitVec 3).toNat = true ∧ young.predAt (7 : BitVec 3).toNat = false ∧ (lane []).launch? young.lid = some placedLaunch ∧
    (0x00 : BitVec 7).toNat ≤ 0x23 ∧ (0x20 : Nat) ≤ (0x23 : BitVec 7).toNat := by
  unfold State.Executes; decide +kernel

/-- The owned machine with an image of a graph of one node at VA 0x10000. -/
def imaged : State :=
  { owned (lane []) with mem := [(0x10002, 1), (0x10005, 1), (0x10006, 0x52), (0x10007, 0x47), (0x1000A, 2), (0x10010, 0x40), (0x10018, 0x80), (0x10020, 0x60), (0x10041, 1), (0x10042, 1)] }

/-- Bytes of one page, none and too many; a place reached and one that is not, and one whose channel is out of service; notify word 255; a value at the word's and above it;
records of a log at both ends of the range. -/
theorem test_witness_MasterAccess : (([1] : List (BitVec 8)).length ≤ 8192 ∧ 8192 < (List.replicate 8193 (0 : BitVec 8)).length) ∧ (owned (lane [])).ownVa 0x10000 = true ∧
    (fun v : State => (v.places 0 Want.wr 0x10000 2).map (fun l => l.all fun p => v.placeReady p.key) = some true ∧ v.places 0 Want.wr 0x30000 2 = none ∧
      (v.places 0 Want.rd 0x10000 3).map (fun l => l.all fun p => v.placeReady p.key) = some true ∧ v.places 0 Want.rd 0x90000 1 = none ∧ v.flaws = [] ∧
      v.notifyLoc 0 255 = some ⟨0x303FC, some 0⟩ ∧ v.placeReady 0x303FC = true ∧ (∀ w ∈ v.waits, w.key ≠ 0x303FC / 4) ∧ v.rdWord ⟨0x303FC, some 0⟩ = 0 ∧ v.logReady (msg 5 13) = true)
      ((owned (lane [])).renew (msg 5 10)) ∧
    (fun v : State => (v.places 0 Want.wr 0x10000 2).map (fun l => l.any fun p => !v.placeReady p.key) = some true ∧ v.placeReady 0x303FC = false) ((without 0 (lane [])).renew (msg 5 10)) ∧
    (fun v : State => v.logReady (msg 5 13) = false) ({ without 0 (lane []) with parts := [(0, { Part.reset with logVa := 0x10000, logN := 64 })] } : State) ∧
    (owned (lane [])).StoresOk ∧ 128 < 129 := by
  unfold State.StoresOk; decide +kernel

/-- The header of an image of a target: version 1, a length, a digest, a signature and the reserved zeros; then a body. -/
def image (target len : Nat) (digest sig body : List (BitVec 8)) : SignedImage :=
  { bytes := (leBytes 8 (target + 256 * (0x494D4731 * 2 ^ 24)) ++ leBytes 8 1 ++ leBytes 8 len) ++ (digest ++ (sig ++ (List.replicate 88 0 ++ body))) }

/-- The bytes of a configuration record that its signature covers. -/
def recordHead (seq : Nat) (opkey : List (BitVec 8)) : List (BitVec 8) :=
  leBytes 8 0x4346473100000001 ++ leBytes 8 seq ++ opkey ++ leBytes 8 0 ++ leBytes 8 0xFFFF0E10 ++ leBytes 8 0x0400010000000001 ++ leBytes 168 0

/-- A configuration record of a sequence number, with an OPKEY and a signature. -/
def record (seq : Nat) (opkey sig : List (BitVec 8)) : ConfigRec := { bytes := recordHead seq opkey ++ (sig ++ List.replicate 160 0) }

/-- The zeros of 96 bytes, which is no signature. -/
def zeros96 : List (BitVec 8) := List.replicate 96 0

/-- Bytes after a list of a known length. -/
theorem drop_past {a b : List (BitVec 8)} {n k : Nat} (h : a.length = n) : (a ++ b).drop (n + k) = b.drop k := by
  subst h; simp [List.drop_append]

/-- An image without a body whose header is right: it is refused for its signature, or passes where the signature is good. What signature that is rests with the Tolrix key,
which Config leaves open. -/
theorem test_witness_Images (sig : List (BitVec 8)) (n : sig.length = 96) : let i := image 2 0 (digestBytes (sha384 [])) sig []
    i.target = 2 ∧ i.fieldsOk = true ∧ i.magicOk = true ∧ i.digestOk = true ∧ (i.sigOk = true → imageRefused (record 0 (zeros96.take 48) zeros96) i = none) ∧
      (i.sigOk = false → imageRefused (record 0 (zeros96.take 48) zeros96) i = some 1) := by
  have d : (digestBytes (sha384 [])).length = 48 := by decide +kernel
  have hl : (leBytes 8 (2 + 256 * (0x494D4731 * 2 ^ 24)) ++ leBytes 8 1 ++ leBytes 8 0).length = 24 := by decide
  have body : (image 2 0 (digestBytes (sha384 [])) sig []).body = [] := by
    unfold SignedImage.body image imageHeader
    rw [show 0x100 = 24 + (48 + (96 + 88)) by rfl, drop_past hl, drop_past d, drop_past n]; decide
  have f : (image 2 0 (digestBytes (sha384 [])) sig []).fieldsOk = true := by
    unfold SignedImage.fieldsOk
    rw [body]
    have z : zeroAt (image 2 0 (digestBytes (sha384 [])) sig []).bytes 0xA8 0x58 = true := by
      unfold zeroAt image
      rw [show 0xA8 = 24 + (48 + (96 + 0)) by rfl, drop_past hl, drop_past d, drop_past n]; decide
    rw [z]; rfl
  have m : (image 2 0 (digestBytes (sha384 [])) sig []).magicOk = true := rfl
  have g : (image 2 0 (digestBytes (sha384 [])) sig []).digestOk = true := by
    unfold SignedImage.digestOk SignedImage.digest
    rw [body]
    have : ((image 2 0 (digestBytes (sha384 [])) sig []).bytes.drop 0x18).take 48 = digestBytes (sha384 []) := by
      unfold image
      rw [show 0x18 = 24 + 0 by rfl, drop_past hl, List.drop_zero, List.take_left' d]
    rw [this]; exact decide_eq_true rfl
  have t : (image 2 0 (digestBytes (sha384 [])) sig []).target = 2 := by rfl
  have v : ((image 2 0 (digestBytes (sha384 [])) sig []).iver < (record 0 (zeros96.take 48) zeros96).minver 2) = False := by
    have : (record 0 (zeros96.take 48) zeros96).minver 2 = 0 := by decide +kernel
    rw [this]; simp
  refine ⟨t, f, m, g, fun s => ?_, fun s => ?_⟩ <;> simp [imageRefused, m, g, s, t, v]

/-- A record that keeps to its table follows the active one where it is signed under the key that the active one names, which Config leaves open. -/
theorem test_witness_Records (sig : List (BitVec 8)) (n : sig.length = 96) : let r := record 1 (zeros96.take 48) sig
    r.formed = true ∧ (r.signedAfter (record 0 (zeros96.take 48) zeros96) = true → recFollows r (record 0 (zeros96.take 48) zeros96) = true) ∧
      recFollows { bytes := [] } (record 0 (zeros96.take 48) zeros96) = false := by
  have h : (recordHead 1 (zeros96.take 48)).length = 256 := by decide +kernel
  have e (ofs k : Nat) (le : ofs + k ≤ 256) : ((record 1 (zeros96.take 48) sig).bytes.drop ofs).take k = ((recordHead 1 (zeros96.take 48)).drop ofs).take k := by
    unfold record
    rw [List.drop_append_of_le_length (by omega), List.take_append_of_le_length (by simp only [List.length_drop]; omega)]
  have l : (record 1 (zeros96.take 48) sig).bytes.length = 512 := by
    unfold record; simp only [List.length_append, h, n, List.length_replicate]
  have z : zeroAt (record 1 (zeros96.take 48) sig).bytes 0x160 0xA0 = true := by
    unfold zeroAt record
    rw [show 0x160 = 256 + (96 + 0) by rfl, drop_past h, drop_past n]; decide +kernel
  have f : (record 1 (zeros96.take 48) sig).formed = true := by
    unfold ConfigRec.formed ConfigRec.corethr ConfigRec.pcap ConfigRec.lull
    rw [l, z]
    simp only [fieldAt, zeroAt, e 0 8 (by decide), e 0x40 8 (by decide), e 0x48 2 (by decide), e 0x4A 2 (by decide), e 0x4C 4 (by decide), e 0x50 8 (by decide),
      e 0x58 8 (by decide), e 0xA0 0x60 (by decide)]
    decide +kernel
  have q : (record 1 (zeros96.take 48) sig).seq = 1 := by
    unfold ConfigRec.seq fieldAt; rw [e _ _ (by decide)]; decide +kernel
  have m : ((List.range 8).all fun i => decide ((record 0 (zeros96.take 48) zeros96).minver i ≤ (record 1 (zeros96.take 48) sig).minver i)) = true := by
    have (i : Nat) : (record 0 (zeros96.take 48) zeros96).minver i = 0 ∨ 8 ≤ i := by
      by_cases hi : i < 8
      · left; revert i; decide +kernel
      · right; omega
    rw [List.all_eq_true]; intro i hi
    rcases this i with h0 | h8
    · rw [h0]; simp [BitVec.le_def]
    · exact absurd (List.mem_range.1 hi) (by omega)
  refine ⟨f, fun k => ?_, by decide +kernel⟩
  unfold recFollows; rw [f, k, m, q]; decide +kernel

/-- Graph numbers at both ends; an image that loads, one that is refused and one that is not there; a kick pending and none; parts of an upload: the first, the last, and none;
a target beyond the last, one whose units still switch and one whose do not; nonces of both lengths. -/
theorem test_witness_GraphsImagesAndReports : (owned (lane [])).isOwner (pkgMsg 5 14) = true ∧ headerOk (pkgMsg 5 14) 14 = true ∧ ((owned (lane [])).renew (pkgMsg 5 14)).serverReady (pkgMsg 5 14) = true ∧
    imaged.dieReady 3 = true ∧ imaged.schedReady 3 = true ∧ (housed (lane [])).dieReady 3 = false ∧
    ((match (imaged.renew (msg 5 4)).loadImage 0 0x10000 128 with | .ok g => decide (g.nodes = [⟨0x10100, 0, []⟩]) | _ => false) &&
      (match (imaged.renew (msg 5 4)).loadImage 0 0x10000 64 with | .refused => true | _ => false) && (match (imaged.renew (msg 5 4)).loadImage 0 0x90000 64 with | .fault => true | _ => false)) = true ∧
    imaged.graph? 3 7 = none ∧ KV.at? (imaged.die 3).pending 7 = none ∧ KV.at? ([(7, 0)] : KV Nat (BitVec 64)) 7 ≠ none ∧
    ((KV.at? (imaged.renew (pkgMsg 5 14)).fleet.uploads (5, 9)).getD []) = [] ∧ (image 8 0 [] [] []).target = 8 ∧ 256 ≤ (image 6 0 (zeros96.take 48) zeros96 []).bytes.length ∧
    ({ bytes := (image 6 8 (zeros96.take 48) zeros96 []).bytes } : SignedImage).len = 8 ∧ (image 6 0 (zeros96.take 48) zeros96 []).bytes.length < 256 + 8 ∧
    (KV.at? (imaged.renew (pkgMsg 5 14)).fleet.images 6).map Images.switching = some [] ∧ imageRefused (record 0 (zeros96.take 48) zeros96) { bytes := [] } ≠ none ∧
    recordRefusal (record 0 (zeros96.take 48) zeros96) { bytes := [] } ≠ none ∧ (List.replicate 48 (0 : BitVec 8)).length = 48 ∧ ([] : List (BitVec 8)).length ≠ 48 := by
  decide +kernel

/-- A machine of which partition 0 has notify word 0 and a ring of 4 entries on die 0, of which 2 are posted. -/
def ringing : State :=
  { owned { lane [] with mem := [(0x10001, 2), (0x10008, 4), (0x10010, 2)] } with
    parts := [(0, { Part.reset with owner := some 5, cores := [0, 1], notifyVa := 0x30000, rings := [0x10000, 0, 0, 0] })] }

/-- A launch that KLAUNCH names and none; a group of it, one that still waits, a saved one and a number of none. -/
theorem test_witness_KillAndVacate : (owned (lane [])).launchNamed 0 4 = none ∧ ((owned (lane [])).launchNamed 0 0).map (·.1) = some 0 ∧ (owned (lane [])).placedByGrp 0 0 = some 0 ∧
    group0.ending = false ∧ (owned (lane [])).placedByGrp 0 1 = none ∧ (owned (lane [])).savedByGrp 0 1 = none ∧ placedLaunch.placed ≤ 0 + placedLaunch.placed ∧
    (fun s : State => s.savedByGrp 0 0 = some 0 ∧ s.placedByGrp 0 0 = none) (after (housed (steward [])) (.groupSave 0)) ∧
    ({ twoGroups with placed := 1 } : Launch).placed ≤ 1 ∧ 1 < ({ twoGroups with placed := 1 } : Launch).ngrp ∧ 1 ∉ placedLaunch.dead ∧ placedLaunch.ngrp ≤ 7 ∧
    ((owned (lane [])).die ((owned (lane [])).localDie (0 / Config.coresPerDie))).idle = false ∧ ({ Die.reset with takeover := true } : Die).idle = true ∧
    (sortBy (owned (lane [])).victimRank (((owned (lane [])).partCores 0).filter fun c => !((owned (lane [])).groupsOn c).isEmpty)).take 1 = [0] := by
  decide +kernel

/-- Words of notify and other pages; a ring's count passed and not; a core of a partition and one of none; legal and illegal lull values. -/
theorem test_witness_ServiceActs : (owned (lane [])).notifyLoc 0 0 = some ⟨0x30000, some 0⟩ ∧ (owned (lane [])).waits = [] ∧
    (ringing.ring? 0 0).map (fun r => (r.n, r.count, ringing.ringCons 0 0)) = some (4, 2, 0) ∧ Sparse.wf ringing.tags = true ∧ ringing.waits = [] ∧ ((2 : BitVec 32) - 0).toNat < ((3 : BitVec 32) - 0).toNat ∧
    (owned (lane [])).rvPart 0 = some (0, true) ∧ (owned (lane [])).rvPart 7 = none ∧ (0x30002 : BitVec 64).toNat % 4 ≠ 0 ∧ failure ((owned (lane [])).gl 0 0x90000 Want.wr) ≠ none ∧
    ((owned (lane [])).gl 0 0x30000 Want.wr).toOption.map Place.cls = some 4 ∧ ((owned (lane [])).gl 0 0x20000 Want.wr).toOption.map Place.cls = some 3 ∧
    (bits (0x0004000100000004 : BitVec 64) 31 3 = 0 ∧ bits (0x0004000100000004 : BitVec 64) 47 32 < bits (0x0004000100000004 : BitVec 64) 63 48 ∧ bits (0x0004000100000004 : BitVec 64) 2 0 ≤ 4) ∧
    4 < bits (0x0004000100000005 : BitVec 64) 2 0 ∧ (0x2000 : BitVec 64).toNat % 8192 = 0 := by
  decide +kernel

/-- A machine with a service core 0 and a sandbox core 1. -/
def sandboxed : State := { owned (lane []) with parts := [(0, { Part.reset with owner := some 5, cores := [0, 1], sandboxCores := [1] })] }

/-- What an access of the core reaches, as the statements ask it. -/
theorem translates_of {s : State} {core part : Nat} {svc : Bool} {a : RvAct} {n : Nat} {pa : BitVec 56} (p : (s.rvCore core).parked = false)
    (c : s.rvPart core = some (part, svc)) (w : a.addr.toNat % 4096 + n ≤ 4096)
    (r : s.rvTranslate part svc (s.rvCore core) a.want a.addr = ([], .ok pa)) : s.RvTranslates core part svc a n pa s :=
  ⟨p, c, w, [], r, fun _ h => absurd h List.not_mem_nil, rfl⟩

/-- An access of each kind at a page that the core reaches, at one that it does not, at a notify page and at an address outside the space; one that parks; a core in machine mode
and one in another, with and without translation; a sandbox core at a page of a class that it may not use. -/
theorem test_witness_ServiceCoreAccesses : sandboxed.rvPart 0 = some (0, true) ∧ sandboxed.rvPart 1 = some (0, false) ∧ sandboxed.rvPart 9 = none ∧
    (match sandboxed.rvPlaces 0 true Want.rd 0x90000 4 with | .error f => decide (f ≠ .access) | .ok _ => false) = true ∧ (sandboxed.rvPlaces 0 true Want.rd 0x10000 4).toOption.map List.length = some 4 ∧
    sandboxed.flaws = [] ∧ bits (0x4000000000000 : BitVec 56) 55 50 ≠ 0 ∧ (sandboxed.gl 0 (sandboxed.rvVa 0x10000) Want.rd).toOption.map Place.cls = some 0 ∧
    (match sandboxed.gl 0 (sandboxed.rvVa 0x90000) Want.rd with | .error (.fault _ _ _) => true | _ => false) = true ∧
    (match sandboxed.rvPlaces 0 true Want.wr 0x90000 4 with | .error _ => true | .ok _ => false) = true ∧
    (sandboxed.rvPlaces 0 true Want.wr 0x10000 4).toOption.map (fun l => l.all fun p => decide (p.cls ≠ 4)) = some true ∧
    (sandboxed.rvPlaces 0 true Want.wr 0x30000 4).toOption.map (fun l => l.any fun p => decide (p.cls = 4)) = some true ∧ ([0, 0] : List (BitVec 8)).length ≠ 4 ∧ ([1, 0, 0, 0] : List (BitVec 8)).length = 4 ∧
    (0x30000 : BitVec 56).toNat % 4 = 0 ∧ (0x10000 : BitVec 64).toNat % 8 = 0 ∧ (0x10004 : BitVec 64).toNat % 8 ≠ 0 ∧
    (match sandboxed.rvPlaces 0 true Want.ex 0x90000 2 with | .error _ => true | .ok _ => false) = true ∧
    (fun s : State => (s.gl 0 (s.rvVa 0x30000) Want.ex).toOption.map Place.cls = some 4)
      (sandboxed.updDie 0 fun d => { d with tcache := [(0, [⟨3, 0, withPerm (newPte 3 0 4 0) 0 3⟩])] }) ∧
    (sandboxed.rvCore 0).mode = .m ∧ (sandboxed.rvCore 0).virt = false ∧
    bits (({ RvCore.reset with mode := .s } : RvCore).csr 0x180) 63 60 ≠ 9 ∧ bits (0x100000000000000 : BitVec 64) 63 56 ≠ 0 ∧
    ({ sandboxed with rvCores := [(0, { RvCore.reset with parked := true })] } : State).rvCore 0 = { RvCore.reset with parked := true } ∧ (KV.at? sandboxed.parts 0).isSome = true := by
  and_intros <;> decide +kernel

/-- Accesses whose address is translated, each of which reaches its place: of the ends of a page, outside the space, and of both ends of the register window. -/
theorem test_witness_ServiceCoreReaches :
    sandboxed.RvReaches 0 0 true (.load 0x10000 4 5) 4 0x10000 sandboxed ∧ sandboxed.RvReaches 0 0 true (.store 0x10FFC [1, 0, 0, 0]) 4 0x10FFC sandboxed ∧
    sandboxed.RvReaches 0 0 true (.atomic .add 0x10000 8 5 1) 8 0x10000 sandboxed ∧ sandboxed.RvReaches 0 0 true (.fetch 0x1000) 2 0x1000 sandboxed ∧
    sandboxed.RvReaches 0 0 true (.load 0x4000000000000 4 5) 4 0x4000000000000 sandboxed ∧
    sandboxed.RvTranslates 0 0 true (.load 0x80000000000000 8 5) 8 (BitVec.ofNat 56 (0x20 * 2 ^ 50)) sandboxed ∧
    sandboxed.RvTranslates 0 0 true (.store 0x80000000000040 (List.replicate 8 0)) 8 (BitVec.ofNat 56 (0x20 * 2 ^ 50 + 0x40)) sandboxed := by
  have tr (a : RvAct) (n : Nat) (pa : BitVec 56) (w : a.addr.toNat % 4096 + n ≤ 4096) (h : bits a.addr 63 56 = 0) (e : a.addr.setWidth 56 = pa) :
      sandboxed.RvTranslates 0 0 true a n pa sandboxed := by
    refine translates_of (by decide +kernel) (by decide +kernel) w ?_
    unfold State.rvTranslate
    rw [show sandboxed.rvCore 0 = RvCore.reset by decide +kernel, ← e]
    simp [RvCore.reset, h]
  have at_ (a : RvAct) (n : Nat) (pa : BitVec 56) (w : a.addr.toNat % 4096 + n ≤ 4096) (h : bits a.addr 63 56 = 0) (e : a.addr.setWidth 56 = pa)
      (i : inWindow true pa n = false) (o : decide (bits pa 55 50 ≠ 0) || !sandboxed.readOut 0 (sandboxed.rvVa pa) n = true) :
      sandboxed.RvReaches 0 0 true a n pa sandboxed := ⟨tr a n pa w h e, i, by simpa using o⟩
  refine ⟨at_ _ _ _ ?_ ?_ ?_ ?_ ?_, at_ _ _ _ ?_ ?_ ?_ ?_ ?_, at_ _ _ _ ?_ ?_ ?_ ?_ ?_, at_ _ _ _ ?_ ?_ ?_ ?_ ?_, at_ _ _ _ ?_ ?_ ?_ ?_ ?_, tr _ _ _ ?_ ?_ ?_, tr _ _ _ ?_ ?_ ?_⟩ <;>
    decide +kernel

/-- A boundary that gives a partition core 2 and its half 0, and one that takes core 0. -/
def edge (c : List Nat) : Boundary :=
  { cores := c, halves := [(2, 0)], keysDev := [0, 9], keysHost := [], serviceCore := 0, sandboxCores := [], notifyVa := 0x30000, rings := [0, 0, 0, 0], faultRings := [], logVa := 0, logN := 0, kernelMeas := 0, savePool := [] }

/-- The partition as it becomes under a boundary. -/
def grown (c : List Nat) : Part :=
  { Part.reset with
    owner := some 5, leaseEnd := 100, leaseMs := 10, cores := [0, 1], keysDev := [0, 9], keysHost := [], serviceCore := 0, notifyVa := 0x30000, rings := [0, 0, 0, 0], want := some (c, [(2, 0)]) }

/-- Nothing in the way of cores 0 to 2; the group on core 0 in the way of its loss; another partition that loses a key; a partition that exists already and one that does not. -/
theorem test_witness_PartitionBoundary : 15 < 16 ∧
    (fun s : State => s.inTheWay 0 (grown [0, 1, 2]) [0, 1, 2] [(2, 0)] = [] ∧ s.inTheWay 0 (grown [1, 2]) [1, 2] [(2, 0)] = [0] ∧ (s.half 2 0).part ≠ some 0 ∧ s.saving 0 = false)
      { owned (lane []) with parts := KV.put ((owned (lane [])).parts.map fun e => (e.1, e.2.loseKeys (edge [0, 1, 2]))) 0 (grown [0, 1, 2]) } ∧
    ({ Part.reset with keysHost := [9, 4] } : Part).loseKeys (edge []) = { Part.reset with keysHost := [4] } ∧ (KV.at? (owned (lane [])).parts 0).isNone = false ∧
    (KV.at? (owned (lane [])).parts 2).isNone = true ∧ Part.reset.newRv { edge [] with serviceCore := 3 } = [3] := by
  decide +kernel

/-- An image of which units switch, the last of them and a scheduler's; a scheduler with a standby, without, and at its takeover's end. -/
theorem test_witness_SwitchesAndTakeovers : (fun x : Images => 3 ∈ x.switching ∧ 4 ∉ x.switching ∧ (∃ n ∈ x.switching, n ≠ 3))
      ⟨initialImage 0, initialImage 0, [1, 3], some (pkgMsg 5 14), []⟩ ∧ (⟨initialImage 0, initialImage 0, [3], some (pkgMsg 5 14), []⟩ : Images).switching = [3] ∧
    (KV.at? (owned (lane [])).fleet.images 2).isSome = true ∧ ((owned (lane [])).die ((owned (lane [])).localDie (0 / 2))).scheduler = some (0 % 2) ∧ ((owned (lane [])).die 0).standby = true ∧
    ((owned (lane [])).die 0).takeover = false ∧ ({ Die.reset with standby := false } : Die).standby = false ∧ ({ Die.reset with takeover := true } : Die).heldFills = [] ∧
    ({ Die.reset with takeover := true } : Die).heldVacations = [] ∧ 0 / 2 * 2 + (1 - 0 % 2) ∉ [0] := by
  refine ⟨⟨by decide, by decide, 1, by decide, by decide⟩, by decide +kernel⟩

/-- The main clock at each step, with nothing that holds a step back, too soon after one, and too soon after a cause; power below PCAP; records in either slot, in either order;
a firmware image that is not good. -/
theorem test_witness_PowerAndStart :
    (fun s : State => s.mayStep 0 4000 = true ∧ s.mayStep 1 0 = true ∧ s.mayStep 2 0 = true ∧ 3600 ≤ s.fleet.config.pcap)
      { State.reset with fleet := { Fleet.reset with slot0 := record 0 (zeros96.take 48) zeros96 } } ∧ State.reset.mhz = 1750 ∧ (1750, 1500) ∈ [(1750, 1500), (1500, 1250), (1250, 1000)] ∧
    (fun s : State => s.mayStep 1 0 = false ∧ s.mayStep 2 0 = false ∧ s.fleet.stepAt = some 5 ∧ (s.time - 5).toNat < 1000000)
      { State.reset with time := 6, fleet := { Fleet.reset with slot0 := record 0 (zeros96.take 48) zeros96, stepAt := some 5, forcedAt := some 5 } } ∧
    (record 0 (zeros96.take 48) zeros96).seq < (record 1 (zeros96.take 48) zeros96).seq ∧
    (fun f : Fleet => f.rootGood = false) { Fleet.reset with images := [(0, ⟨⟨[]⟩, ⟨[]⟩, [], none, []⟩)] } ∧
    (20 + (28 * 0 + 0) ∉ ({ cores := [], functions := [], sublinks := [] } : SelfTest).functions) ∧
    (∀ k ∈ ({ cores := [], functions := [600], sublinks := [] } : SelfTest).functions, k < 1024) := by
  decide +kernel

/-- Firmware of the root monitor is good where its signature is; what signature that is rests with the Tolrix key, which Config leaves open. -/
theorem test_witness_RootGood (i j : SignedImage) (f : i.fieldsOk = true) (m : i.magicOk = true) (d : i.digestOk = true) (t : i.target = 0) (s : i.sigOk = true) :
    ({ Fleet.reset with images := [(0, ⟨i, j, [], none, []⟩)] } : Fleet).rootGood = true := by
  simp [Fleet.rootGood, KV.at?, f, m, d, t, s]

/-- Lane 5 of sub-bus 0 of channel 0 of die 0 after `n` errors, its sub-bus in use or not. -/
def swapping (n : Nat) (busy : Option Nat) : State :=
  { owned (lane []) with
    fleet := { (owned (lane [])).fleet with
      dramLanes := [((0, 0, 0, 5), { LaneSt.good with errors := n })]
      subBusy := match busy with | some c => [((0, 0, 0), (5, c))] | none => [] } }

/-- A present core with a group and one without, with and without a spare; a lane at its third error, at the end of its swap, with no spare left, and one that is stuck; the
fourth crossing of a transfer; link lanes, ports in and out of service; a rate correction beyond the bound. -/
theorem test_witness_RepairAndLinks : (owned (lane [])).present 0 = true ∧ (owned (lane [])).present 1 = true ∧ 0 < Config.cores ∧ (owned (lane [])).fleet.retiring = [] ∧ (owned (lane [])).groupsOn 0 ≠ [] ∧
    (owned (lane [])).groupsOn 1 = [] ∧ (owned (lane [])).estateBusy 0 = false ∧ ((owned (lane [])).die ((owned (lane [])).dieOf 0)).idle = false ∧ (owned (lane [])).saving 0 = false ∧
    (owned (lane [])).spareFor ((owned (lane [])).builtOf 1) = none ∧
    (fun s : State => s.spareFor (s.builtOf 1) = some 29) { owned (lane []) with fleet := { (owned (lane [])).fleet with spares := [29, 30] } } ∧
    ((swapping 2 none).dramLane 0 0 0 5).errors = 2 ∧ 3 ≤ ((swapping 3 none).dramLane 0 0 0 5).errors ∧ ((swapping 3 none).dramLane 0 0 0 5).retired = false ∧
    KV.at? (swapping 3 none).fleet.subBusy (0, 0, 0) = none ∧ (swapping 3 none).freeSpare 0 0 0 5 = some 80 ∧ KV.at? (swapping 3 (some 0)).fleet.subBusy (0, 0, 0) = some (5, 0) ∧
    (fun s : State => s.freeSpare 0 0 0 5 = none) { swapping 3 none with fleet := { (swapping 3 none).fleet with dramLanes := [((0, 0, 0, 5), { LaneSt.good with errors := 3 }),
      ((0, 0, 0, 80), { LaneSt.good with retired := true }), ((0, 0, 0, 81), { LaneSt.good with retired := true })] } } ∧
    (State.reset.linkLane 0 0 0 7).retired = false ∧ State.reset.spareLane 0 0 0 = some 512 ∧
    (fun s : State => s.spareLane 0 0 0 = none)
      { State.reset with fleet := { State.reset.fleet with linkLanes := (List.range 8).map fun n => ((0, 0, 0, 512 + n), { LaneSt.good with retired := true }) } } ∧
    LaneSt.good.stuck = false ∧ ({ LaneSt.good with retired := true, errors := 3 } : LaneSt).stuck = true ∧ ((400 : Nat) : Int) = max (-200) (min 200 300) + 200 ∧ 15 ∉ State.reset.fleet.portsDown ∧ 15 ∈ ({ State.reset.fleet with portsDown := [15] } : Fleet).portsDown := by
  decide +kernel

/-- A launch that waits, of which one level is a sharing level of two groups, beside the launch 0 that is placed. -/
def shared2 : State :=
  { housed State.reset with ids := 7, launches := [(0, placedLaunch), (1, { placedLaunch with placed := 0, spUnits := 2, levels := [⟨false, 1, 2, 1⟩, ⟨true, 2, 4, 2⟩], accepted := 1 })] }

/-- A sharing set goes to cores 0 and 1, distinct; a launch whose record is empty is refused when it is looked at. -/
theorem test_witness_SharingSetsAndRefusals : ((shared2.launch? 1).bind fun l => l.shareSize) = some 2 ∧
    (((shared2.launch? 1).bind fun l => (shared2.placeNext 1 l []).map fun r => r.2)) = some [0, 1] ∧ shared2.launchOrder = [.launch 1] ∧ shared2.dieOf 0 = 0 ∧
    ((housed State.reset).refusedAtOnce { placedLaunch with checked := false }).isSome = true ∧
    (({ housed State.reset with launches := [(1, { placedLaunch with placed := 0, checked := false, accepted := 1 })] } : State).launchOrder) = [.launch 1] := by
  decide +kernel

/-- A machine in which two groups of a sharing set stand on cores 0 and 1. -/
def sharing2 : State :=
  { housed (steward []) with groups := [(0, { group0 with share := some 9 }), (1, { group0 with share := some 9, core := 1, grp := 1 })] }

/-- A sharing set that is saved together; one that then finds no place on a single core, and one that does. -/
theorem test_witness_SharingSetSaved : (sharing2.saveSet 0 { group0 with share := some 9 }).map (·.1) = [0, 1] ∧
    (fun s : State => s.saved.map (·.1) = [0, 1] ∧ s.groups = [] ∧
      (KV.at? s.saved 0).bind (fun y => (s.returnSpots 0 y (s.keptFrom 0)).map fun l => l.map fun e => (e.1, e.2.2.1.core)) = some [(0, 0), (1, 1)] ∧
      (KV.at? s.saved 0).bind (fun y => (({ s with parts := [(0, { Part.reset with cores := [0] })] } : State).returnSpots 0 y [])) = none)
      (after sharing2 (.groupSave 0)) := by
  decide +kernel

/-- Lanes with bits and without; a sub-bus in use until later than the clock; an absent core; a port beyond the last; the network numbers at both ends. -/
theorem test_witness_LaneEdges : (swapping 3 none).carried 0 0 0 5 = some 5 ∧ (swapping 3 none).carried 0 0 0 80 = none ∧ KV.at? (swapping 3 (some 9)).fleet.subBusy (0, 0, 0) = some (5, 9) ∧
    (swapping 3 none).clock < 9 ∧ (owned (lane [])).present 7 = false ∧ 7 ∉ (owned (lane [])).fleet.retiring ∧ (State.reset.linkLane 0 0 0 7).errors ≠ 15 ∧
    (({ State.reset with fleet := { State.reset.fleet with linkLanes := [((0, 0, 0, 7), { LaneSt.good with errors := 15 })] } } : State).linkLane 0 0 0 7).errors = 15 ∧ 15 < 16 ∧ (16 : Nat) < 17 := by
  decide +kernel

/-- Written values of each legal CODE that name fault 7; a parked thread, a held command and a scan whose request waits; a SLOT entry that is not waiting. -/
theorem test_witness_ResolutionEdges : (∀ c ∈ [(0 : Nat), 1, 2], bits (BitVec.ofNat 64 (7 * 2 ^ 32 + c)) 31 2 = 0 ∧ (BitVec.ofNat 64 (7 * 2 ^ 32 + c)).extractLsb' 32 32 = (7 : BitVec 32) ∧
      bits (BitVec.ofNat 64 (7 * 2 ^ 32 + c)) 1 0 = c) ∧
    (({ lane [] with threads := [(.lane 0 0, { young with status := .parked .fault })] } : State).thread? (.lane 0 0)).map (fun t => (t.status, t.wins)) = some (.parked .fault, []) ∧
    (KV.at? ({ lane [] with cmds := [(0, { newCmd .cp 0 group0 [0x200, 0x100, 64, 0x300] 0 with held := true })] } : State).cmds 0).isSome = true ∧
    (KV.at? (windowed { query0 [] with scan := some ⟨0, 1, 0, 8, 8, 0, 0, true⟩ }).queries 0).map (fun x => x.scan.isSome) = some true ∧
    ((slotted.group? 0).bind fun g => KV.at? g.estate 0).map (fun e => (e.kind, e.waiting)) = some (2, false) := by
  decide +kernel

/-- A merge of windows of which one has gone; no pane record that waits; a scan whose page may not be read. -/
theorem test_witness_MergeAndScanEdges : ({ query0 [(0, win0)] with merge := some ⟨0, 1, rec0 5, [], []⟩ } : Query).merge = some ⟨0, 1, rec0 5, [], []⟩ ∧
    (KV.at? (query0 [(0, win0)]).wins 0).isSome = true ∧ KV.at? (query0 [(0, win0)]).wins 1 = none ∧ (query0 []).merge = none ∧ (query0 []).pane = [] ∧
    (match (windowed (query0 [])).readAt 1 0x10000 4 with | .error (.trap _) => true | _ => false) = true := by
  decide +kernel

/-- A page that agrees with its entry and one that differs; an entry that would be executable and writable; a larger page above a leaf and above none; a partition
without a key slot of a side; an image that arrives while its target switches; a read without an error. -/
theorem test_witness_MasterEdges : (fun old : BitVec 128 => pteV old = true ∧ pteSize old = 0 ∧ bits old 61 16 = bits (newPte 7 0 0 0) 61 16 ∧ bits old 61 16 ≠ bits (newPte 8 0 0 0) 61 16 ∧
      pteMix (withPerm old 0 2) = false ∧ pteMix (withPerm old 1 3) = true) ((pages false).pteAt 0 0x8040) ∧
    (match (pages false).entryAt 0 0 (levelOfSize 1) 0x2000 walkLevels with
      | .entry a l => decide (l = levelOfSize 1) && pteV ((pages false).pteAt 0 a) && decide (pteSize ((pages false).pteAt 0 a) = 3) &&
          (pages false).hasLeaf 0 (bits ((pages false).pteAt 0 a) 43 13 * 8192) (walkLevels.drop l) &&
          !(fun s : State => s.hasLeaf 0 (bits (s.pteAt 0 a) 43 13 * 8192) (walkLevels.drop l)) { pages false with mem := tabled.mem.filter fun e => decide (e.1 < 0x8040) }
      | _ => false) = true ∧
    Part.reset.keysDev = [] ∧ (⟨initialImage 0, initialImage 0, [3], some (pkgMsg 5 14), []⟩ : Images).switching ≠ [] ∧
    ((owned (lane [])).readPlaces 0 0x10000 []).2 = false ∧ ({ graph0 with running := true } : Graph).running = true := by
  and_intros <;> decide +kernel

/-- A group that has executed nothing, and one that ends already; a notify register that is none, a partition without a ring, and a ring that a write leaves full; a core of no partition; a scheduler core that
does not act, a target of no image, and a die without a scheduler. -/
theorem test_witness_ServiceEdges : (fun s : State => s.placedByGrp 0 0 = some 0) { owned (lane []) with groups := [(0, { group0 with began := false })] } ∧
    (fun s : State => s.placedByGrp 0 0 = none) { owned (lane []) with groups := [(0, { group0 with ending := true })] } ∧
    (owned (lane [])).notifyLoc 7 0 = none ∧ (owned (lane [])).ring? 0 1 = none ∧
    (fun s : State => (s.ring? 0 0).map (fun r => decide (r.n ≤ (r.count - 0).toNat)) = some true ∧ s.ringCons 0 0 = 0) { ringing with mem := [(0x10001, 2), (0x10008, 4), (0x10010, 4)] } ∧
    sandboxed.rvPart 63 = none ∧ (KV.at? sandboxed.parts 0).isSome = true ∧ (owned (lane [])).activeUnit 1 = false ∧ KV.at? (owned (lane [])).fleet.images 9 = none ∧
    ({ Die.reset with scheduler := none } : Die).scheduler = none ∧ ({ Die.reset with takeover := true } : Die).takeover = true := by
  and_intros <;> decide +kernel

/-! ## Clauses on storage errors, on sub-buses that are being swapped, and on what waits its turn -/

/-- A state in which a sub-bus of die 0 is being swapped: the one that carries an address. -/
def swapped (s : State) (daddr : Nat) : State := { s with fleet := { s.fleet with subBusy := [((0, channelOf daddr, subBusOf daddr), (5, 9))] } }

/-- `mfsr` of ORIGIN in a handler of a steward and of a lane thread in lane 2 and slot 1; a register of a steward without WIDE; an index beyond a steward's file traps, which
kills the group of a launch without handlers (R206, R207). -/
theorem test_origin :
    (runs (handling (.steward 0)) (.mfsr ⟨false, 0, 5, 0x94, 0x94, 0x94, 0, 0x0806⟩)).map (fun t => Sparse.rd t.regs 5) = some 0x80000000 ∧
    (runs { handling (.lane 0 0) with threads := (handling (.lane 0 0)).threads.map fun e => (e.1, { e.2 with lane := 2, slot := 1 }) }
      (.mfsr ⟨false, 0, 5, 0x94, 0x94, 0x94, 0, 0x0806⟩)).map (fun t => Sparse.rd t.regs 5) = some 0x10800 ∧
    (runs { handling (.steward 0) with threads := (handling (.steward 0)).threads.map fun e => (e.1, { e.2 with sregs := [(63, 0x100000002)] }) }
      (.mfsr ⟨false, 0, 5, 0x94, 0x94, 0x94, 0, 0x003F⟩)).map (fun t => Sparse.rd t.regs 5) = some 2 ∧
    (runs (handling (.steward 0)) (.mfsr ⟨false, 0, 5, 0x94, 0x94, 0x94, 0, 0x0040⟩)).isNone = true := by
  decide +kernel

/-- `mtsr` to a steward's register without WIDE keeps its upper half, and to the origin's pc clears its low bits (R207). -/
theorem test_origin_written :
    (((after { handling (.steward 0) with threads := (handling (.steward 0)).threads.map fun e => (e.1, { e.2 with regs := [(6, 9)], sregs := [(63, 0x100000002)] }) }
      (.mtsr ⟨false, 0, 0x94, 6, 0x94, 0x94, 0, 0x003F⟩)).thread? (.steward 0)).map fun t => Sparse.rd t.sregs 63) = some 0x100000009 ∧
    (((after { handling (.lane 0 0) with threads := (handling (.lane 0 0)).threads.map fun e => (e.1, { e.2 with regs := [(6, 0x1F), (7, 1)] }) }
      (.mtsr ⟨false, 0, 0x94, 6, 0x94, 0x94, 0, 0x0C00⟩)).thread? (.lane 0 0)).map Thread.pc) = some 0x100000018 := by
  decide +kernel

/-- Selectors of every space and item at both ends, as the statement on control registers reads them. -/
theorem test_witness_ControlSelectors : [0x0806, 0x003F, 0x0040, 0x043F, 0x0493, 0x0492, 0x0807].map (fun m : BitVec 13 => (bits m 12 11, m.getLsbD 10, bits m 7 0)) =
      [(1, false, 6), (0, false, 0x3F), (0, false, 0x40), (0, true, 0x3F), (0, true, 0x93), (0, true, 0x92), (1, false, 7)] ∧
    (∀ st ∈ [Stream.lanes, .steward], illegal st (.mfsr ⟨false, 0, 5, 0x94, 0x94, 0x94, 0, 0x0094⟩) ≠ none) ∧ 0x93 < bits (0x0094 : BitVec 13) 7 0 := by
  decide +kernel

/-- A target whose fetch is aborted by a storage error, and one whose word is read; targets on a swapped sub-bus and not; a bad table entry is reported, another failure is not. -/
theorem test_witness_IndirectTargets : (({ lane [] with flaws := [.fetch 0 0x40 true] } : State).readFetch ((lane []).victimOf (.lane 0 0) young) 0x40 ⟨0x40, some 0⟩).2 = true ∧
    ((lane []).readFetch ((lane []).victimOf (.lane 0 0) young) 0x40 ⟨0x40, some 0⟩).2 = false ∧ (lane []).subBusOut ⟨0x40, some 0⟩ = false ∧
    (swapped (lane []) 0x40).subBusOut ⟨0x40, some 0⟩ = true ∧ (lane []).walkOut 0x40 = false ∧
    ((lane []).noteTarget young 0x40 0x0209).irqs = [.badEntry 0] ∧ ((lane []).noteTarget young 0x40 0x020A).irqs = [] ∧ (0x020A : BitVec 32) ≠ 0x0209 ∧ (0x020A : BitVec 32) ≠ 0x020D := by
  and_intros <;> decide +kernel

/-- A fetch error is consumed by the thread, and one read of another thread of the same wave is shared (R21, R332). -/
theorem test_wave_shares_its_fetch : ((lane []).keepFetch (.lane 0 0) 0 (some 9)).fetched = [] ∧
    (({ lane [] with waves := [(.lane 0 0, 3), (.lane 0 1, 3)] } : State).keepFetch (.lane 0 0) 0 none).waveFetch (.lane 0 1) 0 = some none := by
  decide +kernel

/-- A copy into queue 3 behind an earlier one, and a drain behind one and ahead of one; a fill behind a replayed one of its group and one alone; a group that is being saved. -/
theorem test_witness_QueuesInOrder : (fun s : State => s.queueTaken 1 0 0 3 = true ∧ s.queueTaken 0 0 0 3 = false ∧ s.queueTaken 9 0 0 3 = true ∧ s.queueTaken 9 1 0 3 = false)
      { working (.drain 0 3 0 false 0) true (some run9) with cmds := [(0, newCmd .cp 0 group0 [3, 0x100, 0xC00000040, 0x300] 0)] } ∧
    (working (.drain 0 3 0 false 0) true (some run9)).queueTaken 10 0 0 3 = true ∧ (working (.drain 0 3 0 false 0) true (some run9)).queueTaken 9 0 0 3 = false ∧
    (newCmd .cpb 0 group0 [0, 0, 0, 0] 0).kind = .cpb ∧ copier.fillWaits 1 (newCmd .cpb 0 group0 [0, 0, 0, 0] 0) = false ∧
    ({ copier with cmds := [(0, { newCmd .cpb 0 group0 [0, 0, 0, 0] 0 with silent := true })] } : State).fillWaits 1 (newCmd .cpb 0 group0 [0, 0, 0, 0] 0) = true ∧
    copier.groupSaving 0 = false ∧ ({ copier with groups := [(0, { group0 with saving := true })] } : State).groupSaving 0 = true := by
  decide +kernel

/-- A quasi-random context of which a window of one dimension is loaded from the ordinary page. -/
def qruTest : Qru := { tbase := 0x10000, tdims := 4, wcap := 1, wbase := 0, wdims := 0, taofs := 0, seedKey := 0 }

/-- A sink, a ring, a table and a collective's byte whose sub-bus is in use, and not; a sink's control words and a table read without a storage error. -/
theorem test_witness_ReadsThatWait : (windowed (query0 [])).sinkOut (query0 []) 0 = false ∧ (swapped (windowed (query0 [])) 0x20000).sinkOut (query0 []) 0 = true ∧
    ((windowed (query0 [])).readSink winThread (query0 []) ⟨0x20004, some 0⟩ ⟨0x20000, some 0⟩).2 = none ∧
    (ringed.ring? 0 0).map (fun r => (swapped ringed 0x10000).ringOut 0 r) = some true ∧
    (lane []).qruOut 0 qruTest 0 1 = false ∧ (swapped (lane []) 0x10000).qruOut 0 qruTest 0 1 = true ∧ ((lane []).tableWords 0 qruTest 0 1).toOption.isSome = true ∧
    ((lane []).readTable (.lane 0 0) young qruTest 0 1).2 = none ∧ (match (lane []).tableWords 0 { qruTest with tbase := 0 } 0 1 with | .error (_, .trap c) => decide (c ≠ 0x020D) | _ => true) = true ∧
    (lane []).spotOut (.ok ⟨0x10000, some 0⟩, 0x10000) = false ∧ (swapped (lane []) 0x10000).spotOut (.ok ⟨0x10000, some 0⟩, 0x10000) = true ∧
    (swapped (quiet (steward [])) (2 ^ 30)).imageWaits [(0, group0)] = true ∧
    (fun s : State => (KV.at? s.saved 0).map (fun y => (swapped s (2 ^ 30)).returnWaits [y]) = some true) (after (housed (steward [])) (.groupSave 0)) := by
  and_intros <;> decide +kernel

/-- A journal with no record after ACTSEQ and one with two, of which the act of a node waits for a sub-bus; a takeover under way and none, for a scheduler's image and another's. -/
theorem test_witness_JournalAndTakeover : (graphed graph0 []).StoresOk ∧ ((graphed graph0 []).die 0).undone = [] ∧ (graphed graph0 []).afterActSeq 0 = [] ∧
    (fun s : State => (s.afterActSeq 0).length = 2) ((graphed graph0 []).updDie 0 fun d => { d with actSeq := 5, journalSeq := 8 }) ∧
    (graphed graph0 []).redoOut 0 (2, 0, 3, 0x10000) = false ∧ (swapped (graphed graph0 []) 0x10000).redoOut 0 (2, 0, 3, 0x10000) = true ∧
    ((owned (lane [])).die 0).takeover = false ∧ (owned (lane [])).activeUnit 1 = false ∧ (owned (lane [])).activeUnit 0 = true ∧
    (({ owned (lane []) with dies := (owned (lane [])).dies.map fun e => (e.1, { e.2 with takeover := true }) } : State).die ((owned (lane [])).localDie 0)).idle =
      ((({ owned (lane []) with dies := (owned (lane [])).dies.map fun e => (e.1, { e.2 with takeover := true }) } : State).die 0).takeover || false) ∧ (1 : Nat) ≠ 2 := by
  unfold State.StoresOk; and_intros <;> decide +kernel

/-- The lane whose turn of a rotation it is: none before the first turn is due, lane 0, the last lane, and lane 0 again; a link lane that has been retired and one that has not. -/
theorem test_witness_Rotation : State.reset.rotationLane (0, 0, 0) = none ∧ ({ State.reset with time := 2 ^ 21 } : State).rotationLane (5, 3, 1) = some 0 ∧
    (fun s : State => ({ s with time := 512 * 2 ^ 21 } : State).rotationLane (0, 0, 0) = some 511 ∧ ({ s with time := 512 * 2 ^ 21 - 1 } : State).rotationLane (0, 0, 0) = none)
      { State.reset with fleet := { State.reset.fleet with rotated := [((0, 0, 0), 511)] } } ∧
    ({ State.reset with time := 513 * 2 ^ 21, fleet := { State.reset.fleet with rotated := [((0, 0, 0), 512)] } } : State).rotationLane (0, 0, 0) = some 0 ∧
    (KV.at? (State.reset.turnRotation (0, 0, 0)).fleet.rotated (0, 0, 0)) = some 1 := by
  decide +kernel

/-- A rank that is being left and one that is not, for an access that had issued and for one that had not; a walk that a storage error aborts, and one that waits for a sub-bus. -/
theorem test_witness_RanksLeftAndWalks : group0.leaving = false ∧ ({ group0 with leaving := true } : Group).leaving = true ∧ KV.at? owing.held (owing.redo.getD 0) ≠ none ∧
    KV.at? young.held (young.redo.getD 0) = none ∧ failure (({ tabled with flaws := [.crossing (0x2000 / 32)] } : State).gl 0 0x40000 Want.rd) = some (.trap 0x020D) ∧
    tabled.walkOut 0x40000 = false ∧ (swapped tabled 0x2000).walkOut 0x40000 = true ∧ ((lane []).homeVa young .sp 0).any (lane []).walkOut = false := by
  decide +kernel

end Sys2Proof.Tests
end

section
/-! O18: every step keeps memory, tags and key slots canonical. Each meaning keeps them by the lemmas of the operations that it is made of. -/

namespace Sys2Proof.Machine

/-- The package after reset satisfies what O18 supposes of a state. -/
theorem State.reset_storesOk : State.reset.StoresOk := ⟨rfl, rfl, rfl⟩

/-! ## The meanings -/

/-! ### Formats and paired words -/

theorem execHxq_storesOk (f : RegF) (s : State) (oks : s.StoresOk) : OutOk (execHxq f s) :=
  hxOp_storesOk f s _ oks fun _ _ => oks

theorem execHxd_storesOk (f : RegF) (s : State) (oks : s.StoresOk) : OutOk (execHxd f s) :=
  hxOp_storesOk f s _ oks fun _ _ => oks

theorem execHxe_storesOk (f : RegF) (s : State) (oks : s.StoresOk) : OutOk (execHxe f s) :=
  hxOp_storesOk f s _ oks fun _ _ => oks

theorem execMxcvt_storesOk (f : RegF) (s : State) (oks : s.StoresOk) : OutOk (execMxcvt f s) :=
  State.act_storesOk _ _ _ _ oks fun _ => by
    dsimp only
    split
    · exact State.trap_storesOk _ _ _ _ oks
    · split <;> exact oks

theorem execPairedWord_storesOk (sa sb : SlotF) (s : State) (oks : s.StoresOk) : OutOk (execPairedWord sa sb s) := by
  unfold execPairedWord
  split <;> exact oks

/-! ### Loads, stores and tags -/

theorem execLd_storesOk (space : Space) (f : RegF) (s : State) (oks : s.StoresOk) : OutOk (execLd space f s) :=
  State.act_storesOk _ _ _ _ oks fun _ => State.reach_storesOk _ _ _ _ _ _ _ _ _ oks fun _ _ ok => State.finishLong_storesOk _ _ _ _ _ ok

theorem execSt_storesOk (space : Space) (f : RegF) (s : State) (oks : s.StoresOk) : OutOk (execSt space f s) :=
  State.act_storesOk _ _ _ _ oks fun _ => State.reach_storesOk _ _ _ _ _ _ _ _ _ oks fun _ _ ok =>
    State.finishLong_storesOk _ _ _ _ _ (State.wrNat_storesOk _ _ _ _ ok)

theorem execLdq_storesOk (space : Space) (f : RegF) (s : State) (oks : s.StoresOk) : OutOk (execLdq space f s) :=
  State.act_storesOk _ _ _ _ oks fun _ => State.reach_storesOk _ _ _ _ _ _ _ _ _ oks fun _ _ ok => State.finishLong_storesOk _ _ _ _ _ ok

theorem execStq_storesOk (space : Space) (f : RegF) (s : State) (oks : s.StoresOk) : OutOk (execStq space f s) :=
  State.act_storesOk _ _ _ _ oks fun _ => State.reach_storesOk _ _ _ _ _ _ _ _ _ oks fun _ _ ok =>
    State.finishLong_storesOk _ _ _ _ _ (State.wrBytes_storesOk _ _ _ _ ok)

theorem execStwe_storesOk (space : Space) (f : RegF) (s : State) (oks : s.StoresOk) : OutOk (execStwe space f s) :=
  State.act_storesOk _ _ _ _ oks fun _ => State.releaseThen_storesOk _ _ _ _ oks fun _ ok =>
    State.reach_storesOk _ _ _ _ _ _ _ _ _ ok fun _ _ ok => by
      dsimp only
      split
      · exact State.waitTag_storesOk _ _ _ _ _ _ _ _ ok
      · exact State.serve_storesOk _ _ (State.finishLong_storesOk _ _ _ _ _ (State.fill_storesOk _ _ _ _ ok))

theorem execStf_storesOk (space : Space) (f : RegF) (s : State) (oks : s.StoresOk) : OutOk (execStf space f s) :=
  State.act_storesOk _ _ _ _ oks fun _ => State.releaseThen_storesOk _ _ _ _ oks fun _ ok =>
    State.reach_storesOk _ _ _ _ _ _ _ _ _ ok fun _ _ ok =>
      State.serve_storesOk _ _ (State.finishLong_storesOk _ _ _ _ _ (State.fill_storesOk _ _ _ _ ok))

theorem execTagrd_storesOk (space : Space) (f : RegF) (s : State) (oks : s.StoresOk) : OutOk (execTagrd space f s) :=
  State.act_storesOk _ _ _ _ oks fun _ => State.reach_storesOk _ _ _ _ _ _ _ _ _ oks fun _ _ ok => State.finishLong_storesOk _ _ _ _ _ ok

theorem execTagwr_storesOk (space : Space) (f : RegF) (s : State) (oks : s.StoresOk) : OutOk (execTagwr space f s) :=
  State.act_storesOk _ _ _ _ oks fun _ => State.reach_storesOk _ _ _ _ _ _ _ _ _ oks fun _ _ ok =>
    State.serve_storesOk _ _ (State.finishLong_storesOk _ _ _ _ _ (State.setTag_storesOk _ _ _ ok))

theorem execAtomCas_storesOk (space : Space) (f : RegF) (s : State) (oks : s.StoresOk) : OutOk (execAtomCas space f s) :=
  atomOp_storesOk _ _ _ _ _ oks

theorem execAtomFadd_storesOk (space : Space) (f : RegF) (s : State) (oks : s.StoresOk) : OutOk (execAtomFadd space f s) :=
  atomOp_storesOk _ _ _ _ _ oks

/-! ### Reductions -/

theorem execRedflush_storesOk (f : RegF) (s : State) (oks : s.StoresOk) : OutOk (execRedflush f s) :=
  State.act_storesOk _ _ _ _ oks fun _ => State.flushThen_storesOk _ _ _ oks fun _ ok => ok

theorem execRedseal_storesOk (f : RegF) (s : State) (oks : s.StoresOk) : OutOk (execRedseal f s) :=
  State.act_storesOk _ _ _ _ oks fun _ => State.flushThen_storesOk _ _ _ oks fun _ ok =>
    State.reach_storesOk _ _ _ _ _ _ _ _ _ ok fun _ _ ok => by
      split
      · exact ok
      · split
        · exact State.trap_storesOk _ _ _ _ ok
        · exact foldl_storesOk _ _ _ (State.done_storesOk _ _ _ (State.updDie_storesOk _ _ _
          (State.wrNat_storesOk _ _ _ _ ok))) fun _ _ ok => ok

/-! ### Ordering and bindings -/

theorem execFence_storesOk (f : RegF) (s : State) (oks : s.StoresOk) : OutOk (execFence f s) :=
  State.act_storesOk _ _ _ _ oks fun _ => State.releaseFirst_storesOk _ _ _ oks fun _ ok => ok

theorem execAcq_storesOk (f : RegF) (s : State) (oks : s.StoresOk) : OutOk (execAcq f s) :=
  State.act_storesOk _ _ _ _ oks fun _ => State.object_storesOk _ _ _ _ _ oks fun _ _ ok => ok

theorem execRel_storesOk (f : RegF) (s : State) (oks : s.StoresOk) : OutOk (execRel f s) :=
  State.act_storesOk _ _ _ _ oks fun _ => by
    dsimp only
    split
    · exact State.object_storesOk _ _ _ _ _ oks fun _ _ ok => ok
    · exact State.releaseFirst_storesOk _ _ _ oks fun _ ok => State.object_storesOk _ _ _ _ _ ok fun _ _ ok => ok

theorem execBind_storesOk (f : RegF) (s : State) (oks : s.StoresOk) : OutOk (execBind f s) :=
  State.act_storesOk _ _ _ _ oks fun _ => State.object_storesOk _ _ _ _ _ oks fun _ _ ok => by
    split
    · exact State.done_storesOk _ _ _ (OptOk.of_eq ‹_› (State.tryBind_storesOk _ _ _ _ _ _ _ ok))
    · exact ok

theorem execUnbind_storesOk (f : RegF) (s : State) (oks : s.StoresOk) : OutOk (execUnbind f s) :=
  State.act_storesOk _ _ _ _ oks fun _ => State.object_storesOk _ _ _ _ _ oks fun _ _ ok => by
    dsimp only
    split
    · split <;> exact ok
    · split <;> exact ok

/-! ### Copies -/

theorem execCp_storesOk (f : RegF) (s : State) (oks : s.StoresOk) : OutOk (execCp f s) :=
  State.act_storesOk _ _ _ _ oks fun _ => by
    refine State.engineThen_storesOk _ _ _ oks ?_
    split
    · exact State.trap_storesOk _ _ _ _ oks
    · exact State.acquireFirst_storesOk _ _ _ _ oks fun _ ok => State.descriptor_storesOk _ _ _ _ _ _ ok fun _ _ ok => by
          split
          · exact State.trap_storesOk _ _ _ _ ok
          · exact State.acceptCopy_storesOk _ _ _ _ _ ok

theorem execGth_storesOk (f : RegF) (s : State) (oks : s.StoresOk) : OutOk (execGth f s) :=
  State.act_storesOk _ _ _ _ oks fun _ => by
    refine State.engineThen_storesOk _ _ _ oks ?_
    split
    · exact State.trap_storesOk _ _ _ _ oks
    · exact State.acquireFirst_storesOk _ _ _ _ oks fun _ ok => State.descriptor_storesOk _ _ _ _ _ _ ok fun _ _ ok => by
          split
          · exact State.trap_storesOk _ _ _ _ ok
          · exact State.acceptCopy_storesOk _ _ _ _ _ ok

theorem execCopyQueueWrite_storesOk (cid : Nat) (s : State) (oks : s.StoresOk) : OutOk (execCopyQueueWrite cid s) := by
  unfold execCopyQueueWrite
  split
  · exact oks
  · split
    · exact oks
    · split
      · exact oks
      · refine State.withDone_storesOk _ _ _ _ oks ?_
        split
        · exact State.endCmd_storesOk _ _ _ oks
        · split
          · exact State.stopCopy_storesOk _ _ _ oks
          · dsimp only
            split
            · exact State.stopCopy_storesOk _ _ _ oks
            · split
              · exact oks
              · exact State.copyEntries_storesOk _ _ _ _ _ _ oks

/-! ### Control -/

theorem execBra_storesOk (f : ImmF) (s : State) (oks : s.StoresOk) : OutOk (execBra f s) :=
  State.transfer_storesOk _ _ _ _ oks fun _ => oks

theorem execFbra_storesOk (f : ImmF) (s : State) (oks : s.StoresOk) : OutOk (execFbra f s) :=
  State.transfer_storesOk _ _ _ _ oks fun _ => oks

theorem execYield_storesOk (f : RegF) (s : State) (oks : s.StoresOk) : OutOk (execYield f s) :=
  State.transfer_storesOk _ _ _ _ oks fun _ => oks

theorem execBrx_storesOk (f : RegF) (s : State) (oks : s.StoresOk) : OutOk (execBrx f s) :=
  State.transfer_storesOk _ _ _ _ oks fun _ => State.checkTarget_storesOk _ _ _ _ oks fun _ ok => ok

theorem execCall_storesOk (f : ImmF) (s : State) (oks : s.StoresOk) : OutOk (execCall f s) :=
  State.transfer_storesOk _ _ _ _ oks fun _ => State.call_storesOk _ _ _ oks

theorem execCallx_storesOk (f : RegF) (s : State) (oks : s.StoresOk) : OutOk (execCallx f s) :=
  State.transfer_storesOk _ _ _ _ oks fun _ => State.checkTarget_storesOk _ _ _ _ oks fun _ ok => State.call_storesOk _ _ _ ok

theorem execRet_storesOk (f : RegF) (s : State) (oks : s.StoresOk) : OutOk (execRet f s) :=
  State.transfer_storesOk _ _ _ _ oks fun _ => by
    split
    · exact State.trap_storesOk _ _ _ _ oks
    · split
      · exact State.trap_storesOk _ _ _ _ oks
      · dsimp only
        split
        · exact oks
        · split
          · exact State.trap_storesOk _ _ _ _ oks
          · exact State.spillThen_storesOk _ _ _ _ _ _ oks fun _ _ ok => ok

theorem execRjmark_storesOk (f : RegF) (s : State) (oks : s.StoresOk) : OutOk (execRjmark f s) :=
  State.act_storesOk _ _ _ _ oks fun _ => by
    dsimp only
    split
    · split
      · exact State.done_storesOk _ _ _ (State.updGroup_storesOk _ _ _ (State.leaveSet_storesOk _ _ _ _ _ oks))
      · exact State.done_storesOk _ _ _ (State.leaveSet_storesOk _ _ _ _ _ oks)
    · exact oks

theorem execRjoin_storesOk (f : RegF) (s : State) (oks : s.StoresOk) : OutOk (execRjoin f s) :=
  State.transfer_storesOk _ _ _ _ oks fun _ => by
    dsimp only
    split
    · split
      · exact oks
      · exact State.rejoinCheck_storesOk _ _ _ oks
    · exact oks

theorem execExit_storesOk (f : RegF) (s : State) (oks : s.StoresOk) : OutOk (execExit f s) :=
  State.transfer_storesOk _ _ _ _ oks fun _ => by
    split
    · exact State.endLane_storesOk _ _ _ _ oks
    · exact State.asyncThen_storesOk _ _ _ oks (State.endSteward_storesOk _ _ oks)
    · split
      · exact State.endEstateHandler_storesOk _ _ _ oks
      · dsimp only
        split
        · exact State.endLane_storesOk _ _ _ _ (State.freeSlot_storesOk _ _ _ oks)
        · exact State.endSteward_storesOk _ _ (State.freeSlot_storesOk _ _ _ oks)
        · exact State.freeSlot_storesOk _ _ _ oks
    · exact oks

theorem execYieldExpiry_storesOk (w : Who) (s : State) (oks : s.StoresOk) : OutOk (execYieldExpiry w s) := by
  unfold execYieldExpiry
  split
  · split <;> exact oks
  · exact oks

theorem execTrap_storesOk (f : RegF) (s : State) (oks : s.StoresOk) : OutOk (execTrap f s) :=
  State.act_storesOk _ _ _ _ oks fun _ => State.trap_storesOk _ _ _ _ oks

theorem execTret_storesOk (f : RegF) (s : State) (oks : s.StoresOk) : OutOk (execTret f s) :=
  State.transfer_storesOk _ _ _ _ oks fun _ => by
    split
    · exact State.flushThen_storesOk _ _ _ oks fun _ ok => by
          split
          · exact State.tret_storesOk _ _ _ ok
          · exact State.endEstateHandler_storesOk _ _ _ ok
    · exact State.trap_storesOk _ _ _ _ oks

/-! ### System instructions -/

theorem execMfsr_storesOk (f : RegF) (s : State) (oks : s.StoresOk) : OutOk (execMfsr f s) :=
  State.act_storesOk _ _ _ _ oks fun _ => by
    dsimp only
    split
    · exact oks
    · split
      · exact State.trap_storesOk _ _ _ _ oks
      · split
        · exact oks
        · split
          · exact oks
          · exact State.trap_storesOk _ _ _ _ oks

theorem execMtsr_storesOk (f : RegF) (s : State) (oks : s.StoresOk) : OutOk (execMtsr f s) :=
  State.act_storesOk _ _ _ _ oks fun _ => by
    dsimp only
    split
    · exact State.trap_storesOk _ _ _ _ oks
    · split
      · exact oks
      · split
        · exact oks
        · exact State.trap_storesOk _ _ _ _ oks

/-! ### Groups and their stewards -/

theorem execDqpush_storesOk (f : RegF) (s : State) (oks : s.StoresOk) : OutOk (execDqpush f s) :=
  State.act_storesOk _ _ _ _ oks fun _ => by
    split
    · exact State.performThen_storesOk _ _ _ oks fun _ ok => by
          split
          · exact State.parkFor_storesOk _ _ _ ok
          · exact State.promptPops_storesOk _ _ ok
    · exact oks

theorem execDqpop_storesOk (f : RegF) (s : State) (oks : s.StoresOk) : OutOk (execDqpop f s) :=
  State.act_storesOk _ _ _ _ oks fun _ => by
    dsimp only
    split
    · exact State.trap_storesOk _ _ _ _ oks
    · split
      · exact State.dqRetire_storesOk _ _ (State.updGroup_storesOk _ _ _ (State.finishLong_storesOk _ _ _ _ _ oks))
      · split
        · exact State.openWindow_storesOk _ _ _ _ _ _ oks
        · exact State.trap_storesOk _ _ _ _ oks

theorem execNbar_storesOk (f : RegF) (s : State) (oks : s.StoresOk) : OutOk (execNbar f s) :=
  State.act_storesOk _ _ _ _ oks fun _ => State.asyncThen_storesOk _ _ _ oks (State.performThen_storesOk _ _ _ oks fun _ ok =>
    State.arriveBarrier_storesOk _ _ _ _ ok)

theorem execNbw_storesOk (f : RegF) (s : State) (oks : s.StoresOk) : OutOk (execNbw f s) :=
  State.act_storesOk _ _ _ _ oks fun _ => State.releaseFirst_storesOk _ _ _ oks fun _ ok => State.arriveBarrier_storesOk _ _ _ _ ok

theorem execGrjoin_storesOk (f : RegF) (s : State) (oks : s.StoresOk) : OutOk (execGrjoin f s) :=
  State.act_storesOk _ _ _ _ oks fun _ => by
    dsimp only
    split
    · exact oks
    · split
      · exact oks
      · split <;> exact oks

theorem execGrleave_storesOk (f : RegF) (s : State) (oks : s.StoresOk) : OutOk (execGrleave f s) :=
  State.act_storesOk _ _ _ _ oks fun _ => by
    split
    · exact oks
    · split
      · exact oks
      · split
        · exact State.waitFor_storesOk _ _ _ oks
        · exact oks

theorem execCrbeg_storesOk (f : ImmF) (s : State) (oks : s.StoresOk) : OutOk (execCrbeg f s) :=
  State.act_storesOk _ _ _ _ oks fun _ => by
    dsimp only
    split
    · exact oks
    · split
      · exact State.trap_storesOk _ _ _ _ oks
      · split
        · split
          · exact State.trap_storesOk _ _ _ _ oks
          · split
            · exact State.trap_storesOk _ _ _ _ oks
            · exact oks
        · split
          · exact State.trap_storesOk _ _ _ _ oks
          · split
            · exact State.trap_storesOk _ _ _ _ oks
            · exact oks

theorem execCrend_storesOk (f : RegF) (s : State) (oks : s.StoresOk) : OutOk (execCrend f s) :=
  State.act_storesOk _ _ _ _ oks fun _ => by
    split
    · exact State.trap_storesOk _ _ _ _ oks
    · split
      · exact State.trap_storesOk _ _ _ _ oks
      · exact oks

theorem execSysrpc_storesOk (f : RegF) (s : State) (oks : s.StoresOk) : OutOk (execSysrpc f s) :=
  State.act_storesOk _ _ _ _ oks fun _ => by
    dsimp only
    split
    · exact State.trap_storesOk _ _ _ _ oks
    · exact State.releaseFirst_storesOk _ _ _ oks fun _ ok => by
          split
          · exact State.trap_storesOk _ _ _ _ ok
          · split
            · exact State.waitFor_storesOk _ _ _ ok
            · split
              · exact State.consume_storesOk _ _ _ _ _ _ (FstOk.of_eq ‹_› (State.readFor_storesOk _ _ _ _ _ ok))
              · split
                · exact State.waitTag_storesOk _ _ _ _ _ _ _ _ (FstOk.of_eq ‹_› (State.readFor_storesOk _ _ _ _ _ ok))
                · exact State.serve_storesOk _ _ (State.finishLong_storesOk _ _ _ _ _ (FstOk.fst
                    (State.post_storesOk _ _ _ _ _ _ _ _ _ (FstOk.of_eq ‹_› (State.readFor_storesOk _ _ _ _ _ ok)))))

theorem execKick_storesOk (f : RegF) (s : State) (oks : s.StoresOk) : OutOk (execKick f s) :=
  State.act_storesOk _ _ _ _ oks fun _ => by
    dsimp only
    split
    · exact State.trap_storesOk _ _ _ _ oks
    · exact State.releaseFirst_storesOk _ _ _ oks fun _ ok =>
        State.done_storesOk _ _ _ (FstOk.fst (State.kickWrite_storesOk _ _ _ _ ok))

theorem execDiagInj_storesOk (f : RegF) (s : State) (oks : s.StoresOk) : OutOk (execDiagInj f s) :=
  State.act_storesOk _ _ _ _ oks fun _ => by
    split
    · exact State.trap_storesOk _ _ _ _ oks
    · dsimp only
      split
      · exact State.trap_storesOk _ _ _ _ oks
      · exact State.spanThen_storesOk _ _ _ _ _ _ oks (State.arrayIssue_storesOk _ _ _ _ _ _ oks)

/-! ### Windows -/

theorem execWrecv_storesOk (f : RegF) (s : State) (oks : s.StoresOk) : OutOk (execWrecv f s) :=
  State.act_storesOk _ _ _ _ oks fun _ => by
    split
    · exact State.trap_storesOk _ _ _ _ oks
    · split
      · exact State.trap_storesOk _ _ _ _ oks
      · split
        · exact State.openWindow_storesOk _ _ _ _ _ _ oks
        · exact State.prompt_storesOk _ _ _ (State.finishLong_storesOk _ _ _ _ _ oks)

theorem execWemit_storesOk (f : RegF) (s : State) (oks : s.StoresOk) : OutOk (execWemit f s) :=
  State.act_storesOk _ _ _ _ oks fun _ => by
    split
    · exact State.trap_storesOk _ _ _ _ oks
    · split
      · exact State.trap_storesOk _ _ _ _ oks
      · exact State.releaseFirst_storesOk _ _ _ oks fun _ ok => by
            split
            · exact State.trap_storesOk _ _ _ _ ok
            · split
              · exact State.emitPane_storesOk _ _ _ _ _ _ ok
              · exact State.emitSink_storesOk _ _ _ _ _ _ _ ok

theorem execWclose_storesOk (f : RegF) (s : State) (oks : s.StoresOk) : OutOk (execWclose f s) :=
  State.act_storesOk _ _ _ _ oks fun _ => by
    split
    · exact State.trap_storesOk _ _ _ _ oks
    · exact State.done_storesOk _ _ _ (State.closeWin_storesOk _ _ _ oks)

theorem execWcloseId_storesOk (f : RegF) (s : State) (oks : s.StoresOk) : OutOk (execWcloseId f s) :=
  State.act_storesOk _ _ _ _ oks fun _ => by
    split
    · exact State.trap_storesOk _ _ _ _ oks
    · split
      · exact oks
      · exact State.done_storesOk _ _ _ (State.closeWin_storesOk _ _ _ oks)

theorem execWcloseEnd_storesOk (f : RegF) (s : State) (oks : s.StoresOk) : OutOk (execWcloseEnd f s) :=
  State.act_storesOk _ _ _ _ oks fun _ => by
    split
    · exact State.trap_storesOk _ _ _ _ oks
    · dsimp only
      refine State.done_storesOk _ _ _ ?_
      split <;> exact oks

theorem execWmret_storesOk (f : RegF) (s : State) (oks : s.StoresOk) : OutOk (execWmret f s) :=
  State.act_storesOk _ _ _ _ oks fun _ => by
    split
    · split
      · exact State.trap_storesOk _ _ _ _ oks
      · split
        · exact State.trap_storesOk _ _ _ _ oks
        · exact State.prompt_storesOk _ _ _ oks
    · exact State.trap_storesOk _ _ _ _ oks

theorem execWtimer_storesOk (f : RegF) (s : State) (oks : s.StoresOk) : OutOk (execWtimer f s) :=
  State.act_storesOk _ _ _ _ oks fun _ => by
    split
    · exact State.trap_storesOk _ _ _ _ oks
    · dsimp only
      split
      · exact oks
      · split
        · exact State.append_storesOk _ _ _ _ oks
        · exact oks

theorem execWstat_storesOk (f : RegF) (s : State) (oks : s.StoresOk) : OutOk (execWstat f s) :=
  State.act_storesOk _ _ _ _ oks fun _ => by
    split
    · exact State.trap_storesOk _ _ _ _ oks
    · dsimp only
      split
      · exact State.trap_storesOk _ _ _ _ oks
      · exact oks

/-! ### The estate -/

theorem execHoldLock_storesOk (f : RegF) (s : State) (oks : s.StoresOk) : OutOk (execHoldLock f s) :=
  State.act_storesOk _ _ _ _ oks fun _ => State.holdWord_storesOk _ _ _ _ oks

theorem execHoldSlot_storesOk (f : RegF) (s : State) (oks : s.StoresOk) : OutOk (execHoldSlot f s) :=
  State.act_storesOk _ _ _ _ oks fun _ => by
    dsimp only
    split
    · exact oks
    · split
      · split
        · exact oks
        · split
          · exact oks
          · exact State.done_storesOk _ _ _ (State.putEntry_storesOk _ _ _ _ oks)
      · exact oks

theorem execHoldCopy_storesOk (f : RegF) (s : State) (oks : s.StoresOk) : OutOk (execHoldCopy f s) :=
  State.act_storesOk _ _ _ _ oks fun _ => State.estate_storesOk _ _ _ _ _ oks fun _ _ _ _ _ ok => by
    dsimp only
    split
    · split
      · exact ok
      · exact State.done_storesOk _ _ _ (State.putEntry_storesOk _ _ _ _ ok)
    · exact ok

theorem execHeir_storesOk (f : RegF) (s : State) (oks : s.StoresOk) : OutOk (execHeir f s) :=
  State.act_storesOk _ _ _ _ oks fun _ => State.estate_storesOk _ _ _ _ _ oks fun _ _ _ _ _ ok => by
    dsimp only
    split
    · split
      · exact ok
      · exact State.done_storesOk _ _ _ (State.putEntry_storesOk _ _ _ _ ok)
    · exact ok

theorem execHeirSlot_storesOk (f : RegF) (s : State) (oks : s.StoresOk) : OutOk (execHeirSlot f s) :=
  State.act_storesOk _ _ _ _ oks fun _ => by
    dsimp only
    split
    · exact oks
    · split
      · split
        · exact oks
        · exact State.done_storesOk _ _ _ (State.putEntry_storesOk _ _ _ _ oks)
      · exact oks

theorem execHeirGrp_storesOk (f : RegF) (s : State) (oks : s.StoresOk) : OutOk (execHeirGrp f s) :=
  State.act_storesOk _ _ _ _ oks fun _ => by
    dsimp only
    split <;> exact oks

theorem execDrop_storesOk (f : RegF) (s : State) (oks : s.StoresOk) : OutOk (execDrop f s) :=
  State.act_storesOk _ _ _ _ oks fun _ => State.beforeFill_storesOk _ _ _ _ _ oks fun _ ok =>
    State.estate_storesOk _ _ _ _ _ ok fun _ _ _ _ _ ok => by
      split
      · split
        · exact ok
        · split
          · exact State.fillEntry_storesOk _ _ _ _ _ ok
          · exact ok
          · exact State.done_storesOk _ _ _ (State.retireEntry_storesOk _ _ _ ok)
      · exact ok

theorem execDropSlot_storesOk (f : RegF) (s : State) (oks : s.StoresOk) : OutOk (execDropSlot f s) :=
  State.act_storesOk _ _ _ _ oks fun _ => by
    dsimp only
    split
    · exact oks
    · split
      · exact oks
      · split
        · exact oks
        · refine State.done_storesOk _ _ _ ?_
          split
          · exact State.retireEntry_storesOk _ _ _ (State.unreserve_storesOk _ _ _ oks)
          · exact State.putEntry_storesOk _ _ _ _ (State.unreserve_storesOk _ _ _ oks)

theorem execPromise_storesOk (f : RegF) (s : State) (oks : s.StoresOk) : OutOk (execPromise f s) :=
  State.act_storesOk _ _ _ _ oks fun _ => State.holdWord_storesOk _ _ _ _ oks

theorem execFulfil_storesOk (f : RegF) (s : State) (oks : s.StoresOk) : OutOk (execFulfil f s) :=
  State.act_storesOk _ _ _ _ oks fun _ => State.beforeFill_storesOk _ _ _ _ _ oks fun _ ok =>
    State.estate_storesOk _ _ _ _ _ ok fun _ _ _ _ _ ok => by
      split
      · split
        · exact State.fillEntry_storesOk _ _ _ _ _ ok
        · exact ok
      · exact ok

/-! ### Quasi-random points -/

theorem execQrld_storesOk (f : RegF) (s : State) (oks : s.StoresOk) : OutOk (execQrld f s) :=
  State.act_storesOk _ _ _ _ oks fun _ => State.quasiThen_storesOk _ _ _ oks fun _ _ => by
    dsimp only
    split
    · exact State.trap_storesOk _ _ _ _ oks
    · split
      · exact State.waitFor_storesOk _ _ _ oks
      · split
        · exact State.wakeQuasi_storesOk _ _ (State.xfail_storesOk _ _ _ _ _ _ _ _ (State.setQru_storesOk _ _ _ oks))
        · exact State.parkFault_storesOk _ _ _ _ _ _ _ _ _ oks
        · split
          · exact State.wakeQuasi_storesOk _ _ (State.consume_storesOk _ _ _ _ _ _ (State.setQru_storesOk _ _ _ (FstOk.of_eq ‹_›
            (State.readTable_storesOk _ _ _ _ _ _ oks))))
          · exact State.loadWindow_storesOk _ _ _ _ _ _ _ (FstOk.of_eq ‹_› (State.readTable_storesOk _ _ _ _ _ _ oks))

theorem execQrseed_storesOk (f : RegF) (s : State) (oks : s.StoresOk) : OutOk (execQrseed f s) :=
  State.act_storesOk _ _ _ _ oks fun _ => State.quasiThen_storesOk _ _ _ oks fun _ _ => by
    dsimp only
    split
    · exact State.trap_storesOk _ _ _ _ oks
    · exact State.finishLong_storesOk _ _ _ _ _ (State.wrNat_storesOk _ _ _ _ oks)

theorem execQrseedKey_storesOk (f : RegF) (s : State) (oks : s.StoresOk) : OutOk (execQrseedKey f s) :=
  State.act_storesOk _ _ _ _ oks fun _ => State.quasiThen_storesOk _ _ _ oks fun _ _ =>
    State.finishLong_storesOk _ _ _ _ _ (State.setQru_storesOk _ _ _ (State.deriveSeeds_storesOk _ _ _ _ _ oks))

theorem execQrpt_storesOk (f : RegF) (s : State) (oks : s.StoresOk) : OutOk (execQrpt f s) :=
  State.act_storesOk _ _ _ _ oks fun _ => State.quasiThen_storesOk _ _ _ oks fun _ _ => by
    dsimp only
    split
    · exact State.trap_storesOk _ _ _ _ oks
    · exact State.finishLong_storesOk _ _ _ _ _ oks

theorem execQrpt4_storesOk (f : RegF) (s : State) (oks : s.StoresOk) : OutOk (execQrpt4 f s) :=
  State.act_storesOk _ _ _ _ oks fun _ => State.quasiThen_storesOk _ _ _ oks fun _ _ => by
    dsimp only
    split
    · exact State.trap_storesOk _ _ _ _ oks
    · exact State.finishLong_storesOk _ _ _ _ _ oks

theorem execQrf_storesOk (f : RegF) (s : State) (oks : s.StoresOk) : OutOk (execQrf f s) :=
  State.act_storesOk _ _ _ _ oks fun _ => State.quasiThen_storesOk _ _ _ oks fun _ _ => by
    dsimp only
    split
    · exact State.trap_storesOk _ _ _ _ oks
    · exact State.finishLong_storesOk _ _ _ _ _ oks

theorem execQrhash_storesOk (f : RegF) (s : State) (oks : s.StoresOk) : OutOk (execQrhash f s) :=
  State.act_storesOk _ _ _ _ oks fun _ => State.finishLong_storesOk _ _ _ _ _ oks

theorem execQrhashK_storesOk (f : RegF) (s : State) (oks : s.StoresOk) : OutOk (execQrhashK f s) :=
  State.act_storesOk _ _ _ _ oks fun _ => State.finishLong_storesOk _ _ _ _ _ oks

/-! ### Queues, arrays and collectives -/

theorem execQcset_storesOk (f : RegF) (s : State) (oks : s.StoresOk) : OutOk (execQcset f s) :=
  State.arrayAct_storesOk _ _ _ oks fun _ _ => by
    dsimp only
    split
    · exact State.waitFor_storesOk _ _ _ oks
    · split
      · exact State.done_storesOk _ _ _ (State.updGroup_storesOk _ _ _ (State.retireSlots_storesOk _ _ _ oks))
      · split
        · exact State.trap_storesOk _ _ _ _ oks
        · split
          · exact State.trap_storesOk _ _ _ _ oks
          · exact State.done_storesOk _ _ _ (State.updGroup_storesOk _ _ _ (State.retireSlots_storesOk _ _ _ oks))

theorem execMzero_storesOk (f : RegF) (s : State) (oks : s.StoresOk) : OutOk (execMzero f s) :=
  State.arrayAct_storesOk _ _ _ oks fun _ _ => State.spanThen_storesOk _ _ _ _ _ _ oks (State.arrayIssue_storesOk _ _ _ _ _ _ oks)

theorem execMma_storesOk (f : RegF) (s : State) (oks : s.StoresOk) : OutOk (execMma f s) :=
  State.arrayAct_storesOk _ _ _ oks fun _ _ => by
    dsimp only
    refine State.spanThen_storesOk _ _ _ _ _ _ oks ?_
    split
    · exact State.trap_storesOk _ _ _ _ oks
    · split
      · exact State.trap_storesOk _ _ _ _ oks
      · exact State.arrayIssue_storesOk _ _ _ _ _ _ oks

theorem execMdrain_storesOk (f : RegF) (s : State) (oks : s.StoresOk) : OutOk (execMdrain f s) :=
  State.arrayAct_storesOk _ _ _ oks fun _ _ => by
    dsimp only
    refine State.spanThen_storesOk _ _ _ _ _ _ oks ?_
    split
    · exact State.trap_storesOk _ _ _ _ oks
    · split
      · exact State.trap_storesOk _ _ _ _ oks
      · split
        · exact State.trap_storesOk _ _ _ _ oks
        · split
          · exact State.waitFor_storesOk _ _ _ oks
          · exact State.arrayIssue_storesOk _ _ _ _ _ _ oks

theorem execEpld_storesOk (f : RegF) (s : State) (oks : s.StoresOk) : OutOk (execEpld f s) :=
  State.arrayAct_storesOk _ _ _ oks fun _ _ => by
    dsimp only
    refine State.spanThen_storesOk _ _ _ _ _ _ oks ?_
    split
    · exact State.trap_storesOk _ _ _ _ oks
    · split
      · exact State.trap_storesOk _ _ _ _ oks
      · split
        · exact State.trap_storesOk _ _ _ _ oks
        · exact State.programWords_storesOk _ _ _ _ _ _ oks fun _ _ ok => by
              split
              · exact State.trap_storesOk _ _ _ _ ok
              · split
                · exact State.trap_storesOk _ _ _ _ ok
                · exact State.arrayIssue_storesOk _ _ _ _ _ _ ok

theorem execCpb_storesOk (f : RegF) (s : State) (oks : s.StoresOk) : OutOk (execCpb f s) :=
  State.arrayAct_storesOk _ _ _ oks fun _ _ => State.acquireFirst_storesOk _ _ _ _ oks fun _ ok =>
    State.descriptor_storesOk _ _ _ _ _ _ ok fun _ _ ok => by
      split
      · exact State.trap_storesOk _ _ _ _ ok
      · refine State.spanThen_storesOk _ _ _ _ _ _ ok ?_
        split
        split
        · exact State.trap_storesOk _ _ _ _ ok
        · exact State.acceptFill_storesOk _ _ _ _ _ _ ok

theorem execColl_storesOk (f : RegF) (s : State) (oks : s.StoresOk) : OutOk (execColl f s) :=
  State.arrayAct_storesOk _ _ _ oks fun _ _ => State.acquireFirst_storesOk _ _ _ _ oks fun _ ok =>
    State.descriptor_storesOk _ _ _ _ _ _ ok fun _ _ ok => by
      split
      · exact State.trap_storesOk _ _ _ _ ok
      · split
        · exact State.trap_storesOk _ _ _ _ ok
        · exact State.joinColl_storesOk _ _ _ _ _ _ ok

/-! ### Device-side launch -/

theorem execLaunch_storesOk (f : RegF) (s : State) (oks : s.StoresOk) : OutOk (execLaunch f s) :=
  State.act_storesOk _ _ _ _ oks fun _ => State.asyncThen_storesOk _ _ _ oks (State.acquireFirst_storesOk _ _ _ _ oks fun _ ok =>
    State.launchOp_storesOk _ _ _ _ ok)

theorem execLaunchEst_storesOk (f : RegF) (s : State) (oks : s.StoresOk) : OutOk (execLaunchEst f s) :=
  State.act_storesOk _ _ _ _ oks fun _ => State.asyncThen_storesOk _ _ _ oks (State.acquireFirst_storesOk _ _ _ _ oks fun _ ok =>
    State.launchOp_storesOk _ _ _ _ ok)

/-! ### Clocks, results and fault records -/

theorem execWaveIssue_storesOk (s : State) (oks : s.StoresOk) : OutOk (execWaveIssue s) := by
  have ok := State.issueAll_storesOk _ (State.newClock_storesOk _ oks)
  unfold execWaveIssue
  dsimp only
  generalize s.newClock.issueAll = p at ok ⊢
  exact ok

theorem execLongLatencyCompletion_storesOk (w : Who) (s : State) (oks : s.StoresOk) : OutOk (execLongLatencyCompletion w s) := by
  unfold execLongLatencyCompletion
  split
  · exact oks
  · split <;> exact oks

theorem execReductionDrain_storesOk (core quarter : Nat) (s : State) (oks : s.StoresOk) : OutOk (execReductionDrain core quarter s) :=
  State.drainAgain_storesOk _ _ _ (State.unhold_storesOk _ _ _ oks)

theorem execResolveRetry_storesOk (part die : Nat) (seq : BitVec 32) (s : State) (oks : s.StoresOk) :
    OutOk (execResolveRetry part die seq s) :=
  State.resolve_storesOk _ _ _ _ _ _ oks fun _ _ _ ok => State.retryReq_storesOk _ _ _ ok

theorem execResolveTrap_storesOk (part die : Nat) (seq : BitVec 32) (s : State) (oks : s.StoresOk) :
    OutOk (execResolveTrap part die seq s) :=
  State.resolve_storesOk _ _ _ _ _ _ oks fun _ _ _ ok => State.trapReq_storesOk _ _ _ ok

theorem execResolveKill_storesOk (part die : Nat) (seq : BitVec 32) (s : State) (oks : s.StoresOk) :
    OutOk (execResolveKill part die seq s) :=
  State.resolve_storesOk _ _ _ _ _ _ oks fun _ _ _ ok => State.killReq_storesOk _ _ _ ok

/-! ### Handlers, ends and unwinds -/

theorem execHandlerStart_storesOk (core : Nat) (s : State) (oks : s.StoresOk) : OutOk (execHandlerStart core s) := by
  unfold execHandlerStart
  split
  · exact State.raise_storesOk _ _ (State.startHandler_storesOk _ _ _ _ oks)
  · exact oks
  · exact oks

theorem execEstateHandlerStart_storesOk (core : Nat) (s : State) (oks : s.StoresOk) : OutOk (execEstateHandlerStart core s) := by
  unfold execEstateHandlerStart
  split
  · exact State.raise_storesOk _ _ (State.startReport_storesOk _ _ _ _ oks)
  · exact oks
  · exact oks

theorem execGroupEnd_storesOk (gid : Nat) (s : State) (oks : s.StoresOk) : OutOk (execGroupEnd gid s) := by
  unfold execGroupEnd
  split
  · exact oks
  · split
    · exact State.freeGroup_storesOk _ _ oks
    · split
      · exact oks
      · dsimp only
        split
        · exact State.cancelAll_storesOk _ _ (State.updGroup_storesOk _ _ _ (State.markEnds_storesOk _ oks))
        · split
          · exact State.cancelAll_storesOk _ _ (State.updGroup_storesOk _ _ _ (State.markEnds_storesOk _ oks))
          · exact State.endGroup_storesOk _ _ _ (State.cancelAll_storesOk _ _ (State.updGroup_storesOk _ _ _
            (State.markEnds_storesOk _ oks)))

theorem execContainmentUnwind_storesOk (gid epoch : Nat) (who : Who) (oid : Nat) (cause : BitVec 32) (addr : BitVec 64)
    (s : State) (oks : s.StoresOk) : OutOk (execContainmentUnwind gid epoch who oid cause addr s) := by
  unfold execContainmentUnwind
  split
  · exact State.trapConsumer_storesOk _ _ _ _ _ oks
  · split
    · exact oks
    · split
      · refine State.goOnUnwind_storesOk _ _ ?_
        split
        · exact oks
        · exact State.stopForUnwind_storesOk _ _ _ _ _ oks
      · split
        · exact State.asyncFault_storesOk _ _ _ _ oks
        · exact State.trapConsumer_storesOk _ _ _ _ _ oks

/-! ### Saves, placement and launches -/

theorem execGroupSave_storesOk (gid : Nat) (s : State) (oks : s.StoresOk) : OutOk (execGroupSave gid s) := by
  unfold execGroupSave
  split
  · exact oks
  · dsimp only
    split
    · exact oks
    · split
      · exact oks
      · exact State.goOnSave_storesOk _ _ _ (State.stopForSave_storesOk _ _ oks)

theorem execGroupRestore_storesOk (gid : Nat) (s : State) (oks : s.StoresOk) : OutOk (execGroupRestore gid s) := by
  unfold execGroupRestore
  split
  · exact oks
  · split
    · exact oks
    · split
      · exact oks
      · split
        dsimp only
        refine State.askPlacement_storesOk _ ?_
        refine foldl_storesOk _ _ _ ?_ fun _ _ ok => State.restoreRest_storesOk _ _ _ _ _ ok
        refine FstOk.of_eq ‹_› ?_
        exact foldl_fst_storesOk _ _ _ oks fun _ _ ok => by
            split
            exact FstOk.of_eq ‹_› (State.restoreOne_storesOk _ _ _ _ _ (State.takeCore_storesOk _ _ (FstOk.fst ok)))

theorem execPreemptionTimeout_storesOk (die lid : Nat) (s : State) (oks : s.StoresOk) : OutOk (execPreemptionTimeout die lid s) := by
  unfold execPreemptionTimeout
  split
  · exact oks
  · split
    · exact oks
    · split
      · exact oks
      · exact State.vacateCores_storesOk _ _ _ oks

theorem execGroupPlacement_storesOk (die : Nat) (s : State) (oks : s.StoresOk) : OutOk (execGroupPlacement die s) := by
  unfold execGroupPlacement
  split
  · exact oks
  · exact State.dispatch_storesOk _ _ _ oks

theorem execLaunchComplete_storesOk (lid : Nat) (s : State) (oks : s.StoresOk) : OutOk (execLaunchComplete lid s) := by
  unfold execLaunchComplete
  split
  · exact oks
  · split
    · exact oks
    · split
      · exact oks
      · exact State.endLaunch_storesOk _ _ _ _ oks

theorem execReplayStart_storesOk (die : Nat) (s : State) (oks : s.StoresOk) : OutOk (execReplayStart die s) := by
  unfold execReplayStart
  split
  · exact oks
  · split
    dsimp only
    split
    · split <;> exact oks
    · split
      · refine State.replay_storesOk _ _ _ _ ?_
        split <;> exact oks
      · refine State.raise_storesOk _ _ ?_
        refine State.replay_storesOk _ _ _ _ ?_
        split <;> exact oks

theorem execNodeStart_storesOk (die graph node : Nat) (s : State) (oks : s.StoresOk) : OutOk (execNodeStart die graph node s) := by
  unfold execNodeStart
  split
  · exact oks
  · split
    · exact oks
    · split
      · exact oks
      · split
        · exact oks
        · exact State.startNode_storesOk _ _ _ _ _ _ oks

/-! ### Array commands -/

theorem execArrayCommandStart_storesOk (core half : Nat) (s : State) (oks : s.StoresOk) : OutOk (execArrayCommandStart core half s) := by
  unfold execArrayCommandStart
  split
  · exact oks
  · split
    · exact State.startMx_storesOk _ _ _ oks
    · exact oks

theorem execMmaKgroupStep_storesOk (core half : Nat) (s : State) (oks : s.StoresOk) : OutOk (execMmaKgroupStep core half s) := by
  unfold execMmaKgroupStep
  split
  · exact oks
  · split
    · exact State.mmaStep_storesOk _ _ _ _ _ _ _ _ _ _ oks
    · exact oks

theorem execDrainOutputEntry_storesOk (core half : Nat) (s : State) (oks : s.StoresOk) : OutOk (execDrainOutputEntry core half s) := by
  unfold execDrainOutputEntry
  split
  · exact oks
  · split
    · exact oks
    · split
      · split
        · exact oks
        · exact State.drainOutput_storesOk _ _ _ _ _ _ _ _ _ oks
      · exact oks

theorem execCollectiveRun_storesOk (cid : Nat) (s : State) (oks : s.StoresOk) : OutOk (execCollectiveRun cid s) := by
  unfold execCollectiveRun
  split
  · exact oks
  · split
    · exact oks
    · dsimp only
      split
      · exact State.serve_storesOk _ _ (FstOk.fst (State.failColl_storesOk _ _ _ _ oks))
      · split
        · split
          · exact oks
          · split
            · exact State.park_storesOk _ _ _ _ _ _ _ _ _ oks
            · exact State.collGo_storesOk _ _ _ _ oks
        · split
          · exact oks
          · split
            · exact State.park_storesOk _ _ _ _ _ _ _ _ _ oks
            · exact State.collGo_storesOk _ _ _ _ oks

/-! ### The reeve -/

theorem execRecordPlacement_storesOk (qid : Nat) (s : State) (oks : s.StoresOk) : OutOk (execRecordPlacement qid s) := by
  unfold execRecordPlacement
  split
  · exact oks
  · split
    · exact oks
    · split
      · exact State.refill_storesOk _ _ (State.placeFirst_storesOk _ _ _ _ _ oks)
      · exact oks

theorem execMerge_storesOk (qid : Nat) (s : State) (oks : s.StoresOk) : OutOk (execMerge qid s) := by
  unfold execMerge
  split
  · exact oks
  · split
    · exact oks
    · split
      · split
        · exact oks
        · split
          · exact State.restoreWin_storesOk _ _ _ oks
          · split
            · exact oks
            · split
              · exact oks
              · split
                · exact oks
                · exact State.mergeNow_storesOk _ _ _ _ _ _ _ oks
      · exact State.mergeAgain_storesOk _ _ _ _ oks

theorem execPaneRecordMulticast_storesOk (qid : Nat) (s : State) (oks : s.StoresOk) : OutOk (execPaneRecordMulticast qid s) := by
  unfold execPaneRecordMulticast
  split
  · exact oks
  · split
    · exact oks
    · dsimp only
      split
      · exact State.updQuery_storesOk _ _ _ (foldl_storesOk _ _ _ oks fun _ _ ok => State.appendRec_storesOk _ _ _ _ ok)
      · exact State.askQueryEnd_storesOk _ _ (State.releaseCloses_storesOk _ _ (State.updQuery_storesOk _ _ _
        (foldl_storesOk _ _ _ oks fun _ _ ok => State.appendRec_storesOk _ _ _ _ ok)))

theorem execBellWheelDue_storesOk (qid wid : Nat) (s : State) (oks : s.StoresOk) : OutOk (execBellWheelDue qid wid s) := by
  unfold execBellWheelDue
  split
  · exact oks
  · split
    · exact oks
    · dsimp only
      refine State.timerDue_storesOk _ _ _ ?_
      split
      · exact State.closeWin_storesOk _ _ _ oks
      · exact oks

theorem execStreamEnd_storesOk (qid : Nat) (s : State) (oks : s.StoresOk) : OutOk (execStreamEnd qid s) := by
  unfold execStreamEnd
  split
  · exact oks
  · split
    · exact oks
    · exact State.askQueryEnd_storesOk _ _ (State.closeAll_storesOk _ _ _ (State.updQuery_storesOk _ _ _ (State.flushBatch_storesOk _ _
      (State.refill_storesOk _ _ oks))))

theorem execScanRead_storesOk (qid : Nat) (s : State) (oks : s.StoresOk) : OutOk (execScanRead qid s) := by
  unfold execScanRead
  split
  · exact oks
  · split
    · exact oks
    · split
      · exact oks
      · split
        · exact oks
        · split
          · exact oks
          · exact State.scanRecord_storesOk _ _ _ _ oks

theorem execRecordFrame_storesOk (h : MsgHdr) (die : Nat) (streamNo : BitVec 16) (recs : List FrameRec) (s : State) (oks : s.StoresOk) :
    OutOk (execRecordFrame h die streamNo recs s) := by
  unfold execRecordFrame
  split
  · exact oks
  · split
    · exact State.log_storesOk _ _ _ _ _ _ _ _ _ _ oks
    · exact State.refill_storesOk _ _ oks

/-! ### The network -/

theorem execLullEngage_storesOk (core quarter : Nat) (s : State) (oks : s.StoresOk) : OutOk (execLullEngage core quarter s) := by
  unfold execLullEngage
  dsimp only
  split <;> exact oks

theorem execLullRelease_storesOk (core quarter : Nat) (s : State) (oks : s.StoresOk) : OutOk (execLullRelease core quarter s) := by
  unfold execLullRelease
  split <;> exact oks

theorem execPacketInjection_storesOk (p : Packet) (s : State) (oks : s.StoresOk) : OutOk (execPacketInjection p s) := by
  unfold execPacketInjection
  split
  · exact oks
  · exact State.inject_storesOk _ _ oks

theorem execHamletReset_storesOk (router : Nat) (s : State) (oks : s.StoresOk) : OutOk (execHamletReset router s) :=
  StoresOk.mk_iff.2 (foldl_storesOk _ _ _ oks fun _ _ ok => State.killGroup_storesOk _ _ ok)

/-! ### The fleet -/

theorem execLaneRecalibration_storesOk (pair sublink dir lane : Nat) (pass : Bool) (s : State) (oks : s.StoresOk) :
    OutOk (execLaneRecalibration pair sublink dir lane pass s) := by
  unfold execLaneRecalibration
  split
  · exact State.recalibrate_storesOk _ _ _ _ _ _ oks
  · exact oks

theorem execImageSwitch_storesOk (target unit : Nat) (s : State) (oks : s.StoresOk) : OutOk (execImageSwitch target unit s) := by
  unfold execImageSwitch
  split
  · exact oks
  · dsimp only
    split
    · exact oks
    · split
      · exact oks
      · split
        · split <;> exact oks
        · exact State.switchUnit_storesOk _ _ _ _ oks

theorem execCoreRetirement_storesOk (core : Nat) (s : State) (oks : s.StoresOk) : OutOk (execCoreRetirement core s) := by
  unfold execCoreRetirement
  split
  · exact State.goOnRetiring_storesOk _ _ oks
  · split
    · exact oks
    · exact State.goOnRetiring_storesOk _ _ oks

theorem execLaneSwap_storesOk (die chan sub lane : Nat) (s : State) (oks : s.StoresOk) : OutOk (execLaneSwap die chan sub lane s) := by
  unfold execLaneSwap
  dsimp only
  split
  · exact oks
  · split
    · exact oks
    · split
      · split
        · exact oks
        · split
          · exact State.askPlacement_storesOk _ (State.wakeAll_storesOk _ _ oks)
          · exact State.log_storesOk _ _ _ _ _ _ _ _ _ _ (State.setLane_storesOk _ _ _ _ _ _ (State.setLane_storesOk _ _ _ _ _ _
              (State.askPlacement_storesOk _ (State.wakeAll_storesOk _ _ oks))))
      · exact oks
      · exact State.log_storesOk _ _ _ _ _ _ _ _ _ _ (State.setLane_storesOk _ _ _ _ _ _ oks)

theorem execSchedulerTakeover_storesOk (die reason : Nat) (s : State) (oks : s.StoresOk) : OutOk (execSchedulerTakeover die reason s) := by
  unfold execSchedulerTakeover
  dsimp only
  split
  · exact oks
  · split
    · split
      · exact oks
      · split
        · exact oks
        · exact State.endTakeover_storesOk _ _ _ _ oks
    · split
      · split
        · exact State.noScheduler_storesOk _ _ oks
        · exact oks
      · split
        · exact State.beginTakeover_storesOk _ _ _ _ oks
        · split
          · exact State.noScheduler_storesOk _ _ oks
          · exact oks

theorem execClockStep_storesOk (cause watts : Nat) (s : State) (oks : s.StoresOk) : OutOk (execClockStep cause watts s) := by
  unfold execClockStep
  split
  · exact oks
  · dsimp only
    split
    · split <;> exact oks
    · refine State.note_storesOk _ _ _ _ _ _ _ ?_
      refine StoresOk.mk_iff.2 ?_
      split <;> exact oks

theorem execThermalTrip_storesOk (s : State) (oks : s.StoresOk) : OutOk (execThermalTrip s) :=
  StoresOk.mk_iff.2 (foldl_storesOk _ _ _ (State.note_storesOk _ _ _ _ _ _ _ oks) fun _ _ ok => ok)

/-! ### Illegal words -/

theorem execIllegalEncoding_storesOk (c : IllCause) (_x : BitVec 64) (s : State) (oks : s.StoresOk) :
    OutOk (execIllegalEncoding c _x s) := by
  unfold execIllegalEncoding
  split
  · exact State.trap_storesOk _ _ _ _ oks
  · exact oks

/-! ### Procedures -/

theorem execOwn_storesOk (h : MsgHdr) (lease : BitVec 32) (s : State) (oks : s.StoresOk) : OutOk (execOwn h lease s) :=
  State.procedure_storesOk _ _ _ _ _ _ oks fun _ ok => by
    split
    split
    · exact State.reply_storesOk _ _ _ _ ok
    · dsimp only
      split
      · split
        · exact State.reply_storesOk _ _ _ _ (State.setOwner_storesOk _ _ _ _ _ ok)
        · split
          · exact State.reply_storesOk _ _ _ _ ok
          · exact State.reply_storesOk _ _ _ _ (State.setOwner_storesOk _ _ _ _ _ ok)
      · split
        · exact State.reply_storesOk _ _ _ _ ok
        · exact State.reply_storesOk _ _ _ _ (State.setOwner_storesOk _ _ _ _ _ ok)

theorem execYieldProc_storesOk (h : MsgHdr) (newOwner : BitVec 64) (s : State) (oks : s.StoresOk) : OutOk (execYieldProc h newOwner s) :=
  State.procedure_storesOk _ _ _ _ _ _ oks fun _ ok => by
    split
    refine State.reply_storesOk _ _ _ _ ?_
    split <;> exact State.setOwner_storesOk _ _ _ _ _ ok

theorem execStatus_storesOk (h : MsgHdr) (s : State) (oks : s.StoresOk) : OutOk (execStatus h s) :=
  State.procedure_storesOk _ _ _ _ _ _ oks fun _ ok => State.reply_storesOk _ _ _ _ ok

theorem execGraphLoad_storesOk (h : MsgHdr) (die graph : Nat) (va len : BitVec 64) (s : State) (oks : s.StoresOk) :
    OutOk (execGraphLoad h die graph va len s) :=
  State.procedure_storesOk _ _ _ _ _ _ oks fun _ ok => by
    dsimp only
    split
    · exact State.reply_storesOk _ _ _ _ ok
    · split
      · exact State.reply_storesOk _ _ _ _ ok
      · split
        · exact State.reply_storesOk _ _ _ _ (State.touchRead_storesOk _ _ _ ok)
        · split
          · exact State.reply_storesOk _ _ _ _ ok
          · split
            · exact ok
            · exact State.bindGraph_storesOk _ _ _ _ _ (foldl_storesOk _ _ _ ok fun _ _ ok => State.touchRead_storesOk _ _ _ ok)

theorem execKickProc_storesOk (h : MsgHdr) (die graph : Nat) (patch : BitVec 64) (s : State) (oks : s.StoresOk) :
    OutOk (execKickProc h die graph patch s) :=
  State.procedure_storesOk _ _ _ _ _ _ oks fun _ ok => by
    split
    · exact State.reply_storesOk _ _ _ _ ok
    · split
      · exact State.reply_storesOk _ _ _ _ ok
      · split
        exact State.reply_storesOk _ _ _ _ (FstOk.of_eq ‹_› (State.kickWrite_storesOk _ _ _ _ ok))

theorem execMap_storesOk (h : MsgHdr) (va : BitVec 64) (pfn : BitVec 28) (size : BitVec 2) (cls : BitVec 3) (perm : BitVec 2)
    (key : BitVec 13) (s : State) (oks : s.StoresOk) : OutOk (execMap h va pfn size cls perm key s) :=
  State.procedure_storesOk _ _ _ _ _ _ oks fun _ ok => by
    dsimp only
    split
    · exact State.reply_storesOk _ _ _ _ ok
    · split
      · exact State.reply_storesOk _ _ _ _ ok
      · split
        · exact ok
        · split
          · exact State.reply_storesOk _ _ _ _ ok
          · split
            · split
              · exact State.reply_storesOk _ _ _ _ ok
              · exact State.mapAt_storesOk _ _ _ _ _ _ _ (State.makeTables_storesOk _ _ _ _ _ ok)
            · exact State.reply_storesOk _ _ _ _ ok

theorem execUnmap_storesOk (h : MsgHdr) (va : BitVec 64) (s : State) (oks : s.StoresOk) : OutOk (execUnmap h va s) :=
  State.procedure_storesOk _ _ _ _ _ _ oks fun _ ok => by
    split
    · exact State.reply_storesOk _ _ _ _ ok
    · split
      · exact State.reply_storesOk _ _ _ _ ok
      · split
        · exact ok
        · split
          · exact State.reply_storesOk _ _ _ _ ok
          · split
            · exact State.reply_storesOk _ _ _ _ ok
            · split
              · exact State.reply_storesOk _ _ _ _ ok
              · exact State.reply_storesOk _ _ _ _ (State.invalidate_storesOk _ _ _ (State.setPte_storesOk _ _ _ _ ok))

theorem execWrite_storesOk (h : MsgHdr) (va : BitVec 64) (bytes : List (BitVec 8)) (s : State) (oks : s.StoresOk) :
    OutOk (execWrite h va bytes s) :=
  State.procedure_storesOk _ _ _ _ _ _ oks fun _ ok => by
    split
    · exact State.reply_storesOk _ _ _ _ ok
    · split
      · exact ok
      · split
        · exact State.reply_storesOk _ _ _ _ (State.touchRead_storesOk _ _ _ ok)
        · split
          · exact State.reply_storesOk _ _ _ _ (foldl_storesOk _ _ _ ok fun _ _ ok => State.wrByte_storesOk _ _ _ _ ok)
          · exact State.reply_storesOk _ _ _ _ ok

theorem execRead_storesOk (h : MsgHdr) (va : BitVec 64) (len : Nat) (s : State) (oks : s.StoresOk) : OutOk (execRead h va len s) :=
  State.procedure_storesOk _ _ _ _ _ _ oks fun _ ok => by
    split
    · exact State.reply_storesOk _ _ _ _ ok
    · split
      · exact ok
      · dsimp only
        split
        · exact State.reply_storesOk _ _ _ _ (State.touchRead_storesOk _ _ _ ok)
        · split
          · exact State.reply_storesOk _ _ _ _ ok
          · split <;> exact State.reply_storesOk _ _ _ _ (State.touchRead_storesOk _ _ _ ok)

theorem execNotify_storesOk (h : MsgHdr) (index : Nat) (value : BitVec 32) (s : State) (oks : s.StoresOk) :
    OutOk (execNotify h index value s) :=
  State.procedure_storesOk _ _ _ _ _ _ oks fun _ ok => by
    split
    · exact State.reply_storesOk _ _ _ _ ok
    · split
      · exact ok
      · split
        · exact State.reply_storesOk _ _ _ _ ok
        · split
          · exact State.reply_storesOk _ _ _ _ ok
          · exact State.reply_storesOk _ _ _ _ (State.stf_storesOk _ _ _ _ ok)

theorem execLogRead_storesOk (h : MsgHdr) (first : BitVec 32) (count : Nat) (s : State) (oks : s.StoresOk) :
    OutOk (execLogRead h first count s) :=
  State.procedure_storesOk _ _ _ _ _ _ oks fun _ ok => by
    dsimp only
    split
    · exact State.reply_storesOk _ _ _ _ ok
    · split
      · exact State.reply_storesOk _ _ _ _ ok
      · split
        · exact ok
        · split <;> exact State.reply_storesOk _ _ _ _ (foldl_storesOk _ _ _ ok fun _ _ ok => State.touchRead_storesOk _ _ _ ok)

theorem execUpdate_storesOk (h : MsgHdr) (payload : List (BitVec 8)) (s : State) (oks : s.StoresOk) : OutOk (execUpdate h payload s) :=
  State.procedure_storesOk _ _ _ _ _ _ oks fun _ ok => by
    dsimp only
    split
    · exact State.reply_storesOk _ _ _ _ ok
    · split
      · exact State.reply_storesOk _ _ _ _ (State.upload_storesOk _ _ _ ok)
      · exact State.wholeImage_storesOk _ _ _ (State.upload_storesOk _ _ _ ok)

theorem execAttest_storesOk (h : MsgHdr) (nonce : List (BitVec 8)) (s : State) (oks : s.StoresOk) : OutOk (execAttest h nonce s) :=
  State.procedure_storesOk _ _ _ _ _ _ oks fun _ ok => by
    split <;> exact State.reply_storesOk _ _ _ _ ok

theorem execOtherProcedure_storesOk (h : MsgHdr) (s : State) (oks : s.StoresOk) : OutOk (execOtherProcedure h s) := by
  unfold execOtherProcedure
  split
  · exact oks
  · exact State.inTurn_storesOk _ _ _ oks fun _ ok => State.reply_storesOk _ _ _ _ (State.renew_storesOk _ _ ok)

/-! ### Registers and boundaries -/

theorem execRegisterWrite_storesOk (r : ConfigReg) (v : BitVec 64) (s : State) (oks : s.StoresOk) : OutOk (execRegisterWrite r v s) := by
  unfold execRegisterWrite
  split
  · split <;> exact oks
  · exact State.setGust_storesOk _ _ _ _ oks
  · exact oks
  · split <;> exact oks
  · exact oks
  · exact State.resolveWrite_storesOk _ _ _ _ oks
  · exact oks

theorem execPartitionBoundarySet_storesOk (part : Nat) (b : Boundary) (s : State) (oks : s.StoresOk) :
    OutOk (execPartitionBoundarySet part b s) := by
  unfold execPartitionBoundarySet
  split
  · exact oks
  · exact State.settleBoundary_storesOk _ _ _ (StoresOk.mk_iff.2 (foldl_storesOk _ _ _ oks fun _ _ ok => ok))

/-! ### Power -/

theorem execPowerOn_storesOk (failed : SelfTest) (s : State) : OutOk (execPowerOn failed s) := by
  unfold execPowerOn
  split <;> exact State.reset_storesOk

/-! ### Lanes, ports and %time -/

theorem execTransferResend_storesOk (req : Option Nat) (die lane daddr : Nat) (va : BitVec 64) (crossing : Nat) (s : State) (oks : s.StoresOk) :
    OutOk (execTransferResend req die lane daddr va crossing s) := by
  unfold execTransferResend
  dsimp only
  split
  · exact oks
  · split
    · exact State.addFlaw_storesOk _ _ oks
    · split
      · refine State.plan_storesOk _ _ _ ?_
        split
        · exact State.log_storesOk _ _ _ _ _ _ _ _ _ _ oks
        · exact State.addFlaw_storesOk _ _ (State.log_storesOk _ _ _ _ _ _ _ _ _ _ oks)
      · split
        · exact State.log_storesOk _ _ _ _ _ _ _ _ _ _ oks
        · exact State.addFlaw_storesOk _ _ (State.log_storesOk _ _ _ _ _ _ _ _ _ _ oks)

theorem execPortRecalibration_storesOk (port : Nat) (s : State) (oks : s.StoresOk) : OutOk (execPortRecalibration port s) := by
  unfold execPortRecalibration
  split
  · exact oks
  · exact State.note_storesOk _ _ _ _ _ _ _ oks

theorem execFlitReplay_storesOk (pair sublink dir lane : Nat) (s : State) (oks : s.StoresOk) :
    OutOk (execFlitReplay pair sublink dir lane s) := by
  unfold execFlitReplay
  dsimp only
  split
  · exact State.recalibrate_storesOk _ _ _ _ _ _ oks
  · exact oks

theorem execFabricPortUp_storesOk (port : Nat) (s : State) (oks : s.StoresOk) : OutOk (execFabricPortUp port s) := by
  unfold execFabricPortUp
  split
  · exact oks
  · exact State.note_storesOk _ _ _ _ _ _ _ oks

/-! ## Every instruction, and every step -/

/-- Every instruction, event and procedure keeps the stores canonical. -/
theorem exec_storesOk (s : State) (oks : s.StoresOk) : (i : Instr) → OutOk (exec i s)
  | .add _ | .sub _ | .mul _ | .mulh _ | .min _ | .max _ | .abs _ | .neg _ | .and _ | .or _ | .xor _ | .andn _ | .not _ | .clz _ | .ctz _ | .popc _
  | .brev _ | .mov _ => intOp_storesOk _ _ _ oks
  | .mad _ | .adds _ | .bfi _ | .sel _ | .cmp _ | .movi _ | .movh _ | .fcmp _ | .fclass _ | .upk _ | .votePack _ | .voteUnpk _ | .estqInfo _ | .estqObj _
  | .estqFrom _ | .estqMask _ => State.compute_storesOk _ _ _ _ oks
  | .shl _ | .shr _ | .sar _ | .rot _ | .bfx _ => intCtlOp_storesOk _ _ _ oks
  | .addImm _ | .andImm _ | .orImm _ | .xorImm _ => immOp_storesOk _ _ _ oks
  | .fadd _ | .fsub _ | .fmul _ | .ffma _ => floatOp_storesOk _ _ _ oks
  | .fdot2 _ | .fround _ | .cvt _ | .pk _ | .pf _ | .land _ | .nop _ => State.act_storesOk _ _ _ _ oks fun _ => oks
  | .fmin _ | .fmax _ => encOp_storesOk _ _ _ oks
  | .frcp _ | .frsq _ | .fsqrt _ | .fexp2 _ | .flog2 _ | .fsin _ | .fcos _ => rootOp_storesOk _ _ _ _ oks
  | .hxq _ => execHxq_storesOk _ _ oks
  | .hxd _ => execHxd_storesOk _ _ oks
  | .hxe _ => execHxe_storesOk _ _ oks
  | .mxcvt _ => execMxcvt_storesOk _ _ oks
  | .voteAny _ | .voteAll _ | .voteNone _ => voteOp_storesOk _ _ _ oks
  | .pairedWord _ _ => execPairedWord_storesOk _ _ _ oks
  | .ld _ _ => execLd_storesOk _ _ _ oks
  | .st _ _ => execSt_storesOk _ _ _ oks
  | .ldq _ _ => execLdq_storesOk _ _ _ oks
  | .stq _ _ => execStq_storesOk _ _ _ oks
  | .ldwf _ _ | .ldwfe _ _ => tagLoad_storesOk _ _ _ _ oks
  | .stwe _ _ => execStwe_storesOk _ _ _ oks
  | .stf _ _ => execStf_storesOk _ _ _ oks
  | .tagrd _ _ => execTagrd_storesOk _ _ _ oks
  | .tagwr _ _ => execTagwr_storesOk _ _ _ oks
  | .atomAdd _ _ | .atomMin _ _ | .atomMax _ _ | .atomAnd _ _ | .atomOr _ _ | .atomXor _ _ | .atomXchg _ _ => atomIntOp_storesOk _ _ _ _ oks
  | .atomCas _ _ => execAtomCas_storesOk _ _ _ oks
  | .atomFadd _ _ => execAtomFadd_storesOk _ _ _ oks
  | .redAdd _ | .redMin _ | .redMax _ | .redFadd _ => redOp_storesOk _ _ _ oks
  | .redflush _ => execRedflush_storesOk _ _ oks
  | .redseal _ => execRedseal_storesOk _ _ oks
  | .fence _ => execFence_storesOk _ _ oks
  | .acq _ => execAcq_storesOk _ _ oks
  | .rel _ => execRel_storesOk _ _ oks
  | .bind _ => execBind_storesOk _ _ oks
  | .unbind _ => execUnbind_storesOk _ _ oks
  | .cp _ => execCp_storesOk _ _ oks
  | .gth _ => execGth_storesOk _ _ oks
  | .copyQueueWrite _ => execCopyQueueWrite_storesOk _ _ oks
  | .engineCommandCompletion _ => State.completeCmd_storesOk _ _ oks
  | .bra _ => execBra_storesOk _ _ oks
  | .fbra _ => execFbra_storesOk _ _ oks
  | .yield _ => execYield_storesOk _ _ oks
  | .brx _ => execBrx_storesOk _ _ oks
  | .call _ => execCall_storesOk _ _ oks
  | .callx _ => execCallx_storesOk _ _ oks
  | .ret _ => execRet_storesOk _ _ oks
  | .rjmark _ => execRjmark_storesOk _ _ oks
  | .rjoin _ => execRjoin_storesOk _ _ oks
  | .exit _ => execExit_storesOk _ _ oks
  | .yieldExpiry _ => execYieldExpiry_storesOk _ _ oks
  | .trap _ => execTrap_storesOk _ _ oks
  | .tret _ => execTret_storesOk _ _ oks
  | .mfsr _ => execMfsr_storesOk _ _ oks
  | .mtsr _ => execMtsr_storesOk _ _ oks
  | .dqpush _ => execDqpush_storesOk _ _ oks
  | .dqpop _ => execDqpop_storesOk _ _ oks
  | .nbar _ => execNbar_storesOk _ _ oks
  | .nbw _ => execNbw_storesOk _ _ oks
  | .grjoin _ => execGrjoin_storesOk _ _ oks
  | .grleave _ => execGrleave_storesOk _ _ oks
  | .crbeg _ => execCrbeg_storesOk _ _ oks
  | .crend _ => execCrend_storesOk _ _ oks
  | .sysrpc _ => execSysrpc_storesOk _ _ oks
  | .kick _ => execKick_storesOk _ _ oks
  | .diagInj _ => execDiagInj_storesOk _ _ oks
  | .wrecv _ => execWrecv_storesOk _ _ oks
  | .wemit _ => execWemit_storesOk _ _ oks
  | .wclose _ => execWclose_storesOk _ _ oks
  | .wcloseId _ => execWcloseId_storesOk _ _ oks
  | .wcloseEnd _ => execWcloseEnd_storesOk _ _ oks
  | .wmret _ => execWmret_storesOk _ _ oks
  | .wtimer _ => execWtimer_storesOk _ _ oks
  | .wstat _ => execWstat_storesOk _ _ oks
  | .holdLock _ => execHoldLock_storesOk _ _ oks
  | .holdSlot _ => execHoldSlot_storesOk _ _ oks
  | .holdCopy _ => execHoldCopy_storesOk _ _ oks
  | .heir _ => execHeir_storesOk _ _ oks
  | .heirSlot _ => execHeirSlot_storesOk _ _ oks
  | .heirGrp _ => execHeirGrp_storesOk _ _ oks
  | .drop _ => execDrop_storesOk _ _ oks
  | .dropSlot _ => execDropSlot_storesOk _ _ oks
  | .promise _ => execPromise_storesOk _ _ oks
  | .fulfil _ => execFulfil_storesOk _ _ oks
  | .qrld _ => execQrld_storesOk _ _ oks
  | .qrseed _ => execQrseed_storesOk _ _ oks
  | .qrseedKey _ => execQrseedKey_storesOk _ _ oks
  | .qrpt _ => execQrpt_storesOk _ _ oks
  | .qrpt4 _ => execQrpt4_storesOk _ _ oks
  | .qrf _ => execQrf_storesOk _ _ oks
  | .qrhash _ => execQrhash_storesOk _ _ oks
  | .qrhashK _ => execQrhashK_storesOk _ _ oks
  | .qcset _ => execQcset_storesOk _ _ oks
  | .mzero _ => execMzero_storesOk _ _ oks
  | .mma _ => execMma_storesOk _ _ oks
  | .mdrain _ => execMdrain_storesOk _ _ oks
  | .epld _ => execEpld_storesOk _ _ oks
  | .cpb _ => execCpb_storesOk _ _ oks
  | .coll _ => execColl_storesOk _ _ oks
  | .launch _ => execLaunch_storesOk _ _ oks
  | .launchEst _ => execLaunchEst_storesOk _ _ oks
  | .esNop | .esMov _ _ | .esAdd _ _ _ | .esMul _ _ _ | .esFma _ _ _ _ | .esMax _ _ _ | .esMin _ _ _ | .esScale _ _ _ | .esBias _ _ _
  | .esClamp _ _ _ | .esExp2 _ _ | .esRcp _ _ | .esLut _ _ _ _ | .esCmp _ _ _ | .esSel _ _ _ | .esLd _ _ _ | .esHxq _ _ _ | .esCvt _ _ _ | .esSt _ _
  | .esStt _ | .esLoop _ _ | .esEnd => State.esAct_storesOk _ _ oks
  | .waveIssue => execWaveIssue_storesOk _ oks
  | .longLatencyCompletion _ => execLongLatencyCompletion_storesOk _ _ oks
  | .reductionDrain _ _ => execReductionDrain_storesOk _ _ _ oks
  | .tableWalk _ _ _ _ => State.translate_storesOk _ _ _ oks
  | .resolveRetry _ _ _ => execResolveRetry_storesOk _ _ _ _ oks
  | .resolveTrap _ _ _ => execResolveTrap_storesOk _ _ _ _ oks
  | .resolveKill _ _ _ => execResolveKill_storesOk _ _ _ _ oks
  | .handlerStart _ => execHandlerStart_storesOk _ _ oks
  | .estateHandlerStart _ => execEstateHandlerStart_storesOk _ _ oks
  | .groupEnd _ => execGroupEnd_storesOk _ _ oks
  | .containmentUnwind _ _ _ _ _ _ => execContainmentUnwind_storesOk _ _ _ _ _ _ _ oks
  | .groupSave _ => execGroupSave_storesOk _ _ oks
  | .groupRestore _ => execGroupRestore_storesOk _ _ oks
  | .preemptionTimeout _ _ => execPreemptionTimeout_storesOk _ _ _ oks
  | .groupPlacement _ => execGroupPlacement_storesOk _ _ oks
  | .launchComplete _ => execLaunchComplete_storesOk _ _ oks
  | .replayStart _ => execReplayStart_storesOk _ _ oks
  | .nodeStart _ _ _ => execNodeStart_storesOk _ _ _ _ oks
  | .arrayCommandStart _ _ => execArrayCommandStart_storesOk _ _ _ oks
  | .mmaKgroupStep _ _ => execMmaKgroupStep_storesOk _ _ _ oks
  | .drainOutputEntry _ _ => execDrainOutputEntry_storesOk _ _ _ oks
  | .collectiveRun _ => execCollectiveRun_storesOk _ _ oks
  | .recordPlacement _ => execRecordPlacement_storesOk _ _ oks
  | .merge _ => execMerge_storesOk _ _ oks
  | .paneRecordMulticast _ => execPaneRecordMulticast_storesOk _ _ oks
  | .fold _ _ => State.foldWin_storesOk _ _ _ oks
  | .windowRestore _ _ => State.restoreWin_storesOk _ _ _ oks
  | .bellWheelDue _ _ => execBellWheelDue_storesOk _ _ _ oks
  | .windowTimerExpiry _ _ => State.timerDue_storesOk _ _ _ oks
  | .batchTimeout _ => State.flushBatch_storesOk _ _ oks
  | .streamEnd _ => execStreamEnd_storesOk _ _ oks
  | .scanRead _ => execScanRead_storesOk _ _ oks
  | .recordFrame _ _ _ _ => execRecordFrame_storesOk _ _ _ _ _ oks
  | .lullEngage _ _ => execLullEngage_storesOk _ _ _ oks
  | .lullRelease _ _ => execLullRelease_storesOk _ _ _ oks
  | .lullRotation _ | .timeLock _ _ => oks
  | .gustRefill _ _ => State.retryPort_storesOk _ _ _ oks
  | .packetInjection _ => execPacketInjection_storesOk _ _ oks
  | .hamletReset _ => execHamletReset_storesOk _ _ oks
  | .laneRecalibration _ _ _ _ _ => execLaneRecalibration_storesOk _ _ _ _ _ _ oks
  | .imageSwitch _ _ => execImageSwitch_storesOk _ _ _ oks
  | .coreRetirement _ => execCoreRetirement_storesOk _ _ oks
  | .laneSwap _ _ _ _ => execLaneSwap_storesOk _ _ _ _ _ oks
  | .schedulerTakeover _ _ => execSchedulerTakeover_storesOk _ _ _ oks
  | .clockStep _ _ => execClockStep_storesOk _ _ _ oks
  | .thermalTrip => execThermalTrip_storesOk _ oks
  | .illegalEncoding _ _ => execIllegalEncoding_storesOk _ 0 _ oks
  | .timeTermDue _ => State.advanceMark_storesOk _ _ oks
  | .own _ _ => execOwn_storesOk _ _ _ oks
  | .yieldProc _ _ => execYieldProc_storesOk _ _ _ oks
  | .status _ => execStatus_storesOk _ _ oks
  | .graphLoad _ _ _ _ _ => execGraphLoad_storesOk _ _ _ _ _ _ oks
  | .kickProc _ _ _ _ => execKickProc_storesOk _ _ _ _ _ oks
  | .map _ _ _ _ _ _ _ => execMap_storesOk _ _ _ _ _ _ _ _ oks
  | .unmap _ _ => execUnmap_storesOk _ _ _ oks
  | .pageGive _ _ | .pageTake _ _ => State.pageProc_storesOk _ _ _ _ _ oks
  | .write _ _ _ => execWrite_storesOk _ _ _ _ oks
  | .read _ _ _ => execRead_storesOk _ _ _ _ oks
  | .notify _ _ _ => execNotify_storesOk _ _ _ _ oks
  | .logRead _ _ _ => execLogRead_storesOk _ _ _ _ oks
  | .update _ _ => execUpdate_storesOk _ _ _ oks
  | .attest _ _ => execAttest_storesOk _ _ _ oks
  | .otherProcedure _ => execOtherProcedure_storesOk _ _ oks
  | .kill _ _ => execKill_storesOk _ _ _ oks
  | .vacate _ _ => execVacate_storesOk _ _ _ oks
  | .notifyReset _ _ => execNotifyReset_storesOk _ _ _ oks
  | .rconsWrite _ _ _ => execRconsWrite_storesOk _ _ _ _ oks
  | .notifyFillStore _ _ _ => execNotifyFillStore_storesOk _ _ _ _ oks
  | .registerWrite _ _ => execRegisterWrite_storesOk _ _ _ oks
  | .partitionBoundarySet _ _ => execPartitionBoundarySet_storesOk _ _ _ oks
  | .powerOn _ => execPowerOn_storesOk _ _
  | .transferResend _ _ _ _ _ _ => execTransferResend_storesOk _ _ _ _ _ _ _ oks
  | .portRecalibration _ => execPortRecalibration_storesOk _ _ oks
  | .flitReplay _ _ _ _ => execFlitReplay_storesOk _ _ _ _ _ oks
  | .fabricPortUp _ => execFabricPortUp_storesOk _ _ oks

/-- A step executes what its turn comes to, or answers the state that the turn left (R52, R365). -/
theorem step_storesOk (s : State) (oks : s.StoresOk) : OutOk (step s) := by
  unfold step
  split
  · split
    · exact exec_storesOk { s with cur := .nobody } oks _
    · trivial
  · next t r _ =>
    have ok : FstOk (({ s with turns := r, turn := t } : State).choose t) := State.choose_storesOk _ _ oks
    split
    · exact exec_storesOk _ (FstOk.of_eq ‹_› ok) _
    · exact FstOk.of_eq ‹_› ok

end Sys2Proof.Machine

namespace Sys2Proof

open Machine

/-- Settles O18: what chooses a turn's instruction keeps the three stores canonical, and so does every instruction. -/
theorem storesStayCanonical : Obligations.StoresStayCanonical := by
  intro s u oks h
  have ok := step_storesOk s oks
  rwa [h] at ok

end Sys2Proof
end

section
/-! What an act that writes memory or a log record leaves alone. -/

namespace Sys2Proof.Machine

/-- `u` is `s` but for memory and the sectors' key slots. -/
def State.WritesOnly (s u : State) : Prop := u = { s with mem := u.mem, secKey := u.secKey }

theorem State.WritesOnly.intro (s : State) (m : Sparse 8) (k : Sparse 13) : s.WritesOnly { s with mem := m, secKey := k } := rfl

theorem State.WritesOnly.refl (s : State) : s.WritesOnly s := rfl

theorem State.WritesOnly.trans {s u v : State} (h : s.WritesOnly u) (k : u.WritesOnly v) : s.WritesOnly v := by
  unfold State.WritesOnly at *
  rw [k, h]

theorem State.rekey_writesOnly (s : State) (sector : Nat) (ks : BitVec 13) : s.WritesOnly (s.rekey sector ks) := by
  unfold State.rekey
  dsimp only
  split
  · exact .refl s
  · exact .intro s _ _

theorem State.wrByte_writesOnly (s : State) (l : Loc) (i : Nat) (v : Byte) : s.WritesOnly (s.wrByte l i v) := by
  unfold State.wrByte
  dsimp only
  split
  · exact .intro s _ _
  · next ks _ => exact (s.rekey_writesOnly ((l.key + i) / 32) ks).trans (.intro _ _ _)

theorem State.wrBytes_writesOnly (l : Loc) (bs : List Byte) : ∀ (s : State) (i : Nat), s.WritesOnly (s.wrBytes l i bs) := by
  induction bs with
  | nil => exact fun s _ => .refl s
  | cons b r ih => exact fun s i => (s.wrByte_writesOnly l i b).trans (ih _ _)

theorem State.deviceWrite_writesOnly (part : Nat) (bs : List Byte) : ∀ (s : State) (va : BitVec 64), s.WritesOnly (s.deviceWrite part va bs) := by
  induction bs with
  | nil => exact fun s _ => .refl s
  | cons b r ih =>
    intro s va
    refine State.WritesOnly.trans ?_ (ih _ _)
    split
    · exact s.wrByte_writesOnly _ _ _
    · exact .refl s

/-- `u` is `s` but for memory and the logs: what a record changes (R393, R405). -/
def State.LogsOnly (s u : State) : Prop :=
  u = { s with mem := u.mem, secKey := u.secKey, logs := u.logs, fleet := u.fleet, parts := u.parts }

theorem State.LogsOnly.intro (s : State) (m : Sparse 8) (k : Sparse 13) (l : List LogRec) (f : Fleet) (p : KV Nat Part) :
    s.LogsOnly { s with mem := m, secKey := k, logs := l, fleet := f, parts := p } := rfl

theorem State.LogsOnly.frame {s u : State} (h : s.LogsOnly u) :
    u.faults = s.faults ∧ u.threads = s.threads ∧ u.turns = s.turns ∧ u.groups = s.groups ∧ u.queries = s.queries := by
  rw [h]
  and_intros <;> rfl

theorem State.WritesOnly.logsOnly {s u v : State} (h : s.LogsOnly u) (k : u.WritesOnly v) : s.LogsOnly v := by
  unfold State.WritesOnly State.LogsOnly at *
  rw [k, h]

theorem State.log_logsOnly (s : State) (part : Option Nat) (type die core : Nat) (p18 p20 p28 p30 p38 : BitVec 64) :
    s.LogsOnly (s.log part type die core p18 p20 p28 p30 p38) := by
  unfold State.log
  dsimp only
  split
  · exact .intro s _ _ _ _ _
  · split
    · exact .intro s _ _ _ _ _
    · split
      · exact .intro s _ _ _ _ _
      · exact State.WritesOnly.logsOnly (.intro s _ _ _ _ _) (State.deviceWrite_writesOnly _ _ _ _)

end Sys2Proof.Machine
end

section
/-! What goes on while a clock begins: turns and dates are only added (R9, R365). -/

namespace Sys2Proof.Machine

/-- A relation between a state and what a step leaves of it that holds for each step of a fold holds for the fold. -/
theorem foldl_rel {α : Type} {R : State → State → Prop} (refl : ∀ s, R s s) (trans : ∀ {s u v}, R s u → R u v → R s v)
    (f : State → α → State) (step : ∀ (s : State) (a : α), R s (f s a)) (l : List α) : ∀ s, R s (l.foldl f s) := by
  induction l with
  | nil => exact refl
  | cons a r ih => exact fun s => trans (step s a) (ih _)

/-- `u` has the time of `s`, and its turns and dates with others behind them. -/
structure State.Adds (s u : State) : Prop where
  clock : u.clock = s.clock
  time : u.time = s.time
  timeFrac : u.timeFrac = s.timeFrac
  turns : s.turns <+: u.turns
  sched : s.sched <+: u.sched

theorem State.Adds.of_eq {s u : State} (clock : u.clock = s.clock) (time : u.time = s.time) (timeFrac : u.timeFrac = s.timeFrac)
    (turns : u.turns = s.turns) (sched : u.sched = s.sched) : s.Adds u :=
  ⟨clock, time, timeFrac, turns ▸ List.prefix_rfl, sched ▸ List.prefix_rfl⟩

theorem State.Adds.refl (s : State) : s.Adds s := .of_eq rfl rfl rfl rfl rfl

theorem State.Adds.trans {s u v : State} (h : s.Adds u) (k : u.Adds v) : s.Adds v :=
  ⟨k.clock.trans h.clock, k.time.trans h.time, k.timeFrac.trans h.timeFrac, h.turns.trans k.turns, h.sched.trans k.sched⟩

theorem State.foldl_adds {α : Type} (f : State → α → State) (step : ∀ (s : State) (a : α), s.Adds (f s a)) (l : List α) (s : State) : s.Adds (l.foldl f s) :=
  foldl_rel State.Adds.refl State.Adds.trans f step l s

theorem State.WritesOnly.adds {s u : State} (h : s.WritesOnly u) : s.Adds u := by
  rw [h]
  exact .of_eq rfl rfl rfl rfl rfl

theorem State.raise_adds (s : State) (i : Instr) : s.Adds (s.raise i) := ⟨rfl, rfl, rfl, List.prefix_append _ _, List.prefix_rfl⟩

theorem State.updCore_adds (s : State) (c : Nat) (f : CoreSt → CoreSt) : s.Adds (s.updCore c f) := .of_eq rfl rfl rfl rfl rfl

theorem State.updHalf_adds (s : State) (c h : Nat) (f : Half → Half) : s.Adds (s.updHalf c h f) := .of_eq rfl rfl rfl rfl rfl

theorem State.updDie_adds (s : State) (d : Nat) (f : Die → Die) : s.Adds (s.updDie d f) := .of_eq rfl rfl rfl rfl rfl

theorem State.updPart_adds (s : State) (p : Nat) (f : Part → Part) : s.Adds (s.updPart p f) := .of_eq rfl rfl rfl rfl rfl

/-! ## Boundaries that come into force (R383) -/

theorem State.askPlacement_adds (s : State) : s.Adds s.askPlacement :=
  State.foldl_adds _ (fun s _ => s.raise_adds _) _ s

theorem State.giveCores_adds (s : State) (part : Nat) (cores : List Nat) : s.Adds (s.giveCores part cores) :=
  (State.foldl_adds (fun s c => s.zeroCore c) (fun _ _ => .of_eq rfl rfl rfl rfl rfl) _ s).trans (.of_eq rfl rfl rfl rfl rfl)

theorem State.giveHalves_adds (s : State) (part : Nat) (halves : List (Nat × Nat)) : s.Adds (s.giveHalves part halves) :=
  (State.foldl_adds _ (fun s _ => s.updHalf_adds _ _ _) _ s).trans (State.foldl_adds _ (fun s _ => s.updHalf_adds _ _ _) _ _)

theorem State.writeJournal_adds (s : State) (die type index graph : Nat) (value : BitVec 64) : s.Adds (s.writeJournal die type index graph value) := by
  unfold State.writeJournal
  exact (State.wrBytes_writesOnly _ _ s 0).adds.trans (State.updDie_adds _ _ _)

theorem State.journal_adds (s : State) (die type index graph : Nat) (value : BitVec 64) : s.Adds (s.journal die type index graph value) := by
  unfold State.journal
  dsimp only
  split
  · exact .refl s
  · exact (s.writeJournal_adds die type index graph value).trans (State.updDie_adds _ _ _)

theorem State.vacateCores_adds (s : State) (die : Nat) (cores : List Nat) : s.Adds (s.vacateCores die cores) := by
  unfold State.vacateCores
  split
  · exact .refl s
  · split
    · exact s.updDie_adds _ _
    · exact (s.journal_adds _ _ _ _ _).trans ((State.foldl_adds _ (fun s _ => s.updCore_adds _ _) _ _).trans
        (State.foldl_adds _ (fun s _ => s.raise_adds _) _ _))

theorem State.vacate_adds (s : State) (cores : List Nat) : s.Adds (s.vacate cores) :=
  State.foldl_adds _ (fun s _ => s.vacateCores_adds _ _) _ s

theorem State.settleBoundary_adds (s : State) (part : Nat) (p : Part) : s.Adds (s.settleBoundary part p) := by
  unfold State.settleBoundary
  split
  · exact .refl s
  · dsimp only
    split
    · exact (s.giveCores_adds _ _).trans ((State.giveHalves_adds _ _ _).trans ((State.updPart_adds _ _ _).trans (State.askPlacement_adds _)))
    · exact s.vacate_adds _

theorem State.settleBoundaries_adds (s : State) : s.Adds s.settleBoundaries :=
  State.foldl_adds _ (fun s (e : Nat × Part) => s.settleBoundary_adds e.1 e.2) s.parts s

/-- No boundary comes into force where none is asked for. -/
theorem State.settleBoundaries_of_none (s : State) (h : ∀ e ∈ s.parts, e.2.want = none) : s.settleBoundaries = s := by
  refine List.foldlRecOn (motive := fun u => u = s) s.parts _ rfl fun u hu e he => ?_
  rw [hu, State.settleBoundary, h e he]

/-! ## Leavers, counters and choices -/

/-- `s.Adds u`, and memory is the same. -/
structure State.AddsKeeping (s u : State) : Prop extends State.Adds s u where
  mem : u.mem = s.mem

theorem State.AddsKeeping.of_eq {s u : State} (clock : u.clock = s.clock) (time : u.time = s.time) (timeFrac : u.timeFrac = s.timeFrac)
    (turns : u.turns = s.turns) (sched : u.sched = s.sched) (mem : u.mem = s.mem) : s.AddsKeeping u :=
  ⟨.of_eq clock time timeFrac turns sched, mem⟩

theorem State.AddsKeeping.refl (s : State) : s.AddsKeeping s := ⟨.refl s, rfl⟩

theorem State.AddsKeeping.trans {s u v : State} (h : s.AddsKeeping u) (k : u.AddsKeeping v) : s.AddsKeeping v :=
  ⟨h.toAdds.trans k.toAdds, k.mem.trans h.mem⟩

theorem State.foldl_addsKeeping {α : Type} (f : State → α → State) (step : ∀ (s : State) (a : α), s.AddsKeeping (f s a)) (l : List α) (s : State) :
    s.AddsKeeping (l.foldl f s) :=
  foldl_rel State.AddsKeeping.refl State.AddsKeeping.trans f step l s

theorem State.raise_addsKeeping (s : State) (i : Instr) : s.AddsKeeping (s.raise i) := ⟨s.raise_adds i, rfl⟩

theorem State.removeGroup_addsKeeping (s : State) (gid : Nat) (g : Group) : s.AddsKeeping (s.removeGroup gid g) := by
  unfold State.removeGroup
  refine .trans ?_ ((State.raise_addsKeeping _ _).trans (State.raise_addsKeeping _ _))
  exact .of_eq rfl rfl rfl rfl rfl rfl

theorem State.freeGroup_addsKeeping (s : State) (gid : Nat) : s.AddsKeeping (s.freeGroup gid) := by
  unfold State.freeGroup
  split
  · exact .refl s
  · split
    · exact .refl s
    · exact s.removeGroup_addsKeeping _ _

theorem State.wakeLeavers_addsKeeping (s : State) : s.AddsKeeping s.wakeLeavers := by
  unfold State.wakeLeavers
  refine .trans ?_ (State.foldl_addsKeeping _ (fun s (e : Nat × Group) => s.freeGroup_addsKeeping e.1) _ _)
  exact .of_eq rfl rfl rfl rfl rfl rfl

theorem State.issueOn_addsKeeping (s : State) (core : Nat) : s.AddsKeeping (s.issueOn core).1 := by
  unfold State.issueOn
  dsimp only
  split <;> exact .of_eq rfl rfl rfl rfl rfl rfl

theorem State.ageHeld_addsKeeping (s : State) (core : Nat) : s.AddsKeeping (s.ageHeld core) := by
  unfold State.ageHeld State.notAged
  dsimp only
  split
  · exact .refl s
  · split <;> exact .of_eq rfl rfl rfl rfl rfl rfl

theorem State.issueAll_addsKeeping (s : State) : s.AddsKeeping s.issueAll.1 := by
  unfold State.issueAll
  refine List.foldlRecOn (motive := fun acc : State × List Turn => s.AddsKeeping acc.1) _ _ (.refl s) fun acc h c _ => ?_
  exact h.trans ((acc.1.issueOn_addsKeeping c).trans (State.ageHeld_addsKeeping _ c))

theorem State.countCongestion_addsKeeping (s : State) (core : Nat) : s.AddsKeeping (s.countCongestion core) :=
  .of_eq rfl rfl rfl rfl rfl rfl

/-- What a clock's start does once the boundaries are settled. -/
theorem State.newClock_addsKeeping (s : State) : s.tick.settleBoundaries.AddsKeeping s.newClock := by
  unfold State.newClock
  refine (State.wakeLeavers_addsKeeping _).trans (.trans ?_ (State.foldl_addsKeeping _ State.countCongestion_addsKeeping _ _))
  exact .of_eq rfl rfl rfl rfl rfl rfl

/-- The state in which a clock's turns are issued adds turns and dates to the ticked state. -/
theorem State.newClock_adds (s : State) : s.tick.Adds s.newClock := s.tick.settleBoundaries_adds.trans s.newClock_addsKeeping.toAdds

end Sys2Proof.Machine
end

section
/-! A clock (R9, R365, R412): the time goes on, and the turns whose dates have come wait. -/

namespace Sys2Proof.Machine

theorem mem_insertBy {α : Type} (rank : α → Nat) (x y : α) (l : List α) : y ∈ insertBy rank x l ↔ y = x ∨ y ∈ l := by
  induction l with
  | nil => exact List.mem_cons
  | cons z r ih =>
    unfold insertBy
    split
    · exact List.mem_cons
    · simp only [List.mem_cons, ih]
      exact or_left_comm

theorem mem_sortBy {α : Type} (rank : α → Nat) (y : α) (l : List α) : y ∈ sortBy rank l ↔ y ∈ l := by
  induction l with
  | nil => rfl
  | cons x r ih =>
    rw [List.mem_cons, ← ih]
    exact mem_insertBy rank x y (sortBy rank r)

/-- A turn whose date has come is due. -/
theorem State.mem_datedDue (s : State) {e : Nat × Turn} (h : e ∈ s.sched) (due : e.1 ≤ s.clock) : e.2 ∈ s.datedDue := by
  unfold State.datedDue
  rw [mem_sortBy]
  refine List.mem_map_of_mem ?_
  rw [mem_sortBy]
  exact List.mem_filter.2 ⟨h, decide_eq_true due⟩

/-- What comes due in a clock: the dated turns first. -/
theorem State.mem_allDue_of_dated (s : State) {t : Turn} (h : t ∈ s.datedDue) : t ∈ s.allDue := by
  unfold State.allDue
  simp only [List.mem_append, h, true_or]

/-- The end of a clock: what has come due goes before what issues, and no date that has come is left. -/
def State.endClock (s : State) (due issue : List Turn) : State :=
  { s with sched := s.sched.filter (fun e => !decide (e.1 ≤ s.clock)), turns := s.turns ++ due ++ issue, free := s.free + 1 }

/-- The state after a clock. -/
def State.afterClock (s : State) : State := s.newClock.issueAll.1.endClock s.newClock.allDue s.newClock.issueAll.2

theorem execWaveIssue_eq (s : State) : execWaveIssue s = .next s.afterClock := by
  unfold execWaveIssue State.afterClock
  dsimp only
  generalize s.newClock.issueAll = p
  rfl

@[simp] theorem State.endClock_turns (s : State) (due issue : List Turn) : (s.endClock due issue).turns = s.turns ++ due ++ issue := rfl

theorem State.endClock_mem (s : State) (due issue : List Turn) : (s.endClock due issue).mem = s.mem := rfl

theorem State.endClock_time (s : State) (due issue : List Turn) : (s.endClock due issue).clock = s.clock ∧
    (s.endClock due issue).time = s.time ∧ (s.endClock due issue).timeFrac = s.timeFrac := ⟨rfl, rfl, rfl⟩

theorem State.mem_endClock_sched (s : State) (due issue : List Turn) (e : Nat × Turn) :
    e ∈ (s.endClock due issue).sched ↔ e ∈ s.sched ∧ s.clock < e.1 := by
  simp [State.endClock, List.mem_filter]

theorem State.tick_turns (s : State) : s.tick.turns = s.turns := rfl

/-- When the cores have issued, the clock is that of the tick, and the turns and dates are the old ones with others behind them. -/
theorem State.issued_adds (s : State) : s.tick.Adds s.newClock.issueAll.1 := s.newClock_adds.trans s.newClock.issueAll_addsKeeping.toAdds

/-- A clock in which no boundary is asked for leaves memory as it is. -/
theorem State.afterClock_mem (s : State) (h : ∀ e ∈ s.parts, e.2.want = none) : s.afterClock.mem = s.mem :=
  calc s.afterClock.mem = s.newClock.issueAll.1.mem := State.endClock_mem _ _ _
    _ = s.newClock.mem := s.newClock.issueAll_addsKeeping.mem
    _ = s.tick.settleBoundaries.mem := s.newClock_addsKeeping.mem
    _ = s.tick.mem := by rw [s.tick.settleBoundaries_of_none h]
    _ = s.mem := rfl

/-- One clock: the time, the turns and the dates after it. -/
theorem State.afterClock_spec (s : State) : ∃ l, s.afterClock.turns = s.turns ++ l ∧
    ∀ e ∈ s.sched, if e.1 ≤ s.clock + 1 then e.2 ∈ l ∧ e ∉ s.afterClock.sched else e ∈ s.afterClock.sched := by
  obtain ⟨added, turns⟩ := s.issued_adds.turns
  refine ⟨added ++ s.newClock.allDue ++ s.newClock.issueAll.2, ?_, fun e he => ?_⟩
  · rw [State.afterClock, State.endClock_turns, ← turns, List.append_assoc, List.append_assoc, List.append_assoc, s.tick_turns]
  · have clock : s.newClock.issueAll.1.clock = s.clock + 1 := s.issued_adds.clock
    rw [State.afterClock, State.mem_endClock_sched, clock]
    split
    · next due =>
      have dated : e.2 ∈ s.newClock.datedDue :=
        State.mem_datedDue _ (s.newClock_adds.sched.subset he) (s.newClock_adds.clock.symm ▸ due)
      exact ⟨List.mem_append_left _ (List.mem_append_right _ (State.mem_allDue_of_dated _ dated)), fun h => absurd h.2 (by omega)⟩
    · exact ⟨s.issued_adds.sched.subset he, by omega⟩

end Sys2Proof.Machine

namespace Sys2Proof

open Machine

/-- One clock: the time, what comes due, and memory where no boundary is asked for (R9, R365, R412). -/
theorem waveIssue_arrives (s : State) : ∃ u l f, exec .waveIssue s = .next u ∧ f = s.timeFrac + 1000 * (999800 + s.timeRate) ∧
    u.clock = s.clock + 1 ∧ u.time = s.time + BitVec.ofNat 64 (f / (s.mhz * 1000000)) ∧ u.timeFrac = f % (s.mhz * 1000000) ∧
    u.turns = s.turns ++ l ∧ ((∀ e ∈ s.parts, e.2.want = none) → u.mem = s.mem) ∧
    ∀ e ∈ s.sched, if e.1 ≤ s.clock + 1 then e.2 ∈ l ∧ e ∉ u.sched else e ∈ u.sched := by
  obtain ⟨l, turns, sched⟩ := s.afterClock_spec
  obtain ⟨clock, time, frac⟩ := State.endClock_time s.newClock.issueAll.1 s.newClock.allDue s.newClock.issueAll.2
  have issued := s.issued_adds
  exact ⟨s.afterClock, l, _, execWaveIssue_eq s, rfl, clock.trans issued.clock, time.trans issued.time, frac.trans issued.timeFrac, turns,
    s.afterClock_mem, sched⟩

end Sys2Proof
end

section
/-! Results that arrive (R10), and leaves that enter a translation cache (R320, R322). -/

namespace Sys2Proof.Machine

/-! ## Results -/

/-- A window that closes is one whose result has arrived and of which no further instruction may issue (R10). -/
theorem Outstanding.closes_done (o : Outstanding) : ({ o with state := .done } : Outstanding).closes false = decide (o.left = 0) := by
  simp [Outstanding.closes]

/-- Nothing of a window's result is overwritten when no later instruction has written (R10). -/
theorem Outstanding.results_of_later_nil (o : Outstanding) (h : o.later = []) : o.results = o.writes := by
  simp [Outstanding.results, h]

/-- The one result that is under way to a thread is the next to arrive. -/
theorem Thread.nextResult_single (t : Thread) (o : Outstanding) (wins : t.wins = [o]) (latent : o.state = .latent) : t.nextResult = some o := by
  simp [Thread.nextResult, wins, latent, sortBy, insertBy]

/-- The thread's only window, its result arrived. -/
theorem execLongLatencyCompletion_single (s : State) (w : Who) (t : Thread) (o : Outstanding) (ht : s.thread? w = some t)
    (wins : t.wins = [o]) (latent : o.state = .latent) :
    execLongLatencyCompletion w s =
      .next (s.setThread w (Thread.settle { t with wins := [{ o with state := .done }] } s.clock)) := by
  simp [execLongLatencyCompletion, ht, Thread.nextResult_single t o wins latent, Thread.arrive, wins]

/-- The window closes when no further instruction of it may issue: its results are written. -/
theorem Thread.closeWindows_last (t : Thread) (o : Outstanding) (left : o.left = 0) (later : o.later = []) :
    Thread.closeWindows { t with wins := [{ o with state := .done }] } false = Thread.putAll { t with wins := [] } o.writes := by
  have closes : ({ o with state := .done } : Outstanding).closes false = true := o.closes_done.trans (decide_eq_true left)
  have results : ({ o with state := .done } : Outstanding).results = o.writes := Outstanding.results_of_later_nil _ later
  simp [Thread.closeWindows, closes, results]

/-- The window stays open while a further instruction of it may issue. -/
theorem Thread.closeWindows_open (t : Thread) (o : Outstanding) (left : o.left ≠ 0) :
    Thread.closeWindows { t with wins := [{ o with state := .done }] } false = { t with wins := [{ o with state := .done }] } := by
  simp [Thread.closeWindows, Outstanding.closes_done, left]

/-- A thread that waits for its last result is READY once that is written (R10). -/
theorem Thread.settle_last (t : Thread) (o : Outstanding) (clock : Nat) (left : o.left = 0) (later : o.later = [])
    (status : t.status = .waiting .latency) : Thread.settle { t with wins := [{ o with state := .done }] } clock =
      { Thread.putAll { t with wins := [] } o.writes with status := .ready, readySince := clock } := by
  unfold Thread.settle
  rw [Thread.closeWindows_last t o left later]
  simp [status]

/-- A READY thread keeps its open window, whose result has arrived. -/
theorem Thread.settle_open (t : Thread) (o : Outstanding) (clock : Nat) (left : o.left ≠ 0) (status : t.status = .ready) :
    Thread.settle { t with wins := [{ o with state := .done }] } clock = { t with wins := [{ o with state := .done }] } := by
  unfold Thread.settle
  rw [Thread.closeWindows_open t o left]
  simp [status]

/-- The only result under way to a thread arrives: its window closes when no further instruction of it may issue (R10). -/
theorem longLatencyCompletion_arrives (s : State) (w : Who) (t : Thread) (o : Outstanding) (ht : s.thread? w = some t) (wins : t.wins = [o])
    (latent : o.state = .latent) (later : o.later = []) :
    (o.left = 0 → t.status = .waiting .latency → exec (.longLatencyCompletion w) s =
      .next (s.setThread w { Thread.putAll { t with wins := [] } o.writes with status := .ready, readySince := s.clock })) ∧
    (o.left ≠ 0 → t.status = .ready → exec (.longLatencyCompletion w) s = .next (s.setThread w { t with wins := [{ o with state := .done }] })) := by
  rw [exec_longLatencyCompletion, execLongLatencyCompletion_single s w t o ht wins latent]
  refine ⟨fun left status => ?_, fun left status => ?_⟩
  · rw [Thread.settle_last t o s.clock left later status]
  · rw [Thread.settle_open t o s.clock left status]

/-! ## Leaves -/

/-- A search that failed in a list finds what is put behind the rest of it. -/
theorem find?_drop_append_of_none {α : Type} (p : α → Bool) (l : List α) (x : α) (n : Nat) (miss : l.find? p = none) (hx : p x = true)
    (hn : n ≤ l.length) : ((l ++ [x]).drop n).find? p = some x := by
  rw [List.find?_eq_none] at miss
  rw [List.drop_append_of_le_length hn, List.find?_append, List.find?_eq_none.2 fun y hy => miss y (List.mem_of_mem_drop hy)]
  simp [hx]

/-- A leaf's entry serves the address that was walked. -/
theorem leafEntry_hits (va : BitVec 64) (e : BitVec 128) :
    decide (bits va 47 0 / pageBytes (leafEntry va e).size = (leafEntry va e).page) = true := by
  simp [leafEntry]

/-- A full cache gives up no more than it has. -/
theorem tcacheSize_room (n : Nat) : n + 1 - tcacheSize ≤ n := by
  have pos : 1 ≤ tcacheSize := by decide
  omega

/-- The entry of a list that serves an address (R322). -/
def hit (va : BitVec 64) (l : List TEntry) : Option TEntry := l.find? fun e => decide (bits va 47 0 / pageBytes e.size = e.page)

theorem State.cached_eq (s : State) (va : BitVec 64) :
    s.cached va = (hit va ((KV.at? (s.die (homeDie va)).tcache s.quadrant).getD [])).map TEntry.entry := by
  unfold State.cached hit
  split <;> simp [*]

/-- A walked leaf is found behind the entries that missed. -/
theorem hit_kept (va : BitVec 64) (e : BitVec 128) (l : List TEntry) (miss : hit va l = none) :
    hit va ((l ++ [leafEntry va e]).drop (l.length + 1 - tcacheSize)) = some (leafEntry va e) :=
  find?_drop_append_of_none _ l _ _ miss (leafEntry_hits va e) (tcacheSize_room _)

/-- What a home's cache holds after a leaf is kept. -/
theorem State.tcache_keepLeaf (s : State) (va : BitVec 64) (e : BitVec 128) : ((s.keepLeaf va e).die (homeDie va)).tcache =
    KV.put (s.die (homeDie va)).tcache s.quadrant ((((KV.at? (s.die (homeDie va)).tcache s.quadrant).getD []) ++ [leafEntry va e]).drop
      (((KV.at? (s.die (homeDie va)).tcache s.quadrant).getD []).length + 1 - tcacheSize)) := by
  unfold State.keepLeaf
  rw [State.die_updDie_same]

/-- A kept leaf is found by the agents that its cache serves. -/
theorem State.cached_keepLeaf_same (s : State) (va : BitVec 64) (e : BitVec 128) (miss : s.cached va = none) :
    (s.keepLeaf va e).cached va = some e := by
  rw [State.cached_eq, Option.map_eq_none_iff] at miss
  have quadrant : (s.keepLeaf va e).quadrant = s.quadrant := rfl
  rw [State.cached_eq, quadrant, State.tcache_keepLeaf, KV.at?_put_same, Option.getD_some, hit_kept va e _ miss]
  rfl

/-- The caches of the other quadrants stay as they are. -/
theorem State.cached_keepLeaf_other (s : State) (va x : BitVec 64) (e : BitVec 128) (c : Nat)
    (h : c / Config.coresPerQuadrant % 4 ≠ s.quadrant) : ((s.keepLeaf va e).serving c).cached x = (s.serving c).cached x := by
  have die : (((s.keepLeaf va e).serving c).die (homeDie x)) = (s.keepLeaf va e).die (homeDie x) := rfl
  by_cases home : homeDie x = homeDie va
  · unfold State.cached
    rw [die, home]
    unfold State.keepLeaf
    simp only [State.die_updDie_same, State.serving, KV.at?_put_other h]
    rfl
  · unfold State.cached
    rw [die]
    unfold State.keepLeaf
    simp only [State.die_updDie_other _ _ home, State.serving]
    rfl

/-- A walk that misses and meets no storage error keeps the leaf that it finds. -/
theorem State.translate_of_leaf (s : State) (part lv : Nat) (va : BitVec 64) (e : BitVec 128) (flaws : s.flaws = [])
    (miss : s.cached va = none) (leaf : s.leaf va = .ok (e, lv)) : s.translate part va = s.keepLeaf va e := by
  simp [State.translate, State.readWalk, flaws, miss, leaf]

/-- A table walk keeps its leaf for the agents of its quadrant, and nothing else changes for another (R320, R322). -/
theorem tableWalk_keeps (s : State) (part lv core : Nat) (va : BitVec 64) (k : AccKind) (w : Who) (t : Thread) (e : BitVec 128)
    (ht : s.thread? w = some t) (hcore : core = s.coreOf w t) (flaws : s.flaws = []) (miss : (s.serving core).cached va = none)
    (leaf : (s.serving core).leaf va = .ok (e, lv)) : ∃ u, exec (.tableWalk part va k w) s = .next u ∧ (u.serving core).cached va = some e ∧
      (∀ c x, c / Config.coresPerQuadrant % 4 ≠ core / Config.coresPerQuadrant % 4 → (u.serving c).cached x = (s.serving c).cached x) ∧
      u.mem = s.mem ∧ u.threads = s.threads ∧ u.turns = s.turns := by
  refine ⟨(s.serving core).keepLeaf va e, ?_, State.cached_keepLeaf_same _ va e miss,
    fun c x h => State.cached_keepLeaf_other (s.serving core) va x e c h, rfl, rfl, rfl⟩
  simp only [exec_tableWalk, execTableWalk, ht, ← hcore]
  rw [State.translate_of_leaf (s.serving core) part lv va e flaws miss leaf]

end Sys2Proof.Machine
end

section
/-! What a resolve write does with a fault record and its requests (R324, R325). -/

namespace Sys2Proof.Machine

/-! ## The record -/

/-- The state in which a record that is resolved treats its requests: it is gone, and held records have entered the ring (R324). -/
def State.released (s : State) (part die : Nat) (seq : BitVec 32) : State :=
  ({ s with faults := s.faults.filter fun x => decide (¬(x.part = part ∧ x.die = die ∧ x.seq = seq)) } : State).writeHeld part die

/-- A resolve write that names an open record. -/
theorem State.resolve_named (s : State) (part die : Nat) (seq : BitVec 32) (code : Nat) (k : State → FaultRec → Req → State) (r : FaultRec)
    (h : s.faultNamed part die seq = some r) :
    s.resolve part die seq code k = r.reqs.foldl (fun s q => k s r q) (s.released part die seq) := by
  have others : (fun x : FaultRec => !(decide (x.part = part) && decide (x.die = die) && decide (x.seq = seq))) =
      fun x => decide (¬(x.part = part ∧ x.die = die ∧ x.seq = seq)) := by
    funext x
    simp [Bool.and_assoc]
  unfold State.resolve State.released
  rw [h, ← others]

/-- A resolve write that names none is logged. -/
theorem State.resolve_unnamed (s : State) (part die : Nat) (seq : BitVec 32) (code : Nat) (k : State → FaultRec → Req → State)
    (h : s.faultNamed part die seq = none) : s.LogsOnly (s.resolve part die seq code k) := by
  unfold State.resolve
  rw [h]
  exact State.log_logsOnly _ _ _ _ _ _ _ _ _ _

/-- A resolve write does what its CODE says when its reserved bits are 0 (R325). -/
theorem State.resolveWrite_retry (s : State) (part die : Nat) (v : BitVec 64) (h : bits v 31 2 = 0) (code : bits v 1 0 = 0) :
    s.resolveWrite part die v = s.resolve part die (v.extractLsb' 32 32) 0 State.retryReq := by
  simp [State.resolveWrite, h, code]

theorem State.resolveWrite_trap (s : State) (part die : Nat) (v : BitVec 64) (h : bits v 31 2 = 0) (code : bits v 1 0 = 1) :
    s.resolveWrite part die v = s.resolve part die (v.extractLsb' 32 32) 1 State.trapReq := by
  simp [State.resolveWrite, h, code]

theorem State.resolveWrite_kill (s : State) (part die : Nat) (v : BitVec 64) (h : bits v 31 2 = 0) (code : bits v 1 0 = 2) :
    s.resolveWrite part die v = s.resolve part die (v.extractLsb' 32 32) 2 State.killReq := by
  simp [State.resolveWrite, h, code]

/-- A resolve write with the reserved CODE or a reserved bit is logged, and does nothing else (R325). -/
theorem State.resolveWrite_reserved (s : State) (part die : Nat) (v : BitVec 64) (h : bits v 1 0 = 3 ∨ bits v 31 2 ≠ 0) :
    s.resolveWrite part die v = s.ignoreResolve part die v := by
  obtain code | reserved := h
  · simp [State.resolveWrite, code]
  · simp [State.resolveWrite, reserved]

/-- A resolve write that names an open record treats its requests in their order, by its CODE (R325). -/
theorem resolve_treats_requests (s v : State) (part die : Nat) (seq : BitVec 32) (r : FaultRec) (h : s.faultNamed part die seq = some r)
    (hv : v = s.released part die seq) :
    exec (.resolveRetry part die seq) s = .next (r.reqs.foldl (fun s q => s.retryReq r q) v) ∧
    exec (.resolveTrap part die seq) s = .next (r.reqs.foldl (fun s q => s.trapReq r q) v) ∧
    exec (.resolveKill part die seq) s = .next (r.reqs.foldl (fun s q => s.killReq r q) v) ∧
    ∀ x : BitVec 64, bits x 31 2 = 0 → x.extractLsb' 32 32 = seq →
      (bits x 1 0 = 0 → exec (.registerWrite (.resolve part die) x) s = exec (.resolveRetry part die seq) s) ∧
      (bits x 1 0 = 1 → exec (.registerWrite (.resolve part die) x) s = exec (.resolveTrap part die seq) s) ∧
      (bits x 1 0 = 2 → exec (.registerWrite (.resolve part die) x) s = exec (.resolveKill part die seq) s) := by
  have named (code : Nat) (k : State → FaultRec → Req → State) :
      (.next (s.resolve part die seq code k) : Out) = .next (r.reqs.foldl (fun s q => k s r q) v) := by
    rw [s.resolve_named part die seq code k r h, hv]
  refine ⟨named 0 _, named 1 _, named 2 _, fun x reserved number => ?_⟩
  have write : exec (.registerWrite (.resolve part die) x) s = .next (s.resolveWrite part die x) := rfl
  rw [write]
  refine ⟨fun code => ?_, fun code => ?_, fun code => ?_⟩
  · rw [s.resolveWrite_retry part die x reserved code, number]
    rfl
  · rw [s.resolveWrite_trap part die x reserved code, number]
    rfl
  · rw [s.resolveWrite_kill part die x reserved code, number]
    rfl

/-- A resolve write that names no open record changes no record, thread, turn or group (R325). -/
theorem resolve_without_record (s : State) (part die : Nat) (seq : BitVec 32) (h : s.faultNamed part die seq = none) :
    ∀ i ∈ [Instr.resolveRetry part die seq, .resolveTrap part die seq, .resolveKill part die seq],
      ∃ u, exec i s = .next u ∧ u.faults = s.faults ∧ u.threads = s.threads ∧ u.turns = s.turns ∧ u.groups = s.groups := by
  have logged (code : Nat) (k : State → FaultRec → Req → State) :
      ∃ u, (.next (s.resolve part die seq code k) : Out) = .next u ∧ u.faults = s.faults ∧ u.threads = s.threads ∧ u.turns = s.turns ∧
        u.groups = s.groups := by
    obtain ⟨faults, threads, turns, groups, -⟩ := (s.resolve_unnamed part die seq code k h).frame
    exact ⟨_, rfl, faults, threads, turns, groups⟩
  intro i hi
  simp only [List.mem_cons, List.not_mem_nil, or_false] at hi
  obtain rfl | rfl | rfl := hi
  · exact logged 0 _
  · exact logged 1 _
  · exact logged 2 _

/-! ## The requests -/

/-- What becomes of a thread's parked access and of its parked fetch (R323, R325, R331). -/
theorem thread_requests (s : State) (r : FaultRec) (w : Who) (oid : Nat) (va : BitVec 64) :
    s.retryReq r (.thread w oid va) = { s with turns := s.turns ++ [.redo w oid] } ∧
    s.trapReq r (.thread w oid va) = s.failThread w oid r.cause va ∧ s.trapReq r (.fetch w va) = s.trapAt w r.cause va ∧
    ∀ t, s.thread? w = some t →
      (t.status = .parked .fault → t.wins = [] → ∃ u, s.retryReq r (.fetch w va) = u ∧ u.mem = s.mem ∧
        u.thread? w = some { t with status := .ready, readySince := s.clock }) ∧
      (isEstateHandler w t = false → s.killReq r (.thread w oid va) = s.killGroup t.gid ∧ s.killReq r (.fetch w va) = s.killGroup t.gid) := by
  refine ⟨rfl, rfl, rfl, fun t ht => ⟨fun status wins => ⟨_, rfl, rfl, ?_⟩, fun estate => ?_⟩⟩
  · have woken : t.wake s.clock = { t with status := .ready, readySince := s.clock } := by
      rw [Thread.wake, Thread.windowStatus_none t wins]
    simp only [State.retryReq]
    rw [State.thread?_updThread_same, ht, Option.map_some, if_pos status, woken]
  · have killed : s.killOf w = s.killGroup t.gid := by simp [State.killOf, ht, estate]
    exact ⟨killed, killed⟩

/-- The turn in which a command goes on: a copy waits for room in its queue, another takes its next unit. -/
def Cmd.nextTurn (cid : Nat) (c : Cmd) : Turn := .event (if c.toQueue = true then .copyQueueWrite cid else .engineCommandCompletion cid)

/-- A command that goes on is not held, and its next turn waits. -/
theorem State.resumeCmd_spec (s : State) (cid : Nat) (c : Cmd) (h : KV.at? s.cmds cid = some c) :
    KV.at? (s.resumeCmd cid).cmds cid = some { c with held := false } ∧ c.nextTurn cid ∈ (s.resumeCmd cid).turns ∧
      (s.resumeCmd cid).mem = s.mem := by
  have cmds : KV.at? (s.updCmd cid fun c => { c with held := false }).cmds cid = some { c with held := false } := by
    rw [State.updCmd, KV.at?_upd_same, h]
    rfl
  unfold State.resumeCmd Cmd.nextTurn
  rw [h]
  dsimp only
  split
  · exact ⟨cmds, List.mem_append_right _ (List.mem_singleton.2 rfl), rfl⟩
  · exact ⟨cmds, List.mem_append_right _ (List.mem_singleton.2 rfl), rfl⟩

/-- A page is refused to a command, and the command goes on (R190). -/
theorem State.failHeld_spec (s : State) (cid : Nat) (r : FaultRec) (c : Cmd) (h : KV.at? s.cmds cid = some c) :
    KV.at? (s.failHeld cid r).cmds cid = some { c with held := false, refused := c.refused ++ [(r.page, r.cause)] } ∧
      c.nextTurn cid ∈ (s.failHeld cid r).turns ∧ (s.failHeld cid r).mem = s.mem := by
  let refused : Cmd := { c with refused := c.refused ++ [(r.page, r.cause)] }
  have cmds : KV.at? (s.updCmd cid fun c => { c with refused := c.refused ++ [(r.page, r.cause)] }).cmds cid = some refused := by
    rw [State.updCmd, KV.at?_upd_same, h]
    rfl
  exact State.resumeCmd_spec _ cid refused cmds

/-- What becomes of a held command: it goes on, goes on without the page, or its group is killed (R190, R325, R331). -/
theorem cmd_requests (s : State) (r : FaultRec) (cid : Nat) (c : Cmd) (h : KV.at? s.cmds cid = some c) :
    (∃ u, s.retryReq r (.cmd cid) = u ∧ KV.at? u.cmds cid = some { c with held := false } ∧ c.nextTurn cid ∈ u.turns ∧ u.mem = s.mem) ∧
    (∃ u, s.trapReq r (.cmd cid) = u ∧ KV.at? u.cmds cid = some { c with held := false, refused := c.refused ++ [(r.page, r.cause)] } ∧
      c.nextTurn cid ∈ u.turns ∧ u.mem = s.mem) ∧
    s.killReq r (.cmd cid) = (s.trapReq r (.cmd cid)).killGroup c.gid := by
  refine ⟨⟨_, rfl, s.resumeCmd_spec cid c h⟩, ⟨_, rfl, s.failHeld_spec cid r c h⟩, ?_⟩
  simp [State.killReq, State.trapReq, h]

/-- A held scan that fails ends (R221). -/
theorem State.failScan_spec (s : State) (q : Nat) (cause : BitVec 32) (x : Query) (n : ScanSt) (h : KV.at? s.queries q = some x)
    (scan : x.scan = some n) :
    KV.at? (s.failScan q cause).queries q = some { x with scan := none, streamOpen := false, ending := true } := by
  unfold State.failScan
  rw [h]
  dsimp only
  rw [scan]
  obtain ⟨-, -, -, -, queries⟩ := (State.log_logsOnly (s.updQuery q fun x => { x with scan := none, streamOpen := false, ending := true })
    (some x.part) 0x0070 (x.die % 4) 0 5 (BitVec.ofNat 64 n.next) (cause.setWidth 64) 0 0).frame
  rw [queries, State.updQuery, KV.at?_upd_same, h]
  rfl

/-- What becomes of a held scan and of a held drain (R177, R221, R325). -/
theorem scan_requests (s : State) (r : FaultRec) (q core quarter : Nat) (x : Query) (n : ScanSt) (h : KV.at? s.queries q = some x)
    (scan : x.scan = some n) :
    (∃ u y, s.retryReq r (.scan q) = u ∧ KV.at? u.queries q = some y ∧ y.scan = some { n with held := false } ∧ u.mem = s.mem) ∧
    (∃ u y, s.trapReq r (.scan q) = u ∧ KV.at? u.queries q = some y ∧ y.scan = none ∧ y.streamOpen = false ∧ y.ending = true) ∧
    Turn.event (.reductionDrain core quarter) ∈ (s.retryReq r (.drain core quarter)).turns := by
  refine ⟨⟨_, { x with scan := some { n with held := false } }, rfl, ?_, rfl, rfl⟩,
    ⟨_, _, rfl, s.failScan_spec q r.cause x n h scan, rfl, rfl, rfl⟩, List.mem_append_right _ (List.mem_singleton.2 rfl)⟩
  simp only [State.retryReq]
  rw [State.updQuery, KV.at?_upd_same, h, Option.map_some, scan]
  rfl

end Sys2Proof.Machine

namespace Sys2Proof

open Machine

/-- Settles O43, clause by clause: a clock, an arriving result, a table walk; a resolved record, the requests of threads, commands, scans and
drains, and the writes that are only logged. -/
theorem arrivalsAndResolutions : Obligations.ArrivalsAndResolutions :=
  ⟨⟨waveIssue_arrives, fun s w t o ht wins latent later => longLatencyCompletion_arrives s w t o ht wins latent later,
      fun s part lv core va k w t e => tableWalk_keeps s part lv core va k w t e⟩,
    fun s v part die seq r h hv => resolve_treats_requests s v part die seq r h hv, thread_requests,
    fun s r cid c h => cmd_requests s r cid c h, fun s r q core quarter x n => scan_requests s r q core quarter x n,
    fun s part die seq => resolve_without_record s part die seq,
    fun s part die v h => congrArg Host.Outcome.next (s.resolveWrite_reserved part die v h)⟩

end Sys2Proof
end

section
/-! O23 fails: a load whose sector has one wrong symbol corrects it and records the error (R332, R406), and the record goes into the log of its
partition, which lies in memory (R393, R405). -/

namespace Sys2Proof

open Machine

/-- The thread of the counterexample, at its start. -/
def plainThread : Thread := Thread.start 0 0 0 0 0 0 0 0

/-- The leaf of the first page of the pod: valid, of size and class 0, with key slot 0, which partition 0 may read and write. -/
def firstPage : BitVec 128 := BitVec.ofNat 128 (2 * 2 ^ 64 + 2 ^ 63)

/-- A thread in a state whose sector 0 has one wrong symbol, with the first page in the translation cache and in it, at 0x100, a log of one
record. -/
def wrongSymbol : State :=
  { State.reset with
    cur := .lane 0 0
    threads := [(.lane 0 0, plainThread)]
    dies := [(0, { Die.reset with tcache := [(0, [{ page := 0, size := 0, entry := firstPage }])] })]
    parts := [(0, { Part.reset with logVa := 0x100, logN := 1 })]
    flaws := [.cell 0 0] }

/-- The load of 32 bits at the address in register 0, always executed. -/
def plainLoad : RegF := { neg := false, pred := 0, d := 1, a := 0, b := 0, c := 0, la := 0, mod := 0 }

/-- What the load's read of its four bytes at address 0 leaves, and the cause that it receives. -/
def wrongSymbolRead : State × Option (BitVec 32) :=
  (wrongSymbol.admitted plainThread .gl (some 0) false).readFor (wrongSymbol.victimOf (.lane 0 0) plainThread) 0 { key := 0, slot := some 0 } 4

/-- The read finds nothing that it cannot correct. -/
theorem wrongSymbolRead_cause : wrongSymbolRead.2 = none := by
  decide +kernel

/-- The load passes its checks and reaches the first byte of memory. -/
theorem wrongSymbol_access :
    wrongSymbol.access wrongSymbol.cur plainThread .gl 0 4 Acc.load = .ok { loc := { key := 0, slot := some 0 }, cls := 0 } := by
  rfl

/-- Nothing holds the load back. -/
theorem wrongSymbol_heldBack :
    wrongSymbol.heldBack plainThread .gl (wrongSymbol.homeVa plainThread .gl 0) { key := 0, slot := some 0 } 4 Acc.load.write = none := by
  decide +kernel

/-- The load is performed. -/
theorem wrongSymbolRead_reaches :
    wrongSymbol.Reaches plainThread .gl 0 4 Acc.load { loc := { key := 0, slot := some 0 }, cls := 0 } wrongSymbolRead.1 := by
  have read : wrongSymbolRead = (wrongSymbolRead.1, none) := by
    rw [← wrongSymbolRead_cause]
  exact ⟨wrongSymbol_access, wrongSymbol_heldBack, read⟩

/-- The record of the corrected error stands in memory. -/
theorem wrongSymbolRead_mem : wrongSymbolRead.1.mem ≠ [] := by
  decide +kernel

/-- Refutes O23: performing the load of `wrongSymbol` writes an error record, so it does not leave memory as it was. -/
theorem not_loadsAndStores : ¬ Obligations.LoadsAndStores := by
  unfold Obligations.LoadsAndStores
  rintro ⟨-, access⟩
  obtain ⟨performed, -⟩ := access wrongSymbol wrongSymbolRead.1 plainThread .gl plainLoad _ _ _ _ _ ⟨rfl, rfl⟩ rfl rfl rfl rfl rfl rfl
  obtain ⟨mem, -⟩ := performed 0 4 Acc.load wrongSymbolRead_reaches
  exact wrongSymbolRead_mem mem

end Sys2Proof
end

section
/-! O60 fails: a port beyond 327 that stands among the ports out of service comes up, but its bit lies outside the readiness set of R380. -/

namespace Sys2Proof

open Machine

/-- A bit beyond the readiness set is never set. -/
theorem ready_of_ge (s : State) (bit : Nat) (h : 1024 ≤ bit) : s.ready bit = false :=
  BitVec.getLsbD_of_ge _ _ h

/-- A state in which a port that no die has is out of service. -/
def portAbsentDown : State :=
  { State.reset with fleet := { State.reset.fleet with portsDown := [1000] } }

/-- Refutes O60: port 1000 is among the ports out of service; its readiness bit would be 1696, and the set has 1024 bits, so the clause of
the port that comes up claims a bit that reads 0. -/
theorem not_repairAndLinks : ¬ Obligations.RepairAndLinks := by
  unfold Obligations.RepairAndLinks
  rintro ⟨-, -, -, ports, -⟩
  obtain ⟨-, -, portUp, -, -⟩ := ports portAbsentDown 1000
  obtain ⟨u, -, -, ready⟩ := portUp (List.mem_singleton.mpr rfl)
  exact absurd ready (by simp [ready_of_ge])

end Sys2Proof
end

section
/-! O16: what a turn executes: the word at a thread's PC once its fetch and its operands meet no storage error, an epilogue word at its place,
or an event (R21, R52, R293, R322, R332, R333, R338). -/

namespace Sys2Proof.Machine

/-! ## What a step adds -/

/-- The group's mark that it has begun is all that is added. -/
theorem State.begin_groups (s : State) (gid : Nat) : ∃ groups, s.begin_ gid = { s with groups := groups } := by
  unfold State.begin_
  split
  · split
    · exact ⟨s.groups, rfl⟩
    · exact ⟨_, rfl⟩
  · exact ⟨s.groups, rfl⟩

/-- With no storage error anywhere, a translation changes the caches of the dies alone (R322, R332). -/
theorem State.translate_dies {s : State} (flaws : s.flaws = []) (part : Nat) (va : BitVec 64) :
    ∃ dies, s.translate part va = { s with dies := dies } := by
  have walk : s.readWalk part va = s := by simp [State.readWalk, flaws]
  unfold State.translate
  split
  · exact ⟨s.dies, rfl⟩
  · rw [walk]
    split
    · exact ⟨_, rfl⟩
    · exact ⟨s.dies, rfl⟩

/-- The state in which a thread of core `core` and group `gid` goes on at its PC: it executes, its quadrant's caches serve it, and its group has
begun (R293, R322). -/
def State.going (s : State) (w : Who) (core gid : Nat) : State := (({ s with cur := w } : State).serving core).begin_ gid

/-- With no storage error anywhere, going on and translating leave memory, tags and threads as they are, and add no storage error. -/
theorem State.going_translate_frame {s u : State} (flaws : s.flaws = []) {w : Who} {core gid part : Nat} {va : BitVec 64}
    (translated : u = (s.going w core gid).translate part va) :
    u.flaws = [] ∧ u.mem = s.mem ∧ u.tags = s.tags ∧ u.threads = s.threads ∧ ∀ l n, u.rdNat l n = s.rdNat l n := by
  obtain ⟨groups, begun⟩ := (({ s with cur := w } : State).serving core).begin_groups gid
  obtain ⟨dies, leaf⟩ := State.translate_dies (s := { (({ s with cur := w } : State).serving core) with groups := groups }) flaws part va
  unfold State.going at translated
  rw [begun, leaf] at translated
  subst translated
  exact ⟨flaws, rfl, rfl, rfl, fun _ _ => rfl⟩

/-- With no storage error anywhere, a fetch is not aborted and leaves nothing (R332). -/
theorem State.readFetch_noFlaws {s : State} (flaws : s.flaws = []) (v : Victim) (va : BitVec 64) (l : Loc) :
    s.readFetch v va l = (s, false) := by
  simp [State.readFetch, flaws]

/-- With no storage error anywhere, reading the operands leaves nothing (R332). -/
theorem State.readOperands_noFlaws {s : State} (flaws : s.flaws = []) (w : Who) (t : Thread) (i : Instr) :
    s.readOperands w t i = (s, none) := by
  simp [State.readOperands, flaws]

/-- The word kept for a wave leaves the storage errors as they are. -/
@[simp] theorem State.keepFetch_flaws (s : State) (w : Who) (va : BitVec 64) (x : Option (BitVec 64)) :
    (s.keepFetch w va x).flaws = s.flaws := by
  unfold State.keepFetch
  split <;> rfl

/-! ## What a thread's turn comes to -/

/-- A word whose operands meet no storage error is executed, with the values it replays (R329, R333). -/
theorem State.issueWord_reads {c v : State} {w : Who} {t : Thread} {x : BitVec 64}
    (reads : ({ c with word := x } : State).readOperands w { t with view := t.replayView } (wordInstr (whoStream w) x) = (v, none)) :
    c.issueWord w t x = (v.setThread w { t with view := t.replayView }, some (wordInstr (whoStream w) x)) := by
  simp only [State.issueWord, reads]

/-- A READY thread without a failed window, of a group that is not being saved, goes on at its PC (R329, R338). -/
theorem State.chooseThread_ready {s : State} {w : Who} {t : Thread} (thread : s.thread? w = some t) (ready : t.status = .ready)
    (broken : t.wins.any Outstanding.broken = false) (skips : t.skips.contains t.pc = false) (saving : s.savingOf w t = false) :
    s.chooseThread w = s.goThread w t := by
  simp only [State.chooseThread, thread, ready, broken, skips, saving, ne_eq, not_true_eq_false, decide_false, Bool.or_self,
    Bool.false_eq_true, if_false]

/-- A thread whose wave has fetched its address in this clock goes on with the word that came of it (R21). -/
theorem State.goThread_wave {s : State} {w : Who} {t : Thread} {x : BitVec 64}
    (wave : (s.going w (s.coreOf w t) t.gid).waveFetch w t.pc = some (some x)) :
    s.goThread w t = (s.going w (s.coreOf w t) t.gid).issueWord w t x := by
  unfold State.going at wave ⊢
  simp only [State.goThread, wave]

/-- A thread whose word may be fetched, on no sub-bus that is being swapped and with no storage error, goes on with that word, which is kept for
its wave (R21, R52, R332, R404). -/
theorem State.goThread_fetch {s a c : State} {w : Who} {t : Thread} {p : Place} (going : a = s.going w (s.coreOf w t) t.gid)
    (wave : a.waveFetch w t.pc = none) (walk : a.walkOut t.pc = false) (page : a.gl (a.partOf t) t.pc Want.ex = .ok p)
    (bus : a.subBusOut p.loc = false)
    (fetch : (a.translate (a.partOf t) t.pc).readFetch (a.victimOf w t) t.pc p.loc = (c, false)) :
    s.goThread w t = (c.keepFetch w t.pc (some (BitVec.ofNat 64 (c.rdNat p.loc 8)))).issueWord w t (BitVec.ofNat 64 (c.rdNat p.loc 8)) := by
  have goes : s.goThread w t = a.fetchWord w t := by
    subst going
    unfold State.going at wave ⊢
    simp only [State.goThread, wave]
  have fetches : a.fetchWord w t = a.fetchFrom w t p.loc := by
    simp only [State.fetchWord, walk, page, Bool.false_eq_true, if_false]
  rw [goes, fetches]
  simp only [State.fetchFrom, bus, fetch, Bool.false_eq_true, if_false]

/-! ## The step -/

/-- A step executes what its turn comes to. -/
theorem step_of_choose {s u : State} {i : Instr} {x : Turn} {r : List Turn} (turns : s.turns = x :: r)
    (choose : ({ s with turns := r, turn := x } : State).choose x = (u, some i)) : step s = exec i u := by
  simp only [step, turns, choose]

/-- The thread whose turn it is may issue the word at its PC: it is READY, no window of it has failed, SKIP does not name the word, and its group
is not being saved (R329, R338). -/
structure State.Issues (s : State) (w : Who) (r : List Turn) (t : Thread) : Prop where
  turns : s.turns = .thread w :: r
  thread : s.thread? w = some t
  ready : t.status = .ready
  broken : t.wins.any Outstanding.broken = false
  skips : t.skips.contains t.pc = false
  saving : s.savingOf w t = false

/-- `s` once the turn of `w` has been taken off its list. -/
abbrev State.taking (s : State) (w : Who) (r : List Turn) : State := { s with turns := r, turn := .thread w }

/-- A step executes the word that its thread goes on with, once its operands are read (R333). -/
theorem State.Issues.executes {s c v : State} {w : Who} {r : List Turn} {t : Thread} {x : BitVec 64} {i : Instr} (h : s.Issues w r t)
    (goes : (s.taking w r).goThread w t = c.issueWord w t x) (word : wordInstr (whoStream w) x = i)
    (reads : ({ c with word := x } : State).readOperands w { t with view := t.replayView } i = (v, none)) :
    step s = exec i (v.setThread w { t with view := t.replayView }) := by
  subst word
  refine step_of_choose h.turns ?_
  show (s.taking w r).chooseThread w = _
  rw [State.chooseThread_ready (s := s.taking w r) h.thread h.ready h.broken h.skips h.saving, goes, State.issueWord_reads reads]

/-- What a legal word stands for. -/
theorem wordInstr_ok {st : Stream} {x : BitVec 64} {i : Instr} (h : decode st x = .ok i) : wordInstr st x = i := by
  simp only [wordInstr, h]

/-- What an illegal word stands for (R104). -/
theorem wordInstr_error {st : Stream} {x : BitVec 64} {k : IllCause} (h : decode st x = .error k) :
    wordInstr st x = .illegalEncoding k x := by
  simp only [wordInstr, h]

/-- An epilogue processor executes the word at its place (R276). -/
theorem State.chooseEpilogue_word {s : State} {core half : Nat} {run : DrainRun} {x : BitVec 32} (running : (s.half core half).run = some run)
    (goes : run.finished = false) (word : (s.half core half).store[run.at_]? = some x) :
    s.chooseEpilogue core half = (({ s with cur := .epilogue core half } : State).serving core, esDecode x) := by
  simp only [State.chooseEpilogue, running, goes, word, Bool.false_eq_true, if_false]

end Sys2Proof.Machine

namespace Sys2Proof

open Machine

/-- Settles O16: the word that `State.goThread` goes on with, by whether the wave has fetched it, and the other turns. -/
theorem stepRunsDecoded : Obligations.StepRunsDecoded := by
  unfold Obligations.StepRunsDecoded
  refine ⟨fun s w r t turns thread ready broken skips saving => ?_, fun s core half r run x i turns running goes word decodes => ?_,
    fun s i r turns => step_of_choose turns rfl, fun s turns power => ?_⟩
  · have issues : s.Issues w r t := ⟨turns, thread, ready, broken, skips, saving⟩
    intro a u runs
    have runs_of_goes {c : State} {x : BitVec 64} (goes : (s.taking w r).goThread w t = c.issueWord w t x) : runs c x :=
      ⟨fun i v legal reads => issues.executes goes (wordInstr_ok legal) reads, fun k v illegal reads => issues.executes goes (wordInstr_error illegal) reads⟩
    refine ⟨fun x wave => runs_of_goes (State.goThread_wave wave), fun p wave walk page bus => ?_⟩
    intro b
    refine ⟨?_, ?_⟩
    · rintro c x fetch rfl
      exact runs_of_goes (State.goThread_fetch rfl wave walk page bus fetch)
    · rintro flaws x i rfl legal
      obtain ⟨flaws_b, mem, tags, threads, read⟩ := State.going_translate_frame (s := s.taking w r) (u := b) flaws rfl
      have goes := State.goThread_fetch (s := s.taking w r) (t := t) (c := b) rfl wave walk page bus (State.readFetch_noFlaws flaws_b _ _ _)
      rw [read p.loc 8] at goes
      exact ⟨(runs_of_goes goes).1 i _ legal (State.readOperands_noFlaws (by simp [flaws_b]) w u i), mem, tags, threads⟩
  · have chosen := State.chooseEpilogue_word (s := { s with turns := r, turn := .epilogue core half }) running goes word
    rw [decodes] at chosen
    exact step_of_choose turns chosen
  · simp only [step, turns, power, if_true]

end Sys2Proof
end

section
/-! O5: what completing an instruction writes, and that every guarded word asks its guard before anything else (R21, R43, R94). -/

namespace Sys2Proof.Machine

/-! ## Destinations -/

/-- A lane register reads back the low 32 bits that were written to it (R43). -/
theorem Thread.content_put_reg {t : Thread} {c : Nat} {v : BitVec 64} (wf : Sparse.wf t.regs = true) (hc : c < 0x94) :
    (t.put (.reg c) v).content (.reg c) = (v.setWidth 32).setWidth 64 := by
  simp [Thread.put, Thread.content, hc, Sparse.rd_wr_same wf]

/-- An `s` register reads back what was written to it (R25). -/
theorem Thread.content_put_sreg {t : Thread} {n : Nat} {v : BitVec 64} (wf : Sparse.wf t.sregs = true) (hn : n < 64) :
    (t.put (.sreg n) v).content (.sreg n) = v := by
  simp [Thread.put, Thread.content, hn, Sparse.rd_wr_same wf]

/-- One bit, shifted to place `n` of a byte. -/
theorem byteBit_getLsbD {n m : Nat} (hn : n < 8) : ((1 : BitVec 8) <<< n).getLsbD m = decide (m = n) := by
  simp only [BitVec.getLsbD_shiftLeft]
  grind

/-- Writing a predicate sets or clears its bit, and no other (R43). -/
theorem Thread.put_pred_getLsbD (t : Thread) {n : Nat} (v : BitVec 64) (h0 : 0 < n) (h8 : n < 8) (m : Nat) :
    (t.put (.pred n) v).preds.getLsbD m = if m = n then decide (v ≠ 0) else t.preds.getLsbD m := by
  have hn : ¬(n = 0 ∨ 8 ≤ n) := by omega
  have beyond : t.preds.getLsbD m = true → m < 8 := BitVec.lt_of_getLsbD
  by_cases hv : v = 0
  · simp only [Thread.put, hn, hv, if_true, if_false, BitVec.getLsbD_and, BitVec.getLsbD_not, byteBit_getLsbD h8]
    grind
  · simp only [Thread.put, hn, hv, if_false, BitVec.getLsbD_or, byteBit_getLsbD h8]
    grind

/-- A predicate becomes set or clear (R43). -/
theorem Thread.content_put_pred {t : Thread} {n : Nat} {v : BitVec 64} (h0 : 0 < n) (h8 : n < 8) :
    (t.put (.pred n) v).content (.pred n) = if v = 0 then 0 else 1 := by
  simp only [Thread.content, Thread.put_pred_getLsbD t v h0 h8, if_true]
  by_cases hv : v = 0 <;> simp [hv]

/-- Writing a destination leaves the content of every other one alone (R43, R91). -/
theorem Thread.content_put_other (t : Thread) {d e : Dest} (v : BitVec 64) (h : e ≠ d) : (t.put d v).content e = t.content e := by
  cases d with
  | reg c =>
    simp only [Thread.put]
    split
    · cases e with
      | reg k =>
        have hk : k ≠ c := fun hk => h (congrArg Dest.reg hk)
        simp [Thread.content, hk]
      | _ => rfl
    · rfl
  | sreg n =>
    simp only [Thread.put]
    split
    · cases e with
      | sreg k =>
        have hk : k ≠ n := fun hk => h (congrArg Dest.sreg hk)
        simp [Thread.content, hk]
      | _ => rfl
    · rfl
  | pred n =>
    by_cases hn : n = 0 ∨ 8 ≤ n
    · simp [Thread.put, hn]
    · cases e with
      | pred k =>
        have hk : k ≠ n := fun hk => h (congrArg Dest.pred hk)
        simp only [Thread.content, Thread.put_pred_getLsbD t v (n := n) (by omega) (by omega), hk, if_false]
      | _ =>
        simp only [Thread.put, hn, if_false]
        split <;> rfl
  | recTs =>
    cases e with
    | recTs => exact absurd rfl h
    | _ => rfl
  | recSeq =>
    cases e with
    | recSeq => exact absurd rfl h
    | _ => rfl
  | recFlags =>
    cases e with
    | recFlags => exact absurd rfl h
    | _ => rfl

/-! ## Guards -/

/-- A transfer of a thread with no open window only goes to the next word when its guard is false (R10, R94). -/
theorem State.transfer_false {s : State} {t : Thread} {n : Bool} {p : BitVec 3} (h : s.thread? s.cur = some t) (w : t.wins = [])
    (g : t.guard n p = false) (k : Thread → State) : s.transfer n p k = .next (s.done t []) := by
  simp [State.transfer, h, w, g]

/-- An outcome whose meaning asks its guard before it does anything else: as any instruction does, or as a control transfer does (R21, R94,
R192). -/
def State.Guarded (s : State) (neg : Bool) (pred : BitVec 3) (o : Out) : Prop :=
  (∃ k, o = s.act neg pred k) ∨ ∃ k, o = s.transfer neg pred k

/-- With its guard false, a guarded instruction of a plain thread only goes to the next word (R21, R94). -/
theorem State.Guarded.skips {s : State} {t : Thread} {n : Bool} {p : BitVec 3} {o : Out} (guarded : s.Guarded n p o)
    (h : s.thread? s.cur = some t) (plain : t.Plain) (g : t.guard n p = false) : o = .next (s.done t []) := by
  obtain ⟨k, rfl⟩ | ⟨k, rfl⟩ := guarded
  · exact State.act_false h g k
  · obtain ⟨wins, -⟩ := plain
    exact State.transfer_false h wins g k

/-- Every word in register or memory format asks its guard first. -/
theorem exec_guarded_of_regCode (s : State) {i : Instr} {op : Nat} {f : RegF} (h : regCode i = some (op, f)) :
    s.Guarded f.neg f.pred (exec i s) := by
  cases i
  -- The control transfers ask it once every open window has ended (R192).
  case brx | callx | ret | rjoin | exit | yield | tret =>
    obtain ⟨⟩ := h
    unfold exec
    exact .inr ⟨_, rfl⟩
  all_goals (obtain ⟨⟩ := h)
  all_goals (unfold exec; exact .inl ⟨_, rfl⟩)

/-- Every word in immediate format asks its guard first. -/
theorem exec_guarded_of_immCode (s : State) {i : Instr} {op : Nat} {f : ImmF} (h : immCode i = some (op, f)) :
    s.Guarded f.neg f.pred (exec i s) := by
  cases i
  -- The control transfers ask it once every open window has ended (R192).
  case bra | fbra | call =>
    obtain ⟨⟩ := h
    unfold exec
    exact .inr ⟨_, rfl⟩
  all_goals (obtain ⟨⟩ := h)
  all_goals (unfold exec; exact .inl ⟨_, rfl⟩)

end Sys2Proof.Machine

namespace Sys2Proof

open Machine

/-- Settles O5: completion by `State.done_plain`, the destinations one by one, and the false guard through `State.Guarded`. -/
theorem completionAndWrites : Obligations.CompletionAndWrites := by
  unfold Obligations.CompletionAndWrites
  refine ⟨fun s t ws _ plain => State.done_plain plain ws, fun t v regs sregs => ?_, fun s t i h plain => ⟨?_, ?_⟩⟩
  · exact ⟨fun c hc => Thread.content_put_reg regs hc, rfl, fun n hn => Thread.content_put_sreg sregs hn,
      fun n h0 h8 => Thread.content_put_pred h0 h8, rfl, rfl, rfl, rfl, fun d e ne => Thread.content_put_other t v ne⟩
  · exact fun op f code g => (exec_guarded_of_regCode s code).skips h plain g
  · exact fun op f code g => (exec_guarded_of_immCode s code).skips h plain g

end Sys2Proof
end

section
/-! O32 fails: a system call that waits for SPACE has read its ring's control block; where a sector of that has one wrong symbol, the read corrects
it and records the error (R332, R406), and the record goes into the log of its partition, which lies in memory (R393, R405). -/

namespace Sys2Proof.Machine

/-- Waiting in a word's wait list leaves memory as it is. -/
@[simp] theorem State.waitTag_mem (s : State) (t : Thread) (la : BitVec 4) (spc : Space) (ea : BitVec 64) (p : Place) (ds : List Dest)
    (a : WaitAct) : (s.waitTag t la spc ea p ds a).mem = s.mem := rfl

/-- A system call whose ring is full waits on SPACE in the state that the read of the ring's control block has left (R215, R332). -/
theorem execSysrpc_waits {s u v : State} {t : Thread} {f : RegF} {part die : Nat} {q r : Ring} (executes : s.Executes t f.neg f.pred)
    (releases : s.ReleasesAll t u) (hpart : part = s.partOf t) (hdie : die = s.coreOf s.cur t / Config.coresPerDie)
    (before : s.ring? part die = some q) (ring : u.ring? part die = some r) (bus : u.ringOut part r = false)
    (read : u.readFor (u.victimOf u.cur t) (r.spaceVa - 20) r.block 24 = (v, none)) (full : fullish (v.tagAt (r.space.key / 4)) = true) :
    ∃ ds a, exec (.sysrpc f) s = .next (v.waitTag t f.la .gl r.spaceVa { loc := r.space, cls := 3 } ds a) := by
  subst hpart hdie
  rw [exec_sysrpc, execSysrpc, State.act_true executes]
  simp only [before, State.releaseFirst_done releases, ring, bus, read, full, Bool.false_eq_true, if_false, if_true]
  exact ⟨_, _, rfl⟩

end Sys2Proof.Machine

namespace Sys2Proof

open Machine

/-- A steward in a partition whose system-call ring of die 0 has its control block at 0x1000, with BASE 0x200, N and PROD 4 and SPACE
FULL. The sector of the block has one wrong symbol, and the partition's log of one record lies at 0x100. -/
def wrongRing : State :=
  { State.reset with
    cur := .steward 0
    threads := [(.steward 0, plainThread)]
    dies := [(0, { Die.reset with tcache := [(0, [{ page := 0, size := 0, entry := firstPage }])] })]
    parts := [(0, { Part.reset with rings := [0x1000, 0, 0, 0], logVa := 0x100, logN := 1 })]
    mem := [(0x1001, 2), (0x1008, 4), (0x1010, 4)]
    tags := [(0x405, 1)]
    flaws := [.cell 0x80 0] }

/-- That ring. -/
def fullRing : Ring :=
  { spaceVa := 0x1014, prod := { key := 0x1010, slot := some 0 }, space := { key := 0x1014, slot := some 0 }, base := 0x200, n := 4, count := 4 }

theorem wrongRing_ring : wrongRing.ring? 0 0 = some fullRing := by
  decide +kernel

/-- A system call, always executed. -/
def plainCall : RegF := { neg := false, pred := 0, d := 1, a := 2, b := 3, c := 0x94, la := 0, mod := 0 }

/-- What the read of the ring's control block leaves, and the cause that it receives. -/
def wrongRingRead : State × Option (BitVec 32) :=
  wrongRing.readFor (wrongRing.victimOf wrongRing.cur plainThread) (fullRing.spaceVa - 20) fullRing.block 24

/-- The read finds nothing that it cannot correct. -/
theorem wrongRingRead_eq : wrongRingRead = (wrongRingRead.1, none) := by
  have cause : wrongRingRead.2 = none := by decide +kernel
  rw [← cause]

/-- The record of the corrected error stands in memory. -/
theorem wrongRingRead_mem : wrongRingRead.1.mem ≠ wrongRing.mem := by
  decide +kernel

/-- The ring is still full. -/
theorem wrongRingRead_full : fullish (wrongRingRead.1.tagAt (fullRing.space.key / 4)) = true := by
  decide +kernel

/-- Refutes O32: the system call of `wrongRing` waits on SPACE, but the read of the control block has written an error record, so it does not leave
memory as it was. -/
theorem not_sharingRegionsAndCalls : ¬ Obligations.SharingRegionsAndCalls := by
  unfold Obligations.SharingRegionsAndCalls
  rintro ⟨-, calls⟩
  have executes : wrongRing.Executes plainThread plainCall.neg plainCall.pred := ⟨rfl, rfl⟩
  have releases : wrongRing.ReleasesAll plainThread wrongRing := ⟨rfl, rfl⟩
  have bus : wrongRing.ringOut 0 fullRing = false := by decide +kernel
  obtain ⟨-, ringed, -⟩ := calls wrongRing wrongRing plainThread plainCall 0 0 executes releases rfl (by decide +kernel)
  obtain ⟨waits, -⟩ := ringed fullRing fullRing _ wrongRing_ring wrongRing_ring bus wrongRingRead_eq
  obtain ⟨w, x, next, -, -, -, mem⟩ := waits (by decide +kernel)
  obtain ⟨ds, a, waited⟩ := execSysrpc_waits executes releases rfl (by decide +kernel) wrongRing_ring wrongRing_ring bus wrongRingRead_eq
    wrongRingRead_full
  have same := Host.Outcome.next.inj (waited.symm.trans next)
  rw [← same, State.waitTag_mem] at mem
  exact wrongRingRead_mem mem

end Sys2Proof
end

section
/-! O25 fails: a flush point whose lowest failing entry met an uncorrectable error at its home consumes that error (R332, R333), and its report
goes to the core's containment regions (R334, R335). It takes no trap there. -/

namespace Sys2Proof.Machine

/-- An error that is consumed is reported to its core in a turn of its own (R334). -/
theorem State.consume_turns (s : State) (t : Thread) (la : BitVec 4) (ds : List Dest) (cause : BitVec 32) (addr : BitVec 64) :
    ∃ report, (s.consume t la ds cause addr).turns = s.turns ++ [.event report] := ⟨_, rfl⟩

/-- A flush point consumes the error that the drain of its lowest failing entry met (R177, R332). -/
theorem State.flushThen_aborts {s u : State} {t : Thread} {q : Nat} {va : BitVec 64} (quarter : quarterOf s.cur t = some q)
    (flushed : u = s.flushOnce t (s.coreOf s.cur t) q) (drained : u.drainHeld (s.coreOf s.cur t) q = false)
    (failed : u.drainFailure (s.coreOf s.cur t) q s.cur = some (0x020D, va)) (k : State → State) :
    s.flushThen t k = (u.dropFailures (s.coreOf s.cur t) q s.cur).consume t 0 [] 0x020D va := by
  subst flushed
  simp only [State.flushThen, quarter, drained, failed, Bool.false_eq_true, if_false, if_true]

end Sys2Proof.Machine

namespace Sys2Proof

open Machine

/-- One unsigned 32-bit `red.add` of 1 to the word at 0x40. -/
def bufferedOne : AtomEntry :=
  { va := 0x40, op := 0, type := 7, int := 1, fp := Exact.zero, part := 0, held := false, sentBy := none, due := 0, failed := none }

/-- A lane thread whose quarter buffers that entry, with the first page in the translation cache. The cache slice has an uncorrectable error in
the sector of the word. -/
def brokenSum : State :=
  { State.reset with
    cur := .lane 0 0
    threads := [(.lane 0 0, plainThread)]
    dies := [(0, { Die.reset with tcache := [(0, [{ page := 0, size := 0, entry := firstPage }])] })]
    cores := [(0, { CoreSt.reset with atom := [(0, [bufferedOne])] })]
    flaws := [.slice 2 true] }

/-- `redflush`, always executed. -/
def plainFlush : RegF := { neg := false, pred := 0, d := 0x94, a := 0x94, b := 0x94, c := 0x94, la := 0, mod := 0 }

/-- That state after its flush point has sent the entry to its home. -/
def brokenSumFlushed : State := brokenSum.flushOnce plainThread 0 0

/-- Nothing is left to be added, and the entry has failed with an aborted read. -/
theorem brokenSumFlushed_fails :
    brokenSumFlushed.drainHeld 0 0 = false ∧ brokenSumFlushed.drainFailure 0 0 (.lane 0 0) = some (0x020D, 0x40) := by
  decide +kernel

/-- A trap there would leave no turn. -/
theorem brokenSumFlushed_trap_turns : ((brokenSumFlushed.dropFailures 0 0 (.lane 0 0)).trap plainThread 0x020D 0x40).turns = [] := by
  decide +kernel

/-- Refutes O25: the `redflush` of `brokenSum` consumes the error of its entry, which leaves a report to the core, where the statement has a trap. -/
theorem not_reductions : ¬ Obligations.Reductions := by
  unfold Obligations.Reductions
  rintro ⟨-, -, -, -, failing⟩
  obtain ⟨drained, failed⟩ := brokenSumFlushed_fails
  have executes : brokenSum.Executes plainThread plainFlush.neg plainFlush.pred := ⟨rfl, rfl⟩
  have quarter : quarterOf brokenSum.cur plainThread = some 0 := rfl
  have core : brokenSum.coreOf brokenSum.cur plainThread = 0 := by decide +kernel
  have traps := failing brokenSum plainThread plainFlush 0 0 brokenSumFlushed 0x020D 0x40 executes quarter core.symm rfl drained failed
  have consumes : exec (.redflush plainFlush) brokenSum =
      .next ((brokenSumFlushed.dropFailures 0 0 brokenSum.cur).consume plainThread 0 [] 0x020D 0x40) := by
    rw [exec_redflush, execRedflush, State.act_true executes,
      State.flushThen_aborts quarter (u := brokenSumFlushed) (by rw [core]; rfl) (by rwa [core]) (by rw [core]; exact failed), core]
  have same := Host.Outcome.next.inj (consumes.symm.trans traps)
  obtain ⟨report, turns⟩ := (brokenSumFlushed.dropFailures 0 0 brokenSum.cur).consume_turns plainThread 0 [] 0x020D 0x40
  rw [same] at turns
  exact List.append_ne_nil_of_right_ne_nil _ (List.cons_ne_nil _ _) (turns.symm.trans brokenSumFlushed_trap_turns)

end Sys2Proof
end

section
/-! What the service and sandbox cores reach (R52, R323, R325, R382 to R384, R387, R395). Every act that accesses memory goes through one access: its
translation, and then the register window or the places of its bytes. -/

namespace Sys2Proof.Machine

/-! ## Traps of the cores -/

@[simp] theorem State.rvCore_updRv_same (s : State) (core : Nat) (f : RvCore → RvCore) : (s.updRv core f).rvCore core = f (s.rvCore core) := by
  simp [State.rvCore, State.updRv]

@[simp] theorem RvCore.csr_setCsr_same (c : RvCore) (n : Nat) (v : BitVec 64) : (c.setCsr n v).csr n = v := by
  simp [RvCore.csr, RvCore.setCsr]

@[simp] theorem RvCore.csr_setCsr_other (c : RvCore) {n m : Nat} (v : BitVec 64) (h : m ≠ n) : (c.setCsr n v).csr m = c.csr m := by
  simp [RvCore.csr, RvCore.setCsr, h]

/-- A control and status register does not depend on the level and the pc. -/
@[simp] theorem RvCore.csr_at (c : RvCore) (mode : RvMode) (virt : Bool) (pc : BitVec 64) (n : Nat) :
    ({ c with mode := mode, virt := virt, pc := pc } : RvCore).csr n = c.csr n := rfl

/-- A trap changes no register of the core. -/
theorem RvCore.trap_regs (c : RvCore) (cause tval : BitVec 64) : (c.trap cause tval).regs = c.regs := by
  unfold RvCore.trap
  cases c.level cause <;> rfl

/-- A trap in M mode is taken there (R52, R382). -/
theorem RvCore.trap_machine (c : RvCore) (cause tval : BitVec 64) (mode : c.mode = .m) :
    (c.trap cause tval).mode = .m ∧ (c.trap cause tval).csr 0x342 = cause ∧ (c.trap cause tval).csr 0x341 = c.pc ∧
      (c.trap cause tval).csr 0x343 = tval ∧ (c.trap cause tval).pc = vectorOf (c.csr 0x305) cause := by
  have level : c.level cause = .machine := if_pos mode
  unfold RvCore.trap
  simp [level]

/-- A trap below M mode, outside a guest, is taken in S mode (R52, R384). -/
theorem RvCore.trap_super (c : RvCore) (cause tval : BitVec 64) (mode : c.mode ≠ .m) (host : c.virt = false) :
    (c.trap cause tval).mode = .s ∧ (c.trap cause tval).csr 0x142 = cause ∧ (c.trap cause tval).csr 0x141 = c.pc ∧
      (c.trap cause tval).csr 0x143 = tval ∧ (c.trap cause tval).pc = vectorOf (c.csr 0x105) cause := by
  have level : c.level cause = .super := by simp [RvCore.level, mode, host]
  have pc (n : Nat) (v : BitVec 64) : (c.setCsr n v).pc = c.pc := rfl
  unfold RvCore.trap
  simp [level, RvCore.enterS, pc]

/-! ## Places -/

/-- Where the first byte cannot be reached, none is. -/
theorem State.rvPlaces_error {s : State} {part n : Nat} {svc : Bool} {w : Want} {pa : BitVec 56} {f : RvFail} (pos : 0 < n)
    (first : s.rvPlace part svc w pa = .error f) : s.rvPlaces part svc w pa n = .error f := by
  cases n with
  | zero => contradiction
  | succ n => simp only [State.rvPlaces, first]

/-- An address outside the space reaches nothing (R382). -/
theorem State.rvPlace_outside {s : State} {part : Nat} {svc : Bool} {w : Want} {pa : BitVec 56} (outside : bits pa 55 50 ≠ 0) :
    s.rvPlace part svc w pa = .error .access := if_pos outside

/-- A sandbox core reaches pages of class sandbox and notify only (R384). -/
theorem State.rvPlace_sandbox {s : State} {part : Nat} {w : Want} {pa : BitVec 56} {p : Place} (inside : bits pa 55 50 = 0)
    (there : s.gl part (s.rvVa pa) w = .ok p) (sandbox : p.cls ≠ 2) (notify : p.cls ≠ 4) : s.rvPlace part false w pa = .error .access := by
  simp [State.rvPlace, inside, there, sandbox, notify]

/-- Nothing is fetched from a notify page (R387). -/
theorem State.rvPlace_fetch_notify {s : State} {part : Nat} {svc : Bool} {pa : BitVec 56} {p : Place} (inside : bits pa 55 50 = 0)
    (there : s.gl part (s.rvVa pa) Want.ex = .ok p) (notify : p.cls = 4) : s.rvPlace part svc Want.ex pa = .error .access := by
  have fetch : Want.ex.fetch = true := rfl
  simp [State.rvPlace, inside, there, notify, fetch]

/-- An absent page parks a service core at its home (R323, R382). -/
theorem State.rvPlace_absent {s : State} {part : Nat} {w : Want} {pa : BitVec 56} {c : BitVec 32} {e : BitVec 128} {l : Nat}
    (inside : bits pa 55 50 = 0) (absent : s.gl part (s.rvVa pa) w = .error (.fault c e l)) :
    s.rvPlace part true w pa = .error (.park (s.rvVa pa) c e l) := by
  simp [State.rvPlace, inside, absent]

/-- Places none of which lies in a notify page. -/
theorem all_not_notify_eq_true {ps : List Place} (h : ∀ p ∈ ps, p.cls ≠ 4) : (ps.all fun p => decide (p.cls ≠ 4)) = true := by
  simpa using h

/-- Places that are not all outside notify pages have one in a notify page. -/
theorem all_not_notify_eq_false {ps : List Place} (h : ∃ p ∈ ps, p.cls = 4) : (ps.all fun p => decide (p.cls ≠ 4)) = false := by
  simpa using h

/-- Without storage errors a read of places finds none. -/
theorem State.readPlaces_noFlaws {s : State} (h : s.flaws = []) (part : Nat) (va : BitVec 64) (ls : List Loc) :
    s.readPlaces part va ls = (s, false) := by
  simp [State.readPlaces, h]

/-! ## One access -/

section
variable {s u : State} {core part n : Nat} {svc : Bool} {a : RvAct} {pa : BitVec 56} {window : State → BitVec 56 → State}
  {k : State → BitVec 56 → List Place → State}

theorem State.RvTranslates.awake (h : s.RvTranslates core part svc a n pa u) : (s.rvCore core).parked = false := h.1

theorem State.RvTranslates.owned (h : s.RvTranslates core part svc a n pa u) : s.rvPart core = some (part, svc) := h.2.1

/-- The access does not cross a page of 4 KiB. -/
theorem State.RvTranslates.fits (h : s.RvTranslates core part svc a n pa u) : ¬ 4096 < a.addr.toNat % 4096 + n := Nat.not_lt.2 h.2.2.1

/-- The tables that the translation reads, none of which waits for a sub-bus. -/
theorem State.RvTranslates.tables (h : s.RvTranslates core part svc a n pa u) :
    ∃ reads, s.rvTranslate part svc (s.rvCore core) a.want a.addr = (reads, .ok pa) ∧
      (reads.any fun x => s.readOut part (s.rvVa x) 8) = false ∧ u = reads.foldl (fun s x => s.touchRead part [s.rvVa x]) s := by
  obtain ⟨-, -, -, reads, translates, inUse, read⟩ := h
  exact ⟨reads, translates, List.any_eq_false.2 fun x m => by simp [inUse x m], read⟩

/-- The bytes themselves wait for no sub-bus. -/
theorem State.RvReaches.ready (h : s.RvReaches core part svc a n pa u) :
    (decide (bits pa 55 50 = 0) && u.readOut part (u.rvVa pa) n) = false := by
  obtain ⟨-, -, bus⟩ := h
  rwa [Bool.and_eq_false_iff, decide_eq_false_iff_not]

/-- An access of the register window (R383). -/
theorem State.rvAccess_window (h : s.RvTranslates core part svc a n pa u) (inside : inWindow svc pa n = true) :
    s.rvAccess core part svc a n window k = window u pa := by
  obtain ⟨reads, translates, bus, rfl⟩ := h.tables
  simp only [State.rvAccess, if_neg h.fits, translates, bus, inside, Bool.false_eq_true, if_false, if_true]

/-- An access one of whose bytes cannot be reached fails. -/
theorem State.rvAccess_fails (h : s.RvReaches core part svc a n pa u) {f : RvFail} (places : u.rvPlaces part svc a.want pa n = .error f) :
    s.rvAccess core part svc a n window k = u.rvFail core part a f := by
  have ready := h.ready
  obtain ⟨translated, outside, -⟩ := h
  obtain ⟨reads, translates, bus, rfl⟩ := translated.tables
  simp only [State.rvAccess, if_neg translated.fits, translates, bus, outside, ready, places, Bool.false_eq_true, if_false]

/-- An access whose bytes can all be reached is made at their places. -/
theorem State.rvAccess_made (h : s.RvReaches core part svc a n pa u) {ps : List Place} (places : u.rvPlaces part svc a.want pa n = .ok ps) :
    s.rvAccess core part svc a n window k = k u pa ps := by
  have ready := h.ready
  obtain ⟨translated, outside, -⟩ := h
  obtain ⟨reads, translates, bus, rfl⟩ := translated.tables
  simp only [State.rvAccess, if_neg translated.fits, translates, bus, outside, ready, places, Bool.false_eq_true, if_false]

end

/-! ## Acts -/

/-- A core that no partition has does nothing. -/
theorem State.rvAct_unowned {s : State} {core : Nat} (a : RvAct) (h : s.rvPart core = none) : s.rvAct core a = s := by
  simp [State.rvAct, h]

/-- A core whose access is parked does nothing. -/
theorem State.rvAct_parked {s : State} {core : Nat} (a : RvAct) (h : (s.rvCore core).parked = true) : s.rvAct core a = s := by
  simp [State.rvAct, h]

section
variable {s : State} {core part : Nat} {svc : Bool} (awake : (s.rvCore core).parked = false) (owned : s.rvPart core = some (part, svc))
include awake owned

theorem State.rvAct_load (va : BitVec 64) (n rd : Nat) : s.rvAct core (.load va n rd) = s.rvLoad core part svc va n rd := by
  simp [State.rvAct, awake, owned]

theorem State.rvAct_store (va : BitVec 64) (v : List Byte) : s.rvAct core (.store va v) = s.rvStore core part svc va v := by
  simp [State.rvAct, awake, owned]

theorem State.rvAct_atomic (op : RvAmo) (va : BitVec 64) (n rd x : Nat) :
    s.rvAct core (.atomic op va n rd x) = s.rvAtomic core part svc op va n rd x := by
  simp [State.rvAct, awake, owned]

theorem State.rvAct_fetch (va : BitVec 64) : s.rvAct core (.fetch va) =
    s.rvAccess core part svc (.fetch va) 2 (fun s _ => s.rvFault core (.fetch va)) fun s _ _ => s.updRv core fun c => { c with pc := va } := by
  simp [State.rvAct, awake, owned]

theorem State.rvAct_interrupt : s.rvAct core .interrupt = if svc then s else { s with irqs := s.irqs ++ [.sandbox part core] } := by
  simp [State.rvAct, awake, owned]

end

/-- An atomic that is misaligned or not of 4 or 8 bytes takes an access fault. -/
theorem State.rvAtomic_misaligned {s : State} {core part n : Nat} {svc : Bool} {op : RvAmo} {va : BitVec 64} {rd x : Nat}
    (h : (n ≠ 4 ∧ n ≠ 8) ∨ va.toNat % n ≠ 0) : s.rvAtomic core part svc op va n rd x = s.rvFault core (.atomic op va n rd x) := if_pos h

/-- The act accesses `n` bytes of memory, as a load, a store, an aligned atomic or a fetch. -/
def RvAct.Accesses (n : Nat) : RvAct → Prop
  | .load _ m _ => n = m
  | .store _ v => n = v.length
  | .atomic _ va m _ _ => n = m ∧ (n = 4 ∨ n = 8) ∧ va.toNat % n = 0
  | .fetch _ => n = 2
  | _ => False

/-- An access one of whose bytes cannot be reached fails (R52, R323, R382). -/
theorem State.rvAct_fails {s u : State} {core part n : Nat} {svc : Bool} {a : RvAct} {pa : BitVec 56} {f : RvFail}
    (h : s.RvReaches core part svc a n pa u) (accesses : a.Accesses n) (places : u.rvPlaces part svc a.want pa n = .error f) :
    s.rvAct core a = u.rvFail core part a f := by
  have awake := h.1.awake
  have owned := h.1.owned
  cases a with
  | load va m rd =>
    obtain rfl : n = m := accesses
    rw [State.rvAct_load awake owned, State.rvLoad]
    exact State.rvAccess_fails h places
  | store va v =>
    obtain rfl : n = v.length := accesses
    rw [State.rvAct_store awake owned, State.rvStore]
    exact State.rvAccess_fails h places
  | atomic op va m rd x =>
    obtain ⟨rfl, size, aligned⟩ : n = m ∧ (n = 4 ∨ n = 8) ∧ va.toNat % n = 0 := accesses
    rw [State.rvAct_atomic awake owned, State.rvAtomic, if_neg (by omega)]
    exact State.rvAccess_fails h places
  | fetch va =>
    obtain rfl : n = 2 := accesses
    rw [State.rvAct_fetch awake owned]
    exact State.rvAccess_fails h places
  | _ => exact accesses.elim

/-- A load takes its bytes as they stand at their home (R387, R395). -/
theorem State.rvAct_load_made {s u : State} {core part n rd : Nat} {svc : Bool} {va : BitVec 64} {pa : BitVec 56} {ps : List Place}
    (h : s.RvReaches core part svc (.load va n rd) n pa u) (places : u.rvPlaces part svc Want.rd pa n = .ok ps) (flaws : u.flaws = []) :
    s.rvAct core (.load va n rd) = u.updRv core fun c => c.put rd (ps.map fun p => u.rdByte p.loc 0) := by
  rw [State.rvAct_load h.1.awake h.1.owned, State.rvLoad, State.rvAccess_made h places, State.readPlaces_noFlaws flaws]

/-- A store whose bytes can all be reached: to no notify page it writes them, to a notify page only an aligned word is a fill (R387, R395). -/
theorem State.rvAct_store_made {s u : State} {core part : Nat} {svc : Bool} {va : BitVec 64} {v : List Byte} {pa : BitVec 56} {ps : List Place}
    (h : s.RvReaches core part svc (.store va v) v.length pa u) (places : u.rvPlaces part svc Want.wr pa v.length = .ok ps) :
    s.rvAct core (.store va v) =
      if ps.all fun p => decide (p.cls ≠ 4) then u.rvWrite ps v
      else if v.length = 4 ∧ pa.toNat % 4 = 0 then afterAct u (execNotifyFillStore core (u.rvVa pa) (BitVec.ofNat 32 (leNat v)) u)
      else u.rvFault core (.store va v) := by
  rw [State.rvAct_store h.1.awake h.1.owned, State.rvStore, State.rvAccess_made h places]

section
variable {s u : State} {core part n rd x : Nat} {svc : Bool} {op : RvAmo} {va : BitVec 64} {pa : BitVec 56} {ps : List Place}
  (h : s.RvReaches core part svc (.atomic op va n rd x) n pa u) (size : n = 4 ∨ n = 8) (aligned : va.toNat % n = 0)
  (places : u.rvPlaces part svc Want.wr pa n = .ok ps)
include h size aligned places

/-- An atomic on a notify page takes an access fault (R387). -/
theorem State.rvAct_atomic_notify (notify : ∃ p ∈ ps, p.cls = 4) :
    s.rvAct core (.atomic op va n rd x) = u.rvFault core (.atomic op va n rd x) := by
  rw [State.rvAct_atomic h.1.awake h.1.owned, State.rvAtomic, if_neg (by omega), State.rvAccess_made h places]
  exact if_pos (congrArg not (all_not_notify_eq_false notify))

/-- An atomic elsewhere takes the old bytes and writes what its operation makes of them. -/
theorem State.rvAct_atomic_made (plain : ∀ p ∈ ps, p.cls ≠ 4) (flaws : u.flaws = []) :
    s.rvAct core (.atomic op va n rd x) = (u.updRv core fun c => c.put rd (ps.map fun p => u.rdByte p.loc 0)).rvWrite ps
      (leBytes n (amoResult op n (leNat (ps.map fun p => u.rdByte p.loc 0)) (x % 2 ^ (8 * n)))) := by
  rw [State.rvAct_atomic h.1.awake h.1.owned, State.rvAtomic, if_neg (by omega), State.rvAccess_made h places]
  simp only [all_not_notify_eq_true plain, State.readPlaces_noFlaws flaws, Bool.not_true, Bool.false_eq_true, if_false]

end

/-- A fetch whose bytes can be reached goes on at its address. -/
theorem State.rvAct_fetch_made {s u : State} {core part : Nat} {svc : Bool} {va : BitVec 64} {pa : BitVec 56} {ps : List Place}
    (h : s.RvReaches core part svc (.fetch va) 2 pa u) (places : u.rvPlaces part svc Want.ex pa 2 = .ok ps) :
    s.rvAct core (.fetch va) = u.updRv core fun c => { c with pc := va } := by
  rw [State.rvAct_fetch h.1.awake h.1.owned, State.rvAccess_made h places]

/-! ## The register window -/

/-- The physical address of a place in the register window (R383). -/
def windowAddr (k : Nat) : BitVec 56 := BitVec.ofNat 56 (0x20 * 2 ^ 50 + k)

theorem windowAddr_toNat {k : Nat} (h : k < 0x48) : (windowAddr k).toNat = 0x20 * 2 ^ 50 + k := by
  rw [windowAddr, BitVec.toNat_ofNat]
  omega

/-- The offset of an address of the register window. -/
theorem bits_windowAddr {k : Nat} (h : k < 0x48) : bits (windowAddr k) 49 0 = k := by
  simp only [bits, windowAddr_toNat h]
  omega

theorem windowAddr_aligned {k : Nat} (h : k < 0x48) (aligned : k % 8 = 0) : (windowAddr k).toNat % 8 = 0 := by
  rw [windowAddr_toNat h]
  omega

/-- An aligned access of 8 bytes keeps to the register window of a service core. -/
theorem inWindow_windowAddr {k : Nat} (h : k < 0x48) (aligned : k % 8 = 0) : inWindow true (windowAddr k) 8 = true := by
  have space : bits (windowAddr k) 55 50 = 0x20 := by simp only [bits, windowAddr_toNat h]; omega
  simp [inWindow, space, bits_windowAddr h, h, windowAddr_aligned h aligned]

section
variable {s u : State} {core part k : Nat} {va : BitVec 64} (inside : k < 0x48) (aligned : k % 8 = 0)
include inside aligned

/-- An 8-byte load of a register that can be read without drawing a value takes that value. -/
theorem State.rvAct_load_window {rd : Nat} {x : BitVec 64} (h : s.RvTranslates core part true (.load va 8 rd) 8 (windowAddr k) u)
    (reads : u.windowRead part k = (u, x)) : s.rvAct core (.load va 8 rd) = u.updRv core fun c => c.put rd (leBytes 8 x.toNat) := by
  have register : k / 8 * 8 = k := by omega
  rw [State.rvAct_load h.awake h.owned, State.rvLoad, State.rvAccess_window h (inWindow_windowAddr inside aligned)]
  simp only [bits_windowAddr inside, register, reads, windowAddr_aligned inside aligned, List.drop_zero]
  rw [List.take_of_length_le (by simp)]

/-- An 8-byte store covers both halves of its register. -/
theorem State.rvAct_store_window {v : List Byte} (size : v.length = 8)
    (h : s.RvTranslates core part true (.store va v) 8 (windowAddr k) u) :
    s.rvAct core (.store va v) = u.windowWrite part k true true (BitVec.ofNat 64 (leNat v)) := by
  have register : k / 8 * 8 = k := by omega
  rw [State.rvAct_store h.awake h.owned, State.rvStore, size, State.rvAccess_window h (inWindow_windowAddr inside aligned)]
  simp [bits_windowAddr inside, register, windowAddr_aligned inside aligned]

end

section
variable {s : State} {part : Nat} {p : Part} (there : KV.at? s.parts part = some p)
include there

/-- KLAUNCH reads back (R383). -/
theorem State.windowRead_klaunch : s.windowRead part 0 = (s, p.klaunch) := by
  simp [State.windowRead, there]

/-- RCONS of a die reads back (R383, R386). -/
theorem State.windowRead_rcons {d : Nat} (h : d < 4) : s.windowRead part (0x20 + 8 * d) = (s, (s.ringCons part d).setWidth 64) := by
  have die : (0x20 + 8 * d - 0x20) / 8 = d := by omega
  simp only [State.windowRead, there, State.ringCons, die]
  rw [if_neg (by omega), if_pos (by omega)]

end

/-- The state after an act that goes on. -/
theorem next_afterAct {s : State} {o : Out} (h : ∃ u, o = .next u) : o = .next (afterAct s o) := by
  obtain ⟨u, rfl⟩ := h
  rfl

theorem execKill_next (part : Nat) (grp : BitVec 32) (s : State) : ∃ u, execKill part grp s = .next u := by
  unfold execKill
  cases KV.at? s.parts part with
  | none => exact ⟨_, rfl⟩
  | some p =>
    cases named : s.launchNamed part p.klaunch with
    | none => simp [named]
    | some l =>
      simp only [named]
      split
      · exact ⟨_, rfl⟩
      · cases s.killGrp l.1 grp <;> exact ⟨_, rfl⟩

theorem execNotifyReset_next (part index : Nat) (s : State) : ∃ u, execNotifyReset part index s = .next u := by
  unfold execNotifyReset
  by_cases beyond : 255 < index
  · simp [beyond]
  · cases s.notifyLoc part index <;> simp [beyond]

theorem execRconsWrite_next (part die : Nat) (v : BitVec 32) (s : State) : ∃ u, execRconsWrite part die v s = .next u := by
  unfold execRconsWrite
  cases s.ring? part die with
  | none => exact ⟨_, rfl⟩
  | some r =>
    dsimp only
    split
    · exact ⟨_, rfl⟩
    · split <;> exact ⟨_, rfl⟩

theorem execNotifyFillStore_next (core : Nat) (va : BitVec 64) (v : BitVec 32) (s : State) :
    ∃ u, execNotifyFillStore core va v s = .next u := by
  unfold execNotifyFillStore
  cases s.rvPart core with
  | none => exact ⟨_, rfl⟩
  | some x =>
    dsimp only
    split
    · exact ⟨_, rfl⟩
    · split
      · split <;> exact ⟨_, rfl⟩
      · exact ⟨_, rfl⟩

/-- The two halves of a word make it. -/
theorem halves_beside (x : BitVec 64) : BitVec.ofNat 64 (bits x 63 32 * 2 ^ 32 + bits x 31 0) = x := by
  apply BitVec.eq_of_toNat_eq
  have := x.isLt
  simp only [bits, BitVec.toNat_ofNat]
  omega

section
variable (s : State) (part : Nat) (x : BitVec 64)

/-- A store of 8 bytes to KLAUNCH replaces it (R383). -/
theorem State.windowWrite_klaunch : s.windowWrite part 0 true true x = s.updPart part fun p => { p with klaunch := x } := by
  simp only [State.windowWrite, if_true, halves_beside]

/-! A store of 8 bytes to another register is the act that the register stands for. -/

theorem State.windowWrite_kill : exec (.kill part (x.extractLsb' 32 32)) s = .next (s.windowWrite part 8 true true x) :=
  next_afterAct (execKill_next ..)

theorem State.windowWrite_vacate : exec (.vacate part (bits x 8 0)) s = .next (s.windowWrite part 0x10 true true x) := rfl

theorem State.windowWrite_notifyReset : exec (.notifyReset part (bits x 7 0)) s = .next (s.windowWrite part 0x18 true true x) :=
  next_afterAct (execNotifyReset_next ..)

theorem State.windowWrite_rcons {d : Nat} (h : d < 4) :
    exec (.rconsWrite part d (x.setWidth 32)) s = .next (s.windowWrite part (0x20 + 8 * d) true true x) := by
  have die : (0x20 + 8 * d - 0x20) / 8 = d := by omega
  have write : s.windowWrite part (0x20 + 8 * d) true true x = afterAct s (execRconsWrite part d (x.setWidth 32) s) := by
    unfold State.windowWrite
    rw [if_neg (by omega), if_neg (by omega), if_neg (by omega), if_neg (by omega), if_pos (by omega), if_pos rfl, die]
  rw [write]
  exact next_afterAct (execRconsWrite_next ..)

theorem State.windowWrite_resolve :
    exec (.registerWrite (.resolve part (s.resolveDie part (x.extractLsb' 32 32))) x) s = .next (s.windowWrite part 0x40 true true x) := rfl

end

end Sys2Proof.Machine

namespace Sys2Proof

open Machine

/-! ## The statement, clause by clause -/

/-- A core's turn is its act, served by the caches of quadrant 0. -/
theorem step_riscv (s : State) (core : Nat) (a : RvAct) (r : List Turn) (turns : s.turns = .riscv core a :: r) :
    step s = .next ((({ s with turns := r, turn := .riscv core a, cur := .nobody } : State).serving 0).rvAct core a) := by
  simp only [step, turns, State.choose]

/-- Without translation an address of 56 bits is physical, and any other is refused (R382). -/
theorem rvTranslate_bare (s : State) (part : Nat) (svc : Bool) (c : RvCore) (w : Want) (va : BitVec 64) (host : c.virt = false)
    (bare : c.mode = .m ∨ bits (c.csr 0x180) 63 60 ≠ 9) :
    (bits va 63 56 = 0 → s.rvTranslate part svc c w va = ([], .ok (va.setWidth 56))) ∧
      (bits va 63 56 ≠ 0 → s.rvTranslate part svc c w va = ([], .error .access)) := by
  unfold State.rvTranslate
  simp only [host, Bool.false_eq_true, if_false, if_pos bare]
  exact ⟨fun short => if_neg (not_not_intro short), fun long => if_pos long⟩

/-- Loads of the service and sandbox cores (R52, R323, R382, R384, R387, R395). -/
theorem riscv_load (s u : State) (core part n rd : Nat) (svc : Bool) (va : BitVec 64) (pa : BitVec 56)
    (h : s.RvReaches core part svc (.load va n rd) n pa u) :
    (∀ f, u.rvPlaces part svc Want.rd pa n = .error f → s.rvAct core (.load va n rd) = u.rvFail core part (.load va n rd) f) ∧
      (∀ ps, u.rvPlaces part svc Want.rd pa n = .ok ps → u.flaws = [] → s.rvAct core (.load va n rd) =
        u.updRv core fun c => c.put rd (ps.map fun p => u.rdByte p.loc 0)) ∧
      (0 < n → bits pa 55 50 ≠ 0 → s.rvAct core (.load va n rd) = u.rvFault core (.load va n rd)) ∧
      (0 < n → bits pa 55 50 = 0 →
        (∀ p, svc = false → u.gl part (u.rvVa pa) Want.rd = .ok p → p.cls ≠ 2 → p.cls ≠ 4 →
          s.rvAct core (.load va n rd) = u.rvFault core (.load va n rd)) ∧
        ∀ c e l, svc = true → u.gl part (u.rvVa pa) Want.rd = .error (.fault c e l) → s.rvAct core (.load va n rd) =
          (u.updRv core fun x => { x with parked := true }).park part core (u.rvVa pa) 0 c e l (.riscv core (.load va n rd))) := by
  have fails (f : RvFail) (places : u.rvPlaces part svc Want.rd pa n = .error f) :
      s.rvAct core (.load va n rd) = u.rvFail core part (.load va n rd) f := State.rvAct_fails h rfl places
  refine ⟨fails, fun ps => State.rvAct_load_made h, fun pos outside => ?_, fun pos inside => ⟨fun p sandbox there ordinary notify => ?_,
    fun c e l service absent => ?_⟩⟩
  · exact fails _ (State.rvPlaces_error pos (State.rvPlace_outside outside))
  · subst sandbox
    exact fails _ (State.rvPlaces_error pos (State.rvPlace_sandbox inside there ordinary notify))
  · subst service
    exact fails _ (State.rvPlaces_error pos (State.rvPlace_absent inside absent))

/-- Stores of the service and sandbox cores outside the register window (R387, R395). -/
theorem riscv_store (s u : State) (core part : Nat) (svc : Bool) (va : BitVec 64) (pa : BitVec 56) (v : List (BitVec 8))
    (h : s.RvReaches core part svc (.store va v) v.length pa u) :
    (∀ f, u.rvPlaces part svc Want.wr pa v.length = .error f → s.rvAct core (.store va v) = u.rvFail core part (.store va v) f) ∧
      ∀ ps, u.rvPlaces part svc Want.wr pa v.length = .ok ps →
        ((∀ p ∈ ps, p.cls ≠ 4) → s.rvAct core (.store va v) = u.rvWrite ps v) ∧
        ((∃ p ∈ ps, p.cls = 4) → (v.length ≠ 4 ∨ pa.toNat % 4 ≠ 0) → s.rvAct core (.store va v) = u.rvFault core (.store va v)) ∧
        ((∃ p ∈ ps, p.cls = 4) → v.length = 4 → pa.toNat % 4 = 0 →
          exec (.notifyFillStore core (u.rvVa pa) (BitVec.ofNat 32 (leNat v))) u = .next (s.rvAct core (.store va v))) := by
  refine ⟨fun f places => State.rvAct_fails h rfl places, fun ps places => ?_⟩
  rw [State.rvAct_store_made h places]
  refine ⟨fun plain => if_pos (all_not_notify_eq_true plain), fun notify odd => ?_, fun notify size aligned => ?_⟩
  · rw [if_neg (Bool.eq_false_iff.1 (all_not_notify_eq_false notify)), if_neg (by omega)]
  · rw [if_neg (Bool.eq_false_iff.1 (all_not_notify_eq_false notify)), if_pos ⟨size, aligned⟩]
    exact next_afterAct (execNotifyFillStore_next ..)

/-- The register window of a service core (R383). -/
theorem riscv_window (s u : State) (core part rd d : Nat) (p : Part) (va : BitVec 64) (pa : BitVec 56) (v : List (BitVec 8)) (x : BitVec 64)
    (w : Nat → BitVec 56) (there : KV.at? u.parts part = some p) (size : v.length = 8) (value : x = BitVec.ofNat 64 (leNat v))
    (address : ∀ k, w k = BitVec.ofNat 56 (0x20 * 2 ^ 50 + k)) :
    (s.RvTranslates core part true (.load va 8 rd) 8 pa u →
      (pa = w 0 → s.rvAct core (.load va 8 rd) = u.updRv core (fun c => c.put rd (leBytes 8 p.klaunch.toNat))) ∧
      (d < 4 → pa = w (0x20 + 8 * d) → s.rvAct core (.load va 8 rd) = u.updRv core (fun c => c.put rd (leBytes 8 (u.ringCons part d).toNat)))) ∧
    (s.RvTranslates core part true (.store va v) 8 pa u →
      (pa = w 0 → s.rvAct core (.store va v) = u.updPart part (fun p => { p with klaunch := x })) ∧
      (pa = w 8 → exec (.kill part (x.extractLsb' 32 32)) u = .next (s.rvAct core (.store va v))) ∧
      (pa = w 0x10 → exec (.vacate part (bits x 8 0)) u = .next (s.rvAct core (.store va v))) ∧
      (pa = w 0x18 → exec (.notifyReset part (bits x 7 0)) u = .next (s.rvAct core (.store va v))) ∧
      (d < 4 → pa = w (0x20 + 8 * d) → exec (.rconsWrite part d (x.setWidth 32)) u = .next (s.rvAct core (.store va v))) ∧
      (pa = w 0x40 → exec (.registerWrite (.resolve part (u.resolveDie part (x.extractLsb' 32 32))) x) u = .next (s.rvAct core (.store va v)))) := by
  obtain rfl : w = windowAddr := funext address
  subst value
  refine ⟨fun h => ⟨fun at_ => ?_, fun die at_ => ?_⟩, fun h => ?_⟩
  · subst at_
    exact State.rvAct_load_window (by decide) rfl h (State.windowRead_klaunch there)
  · subst at_
    rw [State.rvAct_load_window (by omega) (by omega) h (State.windowRead_rcons there die), BitVec.toNat_setWidth_of_le (by decide)]
  · have stores {k : Nat} (inside : k < 0x48) (aligned : k % 8 = 0) (at_ : pa = windowAddr k) :
        s.rvAct core (.store va v) = u.windowWrite part k true true (BitVec.ofNat 64 (leNat v)) :=
      State.rvAct_store_window inside aligned size (at_ ▸ h)
    refine ⟨fun at_ => ?_, fun at_ => ?_, fun at_ => ?_, fun at_ => ?_, fun die at_ => ?_, fun at_ => ?_⟩
    · rw [stores (by decide) rfl at_, State.windowWrite_klaunch]
    · rw [stores (by decide) rfl at_, State.windowWrite_kill]
    · rw [stores (by decide) rfl at_, State.windowWrite_vacate]
    · rw [stores (by decide) rfl at_, State.windowWrite_notifyReset]
    · rw [stores (by omega) (by omega) at_, State.windowWrite_rcons _ _ _ die]
    · rw [stores (by decide) rfl at_, State.windowWrite_resolve]

/-- Atomics, fetches and interrupts of the service and sandbox cores (R384, R387). -/
theorem riscv_atomic_fetch (s u : State) (core part n rd x : Nat) (svc : Bool) (op : RvAmo) (va : BitVec 64) (pa : BitVec 56) :
    ((s.rvCore core).parked = false → s.rvPart core = some (part, svc) →
      (((n ≠ 4 ∧ n ≠ 8) ∨ va.toNat % n ≠ 0) → s.rvAct core (.atomic op va n rd x) = s.rvFault core (.atomic op va n rd x)) ∧
      (svc = false → s.rvAct core .interrupt = { s with irqs := s.irqs ++ [.sandbox part core] })) ∧
    (s.RvReaches core part svc (.atomic op va n rd x) n pa u → (n = 4 ∨ n = 8) → va.toNat % n = 0 →
      (∀ f, u.rvPlaces part svc Want.wr pa n = .error f → s.rvAct core (.atomic op va n rd x) = u.rvFail core part (.atomic op va n rd x) f) ∧
      (∀ ps, u.rvPlaces part svc Want.wr pa n = .ok ps → (∃ p ∈ ps, p.cls = 4) →
        s.rvAct core (.atomic op va n rd x) = u.rvFault core (.atomic op va n rd x)) ∧
      ∀ ps old, u.rvPlaces part svc Want.wr pa n = .ok ps → (∀ p ∈ ps, p.cls ≠ 4) → u.flaws = [] → old = (ps.map fun p => u.rdByte p.loc 0) →
        s.rvAct core (.atomic op va n rd x) =
          (u.updRv core fun c => c.put rd old).rvWrite ps (leBytes n (amoResult op n (leNat old) (x % 2 ^ (8 * n))))) ∧
    (s.RvReaches core part svc (.fetch va) 2 pa u →
      (∀ f, u.rvPlaces part svc Want.ex pa 2 = .error f → s.rvAct core (.fetch va) = u.rvFail core part (.fetch va) f) ∧
      (∀ ps, u.rvPlaces part svc Want.ex pa 2 = .ok ps → s.rvAct core (.fetch va) = u.updRv core fun c => { c with pc := va }) ∧
      ∀ p, bits pa 55 50 = 0 → u.gl part (u.rvVa pa) Want.ex = .ok p → p.cls = 4 → s.rvAct core (.fetch va) = u.rvFault core (.fetch va)) := by
  refine ⟨fun awake owned => ⟨fun odd => ?_, fun sandbox => ?_⟩, fun h size aligned => ⟨fun f places => ?_, fun ps places notify => ?_,
    fun ps old places plain flaws read => ?_⟩, fun h => ⟨fun f places => ?_, fun ps places => ?_, fun p inside there notify => ?_⟩⟩
  · rw [State.rvAct_atomic awake owned, State.rvAtomic_misaligned odd]
  · subst sandbox
    exact State.rvAct_interrupt awake owned
  · exact State.rvAct_fails h ⟨rfl, size, aligned⟩ places
  · exact State.rvAct_atomic_notify h size aligned places notify
  · subst read
    exact State.rvAct_atomic_made h size aligned places plain flaws
  · exact State.rvAct_fails h rfl places
  · exact State.rvAct_fetch_made h places
  · exact State.rvAct_fails h rfl (State.rvPlaces_error (by decide) (State.rvPlace_fetch_notify inside there notify))

/-- An access fault of a core, at its own privilege, and what a resolved record does with a parked act (R52, R325, R382, R384). -/
theorem riscv_fault (s : State) (core part : Nat) (a : RvAct) (f : FaultRec) (c x : RvCore) (before : c = s.rvCore core)
    (after : x = (s.rvFault core a).rvCore core) :
    s.rvFail core part a .access = s.rvFault core a ∧
    (c.mode = .m → x.mode = .m ∧ x.csr 0x342 = a.accessFault ∧ x.csr 0x341 = c.pc ∧ x.csr 0x343 = a.addr ∧ x.pc = vectorOf (c.csr 0x305) a.accessFault) ∧
    (c.mode ≠ .m → c.virt = false → x.mode = .s ∧ x.csr 0x142 = a.accessFault ∧ x.csr 0x141 = c.pc ∧ x.csr 0x143 = a.addr ∧
      x.pc = vectorOf (c.csr 0x105) a.accessFault) ∧ x.parked = false ∧ x.regs = c.regs ∧
    s.retryReq f (.riscv core a) = { s.updRv core (fun c => { c with parked := false }) with turns := s.turns ++ [.riscv core a] } ∧
    s.trapReq f (.riscv core a) = s.rvFault core a := by
  have taken : x = { c.trap a.accessFault a.addr with parked := false } := by
    rw [after, before, State.rvFault, State.rvTrap, State.rvCore_updRv_same]
  subst taken
  exact ⟨rfl, c.trap_machine _ _, c.trap_super _ _, rfl, c.trap_regs _ _, rfl, rfl⟩

/-- Settles O57: every access goes through the core's translation to the register window or to the places of its bytes, act by act. -/
theorem serviceCoreAccesses : Obligations.ServiceCoreAccesses :=
  ⟨step_riscv,
    fun s _ part svc a c w va => ⟨State.rvAct_unowned a, State.rvAct_parked a, rvTranslate_bare s part svc c w va⟩,
    riscv_load, riscv_store, riscv_window, riscv_atomic_fetch, riscv_fault⟩

end Sys2Proof
end

section
/-! What a table entry reads back as, and its fields (R52). -/

namespace Sys2Proof.Machine

/-! ## Places without a key slot hold plain bytes -/

theorem State.wrBytes_bare (a : Nat) (bs : List Byte) :
    ∀ (s : State) (i : Nat), s.wrBytes ⟨a, none⟩ i bs = { s with mem := Sparse.wrList s.mem (a + i) bs } := by
  induction bs with
  | nil => exact fun _ _ => rfl
  | cons b r ih => exact fun s i => ih _ _

theorem State.rdBytes_wrBytes_bare {s : State} (oks : s.StoresOk) (a : Nat) (bs : List Byte) :
    (s.wrBytes ⟨a, none⟩ 0 bs).rdBytes ⟨a, none⟩ bs.length = bs := by
  rw [State.wrBytes_bare]
  refine List.ext_getElem (by simp [State.rdBytes]) fun i _ inside => ?_
  simpa [State.rdBytes, State.rdByte] using Sparse.rd_wrList_inside (k := a) oks.memWf inside

theorem State.rdNat_wrNat_bare {s : State} (oks : s.StoresOk) (a n x : Nat) :
    (s.wrNat ⟨a, none⟩ n x).rdNat ⟨a, none⟩ n = x % 2 ^ (8 * n) := by
  have bytes := State.rdBytes_wrBytes_bare oks a (leBytes n x)
  rw [leBytes_length] at bytes
  rw [State.rdNat, State.wrNat, bytes, leNat_leBytes]

/-! ## Table entries -/

/-- An entry that was written reads back. -/
theorem State.pteAt_setPte {s : State} (oks : s.StoresOk) (die addr : Nat) (e : BitVec 128) : (s.setPte die addr e).pteAt die addr = e := by
  rw [State.pteAt, State.setPte, State.rdNat_wrNat_bare oks, Nat.mod_eq_of_lt e.isLt, BitVec.ofNat_toNat, BitVec.setWidth_eq]

@[simp] theorem State.pteAt_invalidate (s : State) (va : BitVec 64) (size die addr : Nat) :
    (s.invalidate va size).pteAt die addr = s.pteAt die addr := rfl

@[simp] theorem State.pteAt_reply (s : State) (h : MsgHdr) (status : Nat) (payload : List Byte) (die addr : Nat) :
    (s.reply h status payload).pteAt die addr = s.pteAt die addr := rfl

@[simp] theorem State.replies_reply (s : State) (h : MsgHdr) (status : Nat) (payload : List Byte) :
    (s.reply h status payload).replies = s.replies ++ [{ hdr := replyHdr h status payload.length, payload := payload }] := rfl

@[simp] theorem State.replies_invalidate (s : State) (va : BitVec 64) (size : Nat) : (s.invalidate va size).replies = s.replies := rfl

@[simp] theorem State.replies_setPte (s : State) (die addr : Nat) (e : BitVec 128) : (s.setPte die addr e).replies = s.replies := by
  rw [State.setPte, State.wrNat, State.wrBytes_bare]

/-! ## Fields of an entry -/

theorem bits_eq_toNat_extractLsb' {w : Nat} (x : BitVec w) (hi lo : Nat) : bits x hi lo = (x.extractLsb' lo (hi + 1 - lo)).toNat := by
  rw [bits, BitVec.extractLsb'_toNat, Nat.shiftRight_eq_div_pow]

/-- A field is made of its bits. -/
theorem bits_congr {w : Nat} {x y : BitVec w} {hi lo : Nat} (same : ∀ i, lo ≤ i → i ≤ hi → x.getLsbD i = y.getLsbD i) :
    bits x hi lo = bits y hi lo := by
  rw [bits_eq_toNat_extractLsb', bits_eq_toNat_extractLsb']
  congr 1
  ext i inside
  simpa using same (lo + i) (by omega) (by omega)

theorem bits_eq_zero_iff {w : Nat} {x : BitVec w} {hi lo : Nat} : bits x hi lo = 0 ↔ ∀ i, lo ≤ i → i ≤ hi → x.getLsbD i = false := by
  constructor
  · intro zero i low high
    rw [bits_eq_toNat_extractLsb'] at zero
    have clear := congrArg (fun y => y.getLsbD (i - lo)) (BitVec.eq_of_toNat_eq (y := 0#_) (zero.trans (by simp)))
    have inside : i - lo < hi + 1 - lo := by omega
    have position : lo + (i - lo) = i := by omega
    simpa [BitVec.getLsbD_extractLsb', inside, position] using clear
  · intro clear
    have same : bits x hi lo = bits (0 : BitVec w) hi lo := bits_congr fun i low high => by simpa using clear i low high
    simpa [bits] using same

theorem pteV_eq_bits (e : BitVec 128) : pteV e = decide (bits e 63 63 = 1) := by
  rw [pteV, BitVec.getLsbD, Nat.testBit_eq_decide_div_mod_eq]
  rfl

theorem pteHost_eq_bits (e : BitVec 128) : pteHost e = decide (bits e 62 62 = 1) := by
  rw [pteHost, BitVec.getLsbD, Nat.testBit_eq_decide_div_mod_eq]
  rfl

theorem pteKey_toNat (e : BitVec 128) : (pteKey e).toNat = bits e 61 49 := (bits_eq_toNat_extractLsb' e 61 49).symm

/-- A partition has no PERM when its two bits are clear. -/
theorem ptePerm_eq_zero_iff {e : BitVec 128} {p : Nat} :
    ptePerm e p = 0 ↔ e.getLsbD (64 + 2 * p) = false ∧ e.getLsbD (65 + 2 * p) = false := by
  rw [ptePerm, bits_eq_zero_iff]
  constructor
  · exact fun clear => ⟨clear _ (by omega) (by omega), clear _ (by omega) (by omega)⟩
  · rintro ⟨low, high⟩ i above below
    obtain rfl | rfl : i = 64 + 2 * p ∨ i = 65 + 2 * p := by omega
    · exact low
    · exact high

/-- The PERM bits of all partitions are clear when each partition's are. -/
theorem perms_eq_zero_iff {e : BitVec 128} : bits e 95 64 = 0 ↔ ∀ p < 16, ptePerm e p = 0 := by
  rw [bits_eq_zero_iff]
  constructor
  · exact fun clear p _ => ptePerm_eq_zero_iff.2 ⟨clear _ (by omega) (by omega), clear _ (by omega) (by omega)⟩
  · intro clear i above below
    obtain ⟨low, high⟩ := ptePerm_eq_zero_iff.1 (clear ((i - 64) / 2) (by omega))
    obtain even | odd : i = 64 + 2 * ((i - 64) / 2) ∨ i = 65 + 2 * ((i - 64) / 2) := by omega
    · rwa [even]
    · rwa [odd]

/-! ## An entry with other PERM bits -/

/-- A shifted mask clears its bits. -/
theorem clear_getLsbD (e mask : BitVec 128) (n i : Nat) (inside : i < 128) :
    (e &&& ~~~(mask <<< n)).getLsbD i = (e.getLsbD i && !(decide (n ≤ i) && mask.getLsbD (i - n))) := by
  rw [BitVec.getLsbD_and, BitVec.getLsbD_not, BitVec.getLsbD_shiftLeft, decide_eq_true inside, Bool.true_and, Bool.true_and,
    show (!decide (i < n)) = decide (n ≤ i) by simp only [← decide_not, Nat.not_lt]]

/-- The bits of a mask of `n` ones from bit `lo` up. -/
theorem mask_getLsbD (lo n i : Nat) (inside : i < 128) : (BitVec.ofNat 128 ((2 ^ n - 1) * 2 ^ lo)).getLsbD i = decide (lo ≤ i ∧ i < lo + n) := by
  rw [BitVec.getLsbD_ofNat, Nat.testBit_mul_two_pow, Nat.testBit_two_pow_sub_one, decide_eq_true inside, Bool.true_and, ← Bool.decide_and]
  have range : (lo ≤ i ∧ i - lo < n) ↔ (lo ≤ i ∧ i < lo + n) := by omega
  exact decide_eq_decide.2 range

theorem withPerm_getLsbD (e : BitVec 128) (p q i : Nat) (inside : i < 128) :
    (withPerm e p q).getLsbD i = if 64 + 2 * p ≤ i ∧ i < 66 + 2 * p then q.testBit (i - (64 + 2 * p)) else e.getLsbD i := by
  have mask := mask_getLsbD 0 2 (i - (64 + 2 * p)) (by omega)
  have perm : (BitVec.ofNat 128 (q % 4)).getLsbD (i - (64 + 2 * p)) = (decide (i - (64 + 2 * p) < 2) && q.testBit (i - (64 + 2 * p))) := by
    rw [BitVec.getLsbD_ofNat, decide_eq_true (by omega), Bool.true_and]
    exact Nat.testBit_mod_two_pow q 2 _
  rw [withPerm, BitVec.getLsbD_or, clear_getLsbD _ _ _ _ inside, BitVec.getLsbD_shiftLeft, perm,
    show (3 : BitVec 128) = BitVec.ofNat 128 ((2 ^ 2 - 1) * 2 ^ 0) from rfl, mask, decide_eq_true inside]
  by_cases field : 64 + 2 * p ≤ i ∧ i < 66 + 2 * p
  · simp [field, show i - (64 + 2 * p) < 2 by omega]
  · by_cases low : i < 64 + 2 * p
    · simp [low, show ¬ 64 + 2 * p ≤ i by omega]
    · simp [field, low, show ¬ i - (64 + 2 * p) < 2 by omega]

/-- The fields below the PERM bits stay. -/
theorem bits_withPerm_lower (e : BitVec 128) (p q : Nat) {hi lo : Nat} (lower : hi < 64) : bits (withPerm e p q) hi lo = bits e hi lo :=
  bits_congr fun i _ below => by rw [withPerm_getLsbD e p q i (by omega), if_neg (by omega)]

theorem ptePerm_withPerm_same (e : BitVec 128) {p : Nat} (q : Nat) (named : p < 16) : ptePerm (withPerm e p q) p = q % 4 := by
  have width : 65 + 2 * p + 1 - (64 + 2 * p) = 2 := by omega
  have field : (withPerm e p q).extractLsb' (64 + 2 * p) 2 = BitVec.ofNat 2 q := by
    ext i inside
    rw [BitVec.getElem_extractLsb', withPerm_getLsbD _ _ _ _ (by omega), if_pos (by omega), Nat.add_sub_cancel_left]
    rw [← BitVec.getLsbD_eq_getElem, BitVec.getLsbD_ofNat, decide_eq_true inside, Bool.true_and]
  rw [ptePerm, bits_eq_toNat_extractLsb', width, field, BitVec.toNat_ofNat]

theorem ptePerm_withPerm_other (e : BitVec 128) {p r : Nat} (q : Nat) (named : r < 16) (other : r ≠ p) :
    ptePerm (withPerm e p q) r = ptePerm e r :=
  bits_congr fun i _ _ => by rw [withPerm_getLsbD e p q i (by omega), if_neg (by omega)]

@[simp] theorem pteV_withPerm (e : BitVec 128) (p q : Nat) : pteV (withPerm e p q) = pteV e := by
  simp only [pteV_eq_bits, bits_withPerm_lower e p q (show 63 < 64 by decide)]

@[simp] theorem pteHost_withPerm (e : BitVec 128) (p q : Nat) : pteHost (withPerm e p q) = pteHost e := by
  simp only [pteHost_eq_bits, bits_withPerm_lower e p q (show 62 < 64 by decide)]

@[simp] theorem pteKey_withPerm (e : BitVec 128) (p q : Nat) : pteKey (withPerm e p q) = pteKey e :=
  BitVec.eq_of_toNat_eq (by rw [pteKey_toNat, pteKey_toNat, bits_withPerm_lower e p q (by decide)])

@[simp] theorem pteClass_withPerm (e : BitVec 128) (p q : Nat) : pteClass (withPerm e p q) = pteClass e :=
  bits_withPerm_lower e p q (by decide)

@[simp] theorem pteSize_withPerm (e : BitVec 128) (p q : Nat) : pteSize (withPerm e p q) = pteSize e :=
  bits_withPerm_lower e p q (by decide)

@[simp] theorem ptePfn_withPerm (e : BitVec 128) (p q : Nat) : ptePfn (withPerm e p q) = ptePfn e :=
  bits_withPerm_lower e p q (by decide)

/-! ## The entry that MAP creates -/

section
variable (pfn : BitVec 28) (size : BitVec 2) (cls : BitVec 3) (key : BitVec 13)

theorem newPte_toNat : (newPte pfn size cls key).toNat =
    2 ^ 63 + key.toNat * 2 ^ 49 + cls.toNat * 2 ^ 46 + size.toNat * 2 ^ 44 + pfn.toNat * 2 ^ 16 := by
  rw [newPte, BitVec.toNat_ofNat]
  omega

@[simp] theorem pteV_newPte : pteV (newPte pfn size cls key) = true := by
  simp only [pteV_eq_bits, bits, newPte_toNat, decide_eq_true_eq]
  omega

@[simp] theorem pteHost_newPte : pteHost (newPte pfn size cls key) = false := by
  simp only [pteHost_eq_bits, bits, newPte_toNat, decide_eq_false_iff_not]
  omega

@[simp] theorem pteKey_newPte : pteKey (newPte pfn size cls key) = key := by
  apply BitVec.eq_of_toNat_eq
  simp only [pteKey_toNat, bits, newPte_toNat]
  omega

@[simp] theorem pteClass_newPte : pteClass (newPte pfn size cls key) = cls.toNat := by
  simp only [pteClass, bits, newPte_toNat]
  omega

@[simp] theorem pteSize_newPte : pteSize (newPte pfn size cls key) = size.toNat := by
  simp only [pteSize, bits, newPte_toNat]
  omega

@[simp] theorem ptePfn_newPte : ptePfn (newPte pfn size cls key) = pfn.toNat := by
  simp only [ptePfn, bits, newPte_toNat]
  omega

end

/-! ## The entry that UNMAP leaves -/

/-- An entry without a partition's PERM bits, and without V when no partition has any (R388). -/
def unmapped (e : BitVec 128) (part : Nat) : BitVec 128 :=
  if bits (withPerm e part 0) 95 64 = 0 then withPerm e part 0 &&& ~~~((1 : BitVec 128) <<< 63) else withPerm e part 0

theorem clearBit63_getLsbD (e : BitVec 128) (i : Nat) (inside : i < 128) :
    (e &&& ~~~((1 : BitVec 128) <<< 63)).getLsbD i = (e.getLsbD i && decide (i ≠ 63)) := by
  have mask : (1 : BitVec 128).getLsbD (i - 63) = decide (i - 63 = 0) := BitVec.getLsbD_one
  rw [clear_getLsbD _ _ _ _ inside, mask, ← Bool.decide_and, ← decide_not]
  exact congrArg _ (decide_eq_decide.2 (by omega))

theorem ptePerm_unmapped (e : BitVec 128) {part : Nat} (named : part < 16) : ptePerm (unmapped e part) part = 0 := by
  have cleared : ptePerm (withPerm e part 0) part = 0 := ptePerm_withPerm_same e 0 named
  unfold unmapped
  split
  · obtain ⟨low, high⟩ := ptePerm_eq_zero_iff.1 cleared
    exact ptePerm_eq_zero_iff.2 ⟨by rw [clearBit63_getLsbD _ _ (by omega), low, Bool.false_and],
      by rw [clearBit63_getLsbD _ _ (by omega), high, Bool.false_and]⟩
  · exact cleared

/-- A valid entry stays valid for the other partitions that have a PERM in it. -/
theorem pteV_unmapped {e : BitVec 128} {part : Nat} (named : part < 16) (valid : pteV e = true) :
    pteV (unmapped e part) = true ↔ ∃ p < 16, p ≠ part ∧ ptePerm e p ≠ 0 := by
  have nobody_left : bits (withPerm e part 0) 95 64 = 0 ↔ ∀ p < 16, p ≠ part → ptePerm e p = 0 := by
    rw [perms_eq_zero_iff]
    constructor
    · exact fun clear p inside other => ptePerm_withPerm_other e 0 inside other ▸ clear p inside
    · intro clear p inside
      by_cases same : p = part
      · rw [same, ptePerm_withPerm_same e 0 named]
      · exact ptePerm_withPerm_other e 0 inside same ▸ clear p inside same
  unfold unmapped
  split
  next empty =>
    simp only [pteV, clearBit63_getLsbD _ 63 (by decide), ne_eq, not_true_eq_false, decide_false, Bool.and_false, Bool.false_eq_true,
      false_iff, not_exists, not_and, Classical.not_not]
    exact nobody_left.1 empty
  next left =>
    simp only [pteV_withPerm, valid, true_iff]
    simpa only [nobody_left, Classical.not_forall, exists_prop] using left

/-! ## The entry that a migration leaves -/

/-- An entry with another owner and key slot (R390). -/
def turned (e : BitVec 128) (slot : Nat) (host : Bool) : BitVec 128 :=
  (e &&& ~~~((0x7FFE : BitVec 128) <<< 48)) ||| BitVec.ofNat 128 (slot % 8192 * 2 ^ 49 + if host then 2 ^ 62 else 0)

theorem turned_getLsbD (e : BitVec 128) (slot : Nat) (host : Bool) (i : Nat) (inside : i < 128) : (turned e slot host).getLsbD i =
    if i < 49 then e.getLsbD i else if i < 62 then slot.testBit (i - 49) else if i = 62 then host else e.getLsbD i := by
  have mask := mask_getLsbD 1 14 (i - 48) (by omega)
  have number : (slot % 8192 * 2 ^ 49 + if host then 2 ^ 62 else 0) = (2 ^ 13 * host.toNat + slot % 2 ^ 13) * 2 ^ 49 := by
    cases host <;> simp only [Bool.toNat_true, Bool.toNat_false, if_true, Bool.false_eq_true, if_false] <;> omega
  rw [turned, BitVec.getLsbD_or, clear_getLsbD _ _ _ _ inside, show (0x7FFE : BitVec 128) = BitVec.ofNat 128 ((2 ^ 14 - 1) * 2 ^ 1) from rfl,
    mask, number, BitVec.getLsbD_ofNat, Nat.testBit_mul_two_pow, Nat.testBit_two_pow_mul_add _ (Nat.mod_lt _ (by decide)),
    Nat.testBit_mod_two_pow, decide_eq_true inside]
  obtain below | key | owner | above : i < 49 ∨ (49 ≤ i ∧ i < 62) ∨ i = 62 ∨ 62 < i := by omega
  · simp [below, show ¬ 49 ≤ i by omega, show ¬ 1 ≤ i - 48 by omega]
  · simp [key, show ¬ i < 49 by omega, show 48 ≤ i by omega, show 1 ≤ i - 48 ∧ i - 48 < 1 + 14 by omega, show i - 49 < 13 by omega]
  · subst owner
    cases host <;> simp
  · have beyond : host.toNat.testBit (i - 49 - 13) = false :=
      Nat.testBit_lt_two_pow (Nat.lt_of_le_of_lt host.toNat_le (Nat.one_lt_two_pow (by omega)))
    simp [beyond, show ¬ i < 49 by omega, show ¬ i < 62 by omega, show i ≠ 62 by omega, show ¬ i - 48 < 1 + 14 by omega,
      show ¬ i - 49 < 13 by omega]

@[simp] theorem pteHost_turned (e : BitVec 128) (slot : Nat) (host : Bool) : pteHost (turned e slot host) = host :=
  turned_getLsbD e slot host 62 (by decide)

@[simp] theorem pteKey_turned (e : BitVec 128) (slot : Nat) (host : Bool) : pteKey (turned e slot host) = BitVec.ofNat 13 slot := by
  ext i inside
  rw [pteKey, BitVec.getElem_extractLsb', turned_getLsbD _ _ _ _ (by omega), if_neg (by omega), if_pos (by omega), Nat.add_sub_cancel_left,
    ← BitVec.getLsbD_eq_getElem, BitVec.getLsbD_ofNat, decide_eq_true inside, Bool.true_and]

@[simp] theorem ptePfn_turned (e : BitVec 128) (slot : Nat) (host : Bool) : ptePfn (turned e slot host) = ptePfn e :=
  bits_congr fun i _ below => by rw [turned_getLsbD _ _ _ _ (by omega), if_pos (by omega)]

end Sys2Proof.Machine
end

section
/-! Pages: what the requests on a page's table entry leave (R84, R388, R390), and how a page is encrypted again (R390). -/

namespace Sys2Proof.Machine

/-! ## Encrypting again -/

theorem Sparse.rdList_congr {w : Nat} {m o : Sparse w} (n : Nat) : ∀ {k : Nat}, (∀ j, k ≤ j → j < k + n → Sparse.rd m j = Sparse.rd o j) →
    Sparse.rdList m k n = Sparse.rdList o k n := by
  induction n with
  | zero => exact fun _ => rfl
  | succ n ih =>
    exact fun same => List.cons_eq_cons.2 ⟨same _ (by omega) (by omega), ih fun j above below => same j (by omega) (by omega)⟩

/-- What a byte reads as is a matter of its sector's bytes and key slot. -/
theorem State.rdByte_congr {s u : State} {l : Loc} (slot : Sparse.rd u.secKey (l.key / 32) = Sparse.rd s.secKey (l.key / 32))
    (bytes : ∀ k, k / 32 = l.key / 32 → Sparse.rd u.mem k = Sparse.rd s.mem k) : u.rdByte l 0 = s.rdByte l 0 := by
  have sector : Sparse.rdList u.mem (l.key / 32 * 32) 32 = Sparse.rdList s.mem (l.key / 32 * 32) 32 :=
    Sparse.rdList_congr 32 fun k _ _ => bytes k (by omega)
  simp only [State.rdByte, Nat.add_zero, slot, bytes l.key rfl, sector]

theorem State.rdBytes_length (s : State) (l : Loc) (n : Nat) : (s.rdBytes l n).length = n := by
  rw [State.rdBytes, List.length_map, List.length_range]

theorem State.rd_mem_rekey_other (s : State) {sector k : Nat} (ks : BitVec 13) (other : k / 32 ≠ sector) :
    Sparse.rd (s.rekey sector ks).mem k = Sparse.rd s.mem k := by
  unfold State.rekey
  split
  · rfl
  · dsimp only
    exact Sparse.rd_wrList_outside (by rw [State.rdBytes_length]; omega)

theorem State.rd_secKey_rekey_other (s : State) {sector k : Nat} (ks : BitVec 13) (other : k ≠ sector) :
    Sparse.rd (s.rekey sector ks).secKey k = Sparse.rd s.secKey k := by
  unfold State.rekey
  split
  · rfl
  · exact Sparse.rd_wr_other other

/-- A sector encrypted under a key slot holds what it read as under that slot. -/
theorem State.rd_mem_rekey_same {s : State} (oks : s.StoresOk) {sector k : Nat} (ks : BitVec 13) (inside : k / 32 = sector) :
    Sparse.rd (s.rekey sector ks).mem k = s.rdByte ⟨k, some ks⟩ 0 := by
  subst inside
  unfold State.rekey
  split
  next same => exact (if_pos same).symm
  next =>
    have byte := Sparse.rd_wrList_inside (vs := s.rdBytes ⟨32 * (k / 32), some ks⟩ 32) (k := 32 * (k / 32)) (i := k % 32) oks.memWf
      (by rw [State.rdBytes_length]; omega)
    rw [Nat.div_add_mod] at byte
    simpa [State.rdBytes, State.rdByte, Nat.div_add_mod] using byte

/-- One sector encrypted again. -/
def State.recryptSector (s : State) (old new : BitVec 13) (sector : Nat) : State :=
  { s.rekey sector old with secKey := Sparse.wr (s.rekey sector old).secKey sector new }

theorem State.recryptSector_storesOk {s : State} (oks : s.StoresOk) (old new : BitVec 13) (sector : Nat) :
    (s.recryptSector old new sector).StoresOk :=
  State.recrypt_storesOk s old new sector 1 oks

theorem State.rdByte_recryptSector_same {s : State} (oks : s.StoresOk) (old new : BitVec 13) {sector k : Nat} (inside : k / 32 = sector) :
    (s.recryptSector old new sector).rdByte ⟨k, some new⟩ 0 = s.rdByte ⟨k, some old⟩ 0 := by
  have slot : Sparse.rd (s.recryptSector old new sector).secKey (k / 32) = new := by
    rw [inside]
    exact Sparse.rd_wr_same (State.rekey_storesOk s sector old oks).secKeyWf
  rw [← State.rd_mem_rekey_same oks old inside]
  exact if_pos slot

theorem State.rdByte_recryptSector_other (s : State) (old new : BitVec 13) {sector : Nat} {l : Loc} (other : l.key / 32 ≠ sector) :
    (s.recryptSector old new sector).rdByte l 0 = s.rdByte l 0 := by
  refine State.rdByte_congr ?_ fun k same => State.rd_mem_rekey_other s old (same ▸ other)
  exact (Sparse.rd_wr_other other).trans (State.rd_secKey_rekey_other s old other)

theorem State.rdByte_recrypt_other (old new : BitVec 13) {l : Loc} (n : Nat) : ∀ (s : State) (sector : Nat),
    (l.key / 32 < sector ∨ sector + n ≤ l.key / 32) → (s.recrypt old new sector n).rdByte l 0 = s.rdByte l 0 := by
  induction n with
  | zero => exact fun _ _ _ => rfl
  | succ n ih =>
    intro s sector outside
    calc (s.recrypt old new sector (n + 1)).rdByte l 0
      _ = (s.recryptSector old new sector).rdByte l 0 := ih _ _ (by omega)
      _ = s.rdByte l 0 := State.rdByte_recryptSector_other s old new (by omega)

/-- Encrypting sectors again keeps what each of their bytes reads as (R84, R390). -/
theorem State.rdByte_recrypt (old new : BitVec 13) {k : Nat} (n : Nat) : ∀ {s : State} {sector : Nat}, s.StoresOk → sector ≤ k / 32 →
    k / 32 < sector + n → (s.recrypt old new sector n).rdByte ⟨k, some new⟩ 0 = s.rdByte ⟨k, some old⟩ 0 := by
  induction n with
  | zero => exact fun _ _ _ => by omega
  | succ n ih =>
    intro s sector oks above below
    change ((s.recryptSector old new sector).recrypt old new (sector + 1) n).rdByte ⟨k, some new⟩ 0 = _
    obtain first | later : k / 32 = sector ∨ sector + 1 ≤ k / 32 := by omega
    · rw [State.rdByte_recrypt_other old new n _ _ (Or.inl (by dsimp only; omega)), State.rdByte_recryptSector_same oks old new first]
    · rw [ih (State.recryptSector_storesOk oks old new sector) later (by omega),
        State.rdByte_recryptSector_other s old new (by dsimp only; omega)]

/-! ## Requests of a partition's owner -/

@[simp] theorem State.replies_renew (s : State) (h : MsgHdr) : (s.renew h).replies = s.replies := by
  unfold State.renew State.setOwner
  dsimp only
  split
  · split <;> rfl
  · rfl

/-- The partition of an owner's request after the renewal of its lease (R378). -/
theorem State.at?_renew {s : State} {h : MsgHdr} (part : isPackage h = false) (owner : s.isOwner h = true) :
    ∃ p, KV.at? (s.renew h).parts h.part.toNat = some p ∧ p.owner = some h.master := by
  have owned : (s.ownerOf h).1 = some h.master := of_decide_eq_true owner
  cases there : KV.at? s.parts h.part.toNat with
  | none => simp [State.ownerOf, part, there] at owned
  | some p =>
    refine ⟨{ p with owner := (s.ownerOf h).1, leaseEnd := s.leaseFrom (s.ownerOf h).2.2, leaseMs := (s.ownerOf h).2.2 }, ?_, owned⟩
    simp [State.renew, owner, State.setOwner, part, State.updPart, KV.at?_upd_same, there]

/-- A partition's owner has its request served, by a service core (R374 to R376, R378). -/
theorem State.Asks.procedure {s v : State} {h : MsgHdr} {proc : Nat} (asks : s.Asks h proc v) (k : State → State) :
    s.procedure h proc true (some false) k = .next (k v) := by
  obtain ⟨⟨header, -, rfl, server, due⟩, part, owner⟩ := asks
  have request : h.kind ≠ 1 := by
    simp only [headerOk, Bool.and_eq_true, decide_eq_true_eq] at header
    obtain ⟨⟨⟨⟨⟨⟨⟨-, -⟩, kind⟩, -⟩, -⟩, -⟩, -⟩, -⟩ := header
    rw [kind]
    decide
  obtain ⟨p, there, owned⟩ := State.at?_renew part owner
  have renewed : (s.renew h).isOwner h = true := by simp [State.isOwner, State.ownerOf, part, there, owned]
  have known : (s.renew h).partNamed h = true := by simp [State.partNamed, there]
  rw [State.procedure, if_neg request]
  simp [State.inTurn, due, header, known, part, renewed, server]

theorem State.Asks.storesOk {s v : State} {h : MsgHdr} {proc : Nat} (asks : s.Asks h proc v) (oks : s.StoresOk) : v.StoresOk := by
  obtain ⟨⟨-, -, rfl, -, -⟩, -, -⟩ := asks
  exact State.renew_storesOk s h oks

theorem State.Asks.replies {s v : State} {h : MsgHdr} {proc : Nat} (asks : s.Asks h proc v) : v.replies = s.replies := by
  obtain ⟨⟨-, -, rfl, -, -⟩, -, -⟩ := asks
  exact s.replies_renew h

/-! ## MAP -/

/-- The arguments of MAP that are BADARG: an address of another package, a reserved size, and a misaligned or absent page or frame. -/
def State.MapBad (s : State) (va : BitVec 64) (pfn : BitVec 28) (size : BitVec 2) : Prop :=
  s.ownVa va = false ∨ size = 3 ∨ va.toNat % pageBytes size.toNat ≠ 0 ∨ pfn.toNat * 65536 % pageBytes size.toNat ≠ 0 ∨
    Config.dramBytes < pfn.toNat * 65536 + pageBytes size.toNat

/-- MAP answers BADARG exactly for those arguments. -/
theorem State.mapBad_iff {s : State} {va : BitVec 64} {pfn : BitVec 28} {size : BitVec 2} :
    (!s.ownVa va || decide (size.toNat = 3) || decide (va.toNat % pageBytes size.toNat ≠ 0)
      || decide (pfn.toNat * 65536 % pageBytes size.toNat ≠ 0) || decide (Config.dramBytes < pfn.toNat * 65536 + pageBytes size.toNat)) = true ↔
    s.MapBad va pfn size := by
  simp only [State.MapBad, Bool.or_eq_true, Bool.not_eq_true', decide_eq_true_eq, or_assoc, BitVec.toNat_eq (x := size),
    show (3 : BitVec 2).toNat = 3 from rfl]

section
variable {s v : State} {h : MsgHdr} {va : BitVec 64} {pfn : BitVec 28} {size perm : BitVec 2} {cls : BitVec 3} {key : BitVec 13}
  (asks : s.Asks h 6 v)
include asks

theorem execMap_bad (bad : v.MapBad va pfn size) : execMap h va pfn size cls perm key s = .next (v.reply h 3 []) := by
  rw [execMap, asks.procedure]
  exact congrArg _ (if_pos (State.mapBad_iff.2 bad))

variable (good : ¬ v.MapBad va pfn size)
include good

theorem execMap_dieOut (die : v.dieReady (homeDie va % 4) = false) :
    execMap h va pfn size cls perm key s = .next (v.reply h 8 []) := by
  rw [execMap, asks.procedure]
  dsimp only
  rw [if_neg (mt State.mapBad_iff.1 good)]
  simp [die]

variable (die : v.dieReady (homeDie va % 4) = true)
include die

theorem execMap_tableOut (table : v.tableOut va = true) : execMap h va pfn size cls perm key s = .next v.again := by
  rw [execMap, asks.procedure]
  dsimp only
  rw [if_neg (mt State.mapBad_iff.1 good)]
  simp [die, table]

variable (table : v.tableOut va = false)
include table

theorem execMap_refused (refused : 5 ≤ cls.toNat ∨ key.toNat ∉ v.keysOf h.part.toNat) :
    execMap h va pfn size cls perm key s = .next (v.reply h 5 []) := by
  rw [execMap, asks.procedure]
  dsimp only
  rw [if_neg (mt State.mapBad_iff.1 good)]
  simp [die, table, refused]

variable (classOk : cls.toNat < 5) (keyOk : key.toNat ∈ v.keysOf h.part.toNat)
  {t : State} (tables : t = v.makeTables (homeDie va) (bits va 47 0) (levelOfSize size.toNat) 3) {addr level : Nat}
  (entry : t.entryAt (homeDie va) (bits va 47 0) (levelOfSize size.toNat) (t.die (homeDie va)).root.toNat walkLevels = .entry addr level)
include classOk keyOk tables entry

theorem execMap_placeOut (place : v.placeReady (dramBase (homeDie va) + addr) = false) :
    execMap h va pfn size cls perm key s = .next (v.reply h 8 []) := by
  subst tables
  rw [execMap, asks.procedure]
  dsimp only
  rw [if_neg (mt State.mapBad_iff.1 good)]
  simp [die, table, Nat.not_le.2 classOk, keyOk, entry, place]

theorem execMap_entry (place : v.placeReady (dramBase (homeDie va) + addr) = true) :
    execMap h va pfn size cls perm key s = .next (t.mapAt h va addr level (newPte pfn size cls key) perm.toNat) := by
  subst tables
  rw [execMap, asks.procedure]
  dsimp only
  rw [if_neg (mt State.mapBad_iff.1 good)]
  simp [die, table, Nat.not_le.2 classOk, keyOk, entry, place]

end

/-! ### At the place of the page's entry -/

theorem State.replies_makeTables (die ofs target n : Nat) : ∀ s : State, (s.makeTables die ofs target n).replies = s.replies := by
  induction n with
  | zero => exact fun _ => rfl
  | succ n ih =>
    intro s
    unfold State.makeTables
    split
    · exact (ih _).trans (State.replies_setPte _ _ _ _)
    · rfl

@[simp] theorem State.pteAt_setTags (s : State) (m : Sparse 2) (die addr : Nat) :
    ({ s with tags := m } : State).pteAt die addr = s.pteAt die addr := rfl

@[simp] theorem State.replies_setTags (s : State) (m : Sparse 2) : ({ s with tags := m } : State).replies = s.replies := rfl

/-- Beside the entry, MAP changes tags and cached translations at most. -/
theorem State.mapWrite_eq (s : State) (va : BitVec 64) (addr : Nat) (old e : BitVec 128) :
    ∃ m, s.mapWrite va addr old e = ({ s.setPte (homeDie va) addr e with tags := m } : State).invalidate va (pteSize e) := by
  unfold State.mapWrite
  generalize s.setPte (homeDie va) addr e = u
  dsimp only
  split
  · exact ⟨_, rfl⟩
  · exact ⟨u.tags, rfl⟩

@[simp] theorem State.replies_mapWrite (s : State) (va : BitVec 64) (addr : Nat) (old e : BitVec 128) :
    (s.mapWrite va addr old e).replies = s.replies := by
  obtain ⟨m, written⟩ := s.mapWrite_eq va addr old e
  rw [written, State.replies_invalidate, State.replies_setTags, State.replies_setPte]

theorem State.pteAt_mapWrite {s : State} (oks : s.StoresOk) (va : BitVec 64) (addr : Nat) (old e : BitVec 128) :
    (s.mapWrite va addr old e).pteAt (homeDie va) addr = e := by
  obtain ⟨m, written⟩ := s.mapWrite_eq va addr old e
  rw [written, State.pteAt_invalidate, State.pteAt_setTags, State.pteAt_setPte oks]

section
variable {s : State} (h : MsgHdr) {va : BitVec 64} {addr level : Nat} (pfn : BitVec 28) (size : BitVec 2) (cls : BitVec 3) (key : BitVec 13)
  (perm : Nat)

/-- Above a leaf of another size MAP is refused. -/
theorem State.mapAt_above (valid : pteV (s.pteAt (homeDie va) addr) = true) (table : pteSize (s.pteAt (homeDie va) addr) = 3)
    (leaf : s.hasLeaf (homeDie va) (bits (s.pteAt (homeDie va) addr) 43 13 * 8192) (walkLevels.drop level) = true) :
    s.mapAt h va addr level (newPte pfn size cls key) perm = s.reply h 5 [] := by
  simp [State.mapAt, valid, table, leaf]

/-- Below a leaf of another size, at a page that differs, and where the entry would be executable and writable, MAP is refused. -/
theorem State.mapAt_differs (valid : pteV (s.pteAt (homeDie va) addr) = true) (page : pteSize (s.pteAt (homeDie va) addr) ≠ 3)
    (differs : level ≠ levelOfSize size.toNat ∨ bits (s.pteAt (homeDie va) addr) 61 16 ≠ bits (newPte pfn size cls key) 61 16 ∨
      pteMix (withPerm (s.pteAt (homeDie va) addr) h.part.toNat perm) = true) :
    s.mapAt h va addr level (newPte pfn size cls key) perm = s.reply h 5 [] := by
  have leaf : (pteV (s.pteAt (homeDie va) addr) && decide (pteSize (s.pteAt (homeDie va) addr) ≠ 3)) = true := by simp [valid, page]
  simp only [State.mapAt, if_pos leaf, samePage, pteSize_newPte]
  refine if_pos ?_
  obtain place | other | mix := differs
  · simp [place]
  · simp [other]
  · simp [mix]

/-- To an entry that agrees MAP adds the partition's PERM. -/
theorem State.mapAt_agrees (valid : pteV (s.pteAt (homeDie va) addr) = true) (page : pteSize (s.pteAt (homeDie va) addr) ≠ 3)
    (place : level = levelOfSize size.toNat) (agrees : bits (s.pteAt (homeDie va) addr) 61 16 = bits (newPte pfn size cls key) 61 16)
    (unmixed : pteMix (withPerm (s.pteAt (homeDie va) addr) h.part.toNat perm) = false) :
    s.mapAt h va addr level (newPte pfn size cls key) perm =
      (s.mapWrite va addr (s.pteAt (homeDie va) addr) (withPerm (s.pteAt (homeDie va) addr) h.part.toNat perm)).reply h 0 [] := by
  simp [State.mapAt, valid, page, samePage, place, agrees, unmixed]

/-- Where there is no leaf MAP writes a new entry. -/
theorem State.mapAt_fresh (fresh : pteV (s.pteAt (homeDie va) addr) = false ∨ (pteSize (s.pteAt (homeDie va) addr) = 3 ∧
      s.hasLeaf (homeDie va) (bits (s.pteAt (homeDie va) addr) 43 13 * 8192) (walkLevels.drop level) = false)) :
    s.mapAt h va addr level (newPte pfn size cls key) perm =
      (s.mapWrite va addr (s.pteAt (homeDie va) addr) (withPerm (newPte pfn size cls key) h.part.toNat perm)).reply h 0 [] := by
  obtain invalid | ⟨table, empty⟩ := fresh
  · simp [State.mapAt, invalid]
  · simp [State.mapAt, table, empty]

end

/-! ## UNMAP -/

theorem State.leafAt_valid {s : State} {va : BitVec 64} {addr : Nat} {e : BitVec 128} (leaf : s.leafAt va = some (addr, e)) : pteV e = true := by
  unfold State.leafAt at leaf
  split at leaf
  · dsimp only at leaf
    split at leaf
    next valid =>
      obtain ⟨-, rfl⟩ := Prod.mk.inj (Option.some.inj leaf)
      exact (Bool.and_eq_true_iff.1 valid).1
    next => cases leaf
  · cases leaf

section
variable {s v : State} {h : MsgHdr} {va : BitVec 64} (asks : s.Asks h 7 v)
include asks

theorem execUnmap_bad (bad : v.ownVa va = false ∨ va.toNat % 65536 ≠ 0) : execUnmap h va s = .next (v.reply h 3 []) := by
  rw [execUnmap, asks.procedure]
  simp [bad]

variable (own : v.ownVa va = true) (aligned : va.toNat % 65536 = 0)
include own aligned

theorem execUnmap_dieOut (die : v.dieReady (homeDie va % 4) = false) : execUnmap h va s = .next (v.reply h 8 []) := by
  rw [execUnmap, asks.procedure]
  simp [own, aligned, die]

variable (die : v.dieReady (homeDie va % 4) = true)
include die

theorem execUnmap_tableOut (table : v.tableOut va = true) : execUnmap h va s = .next v.again := by
  rw [execUnmap, asks.procedure]
  simp [own, aligned, die, table]

variable (table : v.tableOut va = false) {addr : Nat} {e : BitVec 128} (leaf : v.leafAt va = some (addr, e))
  (place : v.placeReady (dramBase (homeDie va) + addr) = true)
include table leaf place

theorem execUnmap_absent (absent : ptePerm e h.part.toNat = 0) : execUnmap h va s = .next (v.reply h 0 []) := by
  rw [execUnmap, asks.procedure]
  simp [own, aligned, die, table, leaf, place, absent]

theorem execUnmap_leaf (mapped : ptePerm e h.part.toNat ≠ 0) : execUnmap h va s = .next
    (((v.setPte (homeDie va) addr (unmapped e h.part.toNat)).invalidate va (pteSize e)).reply h 0 []) := by
  rw [execUnmap, asks.procedure]
  simp [own, aligned, die, table, leaf, place, mapped, unmapped]

end

/-! ## PAGE.GIVE and PAGE.TAKE -/

section
variable {s v : State} {h : MsgHdr} {proc : Nat} {va : BitVec 64} {toHost : Bool} (asks : s.Asks h proc v)
include asks

theorem State.pageProc_bad (bad : v.ownVa va = false ∨ va.toNat % 65536 ≠ 0) : s.pageProc h proc va toHost = .next (v.reply h 3 []) := by
  rw [State.pageProc, asks.procedure]
  simp [bad]

variable (own : v.ownVa va = true) (aligned : va.toNat % 65536 = 0)
include own aligned

theorem State.pageProc_dieOut (die : v.dieReady (homeDie va % 4) = false) : s.pageProc h proc va toHost = .next (v.reply h 8 []) := by
  rw [State.pageProc, asks.procedure]
  simp [own, aligned, die]

theorem State.pageProc_migrates (die : v.dieReady (homeDie va % 4) = true) : s.pageProc h proc va toHost = .next (v.migrate h va toHost) := by
  rw [State.pageProc, asks.procedure]
  simp [own, aligned, die]

end

/-- The key slots of a partition for the pages of an owner. -/
def State.ownerSlots (s : State) (part : Nat) (host : Bool) : List Nat :=
  match KV.at? s.parts part with | some p => if host = true then p.keysHost else p.keysDev | none => []

/-- One slot is taken of any; another free value may be drawn for it. -/
theorem State.someSlot_spec (s : State) {slots : List Nat} (nonempty : slots ≠ []) :
    ∃ k ∈ slots, ∃ n, s.someSlot slots = some (k, { s with free := n }) := by
  match slots with
  | [] => exact absurd rfl nonempty
  | [k] => exact ⟨k, List.mem_singleton.2 rfl, s.free, rfl⟩
  | a :: b :: l =>
    have inside : Config.pick s.free % (a :: b :: l).length < (a :: b :: l).length := Nat.mod_lt _ (by simp)
    refine ⟨_, List.getElem_mem inside, s.free + 1, ?_⟩
    simp [State.someSlot]

/-- A page with its owner turned and its sectors encrypted under a key slot, answered with OK (R84, R390). -/
def State.turnPage (s : State) (h : MsgHdr) (va : BitVec 64) (addr : Nat) (e : BitVec 128) (slot : Nat) (host : Bool) : State :=
  (((s.recrypt (pteKey e) (BitVec.ofNat 13 slot) ((dramBase (homeDie va) + ptePfn e * 65536) / 32) (pageBytes (pteSize e) / 32)).setPte
    (homeDie va) addr (turned e slot host)).invalidate va (pteSize e)).reply h 0 []

theorem State.WritesOnly.replies {s u : State} (h : s.WritesOnly u) : u.replies = s.replies := by
  rw [h]

theorem State.replies_recrypt (old new : BitVec 13) (n : Nat) : ∀ (s : State) (sector : Nat), (s.recrypt old new sector n).replies = s.replies := by
  induction n with
  | zero => exact fun _ _ => rfl
  | succ n ih =>
    intro s sector
    have same : (s.rekey sector old).replies = s.replies := (s.rekey_writesOnly sector old).replies
    exact (ih _ _).trans same

theorem State.turnPage_pteAt {s : State} (oks : s.StoresOk) (h : MsgHdr) (va : BitVec 64) (addr : Nat) (e : BitVec 128) (slot : Nat)
    (host : Bool) : (s.turnPage h va addr e slot host).pteAt (homeDie va) addr = turned e slot host := by
  rw [State.turnPage, State.pteAt_reply, State.pteAt_invalidate, State.pteAt_setPte (State.recrypt_storesOk _ _ _ _ _ oks)]

theorem State.turnPage_replies (s : State) (h : MsgHdr) (va : BitVec 64) (addr : Nat) (e : BitVec 128) (slot : Nat) (host : Bool) :
    (s.turnPage h va addr e slot host).replies = s.replies ++ [{ hdr := replyHdr h 0 0, payload := [] }] := by
  rw [State.turnPage, State.replies_reply, State.replies_invalidate, State.replies_setPte, State.replies_recrypt, List.length_nil]

section
variable {s : State} {h : MsgHdr} {va : BitVec 64} {host : Bool} {addr : Nat} {e : BitVec 128} (leaf : s.leafAt va = some (addr, e))
  (place : s.placeReady (dramBase (homeDie va) + addr) = true)
  (page : s.pageReady (dramBase (homeDie va) + ptePfn e * 65536) (pteSize e) = true)
include leaf place page

theorem State.migrate_pageOut (out : s.pageOut (dramBase (homeDie va) + ptePfn e * 65536) (pteSize e) = true) : s.migrate h va host = s.again := by
  simp [State.migrate, leaf, place, page, out]

variable (table : s.tableOut va = false) (ready : s.pageOut (dramBase (homeDie va) + ptePfn e * 65536) (pteSize e) = false)
include table ready

theorem State.migrate_absent (absent : ptePerm e h.part.toNat = 0) : s.migrate h va host = s.reply h 7 [] := by
  simp [State.migrate, leaf, place, page, table, ready, absent]

variable (mapped : ptePerm e h.part.toNat ≠ 0)
include mapped

theorem State.migrate_owned (owned : pteHost e = host) : s.migrate h va host = s.reply h 5 [] := by
  simp [State.migrate, leaf, place, page, table, ready, mapped, owned]

variable (other : pteHost e ≠ host)
include other

theorem State.migrate_slotless (slotless : s.someSlot (s.ownerSlots h.part.toNat host) = none) : s.migrate h va host = s.reply h 5 [] := by
  cases there : KV.at? s.parts h.part.toNat with
  | none => simp [State.migrate, leaf, place, page, table, ready, mapped, other, there, State.someSlot]
  | some p =>
    simp only [State.ownerSlots, there] at slotless
    simp [State.migrate, leaf, place, page, table, ready, mapped, other, there, slotless]

theorem State.migrate_taken {k : Nat} {u : State} (slot : s.someSlot (s.ownerSlots h.part.toNat host) = some (k, u)) :
    s.migrate h va host = u.turnPage h va addr e k host := by
  cases there : KV.at? s.parts h.part.toNat with
  | none => simp [State.ownerSlots, there, State.someSlot] at slot
  | some p =>
    simp only [State.ownerSlots, there] at slot
    simp [State.migrate, leaf, place, page, table, ready, mapped, other, there, slot, State.turnPage, turned]

end
end Sys2Proof.Machine
end

section
/-! O53: MAP, UNMAP, PAGE.GIVE and PAGE.TAKE, case by case, and what encrypting again keeps. -/

namespace Sys2Proof

open Machine

/-- A sector encrypted again is bytes 32 times its number and up. -/
theorem recrypt_keeps (s : State) (old new : BitVec 13) (sector n k : Nat) (oks : s.StoresOk) (above : 32 * sector ≤ k)
    (below : k < 32 * (sector + n)) : (s.recrypt old new sector n).rdByte ⟨k, some new⟩ 0 = s.rdByte ⟨k, some old⟩ 0 :=
  State.rdByte_recrypt old new n oks (by omega) (by omega)

/-- MAP's entry stands in the table when its OK goes out. -/
theorem mapWrite_answered {s t : State} (oks : t.StoresOk) (replies : t.replies = s.replies) (h : MsgHdr) (va : BitVec 64) (addr : Nat)
    (old e : BitVec 128) : ((t.mapWrite va addr old e).reply h 0 []).pteAt (homeDie va) addr = e ∧
      ((t.mapWrite va addr old e).reply h 0 []).replies = s.replies ++ [{ hdr := replyHdr h 0 0, payload := [] }] := by
  rw [State.pteAt_reply, State.pteAt_mapWrite oks, State.replies_reply, State.replies_mapWrite, replies, List.length_nil]
  exact ⟨rfl, rfl⟩

/-- The fields of the entry that MAP writes (R52, R388). -/
theorem newEntry_fields (pfn : BitVec 28) (size perm : BitVec 2) (cls : BitVec 3) (key : BitVec 13) (part : Nat) {e : BitVec 128}
    (entry : e = withPerm (newPte pfn size cls key) part perm.toNat) : pteV e = true ∧ pteHost e = false ∧ ptePfn e = pfn.toNat ∧
      pteSize e = size.toNat ∧ pteClass e = cls.toNat ∧ pteKey e = key ∧ (part < 16 → ptePerm e part = perm.toNat) := by
  subst entry
  refine ⟨by simp, by simp, by simp, by simp, by simp, by simp, fun named => ?_⟩
  rw [ptePerm_withPerm_same _ _ named, Nat.mod_eq_of_lt perm.isLt]

/-- UNMAP of a leaf (R388). -/
theorem unmap_leaf {s v : State} {h : MsgHdr} {va : BitVec 64} {addr : Nat} {e : BitVec 128} (asks : s.Asks h 7 v) (oks : s.StoresOk)
    (named : h.part.toNat < 16) (own : v.ownVa va = true) (aligned : va.toNat % 65536 = 0) (die : v.dieReady (homeDie va % 4) = true)
    (table : v.tableOut va = false) (leaf : v.leafAt va = some (addr, e)) (place : v.placeReady (dramBase (homeDie va) + addr) = true)
    (mapped : ptePerm e h.part.toNat ≠ 0) : ∃ u, execUnmap h va s = .next u ∧ ptePerm (u.pteAt (homeDie va) addr) h.part.toNat = 0 ∧
      (pteV (u.pteAt (homeDie va) addr) = true ↔ ∃ p < 16, p ≠ h.part.toNat ∧ ptePerm e p ≠ 0) := by
  refine ⟨_, execUnmap_leaf asks own aligned die table leaf place mapped, ?_⟩
  rw [State.pteAt_reply, State.pteAt_invalidate, State.pteAt_setPte (asks.storesOk oks)]
  exact ⟨ptePerm_unmapped e named, pteV_unmapped named (State.leafAt_valid leaf)⟩

/-- PAGE.GIVE or PAGE.TAKE of a page of the other owner, with a slot to take (R84, R390). -/
theorem migrate_turns {s : State} {h : MsgHdr} {va : BitVec 64} {host : Bool} {addr : Nat} {e : BitVec 128} (oks : s.StoresOk)
    (leaf : s.leafAt va = some (addr, e)) (place : s.placeReady (dramBase (homeDie va) + addr) = true)
    (page : s.pageReady (dramBase (homeDie va) + ptePfn e * 65536) (pteSize e) = true) (table : s.tableOut va = false)
    (ready : s.pageOut (dramBase (homeDie va) + ptePfn e * 65536) (pteSize e) = false) (mapped : ptePerm e h.part.toNat ≠ 0)
    (other : pteHost e ≠ host) (nonempty : s.ownerSlots h.part.toNat host ≠ []) : ∃ k ∈ s.ownerSlots h.part.toNat host,
      pteHost ((s.migrate h va host).pteAt (homeDie va) addr) = host ∧
      pteKey ((s.migrate h va host).pteAt (homeDie va) addr) = BitVec.ofNat 13 k ∧
      ptePfn ((s.migrate h va host).pteAt (homeDie va) addr) = ptePfn e ∧
      (s.migrate h va host).replies = s.replies ++ [{ hdr := replyHdr h 0 0, payload := [] }] := by
  obtain ⟨k, taken, n, slot⟩ := s.someSlot_spec nonempty
  have drawn : State.StoresOk { s with free := n } := oks
  refine ⟨k, taken, ?_⟩
  rw [State.migrate_taken leaf place page table ready mapped other slot, State.turnPage_pteAt drawn, State.turnPage_replies]
  exact ⟨pteHost_turned e k host, pteKey_turned e k host, ptePfn_turned e k host, rfl⟩

/-- The three requests that name a mapped page test its address, and then its die (R388, R380). -/
theorem pageRequests_checked {s v : State} {h : MsgHdr} {va : BitVec 64} {e : Nat × Instr}
    (request : e ∈ ([(7, .unmap h va), (8, .pageGive h va), (9, .pageTake h va)] : List (Nat × Instr))) (asks : s.Asks h e.1 v) :
    ((v.ownVa va = false ∨ va.toNat % 65536 ≠ 0) → exec e.2 s = .next (v.reply h 3 [])) ∧
      (v.ownVa va = true → va.toNat % 65536 = 0 → v.dieReady (homeDie va % 4) = false → exec e.2 s = .next (v.reply h 8 [])) := by
  simp only [List.mem_cons, List.not_mem_nil, or_false] at request
  obtain rfl | rfl | rfl := request
  · exact ⟨execUnmap_bad asks, execUnmap_dieOut asks⟩
  · exact ⟨State.pageProc_bad asks, State.pageProc_dieOut asks⟩
  · exact ⟨State.pageProc_bad asks, State.pageProc_dieOut asks⟩

/-- PAGE.GIVE and PAGE.TAKE are the migrations to the device and to the host. -/
theorem exec_migrates {s v : State} {h : MsgHdr} {va : BitVec 64} {i : Instr} {proc : Nat} {host : Bool}
    (request : (i = .pageGive h va ∧ proc = 8 ∧ host = false) ∨ (i = .pageTake h va ∧ proc = 9 ∧ host = true)) (asks : s.Asks h proc v)
    (own : v.ownVa va = true) (aligned : va.toNat % 65536 = 0) (die : v.dieReady (homeDie va % 4) = true) :
    exec i s = .next (v.migrate h va host) := by
  obtain ⟨rfl, rfl, rfl⟩ | ⟨rfl, rfl, rfl⟩ := request
  · exact State.pageProc_migrates asks own aligned die
  · exact State.pageProc_migrates asks own aligned die

/-- Settles O53: each request by the case that it meets. -/
theorem mappingAndMigration : Obligations.MappingAndMigration := by
  refine ⟨fun s v t h va pfn size perm cls key asks => ?_, fun s v h va => ⟨fun e => pageRequests_checked, ?_, ?_⟩, recrypt_keeps⟩
  · refine ⟨execMap_bad asks, execMap_dieOut asks, execMap_tableOut asks, execMap_refused asks,
      fun good die table classOk keyOk tables addr level entry => ?_⟩
    have tables_storesOk (oks : s.StoresOk) : t.StoresOk := tables ▸ State.makeTables_storesOk _ _ _ _ _ (asks.storesOk oks)
    have same_replies : t.replies = s.replies := by rw [tables, State.replies_makeTables, asks.replies]
    refine ⟨execMap_placeOut asks good die table classOk keyOk tables entry, ?_, ?_⟩
    · rintro old place rfl valid
      rw [exec_map, execMap_entry asks good die table classOk keyOk tables entry place]
      refine ⟨fun directory leaf => ?_, fun page differs => ?_, fun page same agrees unmixed oks => ⟨_, rfl, ?_⟩⟩
      · rw [State.mapAt_above h pfn size cls key perm.toNat valid directory leaf]
      · rw [State.mapAt_differs h pfn size cls key perm.toNat valid page differs]
      · rw [State.mapAt_agrees h pfn size cls key perm.toNat valid page same agrees unmixed]
        exact mapWrite_answered (tables_storesOk oks) same_replies h va addr _ _
    · intro place oks fresh
      obtain ⟨written, answered⟩ := mapWrite_answered (tables_storesOk oks) same_replies h va addr (t.pteAt (homeDie va) addr)
        (withPerm (newPte pfn size cls key) h.part.toNat perm.toNat)
      obtain ⟨valid, device, frame, sized, classed, keyed, permitted⟩ := newEntry_fields pfn size perm cls key h.part.toNat rfl
      rw [exec_map, execMap_entry asks good die table classOk keyOk tables entry place, State.mapAt_fresh h pfn size cls key perm.toNat fresh]
      exact ⟨_, _, rfl, written, rfl, valid, device, frame, sized, classed, keyed, permitted, answered⟩
  · exact fun own aligned die table asks => execUnmap_tableOut asks own aligned die table
  · intro oks named own aligned die table addr e leaf place
    refine ⟨fun asks => ⟨execUnmap_absent asks own aligned die table leaf place,
      unmap_leaf asks oks named own aligned die table leaf place⟩, fun page i proc host request asks => ?_⟩
    rw [exec_migrates request asks own aligned die]
    refine ⟨fun out => congrArg _ (State.migrate_pageOut leaf place page out),
      fun ready absent => congrArg _ (State.migrate_absent leaf place page table ready absent),
      fun ready mapped => ⟨fun owned => congrArg _ (State.migrate_owned leaf place page table ready mapped owned), fun other => ?_⟩⟩
    rintro slots rfl
    refine ⟨fun slotless => congrArg _ (State.migrate_slotless leaf place page table ready mapped other ?_), fun nonempty => ?_⟩
    · rw [show v.ownerSlots h.part.toNat host = [] from slotless, State.someSlot]
    · obtain ⟨k, taken, turns⟩ := migrate_turns (asks.storesOk oks) leaf place page table ready mapped other nonempty
      exact ⟨_, k, taken, rfl, asks.replies ▸ turns⟩

end Sys2Proof
end

section
/-! Decoding and encoding (R86 to R102): a full word is the pack of its opcode and its fields, the opcode map reads off a word an instruction with
that opcode and those fields, and the sub-code in MOD tells the instructions of one opcode apart. -/

namespace Sys2Proof

open Machine Laws.Carries

/-! ## Words as packs of their fields -/

/-- One bit as a field. -/
theorem ofBool_getLsbD {n : Nat} (w : BitVec n) (i : Nat) : BitVec.ofBool (w.getLsbD i) = w.extractLsb' i 1 := by
  refine BitVec.eq_of_getLsbD_eq fun j hj => ?_
  obtain rfl : j = 0 := by omega
  simp

/-- The opcode of a full word is its bits 62:53. -/
theorem extractLsb'_of_opcode {w : BitVec 64} {op : Nat} (carries : Opcode w op) : w.extractLsb' 53 10 = BitVec.ofNat 10 op := by
  obtain ⟨-, group, minor⟩ := carries
  simp only [bits] at group minor
  apply BitVec.eq_of_toNat_eq
  rw [BitVec.toNat_ofNat, BitVec.extractLsb'_toNat, Nat.shiftRight_eq_div_pow]
  omega

theorem extractLsb'_of_getLsbD {n : Nat} {w : BitVec n} {i : Nat} {b : Bool} (bit : w.getLsbD i = b) : w.extractLsb' i 1 = BitVec.ofBool b := by
  rw [← ofBool_getLsbD, bit]

/-- A word in register format is the pack of its opcode and its fields (R87, R89). -/
theorem packReg_regOf {w : BitVec 64} {op : Nat} (carries : Opcode w op) : packReg op (regOf w) = w := by
  have joined : w.extractLsb' 63 1 ++ w.extractLsb' 53 10 ++ w.extractLsb' 52 1 ++ w.extractLsb' 49 3 ++ w.extractLsb' 41 8 ++
      w.extractLsb' 33 8 ++ w.extractLsb' 25 8 ++ w.extractLsb' 17 8 ++ w.extractLsb' 13 4 ++ w.extractLsb' 0 13 = w := by
    repeat rw [BitVec.extractLsb'_append_extractLsb'_eq_extractLsb' (by rfl)]
    exact BitVec.extractLsb'_eq_self
  rwa [extractLsb'_of_getLsbD carries.1, extractLsb'_of_opcode carries, ← ofBool_getLsbD w 52] at joined

/-- A word in immediate format whose bit 0 is 0 is the pack of its opcode and its fields (R88). -/
theorem packImm_immOf {w : BitVec 64} {op : Nat} (carries : Opcode w op) (bit0 : w.getLsbD 0 = false) : packImm op (immOf w) = w := by
  have joined : w.extractLsb' 63 1 ++ w.extractLsb' 53 10 ++ w.extractLsb' 52 1 ++ w.extractLsb' 49 3 ++ w.extractLsb' 41 8 ++
      w.extractLsb' 33 8 ++ w.extractLsb' 1 32 ++ w.extractLsb' 0 1 = w := by
    repeat rw [BitVec.extractLsb'_append_extractLsb'_eq_extractLsb' (by rfl)]
    exact BitVec.extractLsb'_eq_self
  rwa [extractLsb'_of_getLsbD carries.1, extractLsb'_of_getLsbD bit0, extractLsb'_of_opcode carries, ← ofBool_getLsbD w 52] at joined

/-- A word with bit 63 set and bit 0 clear is the pack of its slots (R99). -/
theorem packPair_slotOf {w : BitVec 64} (bit63 : w.getLsbD 63 = true) (bit0 : w.getLsbD 0 = false) :
    packPair (slotOf w 32) (slotOf w 1) = w := by
  have joined : w.extractLsb' 63 1 ++ w.extractLsb' 56 7 ++ w.extractLsb' 53 3 ++ w.extractLsb' 45 8 ++ w.extractLsb' 37 8 ++
      w.extractLsb' 32 5 ++ w.extractLsb' 25 7 ++ w.extractLsb' 22 3 ++ w.extractLsb' 14 8 ++ w.extractLsb' 6 8 ++ w.extractLsb' 1 5 ++
      w.extractLsb' 0 1 = w := by
    repeat rw [BitVec.extractLsb'_append_extractLsb'_eq_extractLsb' (by rfl)]
    exact BitVec.extractLsb'_eq_self
  rwa [extractLsb'_of_getLsbD bit63, extractLsb'_of_getLsbD bit0] at joined

/-! ## Instructions as words -/

/-- The constructors that are words of a stream are those with an opcode, and the paired word. -/
theorem isWord_eq (i : Instr) : i.isWord = ((regCode i).isSome || (immCode i).isSome || i matches .pairedWord _ _) := by
  cases i with
  | mxcvt f => by_cases from11 : modType f.mod = 11 <;> simp [Instr.isWord, regShape, regCode, from11]
  | _ => rfl

/-- A word of a stream is in register or memory format, in immediate format or paired. -/
theorem isWord_cases {i : Instr} (word : i.isWord = true) :
    (∃ op f, regCode i = some (op, f)) ∨ (∃ op f, immCode i = some (op, f)) ∨ ∃ x y, i = .pairedWord x y := by
  rw [isWord_eq] at word
  cases reg : regCode i with
  | some code => exact .inl ⟨_, _, rfl⟩
  | none =>
    cases imm : immCode i with
    | some code => exact .inr (.inl ⟨_, _, rfl⟩)
    | none =>
      simp only [reg, imm, Option.isSome_none, Bool.false_or] at word
      split at word
      · exact .inr (.inr ⟨_, _, rfl⟩)
      · cases word

/-- An instruction in immediate format is in no other format. -/
theorem regCode_of_immCode {i : Instr} {op : Nat} {f : ImmF} (code : immCode i = some (op, f)) : regCode i = none := by
  cases i with
  | movi _ | movh _ | addImm _ | andImm _ | orImm _ | xorImm _ | bra _ | call _ | crbeg _ | fbra _ => rfl
  | _ => cases code

theorem isWord_of_regCode {i : Instr} {op : Nat} {f : RegF} (code : regCode i = some (op, f)) : i.isWord = true := by
  simp [isWord_eq, code]

theorem isWord_of_immCode {i : Instr} {op : Nat} {f : ImmF} (code : immCode i = some (op, f)) : i.isWord = true := by
  simp [isWord_eq, code]

theorem encode_of_regCode {i : Instr} {op : Nat} {f : RegF} (code : regCode i = some (op, f)) : encode i = packReg op f := by
  simp [encode, code]

theorem encode_of_immCode {i : Instr} {op : Nat} {f : ImmF} (code : immCode i = some (op, f)) : encode i = packImm op f := by
  simp [encode, regCode_of_immCode code, code]

/-- An opcode has ten bits (R101). -/
theorem regCode_lt {i : Instr} {op : Nat} {f : RegF} (code : regCode i = some (op, f)) : op < 1024 := by
  cases i with
  | ld s _ | st s _ | ldq s _ | stq s _ | ldwf s _ | ldwfe s _ | stwe s _ | stf s _ | tagrd s _ | tagwr s _ | atomAdd s _ | atomMin s _
  | atomMax s _ | atomAnd s _ | atomOr s _ | atomXor s _ | atomXchg s _ | atomCas s _ | atomFadd s _ => cases code; cases s <;> decide
  | _ => cases code <;> decide

theorem immCode_lt {i : Instr} {op : Nat} {f : ImmF} (code : immCode i = some (op, f)) : op < 1024 := by
  cases i <;> cases code <;> decide

/-! ## The opcode map -/

/-- The opcode map by group and minor code (R101). -/
def parseMap (w : BitVec 64) (group minor : Nat) : Parsed :=
  match group with
  | 0 => parseGroup0 w minor
  | 1 => parseGroup1 w minor
  | 2 => parseGroup2 w minor
  | 3 => parseGroup3 w minor
  | 4 => parseGroup4 w minor
  | 5 => parseGroup5 w minor
  | 6 => parseGroup6 w minor
  | 7 => parseGroup7 w minor
  | 8 => parseGroup8 w minor
  | 9 => parseGroup9 w minor
  | 10 => parseGroup10 w minor
  | 11 => parseGroup11 w minor
  | 12 => parseGroup12 w minor
  | 13 => parseGroup13 w minor
  | 14 => parseGroup14 w minor
  | _ => .unassigned

/-- A word whose bit 63 is clear is read by its opcode (R86). -/
theorem parse_full {w : BitVec 64} (bit63 : w.getLsbD 63 = false) : parse w = parseMap w (bits w 62 59) (bits w 58 53) := by
  rw [parse, bit63]
  rfl

theorem parse_opcode {w : BitVec 64} {op : Nat} (carries : Opcode w op) : parse w = parseMap w (op / 64) (op % 64) := by
  obtain ⟨bit63, group, minor⟩ := carries
  rw [parse_full bit63, group, minor]

theorem parse_paired {w : BitVec 64} (bit63 : w.getLsbD 63 = true) :
    parse w = .word (.pairedWord (slotOf w 32) (slotOf w 1)) (w.getLsbD 0) := by
  rw [parse, if_pos bit63]

/-- An instruction that the map reads off a word has the word's opcode and the word's fields. -/
def Parsed.Spells (w : BitVec 64) (op : Nat) : Parsed → Prop
  | .word i bit0 => (regCode i = some (op, regOf w) ∧ bit0 = false) ∨ (immCode i = some (op, immOf w) ∧ bit0 = w.getLsbD 0)
  | _ => True

/-- Every entry of the map stands at its own opcode and keeps the word's fields. -/
theorem parseMap_spells (w : BitVec 64) (group minor : Nat) : (parseMap w group minor).Spells w (64 * group + minor) := by
  unfold parseMap
  split
  case h_16 => trivial
  all_goals
    simp only [parseGroup0, parseGroup1, parseGroup2, parseGroup3, parseGroup4, parseGroup5, parseGroup6, parseGroup7, parseGroup8,
      parseGroup9, parseGroup10, parseGroup11, parseGroup12, parseGroup13, parseGroup14]
    repeat' split
  all_goals simp [Parsed.Spells, regCode, immCode, spaceCode]

/-- The bits below the opcode that tell instructions of one opcode apart: MOD from its bit 0 up to a bit, and their value (R101). -/
def subCode : Instr → Option (Nat × Nat)
  | .voteAny _ => some (2, 0) | .voteAll _ => some (2, 1) | .voteNone _ => some (2, 2) | .votePack _ => some (2, 3) | .voteUnpk _ => some (2, 4)
  | .wclose _ => some (1, 0) | .wcloseId _ => some (1, 1) | .wcloseEnd _ => some (1, 2)
  | .holdLock _ => some (2, 0) | .holdSlot _ => some (2, 1) | .holdCopy _ => some (2, 2)
  | .heir _ => some (2, 0) | .heirSlot _ => some (2, 1) | .heirGrp _ => some (2, 2)
  | .drop _ => some (2, 0) | .dropSlot _ => some (2, 1)
  | .promise _ => some (2, 0)
  | .fulfil _ => some (2, 0)
  | .estqInfo _ => some (2, 0) | .estqObj _ => some (2, 1) | .estqFrom _ => some (2, 2) | .estqMask _ => some (2, 3)
  | .qrseed _ => some (1, 0) | .qrseedKey _ => some (1, 1)
  | .qrhash _ => some (0, 0) | .qrhashK _ => some (0, 1)
  | .launch _ => some (7, 0) | .launchEst _ => some (7, 1)
  | _ => none

/-- The map reads an instruction in register or memory format off a word that has its opcode, its sub-code and its fields. -/
theorem parse_of_regCode {w : BitVec 64} {op : Nat} {f : RegF} {i : Instr} (code : regCode i = some (op, f)) (carries : Opcode w op)
    (fields : regOf w = f) (sub : ∀ hi k, subCode i = some (hi, k) → bits (modOf w) hi 0 = k) : parse w = .word i false := by
  subst fields
  rw [parse_opcode carries]
  cases i with
  | ld s _ | st s _ | ldq s _ | stq s _ | ldwf s _ | ldwfe s _ | stwe s _ | stf s _ | tagrd s _ | tagwr s _ | atomAdd s _ | atomMin s _
  | atomMax s _ | atomAnd s _ | atomOr s _ | atomXor s _ | atomXchg s _ | atomCas s _ | atomFadd s _ => cases code; cases s <;> rfl
  | voteAny _ | voteAll _ | voteNone _ | votePack _ | voteUnpk _ | wclose _ | wcloseId _ | wcloseEnd _ | holdLock _ | holdSlot _
  | holdCopy _ | heir _ | heirSlot _ | heirGrp _ | drop _ | dropSlot _ | promise _ | fulfil _ | estqInfo _ | estqObj _ | estqFrom _
  | estqMask _ | qrseed _ | qrseedKey _ | qrhash _ | qrhashK _ | launch _ | launchEst _ =>
    cases code
    simp [parseMap, parseGroup4, parseGroup9, parseGroup10, parseGroup11, parseGroup14, sub _ _ rfl]
  | _ => cases code <;> rfl

/-- In immediate format the opcode alone tells the instruction; bit 0 is left to be judged (R88). -/
theorem parse_of_immCode {w : BitVec 64} {op : Nat} {f : ImmF} {i : Instr} (code : immCode i = some (op, f)) (carries : Opcode w op)
    (fields : immOf w = f) : parse w = .word i (w.getLsbD 0) := by
  subst fields
  rw [parse_opcode carries]
  cases i <;> cases code <;> rfl

/-! ## What a legal instruction's MOD holds -/

/-- A reserved MOD value is an ill.field at the latest. -/
theorem modOk_of_shapeLegal {st : Stream} {h : Shape} {f : RegF} (legal : h.cause st f = none) : h.modOk = true := by
  cases ok : h.modOk with
  | true => rfl
  | false =>
    simp only [Shape.cause, ok, Bool.not_false, Bool.or_true, Bool.true_or, if_true] at legal
    split at legal <;> cases legal

theorem modOk_of_wellFormed {st : Stream} {i : Instr} {h : Shape} {f : RegF} (wf : WellFormed st i) (shape : regShape st i = some (h, f)) :
    h.modOk = true := by
  have legal := wf.2
  simp only [illegal, shape] at legal
  exact modOk_of_shapeLegal legal

theorem bits_of_estateMod {sc spc : Bool} {k : Nat} {m : BitVec 13} (ok : estateMod sc spc k m = true) : bits m 2 0 = k := by
  simp only [estateMod, Bool.and_eq_true, decide_eq_true_eq] at ok
  exact ok.2

theorem bits_of_engineMod {k : Nat} {m : BitVec 13} (ok : engineMod k m = true) : bits m 7 0 = k := by
  simp only [engineMod, Bool.and_eq_true, decide_eq_true_eq] at ok
  exact ok.2

/-- A well-formed instruction's MOD holds its own sub-code. -/
theorem subCode_of_wellFormed {st : Stream} {i : Instr} {op hi k : Nat} {f : RegF} (wf : WellFormed st i) (code : regCode i = some (op, f))
    (sub : subCode i = some (hi, k)) : bits f.mod hi 0 = k := by
  cases i with
  | voteAny _ | voteAll _ | voteNone _ | votePack _ | voteUnpk _ | wclose _ | wcloseId _ | wcloseEnd _ | qrseed _ | qrseedKey _ | qrhash _
  | qrhashK _ =>
    cases code
    cases sub
    rw [of_decide_eq_true (modOk_of_wellFormed wf rfl)]
    rfl
  | holdLock _ | holdSlot _ | holdCopy _ | heir _ | heirSlot _ | heirGrp _ | drop _ | dropSlot _ | promise _ | fulfil _ | estqInfo _
  | estqObj _ | estqFrom _ | estqMask _ =>
    cases code
    cases sub
    exact bits_of_estateMod (modOk_of_wellFormed wf rfl)
  | launch _ | launchEst _ =>
    cases code
    cases sub
    exact bits_of_engineMod (modOk_of_wellFormed wf rfl)
  | _ => cases sub

/-! ## Reading an encoded word, and encoding what was read -/

/-- The word of a well-formed instruction is read as that instruction. -/
theorem parse_encode {st : Stream} {i : Instr} (wf : WellFormed st i) : parse (encode i) = .word i false := by
  obtain ⟨op, f, code⟩ | ⟨op, f, code⟩ | ⟨x, y, rfl⟩ := isWord_cases wf.1
  · obtain ⟨fields, carries⟩ := packReg_fields op f (regCode_lt code)
    rw [encode_of_regCode code]
    refine parse_of_regCode code carries fields fun hi k sub => ?_
    rw [show modOf (packReg op f) = f.mod from congrArg RegF.mod fields]
    exact subCode_of_wellFormed wf code sub
  · obtain ⟨fields, carries, bit0⟩ := packImm_fields op f (immCode_lt code)
    rw [encode_of_immCode code, parse_of_immCode code carries fields, bit0]
  · obtain ⟨bit63, bit0⟩ := packPair_ends x y
    obtain ⟨first, second⟩ := slotsOf_packPair x y
    rw [show encode (.pairedWord x y) = packPair x y from rfl, parse_paired bit63, first, second, bit0]

theorem opcode_of_bits {w : BitVec 64} (bit63 : w.getLsbD 63 = false) : Opcode w (64 * bits w 62 59 + bits w 58 53) := by
  have minor : bits w 58 53 < 64 := Nat.mod_lt _ (by decide)
  exact ⟨bit63, by omega, by omega⟩

/-- An instruction read off a word is a word, and its encoding is that word when bit 0 holds what it must. -/
theorem encode_of_parse {w : BitVec 64} {i : Instr} (read : parse w = .word i false) : i.isWord = true ∧ encode i = w := by
  cases bit63 : w.getLsbD 63 with
  | true =>
    rw [parse_paired bit63] at read
    obtain ⟨rfl, bit0⟩ := Parsed.word.inj read
    exact ⟨rfl, packPair_slotOf bit63 bit0⟩
  | false =>
    have spells := parseMap_spells w (bits w 62 59) (bits w 58 53)
    rw [← parse_full bit63, read] at spells
    obtain ⟨code, -⟩ | ⟨code, bit0⟩ := spells
    · exact ⟨isWord_of_regCode code, by rw [encode_of_regCode code, packReg_regOf (opcode_of_bits bit63)]⟩
    · exact ⟨isWord_of_immCode code, by rw [encode_of_immCode code, packImm_immOf (opcode_of_bits bit63) bit0.symm]⟩

/-- A word with a cause is refused for it, but for a set bit 0 where the cause comes after it (R104). -/
theorem result_of_cause {st : Stream} {i : Instr} {c : IllCause} (bit0 : Bool) (cause : illegal st i = some c) :
    (Parsed.word i bit0).result st = .error (if bit0 = true ∧ 0x0102 < (IllCause.code c).toNat then .field else c) := by
  cases bit0 with
  | false => cases c <;> simp [Parsed.result, cause]
  | true => cases c <;> simp [Parsed.result, cause, IllCause.code]

theorem result_of_legal {st : Stream} {i : Instr} (bit0 : Bool) (legal : illegal st i = none) :
    (Parsed.word i bit0).result st = if bit0 then .error .field else .ok i := by
  simp [Parsed.result, legal]

theorem result_eq_ok {st : Stream} {p : Parsed} {i : Instr} : p.result st = .ok i ↔ p = .word i false ∧ illegal st i = none := by
  cases p with
  | unassigned => simp [Parsed.result]
  | reserved r => simp only [Parsed.result]; split <;> simp
  | word j bit0 =>
    cases cause : illegal st j with
    | none =>
      rw [result_of_legal bit0 cause]
      cases bit0 with
      | true => simp
      | false => simpa using fun same => same ▸ cause
    | some c =>
      rw [result_of_cause bit0 cause]
      simpa using fun same _ => by simp [← same, cause]

/-- Settles O2: the encoded word is read back, and what is well formed meets no cause. -/
theorem decodeOfEncode : Obligations.DecodeOfEncode :=
  fun _ _ wf => result_eq_ok.2 ⟨parse_encode wf, wf.2⟩

/-- Settles O3: what decodes was read off the word with bit 0 clear, and its fields and opcode fill the word. -/
theorem encodeOfDecode : Obligations.EncodeOfDecode := by
  intro st w i decoded
  obtain ⟨read, legal⟩ := result_eq_ok.1 decoded
  obtain ⟨word, encoded⟩ := encode_of_parse read
  exact ⟨⟨word, legal⟩, encoded⟩

end Sys2Proof
end

section
/-! The causes of an illegal word (R104): each test of the model finds the first cause that is met, in the order of the codes. -/

namespace Sys2Proof

open Machine

/-- The first of the causes that a word meets, in the order of the codes of R104, or none where it meets none. -/
def FirstCause (meets : IllCause → Prop) : Option IllCause → Prop
  | some c => meets c ∧ ∀ k, meets k → (IllCause.code c).toNat ≤ (IllCause.code k).toNat
  | none => ∀ k, ¬ meets k

/-- An answer is the first cause of all once no cause before a code is met. -/
def FirstFrom (n : Nat) (meets : IllCause → Prop) (o : Option IllCause) : Prop :=
  (∀ k, meets k → n ≤ (IllCause.code k).toNat) → FirstCause meets o

/-- Each cause has a code of its own. -/
theorem code_injective {c k : IllCause} (same : IllCause.code c = IllCause.code k) : c = k := by
  revert same
  cases c <;> cases k <;> decide

theorem FirstCause.unique {meets : IllCause → Prop} {c k : IllCause} (first : FirstCause meets (some c)) (also : FirstCause meets (some k)) :
    c = k :=
  code_injective (BitVec.eq_of_toNat_eq (Nat.le_antisymm (first.2 k also.1) (also.2 c first.1)))

section
variable {meets : IllCause → Prop} {o : Option IllCause} (c : IllCause)

theorem FirstFrom.firstCause (first : FirstFrom 0x0100 meets o) : FirstCause meets o :=
  first fun k _ => by cases k <;> decide

/-- One cause is judged: it is the answer where it is met, and those after it are judged where it is not. -/
theorem FirstFrom.judge (yes : meets c → o = some c) (no : ¬ meets c → FirstFrom ((IllCause.code c).toNat + 1) meets o) :
    FirstFrom (IllCause.code c).toNat meets o := by
  intro above
  by_cases met : meets c
  · rw [yes met]
    exact ⟨met, above⟩
  · exact no met fun k also => Nat.lt_of_le_of_ne (above k also) fun same => met (code_injective (BitVec.eq_of_toNat_eq same) ▸ also)

/-- A cause that is never met is passed over. -/
theorem FirstFrom.skip (unmet : ¬ meets c) (rest : FirstFrom ((IllCause.code c).toNat + 1) meets o) :
    FirstFrom (IllCause.code c).toNat meets o :=
  .judge c (fun met => absurd met unmet) fun _ => rest

/-- A test for one cause, and then for those after it. -/
theorem FirstFrom.test {p : Prop} [Decidable p] (iff : meets c ↔ p) (rest : FirstFrom ((IllCause.code c).toNat + 1) meets o) :
    FirstFrom (IllCause.code c).toNat meets (if p then some c else o) :=
  .judge c (fun met => if_pos (iff.1 met)) fun unmet => by rwa [if_neg (mt iff.2 unmet)]

/-- After the last cause there is none. -/
theorem FirstFrom.none : FirstFrom 0x0107 meets none := fun above k met => by
  have := above k met
  revert this
  cases k <;> decide
end

/-- The tests of a word in register or memory format stand in the order of R104. -/
theorem firstCause_shape (st : Stream) (h : Shape) (f : RegF) : FirstCause (h.Meets st f) (h.cause st f) := by
  refine FirstFrom.firstCause (.skip .opcode id ?_)
  refine .test .stream (by simp [Shape.Meets]) ?_
  refine .test .field (by simp [Shape.Meets, guardBad, or_assoc, @eq_comm _ (some IllCause.field)]) ?_
  refine .test .operand (by simp [Shape.Meets, @eq_comm _ (some IllCause.operand)]) ?_
  refine .test .lookahead (by simp [Shape.Meets]) ?_
  refine .judge .bank (fun ⟨lanes, k, a, b, c⟩ => by simp [lanes, a, b, c]) fun unmet => ?_
  refine .skip .pair id ?_
  split
  next bankA bankB bankC =>
    rw [if_neg fun ⟨ab, bc⟩ => unmet ⟨rfl, _, bankA, ab ▸ bankB, ab ▸ bc ▸ bankC⟩]
    exact .none
  · exact .none

theorem cause_ofs (st : Stream) (code : BitVec 8) : Role.cause st .ofs code = none := rfl

/-- An immediate word meets the causes of a shape whose other fields are free. -/
theorem firstCause_imm (st : Stream) (r : StreamRule) (d a : Role) (f : ImmF) :
    FirstCause ((Shape.mk r d a .ofs .ofs true true).Meets st ⟨f.neg, f.pred, f.d, f.a, 0, 0, 0, 0⟩) (immCause st r d a f) := by
  refine FirstFrom.firstCause (.skip .opcode id ?_)
  refine .test .stream (by simp [Shape.Meets]) ?_
  refine .test .field (by simp [Shape.Meets, guardBad, cause_ofs, or_assoc]) ?_
  refine .test .operand (by simp [Shape.Meets, cause_ofs]) ?_
  exact .skip .lookahead (by simp [Shape.Meets]) (.skip .bank (by simp [Shape.Meets, Role.bank]) (.skip .pair id .none))

theorem firstCause_slot (x : SlotF) : FirstCause (SlotMeets x) (slotCause x) := by
  refine FirstFrom.firstCause (.test .opcode (by simp [SlotMeets, slotUnassigned]) ?_)
  refine .skip .stream id ?_
  refine .test .field (by simp [SlotMeets]) ?_
  refine .test .operand (by simp [SlotMeets]) ?_
  exact .skip .lookahead id (.skip .bank id (.skip .pair id .none))

/-- The cause of both slots together is the last of R104. -/
theorem code_le_pair (c : IllCause) : (IllCause.code c).toNat ≤ (IllCause.code .pair).toNat := by
  cases c <;> decide

/-- In a steward stream only an unassigned code comes before the stream; in a lane stream slot A is judged before slot B, and both together last
(R100, R104). -/
theorem firstCause_pair (st : Stream) (x y : SlotF) : FirstCause (PairMeets st x y) (pairCause st x y) := by
  cases st with
  | steward =>
    by_cases unassigned : 0x28 ≤ x.op.toNat ∨ 0x28 ≤ y.op.toNat
    all_goals simp [pairCause, slotUnassigned, unassigned, FirstCause, PairMeets, IllCause.code]
  | lanes =>
    have first := firstCause_slot x
    have second := firstCause_slot y
    cases causeA : slotCause x with
    | some c =>
      rw [causeA] at first
      simp only [pairCause, causeA, reduceCtorEq, if_false]
      refine ⟨.inl first.1, fun k met => ?_⟩
      obtain metA | ⟨freeA, -⟩ | ⟨rfl, -⟩ := met
      · exact first.2 k metA
      · exact absurd first.1 (freeA c)
      · exact code_le_pair c
    | none =>
      rw [causeA] at first
      cases causeB : slotCause y with
      | some c =>
        rw [causeB] at second
        simp only [pairCause, causeA, causeB, reduceCtorEq, if_false]
        refine ⟨.inr (.inl ⟨first, second.1⟩), fun k met => ?_⟩
        obtain metA | ⟨-, metB⟩ | ⟨rfl, -⟩ := met
        · exact absurd metA (first k)
        · exact second.2 k metB
        · exact code_le_pair c
      | none =>
        rw [causeB] at second
        have together (k : IllCause) :
            PairMeets .lanes x y k ↔ k = .pair ∧ (pairBanksOk x y = false ∨ (x.d = y.d ∧ x.d ≠ 0x94)) := by
          simp [PairMeets, first k, second k]
        simp only [pairCause, causeA, causeB, reduceCtorEq, if_false]
        split
        next clash => exact ⟨(together _).2 ⟨rfl, by simpa using clash⟩, fun k met => ((together k).1 met).1 ▸ Nat.le_refl _⟩
        next free => exact fun k met => free (by simpa using ((together k).1 met).2)

theorem meets_of_regShape {st : Stream} {i : Instr} {h : Shape} {f : RegF} (shape : regShape st i = some (h, f)) :
    Meets st i = h.Meets st f := by
  funext c
  simp only [Meets, shape]

theorem meets_of_immShape {st : Stream} {i : Instr} {r : StreamRule} {d a : Role} {f : ImmF} (noReg : regShape st i = none)
    (shape : immShape i = some (r, d, a, f)) :
    Meets st i = (Shape.mk r d a .ofs .ofs true true).Meets st ⟨f.neg, f.pred, f.d, f.a, 0, 0, 0, 0⟩ := by
  funext c
  simp only [Meets, noReg, shape]

/-- The cause of an instruction is the first that it meets. -/
theorem firstCause_illegal (st : Stream) (i : Instr) : FirstCause (Meets st i) (illegal st i) := by
  cases reg : regShape st i with
  | some hf =>
    rw [meets_of_regShape reg]
    simp only [illegal, reg]
    exact firstCause_shape st hf.1 hf.2
  | none =>
    cases imm : immShape i with
    | some shape =>
      rw [meets_of_immShape reg imm]
      simp only [illegal, reg, imm]
      exact firstCause_imm st shape.1 shape.2.1 shape.2.2.1 shape.2.2.2
    | none =>
      simp only [illegal, reg, imm]
      split
      next x y => exact firstCause_pair st x y
      next other =>
        intro k met
        unfold Meets at met
        rw [reg, imm] at met
        split at met
        case h_1 some_none => cases some_none
        case h_2 _ some_none => cases some_none
        case h_3 => exact other _ _ rfl
        case h_4 => exact met

end Sys2Proof
end

section
/-! Epilogue words (R276, R277): their fields read back, and a word is the pack of its OP and its fields. -/

namespace Sys2Proof

open Machine

theorem bits_eq_extractLsb' {n : Nat} (w : BitVec n) (hi lo : Nat) : bits w hi lo = (w.extractLsb' lo (hi + 1 - lo)).toNat := by
  rw [BitVec.extractLsb'_toNat, Nat.shiftRight_eq_div_pow]
  rfl

section
variable (op : Nat) (d a b : BitVec 4) (x : BitVec 15)

theorem extractLsb'_packEs_x {o n : Nat} (within : o + n ≤ 15) : (packEs op d a b x).extractLsb' o n = x.extractLsb' o n :=
  BitVec.extractLsb'_append_eq_of_add_le within

theorem extractLsb'_packEs_b : (packEs op d a b x).extractLsb' 15 4 = b := by
  refine (BitVec.extractLsb'_append_eq_of_le (by decide)).trans ?_
  exact BitVec.extractLsb'_append_eq_right

theorem extractLsb'_packEs_a : (packEs op d a b x).extractLsb' 19 4 = a := by
  iterate 2 refine (BitVec.extractLsb'_append_eq_of_le (by decide)).trans ?_
  exact BitVec.extractLsb'_append_eq_right

theorem extractLsb'_packEs_d : (packEs op d a b x).extractLsb' 23 4 = d := by
  iterate 3 refine (BitVec.extractLsb'_append_eq_of_le (by decide)).trans ?_
  exact BitVec.extractLsb'_append_eq_right

theorem extractLsb'_packEs_op : (packEs op d a b x).extractLsb' 27 5 = BitVec.ofNat 5 op := by
  iterate 4 refine (BitVec.extractLsb'_append_eq_of_le (by decide)).trans ?_
  exact BitVec.extractLsb'_eq_self

end

theorem bits_packEs_op (op : Nat) (d a b : BitVec 4) (x : BitVec 15) (lt : op < 32) : bits (packEs op d a b x) 31 27 = op := by
  rw [bits_eq_extractLsb', extractLsb'_packEs_op, BitVec.toNat_ofNat, Nat.mod_eq_of_lt lt]

theorem toNat_zeroExtend_of_le {n m : Nat} (k : BitVec n) (le : n ≤ m) : (k.zeroExtend m).toNat = k.toNat := by
  rw [BitVec.toNat_setWidth, Nat.mod_eq_of_lt (Nat.lt_of_lt_of_le k.isLt (Nat.pow_le_pow_right (by decide) le))]

theorem extractLsb'_zeroExtend {n : Nat} (k : BitVec n) (le : n ≤ 15) : (k.zeroExtend 15).extractLsb' 0 n = k := by
  apply BitVec.eq_of_toNat_eq
  rw [BitVec.extractLsb'_toNat, toNat_zeroExtend_of_le k le, Nat.shiftRight_zero, Nat.mod_eq_of_lt k.isLt]

theorem extractLsb'_above_zeroExtend {n m : Nat} (k : BitVec n) (le : n ≤ 15) : (k.zeroExtend 15).extractLsb' n m = 0 := by
  apply BitVec.eq_of_toNat_eq
  rw [BitVec.extractLsb'_toNat, toNat_zeroExtend_of_le k le, Nat.shiftRight_eq_div_pow, Nat.div_eq_of_lt k.isLt]
  simp

/-- What lies in a field that joins two parts below zeros. -/
theorem extractLsb'_joined {p m n : Nat} (z : BitVec p) (u : BitVec m) (k : BitVec n) :
    (z ++ u ++ k).extractLsb' 0 n = k ∧ (z ++ u ++ k).extractLsb' n m = u ∧ (z ++ u ++ k).extractLsb' (m + n) p = z := by
  refine ⟨BitVec.extractLsb'_append_eq_right, ?_, ?_⟩
  · rw [BitVec.extractLsb'_append_eq_of_le (Nat.le_refl n), Nat.sub_self, BitVec.extractLsb'_append_eq_right]
  · rw [BitVec.extractLsb'_append_eq_of_le (Nat.le_add_left n m), Nat.add_sub_cancel, BitVec.extractLsb'_append_eq_left]

/-- The parts of the field x of `es.fma`. -/
theorem esFma_parts (c : BitVec 4) : @BitVec.extractLsb' 15 0 11 (c ++ 0#11) = 0 ∧ @BitVec.extractLsb' 15 11 4 (c ++ 0#11) = c :=
  ⟨BitVec.extractLsb'_append_eq_right, BitVec.extractLsb'_append_eq_left⟩

/-- The parts of the field x of `es.lut`. -/
theorem esLut_parts (n : BitVec 6) (k : BitVec 8) : @BitVec.extractLsb' 15 0 8 (0#1 ++ n ++ k) = k ∧
    @BitVec.extractLsb' 15 8 6 (0#1 ++ n ++ k) = n ∧ @BitVec.extractLsb' 15 14 1 (0#1 ++ n ++ k) = 0 :=
  extractLsb'_joined 0#1 n k

/-- The parts of the field x of `es.ld`. -/
theorem esLd_parts (m : BitVec 2) (k : BitVec 8) : @BitVec.extractLsb' 15 0 8 (0#5 ++ m ++ k) = k ∧
    @BitVec.extractLsb' 15 8 2 (0#5 ++ m ++ k) = m ∧ @BitVec.extractLsb' 15 10 5 (0#5 ++ m ++ k) = 0 :=
  extractLsb'_joined 0#5 m k

/-- The parts of the field x of `es.loop`. -/
theorem esLoop_parts (c : BitVec 7) (t : BitVec 6) : @BitVec.extractLsb' 15 0 6 (0#2 ++ c ++ t) = t ∧
    @BitVec.extractLsb' 15 6 7 (0#2 ++ c ++ t) = c ∧ @BitVec.extractLsb' 15 13 2 (0#2 ++ c ++ t) = 0 :=
  extractLsb'_joined 0#2 c t

/-- The word of an epilogue instruction passes the tests of its OP, and its fields read back (R276). -/
theorem esDecode_esEncode {i : Instr} (wf : EsWellFormed i) : esDecode (esEncode i) = some i := by
  obtain ⟨word, fields⟩ := wf
  cases i with
  | esNop | esMov _ _ | esAdd _ _ _ | esMul _ _ _ | esFma _ _ _ _ | esMax _ _ _ | esMin _ _ _ | esScale _ _ _ | esBias _ _ _ | esClamp _ _ _
  | esExp2 _ _ | esRcp _ _ | esLut _ _ _ _ | esCmp _ _ _ | esSel _ _ _ | esLd _ _ _ | esHxq _ _ _ | esCvt _ _ _ | esSt _ _ | esStt _
  | esLoop _ _ | esEnd =>
    unfold esEncode esDecode
    rw [bits_packEs_op _ _ _ _ _ (by decide)]
    refine (if_pos ?_).trans ?_
    all_goals simp [bits_eq_extractLsb', extractLsb'_packEs_a, extractLsb'_packEs_b, extractLsb'_packEs_d, extractLsb'_packEs_x,
      extractLsb'_zeroExtend, extractLsb'_above_zeroExtend, esFma_parts, esLut_parts, esLd_parts, esLoop_parts, fields]
  | _ => cases word

/-- An epilogue word is the pack of its OP and its fields. -/
theorem packEs_eq {w : BitVec 32} {op : Nat} {d a b : BitVec 4} {x : BitVec 15} (hop : bits w 31 27 = op) (hd : w.extractLsb' 23 4 = d)
    (ha : w.extractLsb' 19 4 = a) (hb : w.extractLsb' 15 4 = b) (hx : w.extractLsb' 0 15 = x) : packEs op d a b x = w := by
  subst hop hd ha hb hx
  rw [packEs, bits_eq_extractLsb', BitVec.ofNat_toNat, BitVec.setWidth_eq]
  repeat rw [BitVec.extractLsb'_append_extractLsb'_eq_extractLsb' (by rfl)]
  exact BitVec.extractLsb'_eq_self

/-- A field whose upper bits are 0 is its lower part extended. -/
theorem extractLsb'_eq_zeroExtend {w : BitVec 32} {n : Nat} (le : n ≤ 15) (zero : bits w 14 n = 0) :
    w.extractLsb' 0 15 = (w.extractLsb' 0 n).zeroExtend 15 := by
  have split : (2 : Nat) ^ 15 = 2 ^ n * 2 ^ (14 + 1 - n) := by rw [← Nat.pow_add]; congr 1; omega
  apply BitVec.eq_of_toNat_eq
  rw [toNat_zeroExtend_of_le _ le, BitVec.extractLsb'_toNat, BitVec.extractLsb'_toNat, Nat.shiftRight_zero, split, Nat.mod_mul]
  rw [bits] at zero
  rw [zero, Nat.mul_zero, Nat.add_zero]

theorem extractLsb'_of_bits {w : BitVec 32} {hi lo : Nat} (zero : bits w hi lo = 0) : w.extractLsb' lo (hi + 1 - lo) = 0 :=
  BitVec.eq_of_toNat_eq (by rw [← bits_eq_extractLsb', zero]; simp)

/-- A field whose upper bits are 0 is its two lower parts joined below zeros. -/
theorem extractLsb'_eq_joined (p m n : Nat) {w : BitVec 32} (zero : w.extractLsb' (m + n) p = 0) :
    w.extractLsb' 0 (p + m + n) = (0 : BitVec p) ++ w.extractLsb' n m ++ w.extractLsb' 0 n := by
  rw [← zero, BitVec.extractLsb'_append_extractLsb'_eq_extractLsb' (Nat.add_comm m n),
    BitVec.extractLsb'_append_extractLsb'_eq_extractLsb' (Nat.zero_add n).symm]

/-- What an epilogue word decodes to is well formed, and its fields fill the word: the tests of its OP leave 0 in the fields that it does not use
(R276, R277). -/
theorem esEncode_of_esDecode {w : BitVec 32} {i : Instr} (decoded : esDecode w = some i) : EsWellFormed i ∧ esEncode i = w := by
  unfold esDecode at decoded
  dsimp only at decoded
  split at decoded
  case h_23 => cases decoded -- an unassigned OP; the cases before stand in the order of the OPs, from 0
  all_goals
    simp only [Option.ite_none_right_eq_some, Bool.and_eq_true, decide_eq_true_eq, Option.some.injEq] at decoded
    obtain ⟨ok, rfl⟩ := decoded
    refine ⟨⟨rfl, ok.2⟩, ?_⟩
  -- a field x that holds one value below zeros
  case h_8 | h_9 | h_10 | h_14 | h_17 | h_18 | h_19 =>
    exact packEs_eq ‹_› (by simp [ok]) rfl (by simp [ok]) (extractLsb'_eq_zeroExtend (by decide) ok.1.2)
  -- `es.fma`, `es.lut`, `es.ld` and `es.loop`, whose x holds several
  case h_5 =>
    refine packEs_eq ‹_› rfl rfl rfl ?_
    rw [← extractLsb'_of_bits ok.1]
    exact (BitVec.extractLsb'_append_extractLsb'_eq_extractLsb' (len₁ := 11) (len₂ := 4) rfl).symm
  case h_13 =>
    exact packEs_eq ‹_› rfl rfl (by simp [ok]) (extractLsb'_eq_joined 1 6 8 (extractLsb'_of_bits ok.1.2))
  case h_16 =>
    exact packEs_eq ‹_› rfl (by simp [ok]) (by simp [ok]) (extractLsb'_eq_joined 5 2 8 (extractLsb'_of_bits ok.1.2))
  case h_21 =>
    exact packEs_eq ‹_› (by simp [ok]) (by simp [ok]) (by simp [ok]) (extractLsb'_eq_joined 2 7 6 (extractLsb'_of_bits ok.1.2))
  -- a field x that is 0
  all_goals exact packEs_eq ‹_› (by simp [ok]) (by simp [ok]) (by simp [ok]) (by simp [ok])

end Sys2Proof
end

section
/-! O4: epilogue words in both directions, and the first cause of an illegal word (R104). -/

namespace Sys2Proof

open Machine

/-- The cause with which a word is refused, if it is. -/
def refusal : Except IllCause Instr → Option IllCause
  | .error c => some c
  | .ok _ => none

/-- The decoder refuses a word for the first cause that it meets, bit 0 included. -/
theorem firstCause_parsed (st : Stream) (p : Parsed) : FirstCause (WordMeets st p) (refusal (p.result st)) := by
  cases p with
  | unassigned => exact ⟨rfl, fun k met => met ▸ Nat.le_refl _⟩
  | reserved r =>
    cases allowed : r.allows st <;> simp [Parsed.result, allowed, refusal, FirstCause, WordMeets, IllCause.code]
  | word i bit0 =>
    have first := firstCause_illegal st i
    cases cause : illegal st i with
    | none =>
      rw [cause] at first
      rw [result_of_legal bit0 cause]
      cases bit0 with
      | false => exact fun k met => met.elim (first k) fun set => Bool.noConfusion set.2
      | true =>
        refine ⟨.inr ⟨rfl, rfl⟩, fun k met => ?_⟩
        obtain met | ⟨rfl, -⟩ := met
        · exact absurd met (first k)
        · exact Nat.le_refl _
    | some c =>
      rw [cause] at first
      rw [result_of_cause bit0 cause]
      split
      next late =>
        refine ⟨.inr ⟨rfl, late.1⟩, fun k met => ?_⟩
        obtain met | ⟨rfl, -⟩ := met
        · exact Nat.le_trans (Nat.le_of_lt late.2) (first.2 k met)
        · exact Nat.le_refl _
      next early =>
        refine ⟨.inl first.1, fun k met => ?_⟩
        obtain met | ⟨rfl, set⟩ := met
        · exact first.2 k met
        · exact Nat.le_of_not_lt fun late => early ⟨set, late⟩

/-- Two first causes are one, so the decoder answers a cause exactly when it is the first. -/
theorem decode_eq_error {st : Stream} {w : BitVec 64} {c : IllCause} :
    decode st w = .error c ↔ FirstCause (WordMeets st (parse w)) (some c) := by
  have first := firstCause_parsed st (parse w)
  change FirstCause _ (refusal (decode st w)) at first
  constructor
  · intro refused
    rwa [refused] at first
  · intro also
    cases decoded : decode st w with
    | ok i =>
      rw [decoded] at first
      exact absurd also.1 (first c)
    | error k =>
      rw [decoded] at first
      rw [first.unique also]

/-- An illegal word is fetched as the illegal encoding of its cause. -/
theorem wordInstr_of_error {st : Stream} {w : BitVec 64} {c : IllCause} (refused : decode st w = .error c) :
    wordInstr st w = .illegalEncoding c w := by
  rw [wordInstr, refused]

/-- Group 15 is unassigned (R101). -/
theorem parse_group15 {w : BitVec 64} (group : bits w 62 59 = 15) (bit63 : w.getLsbD 63 = false) : parse w = .unassigned := by
  rw [parse_full bit63, group]
  rfl

/-- Settles O4, clause by clause. -/
theorem epilogueAndIllegalWords : Obligations.EpilogueAndIllegalWords := by
  refine ⟨⟨fun i => esDecode_esEncode, fun w i => esEncode_of_esDecode⟩, fun st w c => decode_eq_error, ⟨rfl, rfl, rfl, rfl, rfl, rfl, rfl⟩,
    ?_, fun st w c => wordInstr_of_error, ?_, ?_⟩
  · intro st w i bit0 c read cause
    rw [decode, read, result_of_cause bit0 cause]
  · intro w group bit63 st
    rw [decode, parse_group15 group bit63]
    rfl
  · intro st i _ cause w decoded
    exact cause (result_eq_ok.1 decoded).2

end Sys2Proof
end

section
/-! O15: paired words (R100, R162). The integer slots compute on 32-bit words, as type u32 does. -/

namespace Sys2Proof.Machine

/-- A result of type u32 is its low 32 bits (R129). -/
theorem wrapTo_seven (x : Int) : (wrapTo 7 x).setWidth 32 = BitVec.ofInt 32 x := by
  apply BitVec.eq_of_toNat_eq
  simp [wrapTo, valueOf, typeSigned, typeWidth]
  omega

theorem valueOf_seven (d : BitVec 32) : valueOf 7 (d.setWidth 64) = d.toNat := by
  have := d.isLt
  simp [valueOf, typeSigned, typeWidth]
  omega

theorem fieldResult_fieldOf_seven (v : BitVec 64) : (fieldResult 7 (fieldOf 7 v)).setWidth 32 = v.setWidth 32 := by
  rw [fieldResult, wrapTo_seven]
  apply BitVec.eq_of_toNat_eq
  simp [fieldOf, typeWidth]
  omega

section
variable (d a : BitVec 32)

theorem addVal_seven : (addVal 7 false (d.setWidth 64) (a.setWidth 64)).setWidth 32 = d + a := by
  simp [addVal, intResult, wrapTo_seven, valueOf_seven, BitVec.ofInt_add]

theorem subVal_seven : (subVal 7 false (d.setWidth 64) (a.setWidth 64)).setWidth 32 = d - a := by
  simp [subVal, intResult, wrapTo_seven, valueOf_seven, Int.sub_eq_add_neg, BitVec.ofInt_add, BitVec.ofInt_neg, BitVec.sub_eq_add_neg]

theorem mulVal_seven : (mulVal 7 false (d.setWidth 64) (a.setWidth 64)).setWidth 32 = d * a := by
  simp [mulVal, intResult, wrapTo_seven, valueOf_seven, BitVec.ofInt_mul]

theorem negVal_seven (b : BitVec 64) : (negVal 7 false (a.setWidth 64) b).setWidth 32 = -a := by
  simp [negVal, intResult, wrapTo_seven, valueOf_seven, BitVec.ofInt_neg]

end

/-- The integer slots, the first operand being the destination's old value (R162). -/
theorem slotResult_integer (s : State) (t : Thread) (x : SlotF) (d a : BitVec 32) (e : Nat) :
    (x.op = 0x00 → s.slotResult t x d a e = d + a) ∧ (x.op = 0x01 → s.slotResult t x d a e = d - a) ∧
      (x.op = 0x02 → s.slotResult t x d a e = d * a) ∧ (x.op = 0x08 → s.slotResult t x d a e = -a) ∧
      (x.op = 0x09 → s.slotResult t x d a e = d &&& a) ∧ (x.op = 0x0A → s.slotResult t x d a e = d ||| a) ∧
      (x.op = 0x0B → s.slotResult t x d a e = d ^^^ a) ∧ (x.op = 0x0C → s.slotResult t x d a e = d &&& ~~~a) ∧
      (x.op = 0x0D → s.slotResult t x d a e = ~~~a) ∧ (x.op = 0x16 → s.slotResult t x d a e = a) := by
  refine ⟨?_, ?_, ?_, ?_, ?_, ?_, ?_, ?_, ?_, ?_⟩
  all_goals
    intro op
    simp [State.slotResult, op, addVal_seven, subVal_seven, mulVal_seven, negVal_seven, andVal, orVal, xorVal, andnVal,
      notVal, movVal, fieldResult_fieldOf_seven]

end Sys2Proof.Machine

namespace Sys2Proof

open Machine

/-- Settles O15: the SR count advances once when a slot that acts rounds by SR (R128). -/
theorem pairedWords : Obligations.PairedWords := by
  refine ⟨fun s t x y here => ?_, slotResult_integer⟩
  refine ⟨if (t.predAt x.g.toNat && slotRoundsSr x) || (t.predAt y.g.toNat && slotRoundsSr y) then t.countSr 4 else t, ?_, ?_⟩
  · split
    · exact .inr rfl
    · exact .inl rfl
  · rw [exec_pairedWord, execPairedWord, here]
    rfl

end Sys2Proof
end

section
/-! O13: conversions, packing and the operations on predicate masks (R130, R156, R157, R161). -/

namespace Sys2Proof.Machine

/-- A 32-bit register read as an i32 is its two's complement value (R138). -/
theorem valueOf_three (x : BitVec 32) : valueOf 3 (x.setWidth 64) = x.toInt := by
  have bound := x.isLt
  have width : x.toNat % 18446744073709551616 = x.toNat := by omega
  simp [valueOf, typeSigned, typeWidth, sextNat, BitVec.toInt, width]
  omega

/-! ## Mask tests (R161) -/

section
variable (a b : BitVec 32)

/-- `vote.none`: no bit of the mask is set. -/
theorem voteTest_none : voteTest 2 a b = (List.range 32).all fun i => !(a.getLsbD i && b.getLsbD i) := by
  rw [Bool.eq_iff_iff, List.all_eq_true]
  simp only [voteTest, decide_eq_true_eq, BitVec.eq_of_getLsbD_eq_iff, BitVec.getLsbD_and, BitVec.ofNat_eq_ofNat, BitVec.getLsbD_zero,
    List.mem_range, Bool.not_eq_true']

/-- `vote.any` is the contrary of `vote.none`. -/
theorem voteTest_any : voteTest 0 a b = (List.range 32).any fun i => a.getLsbD i && b.getLsbD i := by
  have contrary : voteTest 0 a b = !voteTest 2 a b := by simp [voteTest]
  rw [contrary, voteTest_none, List.not_all_eq_any_not]
  simp

/-- `vote.all`: every bit of the mask is set. -/
theorem voteTest_all : voteTest 1 a b = (List.range 32).all fun i => !b.getLsbD i || a.getLsbD i := by
  have bit (i : Nat) : (a.getLsbD i && b.getLsbD i) = b.getLsbD i ↔ (!b.getLsbD i || a.getLsbD i) = true := by
    cases b.getLsbD i <;> simp
  rw [Bool.eq_iff_iff, List.all_eq_true]
  simp only [voteTest, decide_eq_true_eq, BitVec.eq_of_getLsbD_eq_iff, BitVec.getLsbD_and, bit, List.mem_range]

end

/-- A mask test writes its answer to the predicate that d names. -/
theorem voteOp_executes {s : State} {t : Thread} {f : RegF} (executes : s.Executes t f.neg f.pred) (sub : Nat) :
    voteOp sub f s = .next (s.done t (dstPred f.d (voteTest sub (s.src32 s.cur t f.a) (s.src32 s.cur t f.b)))) :=
  State.compute_true executes _

end Sys2Proof.Machine

namespace Sys2Proof

open Machine

/-- Settles O13: an executing thread's guard holds, and each meaning is then the result that R156, R157 and R161 name; `pk` reads its integer
elements as i32 values, and the mask tests go bit by bit. -/
theorem conversionsAndMasks : Obligations.ConversionsAndMasks := by
  refine ⟨?_, ?_⟩
  · rintro s t f ty w executes rfl rfl
    refine ⟨State.act_true executes _, ?_, State.compute_true executes _⟩
    simp only [exec_pk, execPk, State.act_true executes, valueOf_three, State.roundElem]
  · rintro s t f a b executes rfl rfl
    refine ⟨?_, ?_, ?_, State.compute_true executes _, State.compute_true executes _⟩
    · rw [exec_voteAny, execVoteAny, voteOp_executes executes, voteTest_any]
    · rw [exec_voteAll, execVoteAll, voteOp_executes executes, voteTest_all]
    · rw [exec_voteNone, execVoteNone, voteOp_executes executes, voteTest_none]

end Sys2Proof
end

section
/-! O6: the arithmetic of group 0 (R142). -/

namespace Sys2Proof.Machine

/-- An instruction of group 0 with sources of its type writes its result as the type says (R141). -/
theorem intOp_executes {s : State} {t : Thread} {f : RegF} (executes : s.Executes t f.neg f.pred)
    (g : Nat → Bool → BitVec 64 → BitVec 64 → BitVec 64) :
    intOp f s g = .next (s.done t (dstType s.cur (modType f.mod) f.d (g (modType f.mod) (modSat f.mod)
      (s.srcType s.cur t (modType f.mod) f.a) (s.srcType s.cur t (modType f.mod) f.b)))) :=
  State.compute_true executes _

/-- An instruction of group 0 whose b is a control operand writes its result as the type says (R138, R141). -/
theorem intCtlOp_executes {s : State} {t : Thread} {f : RegF} (executes : s.Executes t f.neg f.pred)
    (g : Nat → BitVec 64 → BitVec 32 → BitVec 64) :
    intCtlOp f s g = .next (s.done t (dstType s.cur (modType f.mod) f.d (g (modType f.mod)
      (s.srcType s.cur t (modType f.mod) f.a) (s.src32 s.cur t f.b)))) :=
  State.compute_true executes _

/-- The high half of a product is the whole number whose multiple of 2^w is the last one not above the product. -/
theorem mulhVal_of_bounds {ty : Nat} {p q : BitVec 64} {x : Int} (sat : Bool) (lower : x * 2 ^ typeWidth ty ≤ valueOf ty p * valueOf ty q)
    (upper : valueOf ty p * valueOf ty q < (x + 1) * 2 ^ typeWidth ty) : mulhVal ty sat p q = wrapTo ty x := by
  have positive : (0 : Int) < 2 ^ typeWidth ty := Int.pow_pos (by decide)
  have quotient : valueOf ty p * valueOf ty q / 2 ^ typeWidth ty = x := by
    apply Int.le_antisymm
    · exact Int.lt_add_one_iff.1 (Int.ediv_lt_of_lt_mul positive upper)
    · exact Int.le_ediv_of_mul_le positive lower
  simp [mulhVal, intResult, quotient]

end Sys2Proof.Machine

namespace Sys2Proof

open Machine

/-- Settles O6: each result is the model's exact value, clamped under SAT; the high half of a product is fixed by its two bounds. -/
theorem integerArithmetic : Obligations.IntegerArithmetic := by
  rintro s t f ty a b c x executes rfl rfl rfl rfl
  refine ⟨⟨intOp_executes executes _, intOp_executes executes _, intOp_executes executes _, State.compute_true executes _,
    intOp_executes executes _, intOp_executes executes _, ?_⟩, fun lower upper => ?_, ?_, ?_⟩
  · simp only [exec_adds, execAdds, State.compute_true executes, intResult, cnt, Int.natCast_pow, Int.cast_ofNat_Int]
  · rw [exec_mulh, execMulh, intOp_executes executes, mulhVal_of_bounds _ lower upper]
  · rw [exec_min, execMin, intOp_executes executes, Int.min_def]
    rfl
  · rw [exec_max, execMax, intOp_executes executes, Int.max_comm, Int.max_def]
    rfl

end Sys2Proof
end

section
/-! O7: logic, shifts and bit counts on the w-bit field of the type (R143). -/

namespace Sys2Proof.Machine

/-! ## Fields -/

theorem typeWidth_le (ty : Nat) : typeWidth ty ≤ 64 := by
  unfold typeWidth
  split <;> decide

theorem fieldOf_lt (ty : Nat) (a : BitVec 64) : fieldOf ty a < 2 ^ typeWidth ty := Nat.mod_lt _ (Nat.two_pow_pos _)

theorem fieldOf_and (ty : Nat) (a b : BitVec 64) : fieldOf ty (a &&& b) = fieldOf ty a &&& fieldOf ty b := by
  rw [fieldOf, BitVec.toNat_and, Nat.and_mod_two_pow]
  rfl

theorem fieldOf_or (ty : Nat) (a b : BitVec 64) : fieldOf ty (a ||| b) = fieldOf ty a ||| fieldOf ty b := by
  rw [fieldOf, BitVec.toNat_or, Nat.or_mod_two_pow]
  rfl

theorem fieldOf_xor (ty : Nat) (a b : BitVec 64) : fieldOf ty (a ^^^ b) = fieldOf ty a ^^^ fieldOf ty b := by
  rw [fieldOf, BitVec.toNat_xor, Nat.xor_mod_two_pow]
  rfl

/-- The complement of a field. -/
theorem fieldOf_not (ty : Nat) (a : BitVec 64) : fieldOf ty (~~~a) = 2 ^ typeWidth ty - 1 - fieldOf ty a := by
  have narrowed := congrArg BitVec.toNat (BitVec.setWidth_not (x := a) (typeWidth_le ty))
  rw [BitVec.toNat_setWidth, BitVec.toNat_not, BitVec.toNat_not, BitVec.toNat_setWidth] at narrowed
  rwa [fieldOf, BitVec.toNat_not]

/-! ## The arithmetic shift -/

/-- An arithmetic shift of a `w`-bit field: a negative value's complement is shifted, and complemented again. -/
theorem sextNat_div_two_pow {x w : Nat} (n : Nat) (bound : x < 2 ^ w) :
    (sextNat x w / (2 ^ n : Nat) % (2 ^ w : Nat)).toNat =
      if x < 2 ^ (w - 1) then x / 2 ^ n else 2 ^ w - 1 - (2 ^ w - 1 - x) / 2 ^ n := by
  simp only [sextNat, Nat.mod_eq_of_lt bound]
  split
  · rw [← Int.natCast_ediv, ← Int.natCast_emod, Int.toNat_natCast, Nat.mod_eq_of_lt (Nat.lt_of_le_of_lt (Nat.div_le_self _ _) bound)]
  · obtain ⟨y, hy⟩ : ∃ y, y = 2 ^ w - 1 - x := ⟨_, rfl⟩
    have shifted : y / 2 ^ n < 2 ^ w := Nat.lt_of_le_of_lt (Nat.div_le_self _ _) (by omega)
    have complement : (x : Int) - (2 ^ w : Nat) = Int.negSucc y := by omega
    have quotient : Int.negSucc y / (2 ^ n : Nat) = ((2 ^ w - 1 - y / 2 ^ n : Nat) : Int) - (2 ^ w : Nat) := by
      rw [Int.negSucc_ediv _ (Int.natCast_pos.2 (Nat.two_pow_pos n)), show (y : Int).ediv (2 ^ n : Nat) = (y / 2 ^ n : Nat) from rfl]
      omega
    have fits : 2 ^ w - 1 - y / 2 ^ n < 2 ^ w := Nat.lt_of_le_of_lt (Nat.sub_le _ _) (Nat.sub_lt (Nat.two_pow_pos w) Nat.one_pos)
    rw [complement, quotient, Int.sub_emod_right, ← Int.natCast_emod, Int.toNat_natCast, Nat.mod_eq_of_lt fits, hy]

/-! ## Counts and the reversed field -/

/-- Below the count of trailing zeros every bit is clear, and the bit there is set unless the field ends (R143). -/
theorem trailingZeros_spec (x w : Nat) : trailingZeros x w ≤ w ∧ (∀ i < trailingZeros x w, x.testBit i = false) ∧
    (trailingZeros x w < w → x.testBit (trailingZeros x w) = true) := by
  induction w generalizing x with
  | zero => simp [trailingZeros]
  | succ w ih =>
    obtain ⟨le, below, set⟩ := ih (x / 2)
    by_cases odd : x % 2 = 1
    · simp [trailingZeros, odd]
    · simp only [trailingZeros, if_neg odd, Nat.add_comm 1]
      refine ⟨by omega, fun i hi => ?_, fun more => ?_⟩
      · cases i with
        | zero => simpa using odd
        | succ i => rw [Nat.testBit_succ, below i (by omega)]
      · rw [Nat.testBit_succ, set (by omega)]

theorem reverseBits_lt (x w : Nat) : reverseBits x w < 2 ^ w := by
  induction w generalizing x with
  | zero => simp [reverseBits]
  | succ w ih =>
    have rest := ih (x / 2)
    have bit : x % 2 * 2 ^ w ≤ 1 * 2 ^ w := Nat.mul_le_mul_right _ (by omega)
    simp only [reverseBits]
    omega

/-- Bit n of the reversed field is bit w − 1 − n (R143). -/
theorem testBit_reverseBits {x w n : Nat} (hn : n < w) : (reverseBits x w).testBit n = x.testBit (w - 1 - n) := by
  induction w generalizing x with
  | zero => omega
  | succ w ih =>
    rw [reverseBits, Nat.mul_comm, Nat.testBit_two_pow_mul_add _ (reverseBits_lt _ w)]
    split
    next below =>
      rw [ih below, ← Nat.testBit_succ]
      congr 1
      omega
    next =>
      obtain rfl : n = w := by omega
      simp

/-- The count of set bits (R143). -/
theorem popCount_eq (x w : Nat) : popCount x w = ((List.range w).filter fun i => x.testBit i).length := by
  induction w generalizing x with
  | zero => rfl
  | succ w ih =>
    rw [popCount, ih, List.range_succ_eq_map, List.filter_cons, List.filter_map]
    have tail : (fun i => x.testBit i) ∘ Nat.succ = fun i => (x / 2).testBit i := funext (Nat.testBit_succ x)
    by_cases odd : x % 2 = 1
    · simp [tail, odd, Nat.add_comm]
    · simp [tail, Nat.mod_two_ne_one.1 odd]

/-- What `leadingZeros` counts: the field lies below 2^(w − n), and reaches half of that unless it is empty (R143). -/
theorem leadingZeros_spec {x w : Nat} (bound : x < 2 ^ w) : leadingZeros x w ≤ w ∧ x < 2 ^ (w - leadingZeros x w) ∧
    (leadingZeros x w < w → 2 ^ (w - 1 - leadingZeros x w) ≤ x) := by
  obtain ⟨le, below, set⟩ := trailingZeros_spec (reverseBits x w) w
  refine ⟨le, Nat.lt_pow_two_of_testBit _ fun i hi => ?_, fun more => Nat.ge_two_pow_of_testBit ?_⟩
  · by_cases inside : i < w
    · have clear := below (w - 1 - i) (by simp only [leadingZeros] at hi; omega)
      rw [testBit_reverseBits (by omega)] at clear
      rwa [show w - 1 - (w - 1 - i) = i by omega] at clear
    · exact Nat.testBit_lt_two_pow (Nat.lt_of_lt_of_le bound (Nat.pow_le_pow_right (by decide) (by omega)))
  · exact (testBit_reverseBits more).symm.trans (set more)

theorem trailingZeros_odd {x w : Nat} (more : trailingZeros x w < w) : x / 2 ^ trailingZeros x w % 2 = 1 := by
  obtain ⟨-, -, set⟩ := trailingZeros_spec x w
  simpa [Nat.testBit_eq_decide_div_mod_eq] using set more

theorem trailingZeros_dvd (x w : Nat) : 2 ^ trailingZeros x w ∣ x := by
  obtain ⟨-, below, -⟩ := trailingZeros_spec x w
  refine Nat.dvd_of_mod_eq_zero (Nat.eq_of_testBit_eq fun i => ?_)
  rw [Nat.testBit_mod_two_pow, Nat.zero_testBit]
  by_cases hi : i < trailingZeros x w
  · simp [below i hi]
  · simp [hi]

end Sys2Proof.Machine

namespace Sys2Proof

open Machine

/-- Settles O7: the operations of words are those of their fields, and each count is fixed by the bits that it counts. -/
theorem integerLogicAndCounts : Obligations.IntegerLogicAndCounts := by
  refine ⟨?_, ?_⟩
  · rintro s t f ty w x y n executes rfl rfl rfl rfl rfl
    refine ⟨⟨?_, ?_, ?_, ?_, ?_⟩, intCtlOp_executes executes _, intCtlOp_executes executes _, ?_, intCtlOp_executes executes _⟩
    · rw [exec_and, execAnd, intOp_executes executes, andVal, fieldOf_and]
      rfl
    · rw [exec_or, execOr, intOp_executes executes, orVal, fieldOf_or]
      rfl
    · rw [exec_xor, execXor, intOp_executes executes, xorVal, fieldOf_xor]
      rfl
    · rw [exec_andn, execAndn, intOp_executes executes, andnVal, fieldOf_and, fieldOf_not]
      rfl
    · rw [exec_not, execNot, intOp_executes executes, notVal, fieldOf_not]
      rfl
    · rw [exec_sar, execSar, intCtlOp_executes executes, shiftVal, shiftField, sextNat_div_two_pow _ (fieldOf_lt _ _)]
      rfl
  · rintro s t f ty w x executes rfl rfl rfl
    obtain ⟨few, clear, set⟩ := leadingZeros_spec (fieldOf_lt (modType f.mod) (s.srcType s.cur t (modType f.mod) f.a))
    obtain ⟨le, -, -⟩ := trailingZeros_spec (fieldOf (modType f.mod) (s.srcType s.cur t (modType f.mod) f.a)) (typeWidth (modType f.mod))
    refine ⟨⟨_, few, clear, set, intOp_executes executes _⟩,
      ⟨_, le, trailingZeros_dvd _ _, trailingZeros_odd, intOp_executes executes _⟩, ?_,
      _, reverseBits_lt _ _, fun n hn => testBit_reverseBits hn, intOp_executes executes _⟩
    rw [exec_popc, execPopc, intOp_executes executes, popcVal, popCount_eq]
    rfl

end Sys2Proof
end

section
/-! O8: bit fields (R144). -/

namespace Sys2Proof

open Laws.Carries

/-- The opcode of a word in register format stands in its bits 62:53 (R87, R101). -/
theorem bits_packReg_opcode {op : Nat} (f : RegF) (h : op < 1024) : Machine.bits (packReg op f) 62 53 = op := by
  have opcode := congrArg BitVec.toNat (extractLsb'_of_opcode (packReg_fields op f h).2)
  rwa [BitVec.extractLsb'_toNat, BitVec.toNat_ofNat, Nat.shiftRight_eq_div_pow, Nat.mod_eq_of_lt h] at opcode

end Sys2Proof

namespace Sys2Proof.Machine

/-- The field that a control word names, cut at the operand's width, is empty when it names no bit or begins beyond (R144). -/
theorem fieldWidth_eq_zero {l p w : Nat} : min l (w - p) = 0 ↔ l = 0 ∨ w ≤ p := by omega

/-- P of a control word (R144). -/
theorem bits_seven (ctl : BitVec 32) : bits ctl 7 0 = ctl.toNat % 256 := by simp [bits]

/-- L of a control word (R144). -/
theorem bits_fifteen (ctl : BitVec 32) : bits ctl 15 8 = ctl.toNat / 256 % 256 := rfl

/-- What `bfx` reads of the `l` bits from bit `p`: their value by the type's signedness (R144). -/
theorem bfxField_eq {ty p l : Nat} {a : BitVec 64} {ctl : BitVec 32} (hp : p = ctl.toNat % 256)
    (hl : l = min (ctl.toNat / 256 % 256) (typeWidth ty - p)) :
    bfxField ty a ctl = if l = 0 then 0
      else wrapTo ty (if typeSigned ty = true ∧ 2 ^ (l - 1) ≤ fieldOf ty a / 2 ^ p % 2 ^ l
        then (fieldOf ty a / 2 ^ p % 2 ^ l : Int) - 2 ^ l else (fieldOf ty a / 2 ^ p % 2 ^ l : Nat)) := by
  simp only [bfxField, bits_seven, bits_fifteen, ← hp, ← fieldWidth_eq_zero, ← hl]
  split
  · rfl
  · cases typeSigned ty with
    | false => simp [fieldResult]
    | true =>
      simp only [sextNat, Nat.mod_mod, if_true, true_and, ← Nat.not_lt, ite_not]
      split <;> simp

/-- A number with its bits p + l − 1 to p replaced by the low `l` bits of another. -/
def replaceField (x y p l : Nat) : Nat := x - x / 2 ^ p % 2 ^ l * 2 ^ p + y % 2 ^ l * 2 ^ p

/-- The replaced bits are the other number's, and every other bit is as it was. -/
theorem testBit_replaceField (x y p l n : Nat) :
    (replaceField x y p l).testBit n = if p ≤ n ∧ n < p + l then y.testBit (n - p) else x.testBit n := by
  have low : x % 2 ^ p < 2 ^ p := Nat.mod_lt _ (Nat.two_pow_pos _)
  have field : y % 2 ^ l < 2 ^ l := Nat.mod_lt _ (Nat.two_pow_pos _)
  have parts : x = 2 ^ p * (2 ^ l * (x / 2 ^ p / 2 ^ l) + x / 2 ^ p % 2 ^ l) + x % 2 ^ p := by rw [Nat.div_add_mod, Nat.div_add_mod]
  have replaced : replaceField x y p l = 2 ^ p * (2 ^ l * (x / 2 ^ p / 2 ^ l) + y % 2 ^ l) + x % 2 ^ p := by
    rw [Nat.mul_add] at parts ⊢
    rw [replaceField, Nat.mul_comm (x / 2 ^ p % 2 ^ l), Nat.mul_comm (y % 2 ^ l)]
    omega
  rw [replaced, Nat.testBit_two_pow_mul_add _ low, Nat.testBit_two_pow_mul_add _ field, Nat.testBit_mod_two_pow, Nat.testBit_mod_two_pow,
    Nat.testBit_div_two_pow, Nat.testBit_div_two_pow]
  by_cases below : n < p
  · simp [below, Nat.not_le.2 below]
  by_cases inside : n < p + l
  · have place : n - p < l := by omega
    simp [below, Nat.not_lt.1 below, inside, place]
  · have place : ¬n - p < l := by omega
    have beyond : n - p - l + l + p = n := by omega
    simp [below, inside, place, beyond]

/-- `bfi` puts the low `l` bits of the second field in the place of bits p + l − 1 to p of the first (R144). -/
theorem bfiField_eq {ty p l : Nat} {a b : BitVec 64} {ctl : BitVec 32} (hp : p = ctl.toNat % 256)
    (hl : l = min (ctl.toNat / 256 % 256) (typeWidth ty - p)) :
    bfiField ty a b ctl = fieldResult ty (replaceField (fieldOf ty a) (fieldOf ty b) p l) := by
  simp only [bfiField, bits_seven, bits_fifteen, ← hp, ← fieldWidth_eq_zero, ← hl]
  split
  next empty => simp [empty, replaceField, Nat.mod_one]
  next => rfl

/-- A field replaced inside the width stays inside it. -/
theorem replaceField_lt {x p l w : Nat} (y : Nat) (bound : x < 2 ^ w) (inside : l ≤ w - p) : replaceField x y p l < 2 ^ w := by
  refine Nat.lt_pow_two_of_testBit _ fun n hn => ?_
  have clear : x.testBit n = false := Nat.testBit_lt_two_pow (Nat.lt_of_lt_of_le bound (Nat.pow_le_pow_right (by decide) hn))
  rw [testBit_replaceField, clear, if_neg (by omega)]

/-- Without leave for `.sat`, a MOD of group 0 has none (R141). -/
theorem modSat_of_intMod {iOnly : Bool} {m : BitVec 13} (ok : intMod false iOnly m = true) : modSat m = false := by
  simp only [intMod, Bool.and_eq_true, Bool.false_or, Bool.not_eq_true'] at ok
  obtain ⟨⟨-, sat⟩, -⟩ := ok
  exact sat

end Sys2Proof.Machine

namespace Sys2Proof

open Machine

/-- An instruction of group 0 that gives no leave for `.sat` is refused with it (R104, R141). -/
theorem illegal_of_modSat {st : Stream} {i : Instr} {h : Shape} {f : RegF} {iOnly : Bool} (shape : regShape st i = some (h, f))
    (mod : h.modOk = intMod false iOnly f.mod) (sat : modSat f.mod = true) : illegal st i ≠ none := by
  intro legal
  simp only [illegal, shape] at legal
  have unsat := modSat_of_intMod (mod ▸ modOk_of_shapeLegal legal)
  simp [unsat] at sat

/-- Settles O8: the model's empty field is the one of width 0; a MOD with `.sat` is no MOD of either instruction. -/
theorem bitFields : Obligations.BitFields := by
  rintro s t f ty w x y p l ctl executes rfl rfl rfl rfl hp hl
  refine ⟨?_, ?_, bits_packReg_opcode f (by decide), bits_packReg_opcode f (by decide), ?_⟩
  · rintro rfl
    rw [exec_bfx, execBfx, intCtlOp_executes executes, bfxField_eq hp hl]
    rfl
  · rintro rfl
    refine ⟨_, replaceField_lt _ (fieldOf_lt _ _) (by omega), fun n _ => testBit_replaceField _ _ p l n, ?_⟩
    simp only [exec_bfi, execBfi, State.compute_true executes, bfiField_eq hp hl]
    rfl
  · intro sat st
    exact ⟨illegal_of_modSat rfl rfl sat, illegal_of_modSat rfl rfl sat⟩

end Sys2Proof
end

section
/-! O9: moves, selection, comparison and the immediate forms of both streams (R145, R146, R148). -/

namespace Sys2Proof.Machine

/-- VALUE is settled by the field (R138). -/
theorem valueOf_congr {ty : Nat} {a b : BitVec 64} (h : fieldOf ty a = fieldOf ty b) : valueOf ty a = valueOf ty b := by
  unfold fieldOf at h
  simp only [valueOf, sextNat, h]

/-- VALUE and the field differ by a multiple of 2^w (R138). -/
theorem valueOf_emod (ty : Nat) (a : BitVec 64) : valueOf ty a % (2 ^ typeWidth ty : Nat) = fieldOf ty a % (2 ^ typeWidth ty : Nat) := by
  simp only [valueOf, sextNat, fieldOf]
  split
  · split
    · rfl
    · rw [Int.sub_emod_right]
  · rfl

/-- The field of a number as 64 bits is the number modulo 2^w (R129). -/
theorem fieldOf_ofInt (ty : Nat) (x : Int) : (fieldOf ty (BitVec.ofInt 64 x) : Int) = x % (2 ^ typeWidth ty : Nat) := by
  have divides : ((2 ^ typeWidth ty : Nat) : Int) ∣ (2 ^ 64 : Nat) := Int.natCast_dvd_natCast.2 (Nat.pow_dvd_pow 2 (typeWidth_le ty))
  have nonneg : 0 ≤ x % (2 ^ 64 : Nat) := Int.emod_nonneg _ (by decide)
  rw [fieldOf, BitVec.toNat_ofInt, Int.natCast_emod, Int.toNat_of_nonneg nonneg, Int.emod_emod_of_dvd _ divides]

/-- What is written with a type is settled by the number modulo 2^w (R129). -/
theorem wrapTo_congr {ty : Nat} {x y : Int} (h : x % (2 ^ typeWidth ty : Nat) = y % (2 ^ typeWidth ty : Nat)) :
    wrapTo ty x = wrapTo ty y := by
  have fields : fieldOf ty (BitVec.ofInt 64 x) = fieldOf ty (BitVec.ofInt 64 y) :=
    Int.natCast_inj.1 (by rw [fieldOf_ofInt, fieldOf_ofInt, h])
  rw [wrapTo, wrapTo, valueOf_congr fields]

/-- The field of an operand as it is written is its VALUE as it is written (R145). -/
theorem movVal_eq (ty : Nat) (sat : Bool) (a b : BitVec 64) : movVal ty sat a b = wrapTo ty (valueOf ty a) :=
  wrapTo_congr (valueOf_emod ty a).symm

/-- Group 1 in a lane stream writes the low 32 bits (R148). -/
theorem dst32_lanes {w : Who} (lanes : whoStream w = .lanes) (c : BitVec 8) {v : BitVec 64} {r : BitVec 32} (low : v.setWidth 32 = r) :
    dst32 w c v = if c = 0x94 then [] else [(.reg c.toNat, r.setWidth 64)] := by
  simp [dst32, lanes, low]

theorem dst32_steward {w : Who} (steward : whoStream w = .steward) (c : BitVec 8) (v : BitVec 64) :
    dst32 w c v = if c = 0x94 then [] else [(.sreg c.toNat, v)] := by
  simp [dst32, steward]

theorem dst64_steward {w : Who} (steward : whoStream w = .steward) (c : BitVec 8) (v : BitVec 64) :
    dst64 w c v = if c = 0x94 then [] else [(.sreg c.toNat, v)] := by
  simp [dst64, steward]

/-- A group 1 form with a source in a lane stream (R148). -/
theorem immOp_lanes {s : State} {t : Thread} {f : ImmF} (executes : s.Executes t f.neg f.pred) (lanes : whoStream s.cur = .lanes)
    (g : BitVec 64 → BitVec 64 → BitVec 64) {r : BitVec 32}
    (low : (g ((s.src32 s.cur t f.a).setWidth 64) (f.imm.signExtend 64)).setWidth 32 = r) :
    immOp f s g = .next (s.done t (if f.d = 0x94 then [] else [(.reg f.d.toNat, r.setWidth 64)])) := by
  simp only [immOp, State.compute_true executes, lanes, immVal, dst32_lanes lanes f.d low]

theorem immOp_steward {s : State} {t : Thread} {f : ImmF} (executes : s.Executes t f.neg f.pred) (steward : whoStream s.cur = .steward)
    (g : BitVec 64 → BitVec 64 → BitVec 64) :
    immOp f s g = .next (s.done t (if f.d = 0x94 then [] else [(.sreg f.d.toNat, g (s.src64 s.cur t f.a) (f.imm.signExtend 64))])) := by
  simp only [immOp, State.compute_true executes, steward, immVal, dst32_steward steward]

theorem setWidth_signExtend (v : BitVec 32) : (v.signExtend 64).setWidth 32 = v := by
  refine BitVec.eq_of_getLsbD_eq fun i hi => ?_
  have inside : i < 64 := by omega
  rw [BitVec.getLsbD_setWidth, BitVec.getLsbD_signExtend]
  simp only [hi, inside, decide_true, Bool.true_and, if_true]

/-- `cmp` writes the predicate that d names (R146). -/
theorem execCmp_executes {s : State} {t : Thread} {f : RegF} (executes : s.Executes t f.neg f.pred) :
    execCmp f s = .next (s.done t (dstPred f.d (intCond (modStype f.mod)
      (valueOf (modType f.mod) (s.srcType s.cur t (modType f.mod) f.a)) (valueOf (modType f.mod) (s.srcType s.cur t (modType f.mod) f.b))))) :=
  State.compute_true executes _

end Sys2Proof.Machine

namespace Sys2Proof

open Machine

/-- Settles O9: the field that `mov` and `sel` write is VALUE modulo 2^w; a lane's group 1 keeps the low half of what the 64-bit forms compute. -/
theorem movesComparisonAndImmediates : Obligations.MovesComparisonAndImmediates := by
  refine ⟨?_, ?_, ?_⟩
  · rintro s t f ty a b executes rfl rfl rfl
    refine ⟨?_, ?_, ?_, ?_, ?_, ?_, ?_, ?_⟩
    · rw [exec_mov, execMov, intOp_executes executes, movVal_eq]
    · simp only [exec_sel, execSel, State.compute_true executes, movVal_eq]
      split <;> rfl
    all_goals
      intro cond
      rw [exec_cmp, execCmp_executes executes, cond]
      rfl
  · rintro s t f a executes lanes rfl
    refine ⟨?_, ?_, immOp_lanes executes lanes _ ?_, immOp_lanes executes lanes _ ?_, immOp_lanes executes lanes _ ?_,
      immOp_lanes executes lanes _ ?_⟩
    · simp only [exec_movi, execMovi, State.compute_true executes, immVal, dst32_lanes lanes f.d (setWidth_signExtend f.imm)]
    · simp only [exec_movh, execMovh, State.compute_true executes, lanes]
    all_goals simp [BitVec.setWidth_add, setWidth_signExtend]
  · rintro s t f a d x executes steward rfl rfl rfl
    refine ⟨?_, ?_, immOp_steward executes steward _, immOp_steward executes steward _, immOp_steward executes steward _,
      immOp_steward executes steward _⟩
    · simp only [exec_movi, execMovi, State.compute_true executes, immVal, dst32_steward steward]
    · simp only [exec_movh, execMovh, State.compute_true executes, steward, dst64_steward steward]

end Sys2Proof
end

section
/-! O10: the arithmetic of group 2 (R150). -/

namespace Sys2Proof.Machine

/-- An element-by-element form that rounds writes each exact value rounded once, and advances the SR count once under SR (R128, R150). -/
theorem floatOp_executes {s : State} {t : Thread} {f : RegF} (executes : s.Executes t f.neg f.pred) (g : Thread → Nat → Num) :
    floatOp f s g = .next (s.done (t.countSr (modRm f.mod)) (dstElems s.cur (modType f.mod) f.d
      ((List.range (elemCount f.mod)).map fun e =>
        (fmtOf (modType f.mod)).round (g t e) (modRm f.mod) (modSat f.mod) (s.srBits t e)))) :=
  State.act_true executes _

end Sys2Proof.Machine

namespace Sys2Proof

open Machine

/-- Settles O10: each form of group 2 rounds the exact value that R150 gives it; `fdot2` does so in FP32. -/
theorem floatArithmetic : Obligations.FloatArithmetic := by
  rintro s t f ty rm executes rfl rfl
  exact ⟨floatOp_executes executes _, floatOp_executes executes _, floatOp_executes executes _, floatOp_executes executes _,
    State.act_true executes _⟩

end Sys2Proof
end

section
/-! O11: selection, rounding to an integral value, classes and comparison (R146, R151 to R154). -/

namespace Sys2Proof.Machine

/-- An element-by-element form on encodings writes each element's result. -/
theorem encOp_executes {s : State} {t : Thread} {f : RegF} (executes : s.Executes t f.neg f.pred) (g : Thread → Nat → Nat) :
    encOp f s g = .next (s.done t (dstElems s.cur (modType f.mod) f.d ((List.range (elemCount f.mod)).map (g t)))) :=
  State.compute_true executes _

/-- A register holds two elements of the packed halves (R138). -/
theorem perReg_eq_two (ty : Nat) : perReg ty = 2 ↔ ty = 9 ∨ ty = 10 := by
  simp only [perReg, Bool.or_eq_true, decide_eq_true_eq]
  split <;> simp_all

/-! ## minimumNumber and maximumNumber (R151) -/

section
variable {fmt : Fmt} {x y : Nat} (m : Bool)

theorem minMaxNumber_nan_left (hx : (fmt.val x).isNan = true) (hy : (fmt.val y).isNan = false) : minMaxNumber fmt m x y = y := by
  simp [minMaxNumber, hx, hy]

theorem minMaxNumber_nan_right (hx : (fmt.val x).isNan = false) (hy : (fmt.val y).isNan = true) : minMaxNumber fmt m x y = x := by
  simp [minMaxNumber, hx, hy]

theorem minMaxNumber_nan_both (hx : (fmt.val x).isNan = true) (hy : (fmt.val y).isNan = true) : minMaxNumber fmt m x y = fmt.canon := by
  simp [minMaxNumber, hx, hy]

variable (fmt x y)

/-- The result is an operand's encoding or the canonical NaN. -/
theorem minMaxNumber_cases : minMaxNumber fmt m x y = x ∨ minMaxNumber fmt m x y = y ∨ minMaxNumber fmt m x y = fmt.canon := by
  simp only [minMaxNumber]
  repeat' split
  all_goals simp

end

/-! ## Comparison (R146, R152) -/

/-- Of values without an order only ne and un hold (R152). -/
theorem floatCond_unordered (c : Nat) {a b : Num} (order : a.compare b = none) : floatCond c a b = decide (c = 1 ∨ c = 6) := by
  rw [floatCond, order, Bool.decide_or]
  rfl

/-- The condition of `fcmp` on two values by their order (R146, R152). -/
theorem floatCond_ordered {c : Nat} (hc : c ≤ 7) {a b : Num} {x : Int} (order : a.compare b = some x) :
    floatCond c a b = decide ((c = 0 ∧ x = 0) ∨ (c = 1 ∧ x ≠ 0) ∨ (c = 2 ∧ x < 0) ∨ (c = 3 ∧ x ≤ 0) ∨ (c = 4 ∧ 0 < x) ∨
      (c = 5 ∧ 0 ≤ x) ∨ c = 7) := by
  rw [floatCond, order, Bool.eq_iff_iff]
  obtain rfl | rfl | rfl | rfl | rfl | rfl | rfl | rfl : c = 0 ∨ c = 1 ∨ c = 2 ∨ c = 3 ∨ c = 4 ∨ c = 5 ∨ c = 6 ∨ c = 7 := by omega
  all_goals simp

/-- `fcmp` writes the predicate that d names (R146, R152). -/
theorem execFcmp_executes {s : State} {t : Thread} {f : RegF} (executes : s.Executes t f.neg f.pred) :
    execFcmp f s = .next (s.done t (dstPred f.d (floatCond (modStype f.mod)
      (s.elemVal s.cur t (modType f.mod) f.a 0) (s.elemVal s.cur t (modType f.mod) f.b 0)))) :=
  State.compute_true executes _

end Sys2Proof.Machine

namespace Sys2Proof

open Machine

/-- Settles O11: each form writes what its function gives of the elements; the zeros of `minMaxNumber` are compared by their signs. -/
theorem floatSelectionsAndComparison : Obligations.FloatSelectionsAndComparison := by
  refine ⟨?_, ?_, ?_⟩
  · rintro s t f ty executes rfl
    refine ⟨encOp_executes executes _, encOp_executes executes _, State.act_true executes _, ?_⟩
    simp only [exec_fclass, execFclass, State.compute_true executes, perReg_eq_two, Nat.mul_comm (2 ^ 16)]
  · intro m x y _ _
    exact ⟨minMaxNumber_nan_left m, minMaxNumber_nan_right m, minMaxNumber_nan_both m, by decide, by decide, minMaxNumber_cases fp32 x y m⟩
  · rintro s t f c o executes rfl hc order
    rw [exec_fcmp, execFcmp_executes executes]
    cases o with
    | none => rw [floatCond_unordered _ order.symm]
    | some x => rw [floatCond_ordered hc order.symm]

end Sys2Proof
end

section
/-! O12: roots and transcendental functions, and the windows of long-latency instructions (R10, R95, R155). -/

namespace Sys2Proof.Machine

/-- Changing a record that was just put is putting the changed record. -/
theorem KV.upd_put {κ α : Type} [DecidableEq κ] (m : KV κ α) (k : κ) (v : α) (f : α → α) :
    KV.upd (KV.put m k v) k f = KV.put m k (f v) := by
  induction m with
  | nil => simp [KV.put, KV.upd]
  | cons e r ih =>
    simp only [KV.put]
    split <;> simp_all [KV.upd]

theorem State.updThread_setThread (s : State) (w : Who) (t : Thread) (f : Thread → Thread) :
    (s.setThread w t).updThread w f = s.setThread w (f t) := by
  simp [State.updThread, State.setThread, KV.upd_put]

/-- The window entry that a plain thread opens for its instruction (R10). -/
def Thread.opened (t : Thread) (oid : Nat) (word : BitVec 64) (la : Nat) (ws : List (Dest × BitVec 64)) (due : Nat) : Outstanding :=
  { oid := oid, pc := t.pc, word := word, left := la, issued := 0, state := .latent, writes := ws, later := [], snap := t.snap, due := due }

/-- A window that has no result yet does not close. -/
theorem Thread.closeWindows_latent {t : Thread} {o : Outstanding} (wins : t.wins = [o]) (latent : o.state = .latent) (force : Bool) :
    t.closeWindows force = t := by
  cases t
  simp only at wins
  subst wins
  simp [Thread.closeWindows, Outstanding.closes, latent]

/-- A window without a result lets further instructions issue while its lookahead lasts (R10). -/
theorem Thread.windowStatus_latent {t : Thread} {o : Outstanding} (wins : t.wins = [o]) (latent : o.state = .latent) (left : o.left ≠ 0) :
    t.windowStatus = .ready := by
  simp [Thread.windowStatus, wins, Outstanding.broken, latent, left]

/-- A thread that has opened a window for its instruction stands at the next word, READY, with its registers as they were (R10). -/
def Thread.behind (t : Thread) (o : Outstanding) (flushed : List Nat) (clock : Nat) : Thread :=
  { t with wins := [o], pc := t.pc + 8, status := .ready, readySince := clock, flushed := flushed }

theorem Thread.content_behind (t : Thread) (o : Outstanding) (flushed : List Nat) (clock : Nat) (d : Dest) :
    (t.behind o flushed clock).content d = t.content d := by
  cases d <;> rfl

/-- Opening the window of a plain thread's instruction (R10). -/
theorem Thread.open_plain {t : Thread} (plain : t.Plain) (marks : List Nat) (oid : Nat) (word : BitVec 64) {la : Nat} (ahead : la ≠ 0)
    (ws : List (Dest × BitVec 64)) (ds : List Dest) (clock : Nat) :
    ({ t with flushed := marks } : Thread).open_ oid word la .latent ws ds clock =
      t.behind (t.opened oid word la ws clock) (marks.map fun n => if n = 0 then oid else n) clock := by
  cases t
  obtain ⟨rfl, rfl, rfl, rfl, rfl, rfl, -⟩ := plain
  simp only [Thread.open_]
  rw [Thread.closeWindows_latent rfl rfl, Thread.windowStatus_latent rfl rfl ahead]
  rfl

/-- The window that a plain thread's instruction opens (R10). -/
theorem State.openWindow_plain {s : State} {t : Thread} (plain : t.Plain) {la : BitVec 4} (ahead : la ≠ 0) (ws : List (Dest × BitVec 64))
    (ds : List Dest) :
    s.openWindow t la .latent ws ds = ({ s with ids := s.ids + 1 } : State).setThread s.cur (t.behind
      (t.opened s.ids s.word la.toNat ws s.clock) ((s.flushMarks s.cur).map fun n => if n = 0 then s.ids else n) s.clock) := by
  have count : la.toNat ≠ 0 := fun zero => ahead (BitVec.eq_of_toNat_eq zero)
  rw [State.openWindow, Thread.open_plain plain _ _ _ count]

/-- With a lookahead a plain thread goes on while its instruction's result is under way (R10, R95). -/
theorem State.finishLong_ahead {s : State} {t : Thread} (plain : t.Plain) {la : BitVec 4} (ahead : la ≠ 0) (clocks : Nat)
    (ws : List (Dest × BitVec 64)) :
    s.finishLong t la clocks ws =
      (({ s with ids := s.ids + 1 } : State).setThread s.cur (t.behind (t.opened s.ids s.word la.toNat ws (s.clock + clocks))
        ((s.flushMarks s.cur).map fun n => if n = 0 then s.ids else n) s.clock)).plan (s.clock + clocks) (.longLatencyCompletion s.cur) := by
  have ⟨_, redo, _⟩ := plain
  simp only [State.finishLong, redo, ahead, if_false, State.openWindow_plain plain ahead, State.setDue]
  rw [State.updThread_setThread]
  simp only [Thread.behind, Thread.opened, List.map_cons, List.map_nil, if_true]

/-- A root or transcendental form rounds the function of each element, and completes as a long-latency instruction (R155). -/
theorem rootOp_executes {s : State} {t : Thread} {f : RegF} (executes : s.Executes t f.neg f.pred) (latency : Nat) (g : Num → Num) :
    ∃ clocks, rootOp f s latency g = .next (s.finishLong (t.countSr (modRm f.mod)) f.la clocks (dstElems s.cur (modType f.mod) f.d
      ((List.range (elemCount f.mod)).map fun e => (fmtOf (modType f.mod)).round (g (s.elemVal s.cur t (modType f.mod) f.a e))
        (modRm f.mod) (modSat f.mod) (s.srBits t e)))) :=
  ⟨_, State.act_true executes _⟩

end Sys2Proof.Machine

namespace Sys2Proof

open Machine

/-- Settles O12: a window that has no result yet neither closes nor holds its thread back while its lookahead lasts. -/
theorem rootsAndLookahead : Obligations.RootsAndLookahead := by
  refine ⟨?_, fun s t la clocks ws plain => ⟨?_, fun ahead => ?_⟩⟩
  · rintro s t f ty rm executes rfl rfl
    exact ⟨rootOp_executes executes _ _, rootOp_executes executes _ _, rootOp_executes executes _ _, rootOp_executes executes _ _,
      rootOp_executes executes _ _, rootOp_executes executes _ _, rootOp_executes executes _ _⟩
  · rintro rfl
    exact State.finishLong_zero clocks ws
  · exact ⟨_, _, State.finishLong_ahead plain ahead clocks ws, rfl, rfl, rfl, rfl, rfl, rfl, Thread.content_behind t _ _ _⟩

end Sys2Proof
end

section
/-! O14: HX and MX blocks and their traps (R158 to R160). -/

namespace Sys2Proof.Machine

section
variable {s : State} {t : Thread} {f : RegF} (executes : s.Executes t f.neg f.pred) (k : Thread → BitVec 64 → State)
include executes

/-- With a format slot that passes, a block instruction goes on (R158). -/
theorem hxOp_passes (ok : hxSlotOk (s.formatSlot t f.b.toNat) = true) : hxOp f s k = .next (k t (s.formatSlot t f.b.toNat)) := by
  simp [hxOp, State.act_true executes, ok]

/-- With a format slot that fails, a block instruction traps fmt.slot (R158). -/
theorem hxOp_traps (bad : hxSlotOk (s.formatSlot t f.b.toNat) = false) : hxOp f s k = .next (s.trap t 0x060A 0) := by
  simp [hxOp, State.act_true executes, bad]

end

end Sys2Proof.Machine

namespace Sys2Proof

open Machine

/-- Settles O14: the slot check comes before every HX meaning, and `mxcvt` asks its format code and then its type. -/
theorem narrowFormats : Obligations.NarrowFormats := by
  refine ⟨?_, ?_⟩
  · rintro s t f x executes rfl
    refine ⟨fun ok => ⟨?_, ?_, ?_⟩, fun bad => ⟨?_, ?_, ?_⟩⟩
    · exact (exec_hxq s f).trans (hxOp_passes executes _ ok)
    · exact (exec_hxd s f).trans (hxOp_passes executes _ ok)
    · exact (exec_hxe s f).trans (hxOp_passes executes _ ok)
    · exact (exec_hxq s f).trans (hxOp_traps executes _ bad)
    · exact (exec_hxd s f).trans (hxOp_traps executes _ bad)
    · exact (exec_hxe s f).trans (hxOp_traps executes _ bad)
  · rintro s t f code n executes rfl rfl
    refine ⟨fun known widens => ?_, fun known narrows => ⟨_, _, Prod.eta _, ?_⟩, fun unknown => ?_⟩
    · simp only [exec_mxcvt, execMxcvt, State.act_true executes, Nat.not_lt.2 known, widens, bits_seven, if_true, if_false]
    · simp only [exec_mxcvt, execMxcvt, State.act_true executes, Nat.not_lt.2 known, narrows, if_false]
    · simp only [exec_mxcvt, execMxcvt, State.act_true executes, unknown, if_true]

end Sys2Proof
end

section
/-! O22: the checks of an access, space by space (R38, R166), and what every instruction makes of one that fails (R62, R193, R332). -/

namespace Sys2Proof.Machine

/-! ## The checks, space by space -/

section
variable {s : State} {w : Who} {t : Thread} {ea : BitVec 64} {size : Nat} {a : Acc}

theorem State.access_misaligned (misaligned : ea.toNat % size ≠ 0) (spc : Space) :
    s.access w t spc ea size a = .error (.trap 0x0205) := by
  simp [State.access, misaligned]

variable (aligned : ea.toNat % size = 0)
include aligned

theorem State.access_sp {g : Group} (group : s.spGroup w t = some g) : s.access w t .sp ea size a =
    if g.spBytes < ea.toNat + size then .error (.trap 0x0200) else .ok ⟨spLoc g.core (g.spBase + ea.toNat), 3⟩ := by
  simp [State.access, aligned, group]

theorem State.access_gs_outside (outside : bits ea 31 24 ≠ 0) : s.access w t .gs ea size a = .error (.trap 0x0201) := by
  simp [State.access, aligned, outside]

theorem State.access_gs_unranked {g : Group} (group : s.spGroup w t = some g) (inside : bits ea 31 24 = 0) (unranked : g.rank = none) :
    s.access w t .gs ea size a = .error (.trap 0x0202) := by
  simp [State.access, aligned, group, inside, unranked]

theorem State.access_gs_nobody {g : Group} (group : s.spGroup w t = some g) (inside : bits ea 31 24 = 0)
    (nobody : s.rankGroup g.share (bits ea 23 20) = none) : s.access w t .gs ea size a = .error (.trap 0x0202) := by
  simp [State.access, aligned, group, inside, nobody]

/-- A rank that is being left is none to an access that had not issued (R38). -/
theorem State.access_gs_leaving {g o : Group} {n : Nat} (group : s.spGroup w t = some g) (inside : bits ea 31 24 = 0)
    (found : s.rankGroup g.share (bits ea 23 20) = some (n, o)) (unissued : KV.at? t.held (t.redo.getD 0) = none)
    (leaving : g.leaving = true ∨ o.leaving = true) : s.access w t .gs ea size a = .error (.trap 0x0202) := by
  rcases leaving with own | other
  · simp [State.access, aligned, group, inside, unissued, own]
  · simp [State.access, aligned, group, inside, found, unissued, other]

theorem State.access_gs_found {g o : Group} {n : Nat} (group : s.spGroup w t = some g) (inside : bits ea 31 24 = 0) (ranked : g.rank ≠ none)
    (found : s.rankGroup g.share (bits ea 23 20) = some (n, o))
    (stays : KV.at? t.held (t.redo.getD 0) ≠ none ∨ (g.leaving = false ∧ o.leaving = false)) : s.access w t .gs ea size a =
      if o.spBytes < bits ea 19 0 + size then .error (.trap 0x0201) else .ok ⟨s.spWord n o (bits ea 19 0), 3⟩ := by
  have own : (g.rank.isNone || (g.leaving && !(KV.at? t.held (t.redo.getD 0)).isSome)) = false := by
    rcases stays with issued | ⟨stay, -⟩ <;> simp_all [Option.isSome_iff_ne_none]
  have other : (o.leaving && !(KV.at? t.held (t.redo.getD 0)).isSome) = false := by
    rcases stays with issued | ⟨-, stay⟩ <;> simp_all [Option.isSome_iff_ne_none]
  simp only [State.access, aligned, group, inside, own, found, other, ne_eq, not_true_eq_false, Bool.false_eq_true, if_false]

theorem State.access_lr_refused (refused : a.lr ≠ 0) : s.access w t .lr ea size a = .error (.trap a.lr) := by
  simp only [State.access, aligned, refused, ne_eq, not_true_eq_false, not_false_eq_true, if_false, if_true]

theorem State.access_lr {l : Launch} (readable : a.lr = 0) (launch : s.launch? t.lid = some l) : s.access w t .lr ea size a =
    if 8 * l.paramLen < ea.toNat + size then .error (.trap 0x0203) else s.gl l.part (l.record + 0x100 + ea) Want.rd := by
  simp [State.access, aligned, readable, launch, Launch.paramVa]

theorem State.access_gl_error {f : XFail} (page : s.gl (s.partOf t) ea ⟨a.write, false, false⟩ = .error f) :
    s.access w t .gl ea size a = .error f := by
  simp [State.access, aligned, page]

theorem State.access_gl_ok {p : Place} (page : s.gl (s.partOf t) ea ⟨a.write, false, false⟩ = .ok p) : s.access w t .gl ea size a =
    if a.tagged = true ∧ p.cls ≠ 3 ∧ p.cls ≠ 4 then .error (.trap 0x0206)
      else if a.noNotify = true ∧ p.cls = 4 then .error (.trap 0x0207) else .ok p := by
  simp [State.access, aligned, page, classTags]

end

/-! ## An access that fails -/

/-- `o` is what becomes of an instruction whose access fails in `v` with the cause `c`: a trap, or the consumption of the error of an
aborted table walk (R193, R332). -/
def State.FailsWith (v : State) (t : Thread) (la : BitVec 4) (ds : List Dest) (spc : Space) (ea : BitVec 64) (c : BitVec 32) (o : Out) : Prop :=
  (c ≠ 0x020D → o = .next (v.trap t c ea)) ∧
    (c = 0x020D → o = .next ((v.readWalk (v.partOf t) ((v.homeVa t spc ea).getD ea)).consume t la ds c ea))

/-- `o` makes one access first, and what it does else follows from that. -/
def State.Accesses (v : State) (t : Thread) (la : BitVec 4) (ds : List Dest) (spc : Space) (ea : BitVec 64) (size : Nat) (a : Acc) (o : Out) : Prop :=
  ∃ k, o = .next (v.reach t la ds spc ea size a k)

theorem State.Accesses.fails {v : State} {t : Thread} {la : BitVec 4} {ds : List Dest} {spc : Space} {ea : BitVec 64} {size : Nat} {a : Acc}
    {o : Out} {c : BitVec 32} (accesses : v.Accesses t la ds spc ea size a o) (failed : v.access v.cur t spc ea size a = .error (.trap c))
    (bus : (v.homeVa t spc ea).any v.walkOut = false) : v.FailsWith t la ds spc ea c o := by
  obtain ⟨k, rfl⟩ := accesses
  refine ⟨fun traps => ?_, fun aborted => ?_⟩
  · rw [State.reach_trap failed traps bus]
  · subst aborted
    rw [State.reach_abort failed bus]

/-! ## The instructions that access memory -/

/-- What follows the release half of a tagged store goes on in the released state (R62). -/
theorem State.releaseThen_done {s v : State} {t : Thread} {m : BitVec 13} (releases : s.Releases t m v) (k : State → State) :
    s.releaseThen t m k = k v := by
  unfold State.Releases at releases
  unfold State.releaseThen
  split at releases
  · rw [if_pos ‹_›, State.releaseFirst_done releases]
  · rw [if_neg ‹_›, releases]

section
variable {s : State} {t : Thread} {f : RegF} (executes : s.Executes t f.neg f.pred) {spc : Space} {i : Instr}
include executes

theorem tagLoad_accesses {take : Bool} (load : exec i s = tagLoad take spc f s) :
    s.Accesses t f.la ((dst32 s.cur f.d 0).map (·.1)) spc (s.ea s.cur t spc f.a f.c 4) 4 (if take then Acc.take else Acc.tagRead) (exec i s) :=
  ⟨_, load.trans (State.act_true executes _)⟩

/-- A store to a tagged word makes its access after its release. -/
theorem tagStore_accesses {v : State} (releases : s.Releases t f.mod v) {a : Acc} {k : Thread → State → State → Place → State}
    (store : exec i s = s.act f.neg f.pred fun t => s.releaseThen t f.mod fun u =>
      u.reach t f.la [] spc (s.ea s.cur t spc f.a f.c 4) 4 a (k t u)) :
    v.Accesses t f.la [] spc (s.ea s.cur t spc f.a f.c 4) 4 a (exec i s) :=
  ⟨_, by rw [store, State.act_true executes, State.releaseThen_done releases]⟩

theorem atomOp_accesses {ofs : BitVec 8} {g : Thread → BitVec 64 → Option (BitVec 64)} (atomic : exec i s = atomOp spc f s ofs g) :
    s.Accesses t f.la ((dstType s.cur (modType f.mod) f.d 0).map (·.1)) spc (s.ea s.cur t spc f.a ofs (unitOf (typeBytes (modType f.mod))))
      (typeBytes (modType f.mod)) Acc.atomic (exec i s) :=
  ⟨_, atomic.trans (State.act_true executes _)⟩

theorem atomIntOp_accesses {op : Nat} (atomic : exec i s = atomIntOp op spc f s) :
    s.Accesses t f.la ((dstType s.cur (modType f.mod) f.d 0).map (·.1)) spc (s.ea s.cur t spc f.a f.c (unitOf (typeBytes (modType f.mod))))
      (typeBytes (modType f.mod)) Acc.atomic (exec i s) :=
  atomOp_accesses executes (ofs := f.c) (atomic.trans (atomIntOp.eq_def op spc f s))

end

end Sys2Proof.Machine

namespace Sys2Proof

open Machine

/-- Settles O22: the checks of each space are those of `State.access`, and each instruction makes its one access first. -/
theorem accessChecks : Obligations.AccessChecks := by
  refine ⟨fun s t ea size a => ⟨State.access_misaligned, fun aligned => ⟨fun g group => ?_, State.access_lr_refused aligned, fun l readable launch => ?_,
    fun f => State.access_gl_error aligned, fun p => State.access_gl_ok aligned⟩⟩, ?_⟩
  · have sp := State.access_sp (a := a) aligned group
    refine ⟨fun beyond => sp.trans (if_pos beyond), fun within => sp.trans (if_neg (Nat.not_lt.2 within)), State.access_gs_outside aligned,
      State.access_gs_unranked aligned group, fun inside _ => State.access_gs_nobody aligned group inside, fun n o inside ranked found => ⟨?_, ?_⟩⟩
    · exact fun unissued => State.access_gs_leaving aligned group inside found (Classical.not_not.1 unissued)
    · intro stays
      have gs := State.access_gs_found (a := a) aligned group inside ranked found stays
      exact ⟨fun beyond => gs.trans (if_pos beyond), fun within => gs.trans (if_neg (Nat.not_lt.2 within))⟩
  · have lr := State.access_lr aligned readable launch (w := s.cur)
    exact ⟨fun beyond => lr.trans (if_pos beyond), fun within => lr.trans (if_neg (Nat.not_lt.2 within))⟩
  · intro s v t spc f c executes releases
    refine ⟨⟨?_, ?_, ?_, ?_⟩, ⟨?_, ?_, ?_, ?_, ?_, ?_⟩, ?_, ?_, ?_, ?_, ?_, ?_, ?_, ?_, ?_⟩
    · exact State.Accesses.fails ⟨_, (exec_ld s spc f).trans (State.act_true executes _)⟩
    · exact State.Accesses.fails ⟨_, (exec_st s spc f).trans (State.act_true executes _)⟩
    · exact State.Accesses.fails ⟨_, (exec_ldq s spc f).trans (State.act_true executes _)⟩
    · exact State.Accesses.fails ⟨_, (exec_stq s spc f).trans (State.act_true executes _)⟩
    · exact (tagLoad_accesses executes (exec_ldwf s spc f)).fails
    · exact (tagLoad_accesses executes (exec_ldwfe s spc f)).fails
    · exact (tagStore_accesses executes releases (exec_stwe s spc f)).fails
    · exact (tagStore_accesses executes releases (exec_stf s spc f)).fails
    · exact State.Accesses.fails ⟨_, (exec_tagrd s spc f).trans (State.act_true executes _)⟩
    · exact State.Accesses.fails ⟨_, (exec_tagwr s spc f).trans (State.act_true executes _)⟩
    · exact (atomIntOp_accesses executes (exec_atomAdd s spc f)).fails
    · exact (atomIntOp_accesses executes (exec_atomMin s spc f)).fails
    · exact (atomIntOp_accesses executes (exec_atomMax s spc f)).fails
    · exact (atomIntOp_accesses executes (exec_atomAnd s spc f)).fails
    · exact (atomIntOp_accesses executes (exec_atomOr s spc f)).fails
    · exact (atomIntOp_accesses executes (exec_atomXor s spc f)).fails
    · exact (atomIntOp_accesses executes (exec_atomXchg s spc f)).fails
    · exact (atomOp_accesses executes (exec_atomCas s spc f)).fails
    · exact (atomOp_accesses executes (exec_atomFadd s spc f)).fails

end Sys2Proof
end

section
/-! O24 fails: a tagged load that waits has read its word (R171, R172); where the sector of that has one wrong symbol, the read corrects it and
records the error (R332, R406), and the record goes into the log of its partition, which lies in memory (R393, R405). -/

namespace Sys2Proof.Machine

/-- A tagged load of an EMPTYish word waits in the state that its read has left (R172, R332). -/
theorem tagLoad_waits {s v : State} {t : Thread} {f : RegF} {take : Bool} {spc : Space} {p : Place} (executes : s.Executes t f.neg f.pred)
    (reaches : s.Reaches t spc (s.ea s.cur t spc f.a f.c 4) 4 (if take then Acc.take else Acc.tagRead) p v)
    (empty : fullish (v.tagAt (p.loc.key / 4)) = false) :
    ∃ ds a, tagLoad take spc f s = .next (v.waitTag t f.la spc (s.ea s.cur t spc f.a f.c 4) p ds a) := by
  rw [tagLoad, State.act_true executes]
  simp only [State.reach_done reaches, empty, Bool.false_eq_true, if_false]
  exact ⟨_, _, rfl⟩

end Sys2Proof.Machine

namespace Sys2Proof

open Machine

/-- The leaf of the first page with class 3, whose words have tags. -/
def taggedPage : BitVec 128 := BitVec.ofNat 128 (2 * 2 ^ 64 + 2 ^ 63 + 3 * 2 ^ 46)

/-- `wrongSymbol` with tags on its page, where every word is EMPTY. -/
def wrongTagged : State :=
  { wrongSymbol with dies := [(0, { Die.reset with tcache := [(0, [{ page := 0, size := 0, entry := taggedPage }])] })] }

/-- The tagged load of 32 bits at the address in register 0, always executed. -/
def taggedLoad : RegF := { plainLoad with b := 0x94, mod := 0x0E00 }

/-- What the read of the word at address 0 leaves, and the cause that it receives. -/
def wrongTaggedRead : State × Option (BitVec 32) :=
  (wrongTagged.admitted plainThread .gl (some 0) false).readFor (wrongTagged.victimOf (.lane 0 0) plainThread) 0 { key := 0, slot := some 0 } 4

/-- That load passes its checks, nothing holds it back, and its read finds nothing that it cannot correct. -/
theorem wrongTaggedRead_reaches :
    wrongTagged.Reaches plainThread .gl 0 4 Acc.tagRead { loc := { key := 0, slot := some 0 }, cls := 3 } wrongTaggedRead.1 := by
  have cause : wrongTaggedRead.2 = none := by decide +kernel
  have read : wrongTaggedRead = (wrongTaggedRead.1, none) := by rw [← cause]
  exact ⟨by rfl, by decide +kernel, read⟩

/-- The record of the corrected error stands in memory. -/
theorem wrongTaggedRead_mem : wrongTaggedRead.1.mem ≠ wrongTagged.mem := by
  decide +kernel

/-- Refutes O24: the `ldwf` of `wrongTagged` waits for its word, but its read has written an error record, so it does not leave memory as it was. -/
theorem not_taggedAccessAndAtomics : ¬ Obligations.TaggedAccessAndAtomics := by
  unfold Obligations.TaggedAccessAndAtomics
  rintro ⟨tagged, -⟩
  have executes : wrongTagged.Executes plainThread taggedLoad.neg taggedLoad.pred := ⟨rfl, rfl⟩
  have address : wrongTagged.ea wrongTagged.cur plainThread .gl taggedLoad.a taggedLoad.c 4 = 0 := by decide +kernel
  obtain ⟨load, -⟩ := tagged wrongTagged wrongTagged wrongTaggedRead.1 plainThread .gl taggedLoad ⟨⟨0, some 0⟩, 3⟩ 0 0 executes address.symm rfl
  obtain ⟨clocks, -, -, waits⟩ := load wrongTaggedRead_reaches
  obtain ⟨u, x, next, -, -, -, mem, -⟩ := waits (by decide +kernel)
  obtain ⟨ds, a, waited⟩ := tagLoad_waits (take := false) executes (address ▸ wrongTaggedRead_reaches) (by decide +kernel)
  have same := Host.Outcome.next.inj (waited.symm.trans next)
  rw [← same, State.waitTag_mem] at mem
  exact wrongTaggedRead_mem mem

end Sys2Proof
end

section
/-! What the admission of an access leaves alone: a walk of the tables records what it meets and keeps the leaf, and the request takes tokens
(R320, R322, R332, R371). Bindings, operands and groups are as before. -/

namespace Sys2Proof.Machine

/-! ## Records -/

/-- `u` is `s` but for memory, the storage errors, the logs and the interrupts: what reading a sector changes (R332). -/
def State.RecordsOnly (s u : State) : Prop :=
  u = { s with mem := u.mem, secKey := u.secKey, flaws := u.flaws, logs := u.logs, fleet := u.fleet, parts := u.parts, irqs := u.irqs }

theorem State.RecordsOnly.refl (s : State) : s.RecordsOnly s := rfl

theorem State.RecordsOnly.trans {s u v : State} (h : s.RecordsOnly u) (k : u.RecordsOnly v) : s.RecordsOnly v := by
  unfold State.RecordsOnly at *
  rw [k, h]

theorem State.LogsOnly.recordsOnly {s u : State} (h : s.LogsOnly u) : s.RecordsOnly u := by
  unfold State.LogsOnly at h
  unfold State.RecordsOnly
  rw [h]

theorem State.mend_recordsOnly (s : State) (x : Site) : s.RecordsOnly (s.mend x) := rfl

theorem State.errorIrq_recordsOnly (s : State) (part : Nat) : s.RecordsOnly (s.errorIrq part) := rfl

theorem State.logSlice_recordsOnly (s : State) (part die : Nat) (va : BitVec 64) (unc : Bool) : s.RecordsOnly (s.logSlice part die va unc) :=
  (s.log_logsOnly _ _ _ _ _ _ _ _ _).recordsOnly

theorem State.logDram_recordsOnly (s : State) (part : Nat) (va : BitVec 64) (sector symbol : Nat) (unc : Bool) :
    s.RecordsOnly (s.logDram part va sector symbol unc) := by
  unfold State.logDram
  exact (s.log_logsOnly _ _ _ _ _ _ _ _ _).recordsOnly

theorem State.readSector_recordsOnly (s : State) (part : Nat) (va : BitVec 64) (sector : Nat) : s.RecordsOnly (s.readSector part va sector).1 := by
  unfold State.readSector
  dsimp only
  split
  · exact (s.logSlice_recordsOnly _ _ _ _).trans (State.errorIrq_recordsOnly _ _)
  · split
    · exact (s.mend_recordsOnly _).trans (State.errorIrq_recordsOnly _ _)
    · generalize sliced : (if s.flaws.contains (.slice sector false) = true then
        (s.mend (.slice sector false)).logSlice part (sector * 32 / 2 ^ 37) va false else s) = u
      have slice : s.RecordsOnly u := by
        rw [← sliced]
        split
        · exact (s.mend_recordsOnly _).trans (State.logSlice_recordsOnly _ _ _ _ _)
        · exact .refl s
      refine slice.trans ?_
      split
      · exact .refl _
      · exact (State.mend_recordsOnly _ _).trans (State.logDram_recordsOnly _ _ _ _ _ _)
      · exact (State.logDram_recordsOnly _ _ _ _ _ _).trans (State.errorIrq_recordsOnly _ _)

theorem State.readWalk_recordsOnly (s : State) (part : Nat) (va : BitVec 64) : s.RecordsOnly (s.readWalk part va) := by
  unfold State.readWalk
  dsimp only
  split
  · exact .refl s
  · exact foldl_rel State.RecordsOnly.refl State.RecordsOnly.trans _ (fun s _ => s.readSector_recordsOnly _ _ _) _ s

/-! ## Bindings -/

/-- The bindings of every home are those of the dies that hold them. -/
def State.glBinds (s : State) : List BindRec := s.dies.flatMap fun d => d.2.binds

/-- `u` has the bindings of `s`, and what an operand of its threads, a place in a scratchpad and the room of a core's pool depend on. -/
structure State.KeepsBinds (s u : State) : Prop where
  cur : u.cur = s.cur
  time : u.time = s.time
  groups : u.groups = s.groups
  launches : u.launches = s.launches
  cores : u.cores = s.cores
  die : ∀ d, (u.die d).binds = (s.die d).binds
  glBinds : u.glBinds = s.glBinds

theorem State.KeepsBinds.trans {s u v : State} (h : s.KeepsBinds u) (k : u.KeepsBinds v) : s.KeepsBinds v where
  cur := k.cur.trans h.cur
  time := k.time.trans h.time
  groups := k.groups.trans h.groups
  launches := k.launches.trans h.launches
  cores := k.cores.trans h.cores
  die d := (k.die d).trans (h.die d)
  glBinds := k.glBinds.trans h.glBinds

theorem State.RecordsOnly.keepsBinds {s u : State} (h : s.RecordsOnly u) : s.KeepsBinds u := by
  rw [h]
  constructor <;> intros <;> rfl

/-- Putting a record that maps to the same list as the one before, or as the default, leaves the joined lists as they are. -/
theorem KV.flatMap_put {κ α β : Type} [DecidableEq κ] (m : KV κ α) (k : κ) (v default : α) (g : α → List β) (empty : g default = [])
    (same : g v = g ((KV.at? m k).getD default)) : ((KV.put m k v).flatMap fun e => g e.2) = m.flatMap fun e => g e.2 := by
  induction m with
  | nil => simp_all [KV.put, KV.at?]
  | cons e r ih =>
    by_cases here : e.1 = k <;> simp_all [KV.put, KV.at?]

theorem State.keepLeaf_keepsBinds (s : State) (va : BitVec 64) (e : BitVec 128) : s.KeepsBinds (s.keepLeaf va e) where
  cur := rfl
  time := rfl
  groups := rfl
  launches := rfl
  cores := rfl
  die d := by
    unfold State.keepLeaf
    by_cases home : d = homeDie va
    · rw [home, State.die_updDie_same]
    · rw [State.die_updDie_other _ _ home]
  glBinds := KV.flatMap_put s.dies (homeDie va) _ Die.reset Die.binds rfl rfl

theorem State.translate_keepsBinds (s : State) (part : Nat) (va : BitVec 64) : s.KeepsBinds (s.translate part va) := by
  have walk := (s.readWalk_recordsOnly part va).keepsBinds
  unfold State.translate
  split
  · exact (State.RecordsOnly.refl s).keepsBinds
  · split
    · exact walk.trans (State.keepLeaf_keepsBinds _ _ _)
    · exact walk

theorem State.admitted_keepsBinds (s : State) (t : Thread) (spc : Space) (va : Option (BitVec 64)) (write : Bool) :
    s.KeepsBinds (s.admitted t spc va write) := by
  have spent (net : Net) : s.KeepsBinds { s with net := net } := by constructor <;> intros <;> rfl
  unfold State.admitted
  cases va with
  | none => exact spent _
  | some v => exact (spent _).trans (State.translate_keepsBinds _ _ _)

/-- An object is reached in a state with the bindings of the one before: it is not read (R181). -/
theorem State.Reaches.keepsBinds {s v : State} {t : Thread} {spc : Space} {ea : BitVec 64} {size : Nat} {p : Place}
    (reaches : s.Reaches t spc ea size Acc.object p v) : s.KeepsBinds v := by
  obtain ⟨-, -, performed⟩ := reaches
  have admitted : s.admitted t spc (s.homeVa t spc ea) false = v := congrArg Prod.fst performed
  exact admitted ▸ s.admitted_keepsBinds t spc _ _

section
variable {s u : State} (keeps : s.KeepsBinds u) (w : Who) (t : Thread) (c : BitVec 8)
include keeps

theorem State.KeepsBinds.special (n : Nat) : u.special w t n = s.special w t n := by
  simp only [State.special, State.launch?, State.coreOf, State.groupOf, State.group?, keeps.launches, keeps.groups, keeps.time]

theorem State.KeepsBinds.laneReg (e : Nat) : u.laneReg w t c e = s.laneReg w t c e := by
  simp only [State.laneReg, keeps.special]

theorem State.KeepsBinds.src64 : u.src64 w t c = s.src64 w t c := by
  simp only [State.src64, keeps.laneReg, keeps.special]

theorem State.KeepsBinds.src32 : u.src32 w t c = s.src32 w t c := by
  simp only [State.src32, keeps.laneReg, keeps.src64]

theorem State.KeepsBinds.srcAddr (spc : Space) : u.srcAddr w t spc c = s.srcAddr w t spc c := by
  simp only [State.srcAddr, keeps.src64, keeps.src32]

theorem State.KeepsBinds.spGroup : u.spGroup w t = s.spGroup w t := by
  simp only [State.spGroup, State.groupOf, State.group?, keeps.groups]

theorem State.KeepsBinds.core (n : Nat) : u.core n = s.core n := by
  simp only [State.core, keeps.cores]

theorem State.KeepsBinds.queueRegions (n : Nat) : u.queueRegions n = s.queueRegions n := by
  simp only [State.queueRegions, State.groupsOn, keeps.groups]

theorem State.KeepsBinds.poolUsed (n : Nat) : u.poolUsed n = s.poolUsed n := by
  simp only [State.poolUsed, State.groupsOn, keeps.groups, keeps.core]

end

end Sys2Proof.Machine
end

section
/-! O26: fences, acquires and releases, and the bindings of regions (R180 to R183). -/

namespace Sys2Proof.Machine

/-! ## What a home answers -/

section
variable {s : State} {t : Thread} {p : Place} {obj base : BitVec 64} {len k : Nat} (key : k = p.loc.key / 4)

theorem State.tryBind_length {spc : Space} (bad : len = 0 ∨ 2 ^ 30 < len) : s.tryBind t spc p obj base len = none := if_pos bad

variable (pos : len ≠ 0) (small : len ≤ 2 ^ 30)
include key pos small

/-- A region of pod-wide memory is recorded at its object's home (R182). -/
theorem State.tryBind_gl (apart : ∀ b ∈ s.glBinds, b.obj ≠ k → sectorsMeet b.lo b.hi base.toNat (base.toNat + len) = false)
    (few : (s.glBinds.filter fun b => decide (b.obj = k)).length < 8) (room : (s.die (homeDie obj)).binds.length < 16384) :
    s.tryBind t .gl p obj base len = some (s.updDie (homeDie obj) fun d =>
      { d with binds := d.binds ++ [⟨k, base, base.toNat, base.toNat + len, t.lid⟩] }) := by
  subst key
  have length : ¬(len = 0 ∨ 2 ^ 30 < len) := by omega
  have disjoint : (s.glBinds.any fun b => decide (b.obj ≠ p.loc.key / 4) && sectorsMeet b.lo b.hi base.toNat (base.toNat + len)) = false := by
    simpa [List.any_eq_false] using apart
  unfold State.glBinds at few disjoint
  simp only [State.tryBind, length, Nat.not_le.2 few, disjoint, Nat.not_le.2 room, Bool.false_eq_true, if_false]

/-- A region of the scratchpad is recorded at its object's core (R182). -/
theorem State.tryBind_sp {g : Group} {core lo : Nat} (place : core = (p.loc.key - 2 ^ 60) / 2 ^ 20) (group : s.spGroup s.cur t = some g)
    (low : lo = spBaseKey core + g.spBase + bits base 31 0) (within : bits base 31 0 + len ≤ g.spBytes)
    (few : ((s.core core).binds.filter fun b => decide (b.obj = k)).length < 8)
    (apart : ∀ b ∈ (s.core core).binds, b.obj ≠ k → sectorsMeet b.lo b.hi lo (lo + len) = false)
    (queues : ∀ q ∈ s.queueRegions core, q.1 ≠ k → sectorsMeet q.2.1 q.2.2 lo (lo + len) = false) (room : s.poolUsed core < 256) :
    s.tryBind t .sp p obj base len = some (s.updCore core fun c =>
      { c with binds := c.binds ++ [⟨k, base, lo, lo + len, t.lid⟩] }) := by
  subst key
  have length : ¬(len = 0 ∨ 2 ^ 30 < len) := by omega
  have owner : s.objOwner t .sp obj = some g := by simp [State.objOwner, group]
  have disjoint : ((s.core core).binds.any fun b => decide (b.obj ≠ p.loc.key / 4) && sectorsMeet b.lo b.hi lo (lo + len)) = false := by
    simpa [List.any_eq_false] using apart
  have unqueued : ((s.queueRegions core).any fun q => decide (q.1 ≠ p.loc.key / 4) && sectorsMeet q.2.1 q.2.2 lo (lo + len)) = false := by
    simpa [List.any_eq_false] using queues
  simp only [State.tryBind, length, owner, reduceCtorEq, false_and, Nat.not_lt.2 within, ← place, ← low, Nat.not_le.2 few, disjoint, unqueued, Nat.not_le.2 room,
    Bool.false_eq_true, if_false]

end

theorem removeBind_found {k : Nat} {base : BitVec 64} {l r : List BindRec} {b : BindRec} (obj : b.obj = k) (start : b.base = base)
    (before : ∀ x ∈ l, ¬(x.obj = k ∧ x.base = base)) : removeBind k base (l ++ b :: r) = some (l ++ r) := by
  induction l with
  | nil => simp [removeBind, obj, start]
  | cons x l ih =>
    have rest := ih fun y hy => before y (List.mem_cons_of_mem x hy)
    simp [removeBind, before x (List.mem_cons_self ..), rest]

theorem removeBind_absent {k : Nat} {base : BitVec 64} {l : List BindRec} (absent : ∀ x ∈ l, ¬(x.obj = k ∧ x.base = base)) :
    removeBind k base l = none := by
  induction l with
  | nil => rfl
  | cons x l ih =>
    have rest := ih fun y hy => absent y (List.mem_cons_of_mem x hy)
    simp [removeBind, absent x (List.mem_cons_self ..), rest]

/-! ## The instructions -/

section
variable {s : State} {t : Thread} {f : RegF} (executes : s.Executes t f.neg f.pred)
include executes

theorem execFence_done {u : State} (releases : s.ReleasesAll t u) : exec (.fence f) s = .next (u.done t []) := by
  rw [exec_fence, execFence, State.act_true executes, State.releaseFirst_done releases]

theorem execFence_waits (owes : t.owesAccess = true) : exec (.fence f) s = .next (s.waitFor t .access) := by
  rw [exec_fence, execFence, State.act_true executes, State.releaseFirst, State.performThen_waits owes]

variable {spc : Space} (space : spc = objSpace (subSpace f.mod))
include space

theorem execAcq_done {p : Place} {v : State} (reaches : s.Reaches t spc (s.srcAddr s.cur t spc f.a) 4 Acc.object p v) :
    exec (.acq f) s = .next (v.done t []) := by
  subst space
  rw [exec_acq, execAcq, State.act_true executes]
  simp only [State.object, State.reach_done reaches]

section
variable {p : Place} (checked : s.access s.cur t spc (s.srcAddr s.cur t spc f.a) 4 Acc.object = .ok p)
include checked

/-- A `rel` whose object passes its checks releases first, and then reaches it (R181). -/
theorem execRel_done {q : Place} {u v : State} (releases : s.ReleasesAll t u)
    (reaches : u.Reaches t spc (s.srcAddr s.cur t spc f.a) 4 Acc.object q v) : exec (.rel f) s = .next (v.done t []) := by
  subst space
  rw [exec_rel, execRel, State.act_true executes]
  simp only [checked, State.releaseFirst_done releases, State.object, State.reach_done reaches]

theorem execRel_waits (owes : t.owesAccess = true) : exec (.rel f) s = .next (s.waitFor t .access) := by
  subst space
  rw [exec_rel, execRel, State.act_true executes]
  simp only [checked, State.releaseFirst, State.performThen_waits owes]

end

section
variable {p : Place} {v : State} (reaches : s.Reaches t spc (s.srcAddr s.cur t spc f.c) 4 Acc.object p v)
include reaches

theorem execBind_recorded {u : State} (bound : v.tryBind t spc p (s.srcAddr s.cur t spc f.c) (s.srcAddr s.cur t spc f.a)
    (s.src32 s.cur t f.b).toNat = some u) : exec (.bind f) s = .next (u.done t (dstPred f.d true)) := by
  subst space
  rw [exec_bind, execBind, State.act_true executes]
  simp only [State.object, State.reach_done reaches, reaches.keepsBinds.cur, reaches.keepsBinds.srcAddr, reaches.keepsBinds.src32, bound]

theorem execBind_refused (refused : v.tryBind t spc p (s.srcAddr s.cur t spc f.c) (s.srcAddr s.cur t spc f.a)
    (s.src32 s.cur t f.b).toNat = none) : exec (.bind f) s = .next (v.done t (dstPred f.d false)) := by
  subst space
  rw [exec_bind, execBind, State.act_true executes]
  simp only [State.object, State.reach_done reaches, reaches.keepsBinds.cur, reaches.keepsBinds.srcAddr, reaches.keepsBinds.src32, refused]

/-- `unbind` looks through the bindings at the home of an object in pod-wide memory (R183). -/
theorem execUnbind_gl (gl : spc = .gl) :
    (∀ r, removeBind (p.loc.key / 4) (s.srcAddr s.cur t spc f.a) (s.die (homeDie (s.srcAddr s.cur t spc f.c))).binds = some r →
      exec (.unbind f) s = .next ((v.updDie (homeDie (s.srcAddr s.cur t spc f.c)) fun d => { d with binds := r }).done t (dstPred f.d true))) ∧
    (removeBind (p.loc.key / 4) (s.srcAddr s.cur t spc f.a) (s.die (homeDie (s.srcAddr s.cur t spc f.c))).binds = none →
      exec (.unbind f) s = .next (v.done t (dstPred f.d false))) := by
  subst gl
  rw [exec_unbind, execUnbind, State.act_true executes]
  simp only [← space, State.object, State.reach_done reaches, reaches.keepsBinds.cur, reaches.keepsBinds.srcAddr, reaches.keepsBinds.die]
  exact ⟨fun r found => by simp only [found], fun absent => by simp only [absent]⟩

/-- `unbind` looks through the bindings of the core of an object in a scratchpad (R183). -/
theorem execUnbind_core (core : spc ≠ .gl) :
    (∀ r, removeBind (p.loc.key / 4) (s.srcAddr s.cur t spc f.a) (s.core ((p.loc.key - 2 ^ 60) / 2 ^ 20)).binds = some r →
      exec (.unbind f) s = .next ((v.updCore ((p.loc.key - 2 ^ 60) / 2 ^ 20) fun c => { c with binds := r }).done t (dstPred f.d true))) ∧
    (removeBind (p.loc.key / 4) (s.srcAddr s.cur t spc f.a) (s.core ((p.loc.key - 2 ^ 60) / 2 ^ 20)).binds = none →
      exec (.unbind f) s = .next (v.done t (dstPred f.d false))) := by
  rw [exec_unbind, execUnbind, State.act_true executes]
  simp only [← space, State.object, State.reach_done reaches, reaches.keepsBinds.cur, reaches.keepsBinds.srcAddr, reaches.keepsBinds.core]
  cases spc with
  | gl => exact absurd rfl core
  | _ => exact ⟨fun r found => by simp only [found], fun absent => by simp only [absent]⟩

end

end

end Sys2Proof.Machine

namespace Sys2Proof

open Machine

/-- Settles O26: ordering instructions release or reach their object, and a binding is answered by `State.tryBind` and `removeBind` at a home that
reaching the object leaves as it is. -/
theorem orderingAndBinding : Obligations.OrderingAndBinding := by
  intro s u t f spc executes space
  refine ⟨execFence_done executes, execFence_waits executes, fun p v => execAcq_done executes space,
    fun p checked => ⟨fun q v => execRel_done executes space checked, execRel_waits executes space checked⟩, ?_⟩
  rintro p v obj base len k rfl rfl rfl reaches rfl
  have keeps := reaches.keepsBinds
  refine ⟨fun bad => execBind_refused executes space reaches (State.tryBind_length bad), ?_, ?_, ?_, ?_⟩
  · rintro rfl pos small apart few room
    refine execBind_recorded executes space reaches (State.tryBind_gl rfl pos small ?_ ?_ ?_)
    · rw [keeps.glBinds]
      intro b member
      obtain ⟨d, die, bound⟩ := List.mem_flatMap.1 member
      exact apart d b die bound
    · rwa [keeps.glBinds]
    · rwa [keeps.die]
  · rintro g rfl group pos small within core lo few apart queues room
    refine execBind_recorded executes space reaches (State.tryBind_sp rfl pos small rfl ?_ rfl within ?_ ?_ ?_ ?_)
    · rwa [keeps.spGroup, keeps.cur]
    · rwa [keeps.core]
    · rwa [keeps.core]
    · rwa [keeps.queueRegions]
    · rwa [keeps.poolUsed]
  · intro gl
    obtain ⟨found, absent⟩ := execUnbind_gl executes space reaches gl
    exact ⟨fun l b r split obj start before => found _ (split ▸ removeBind_found obj start before),
      fun missing => absent (removeBind_absent missing)⟩
  · intro core
    obtain ⟨found, absent⟩ := execUnbind_core executes space reaches core
    exact ⟨fun l b r split obj start before => found _ (split ▸ removeBind_found obj start before),
      fun missing => absent (removeBind_absent missing)⟩

end Sys2Proof
end

section
/-! O27 fails: a copy reads its descriptor as a load does (R184, R185); where a word of that has a correctable error, the read corrects it and
records the error (R332, R407), and the record goes into the log of its partition, which lies in memory (R393, R405). -/

namespace Sys2Proof.Machine

/-- The steward of a group with no bad queue, for which no qcw.bad waits, goes on with its engine instruction (R56, R264). -/
theorem State.engineThen_none {s : State} {t : Thread} {gid : Nat} {g : Group} (steward : s.cur = .steward gid) (group : s.groupOf t = some g)
    (good : ∀ e ∈ g.queues, e.2.bad = false) (waiting : ∀ a, g.asyncFault ≠ some (0x0604, a)) (k : State) : s.engineThen t k = k := by
  have none_bad : g.queues.find? (fun e => e.2.bad) = none := List.find?_eq_none.2 fun e he => by simp [good e he]
  simp only [State.engineThen, steward, group, none_bad]
  split
  · next c a fault =>
    rw [if_neg]
    rintro rfl
    exact waiting a fault
  · rfl

/-- A command of a thread that owes no access acquires nothing that it would wait for (R62). -/
theorem State.acquireFirst_done {s : State} {t : Thread} (owes : t.owesAccess = false) (m : BitVec 13) (k : State → State) :
    s.acquireFirst t m k = k s := by
  simp only [State.acquireFirst, State.performThen_done owes, ite_self]

@[simp] theorem State.finishLong_mem (s : State) (t : Thread) (la : BitVec 4) (clocks : Nat) (ws : List (Dest × BitVec 64)) :
    (s.finishLong t la clocks ws).mem = s.mem := by
  unfold State.finishLong
  split
  · rfl
  · split <;> rfl

@[simp] theorem State.waitFor_mem (s : State) (t : Thread) (y : Why) : (s.waitFor t y).mem = s.mem := by
  unfold State.waitFor
  dsimp only
  split <;> rfl

@[simp] theorem State.sbTake_mem (s : State) (cid : Nat) (range : Option (Nat × Nat × Nat)) : (s.sbTake cid range).mem = s.mem := by
  cases range <;> rfl

/-- Accepting a copy or a gather leaves memory as it is (R187). -/
@[simp] theorem State.acceptCopy_mem (s : State) (t : Thread) (la : BitVec 4) (g : Group) (c : Cmd) : (s.acceptCopy t la g c).mem = s.mem := by
  simp only [State.acceptCopy, State.fresh, apply_ite State.mem, State.waitFor_mem, State.raise_frame, State.plan_frame, State.finishLong_mem,
    State.sbTake_mem, ite_self]

/-- A copy whose descriptor is not refused is accepted in the state that the read of the descriptor has left (R185, R187, R332). -/
theorem execCp_accepts {s v : State} {t : Thread} {f : RegF} {gid : Nat} {g : Group} {p : Place} {d : List (BitVec 64)}
    (executes : s.Executes t f.neg f.pred) (steward : s.cur = .steward gid) (group : s.groupOf t = some g)
    (good : ∀ e ∈ g.queues, e.2.bad = false) (waiting : ∀ a, g.asyncFault ≠ some (0x0604, a)) (owes : t.owesAccess = false)
    (reaches : s.Reaches t .sp (BitVec.ofNat 64 (s.src32 s.cur t f.a).toNat) 32 Acc.load p v)
    (words : d = (List.range 4).map fun i => BitVec.ofNat 64 (v.rdNat { p.loc with key := p.loc.key + 8 * i } 8))
    (accepted : v.cpRefused g d = false) : exec (.cp f) s = .next (v.acceptCopy t f.la g (newCmd .cp t.gid g d f.mod)) := by
  subst words
  rw [exec_cp, execCp, State.act_true executes, State.engineThen_none steward group good waiting]
  simp only [group, State.acquireFirst_done owes, State.descriptor, State.reach_done reaches, accepted, Bool.false_eq_true, if_false]

end Sys2Proof.Machine

namespace Sys2Proof

open Machine

/-- A group on core 0 with 4 KiB of scratchpad. -/
def plainGroup : Group := Group.start 0 0 0 0 0 0 1

/-- The descriptor of a copy of 64 bytes from 0x100 to 0x200 in the scratchpad, with its completion word at 0x300. -/
def plainDescriptor : List (BitVec 64) := [0x200, 0x100, 64, 0x300]

/-- The steward of that group with that descriptor at offset 0. The first word of it has a correctable error, and the partition's log of one
record lies at 0x100 of the first page. -/
def wrongDescriptor : State :=
  { State.reset with
    cur := .steward 0
    threads := [(.steward 0, plainThread)]
    groups := [(0, plainGroup)]
    dies := [(0, { Die.reset with tcache := [(0, [{ page := 0, size := 0, entry := firstPage }])] })]
    parts := [(0, { Part.reset with logVa := 0x100, logN := 1 })]
    mem := [(2 ^ 60 + 1, 2), (2 ^ 60 + 9, 1), (2 ^ 60 + 16, 64), (2 ^ 60 + 25, 3)]
    flaws := [.scratch (2 ^ 58) false] }

/-- The copy of the descriptor at the offset in `s0`, always executed. -/
def plainCopy : RegF := { neg := false, pred := 0, d := 0x94, a := 0, b := 0x94, c := 0x94, la := 0, mod := 0 }

/-- Where the descriptor lies. -/
def descriptorPlace : Place := { loc := spLoc 0 0, cls := 3 }

/-- That state as the read of the descriptor begins. -/
def wrongDescriptorAdmitted : State := wrongDescriptor.admitted plainThread .sp none false

/-- What the read of the descriptor leaves, and the cause that it receives. -/
def wrongDescriptorRead : State × Option (BitVec 32) :=
  wrongDescriptorAdmitted.readFor (wrongDescriptorAdmitted.victimOf wrongDescriptorAdmitted.cur plainThread) 0 descriptorPlace.loc 32

/-- The read of the descriptor passes its checks, nothing holds it back, and it finds nothing that it cannot correct. -/
theorem wrongDescriptorRead_reaches : wrongDescriptor.Reaches plainThread .sp 0 32 Acc.load descriptorPlace wrongDescriptorRead.1 := by
  have cause : wrongDescriptorRead.2 = none := by decide +kernel
  have read : wrongDescriptorRead = (wrongDescriptorRead.1, none) := by rw [← cause]
  have access : wrongDescriptor.access wrongDescriptor.cur plainThread .sp 0 32 Acc.load = .ok descriptorPlace := by
    rw [State.access_sp (g := plainGroup) (by decide) rfl]
    exact if_neg (by decide)
  exact ⟨access, by decide +kernel, (if_pos rfl).trans read⟩

/-- The record of the corrected error stands in memory. -/
theorem wrongDescriptorRead_mem : wrongDescriptorRead.1.mem ≠ wrongDescriptor.mem := by
  decide +kernel

/-- The words of the descriptor in a state. -/
def descriptorWords (s : State) : List (BitVec 64) :=
  (List.range 4).map fun i => BitVec.ofNat 64 (s.rdNat { descriptorPlace.loc with key := descriptorPlace.loc.key + 8 * i } 8)

/-- They are the same before and after the read, and they are not refused. -/
theorem wrongDescriptor_accepted : descriptorWords wrongDescriptor = plainDescriptor ∧ descriptorWords wrongDescriptorRead.1 = plainDescriptor ∧
    wrongDescriptorRead.1.cpRefused plainGroup plainDescriptor = false := by
  decide +kernel

/-- Refutes O27: the `cp` of `wrongDescriptor` is accepted, but the read of its descriptor has written an error record, so it does not leave memory
as it was. -/
theorem not_copies : ¬ Obligations.Copies := by
  unfold Obligations.Copies
  rintro ⟨issue, -⟩
  obtain ⟨before, after, accepted⟩ := wrongDescriptor_accepted
  have executes : wrongDescriptor.Executes plainThread plainCopy.neg plainCopy.pred := ⟨rfl, rfl⟩
  have good : ∀ e ∈ plainGroup.queues, e.2.bad = false := fun e he => absurd he List.not_mem_nil
  have waiting : ∀ a, plainGroup.asyncFault ≠ some (0x0604, a) := fun a fault => nomatch fault
  obtain ⟨-, copies⟩ := issue wrongDescriptor wrongDescriptorRead.1 plainThread plainCopy 0 plainGroup 0 descriptorPlace executes rfl rfl
    (by decide +kernel) ⟨rfl, rfl, rfl, rfl, rfl, rfl, rfl⟩
  obtain ⟨cp, -⟩ := copies good waiting
  obtain ⟨-, taken⟩ := cp wrongDescriptorRead_reaches
  have unrefused : wrongDescriptorRead.1.cpRefused plainGroup (descriptorWords wrongDescriptor) = false := before ▸ accepted
  obtain ⟨u, c, x, next, -, -, -, -, mem, -⟩ := taken unrefused fun c => Nat.zero_lt_succ _
  have accepts := execCp_accepts executes rfl rfl good waiting rfl wrongDescriptorRead_reaches after.symm accepted
  have same := Host.Outcome.next.inj (accepts.symm.trans next)
  rw [← same, State.acceptCopy_mem] at mem
  exact wrongDescriptorRead_mem mem

end Sys2Proof
end


section
/-! What reading leaves alone (R332): a record of an error goes to a page, so the scratchpads and the executing agent are as before. -/

namespace Sys2Proof.Machine

/-! ## Pages lie below the scratchpads -/

theorem pageBytes_le (size : Nat) : pageBytes size ≤ 2 ^ 30 := by
  unfold pageBytes
  split <;> decide

theorem placeOf_key_lt (va : BitVec 64) (e : BitVec 128) : (placeOf va e).loc.key < 2 ^ 60 := by
  have die : homeDie va < 2 ^ 16 := Nat.mod_lt _ (by decide)
  have frame : ptePfn e < 2 ^ 28 := Nat.mod_lt _ (by decide)
  have inside : bits va 47 0 % pageBytes (pteSize e) < pageBytes (pteSize e) := Nat.mod_lt _ (by unfold pageBytes; split <;> decide)
  have page := pageBytes_le (pteSize e)
  simp only [placeOf, dramBase]
  omega

/-- An answer that is a place is none behind a failed check. -/
theorem ok_of_ite_error {c : Prop} [Decidable c] {f : XFail} {e : Except XFail Place} {p : Place}
    (answer : (if c then .error f else e) = .ok p) : e = .ok p := by
  by_cases failed : c
  · rw [if_pos failed] at answer
    cases answer
  · rwa [if_neg failed] at answer

theorem State.gl_key_lt {s : State} {part : Nat} {va : BitVec 64} {want : Want} {p : Place} (page : s.gl part va want = .ok p) :
    p.loc.key < 2 ^ 60 := by
  unfold State.gl at page
  split at page
  · cases page
  · split at page
    · cases page
    · cases ok_of_ite_error (ok_of_ite_error (ok_of_ite_error page))
      exact placeOf_key_lt _ _

/-! ## What writes to pages and records keep -/

/-- `u` has the executing agent of `s` and the bytes of its scratchpads. -/
structure State.KeepsScratch (s u : State) : Prop where
  cur : u.cur = s.cur
  scratch : ∀ k, 2 ^ 60 ≤ k → Sparse.rd u.mem k = Sparse.rd s.mem k

theorem State.KeepsScratch.of_eq {s u : State} (cur : u.cur = s.cur) (mem : u.mem = s.mem) : s.KeepsScratch u :=
  ⟨cur, fun _ _ => by rw [mem]⟩

theorem State.KeepsScratch.refl (s : State) : s.KeepsScratch s := .of_eq rfl rfl

theorem State.KeepsScratch.trans {s u v : State} (h : s.KeepsScratch u) (k : u.KeepsScratch v) : s.KeepsScratch v :=
  ⟨k.cur.trans h.cur, fun n above => (k.scratch n above).trans (h.scratch n above)⟩

theorem State.wrByte_keepsScratch (s : State) {l : Loc} {i : Nat} (below : l.key + i < 2 ^ 60) (b : Byte) :
    s.KeepsScratch (s.wrByte l i b) where
  cur := by rw [s.wrByte_writesOnly l i b]
  scratch k above := by
    unfold State.wrByte
    dsimp only
    rw [Sparse.rd_wr_other (by omega)]
    split
    · rfl
    · exact s.rd_mem_rekey_other _ (by omega)

theorem State.deviceWrite_keepsScratch (part : Nat) (bs : List Byte) :
    ∀ (s : State) (va : BitVec 64), s.KeepsScratch (s.deviceWrite part va bs) := by
  induction bs with
  | nil => exact fun s _ => .refl s
  | cons b r ih =>
    intro s va
    refine State.KeepsScratch.trans ?_ (ih _ _)
    split
    · next page => exact s.wrByte_keepsScratch (State.gl_key_lt page) b
    · exact .refl s

theorem State.log_keepsScratch (s : State) (part : Option Nat) (type die core : Nat) (p18 p20 p28 p30 p38 : BitVec 64) :
    s.KeepsScratch (s.log part type die core p18 p20 p28 p30 p38) := by
  unfold State.log
  dsimp only
  split
  · exact .of_eq rfl rfl
  · split
    · exact .of_eq rfl rfl
    · split
      · exact .of_eq rfl rfl
      · exact .trans (by exact .of_eq rfl rfl) (State.deviceWrite_keepsScratch _ _ _ _)

theorem State.logUnit_keepsScratch (s : State) (type : Nat) (v : Victim) (core row col unit : Nat) (unc : Bool) (ofs : Nat) :
    s.KeepsScratch (s.logUnit type v core row col unit unc ofs) := by
  unfold State.logUnit
  exact s.log_keepsScratch _ _ _ _ _ _ _ _ _

theorem State.mend_keepsScratch (s : State) (x : Site) : s.KeepsScratch (s.mend x) := .of_eq rfl rfl

theorem State.errorIrq_keepsScratch (s : State) (part : Nat) : s.KeepsScratch (s.errorIrq part) := .of_eq rfl rfl

theorem State.coreError_keepsScratch (s : State) (core : Nat) : s.KeepsScratch (s.coreError core) := by
  unfold State.coreError
  dsimp only
  split <;> exact .of_eq rfl rfl

/-! ## Reads -/

/-- A relation between a state and what the read of a unit leaves of it holds for the read of several. -/
theorem readUnits_rel {R : State → State → Prop} (refl : ∀ s, R s s) (trans : ∀ {s u v}, R s u → R u v → R s v)
    (f : State → Nat → State × Bool) (step : ∀ (s : State) (k : Nat), R s (f s k).1) (n : Nat) : ∀ (s : State) (k : Nat), R s (readUnits f k n s).1 := by
  induction n with
  | zero => exact fun s _ => refl s
  | succ n ih => exact fun s k => trans (step s k) (ih _ _)

theorem State.readSpWord_keepsScratch (s : State) (v : Victim) (word : Nat) : s.KeepsScratch (s.readSpWord v word).1 := by
  unfold State.readSpWord
  dsimp only
  split
  · exact ((s.logUnit_keepsScratch _ _ _ _ _ _ _ _).trans (State.errorIrq_keepsScratch _ _)).trans (State.coreError_keepsScratch _ _)
  · split
    · exact (s.mend_keepsScratch _).trans (State.logUnit_keepsScratch _ _ _ _ _ _ _ _ _)
    · exact .refl s

/-- A read of a scratchpad may correct an error and record it, which changes no byte of a scratchpad. -/
theorem State.readFor_keepsScratch (s : State) (v : Victim) (va : BitVec 64) {l : Loc} (bare : l.slot = none) (n : Nat) :
    s.KeepsScratch (s.readFor v va l n).1 := by
  unfold State.readFor
  rw [bare]
  split
  · exact .refl s
  · exact readUnits_rel State.KeepsScratch.refl State.KeepsScratch.trans _ (fun s k => s.readSpWord_keepsScratch v k) _ s _

theorem State.readFor_cur (s : State) (v : Victim) (va : BitVec 64) (l : Loc) (n : Nat) : (s.readFor v va l n).1.cur = s.cur := by
  cases slot : l.slot with
  | none => exact (s.readFor_keepsScratch v va slot n).cur
  | some _ =>
    unfold State.readFor
    rw [slot]
    split
    · rfl
    · exact (readUnits_rel State.RecordsOnly.refl State.RecordsOnly.trans _ (fun s k => s.readSector_recordsOnly v.part va k) _ s _).keepsBinds.cur

theorem State.fetchError_cur (s : State) (core : Nat) : (s.fetchError core).cur = s.cur := by
  unfold State.fetchError
  exact (apply_ite State.cur _ _ _).trans (ite_self s.cur)

/-- A fetch, aborted or not, leaves the same agent executing. -/
theorem State.readFetch_cur (s : State) (v : Victim) (va : BitVec 64) (l : Loc) : (s.readFetch v va l).1.cur = s.cur := by
  unfold State.readFetch
  split
  · rfl
  · split
    · exact (State.fetchError_cur _ _).trans (s.logSlice_recordsOnly _ _ _ _).keepsBinds.cur
    · generalize mended : (if s.flaws.contains (.fetch v.core va false) = true then
        (s.mend (.fetch v.core va false)).logSlice v.part (homeDie va) va false else s) = u
      have same : u.cur = s.cur := by
        rw [← mended]
        split
        · exact ((s.mend_recordsOnly _).trans (State.logSlice_recordsOnly _ _ _ _ _)).keepsBinds.cur
        · rfl
      have read := (u.readFor_cur v va l 8).trans same
      dsimp only
      split
      · next performed => rw [performed] at read; exact (State.fetchError_cur _ _).trans read
      · next performed => rw [performed] at read; exact read

/-- What stands in a scratchpad reads the same. -/
theorem State.KeepsScratch.rdNat {s u : State} (keeps : s.KeepsScratch u) {l : Loc} (bare : l.slot = none) (above : 2 ^ 60 ≤ l.key) (n : Nat) :
    u.rdNat l n = s.rdNat l n := by
  have byte (i : Nat) : u.rdByte l i = s.rdByte l i := by
    simp only [State.rdByte, bare, keeps.scratch _ (Nat.le_add_right_of_le above)]
  simp only [State.rdNat, State.rdBytes, funext byte]

end Sys2Proof.Machine
end

section
/-! O28: branches, the checks of a register target, and the return stack with its spill area (R48, R52, R194, R195, R197). -/

namespace Sys2Proof.Machine

/-! ## The checks of a register target (R195) -/

theorem bits_low_three {w : Nat} (a : BitVec w) : bits a 2 0 = a.toNat % 8 := by
  simp [bits]

theorem isLand_iff {st : Stream} {w : BitVec 64} : isLand st w = true ↔ ∃ f, decode st w = .ok (.land f) := by
  unfold isLand
  split
  · next f word => exact iff_of_true rfl ⟨f, word⟩
  · next other => exact iff_of_false Bool.false_ne_true fun ⟨f, word⟩ => other f word

/-- A failed fetch that is neither a bad entry nor an aborted walk leaves nothing beside the trap. -/
theorem State.noteTarget_other (s : State) (t : Thread) (a : BitVec 64) {c : BitVec 32} (entry : c ≠ 0x0209) (walk : c ≠ 0x020D) :
    s.noteTarget t a c = s := by
  rw [State.noteTarget, if_neg entry, if_neg walk]

theorem State.noteTarget_badEntry (s : State) (t : Thread) (a : BitVec 64) :
    Irq.badEntry (s.partOf t) ∈ (s.noteTarget t a 0x0209).irqs :=
  List.mem_append_right _ (List.mem_singleton.2 rfl)

section
variable {s : State} {t : Thread} {a : BitVec 64} (k : State → State)

theorem State.checkTarget_misaligned (misaligned : a.toNat % 8 ≠ 0) : s.checkTarget t a k = s.trap t 0x0300 a := by
  rw [State.checkTarget, bits_low_three, if_pos misaligned]

variable (aligned : a.toNat % 8 = 0) (walk : s.walkOut a = false)
include aligned walk

theorem State.checkTarget_trap {c : BitVec 32} (page : s.gl (s.partOf t) a Want.ex = .error (.trap c)) :
    s.checkTarget t a k = (s.noteTarget t a c).trap t 0x0301 a := by
  simp [State.checkTarget, bits_low_three, aligned, walk, page]

theorem State.checkTarget_place {p : Place} (page : s.gl (s.partOf t) a Want.ex = .ok p) :
    s.checkTarget t a k = s.fetchTarget t a p.loc k := by
  simp [State.checkTarget, bits_low_three, aligned, walk, page]

end

section
variable {s v : State} {t : Thread} {a : BitVec 64} {l : Loc} (k : State → State) (bus : s.subBusOut l = false)
include bus

theorem State.fetchTarget_aborted (fetch : (s.translate (s.partOf t) a).readFetch (s.victimOf s.cur t) a l = (v, true)) :
    s.fetchTarget t a l k = v.trap t 0x0301 a := by
  simp [State.fetchTarget, bus, fetch]

theorem State.fetchTarget_read (fetch : (s.translate (s.partOf t) a).readFetch (s.victimOf s.cur t) a l = (v, false)) :
    s.fetchTarget t a l k =
      if isLand (whoStream s.cur) (BitVec.ofNat 64 (v.rdNat l 8)) then k v else v.trap t 0x0302 a := by
  have cur : v.cur = s.cur := by
    have read := (s.translate (s.partOf t) a).readFetch_cur (s.victimOf s.cur t) a l
    rw [fetch] at read
    exact read.trans (s.translate_keepsBinds _ _).cur
  simp [State.fetchTarget, bus, fetch, cur]

end

/-- A target on an executable page that holds a `land` is reached. -/
theorem State.checkTarget_land {s v : State} {t : Thread} {a : BitVec 64} {p : Place} {f : RegF} (k : State → State) (aligned : a.toNat % 8 = 0)
    (walk : s.walkOut a = false) (page : s.gl (s.partOf t) a Want.ex = .ok p) (bus : s.subBusOut p.loc = false)
    (fetch : (s.translate (s.partOf t) a).readFetch (s.victimOf s.cur t) a p.loc = (v, false))
    (word : decode (whoStream s.cur) (BitVec.ofNat 64 (v.rdNat p.loc 8)) = .ok (.land f)) : s.checkTarget t a k = k v := by
  rw [State.checkTarget_place k aligned walk page, State.fetchTarget_read k bus fetch, if_pos (isLand_iff.2 ⟨f, word⟩)]

/-! ## The return stack (R48, R197) -/

/-- A spill entry lies in a scratchpad. -/
theorem State.spillLoc_scratch (s : State) (t : Thread) (base i : Nat) : (s.spillLoc t base i).slot = none ∧ 2 ^ 60 ≤ (s.spillLoc t base i).key := by
  have scratch (core ofs : Nat) : (spLoc core ofs).slot = none ∧ 2 ^ 60 ≤ (spLoc core ofs).key :=
    ⟨rfl, by simp only [spLoc, spBaseKey]; omega⟩
  unfold State.spillLoc
  split <;> exact scratch _ _

theorem State.spillThen_write {s : State} {t : Thread} {base i : Nat} (free : s.sbBusy t (s.spillLoc t base i) 8 = false)
    (k : State → Loc → State) : s.spillThen t base i false k = k s (s.spillLoc t base i) := by
  simp [State.spillThen, free]

theorem State.spillThen_read {s v : State} {t : Thread} {base i : Nat} (free : s.sbBusy t (s.spillLoc t base i) 8 = false)
    (read : s.readFor (s.victimOf s.cur t) 0 (s.spillLoc t base i) 8 = (v, none)) (k : State → Loc → State) :
    s.spillThen t base i true k = k v (s.spillLoc t base i) := by
  simp only [State.spillThen, free, Bool.false_eq_true, if_false, if_true, read]

/-- A spill entry that is read without an uncorrectable error holds what it held before. -/
theorem State.rdNat_spill_read {s v : State} {t : Thread} {base i : Nat}
    (read : s.readFor (s.victimOf s.cur t) 0 (s.spillLoc t base i) 8 = (v, none)) :
    v.rdNat (s.spillLoc t base i) 8 = s.rdNat (s.spillLoc t base i) 8 := by
  obtain ⟨bare, above⟩ := s.spillLoc_scratch t base i
  have keeps := s.readFor_keepsScratch (s.victimOf s.cur t) 0 bare 8
  rw [read] at keeps
  exact keeps.rdNat bare above 8

/-- The thread with a return address and the return stack under it. -/
def Thread.pushed (t : Thread) (r : List (BitVec 64)) : Thread := { t with rstack := (t.pc + 8) :: r, depth := t.depth + 1 }

section
variable {s : State} {t : Thread} {target : BitVec 64}

theorem State.call_full (full : t.depth = 16) : s.call t target = s.trap t 0x0303 target := by
  rw [State.call, if_pos (by omega)]

theorem State.call_hardware (room : t.depth < 8) : s.call t target = s.goto (t.pushed t.rstack) [] target := by
  rw [State.call, if_neg (by omega), if_pos room]
  rfl

variable (deep : 8 ≤ t.depth) (room : t.depth < 16)
include deep room

theorem State.call_noSpill (area : s.spillBase s.cur t = none) : s.call t target = s.trap t 0x0303 target := by
  rw [State.call, if_neg (by omega), if_neg (by omega), area]

theorem State.call_spills {b : Nat} (area : s.spillBase s.cur t = some b) (free : s.sbBusy t (s.spillLoc t b (t.depth - 8)) 8 = false) :
    s.call t target = (s.wrNat (s.spillLoc t b (t.depth - 8)) 8 (t.rstack.getLastD 0).toNat).goto (t.pushed t.rstack.dropLast) [] target := by
  rw [State.call, if_neg (by omega), if_neg (by omega), area]
  exact State.spillThen_write free _

end

/-- `o` is a call in the state `v`: what the depth and the spill area make of it. -/
def State.Calls (v : State) (t : Thread) (target : BitVec 64) (b : Nat) (l : Loc) (o : Out) : Prop :=
  (t.depth = 16 → o = .next (v.trap t 0x0303 target)) ∧
    (t.depth < 8 → o = .next (v.goto (t.pushed t.rstack) [] target)) ∧
    (8 ≤ t.depth → t.depth < 16 → v.spillBase v.cur t = none → o = .next (v.trap t 0x0303 target)) ∧
    (8 ≤ t.depth → t.depth < 16 → v.spillBase v.cur t = some b → l = v.spillLoc t b (t.depth - 8) → v.sbBusy t l 8 = false →
      o = .next ((v.wrNat l 8 (t.rstack.getLastD 0).toNat).goto (t.pushed t.rstack.dropLast) [] target))

theorem State.call_calls (v : State) (t : Thread) (target : BitVec 64) (b : Nat) (l : Loc) : v.Calls t target b l (.next (v.call t target)) := by
  refine ⟨fun full => ?_, fun room => ?_, fun deep room area => ?_, fun deep room area place free => ?_⟩
  · rw [State.call_full full]
  · rw [State.call_hardware room]
  · rw [State.call_noSpill deep room area]
  · subst place
    rw [State.call_spills deep room area free]

/-! ## The instructions -/

section
variable {s v : State} {t u : Thread} {f : RegF}

theorem execBra_eq {g : ImmF} (transfers : s.Transfers t u g.neg g.pred) : execBra g s = .next (s.goto u [] (branchTarget u g)) :=
  State.transfer_true transfers _

theorem execFbra_eq {g : ImmF} (transfers : s.Transfers t u g.neg g.pred) : execFbra g s = .next (s.goto u [] (branchTarget u g)) :=
  State.transfer_true transfers _

theorem execCall_eq {g : ImmF} (transfers : s.Transfers t u g.neg g.pred) : execCall g s = .next (s.call u (branchTarget u g)) :=
  State.transfer_true transfers _

theorem execBrx_eq (transfers : s.Transfers t u f.neg f.pred) :
    execBrx f s = .next (s.checkTarget u (s.src64 s.cur u f.a) fun s' => s'.goto u [] (s.src64 s.cur u f.a)) :=
  State.transfer_true transfers _

theorem execCallx_eq (transfers : s.Transfers t u f.neg f.pred) :
    execCallx f s = .next (s.checkTarget u (s.src64 s.cur u f.a) fun s' => s'.call u (s.src64 s.cur u f.a)) :=
  State.transfer_true transfers _

variable (transfers : s.Transfers t u f.neg f.pred)
include transfers

/-- `brx` meets the checks of its target in order (R195). -/
theorem execBrx_checks {a : BitVec 64} (target : a = s.src64 s.cur u f.a) :
    (a.toNat % 8 ≠ 0 → execBrx f s = .next (s.trap u 0x0300 a)) ∧
      (a.toNat % 8 = 0 → s.walkOut a = false →
        (∀ c, s.gl (s.partOf u) a Want.ex = .error (.trap c) → execBrx f s = .next ((s.noteTarget u a c).trap u 0x0301 a)) ∧
          ∀ p v bad, s.gl (s.partOf u) a Want.ex = .ok p → s.subBusOut p.loc = false →
            (s.translate (s.partOf u) a).readFetch (s.victimOf s.cur u) a p.loc = (v, bad) →
            execBrx f s = .next (if bad then v.trap u 0x0301 a
              else if isLand (whoStream s.cur) (BitVec.ofNat 64 (v.rdNat p.loc 8)) then v.goto u [] a else v.trap u 0x0302 a)) := by
  subst target
  rw [execBrx_eq transfers]
  refine ⟨fun misaligned => ?_, fun aligned walk => ⟨fun c page => ?_, fun p v bad page bus fetch => ?_⟩⟩
  · rw [State.checkTarget_misaligned _ misaligned]
  · rw [State.checkTarget_trap _ aligned walk page]
  · rw [State.checkTarget_place _ aligned walk page]
    cases bad with
    | true => rw [State.fetchTarget_aborted _ bus fetch]; rfl
    | false => rw [State.fetchTarget_read _ bus fetch]; rfl

theorem execRet_empty (bottom : u.depth = 0) : execRet f s = .next (s.trap u 0x0304 0) := by
  rw [execRet, State.transfer_true transfers]
  cases u.rstack with
  | nil => rfl
  | cons x r => exact congrArg Host.Outcome.next (if_pos bottom)

variable {x : BitVec 64} {r : List (BitVec 64)} (stack : u.rstack = x :: r)
include stack

theorem execRet_hardware (above : 0 < u.depth) (shallow : u.depth ≤ 8) :
    execRet f s = .next (s.goto { u with rstack := r, depth := u.depth - 1 } [] x) := by
  rw [execRet, State.transfer_true transfers, stack]
  dsimp only
  rw [if_neg (by omega), if_pos (by omega)]

theorem execRet_refills {b : Nat} (deep : 8 < u.depth) (area : s.spillBase s.cur u = some b)
    (free : s.sbBusy u (s.spillLoc u b (u.depth - 9)) 8 = false)
    (read : s.readFor (s.victimOf s.cur u) 0 (s.spillLoc u b (u.depth - 9)) 8 = (v, none)) :
    execRet f s = .next (v.goto
      { u with rstack := r ++ [BitVec.ofNat 64 (s.rdNat (s.spillLoc u b (u.depth - 9)) 8)], depth := u.depth - 1 } [] x) := by
  rw [execRet, State.transfer_true transfers, stack]
  dsimp only
  rw [if_neg (by omega), if_neg (by omega), area, show u.depth - 1 - 8 = u.depth - 9 by omega]
  dsimp only
  rw [State.spillThen_read free read, State.rdNat_spill_read read]

end

end Sys2Proof.Machine

namespace Sys2Proof

open Machine

/-- Settles O28: branches and the checks of `brx`, then the calls and `ret` at each depth. -/
theorem branchesAndCalls : Obligations.BranchesAndCalls := by
  refine ⟨fun s t u f g a p => ⟨fun plain ws => congrArg _ (Thread.complete_plain plain ws a s.clock),
      fun transfers => ⟨execBra_eq transfers, execFbra_eq transfers⟩, fun transfers entry => ?_,
      fun executes => State.act_true executes _⟩,
    fun s t u f g x target b l p i => ⟨fun transfers entry => ?_, fun v transfers entry aligned walk page bus fetch word => ?_,
      fun transfers => ⟨execRet_empty transfers, fun r stack => ⟨execRet_hardware transfers stack, fun deep area place free v read => ?_⟩⟩⟩⟩
  · obtain ⟨misaligned, checks⟩ := execBrx_checks transfers entry
    refine ⟨misaligned, fun aligned walk => ?_⟩
    obtain ⟨trap, reads⟩ := checks aligned walk
    refine ⟨fun c page => ⟨trap c page, s.noteTarget_other u a, fun bad => bad ▸ s.noteTarget_badEntry u a⟩, fun v bad page bus fetch => ?_⟩
    have read := reads p v bad page bus fetch
    refine ⟨fun aborted => by rw [exec_brx, read, if_pos aborted], fun performed => ⟨fun i word => ?_, fun other => ?_⟩⟩
    · rw [exec_brx, read, performed, if_neg Bool.false_ne_true, if_pos (isLand_iff.2 ⟨i, word⟩)]
    · rw [exec_brx, read, performed, if_neg Bool.false_ne_true, if_neg fun land => (isLand_iff.1 land).elim other]
  · subst entry
    rw [exec_call, execCall_eq transfers]
    exact s.call_calls u _ b l
  · subst entry
    rw [exec_callx, execCallx_eq transfers, State.checkTarget_land _ aligned walk page bus fetch word]
    exact v.call_calls u _ b l
  · subst place
    exact execRet_refills transfers stack deep area free read

end Sys2Proof
end

section
/-! O30: `mfsr` and `mtsr` (R206, R207). -/

namespace Sys2Proof.Machine

/-! ## The selector -/

theorem bits_single {w : Nat} (m : BitVec w) (i : Nat) : bits m i i = (m.getLsbD i).toNat := by
  rw [bits, BitVec.getLsbD, Nat.toNat_testBit, show i + 1 - i = 1 by omega, Nat.pow_one]

theorem selWide_eq (m : BitVec 13) : selWide m = m.getLsbD 10 := by
  rw [selWide, bits_single]
  cases m.getLsbD 10 <;> rfl

/-- An index beyond the registers of a lane thread is none of space 0. -/
theorem selectorOk_beyond (write : Bool) {m : BitVec 13} (space : bits m 12 11 = 0) (beyond : 0x93 < bits m 7 0) : selectorOk write m = false := by
  simp [selectorOk, space, beyond]

/-- The shapes of both, whose MOD is to be a selector. -/
theorem mfsr_shape (st : Stream) (f : RegF) : ∃ h, regShape st (.mfsr f) = some (h, f) ∧ h.modOk = selectorOk false f.mod := ⟨_, rfl, rfl⟩

theorem mtsr_shape (st : Stream) (f : RegF) : ∃ h, regShape st (.mtsr f) = some (h, f) ∧ h.modOk = selectorOk true f.mod := ⟨_, rfl, rfl⟩

/-- A word whose MOD is not as its shape asks is illegal. -/
theorem illegal_of_mod {st : Stream} {i : Instr} {h : Shape} {f : RegF} (shape : regShape st i = some (h, f)) (mod : h.modOk = false) :
    illegal st i ≠ none := by
  unfold illegal
  rw [shape]
  dsimp only [Shape.cause]
  rw [mod, Bool.not_false, Bool.or_true, Bool.true_or, if_pos rfl]
  split <;> exact Option.some_ne_none _

/-! ## The origin -/

theorem State.originOf_none {s : State} {t : Thread} (none : t.origin = none) : s.originOf t = .none := by
  rw [State.originOf, none]

theorem State.originOf_some {s : State} {t u : Thread} {o : Who} (origin : t.origin = some o) (thread : s.thread? o = some u) :
    s.originOf t = some (o, u) := by
  simp only [State.originOf, origin, thread]

/-! ## The instructions -/

/-- The result of `mfsr`: 64 bits with WIDE, 32 without. -/
def State.mfsrPut (s : State) (t : Thread) (f : RegF) (v : BitVec 64) : Out :=
  .next (s.done t (if f.mod.getLsbD 10 = true then dst64 s.cur f.d v else dst32 s.cur f.d v))

/-- The value that `mtsr` writes. -/
def State.mtsrValue (s : State) (t : Thread) (f : RegF) : BitVec 64 :=
  if f.mod.getLsbD 10 = true then s.src64 s.cur t f.a else (s.src32 s.cur t f.a).setWidth 64

section
variable {s : State} {t : Thread} {f : RegF} (executes : s.Executes t f.neg f.pred)
include executes

theorem execMfsr_own (space : bits f.mod 12 11 = 2) : execMfsr f s = s.mfsrPut t f (ownItem (s.groupOf t) (bits f.mod 7 0)) := by
  simp only [execMfsr, State.act_true executes, selSpace, space, selWide_eq, selIndex, State.mfsrPut, if_true]

theorem execMfsr_orphan (none : t.origin = none) (space : bits f.mod 12 11 ≠ 2) : execMfsr f s = .next (s.trap t 0x0306 0) := by
  simp only [execMfsr, State.act_true executes, selSpace, if_neg space, State.originOf_none none]

theorem execMtsr_orphan (none : t.origin = none) : execMtsr f s = .next (s.trap t 0x0306 0) := by
  simp only [execMtsr, State.act_true executes, State.originOf_none none]

variable {o : Who} {u : Thread} (origin : t.origin = some o) (thread : s.thread? o = some u)
include origin thread

/-- What `mfsr` reads of an origin: an item of space 1, or a register inside the origin's file. -/
theorem execMfsr_origin (space : bits f.mod 12 11 ≠ 2) : execMfsr f s =
    if bits f.mod 12 11 = 1 then s.mfsrPut t f (s.originItem o u (bits f.mod 7 0))
    else if originIndexOk o (f.mod.getLsbD 10) (bits f.mod 7 0) then s.mfsrPut t f (originReg o u (f.mod.getLsbD 10) (bits f.mod 7 0))
    else .next (s.trap t 0x0307 0) := by
  simp only [execMfsr, State.act_true executes, selSpace, if_neg space, selWide_eq, selIndex, State.originOf_some origin thread, State.mfsrPut,
    apply_ite Host.Outcome.next]

/-- What `mtsr` writes of an origin. -/
theorem execMtsr_origin : execMtsr f s =
    if bits f.mod 12 11 = 1 then .next ((s.setThread o (setOriginItem u (bits f.mod 7 0) (s.mtsrValue t f))).done t [])
    else if originIndexOk o (f.mod.getLsbD 10) (bits f.mod 7 0) then
      .next ((s.setThread o (setOriginReg o u (f.mod.getLsbD 10) (bits f.mod 7 0) (s.mtsrValue t f))).done t [])
    else .next (s.trap t 0x0307 0) := by
  simp only [execMtsr, State.act_true executes, selSpace, selWide_eq, selIndex, State.originOf_some origin thread, State.mtsrValue,
    apply_ite Host.Outcome.next]

theorem execSr_item (space : bits f.mod 12 11 = 1) :
    execMfsr f s = s.mfsrPut t f (s.originItem o u (bits f.mod 7 0)) ∧
      execMtsr f s = .next ((s.setThread o (setOriginItem u (bits f.mod 7 0) (s.mtsrValue t f))).done t []) := by
  constructor
  · rw [execMfsr_origin executes origin thread (by omega), if_pos space]
  · rw [execMtsr_origin executes origin thread, if_pos space]

variable (space : bits f.mod 12 11 = 0)
include space

theorem execSr_reg (inside : originIndexOk o (f.mod.getLsbD 10) (bits f.mod 7 0) = true) :
    execMfsr f s = s.mfsrPut t f (originReg o u (f.mod.getLsbD 10) (bits f.mod 7 0)) ∧
      execMtsr f s = .next ((s.setThread o (setOriginReg o u (f.mod.getLsbD 10) (bits f.mod 7 0) (s.mtsrValue t f))).done t []) := by
  constructor
  · rw [execMfsr_origin executes origin thread (by omega), if_neg (by omega), if_pos inside]
  · rw [execMtsr_origin executes origin thread, if_neg (by omega), if_pos inside]

/-- An index outside the origin's file, or misaligned for it, traps. -/
theorem execSr_outside (outside : ¬ originIndexOk o (f.mod.getLsbD 10) (bits f.mod 7 0) = true) :
    execMfsr f s = .next (s.trap t 0x0307 0) ∧ execMtsr f s = .next (s.trap t 0x0307 0) := by
  constructor
  · rw [execMfsr_origin executes origin thread (by omega), if_neg (by omega), if_neg outside]
  · rw [execMtsr_origin executes origin thread, if_neg (by omega), if_neg outside]

end

/-! ## The files of an origin (R206) -/

/-- A lane thread has the 148 registers up to 0x93, in pairs from an even one. -/
theorem originIndexOk_lane {o : Who} (lane : isSteward o = false) (wide : Bool) (ix : Nat) :
    originIndexOk o wide ix = true ↔ ix ≤ 0x93 ∧ (wide = true → ix % 2 = 0) := by
  cases wide <;> simp [originIndexOk, lane]

/-- A steward has 64 registers. -/
theorem originIndexOk_steward {o : Who} (steward : isSteward o = true) (wide : Bool) (ix : Nat) : originIndexOk o wide ix = true ↔ ix ≤ 0x3F := by
  simp [originIndexOk, steward]

theorem originReg_lane {o : Who} (lane : isSteward o = false) (u : Thread) (wide : Bool) (ix : Nat) :
    originReg o u wide ix = if wide = true then Sparse.rd u.regs (ix + 1) ++ Sparse.rd u.regs ix else u.content (.reg ix) := by
  simp [originReg, lane, Thread.content]

theorem originReg_steward {o : Who} (steward : isSteward o = true) (u : Thread) (wide : Bool) (ix : Nat) :
    originReg o u wide ix = if wide = true then u.content (.sreg ix) else ((u.content (.sreg ix)).setWidth 32).setWidth 64 := by
  simp only [originReg, steward, if_true, Thread.content]

theorem setOriginReg_lane {o : Who} (lane : isSteward o = false) (u : Thread) (wide : Bool) (ix : Nat) (v : BitVec 64) :
    setOriginReg o u wide ix v = if wide = true then (u.put (.reg ix) v).put (.reg (ix + 1)) (v >>> 32) else u.put (.reg ix) v := by
  simp only [setOriginReg, lane, Bool.false_eq_true, if_false]

theorem setOriginReg_steward {o : Who} (steward : isSteward o = true) (u : Thread) (wide : Bool) (ix : Nat) (v : BitVec 64) :
    setOriginReg o u wide ix v =
      u.put (.sreg ix) (if wide = true then v else (Sparse.rd u.sregs ix).extractLsb' 32 32 ++ v.setWidth 32) := by
  simp only [setOriginReg, steward, if_true]

/-- The item ORIGIN: whether the origin is a steward, its core, and of a lane thread its lane and slot (R207). -/
theorem State.originItem_origin (s : State) (o : Who) (u : Thread) : s.originItem o u 6 = BitVec.ofNat 64 (2 ^ 22 * s.coreOf o u +
    if isSteward o = true then 2 ^ 31 else 2 ^ 15 * u.lane + 2 ^ 11 * u.slot) := by
  refine congrArg (BitVec.ofNat 64) ?_
  cases isSteward o with
  | true => exact (by omega : 2 ^ 31 + s.coreOf o u * 2 ^ 22 + 0 = 2 ^ 22 * s.coreOf o u + 2 ^ 31)
  | false => exact (by omega : 0 + s.coreOf o u * 2 ^ 22 + (u.lane * 2 ^ 15 + u.slot * 2 ^ 11) =
      2 ^ 22 * s.coreOf o u + (2 ^ 15 * u.lane + 2 ^ 11 * u.slot))

/-- The item of the flags: %bereaved, %join.bereaved and PASS (R207). -/
theorem State.originItem_flags (s : State) (o : Who) {u : Thread} {r : TrapRec} (record : u.trapRec = some r) :
    s.originItem o u 5 = BitVec.ofNat 64 ((if u.bereaved = true then 1 else 0) + (if u.joinBereaved = true then 2 else 0) +
      if r.pass = true then 4 else 0) := by
  simp only [State.originItem, record] <;> rfl

theorem State.originItem_faddr (s : State) (o : Who) {u : Thread} {r : TrapRec} (record : u.trapRec = some r) : s.originItem o u 3 = r.faddr := by
  simp only [State.originItem, record]

theorem State.originItem_skip (s : State) (o : Who) {u : Thread} {r : TrapRec} (record : u.trapRec = some r) :
    s.originItem o u 7 = r.skip.setWidth 64 := by
  simp only [State.originItem, record]

theorem setOriginItem_flags {u : Thread} {r : TrapRec} (record : u.trapRec = some r) (v : BitVec 64) : setOriginItem u 5 v =
    { u with bereaved := v.getLsbD 0, joinBereaved := v.getLsbD 1, trapRec := some { r with pass := v.getLsbD 2 } } := by
  simp only [setOriginItem, record, Option.map_some]

end Sys2Proof.Machine

namespace Sys2Proof

open Machine

/-- Settles O30: the own items, the origin's items one by one, and its registers by the kind of the origin. -/
theorem controlRegisters : Obligations.ControlRegisters := by
  rintro s t f sp ix wide a executes rfl rfl rfl rfl
  simp only [exec_mfsr, exec_mtsr]
  refine ⟨fun g space group => ?_, fun orphan space => ⟨execMfsr_orphan executes orphan space, execMtsr_orphan executes orphan⟩,
    fun space beyond st => ?_,
    fun o u r origin thread record => ⟨fun space => ?_, fun space lane => ?_, fun space steward => ?_⟩⟩
  · have own := execMfsr_own executes space
    rw [group] at own
    refine ⟨fun item => ?_, fun item => ?_, fun item => ?_, fun item => ?_⟩ <;> (rw [own, item]; rfl)
  · obtain ⟨_, reads, readMod⟩ := mfsr_shape st f
    obtain ⟨_, writes, writeMod⟩ := mtsr_shape st f
    exact ⟨illegal_of_mod reads (readMod.trans (selectorOk_beyond false space beyond)),
      illegal_of_mod writes (writeMod.trans (selectorOk_beyond true space beyond))⟩
  · obtain ⟨read, write⟩ := execSr_item executes origin thread space
    refine ⟨fun item => ?_, fun item => ?_, fun item => ?_, fun item => ?_, fun item => ?_, fun item => ?_, fun item => ?_, fun item => ?_⟩ <;>
      rw [item] at read write
    case refine_4 => exact s.originItem_faddr o record ▸ read
    case refine_5 => exact read
    case refine_6 => exact ⟨s.originItem_flags o record ▸ read, setOriginItem_flags record (s.mtsrValue t f) ▸ write⟩
    case refine_7 => exact s.originItem_origin o u ▸ read
    case refine_8 => exact s.originItem_skip o record ▸ read
    all_goals exact ⟨read, write⟩
  · have lanes (inside : bits f.mod 7 0 ≤ 0x93) (even : f.mod.getLsbD 10 = true → bits f.mod 7 0 % 2 = 0) :=
      execSr_reg executes origin thread space ((originIndexOk_lane lane _ _).2 ⟨inside, even⟩)
    simp only [originReg_lane lane, setOriginReg_lane lane] at lanes
    refine ⟨fun narrow inside => ?_, fun wide inside even => ?_, fun outside => execSr_outside executes origin thread space ?_⟩
    · have regs := lanes inside fun wide => absurd (narrow.symm.trans wide) Bool.false_ne_true
      rwa [if_neg (Bool.eq_false_iff.1 narrow), if_neg (Bool.eq_false_iff.1 narrow)] at regs
    · have regs := lanes inside fun _ => even
      rwa [if_pos wide, if_pos wide] at regs
    · rw [originIndexOk_lane lane]
      rintro ⟨inside, even⟩
      rcases outside with beyond | ⟨wide, odd⟩
      · omega
      · have := even wide
        omega
  · have stewards (inside : bits f.mod 7 0 ≤ 0x3F) := execSr_reg executes origin thread space ((originIndexOk_steward steward _ _).2 inside)
    simp only [originReg_steward steward, setOriginReg_steward steward] at stewards
    refine ⟨fun wide inside => ?_, fun narrow inside => ?_, fun beyond => execSr_outside executes origin thread space ?_⟩
    · have regs := stewards inside
      rwa [if_pos wide, if_pos wide] at regs
    · have regs := stewards inside
      rwa [if_neg (Bool.eq_false_iff.1 narrow), if_neg (Bool.eq_false_iff.1 narrow)] at regs
    · rw [originIndexOk_steward steward]
      omega

end Sys2Proof
end

section
/-! Window queries (R219 to R249): what a read of a query or of one of its windows finds after a change, and that queueing an item, closing a
window and counting change queries and turns alone. -/

namespace Sys2Proof.Machine

/-! ## Reading a query and its windows after a change -/

theorem State.query_updQuery {s : State} {q : Nat} {x : Query} (query : KV.at? s.queries q = some x) (f : Query → Query) :
    KV.at? (s.updQuery q f).queries q = some (f x) := by
  rw [State.updQuery, KV.at?_upd_same, query, Option.map_some]

theorem State.query_updWin {s : State} {q : Nat} {x : Query} (query : KV.at? s.queries q = some x) (w : Nat) (f : Win → Win) :
    KV.at? (s.updWin q w f).queries q = some { x with wins := KV.upd x.wins w f } :=
  State.query_updQuery query _

theorem KV.at?_upd_some {κ α : Type} [DecidableEq κ] {m : KV κ α} {k : κ} {v : α} (found : KV.at? m k = some v) (f : α → α) :
    KV.at? (KV.upd m k f) k = some (f v) := by
  rw [KV.at?_upd_same, found, Option.map_some]

/-- The own window of a thread stands in its query, and that among the queries. -/
theorem State.ownWin_some {s : State} {t : Thread} {q w : Nat} {x : Query} {y : Win} (own : s.ownWin t = some (q, w, x, y)) :
    KV.at? s.queries q = some x ∧ KV.at? x.wins w = some y := by
  unfold State.ownWin at own
  split at own
  · cases own
  · split at own
    · cases own
    · split at own
      · cases own
        exact ⟨‹_›, ‹_›⟩
      · cases own

/-! ## Queries and turns alone -/

/-- `u` is `s` but for the queries and the turns that wait. -/
def State.QueriesOnly (s u : State) : Prop := u = { s with queries := u.queries, turns := u.turns }

theorem State.QueriesOnly.refl (s : State) : s.QueriesOnly s := rfl

theorem State.QueriesOnly.trans {s u v : State} (h : s.QueriesOnly u) (k : u.QueriesOnly v) : s.QueriesOnly v := by
  unfold State.QueriesOnly at *
  rw [k, h]

theorem State.QueriesOnly.frame {s u : State} (h : s.QueriesOnly u) : u.threads = s.threads ∧ u.mem = s.mem := by
  rw [h]
  exact ⟨rfl, rfl⟩

theorem State.QueriesOnly.ite {s u v : State} {c : Prop} [Decidable c] (yes : s.QueriesOnly u) (no : s.QueriesOnly v) :
    s.QueriesOnly (if c then u else v) := by
  split
  · exact yes
  · exact no

theorem State.updQuery_queriesOnly (s : State) (q : Nat) (f : Query → Query) : s.QueriesOnly (s.updQuery q f) := rfl

theorem State.updWin_queriesOnly (s : State) (q w : Nat) (f : Win → Win) : s.QueriesOnly (s.updWin q w f) := rfl

/-- A prompt adds turns, if anything (R230). -/
theorem State.prompt_turns (s : State) (q w : Nat) : ∃ turns, s.prompt q w = { s with turns := turns } := by
  unfold State.prompt
  repeat' split
  all_goals exact ⟨_, rfl⟩

theorem State.prompt_queriesOnly (s : State) (q w : Nat) : s.QueriesOnly (s.prompt q w) := by
  obtain ⟨turns, eq⟩ := s.prompt_turns q w
  rw [eq]
  rfl

theorem State.append_queriesOnly (s : State) (q w : Nat) (i : Item) : s.QueriesOnly (s.append q w i) := by
  have queued := (s.updWin_queriesOnly q w fun y => { y with queue := y.queue ++ [i] }).trans (State.prompt_queriesOnly _ q w)
  unfold State.append
  split
  · exact .refl s
  · split
    · exact .ite (s.updQuery_queriesOnly _ _) queued
    · exact queued

theorem State.closeWin_queriesOnly (s : State) (q w : Nat) : s.QueriesOnly (s.closeWin q w) := by
  unfold State.closeWin
  split
  · exact .refl s
  · split
    · exact .refl s
    · exact .ite (.refl s) (.ite (s.updWin_queriesOnly _ _ _) ((s.updWin_queriesOnly _ _ _).trans (State.append_queriesOnly _ _ _ _)))

theorem State.countTrigger_queriesOnly (s : State) (q w : Nat) : s.QueriesOnly (s.countTrigger q w) := by
  unfold State.countTrigger
  split
  · exact .refl s
  · split
    · exact .refl s
    · exact .ite (s.closeWin_queriesOnly q w) (.refl s)

theorem State.appendRec_queriesOnly (s : State) (q w : Nat) (r : Rec) : s.QueriesOnly (s.appendRec q w r) :=
  ((s.updWin_queriesOnly q w _).trans (State.append_queriesOnly _ q w _)).trans (State.countTrigger_queriesOnly _ q w)

/-! ## Closing a window (R228) -/

section
variable {s : State} {q w : Nat} {x : Query} {y : Win} (query : KV.at? s.queries q = some x) (win : KV.at? x.wins w = some y)
include query win

/-- A window that has closed stays as it is. -/
theorem State.closeWin_closed (closed : y.closed = true) : s.closeWin q w = s := by
  simp only [State.closeWin, query, win, closed, if_true]

/-- A close that nothing holds back is queued at once. -/
theorem State.closeWin_free (openWin : y.closed = false) (free : x.closeWaits w y = false) :
    s.closeWin q w = (s.updWin q w fun z => { z with closed := true, timer := 0, closeHeld := false }).append q w .close := by
  simp only [State.closeWin, query, win, openWin, free, Bool.false_eq_true, if_false]

end

end Sys2Proof.Machine
end

section
/-! O33: the window instructions (R243 to R248). -/

namespace Sys2Proof.Machine

/-! ## What a `wrecv` takes (R230, R243) -/

theorem Win.next?_first {y : Win} {t : Thread} {i : Item} {r : List Item} (alone : t.earlier.any Outstanding.receives = false)
    (running : y.returned = false) (queue : y.queue = i :: r) : y.next? t = some i := by
  simp [Win.next?, alone, running, queue]

theorem Win.next?_returned {y : Win} {t : Thread} (alone : t.earlier.any Outstanding.receives = false) (returned : y.returned = true) :
    y.next? t = some .close := by
  simp [Win.next?, alone, returned]

theorem Win.next?_empty {y : Win} {t : Thread} (running : y.returned = false) (queue : y.queue = []) : y.next? t = none := by
  simp [Win.next?, running, queue]

/-- A record's delivery, outside a restore: its payload words, the end predicate clear, and the record registers. -/
theorem Item.writes_record (c : Rec) (payload : Nat) (kd : BitVec 8) : (Item.record c).writes payload kd false =
    (List.range 16).map (fun n => (Dest.reg (payload + n), (c.word n).setWidth 64)) ++
      [(.pred kd.toNat, 0), (.recTs, c.ts), (.recSeq, c.seq), (.recFlags, c.flags.setWidth 64)] := by
  simp [Item.writes]

/-- A plain thread whose instruction waits for its event has one window open, which is executed again (R10, R230). -/
theorem Thread.open_redo {t : Thread} (plain : t.Plain) (flushed : List Nat) (oid : Nat) (word : BitVec 64) (la : Nat) (ds : List Dest) (clock : Nat) :
    ∃ o, (({ t with flushed := flushed } : Thread).open_ oid word la .redo [] ds clock).wins = [o] ∧ o.state = .redo := by
  obtain ⟨wins, redo, -⟩ := plain
  simp [Thread.open_, redo, Thread.noteIssue, wins, Thread.closeWindows, Outstanding.closes]

section
variable {s : State} {t : Thread} {f : RegF} (executes : s.Executes t f.neg f.pred)
include executes

/-! ## Threads without a window or a query -/

theorem exec_noWindow (none : s.ownWin t = none) :
    ∀ i ∈ [Instr.wrecv f, .wemit f, .wclose f, .wmret f, .wtimer f], exec i s = .next (s.trap t 0x0500 0) := by
  intro i member
  simp only [List.mem_cons, List.not_mem_nil, or_false] at member
  rcases member with rfl | rfl | rfl | rfl | rfl
  · rw [exec_wrecv, execWrecv, State.act_true executes, none]
  · rw [exec_wemit, execWemit, State.act_true executes, none]
  · rw [exec_wclose, execWclose, State.act_true executes, none]
  · rw [exec_wmret, execWmret, State.act_true executes, none]
  · rw [exec_wtimer, execWtimer, State.act_true executes, none]

theorem exec_noQuery (none : s.queryOf t = none) :
    ∀ i ∈ [Instr.wcloseId f, .wcloseEnd f, .wstat f], exec i s = .next (s.trap t 0x0500 0) := by
  intro i member
  simp only [List.mem_cons, List.not_mem_nil, or_false] at member
  rcases member with rfl | rfl | rfl
  · rw [exec_wcloseId, execWcloseId, State.act_true executes, none]
  · rw [exec_wcloseEnd, execWcloseEnd, State.act_true executes, none]
  · rw [exec_wstat, execWstat, State.act_true executes, none]

/-! ## Threads of a window -/

section
variable {q w : Nat} {x : Query} {y : Win} (own : s.ownWin t = some (q, w, x, y))
include own

theorem execWrecv_next {i : Item} (steady : t.mergeDepth = none) (next : y.next? t = some i) : execWrecv f s =
    .next (((s.updWin q w fun z => z.deliver i s.time t.receivesMore).finishLong t f.la 30 (i.writes x.block.payload f.d y.restored)).prompt q w) := by
  rw [execWrecv, State.act_true executes, own]
  simp only [steady, Option.isSome_none, Bool.false_eq_true, if_false, next]

theorem execWrecv_pending (steady : t.mergeDepth = none) (next : y.next? t = none) : execWrecv f s =
    .next ((s.updWin q w fun z => { z with receiving := true }).openWindow t f.la .redo [] (recvDests x.block.payload f.d)) := by
  rw [execWrecv, State.act_true executes, own]
  simp only [steady, Option.isSome_none, Bool.false_eq_true, if_false, next]

/-- A pane's second emit traps (R226). -/
theorem execWemit_again (pane : y.pane = true) (emitted : y.emits ≠ 0) : execWemit f s = .next (s.trap t 0x0501 0) := by
  rw [execWemit, State.act_true executes, own]
  simp only [pane, emitted, ne_eq, not_false_eq_true, decide_true, Bool.and_true, if_true]

theorem execWemit_released {u : State} (may : (y.pane && decide (y.emits ≠ 0)) = false) (releases : s.ReleasesAll t u)
    (still : u.ownWin t = some (q, w, x, y)) : execWemit f s =
      .next (if y.pane then u.emitPane t q w y (s.srcRegs s.cur t f.a (bits f.mod 3 0 + 1))
        else u.emitSink t q w x y (s.srcRegs s.cur t f.a (bits f.mod 3 0 + 1))) := by
  rw [execWemit, State.act_true executes, own]
  simp only [may, Bool.false_eq_true, if_false, State.releaseFirst_done releases, still]

theorem execWclose_own : execWclose f s = .next ((s.closeWin q w).done t (dstPred f.d (!y.closed))) := by
  rw [execWclose, State.act_true executes, own]

theorem execWmret_early {d : Nat} (merging : t.mergeDepth = some d) (inside : t.depth ≠ d) : execWmret f s = .next (s.trap t 0x0503 0) := by
  rw [execWmret, State.act_true executes, own, merging]
  simp only [inside, ne_eq, not_false_eq_true, if_true]

theorem execWmret_resumes {os : List Outstanding} {pc : BitVec 64} {v : Thread} (plain : t.Plain) (merging : t.mergeDepth = some t.depth)
    (suspended : y.suspended = some (os, pc))
    (resumed : v = { t with pc := pc, wins := os, mergeDepth := none, readySince := s.clock, status := .ready }) : execWmret f s =
      .next (((s.setThread s.cur { v with status := v.windowStatus }).updWin q w fun z => { z with suspended := none, receiving := true }).prompt q w) := by
  rw [execWmret, State.act_true executes, own, merging]
  simp only [ne_eq, not_true_eq_false, if_false, suspended, Thread.complete_plain plain, Thread.after, Thread.putAll_nil, plain.1, List.nil_append,
    resumed]

theorem execWtimer_closed (closed : y.closed = true) : execWtimer f s = .next (s.done t []) := by
  rw [execWtimer, State.act_true executes, own]
  simp only [closed, if_true]

theorem execWtimer_open (openWin : y.closed = false) : execWtimer f s =
    .next (if s.src64 s.cur t f.a ≠ 0 ∧ s.src64 s.cur t f.a ≤ s.time then
        ((s.done t []).updWin q w fun z => { z with timer := 0 }).append q w (.timer (s.src64 s.cur t f.a))
      else (s.done t []).updWin q w fun z => { z with timer := s.src64 s.cur t f.a }) := by
  rw [execWtimer, State.act_true executes, own]
  simp only [openWin, Bool.false_eq_true, if_false]
  rfl

end

/-! ## Threads of a query's launch -/

section
variable {q : Nat} {x : Query} (own : s.queryOf t = some (q, x))
include own

theorem execWcloseId_unknown (unknown : x.openNamed (s.src32 s.cur t f.a) (s.src64 s.cur t f.b) = none) :
    execWcloseId f s = .next (s.done t (dstPred f.d false)) := by
  rw [execWcloseId, State.act_true executes, own]
  simp only [unknown]

theorem execWcloseId_named {w : Nat} (named : x.openNamed (s.src32 s.cur t f.a) (s.src64 s.cur t f.b) = some w) :
    execWcloseId f s = .next ((s.closeWin q w).done t (dstPred f.d true)) := by
  rw [execWcloseId, State.act_true executes, own]
  simp only [named]

theorem execWcloseEnd_eq : execWcloseEnd f s = .next ((if x.streamOpen then
    s.updQuery q fun x => { x with streamOpen := false, ending := true, scan := none } else s).done t (dstPred f.d x.streamOpen)) := by
  rw [execWcloseEnd, State.act_true executes, own]

theorem execWstat_eq : execWstat f s = .next (if 13 < (s.src32 s.cur t f.a).toNat then s.trap t 0x0502 0
    else s.done t (dst64 s.cur f.d (x.stat (s.src32 s.cur t f.a).toNat s.time))) := by
  rw [execWstat, State.act_true executes, own]

end

end

/-! ## Emitting (R226, R244) -/

/-- A sink entry of a window thread, once the sink has room and neither its page nor its sub-bus keeps it. -/
theorem State.emitSink_writes {u b : State} {t : Thread} {q w : Nat} {x : Query} {y : Win} {words : List (BitVec 32)} {c p : Place}
    (cons : u.gl x.part x.block.sinkCons Want.rd = .ok c) (prod : u.gl x.part x.block.sinkProd Want.wr = .ok p)
    (room : sinkRoom x.block.sinkN (u.rdWord p.loc) (u.rdWord c.loc) ≠ 0) (sound : u.sinkFault x (u.rdWord p.loc) = none)
    (there : u.sinkOut x (u.rdWord p.loc) = false) (read : u.readSink t x c.loc p.loc = (b, none)) :
    ∃ v keys, (v, keys) = b.sinkWrite q x (emitRec y t b.time words) p.loc (u.rdWord p.loc) ∧
      u.emitSink t q w x y words = ((State.updWin v q w fun z => { z with emits := z.emits + 1 }).done t []).serve keys := by
  refine ⟨_, _, rfl, ?_⟩
  simp only [State.emitSink, cons, prod, room, sound, there, read, Bool.false_eq_true, if_false]
  rfl

/-- A pane thread's emit is a pane record of its pane and key. -/
theorem State.emitPane_record (u : State) (t : Thread) (q w : Nat) (y : Win) (words : List (BitVec 32)) : ∃ r : Rec,
    u.emitPane t q w y words = ((u.updQuery q fun x => { x with pane := x.pane ++ [(w, r, 0)] }).updWin q w fun z => { z with emits := 1 }).done t [] ∧
      r.ts = y.last ∧ r.seq = BitVec.ofNat 64 y.num ∧ r.key = y.key ∧ r.len = 4 * words.length ∧ r.flags = 1 :=
  ⟨_, rfl, rfl, rfl, rfl, rfl, rfl⟩

/-! ## Statistics (R248) -/

/-- The counters that the reeve keeps as such. -/
theorem Query.stat_counter (x : Query) (time : BitVec 64) {i : Nat} (kept : i ∈ [0, 1, 2, 3, 6, 7, 8, 11, 12, 13]) :
    x.stat i time = (KV.at? x.counters i).getD 0 := by
  unfold Query.stat
  split
  · exact absurd kept (by decide)
  · exact absurd kept (by decide)
  · exact absurd kept (by decide)
  · exact absurd kept (by decide)
  · rfl

end Sys2Proof.Machine

namespace Sys2Proof

open Machine

/-- Settles O33: each window instruction by the equation of its case. -/
theorem windowInstructions : Obligations.WindowInstructions := by
  refine ⟨fun s t f q w x y executes => ⟨exec_noWindow executes, fun own => ?_, exec_noQuery executes, fun own => ?_⟩,
    fun s t f q w x y executes => ⟨fun own => ?_, fun own i index => ?_⟩⟩
  · obtain ⟨query, win⟩ := State.ownWin_some own
    refine ⟨fun steady alone running i r queue => ?_, fun steady alone returned => ?_, fun plain steady running queue _ _ => ?_,
      execWemit_again executes own, fun u pane first releases still => ?_, fun u c p window releases still cons prod room sound there b read => ?_,
      execWclose_own executes own, State.closeWin_closed query win, fun openWin free _ _ => State.closeWin_free query win openWin free⟩
    · refine ⟨30, _, execWrecv_next executes own steady (Win.next?_first alone running queue), rfl, ?_, ?_⟩
      · rintro c rfl
        exact Item.writes_record c _ _
      · rintro rfl
        rfl
    · exact ⟨30, execWrecv_next executes own steady (Win.next?_returned alone returned)⟩
    · obtain ⟨o, wins, state⟩ := Thread.open_redo plain ((s.updWin q w fun z => { z with receiving := true }).flushMarks s.cur) s.ids s.word f.la.toNat
        (recvDests x.block.payload f.d) s.clock
      exact ⟨_, _, o, _, _, execWrecv_pending executes own steady (Win.next?_empty running queue), State.thread?_setThread_same _ _ _, wins, state,
        State.query_updWin query w _, KV.at?_upd_some win _, rfl⟩
    · obtain ⟨r, emits, ts, seq, key, len, flags⟩ := u.emitPane_record t q w y (s.srcRegs s.cur t f.a (bits f.mod 3 0 + 1))
      refine ⟨r, ?_, ts, seq, key, ?_, flags⟩
      · rw [exec_wemit, execWemit_released executes own (by simp [first]) releases still, if_pos pane, emits]
      · rw [len, State.srcRegs, List.length_map, List.length_range]
    · obtain ⟨v, keys, written, emits⟩ := State.emitSink_writes (y := y) (words := s.srcRegs s.cur t f.a (bits f.mod 3 0 + 1)) cons prod room sound
        there read
      refine ⟨v, keys, written, ?_⟩
      rw [exec_wemit, execWemit_released executes own (by simp [window]) releases still, if_neg (by simp [window]), emits]
  · refine ⟨execWcloseId_unknown executes own, execWcloseId_named executes own, fun running => ?_, fun ended => ?_, fun beyond => ?_⟩
    · rw [exec_wcloseEnd, execWcloseEnd_eq executes own, if_pos running, running]
    · rw [exec_wcloseEnd, execWcloseEnd_eq executes own, if_neg (by simp [ended]), ended]
    · rw [exec_wstat, execWstat_eq executes own, if_pos beyond]
  · refine ⟨fun d => execWmret_early executes own, fun os pc v plain merging suspended => execWmret_resumes executes own plain merging suspended,
      execWtimer_closed executes own, fun openWin ahead => ?_, fun openWin armed passed => ?_⟩
    · rw [exec_wtimer, execWtimer_open executes own openWin, if_neg ?_]
      rintro ⟨armed, passed⟩
      exact ahead.elim armed (BitVec.not_lt.2 passed)
    · rw [exec_wtimer, execWtimer_open executes own openWin, if_pos ⟨armed, passed⟩]
  · have counter (known : ¬ 13 < i) : exec (.wstat f) s = .next (s.done t (dst64 s.cur f.d (x.stat i s.time))) := by
      rw [exec_wstat, execWstat_eq executes own, ← index, if_neg known]
    refine ⟨?_, ?_, ?_, ?_, fun kept => ?_⟩
    case refine_5 =>
      rw [counter, x.stat_counter s.time kept]
      simp only [List.mem_cons, List.not_mem_nil, or_false] at kept
      omega
    all_goals
      rintro rfl
      exact counter (by decide)

end Sys2Proof
end

section
/-! O48: the placing of a record (R223 to R228, R391). -/

namespace Sys2Proof.Machine

/-! ## The first record of an ingest queue (R223) -/

section
variable {s : State} {q : Nat} {x : Query} {r : Rec} {rest : List Rec}

theorem execRecordPlacement_waits (query : KV.at? s.queries q = some x) (ingest : x.ingest = r :: rest) (full : s.mayPlace x = false) :
    exec (.recordPlacement q) s = .next s := by
  simp only [exec_recordPlacement, execRecordPlacement, query, ingest, full, Bool.false_eq_true, if_false]

theorem execRecordPlacement_places (query : KV.at? s.queries q = some x) (ingest : x.ingest = r :: rest) (room : s.mayPlace x = true) :
    exec (.recordPlacement q) s = .next ((s.placeFirst q x r rest).refill q) := by
  simp only [exec_recordPlacement, execRecordPlacement, query, ingest, room, if_true]

/-- A record of LEN 0 ends the stream (R391). -/
theorem State.placeFirst_end (mark : r.len = 0) : s.placeFirst q x r rest =
    s.updQuery q fun x => { x with ingest := rest, streamOpen := false, ending := x.ending || x.streamOpen } := by
  rw [State.placeFirst, if_pos mark]

theorem State.placeFirst_stale (bears : r.len ≠ 0) (bounded : x.block.stale ≠ 0) (old : x.block.stale < s.time.toNat - r.ts.toNat) :
    s.placeFirst q x r rest = s.updQuery q fun x => { x with ingest := rest }.bump 1 1 := by
  rw [State.placeFirst, if_neg bears]
  exact if_pos ⟨bounded, old⟩

/-- A record that is not stale brings the watermark forward, and is then late or placed (R223 steps 2 to 7). -/
theorem State.placeFirst_fresh (bears : r.len ≠ 0) (fresh : x.block.stale = 0 ∨ s.time.toNat - r.ts.toNat ≤ x.block.stale) {v : State} {z : Query}
    (advanced : v = (s.updQuery q fun x => { x with tsMax := if x.tsMax < r.ts then r.ts else x.tsMax }).advanceMark q)
    (query : KV.at? v.queries q = some z) : s.placeFirst q x r rest =
      if z.block.kind ≠ 0 ∧ r.ts < z.w then v.updQuery q fun z => { z with ingest := rest }.bump 2 1
      else v.placeRec q z { r with key := x.block.keyOf r } := by
  subst advanced
  have kept : ¬(x.block.stale ≠ 0 ∧ x.block.stale < s.time.toNat - r.ts.toNat) := by omega
  rw [State.placeFirst, if_neg bears]
  simp only [kept, if_false, query]

end

/-! ## The watermark (R225) -/

/-- A change of a query depends only on what it makes of the query that is there. -/
theorem State.updQuery_congr {s : State} {q : Nat} {x : Query} (query : KV.at? s.queries q = some x) {f g : Query → Query} (same : f x = g x) :
    s.updQuery q f = s.updQuery q g := by
  have upd : ∀ m : KV Nat Query, KV.at? m q = some x → KV.upd m q f = KV.upd m q g := by
    intro m there
    induction m with
    | nil => rfl
    | cons e r ih =>
      obtain ⟨k, z⟩ := e
      by_cases here : k = q
      · simp only [KV.at?, here, if_true, Option.some.injEq] at there
        simp only [KV.upd, here, if_true, there, same]
      · simp only [KV.at?, here, if_false] at there
        simp only [KV.upd, here, if_false, ih there]
  rw [State.updQuery, State.updQuery, upd s.queries query]

/-- No window closes that the predicate does not pick. -/
theorem State.closeAll_none {s : State} {q : Nat} {x : Query} (query : KV.at? s.queries q = some x) {p : Win → Bool}
    (none : ∀ e ∈ x.wins, p e.2 = false) : s.closeAll q p = s := by
  have picked : x.wins.filter (fun e => p e.2) = [] := List.filter_eq_nil_iff.2 fun e member => by simp [none e member]
  simp only [State.closeAll, query, picked]
  rfl

/-- Where no trigger fires, bringing the watermark forward changes it alone. -/
theorem State.advanceMark_quiet {s : State} {q : Nat} {x : Query} (query : KV.at? s.queries q = some x)
    (quiet : ∀ e ∈ x.wins, x.block.triggered e.2 (x.watermark s.time) = false) :
    s.advanceMark q = s.updQuery q fun x => { x with w := BitVec.ofNat 64 (x.watermark s.time) } := by
  simp only [State.advanceMark, query]
  rw [State.closeAll_none (State.query_updQuery query _) quiet]
  exact State.updQuery_congr query rfl

/-! ## Delivery to a window whose thread does not wait (R228, R230) -/

section
variable {s : State} {q w : Nat} {x : Query} {y : Win} (query : KV.at? s.queries q = some x) (win : KV.at? x.wins w = some y)
include query win

theorem State.prompt_idle (idle : y.receiving = false) : s.prompt q w = s := by
  simp only [State.prompt, query, win, idle, Bool.not_false, Bool.or_true, if_true]

theorem State.countTrigger_time (time : x.block.kind ≠ 0) : s.countTrigger q w = s := by
  simp only [State.countTrigger, query, win, time, false_and, if_false]

theorem State.append_idle (alone : x.merge = none) (idle : y.receiving = false) (i : Item) :
    s.append q w i = s.updWin q w fun y => { y with queue := y.queue ++ [i] } := by
  simp only [State.append, query, alone]
  exact State.prompt_idle (State.query_updWin query w _) (KV.at?_upd_some win _) idle

/-- On a time query a record that is appended is counted, and is the last of its window's queue. -/
theorem State.appendRec_idle (alone : x.merge = none) (idle : y.receiving = false) (time : x.block.kind ≠ 0) (r : Rec) :
    s.appendRec q w r = (s.updWin q w fun y => { y with count := y.count + 1 }).updWin q w fun y => { y with queue := y.queue ++ [.record r] } := by
  have counted := State.query_updWin query w fun y => { y with count := y.count + 1 }
  have there := KV.at?_upd_some win fun y => { y with count := y.count + 1 }
  rw [State.appendRec, State.append_idle counted there alone idle]
  exact State.countTrigger_time (State.query_updWin counted w _) (KV.at?_upd_some there _) time

end

/-! ## Placement (R223, R224) -/

section
variable {s : State} {q w : Nat} {x : Query} {y : Win} (query : KV.at? s.queries q = some x)
include query

theorem State.deliverTo_single (single : x.block.batch = false) (r : Rec) :
    s.deliverTo q [w] r = (s.updWin q w fun y => y.widen r.ts).appendRec q w r := by
  simp only [State.deliverTo, List.foldl_cons, List.foldl_nil, State.query_updWin query, single, Bool.false_eq_true, if_false]

/-- A record of one open window of a time query counts as placed and is delivered to that window. -/
theorem State.placeFixed_member {n : Nat} {r : Rec} (time : x.block.kind = 1) (whole : x.block.panes = false)
    (contained : x.containing r = ([n], none)) (named : x.winNamed r.key false n = some (w, y)) (openWin : y.closed = false) :
    s.placeFixed q x r = ((s.updQuery q fun x => (x.bump 0 1).bump 3 0).deliverTo q [w] r, true) := by
  have takes : x.takes r.key false n = true := by simp [Query.takes, named, openWin]
  have timed : ((x.bump 0 1).bump 3 0).block.kind ≠ 0 := fun count => absurd (time.symm.trans count) (by decide)
  simp only [State.placeFixed, contained, List.filter_cons, List.filter_nil, takes, if_true, List.map_cons, List.map_nil, List.append_nil,
    State.birthAll, query, named, Bool.not_true, Bool.false_eq_true, if_false, whole, List.isEmpty_cons, Bool.false_and, Bool.or_self,
    List.filterMap_cons, List.filterMap_nil]
  exact congrArg (fun v => (State.deliverTo v q [w] r, true)) (State.updQuery_congr query (if_neg timed))

/-- The record then leaves the ingest queue, and is the last of its window's. -/
theorem State.placeRec_member {n : Nat} {r : Rec} (win : KV.at? x.wins w = some y) (time : x.block.kind = 1) (whole : x.block.panes = false)
    (single : x.block.batch = false) (alone : x.merge = none) (contained : x.containing r = ([n], none))
    (named : x.winNamed r.key false n = some (w, y)) (openWin : y.closed = false) (idle : y.receiving = false) :
    ∃ z m, KV.at? (s.placeRec q x r).queries q = some z ∧ KV.at? z.wins w = some m ∧
      m.queue = y.queue ++ [.record r] ∧ m.count = y.count + 1 ∧ z.ingest = x.ingest.drop 1 := by
  have gap : x.block.kind ≠ 2 := fun gap => absurd (time.symm.trans gap) (by decide)
  have count : x.block.kind ≠ 0 := fun count => absurd (time.symm.trans count) (by decide)
  have placed := State.query_updQuery query fun x => (x.bump 0 1).bump 3 0
  have widened := State.query_updWin placed w fun y => y.widen r.ts
  have there := KV.at?_upd_some win fun y => y.widen r.ts
  have counted := State.query_updWin widened w fun y => { y with count := y.count + 1 }
  have still := KV.at?_upd_some there fun y => { y with count := y.count + 1 }
  have queued := State.query_updWin counted w fun y => { y with queue := y.queue ++ [.record r] }
  rw [State.placeRec, if_neg gap, State.placeFixed_member query time whole contained named openWin, State.deliverTo_single placed single,
    State.appendRec_idle widened there alone idle count]
  exact ⟨_, _, State.query_updQuery queued _, KV.at?_upd_some still _, rfl, rfl, rfl⟩

end

end Sys2Proof.Machine

namespace Sys2Proof

open Machine

/-- Settles O48: the cases of a record one by one, the quiet watermark, and a record of one open window through its placement and delivery. -/
theorem recordsPlaced : Obligations.RecordsPlaced := by
  refine ⟨fun s q x r rest query ingest => ⟨execRecordPlacement_waits query ingest, fun room mark => ?_, fun room bears bounded old => ?_,
    fun room bears fresh v z advanced after => ⟨fun timed late => ?_, fun place => ?_⟩⟩,
    fun s q x query => ⟨rfl, fun quiet => ?_⟩, fun s q w n x y r query time whole single alone contained named win openWin idle =>
      State.placeRec_member query win time whole single alone contained named openWin idle⟩
  · rw [execRecordPlacement_places query ingest room, State.placeFirst_end mark]
  · rw [execRecordPlacement_places query ingest room, State.placeFirst_stale bears bounded old]
  · rw [execRecordPlacement_places query ingest room, State.placeFirst_fresh bears fresh advanced after, if_pos ⟨timed, late⟩]
  · rw [execRecordPlacement_places query ingest room, State.placeFirst_fresh bears fresh advanced after, if_neg ?_]
    rintro ⟨timed, late⟩
    exact place.elim timed (BitVec.not_le.2 late)
  · rw [exec_timeTermDue, execTimeTermDue, State.advanceMark_quiet query quiet]

end Sys2Proof
end

section
/-! What the end of a lane thread and the question whether a group ends leave alone (R12 to R14, R201). -/

namespace Sys2Proof.Machine

/-- Changing the records of a keyed list brings none to a key that has none. -/
theorem KV.at?_map_none {κ α : Type} [DecidableEq κ] {m : KV κ α} {k : κ} {f : κ × α → κ × α} (keys : ∀ e, (f e).1 = e.1)
    (absent : KV.at? m k = none) : KV.at? (m.map f) k = none := by
  induction m with
  | nil => rfl
  | cons e r ih =>
    obtain ⟨a, v⟩ := e
    by_cases here : a = k
    · simp [KV.at?, here] at absent
    · simp only [KV.at?, here, if_false] at absent
      have other : (f (a, v)).1 ≠ k := by rwa [keys]
      simpa only [List.map_cons, KV.at?, other, if_false] using ih absent

/-- `u` has the memory and the queries of `s`, and no thread that `s` has not. -/
structure State.Thins (s u : State) : Prop where
  mem : u.mem = s.mem
  queries : u.queries = s.queries
  absent : ∀ w, s.thread? w = none → u.thread? w = none

theorem State.Thins.of_eq {s u : State} (mem : u.mem = s.mem) (queries : u.queries = s.queries) (threads : u.threads = s.threads) : s.Thins u :=
  ⟨mem, queries, fun w absent => by rwa [State.thread?, threads]⟩

theorem State.Thins.refl (s : State) : s.Thins s := .of_eq rfl rfl rfl

theorem State.Thins.trans {s u v : State} (h : s.Thins u) (k : u.Thins v) : s.Thins v :=
  ⟨k.mem.trans h.mem, k.queries.trans h.queries, fun w absent => k.absent w (h.absent w absent)⟩

theorem State.updGroup_thins (s : State) (g : Nat) (f : Group → Group) : s.Thins (s.updGroup g f) := .of_eq rfl rfl rfl

theorem State.wakeAll_thins (s : State) (p : Who → Thread → Bool) : s.Thins (s.wakeAll p) where
  mem := rfl
  queries := rfl
  absent _ := KV.at?_map_none fun e => by split <;> rfl

theorem State.rejoinCheck_thins (s : State) (gid n : Nat) : s.Thins (s.rejoinCheck gid n) := by
  unfold State.rejoinCheck
  split
  · exact .refl s
  · split
    · exact .refl s
    · dsimp only
      split
      · exact .refl s
      · refine (s.updGroup_thins gid _).trans ⟨rfl, rfl, fun _ => KV.at?_map_none fun e => ?_⟩
        split
        · split <;> rfl
        · rfl

theorem State.leaveSet_thins (s : State) (gid tid n : Nat) (loss : Bool) : s.Thins (s.leaveSet gid tid n loss) := by
  unfold State.leaveSet
  split
  · exact .refl s
  · exact (s.updGroup_thins gid _).trans (State.rejoinCheck_thins _ gid n)

theorem State.barrierCheck_thins (s : State) (gid n : Nat) : s.Thins (s.barrierCheck gid n) := by
  unfold State.barrierCheck
  split
  · exact .refl s
  · split
    · exact .refl s
    · split
      · exact .refl s
      · exact (s.updGroup_thins gid _).trans (State.wakeAll_thins _ _)

theorem State.laneGone_thins (s : State) (gid : Nat) (t : Thread) : s.Thins (s.laneGone gid t) := by
  unfold State.laneGone
  have sets := foldl_rel State.Thins.refl State.Thins.trans (fun s n => s.leaveSet gid t.tid.toNat n true)
    (fun s n => s.leaveSet_thins gid t.tid.toNat n true) [t.j0, t.j1, t.j2, t.j3] s
  have barriers := foldl_rel State.Thins.refl State.Thins.trans (fun s n => s.barrierCheck gid n) (fun s n => s.barrierCheck_thins gid n)
    (List.range 16)
  exact sets.trans ((State.updGroup_thins _ gid _).trans (((State.updGroup_thins _ gid _).trans (State.wakeAll_thins _ _)).trans
    ((State.wakeAll_thins _ _).trans (barriers _))))

/-- Asking a query's groups whether they end dates turns, and changes no thread (R14). -/
theorem State.askQueryEnd_threads (s : State) (q : Nat) : (s.askQueryEnd q).threads = s.threads :=
  foldl_rel (R := fun s u => u.threads = s.threads) (fun _ => rfl) (fun h k => k.trans h)
    (fun s (e : Nat × Group) => s.askEnd e.1) (fun _ _ => rfl) (s.queryGroups q) s

end Sys2Proof.Machine
end

section
/-! O49: windows between records: folding and restoring, timers and batches (R228, R235 to R237, R247, R314). -/

namespace Sys2Proof.Machine

/-! ## Folding (R235) -/

section
variable {s : State} {q w : Nat} {x : Query} {y : Win} (query : KV.at? s.queries q = some x) (win : KV.at? x.wins w = some y)
include query win

theorem State.foldWin_busy (busy : s.foldable x w y = false) : s.foldWin q w = s := by
  simp only [State.foldWin, query, win, busy, Bool.not_false, if_true]

theorem State.foldWin_foldable {who : Who} {t : Thread} {o : Outstanding} (thread : y.thread = some who) (there : s.thread? who = some t)
    (entry : t.receivingEntry = some o) (foldable : s.foldable x w y = true) : s.foldWin q w = s.foldThread q w x who t o := by
  simp only [State.foldWin, query, win, foldable, Bool.not_true, Bool.false_eq_true, if_false, thread, there, entry]

end

/-- With no fold entry free the fold is refused and counted (R235). -/
theorem State.foldThread_refused {s : State} {q w : Nat} {x : Query} {who : Who} {t : Thread} {o : Outstanding} (full : x.freeFold = none) :
    s.foldThread q w x who t o = (s.updQuery q fun x => x.bump 12 1).updWin q w fun y => { y with refused := s.time } := by
  simp only [State.foldThread, full]

/-- A fold whose release completes puts the thread into its entry (R235, R236). -/
theorem State.foldThread_released {s v : State} {q w n k : Nat} {x : Query} {who : Who} {t : Thread} {o : Outstanding} (free : x.freeFold = some n)
    (quarter : quarterOf who t = some k) (flushed : s.flush (s.coreOf who t) k who = v) (drained : v.drainHeld (s.coreOf who t) k = false)
    (sound : v.drainFailure (s.coreOf who t) k who = none) : s.foldThread q w x who t o = v.putFold q w x n who t o := by
  simp only [State.foldThread, free, quarter, flushed, drained, Bool.false_eq_true, if_false, sound]

/-- The reeve's own words are free values, and drawing them changes nothing else. -/
theorem State.foldHeader_free (n : Nat) (s : State) : ∃ k, (State.foldHeader n s).1 = { s with free := k } := by
  induction n generalizing s with
  | zero => exact ⟨s.free, rfl⟩
  | succ n ih => exact ih { s with free := s.free + 1 }

/-- The fold entry of a thread. -/
def Thread.foldEntry (t : Thread) (b : WinBlock) (n : Nat) (o : Outstanding) : FoldSt :=
  { pc := t.pc, slot := n, wait := o, preds := t.preds, srCount := t.srCount, state := stateWords b t }

/-- Past the writing of the entry to memory, a fold changes its window, and its thread goes as at an `exit`. -/
theorem State.putFold_eq (v : State) (q w : Nat) (x : Query) (n : Nat) (who : Who) (t : Thread) (o : Outstanding) : ∃ u : State, u.queries = v.queries ∧
    v.putFold q w x n who t o =
      ((u.updWin q w fun y => { y with thread := none, fold := some (t.foldEntry x.block n o) }).delThread who).laneGone t.gid t := by
  have header := State.foldHeader_free 8 v
  unfold State.putFold
  generalize State.foldHeader 8 v = drawn at header ⊢
  obtain ⟨c, head⟩ := drawn
  obtain ⟨k, rfl⟩ := header
  exact ⟨_, by rw [State.deviceWrite_writesOnly], rfl⟩

/-- A folded thread has left its slot, and its window holds its entry (R235). -/
theorem State.putFold_spec {v : State} {q w : Nat} {z : Query} {m : Win} (query : KV.at? v.queries q = some z) (win : KV.at? z.wins w = some m)
    (x : Query) (n : Nat) (who : Who) (t : Thread) (o : Outstanding) : (v.putFold q w x n who t o).thread? who = none ∧
      ∃ a, KV.at? (v.putFold q w x n who t o).queries q = some a ∧
        KV.at? a.wins w = some { m with thread := none, fold := some (t.foldEntry x.block n o) } := by
  obtain ⟨u, queries, eq⟩ := v.putFold_eq q w x n who t o
  have gone := State.laneGone_thins ((u.updWin q w fun y => { y with thread := none, fold := some (t.foldEntry x.block n o) }).delThread who) t.gid t
  rw [← eq] at gone
  have folded := State.query_updWin (queries ▸ query) w fun y => { y with thread := none, fold := some (t.foldEntry x.block n o) }
  exact ⟨gone.absent who (State.thread?_delThread_same _ _), _, (congrArg (KV.at? · q) gone.queries).trans folded, KV.at?_upd_some win _⟩

/-! ## Restoring (R236) -/

theorem State.makeRoom_free {s : State} {q : Nat} (free : (s.birthSlot q).isSome = true) : s.makeRoom q = s := if_pos free

/-- A restored thread stands in the slot that a birth would claim, as it was folded. -/
theorem State.restoreWin_restores {s : State} {q w gid tid lane slot : Nat} {x : Query} {y : Win} {g : Group} {f : FoldSt}
    (query : KV.at? s.queries q = some x) (win : KV.at? x.wins w = some y) (fold : y.fold = some f)
    (free : s.birthSlot q = some (gid, g, tid, lane, slot)) : ∃ t, (s.restoreWin q w).thread? (.lane gid tid) = some t ∧
      t.pc = f.pc ∧ t.preds = f.preds ∧ t.srCount = f.srCount ∧ t.wins = [f.wait] ∧ t.lane = lane ∧ t.slot = slot ∧ t.win = some (q, w) ∧
      t.winStart = y.start ∧ t.regs = Sparse.wrList [] x.block.stateBase (f.state.take x.block.stateCnt) := by
  simp only [State.restoreWin, query, win, fold, State.makeRoom_free (Option.isSome_of_eq_some free), free]
  rw [State.thread?, State.askQueryEnd_threads, (State.prompt_queriesOnly _ q w).frame.1]
  exact ⟨_, State.thread?_setThread_same _ _ _, rfl, rfl, rfl, rfl, rfl, rfl, rfl, rfl, rfl⟩

/-! ## Timers (R247) -/

section
variable {s : State} {q w : Nat} {x : Query} {y : Win} (query : KV.at? s.queries q = some x) (win : KV.at? x.wins w = some y)
include query win

theorem State.timerDue_early (early : y.timer = 0 ∨ s.time < y.timer) : s.timerDue q w = s := by
  simp only [State.timerDue, query, win, early, if_true]

theorem State.timerDue_passed (armed : y.timer ≠ 0) (passed : y.timer ≤ s.time) :
    s.timerDue q w = (s.updWin q w fun z => { z with timer := 0 }).append q w (.timer y.timer) := by
  have due : ¬(y.timer = 0 ∨ s.time < y.timer) := fun early => early.elim armed (BitVec.not_lt.2 passed)
  simp only [State.timerDue, query, win, due, if_false]

theorem execBellWheelDue_eq : exec (.bellWheelDue q w) s =
    exec (.windowTimerExpiry q w) (if x.block.triggered y (x.watermark s.time) then s.closeWin q w else s) := by
  simp only [exec_bellWheelDue, execBellWheelDue, query, win]
  rfl

end

/-! ## Batches (R237) -/

/-- A batch of one record for one window is completed with padding records that have its TS, SEQ and key. -/
theorem State.flushBatch_single {s : State} {q w : Nat} {x : Query} {r p : Rec} (query : KV.at? s.queries q = some x) (batch : x.batch = [(r, [w])])
    (padding : p = { payload := [0, 0, 0, 0], ts := r.ts, seq := r.seq, key := r.key, len := 4, flags := 2 }) : s.flushBatch q =
      ((((r :: List.replicate (x.block.batchN - 1) p).foldl (fun s r => s.append q w (.record r))
        ((s.updQuery q fun x => { x with batch := [] }).updWin q w fun y => { y with count := y.count + 1 })).countTrigger q w)).releaseCloses q := by
  subst padding
  have windows : sortNats (eachOnce [w]) = [w] := rfl
  simp [State.flushBatch, query, batch, windows]

end Sys2Proof.Machine

namespace Sys2Proof

open Machine

/-- Settles O49: a fold refused or put into its entry, a restore, a timer that is early or passed, and a batch of one record. -/
theorem windowsBetweenRecords : Obligations.WindowsBetweenRecords := by
  refine ⟨fun s v q w n k x z y m who t o query win thread there entry => ⟨fun busy => ?_, fun foldable full => ?_,
      fun foldable free quarter flushed drained sound query' win' => ?_⟩,
    fun s q w gid tid lane slot x y g f query win fold free => ⟨s.restoreWin q w, ?_⟩,
    fun s q w x y query win => ⟨fun early => ?_, fun armed passed => ?_, fun quiet => ?_, fun fires => ?_⟩,
    fun s q w x r p query batch padding => ?_⟩
  · rw [exec_fold, execFold, State.foldWin_busy query win busy]
  · rw [exec_fold, execFold, State.foldWin_foldable query win thread there entry foldable, State.foldThread_refused full]
  · obtain ⟨left, a, folded, there'⟩ := State.putFold_spec query' win' x n who t o
    refine ⟨_, a, _, t.foldEntry x.block n o, ?_, left, folded, there', rfl, rfl, rfl, rfl, rfl, rfl, rfl, rfl, rfl⟩
    rw [exec_fold, execFold, State.foldWin_foldable query win thread there entry foldable,
      State.foldThread_released free quarter flushed drained sound]
  · obtain ⟨t, restored⟩ := State.restoreWin_restores query win fold free
    exact ⟨t, rfl, restored⟩
  · rw [exec_windowTimerExpiry, execWindowTimerExpiry, State.timerDue_early query win early]
  · rw [exec_windowTimerExpiry, execWindowTimerExpiry, State.timerDue_passed query win armed passed]
  · rw [execBellWheelDue_eq query win, quiet]
    rfl
  · rw [execBellWheelDue_eq query win, fires]
    rfl
  · rw [exec_batchTimeout, execBatchTimeout, State.flushBatch_single query batch padding]

end Sys2Proof
end

section
/-! O50: merges and pane records (R226, R227, R232), the scan, the frames and the end of a stream (R221, R222, R234, R332, R391). -/

namespace Sys2Proof.Machine

/-! ## Which step a merge takes (R232) -/

section
variable {s : State} {q : Nat} {x : Query} {m : MergeSt} (query : KV.at? s.queries q = some x)
include query

theorem execMerge_none (none : x.merge = none) : exec (.merge q) s = .next s := by
  simp only [exec_merge, execMerge, query, none]

variable (merge : x.merge = some m)
include merge

section
variable {a b : Win} (old : KV.at? x.wins m.old = some a) (young : KV.at? x.wins m.young = some b)
include old young

theorem execMerge_unready (unready : s.mergeReady a = false ∨ s.mergeReady b = false) : exec (.merge q) s = .next s := by
  have waits : (!s.mergeReady a || !s.mergeReady b) = true := by
    rcases unready with unready | unready <;> simp [unready]
  simp only [exec_merge, execMerge, query, merge, old, young, waits, if_true]

variable (oldReady : s.mergeReady a = true) (youngReady : s.mergeReady b = true)
include oldReady youngReady

theorem execMerge_folded (folded : a.fold ≠ none) : exec (.merge q) s = .next (s.restoreWin q m.old) := by
  simp only [exec_merge, execMerge, query, merge, old, young, oldReady, youngReady, Bool.not_true, Bool.or_self, Bool.false_eq_true, if_false,
    Option.isSome_iff_ne_none.2 folded, if_true]

/-- The older window being resident, the merge takes place unless another merge handler runs in its group. -/
theorem execMerge_resident {who : Who} {t : Thread} (resident : a.fold = none) (thread : a.thread = some who) (there : s.thread? who = some t) :
    exec (.merge q) s = .next (if (s.lanesOf t.gid).any fun e => e.2.mergeDepth.isSome then s else s.mergeNow q x m b who t) := by
  simp only [exec_merge, execMerge, query, merge, old, young, oldReady, youngReady, Bool.not_true, Bool.or_self, Bool.false_eq_true, if_false,
    resident, Option.isSome_none, thread, there]
  split <;> rfl

end

/-- With the younger window gone, the bridging record joins the older one, and what was queued for it follows (log entry 68). -/
theorem execMerge_old (old : (KV.at? x.wins m.old).isSome = true) (young : KV.at? x.wins m.young = none) : exec (.merge q) s =
    .next (m.forOld.foldl (fun s i => s.append q m.old i) ((s.updQuery q fun x => { x with merge := none }).deliverTo q [m.old] m.record)) := by
  obtain ⟨a, old⟩ := Option.isSome_iff_exists.1 old
  simp only [exec_merge, execMerge, query, merge, old, young, State.mergeAgain]

theorem execMerge_young (old : KV.at? x.wins m.old = none) (young : (KV.at? x.wins m.young).isSome = true) : exec (.merge q) s =
    .next (m.forYoung.foldl (fun s i => s.append q m.young i) ((s.updQuery q fun x => { x with merge := none }).deliverTo q [m.young] m.record)) := by
  obtain ⟨b, young⟩ := Option.isSome_iff_exists.1 young
  simp only [exec_merge, execMerge, query, merge, old, young, State.mergeAgain]

end

/-! ## What a merge leaves (R232) -/

theorem State.endYounger_mem (s : State) (q w : Nat) (y : Win) : (s.endYounger q w y).mem = s.mem := by
  unfold State.endYounger
  dsimp only
  split
  · rfl
  · split
    · rfl
    · simp only [State.askEnd, State.plan_frame]
      exact (State.laneGone_thins _ _ _).mem

/-- The older window's thread stands at MERGEENTRY, no `wrecv` of its pending (R232 step 4). -/
theorem State.enterMerge_spec (s : State) (q w : Nat) (entry : BitVec 64) (who : Who) (t : Thread) :
    (s.enterMerge q w entry who t).mem = s.mem ∧ ∃ v, (s.enterMerge q w entry who t).thread? who = some v ∧ v.pc = entry ∧
      v.mergeDepth = some t.depth ∧ v.wins = t.wins.filter (fun o => !o.receives) ∧ v.regs = t.regs := by
  unfold State.enterMerge
  rw [List.partition_eq_filter_filter]
  exact ⟨rfl, _, State.thread?_setThread_same _ _ _, rfl, rfl, rfl, rfl⟩

/-- A merge writes the younger window's block, and the older one's thread is in the merge handler. -/
theorem State.mergeNow_spec {s : State} {q : Nat} {x : Query} {m : MergeSt} {b : Win} {who : Who} {t : Thread} {g : Group}
    (group : s.group? t.gid = some g) : ∃ v, (s.mergeNow q x m b who t).thread? who = some v ∧ v.pc = x.block.mergeEntry ∧
      v.mergeDepth = some t.depth ∧ v.wins = t.wins.filter (fun o => !o.receives) ∧ v.regs = t.regs ∧
      (s.mergeNow q x m b who t).mem = (s.wrBytes (spLoc g.core (g.spBase + x.block.mergeOfs)) 0 (s.mergeBlock x.block b)).mem := by
  simp only [State.mergeNow, group]
  generalize written : s.wrBytes _ 0 _ = u
  have younger := u.endYounger_mem q m.young b
  obtain ⟨mem, v, thread, entered⟩ := State.enterMerge_spec (((u.endYounger q m.young b).updWin q m.old fun z =>
    ((z.widen b.first).widen b.last).widen m.record.ts).updQuery q fun x => { x with merge := none }.bump 7 1) q m.old x.block.mergeEntry who t
  generalize State.enterMerge _ q m.old x.block.mergeEntry who t = e at mem thread ⊢
  have queued := (e.appendRec_queriesOnly q m.old { m.record with flags := m.record.flags ||| 16 }).trans
    (foldl_rel State.QueriesOnly.refl State.QueriesOnly.trans (fun s i => s.append q m.old i) (fun s i => s.append_queriesOnly q m.old i) m.forOld _)
  obtain ⟨threads, same⟩ := queued.frame
  obtain ⟨pc, depth, wins, regs⟩ := entered
  exact ⟨v, (congrArg (KV.at? · who) threads).trans thread, pc, depth, wins, regs, same.trans (mem.trans younger)⟩

/-! ## Pane records (R226, R227) -/

/-- The windows that cover a pane, from a number on, in ascending order. -/
def Query.coverFrom (x : Query) (r : Rec) (n : Nat) : List (Nat × Win) :=
  sortBy (fun e => e.2.num) (x.wins.filter fun e =>
    !e.2.pane && decide (e.2.key = r.key) && !e.2.returned && decide (n ≤ e.2.num) && x.block.covers e.2.num r.seq.toNat)

section
variable {s : State} {q : Nat} {x : Query} (query : KV.at? s.queries q = some x)
include query

theorem execPaneRecordMulticast_none (none : x.pane.find? (fun e => !x.paneWaits e.2.1 (x.watermark s.time)) = none) :
    exec (.paneRecordMulticast q) s = .next s := by
  simp only [exec_paneRecordMulticast, execPaneRecordMulticast, query, none]

variable {pid n : Nat} {r : Rec} (next : x.pane.find? (fun e => !x.paneWaits e.2.1 (x.watermark s.time)) = some (pid, r, n))
include next

/-- A pane record that at most 64 windows take has then been delivered. -/
theorem execPaneRecordMulticast_last (few : (x.coverFrom r n).length ≤ 64) : exec (.paneRecordMulticast q) s =
    .next ((((((x.coverFrom r n).take 64).foldl (fun s e => s.appendRec q e.1 r) s).updQuery q fun x =>
      { x with pane := x.pane.filter fun p => decide (p.1 ≠ pid) }).releaseCloses q).askQueryEnd q) := by
  have rest : (x.coverFrom r n)[64]? = none := List.getElem?_eq_none few
  unfold Query.coverFrom at rest
  simp only [exec_paneRecordMulticast, execPaneRecordMulticast, query, next, rest]
  rfl

theorem execPaneRecordMulticast_more {e : Nat × Win} (more : (x.coverFrom r n)[64]? = some e) : exec (.paneRecordMulticast q) s =
    .next ((((x.coverFrom r n).take 64).foldl (fun s e => s.appendRec q e.1 r) s).updQuery q fun x =>
      { x with pane := x.pane.map fun p => if p.1 = pid then (p.1, p.2.1, e.2.num) else p }) := by
  unfold Query.coverFrom at more
  simp only [exec_paneRecordMulticast, execPaneRecordMulticast, query, next, more]
  rfl

end

/-! ## The scan (R221, R332) -/

theorem State.RecordsOnly.queries {s u : State} (h : s.RecordsOnly u) : u.queries = s.queries := by rw [h]

theorem State.translate_queries (s : State) (part : Nat) (va : BitVec 64) : (s.translate part va).queries = s.queries := by
  have walk := (s.readWalk_recordsOnly part va).queries
  unfold State.translate
  split
  · rfl
  · split <;> exact walk

theorem State.touchRead_queries (part : Nat) (l : List (BitVec 64)) : ∀ s : State, (s.touchRead part l).queries = s.queries := by
  induction l with
  | nil => exact fun _ => rfl
  | cons a r ih =>
    intro s
    unfold State.touchRead
    split
    · next p _ =>
      have read := ((s.translate part a).readSector_recordsOnly part a (p.loc.key / 32)).queries.trans (s.translate_queries part a)
      split
      · next eq => exact (congrArg (fun o => o.1.queries) eq).symm.trans read
      · next eq => exact (ih _).trans ((congrArg (fun o => o.1.queries) eq).symm.trans read)
    · split
      · exact (s.readWalk_recordsOnly part a).queries
      · split <;> rfl
    · rfl

theorem State.writeFault_queries (s : State) (f : FaultRec) : (s.writeFault f).queries = s.queries := by
  unfold State.writeFault
  dsimp only
  split
  · rfl
  · rw [State.deviceWrite_writesOnly]

theorem State.park_queries (s : State) (part core : Nat) (va : BitVec 64) (kind : Nat) (cause : BitVec 32) (entry : BitVec 128) (level : Nat)
    (req : Req) : (s.park part core va kind cause entry level req).queries = s.queries := by
  unfold State.park
  dsimp only
  split
  · rfl
  · split
    · rfl
    · exact State.writeFault_queries _ _

section
variable {s : State} {q : Nat} {x : Query} {c : ScanSt} (query : KV.at? s.queries q = some x) (scan : x.scan = some c)
include query scan

theorem execScanRead_waits (waits : c.held = true ∨ x.streamOpen = false ∨ 4096 ≤ x.ingest.length) : exec (.scanRead q) s = .next s := by
  have stays : (c.held || !x.streamOpen || decide (4096 ≤ x.ingest.length)) = true := by
    rcases waits with held | ended | full
    · simp [held]
    · simp [ended]
    · simp [full]
  simp only [exec_scanRead, execScanRead, query, scan, stays, if_true]

/-- A scan that may go on ends past its last record, waits for a swapped sub-bus, or reads its next record (R221, R404). -/
theorem execScanRead_going (free : c.held = false) (running : x.streamOpen = true) (room : x.ingest.length < 4096) : exec (.scanRead q) s =
    .next (if c.count ≤ c.next then s.updQuery q fun x => { x with scan := none, streamOpen := false, ending := true }
      else if s.readOut x.part (c.base + BitVec.ofNat 64 (c.next * c.stride)) c.len then s
      else s.scanRecord q x c) := by
  have goes : (c.held || !x.streamOpen || decide (4096 ≤ x.ingest.length)) = false := by simp [free, running, room]
  simp only [exec_scanRead, execScanRead, query, scan, goes, Bool.false_eq_true, if_false]
  split
  · rfl
  · split <;> rfl

end

section
variable {s : State} {q : Nat} {x : Query} {c : ScanSt} {va : BitVec 64} (at_ : va = c.base + BitVec.ofNat 64 (c.next * c.stride))
include at_

/-- A record that can be read enters the ingest queue with its SEQ and its TS. -/
theorem State.scanRecord_reads {ls : List Loc} {bytes : List Byte} (query : KV.at? s.queries q = some x) (read : s.readAt x.part va c.len = .ok ls)
    (found : bytes = ls.map fun l => s.rdByte l 0) : ∃ z r, KV.at? (s.scanRecord q x c).queries q = some z ∧ z.ingest = x.ingest ++ [r] ∧
      z.scan = some { c with next := c.next + 1 } ∧ r.payload = bytes ∧ r.len = c.len ∧ r.seq = c.seqBase + BitVec.ofNat 64 c.next ∧
      r.ts = (if c.tsOfs = 255 then s.time else BitVec.ofNat 64 (leNat ((bytes.drop c.tsOfs).take 8))) := by
  subst at_ found
  have touched := (congrArg (KV.at? · q) (s.touchRead_queries x.part (rangeSectors (c.base + BitVec.ofNat 64 (c.next * c.stride)) c.len))).trans query
  simp only [State.scanRecord, read]
  exact ⟨_, _, State.query_updQuery touched _, rfl, rfl, rfl, rfl, rfl, rfl⟩

/-- A record whose read fails ends the scan and is logged. -/
theorem State.scanRecord_trap {k : BitVec 32} (read : s.readAt x.part va c.len = .error (.trap k)) : s.scanRecord q x c =
    ((s.touchRead x.part (rangeSectors va c.len)).updQuery q fun x => { x with scan := none, streamOpen := false, ending := true }).log (some x.part)
      0x0070 (x.die % 4) 0 5 (BitVec.ofNat 64 c.next) (k.setWidth 64) 0 0 := by
  subst at_
  simp only [State.scanRecord, read]

/-- An absent page holds the scan. -/
theorem State.scanRecord_fault {k : BitVec 32} {e : BitVec 128} {l : Nat} (query : KV.at? s.queries q = some x)
    (read : s.readAt x.part va c.len = .error (.fault k e l)) : ∃ z, KV.at? (s.scanRecord q x c).queries q = some z ∧
      z.scan = some { c with held := true } ∧ z.ingest = x.ingest := by
  subst at_
  have touched := (congrArg (KV.at? · q) (s.touchRead_queries x.part (rangeSectors (c.base + BitVec.ofNat 64 (c.next * c.stride)) c.len))).trans query
  simp only [State.scanRecord, read, State.park_queries]
  exact ⟨_, State.query_updQuery touched _, rfl, rfl⟩

end

/-! ## Frames of a stream (R221, R391) -/

section
variable {s : State} {h : MsgHdr} {die : Nat} {n : BitVec 16} {l : List FrameRec}

theorem execRecordFrame_other (other : isRecordFrame h = false) : exec (.recordFrame h die n l) s = .next s := by
  simp only [exec_recordFrame, execRecordFrame, other, Bool.not_false, if_true]

variable (frame : isRecordFrame h = true)
include frame

theorem execRecordFrame_unbound (unbound : s.queries.find? (fun e => decide (e.2.die = die) && !e.2.block.scan && decide (e.2.block.stream = n)) = none) :
    exec (.recordFrame h die n l) s = .next (s.log (some h.part.toNat) 0x0070 (die % 4) 0 4 (n.setWidth 64) 0 0 0) := by
  simp only [exec_recordFrame, execRecordFrame, frame, Bool.not_true, Bool.false_eq_true, if_false, unbound]

theorem execRecordFrame_bound {q : Nat} {z : Query}
    (bound : s.queries.find? (fun e => decide (e.2.die = die) && !e.2.block.scan && decide (e.2.block.stream = n)) = some (q, z)) :
    exec (.recordFrame h die n l) s = .next ((s.updQuery q fun x => { x with backlog := x.backlog ++ l }).refill q) := by
  simp only [exec_recordFrame, execRecordFrame, frame, Bool.not_true, Bool.false_eq_true, if_false, bound]

end

/-- A frame's record as it enters the ingest queue. -/
def Rec.ofFrame (f : FrameRec) : Rec := { payload := f.payload.take f.len, ts := f.ts, seq := f.seq, key := 0, len := f.len, flags := 0 }

section
variable {s : State} {q : Nat} {x : Query} (query : KV.at? s.queries q = some x)
include query

theorem State.refill_eq {u : State} {more : List FrameRec} (taken : s.intake q x.backlog = (u, more)) :
    s.refill q = u.updQuery q fun x => { x with backlog := more } := by
  simp only [State.refill, query, taken]

variable (running : x.streamOpen = true) (f : FrameRec)
include running

/-- A record of more than 64 bytes is dropped and counted. -/
theorem State.intake_long (r : List FrameRec) (long : 64 < f.len) : s.intake q (f :: r) = (s.updQuery q fun x => x.bump 13 1).intake q r := by
  simp only [State.intake, query, running, long, Bool.not_true, Bool.false_eq_true, if_false, if_true]

theorem State.intake_full (r : List FrameRec) (short : f.len ≤ 64) (full : 4096 ≤ x.ingest.length) : s.intake q (f :: r) = (s, f :: r) := by
  simp only [State.intake, query, running, Nat.not_lt.2 short, full, Bool.not_true, Bool.false_eq_true, if_false, if_true]

theorem State.intake_room (r : List FrameRec) (short : f.len ≤ 64) (room : x.ingest.length < 4096) :
    s.intake q (f :: r) = (s.updQuery q fun x => { x with ingest := x.ingest ++ [Rec.ofFrame f] }).intake q r := by
  simp only [State.intake, query, running, Nat.not_lt.2 short, Nat.not_le.2 room, Bool.not_true, Bool.false_eq_true, if_false]
  rfl

/-- A single record that waits is dropped, enters the ingest queue, or waits for credit. -/
theorem State.refill_single (waiting : x.backlog = [f]) : ∃ y, KV.at? (s.refill q).queries q = some y ∧
    (64 < f.len → y.ingest = x.ingest ∧ y.backlog = [] ∧ y.counters = (x.bump 13 1).counters) ∧
    (f.len ≤ 64 → x.ingest.length < 4096 → y.ingest = x.ingest ++ [Rec.ofFrame f] ∧ y.backlog = []) ∧
    (f.len ≤ 64 → 4096 ≤ x.ingest.length → y.ingest = x.ingest ∧ y.backlog = [f]) := by
  rcases Nat.lt_or_ge 64 f.len with long | short
  · have taken : s.intake q x.backlog = (s.updQuery q fun x => x.bump 13 1, []) := by
      rw [waiting, State.intake_long query running f [] long, State.intake]
    rw [State.refill_eq query taken]
    exact ⟨_, State.query_updQuery (State.query_updQuery query _) _, fun _ => ⟨rfl, rfl, rfl⟩, fun short => absurd long (Nat.not_lt.2 short),
      fun short => absurd long (Nat.not_lt.2 short)⟩
  · rcases Nat.lt_or_ge x.ingest.length 4096 with room | full
    · have taken : s.intake q x.backlog = (s.updQuery q fun x => { x with ingest := x.ingest ++ [Rec.ofFrame f] }, []) := by
        rw [waiting, State.intake_room query running f [] short room, State.intake]
      rw [State.refill_eq query taken]
      exact ⟨_, State.query_updQuery (State.query_updQuery query _) _, fun long => absurd long (Nat.not_lt.2 short), fun _ _ => ⟨rfl, rfl⟩,
        fun _ full => absurd room (Nat.not_lt.2 full)⟩
    · have taken : s.intake q x.backlog = (s, [f]) := by rw [waiting, State.intake_full query running f [] short full]
      rw [State.refill_eq query taken]
      exact ⟨_, State.query_updQuery query _, fun long => absurd long (Nat.not_lt.2 short), fun _ room => absurd room (Nat.not_lt.2 full),
        fun _ _ => ⟨rfl, rfl⟩⟩

end

/-! ## The end of a stream (R234) -/

section
variable {s : State} {q : Nat} {x : Query} (query : KV.at? s.queries q = some x)
include query

theorem execStreamEnd_waits (waits : x.ending = false ∨ x.ingest ≠ [] ∨ x.merge ≠ none) : exec (.streamEnd q) s = .next s := by
  have stays : (!x.ending || !x.ingest.isEmpty || x.merge.isSome) = true := by
    rcases waits with running | left | merging
    · simp [running]
    · simp [left]
    · simp [Option.isSome_iff_ne_none.2 merging]
  simp only [exec_streamEnd, execStreamEnd, query, stays, if_true]

theorem execStreamEnd_closes (ending : x.ending = true) (placed : x.ingest = []) (alone : x.merge = none) : exec (.streamEnd q) s =
    .next (((((s.refill q).flushBatch q).updQuery q fun x => { x with ending := false }).closeAll q fun y => !y.closed).askQueryEnd q) := by
  simp only [exec_streamEnd, execStreamEnd, query, ending, placed, alone, Bool.not_true, List.isEmpty_nil, Option.isSome_none, Bool.or_self,
    Bool.false_eq_true, if_false]

end

end Sys2Proof.Machine

namespace Sys2Proof

open Machine

/-- Settles O50: each step by the equation of its case; a merge by what ending the younger window, entering the handler and queueing leave alone, a
scan by what reading leaves of the queries, and a frame of one record by where that goes. -/
theorem mergesStreamsAndScans : Obligations.MergesStreamsAndScans := by
  refine ⟨⟨fun s q x m a b who t g query merge old young => ⟨execMerge_unready query merge old young, execMerge_folded query merge old young,
        fun oldReady youngReady resident thread there group => ?_⟩,
      fun s v q x m query => ⟨execMerge_none query, ?_, execPaneRecordMulticast_none query⟩, ?_⟩,
    fun s q x c query scan => ⟨execScanRead_waits query scan, fun free running room => ?_⟩,
    fun s h die n f => ⟨execRecordFrame_other, execRecordFrame_unbound, fun q x z frame bound query running empty => ?_⟩,
    fun s h die q n l z frame bound => execRecordFrame_bound frame bound,
    fun s q x query => ⟨execStreamEnd_waits query, execStreamEnd_closes query⟩⟩
  · rw [execMerge_resident query merge old young oldReady youngReady resident thread there]
    refine ⟨?_, fun alone => ?_⟩
    · rintro ⟨e, member, merging⟩
      rw [if_pos (List.any_eq_true.2 ⟨e, member, Option.isSome_iff_ne_none.2 merging⟩)]
    · have none : ((s.lanesOf t.gid).any fun e => e.2.mergeDepth.isSome) = false := by
        rw [List.any_eq_false]
        intro e member
        simp [alone e member]
      rw [none]
      obtain ⟨v, thread', pc, depth, wins, regs, mem⟩ := State.mergeNow_spec (q := q) (x := x) (m := m) (b := b) (who := who) group
      refine ⟨_, v, rfl, thread', pc, depth, wins, regs, mem.trans ?_⟩
      unfold State.mergeBlock
      cases b.fold with
      | some f => rfl
      | none => cases b.thread <;> rfl
  · rintro merge rfl
    exact ⟨execMerge_old query merge, execMerge_young query merge⟩
  · rintro s v q x cover pid n r query next rfl rfl
    exact ⟨execPaneRecordMulticast_last query next, fun e => execPaneRecordMulticast_more query next⟩
  · rw [execScanRead_going query scan free running room]
    refine ⟨fun last => if_pos last ▸ rfl, fun more va v at_ touched => ?_⟩
    rw [if_neg (Nat.not_le.2 more), ← at_]
    refine ⟨fun out => if_pos out ▸ rfl, fun there => ?_⟩
    rw [there]
    refine ⟨fun ls bytes read found => ?_, fun k read => ?_, fun k e l read => ?_⟩
    · obtain ⟨z, r, reads⟩ := State.scanRecord_reads at_ query read found
      exact ⟨_, z, r, rfl, reads⟩
    · rw [touched, ← State.scanRecord_trap at_ read]
      rfl
    · obtain ⟨z, held⟩ := State.scanRecord_fault at_ query read
      exact ⟨_, z, rfl, held⟩
  · obtain ⟨y, taken, refilled⟩ := State.refill_single (State.query_updQuery query fun x => { x with backlog := x.backlog ++ [f] }) running f
      (congrArg (· ++ [f]) empty)
    exact ⟨_, y, execRecordFrame_bound frame bound, taken, refilled⟩

end Sys2Proof
end

section
/-! O17: every instruction answers a next state, and so does every step but one without power (R412). -/

namespace Sys2Proof.Machine

/-- The outcome is a next state. -/
def Out.Goes (o : Out) : Prop := ∃ u, o = .next u

theorem Out.goes_next (u : State) : Out.Goes (.next u) := ⟨u, rfl⟩

theorem State.act_goes (s : State) (n : Bool) (p : BitVec 3) (k : Thread → State) : Out.Goes (s.act n p k) := by
  obtain ⟨t, _, acts⟩ | ⟨t, _, _, acts⟩ | ⟨_, acts⟩ := s.act_cases n p k <;> exact ⟨_, acts⟩

theorem State.transfer_goes (s : State) (n : Bool) (p : BitVec 3) (k : Thread → State) : Out.Goes (s.transfer n p k) := by
  unfold State.transfer
  dsimp only
  repeat' split
  all_goals exact Out.goes_next _

theorem State.esAct_goes (s : State) (f : EsCtx → DrainRun → EsFlow) : Out.Goes (s.esAct f) := by
  unfold State.esAct
  repeat' split
  all_goals exact Out.goes_next _

theorem State.procedure_goes (s : State) (h : MsgHdr) (proc : Nat) (owner : Bool) (package : Option Bool) (k : State → State) :
    Out.Goes (s.procedure h proc owner package k) := by
  unfold State.procedure
  split <;> exact Out.goes_next _

theorem State.pageProc_goes (s : State) (h : MsgHdr) (proc : Nat) (va : BitVec 64) (toHost : Bool) :
    Out.Goes (s.pageProc h proc va toHost) :=
  s.procedure_goes h proc true (some false) _

/-- Every instruction answers a next state, whatever the state. -/
theorem exec_goes (i : Instr) (s : State) : Out.Goes (exec i s) := by
  cases i with
  | add | sub | mul | mulh | mad | min | max | abs | neg | adds | and | or | xor | andn | not | shl | shr | sar | rot | clz | ctz | popc
    | brev | bfx | bfi | sel | mov | cmp | movi | movh | addImm | andImm | orImm | xorImm | fadd | fsub | fmul | ffma | fdot2 | fmin | fmax
    | fcmp | fround | fclass | frcp | frsq | fsqrt | fexp2 | flog2 | fsin | fcos | cvt | pk | upk | hxq | hxd | hxe | mxcvt | voteAny | voteAll
    | voteNone | votePack | voteUnpk | ld | st | ldq | stq | pf | ldwf | ldwfe | stwe | stf | tagrd | tagwr | atomAdd | atomMin | atomMax
    | atomAnd | atomOr | atomXor | atomXchg | atomCas | atomFadd | redAdd | redMin | redMax | redFadd | redflush | redseal | fence | acq | rel
    | bind | unbind | cp | gth | land | rjmark | nop | trap | mfsr | mtsr | dqpush | dqpop | nbar | nbw | grjoin | grleave | crbeg | crend
    | sysrpc | kick | diagInj | wrecv | wemit | wclose | wcloseId | wcloseEnd | wmret | wtimer | wstat | holdLock | holdSlot | holdCopy | heir
    | heirSlot | heirGrp | drop | dropSlot | promise | fulfil | estqInfo | estqObj | estqFrom | estqMask | qrld | qrseed | qrseedKey | qrpt
    | qrpt4 | qrf | qrhash | qrhashK | qcset | mzero | mma | mdrain | epld | cpb | coll | launch | launchEst => exact State.act_goes ..
  | bra | fbra | brx | call | callx | ret | rjoin | exit | yield | tret => unfold exec; exact State.transfer_goes ..
  | esNop | esMov | esAdd | esMul | esFma | esMax | esMin | esScale | esBias | esClamp | esExp2 | esRcp | esLut | esCmp | esSel | esLd
    | esHxq | esCvt | esSt | esStt | esLoop | esEnd => exact State.esAct_goes ..
  | pageGive | pageTake => exact State.pageProc_goes ..
  | own | yieldProc | status | graphLoad | kickProc | map | unmap | write | read | notify | logRead | update | attest =>
    unfold exec; exact State.procedure_goes ..
  | engineCommandCompletion | reductionDrain | resolveRetry | resolveTrap | resolveKill | fold | windowRestore | windowTimerExpiry
    | batchTimeout | packetInjection | timeTermDue | timeLock | waveIssue | tableWalk | lullRotation | gustRefill | hamletReset | thermalTrip
    | vacate | flitReplay => exact Out.goes_next _
  | pairedWord | copyQueueWrite | yieldExpiry | longLatencyCompletion | handlerStart | estateHandlerStart | groupEnd | containmentUnwind
    | groupSave | groupRestore | preemptionTimeout | launchComplete | nodeStart | arrayCommandStart | mmaKgroupStep | drainOutputEntry
    | collectiveRun | recordPlacement | merge | paneRecordMulticast | bellWheelDue | streamEnd | scanRead | imageSwitch | illegalEncoding
    | rconsWrite | registerWrite | groupPlacement | replayStart | recordFrame | lullRelease | laneRecalibration | coreRetirement
    | clockStep | otherProcedure | notifyReset | partitionBoundarySet | powerOn | portRecalibration | fabricPortUp | lullEngage | laneSwap
    | schedulerTakeover | kill | notifyFillStore | transferResend =>
    simp only [exec_pairedWord, exec_copyQueueWrite, exec_yieldExpiry, exec_longLatencyCompletion, exec_handlerStart,
      exec_estateHandlerStart, exec_groupEnd, exec_containmentUnwind, exec_groupSave, exec_groupRestore, exec_preemptionTimeout,
      exec_launchComplete, exec_nodeStart, exec_arrayCommandStart, exec_mmaKgroupStep, exec_drainOutputEntry, exec_collectiveRun,
      exec_recordPlacement, exec_merge, exec_paneRecordMulticast, exec_bellWheelDue, exec_streamEnd, exec_scanRead, exec_imageSwitch,
      exec_illegalEncoding, exec_rconsWrite, exec_registerWrite, exec_groupPlacement, exec_replayStart, exec_recordFrame, exec_lullRelease,
      exec_laneRecalibration, exec_coreRetirement, exec_clockStep, exec_otherProcedure, exec_notifyReset, exec_partitionBoundarySet,
      exec_powerOn, exec_portRecalibration, exec_fabricPortUp, exec_lullEngage, exec_laneSwap, exec_schedulerTakeover, exec_kill,
      exec_notifyFillStore, exec_transferResend, execPairedWord, execCopyQueueWrite, execYieldExpiry, execLongLatencyCompletion,
      execHandlerStart, execEstateHandlerStart, execGroupEnd, execContainmentUnwind, execGroupSave, execGroupRestore,
      execPreemptionTimeout, execLaunchComplete, execNodeStart, execArrayCommandStart, execMmaKgroupStep, execDrainOutputEntry,
      execCollectiveRun, execRecordPlacement, execMerge, execPaneRecordMulticast, execBellWheelDue, execStreamEnd, execScanRead,
      execImageSwitch, execIllegalEncoding, execRconsWrite, execRegisterWrite, execGroupPlacement, execReplayStart, execRecordFrame,
      execLullRelease, execLaneRecalibration, execCoreRetirement, execClockStep, execOtherProcedure, execNotifyReset,
      execPartitionBoundarySet, execPowerOn, execPortRecalibration, execFabricPortUp, execLullEngage, execLaneSwap, execSchedulerTakeover,
      execKill, execNotifyFillStore, execTransferResend]
    repeat' split
    all_goals exact Out.goes_next _

end Sys2Proof.Machine

namespace Sys2Proof

open Machine

/-- Settles O17: an instruction goes by `exec_goes`, and so does a step that has a turn or the power for a clock. -/
theorem onlyPowerLossStops : Obligations.OnlyPowerLossStops := by
  refine ⟨exec_goes, fun s running => ?_, fun s idle dark => ?_⟩
  · unfold State.StepsOn step
    cases turns : s.turns with
    | nil =>
      obtain waiting | power := running
      · exact absurd turns waiting
      · dsimp only
        rw [if_pos power]
        exact exec_goes _ _
    | cons t r =>
      dsimp only
      split
      · exact exec_goes _ _
      · exact Out.goes_next _
  · unfold step
    rw [idle, dark]
    rfl

end Sys2Proof
end

section
/-! O1 and O19: the words that the spec writes out, and the state after reset (R15, R25, R253, R254, R366, R371). -/

namespace Sys2Proof.Machine

@[simp] theorem State.half_reset (core h : Nat) : State.reset.half core h = Half.reset := rfl

@[simp] theorem State.die_reset (d : Nat) : State.reset.die d = Die.reset := rfl

/-- Predicate 0 of a starting thread holds, and no other does (R15, R25). -/
theorem Thread.start_predAt (gid lid lane slot clock : Nat) (grp tid : BitVec 32) (pc : BitVec 64) {n : Nat} (small : n < 8) :
    (Thread.start gid lid grp pc tid lane slot clock).predAt n = decide (n = 0) := by
  show (n == 0 || (1 : BitVec 8).getLsbD n) = decide (n = 0)
  interval_cases n <;> rfl

end Sys2Proof.Machine

namespace Sys2Proof

open Machine

/-- Settles O1: the decoder is evaluated at each of the words. -/
theorem specWordsDecode : Obligations.SpecWordsDecode := by
  unfold Obligations.SpecWordsDecode
  decide +kernel

/-- Settles O19: an entity that is not listed is as it is at reset, and a starting thread's registers list nothing. -/
theorem resetState : Obligations.ResetState := by
  refine ⟨⟨⟨rfl, rfl, rfl⟩, rfl, rfl, rfl, rfl, rfl, rfl⟩, fun core h => ?_, fun d => ?_, ⟨rfl, rfl, rfl⟩,
    fun gid lid lane slot clock grp tid pc => ⟨fun c => ⟨rfl, rfl⟩, ?_, fun n pos small => ?_, ⟨rfl, rfl, rfl, rfl⟩, rfl, rfl, rfl, rfl, rfl⟩⟩
  · rw [State.half_reset]
    exact ⟨rfl, rfl, rfl, rfl, rfl, rfl⟩
  · rw [State.die_reset]
    exact ⟨rfl, rfl⟩
  · exact Thread.start_predAt gid lid lane slot clock grp tid pc (by decide)
  · rw [Thread.start_predAt _ _ _ _ _ _ _ _ small]
    exact decide_eq_false (by omega)

end Sys2Proof
end

section
/-! O35 and O36: the quasi-random unit and the keyed hash (R302 to R309). -/

namespace Sys2Proof.Machine

/-! ## Points -/

/-- The XOR of the words that an index picks among those of a list of bit numbers. -/
def xorPicked (w : Nat → BitVec 32) (i : BitVec 64) (l : List Nat) (x : BitVec 32) : BitVec 32 :=
  l.foldl (fun x t => if i.getLsbD t then x ^^^ w t else x) x

theorem xor_picked (p q : Bool) (x y z : BitVec 32) :
    (if p ^^ q then x ^^^ y ^^^ z else x ^^^ y) = (if p then x ^^^ z else x) ^^^ (if q then y ^^^ z else y) := by
  cases p <;> cases q
  · rfl
  · exact BitVec.xor_assoc x y z
  · show x ^^^ y ^^^ z = x ^^^ z ^^^ y
    ac_rfl
  · show x ^^^ y = x ^^^ z ^^^ (y ^^^ z)
    rw [show x ^^^ z ^^^ (y ^^^ z) = x ^^^ y ^^^ (z ^^^ z) by ac_rfl, BitVec.xor_self, BitVec.xor_zero]

theorem xorPicked_xor (w : Nat → BitVec 32) (i j : BitVec 64) (l : List Nat) (x y : BitVec 32) :
    xorPicked w (i ^^^ j) l (x ^^^ y) = xorPicked w i l x ^^^ xorPicked w j l y := by
  induction l generalizing x y with
  | nil => rfl
  | cons t r ih =>
    show xorPicked w (i ^^^ j) r (if (i ^^^ j).getLsbD t then x ^^^ y ^^^ w t else x ^^^ y) =
      xorPicked w i r (if i.getLsbD t then x ^^^ w t else x) ^^^ xorPicked w j r (if j.getLsbD t then y ^^^ w t else y)
    rw [← ih, BitVec.getLsbD_xor, xor_picked]

theorem xorPicked_none (w : Nat → BitVec 32) {i : BitVec 64} {l : List Nat} (none : ∀ t ∈ l, i.getLsbD t = false) (x : BitVec 32) :
    xorPicked w i l x = x := by
  induction l with
  | nil => rfl
  | cons t r ih =>
    show xorPicked w i r (if i.getLsbD t then x ^^^ w t else x) = x
    rw [none t (by simp), if_neg Bool.false_ne_true, ih fun u member => none u (List.mem_cons_of_mem _ member)]

theorem getLsbD_one_shiftLeft {k : Nat} (small : k < 64) (t : Nat) : ((1 <<< k : Nat) : BitVec 64).getLsbD t = decide (t = k) := by
  rw [BitVec.natCast_eq_ofNat, BitVec.getLsbD_ofNat, Nat.one_shiftLeft, Nat.testBit_two_pow]
  grind

theorem xorPicked_bit (w : Nat → BitVec 32) {k n : Nat} (small : k < 64) (below : k < n) :
    xorPicked w (1 <<< k : Nat) (List.range n) 0 = w k := by
  induction n with
  | zero => exact absurd below (Nat.not_lt_zero k)
  | succ n ih =>
    rw [List.range_succ, xorPicked, List.foldl_append]
    show (if ((1 <<< k : Nat) : BitVec 64).getLsbD n then xorPicked w _ _ 0 ^^^ w n else xorPicked w _ _ 0) = w k
    rw [getLsbD_one_shiftLeft small]
    obtain rfl | other := eq_or_ne n k
    · rw [decide_eq_true rfl, if_pos rfl, xorPicked_none]
      · exact BitVec.zero_xor
      · intro t member
        rw [getLsbD_one_shiftLeft small]
        exact decide_eq_false (Nat.ne_of_lt (List.mem_range.1 member))
    · rw [decide_eq_false other, if_neg Bool.false_ne_true, ih (by omega)]

theorem State.point_raw (s : State) (g : Group) (q : Qru) (dim : Nat) (i : BitVec 64) :
    s.point g q dim i true = xorPicked (fun t => s.rdWord (areaLoc g q (dim - q.wbase) t)) i (List.range 32) 0 := by
  unfold State.point
  exact if_pos rfl

theorem State.point_first (s : State) (g : Group) (q : Qru) (dim : Nat) (i : BitVec 64) (high : i.extractLsb' 32 32 = 0) :
    s.point g q dim i false = scramble (s.point g q dim i true) (s.rdWord (seedLoc g q (dim - q.wbase))) := by
  rw [State.point_raw]
  unfold State.point
  dsimp only
  rw [if_neg Bool.false_ne_true, if_pos high]
  rfl

/-! ## The instructions -/

theorem State.tableWords_length {s : State} {part : Nat} {q : Qru} {a n : Nat} {rows : List (List Byte)}
    (read : s.tableWords part q a n = .ok rows) : rows.length = n := by
  induction n generalizing rows with
  | zero =>
    cases read
    rfl
  | succ n ih =>
    unfold State.tableWords at read
    cases rest : s.tableWords part q a n with
    | error e => rw [rest] at read; cases read
    | ok r =>
      rw [rest] at read
      dsimp only at read
      split at read
      · cases read
      · cases read
        rw [List.length_append, ih rest, List.length_singleton]

section
variable {s : State} {t : Thread} {f : RegF} (executes : s.Executes t f.neg f.pred)
include executes

/-- Every instruction of the context asks for the context, and for a change of it in progress, before anything else (R304, R310). -/
theorem exec_quasiThen {i : Instr} (context : i ∈ [Instr.qrld f, .qrseed f, .qrseedKey f, .qrpt f, .qrpt4 f, .qrf f]) :
    ∃ k, exec i s = .next (s.quasiThen t k) := by
  simp only [List.mem_cons, List.not_mem_nil, or_false] at context
  obtain rfl | rfl | rfl | rfl | rfl | rfl := context <;> exact ⟨_, State.act_true executes _⟩

theorem exec_quasi_none (none : s.quasi t = none) {i : Instr}
    (context : i ∈ [Instr.qrld f, .qrseed f, .qrseedKey f, .qrpt f, .qrpt4 f, .qrf f]) : exec i s = .next (s.trap t 0x0702 0) := by
  obtain ⟨k, eq⟩ := exec_quasiThen executes context
  rw [eq, State.quasiThen, none]

variable {g : Group} {q : Qru} (context : s.quasi t = some (g, q))
include context

theorem exec_quasi_busy (busy : s.quasiBusy t = true) {i : Instr}
    (member : i ∈ [Instr.qrld f, .qrseed f, .qrseedKey f, .qrpt f, .qrpt4 f, .qrf f]) : exec i s = .next (s.waitFor t .quasi) := by
  obtain ⟨k, eq⟩ := exec_quasiThen executes member
  rw [eq, State.quasiThen, context]
  exact congrArg _ (if_pos busy)

variable (free : s.quasiBusy t = false)
include free

theorem act_quasiThen (k : Thread → Group → Qru → State) :
    (s.act f.neg f.pred fun t => s.quasiThen t (k t)) = .next (k t g q) := by
  rw [State.act_true executes, State.quasiThen, context, free]
  rfl

theorem execQrld_outside (outside : q.tdims ≤ (s.src32 s.cur t f.a).toNat) : exec (.qrld f) s = .next (s.trap t 0x0701 0) := by
  rw [exec_qrld, execQrld, act_quasiThen executes context free]
  exact congrArg _ (if_pos outside)


theorem execQrld_loads {a n : Nat} {rows : List (List Byte)} {v : State} (operand : a = (s.src32 s.cur t f.a).toNat) (inside : a < q.tdims)
    (width : n = min q.wcap (q.tdims - a)) (bus : s.qruOut (s.partOf t) q a n = false) (words : s.tableWords (s.partOf t) q a n = .ok rows)
    (read : s.readTable s.cur t q a n = (v, none)) : exec (.qrld f) s = .next (v.loadWindow t f.la g q a rows) := by
  rw [exec_qrld, execQrld, act_quasiThen executes context free]
  subst operand
  dsimp only
  rw [if_neg (Nat.not_le.2 inside), ← width, bus, words, read]
  rfl

theorem execQrld_refused {a : Nat} {va : BitVec 64} {c : BitVec 32} (operand : a = (s.src32 s.cur t f.a).toNat) (inside : a < q.tdims)
    (cause : c ≠ 0x020D) (bus : s.qruOut (s.partOf t) q a (min q.wcap (q.tdims - a)) = false)
    (words : s.tableWords (s.partOf t) q a (min q.wcap (q.tdims - a)) = .error (va, .trap c)) :
    exec (.qrld f) s = .next (((s.setQru t.gid { q with wdims := 0 }).trap t c va).wakeQuasi t.gid) := by
  rw [exec_qrld, execQrld, act_quasiThen executes context free]
  subst operand
  dsimp only
  rw [if_neg (Nat.not_le.2 inside), bus, words]
  dsimp only
  rw [State.xfail, if_neg cause]
  rfl

theorem exec_qruOutside (outside : q.has (s.src32 s.cur t f.a).toNat = false) {i : Instr}
    (member : i ∈ [Instr.qrseed f, .qrpt f, .qrpt4 f, .qrf f]) : exec i s = .next (s.trap t 0x0701 0) := by
  simp only [List.mem_cons, List.not_mem_nil, or_false] at member
  obtain rfl | rfl | rfl | rfl := member
  · rw [exec_qrseed, execQrseed, act_quasiThen executes context free]
    simp only [outside, Bool.not_false, if_true]
  · rw [exec_qrpt, execQrpt, act_quasiThen executes context free]
    simp only [outside, Bool.not_false, if_true]
  · rw [exec_qrpt4, execQrpt4, act_quasiThen executes context free]
    simp only [outside, Bool.not_false, Bool.true_or, if_true]
  · rw [exec_qrf, execQrf, act_quasiThen executes context free]
    simp only [outside, Bool.not_false, if_true]

theorem execQrseedKey_derives : exec (.qrseedKey f) s =
    .next (((s.deriveSeeds g { q with seedKey := s.src64 s.cur t f.a } q.wbase q.wdims).setQru t.gid
      { q with seedKey := s.src64 s.cur t f.a }).finishLong t f.la (20 + q.wdims) []) := by
  rw [exec_qrseedKey, execQrseedKey, act_quasiThen executes context free]

variable (inside : q.has (s.src32 s.cur t f.a).toNat = true)
include inside

theorem execQrseed_inside : exec (.qrseed f) s =
    .next ((s.wrNat (seedLoc g q ((s.src32 s.cur t f.a).toNat - q.wbase)) 4 (s.src32 s.cur t f.b).toNat).finishLong t f.la 20 []) := by
  rw [exec_qrseed, execQrseed, act_quasiThen executes context free]
  simp only [inside, Bool.not_true, Bool.false_eq_true, if_false]

theorem execQrpt_inside : exec (.qrpt f) s = .next (s.finishLong t f.la 24
    (dst32 s.cur f.d ((s.point g q (s.src32 s.cur t f.a).toNat (s.pointIndex t f) (pointRaw f.mod)).setWidth 64))) := by
  rw [exec_qrpt, execQrpt, act_quasiThen executes context free]
  simp only [inside, Bool.not_true, Bool.false_eq_true, if_false]

theorem execQrf_inside : exec (.qrf f) s = .next (s.finishLong t f.la 24 (dst32 s.cur f.d ((rne32 (.dy false
    ((s.point g q (s.src32 s.cur t f.a).toNat (s.pointIndex t f) (pointRaw f.mod)).toNat / 256) (-24))).setWidth 64))) := by
  rw [exec_qrf, execQrf, act_quasiThen executes context free]
  simp only [inside, Bool.not_true, Bool.false_eq_true, if_false]

theorem execQrpt4_inside (last : q.has ((s.src32 s.cur t f.a).toNat + 3) = true) : exec (.qrpt4 f) s = .next (s.finishLong t f.la 28
    (dstRegs f.d ((List.range 4).map fun e => s.point g q ((s.src32 s.cur t f.a).toNat + e) (s.pointIndex t f) (pointRaw f.mod)))) := by
  rw [exec_qrpt4, execQrpt4, act_quasiThen executes context free]
  simp only [inside, last, Bool.not_true, Bool.or_self, Bool.false_eq_true, if_false]

end

theorem Qru.has_iff {q : Qru} {a : Nat} : q.has a = true ↔ q.wbase ≤ a ∧ a < q.wbase + q.wdims := by
  simp [Qru.has]

theorem Qru.has_false {q : Qru} {a : Nat} : q.has a = false ↔ a < q.wbase ∨ q.wbase + q.wdims ≤ a := by
  rw [← Bool.not_eq_true, Qru.has_iff]
  omega

end Sys2Proof.Machine

namespace Sys2Proof

open Machine

/-- Settles O35: each instruction by the equation of its case; a raw point is a sum over the bits of its index. -/
theorem quasiRandomUnit : Obligations.QuasiRandomUnit := by
  intro s t f a executes operand
  refine ⟨fun none i => exec_quasi_none executes none, fun g q context => ⟨fun busy i => exec_quasi_busy executes context busy,
    fun free => ⟨fun outside => ?_, fun rows v n inside width bus words read => ?_, fun va c inside cause bus words => ?_,
      fun outside i => ?_, ?_, fun low high => ?_, fun low high => ?_, fun low high => ?_⟩, fun k j small => ?_, fun d x y => ?_,
    fun d x high => State.point_first s g q d x high⟩⟩
  · exact execQrld_outside executes context free (operand ▸ outside)
  · have length := State.tableWords_length words
    refine ⟨2048, (execQrld_loads executes context free operand inside width bus words read).trans ?_⟩
    rw [State.loadWindow, length]
    rfl
  · exact execQrld_refused executes context free operand inside cause bus words
  · exact exec_qruOutside executes context free (operand ▸ Qru.has_false.2 outside)
  · exact ⟨_, execQrseedKey_derives executes context free⟩
  · subst operand
    exact ⟨20, execQrseed_inside executes context free (Qru.has_iff.2 ⟨low, high⟩)⟩
  · subst operand
    have inside := Qru.has_iff.2 ⟨low, high⟩
    refine ⟨24, ?_⟩
    rintro i raw rfl rfl
    exact ⟨execQrpt_inside executes context free inside, execQrf_inside executes context free inside⟩
  · subst operand
    refine ⟨28, ?_⟩
    rintro i raw rfl rfl
    exact execQrpt4_inside executes context free (Qru.has_iff.2 ⟨low, by omega⟩) (Qru.has_iff.2 ⟨by omega, high⟩)
  · rw [State.point_raw, xorPicked_bit _ (by omega) small, Nat.add_sub_cancel_left]
    rfl
  · simp only [State.point_raw]
    exact xorPicked_xor _ x y _ 0 0

/-- Settles O36: both forms give the hash of their operands, which are control operands of 32 bits. -/
theorem keyedHash : Obligations.KeyedHash := by
  rintro s t f l a b executes rfl rfl
  refine ⟨12, fun launch => ?_, ?_⟩
  · rw [exec_qrhash, execQrhash, State.act_true executes, launch]
  · rw [exec_qrhashK, execQrhashK, State.act_true executes]

end Sys2Proof
end

section
/-! O39: the epilogue words (R276). -/

namespace Sys2Proof.Machine

/-- A fold that sets the bits of the elements that pass a test: which bits are then set. -/
theorem getLsbD_foldl_setBit {α : Type} {w : Nat} (p : α → Bool) (bit : α → Nat) {i : Nat} (small : i < w) (l : List α) (m : BitVec w) :
    (l.foldl (fun m a => if p a then m ||| ((1 : BitVec w) <<< bit a) else m) m).getLsbD i =
      (m.getLsbD i || l.any fun a => p a && decide (bit a = i)) := by
  induction l generalizing m with
  | nil => simp
  | cons a r ih =>
    rw [List.foldl_cons, ih, List.any_cons, ← Bool.or_assoc]
    congr 1
    cases p a with
    | false => simp
    | true =>
      rw [if_pos rfl, BitVec.getLsbD_or, BitVec.getLsbD_shiftLeft, show (1 : BitVec w) = BitVec.ofNat w 1 from rfl, BitVec.getLsbD_one]
      grind

/-- The same for a mask that starts empty. -/
theorem getLsbD_mask {α : Type} {w : Nat} (p : α → Bool) (bit : α → Nat) {i : Nat} (small : i < w) (l : List α) :
    (l.foldl (fun m a => if p a then m ||| ((1 : BitVec w) <<< bit a) else m) 0).getLsbD i = true ↔ ∃ a ∈ l, p a = true ∧ bit a = i := by
  rw [getLsbD_foldl_setBit p bit small l]
  simp

section
variable {s : State} {k : EsCtx}

theorem State.param_inside {ofs : Nat} (inside : ofs + 4 ≤ k.group.spBytes) :
    s.param k ofs = some (s.rdWord (spLoc k.group.core (k.group.spBase + ofs))) := if_pos (decide_eq_true inside)

theorem State.params_inside {ofs : List Nat} (inside : ∀ o ∈ ofs, o + 4 ≤ k.group.spBytes) (f : List (BitVec 32) → EsFlow) :
    s.params k ofs f = f (ofs.map fun o => s.rdWord (spLoc k.group.core (k.group.spBase + o))) := by
  have none : ofs.find? (fun o => !inAlloc k.group o 4) = none := by
    rw [List.find?_eq_none]
    intro o member
    simp [inAlloc, inside o member]
  unfold State.params
  rw [none]
  refine congrArg f (List.map_congr_left fun o member => ?_)
  rw [State.param_inside (inside o member), Option.getD_some]

theorem State.params_beyond {o : Nat} (beyond : k.group.spBytes < o + 4) (f : List (BitVec 32) → EsFlow) : s.params k [o] f = .fault o := by
  have found : [o].find? (fun o => !inAlloc k.group o 4) = some o := List.find?_cons_of_pos (by simp [inAlloc, beyond])
  unfold State.params
  rw [found]

end

theorem lutIndex_lt {x : Num} (number : x.isNan = false) (n : Nat) : lutIndex x (n + 1) ≤ n := by
  unfold lutIndex
  split
  · split <;> omega
  · omega

theorem DrainRun.col_le (r : DrainRun) : r.col ≤ 112 := by
  unfold DrainRun.col
  omega

section
variable {s : State} {core half : Nat} {r : DrainRun} {k : EsCtx}

theorem State.esContext_place (context : s.esContext core half r = some k) : k.core = core ∧ k.half = half := by
  unfold State.esContext at context
  split at context
  · cases context
  · split at context
    · cases context
      exact ⟨rfl, rfl⟩
    · cases context

variable (turn : s.cur = .epilogue core half) (run : (s.half core half).run = some r) (context : s.esContext core half r = some k)
include turn run context

theorem State.esAct_flows {f : EsCtx → DrainRun → EsFlow} {flow : EsFlow} (flows : f k r = flow) : s.esAct f = .next (s.esGo k r flow) := by
  unfold State.esAct
  rw [turn]
  dsimp only
  rw [run]
  dsimp only
  rw [context, ← flows]

/-- The processor goes on at the next word with the run `q`. -/
def State.esNext (s : State) (core half : Nat) (r : DrainRun) (k : EsCtx) (q : DrainRun) : Out :=
  .next (s.setRun core half (some (q.goTo (s.half core half) k.bank (r.at_ + 1))))

theorem State.esAct_next {f : EsCtx → DrainRun → EsFlow} {q : DrainRun} (flows : f k r = .next q) :
    s.esAct f = s.esNext core half r k q := by
  obtain ⟨rfl, rfl⟩ := State.esContext_place context
  exact State.esAct_flows turn run context flows

theorem State.esAct_each {f : EsCtx → DrainRun → EsFlow} {d : BitVec 4} {g : Nat → BitVec 32} (flows : f k r = r.each d g) :
    s.esAct f = s.esNext core half r k (r.setReg d ((List.range 16).map g)) :=
  State.esAct_next turn run context flows

theorem State.esAct_params {ofs : EsCtx → DrainRun → List Nat} {g : DrainRun → List (BitVec 32) → Nat → BitVec 32} {d : BitVec 4}
    (inside : ∀ o ∈ ofs k r, o + 4 ≤ k.group.spBytes) :
    (s.esAct fun c r => s.params c (ofs c r) fun ps => r.each d (g r ps)) = s.esNext core half r k (r.setReg d ((List.range 16).map
      (g r ((ofs k r).map fun o => s.rdWord (spLoc k.group.core (k.group.spBase + o)))))) :=
  State.esAct_each turn run context (State.params_inside inside _)

theorem State.esAct_beyond {o : EsCtx → Nat} {g : EsCtx → DrainRun → List (BitVec 32) → EsFlow} (beyond : k.group.spBytes < o k + 4) :
    (s.esAct fun c r => s.params c [o c] (g c r)) = .next (s.esFault k r (o k)) :=
  State.esAct_flows turn run context (flow := .fault (o k)) (State.params_beyond beyond _)

end

end Sys2Proof.Machine

namespace Sys2Proof

open Machine

/-- Settles O39: each word by the flow that it answers; its parameters lie in the allocation, or the first that does not is the fault. -/
theorem epilogueWords : Obligations.EpilogueWords := by
  intro s core half r k x d a b c n fs turn run context here
  subst here
  obtain ⟨rfl, rfl⟩ := State.esContext_place context
  have next {f : EsCtx → DrainRun → EsFlow} {q : DrainRun} (flows : f k r = .next q) := State.esAct_next turn run context flows
  have each {f : EsCtx → DrainRun → EsFlow} {d : BitVec 4} {g : Nat → BitVec 32} (flows : f k r = r.each d g) :=
    State.esAct_each turn run context flows
  refine ⟨⟨next rfl, each rfl, each rfl, each rfl, each rfl, each rfl, each rfl, each rfl, each rfl, each rfl⟩, fun inside => ?_,
    fun beyond i member => ?_, fun inside => ?_, fun inside m => ?_, fun inside low chunk => ?_, ⟨_, next rfl, fun i small => ?_⟩,
    ⟨each rfl, each rfl⟩, ⟨next rfl, next rfl⟩, fun m to_ j count => ⟨fun more => ?_, fun last => ?_⟩, ?_⟩
  · have param : ∀ o ∈ [k.p n.toNat], o + 4 ≤ k.group.spBytes := by simpa [EsCtx.p] using inside
    refine ⟨each (State.params_inside param _), each (State.params_inside param _), each (State.params_inside param _)⟩
  · simp only [List.mem_cons, List.not_mem_nil, or_false] at member
    obtain rfl | rfl | rfl := member
    · exact State.esAct_beyond turn run context beyond
    · exact State.esAct_beyond turn run context beyond
    · exact State.esAct_beyond turn run context beyond
  · have params : ∀ o ∈ [k.p n.toNat, k.p (n.toNat + 1)], o + 4 ≤ k.group.spBytes := by
      simp only [EsCtx.p, List.mem_cons, List.not_mem_nil, or_false]
      rintro o (rfl | rfl) <;> omega
    exact each (State.params_inside params _)
  · have index {i : Nat} (number : (val32 (r.elem a i)).isNan = false) :
        k.p (n.toNat + lutIndex (val32 (r.elem a i)) (m.toNat + 1)) + 4 ≤ k.group.spBytes := by
      have := lutIndex_lt number m.toNat
      have := m.isLt
      unfold EsCtx.p
      omega
    refine (each (State.params_inside ?_ _)).trans ?_
    · intro o member
      obtain ⟨i, used, rfl⟩ := List.mem_map.1 member
      exact index (by simpa using (List.mem_filter.1 used).2)
    · refine congrArg (fun g => s.esNext k.core k.half r k (r.setReg d ((List.range 16).map g))) (funext fun i => ?_)
      split
      · rfl
      · next number => rw [State.param_inside (index (by simpa using number))]; rfl
  · have row : r.row k.half ≤ 127 := by
      unfold DrainRun.row
      omega
    have col := r.col_le
    have vector : ∀ o ∈ (List.range 16).map fun j => k.v n.toNat (r.col + j), o + 4 ≤ k.group.spBytes := by
      intro o member
      obtain ⟨j, below, rfl⟩ := List.mem_map.1 member
      have := List.mem_range.1 below
      unfold EsCtx.v
      omega
    have scalar : ∀ o ∈ [k.v n.toNat (r.row k.half)], o + 4 ≤ k.group.spBytes := by
      rintro o member
      obtain rfl := List.mem_singleton.1 member
      unfold EsCtx.v
      omega
    refine ⟨(each (State.params_inside vector _)).trans ?_, each (State.params_inside scalar _)⟩
    refine congrArg (fun l => s.esNext k.core k.half r k (r.setReg d l)) (List.map_congr_left fun j below => ?_)
    rw [List.map_map, List.getD_eq_getElem?_getD, List.getElem?_map, List.getElem?_range (List.mem_range.1 below)]
    rfl
  · refine Bool.eq_iff_iff.2 ((getLsbD_mask (fun i => floatCond fs.toNat (val32 (r.elem a i)) (val32 (r.elem b i))) id small _).trans ?_)
    exact ⟨fun ⟨j, _, holds, eq⟩ => eq ▸ holds, fun holds => ⟨i, List.mem_range.2 small, holds, rfl⟩⟩
  · subst count
    rw [exec_esLoop, execEsLoop, State.esAct_flows turn run context (if_pos more)]
    rfl
  · subst count
    rw [exec_esLoop, execEsLoop, State.esAct_flows turn run context (if_neg (Nat.not_lt.2 last))]
    rfl
  · exact State.esAct_flows turn run context rfl

end Sys2Proof
end

section
/-! O34: the estate instructions (R284 to R292). -/

namespace Sys2Proof.Machine

/-! ## On a tagged object (R285, R286, R288 to R291) -/

/-- A filled object is reached in a state with the bindings of the one before: it is not read (R291). -/
theorem State.Reaches.keepsBinds_fill {s v : State} {t : Thread} {spc : Space} {ea : BitVec 64} {size : Nat} {p : Place}
    (reaches : s.Reaches t spc ea size Acc.fill p v) : s.KeepsBinds v := by
  obtain ⟨-, -, performed⟩ := reaches
  have admitted : s.admitted t spc (s.homeVa t spc ea) true = v := congrArg Prod.fst performed
  exact admitted ▸ s.admitted_keepsBinds t spc _ _

theorem State.estate_reached {s v : State} {t : Thread} {f : RegF} {a : Acc} {p : Place} {g : Group}
    (reaches : s.Reaches t (objSpace (estSpace f.mod)) (s.srcAddr s.cur t (objSpace (estSpace f.mod)) f.a) 4 a p v)
    (group : v.spGroup v.cur t = some g) (k : State → Group → Place → Nat → BitVec 64 → State) :
    s.estate t f a k = k v g p (estSpace f.mod) (s.srcAddr s.cur t (objSpace (estSpace f.mod)) f.a) := by
  unfold State.estate
  dsimp only
  rw [State.reach_done reaches, group]

section
variable {s v : State} {t : Thread} {f : RegF} {g : Group} {p : Place}
  (reaches : s.Reaches t (objSpace (estSpace f.mod)) (s.srcAddr s.cur t (objSpace (estSpace f.mod)) f.a) 4 Acc.await p v)
  (group : v.spGroup v.cur t = some g) (lock : Bool)
include reaches group

theorem State.holdWord_refused (refused : v.heirOk t (v.src32 v.cur t f.b) = false ∨
      g.entryOn (estSpace f.mod) (s.srcAddr s.cur t (objSpace (estSpace f.mod)) f.a) ≠ none ∨ tableSlot g.estate = none) :
    s.holdWord t f lock = v.done t (dstPred f.d false) := by
  rw [State.holdWord, State.estate_reached reaches group]
  dsimp only
  split
  · rfl
  · next allowed =>
    simp only [Bool.or_eq_true, Bool.not_eq_true', Option.isSome_iff_ne_none, not_or] at allowed
    rw [(refused.resolve_left allowed.1).resolve_left allowed.2]

variable (heirOk : v.heirOk t (v.src32 v.cur t f.b) = true)
  (free : g.entryOn (estSpace f.mod) (s.srcAddr s.cur t (objSpace (estSpace f.mod)) f.a) = none) {i : Nat} (slot : tableSlot g.estate = some i)
include heirOk free slot

theorem State.holdWord_taken (ready : fullish (v.tagAt (p.loc.key / 4)) = lock) :
    s.holdWord t f lock = (((v.putEntry t.gid i (Entry.make (if lock then 0 else 1) (estSpace f.mod)
      (s.srcAddr s.cur t (objSpace (estSpace f.mod)) f.a) (v.src32 v.cur t f.b) false)).done
      { t with bereaved := v.tagAt (p.loc.key / 4) == (if lock then 3 else 2) } (dstPred f.d true)).setTag (p.loc.key / 4) 0).serve
      [p.loc.key / 4] := by
  rw [State.holdWord, State.estate_reached reaches group]
  dsimp only
  rw [heirOk, free, slot]
  exact if_pos ready

theorem State.holdWord_waits (unready : fullish (v.tagAt (p.loc.key / 4)) ≠ lock) :
    s.holdWord t f lock = (v.putEntry t.gid i (Entry.make (if lock then 0 else 1) (estSpace f.mod)
      (s.srcAddr s.cur t (objSpace (estSpace f.mod)) f.a) (v.src32 v.cur t f.b) true)).waitTag t 0 (objSpace (estSpace f.mod))
      (s.srcAddr s.cur t (objSpace (estSpace f.mod)) f.a) p [.pred f.d.toNat] (if lock then .lock i f.d.toNat else .promise i f.d.toNat) := by
  rw [State.holdWord, State.estate_reached reaches group]
  dsimp only
  rw [heirOk, free, slot]
  exact if_neg unready

end

section
variable {s v : State} {t : Thread} {f : RegF} (executes : s.Executes t f.neg f.pred) {g : Group} {p : Place}
include executes

section
variable (reaches : s.Reaches t (objSpace (estSpace f.mod)) (s.srcAddr s.cur t (objSpace (estSpace f.mod)) f.a) 4 Acc.object p v)
  (group : v.spGroup v.cur t = some g)
include reaches group

theorem execHoldCopy_refused (refused : v.heirOk t (v.src32 v.cur t f.b) = false ∨
      g.entryOn (estSpace f.mod) (s.srcAddr s.cur t (objSpace (estSpace f.mod)) f.a) ≠ none ∨ tableSlot g.estate = none) :
    exec (.holdCopy f) s = .next (v.done t (dstPred f.d false)) := by
  rw [exec_holdCopy, execHoldCopy, State.act_true executes, State.estate_reached reaches group]
  dsimp only
  split
  · next i slot =>
    rw [if_pos]
    rw [Bool.or_eq_true, Bool.not_eq_true', Option.isSome_iff_ne_none]
    exact refused.imp_right fun entry => entry.resolve_right (by simp [slot])
  · rfl

theorem execHoldCopy_taken (heirOk : v.heirOk t (v.src32 v.cur t f.b) = true)
    (free : g.entryOn (estSpace f.mod) (s.srcAddr s.cur t (objSpace (estSpace f.mod)) f.a) = none) {i : Nat}
    (slot : tableSlot g.estate = some i) : exec (.holdCopy f) s = .next ((v.putEntry t.gid i (Entry.make 4 (estSpace f.mod)
      (s.srcAddr s.cur t (objSpace (estSpace f.mod)) f.a) (v.src32 v.cur t f.b) false)).done t (dstPred f.d true)) := by
  rw [exec_holdCopy, execHoldCopy, State.act_true executes, State.estate_reached reaches group]
  dsimp only
  rw [slot, heirOk, free]
  rfl

theorem execHeir_absent (absent : g.entryOn (estSpace f.mod) (s.srcAddr s.cur t (objSpace (estSpace f.mod)) f.a) = none) :
    exec (.heir f) s = .next (v.done t (dstPred f.d false)) := by
  rw [exec_heir, execHeir, State.act_true executes, State.estate_reached reaches group]
  dsimp only
  rw [absent]

theorem execHeir_entry {i : Nat} {e : Entry} (held : e.waiting = false)
    (entry : g.entryOn (estSpace f.mod) (s.srcAddr s.cur t (objSpace (estSpace f.mod)) f.a) = some (i, e)) :
    exec (.heir f) s = .next (if v.heirOk t (v.src32 v.cur t f.b) then
      (v.putEntry t.gid i { e with heir := v.src32 v.cur t f.b }).done t (dstPred f.d true) else v.done t (dstPred f.d false)) := by
  rw [exec_heir, execHeir, State.act_true executes, State.estate_reached reaches group]
  dsimp only
  rw [entry]
  dsimp only
  rw [held]
  cases v.heirOk t (v.src32 v.cur t f.b) <;> rfl

end

/-! ## `drop` and `fulfil` (R291) -/

omit executes in
theorem State.fillsEntry_absent (group : s.spGroup s.cur t = some g)
    (absent : g.entryOn (estSpace f.mod) (s.srcAddr s.cur t (objSpace (estSpace f.mod)) f.a) = none) (kind : Nat) :
    s.fillsEntry t f kind = false := by
  unfold State.fillsEntry
  dsimp only
  rw [group]
  split
  · next found =>
    cases found
    rw [absent]
  · rfl

omit executes in
theorem State.fillsEntry_other (group : s.spGroup s.cur t = some g) {i kind : Nat} {e : Entry}
    (entry : g.entryOn (estSpace f.mod) (s.srcAddr s.cur t (objSpace (estSpace f.mod)) f.a) = some (i, e)) (other : e.kind ≠ kind) :
    s.fillsEntry t f kind = false := by
  unfold State.fillsEntry
  dsimp only
  rw [group]
  split
  · next found =>
    cases found
    rw [entry]
    simp [other]
  · rfl

omit executes in
theorem State.fillsEntry_held (group : s.spGroup s.cur t = some g) {i : Nat} {e : Entry} {q : Place}
    (entry : g.entryOn (estSpace f.mod) (s.srcAddr s.cur t (objSpace (estSpace f.mod)) f.a) = some (i, e)) (held : e.waiting = false)
    (checked : s.access s.cur t (objSpace (estSpace f.mod)) (s.srcAddr s.cur t (objSpace (estSpace f.mod)) f.a) 4 Acc.fill = .ok q) :
    s.fillsEntry t f e.kind = true := by
  unfold State.fillsEntry
  dsimp only
  rw [group, checked]
  dsimp only
  rw [entry]
  simp [held]

section
variable (reaches : s.Reaches t (objSpace (estSpace f.mod)) (s.srcAddr s.cur t (objSpace (estSpace f.mod)) f.a) 4 Acc.fill p v)
  (group : v.spGroup v.cur t = some g)
include reaches group

theorem exec_drops_absent (absent : g.entryOn (estSpace f.mod) (s.srcAddr s.cur t (objSpace (estSpace f.mod)) f.a) = none) :
    exec (.drop f) s = .next (v.done t (dstPred f.d false)) ∧ exec (.fulfil f) s = .next (v.done t (dstPred f.d false)) := by
  have before (kind : Nat) (k : State → State) : s.beforeFill t f kind k = k s := by
    have keeps := reaches.keepsBinds_fill
    rw [keeps.cur, keeps.spGroup] at group
    rw [State.beforeFill, State.fillsEntry_absent group absent]
    rfl
  rw [exec_drop, execDrop, exec_fulfil, execFulfil, State.act_true executes, State.act_true executes, before, before,
    State.estate_reached reaches group, State.estate_reached reaches group]
  rw [absent]
  exact ⟨rfl, rfl⟩

variable {i : Nat} {e : Entry} (entry : g.entryOn (estSpace f.mod) (s.srcAddr s.cur t (objSpace (estSpace f.mod)) f.a) = some (i, e))
include entry

omit executes in
theorem State.beforeFill_other {kind : Nat} (other : e.kind ≠ kind) (k : State → State) : s.beforeFill t f kind k = k s := by
  have keeps := reaches.keepsBinds_fill
  rw [keeps.cur, keeps.spGroup] at group
  rw [State.beforeFill, State.fillsEntry_other group entry other]
  rfl

theorem execFulfil_other (other : e.kind ≠ 1) : exec (.fulfil f) s = .next (v.done t (dstPred f.d false)) := by
  rw [exec_fulfil, execFulfil, State.act_true executes, State.beforeFill_other reaches group entry other, State.estate_reached reaches group]
  rw [entry]
  simp [other]

variable (held : e.waiting = false)
include held

theorem execDrop_promise (promise : e.kind = 1) : exec (.drop f) s = .next (v.done t (dstPred f.d false)) := by
  rw [exec_drop, execDrop, State.act_true executes, State.beforeFill_other reaches group entry (by omega), State.estate_reached reaches group]
  rw [entry]
  dsimp only
  rw [held, promise]
  rfl

theorem execDrop_retires (other : e.kind ≠ 0 ∧ e.kind ≠ 1) :
    exec (.drop f) s = .next ((v.retireEntry t.gid i).done t (dstPred f.d true)) := by
  rw [exec_drop, execDrop, State.act_true executes, State.beforeFill_other reaches group entry other.1, State.estate_reached reaches group]
  rw [entry]
  dsimp only
  rw [held]
  split
  · next unheld => exact absurd unheld (by simp)
  · split
    · exact absurd ‹_› other.1
    · exact absurd ‹_› other.2
    · rfl

end

section
variable {u : State} {q : Place} {i : Nat} {e : Entry}
  (checked : s.access s.cur t (objSpace (estSpace f.mod)) (s.srcAddr s.cur t (objSpace (estSpace f.mod)) f.a) 4 Acc.fill = .ok q)
  (before : s.spGroup s.cur t = some g)
  (entry : g.entryOn (estSpace f.mod) (s.srcAddr s.cur t (objSpace (estSpace f.mod)) f.a) = some (i, e)) (held : e.waiting = false)
  (releases : s.ReleasesAll t u) (same : s.srcAddr s.cur t (objSpace (estSpace f.mod)) f.a = u.srcAddr u.cur t (objSpace (estSpace f.mod)) f.a)
  (reaches : u.Reaches t (objSpace (estSpace f.mod)) (s.srcAddr s.cur t (objSpace (estSpace f.mod)) f.a) 4 Acc.fill p v)
  (group : v.spGroup v.cur t = some g)
include checked before entry held releases same reaches group

omit executes in
/-- A held LOCK or PROMISE is released first, and its object is then reached in the state after the release. -/
theorem State.beforeFill_released (k : State → Group → Place → Nat → BitVec 64 → State) :
    (s.beforeFill t f e.kind fun s => s.estate t f Acc.fill k) =
      k v g p (estSpace f.mod) (s.srcAddr s.cur t (objSpace (estSpace f.mod)) f.a) := by
  rw [State.beforeFill, State.fillsEntry_held before entry held checked, if_pos rfl, State.releaseFirst_done releases,
    State.estate_reached (same ▸ reaches) group, ← same]

theorem execDrop_lock (lock : e.kind = 0) : exec (.drop f) s = .next (v.fillEntry t f i p) := by
  rw [exec_drop, execDrop, State.act_true executes, ← lock, State.beforeFill_released checked before entry held releases same reaches group]
  rw [entry]
  dsimp only
  rw [held, lock]
  rfl

theorem execFulfil_promise (promise : e.kind = 1) : exec (.fulfil f) s = .next (v.fillEntry t f i p) := by
  rw [exec_fulfil, execFulfil, State.act_true executes, ← promise,
    State.beforeFill_released checked before entry held releases same reaches group]
  rw [entry]
  simp [held]

end

end

/-! ## Slots, group heirs and the table (R284, R287, R290 to R292) -/

section
variable {s : State} {t : Thread} {g : Group} {c : BitVec 32}

theorem State.slotQueue_own (gid : Nat) (high : bits c 31 9 = 0) (own : bits c 8 8 = 0) : s.slotQueue gid g c = some (gid, bits c 3 0) := by
  rw [State.slotQueue, if_neg (not_not.2 high), if_pos own]

theorem State.slotRoom_iff {o q n : Nat} {h : Group} {b : QBind} (owner : s.group? o = some h) (bound : KV.at? h.queues q = some b) :
    s.slotRoom o q n = true ↔ qOcc (s.qcw h b.ofs) + b.rsvd + n ≤ qDepth (s.qcw h b.ofs) := by
  rw [State.slotRoom, owner]
  dsimp only
  rw [bound]
  exact decide_eq_true_iff

end

section
variable {s : State} {t : Thread} {f : RegF} (executes : s.Executes t f.neg f.pred) {g : Group} (group : s.spGroup s.cur t = some g)
include executes group

theorem execHoldSlot_none (none : s.slotQueue t.gid g (s.src32 s.cur t f.a) = none) :
    exec (.holdSlot f) s = .next (s.done t (dstPred f.d false)) := by
  rw [exec_holdSlot, execHoldSlot, State.act_true executes, group]
  dsimp only
  rw [none]

/-- With a queue, a free index, an heir that may be named and no SLOT entry on the queue, the count and the room decide (R287). -/
theorem execHoldSlot_queue {o q i : Nat} (queue : s.slotQueue t.gid g (s.src32 s.cur t f.a) = some (o, q)) (slot : tableSlot g.estate = some i)
    (heirOk : s.heirOk t (s.src32 s.cur t f.b) = true) (single : ∀ e ∈ g.estate, ¬(e.2.kind = 2 ∧ e.2.qgid = o ∧ bits e.2.addr 3 0 = q)) :
    exec (.holdSlot f) s = .next (if (s.src32 s.cur t f.c).toNat = 0 ∨ 4096 < (s.src32 s.cur t f.c).toNat then s.done t (dstPred f.d false)
      else if s.slotRoom o q (s.src32 s.cur t f.c).toNat = false then s.done t (dstPred f.d false)
      else ((s.updGroup o fun g => { g with queues := KV.upd g.queues q fun (b : QBind) =>
        { b with rsvd := b.rsvd + (s.src32 s.cur t f.c).toNat } }).putEntry t.gid i ⟨2, 0, (s.src32 s.cur t f.a).setWidth 64,
          (s.src32 s.cur t f.c).toNat, o, s.src32 s.cur t f.b, false, BitVec.allOnes 64, false⟩).done t (dstPred f.d true)) := by
  have free : (g.estate.any fun e => e.2.onQueue o q) = false := by
    rw [List.any_eq_false]
    intro e member
    simpa [Entry.onQueue] using single e member
  rw [exec_holdSlot, execHoldSlot, State.act_true executes, group]
  dsimp only
  rw [queue, slot]
  dsimp only
  rw [heirOk, free, Bool.not_true, Bool.or_self, Bool.false_or]
  cases s.slotRoom o q (s.src32 s.cur t f.c).toNat <;> rfl

theorem exec_slots_none (none : s.slotEntry t.gid g (s.src32 s.cur t f.a) = none) :
    exec (.dropSlot f) s = .next (s.done t (dstPred f.d false)) ∧ exec (.heirSlot f) s = .next (s.done t (dstPred f.d false)) := by
  rw [exec_dropSlot, execDropSlot, exec_heirSlot, execHeirSlot, State.act_true executes, State.act_true executes, group]
  dsimp only
  rw [none]
  exact ⟨rfl, rfl⟩

section
variable {i : Nat} {e : Entry} (entry : s.slotEntry t.gid g (s.src32 s.cur t f.a) = some (i, e))
include entry

theorem execDropSlot_entry : exec (.dropSlot f) s =
    .next (if (s.src32 s.cur t f.c).toNat = 0 ∨ e.count < (s.src32 s.cur t f.c).toNat then s.done t (dstPred f.d false)
      else (if e.count = (s.src32 s.cur t f.c).toNat then (s.unreserve e (s.src32 s.cur t f.c).toNat).retireEntry t.gid i
        else (s.unreserve e (s.src32 s.cur t f.c).toNat).putEntry t.gid i
          { e with count := e.count - (s.src32 s.cur t f.c).toNat }).done t (dstPred f.d true)) := by
  rw [exec_dropSlot, execDropSlot, State.act_true executes, group]
  dsimp only
  rw [entry]

theorem execHeirSlot_entry : exec (.heirSlot f) s = .next (if s.heirOk t (s.src32 s.cur t f.b) then
    (s.putEntry t.gid i { e with heir := s.src32 s.cur t f.b }).done t (dstPred f.d true) else s.done t (dstPred f.d false)) := by
  rw [exec_heirSlot, execHeirSlot, State.act_true executes, group]
  dsimp only
  rw [entry]
  dsimp only
  cases s.heirOk t (s.src32 s.cur t f.b) <;> rfl

end

/-- An estate handler, which has no group, names no heir (R297). -/
theorem execHeirGrp_eq : exec (.heirGrp f) s = .next (if s.heirOk t (s.src32 s.cur t f.b) then
    (s.updLaunch t.lid fun l => { l with heirs := KV.put l.heirs t.grp.toNat (s.src32 s.cur t f.b) }).done t (dstPred f.d true)
      else s.done t (dstPred f.d false)) := by
  have plain : isEstateHandler s.cur t = false := by
    unfold State.spGroup at group
    split at group
    · cases group
    · next other => exact eq_false_of_ne_true other
  rw [exec_heirGrp, execHeirGrp, State.act_true executes]
  dsimp only
  rw [plain, Bool.or_false]
  cases s.heirOk t (s.src32 s.cur t f.b) <;> rfl

omit executes in
theorem State.estEntry_held {e : Entry} {i : BitVec 32} (entry : KV.at? g.estate i.toNat = some e) (held : e.waiting = false) :
    s.estEntry t i = some e := by
  rw [State.estEntry, group]
  dsimp only
  rw [entry]
  dsimp only
  rw [held]
  rfl

omit executes in
theorem State.estEntry_absent {i : BitVec 32} (absent : KV.at? g.estate i.toNat = none) : s.estEntry t i = none := by
  rw [State.estEntry, group]
  dsimp only
  rw [absent]

end

theorem Entry.info_eq {e : Entry} (kind : e.kind < 8) (space : e.space < 4) : e.info =
    e.heir ++ BitVec.ofNat 32 (128 + (if e.conv = true then 64 else 0) + 16 * e.space + e.kind) := by
  have heir := e.heir.isLt
  have low : 128 + (if e.conv = true then 64 else 0) + 16 * e.space + e.kind < 2 ^ 32 := by split <;> omega
  refine BitVec.eq_of_toNat_eq ?_
  rw [Entry.info, BitVec.toNat_append, BitVec.toNat_ofNat, BitVec.toNat_ofNat, Nat.mod_eq_of_lt low, ← Nat.shiftLeft_add_eq_or_of_lt low,
    Nat.shiftLeft_eq, Nat.mod_eq_of_lt space, Nat.mod_eq_of_lt kind]
  omega

theorem Entry.objValue_slot {e : Entry} (slot : e.kind = 2) : e.objValue = BitVec.ofNat 64 (e.count * 2 ^ 16 + bits e.addr 8 0) := by
  rw [Entry.objValue, slot]
  rfl

theorem Entry.objValue_other {e : Entry} (other : e.kind ≠ 2) : e.objValue = e.addr := by
  unfold Entry.objValue
  split
  · exact absurd ‹_› other
  · rfl

theorem Group.heldMask_iff (g : Group) {i : Nat} (small : i < 64) :
    g.heldMask.getLsbD i = true ↔ ∃ e, (i, e) ∈ g.estate ∧ e.waiting = false := by
  have flip : (fun (m : BitVec 64) (e : Nat × Entry) => if e.2.waiting then m else m ||| ((1 : BitVec 64) <<< e.1)) =
      fun m e => if !e.2.waiting then m ||| ((1 : BitVec 64) <<< e.1) else m := by
    funext m e
    cases e.2.waiting <;> rfl
  rw [Group.heldMask, flip, getLsbD_mask (fun e : Nat × Entry => !e.2.waiting) Prod.fst small]
  constructor
  · rintro ⟨⟨n, e⟩, member, held, rfl⟩
    exact ⟨e, member, by simpa using held⟩
  · rintro ⟨e, member, held⟩
    exact ⟨(i, e), member, by simpa using held, rfl⟩

end Sys2Proof.Machine

namespace Sys2Proof

open Machine

/-- Settles O34: an instruction on an object by the state in which that is reached, one on a slot by its entry, and a query by the table. -/
theorem estates : Obligations.Estates := by
  refine ⟨?_, ?_⟩
  · rintro s v u t f g p spc ea sp k executes rfl rfl rfl rfl group
    refine ⟨fun reaches => ⟨fun refused => ?_, fun i heirOk free slot => ?_⟩,
      fun reaches => ⟨exec_drops_absent executes reaches group, fun i e entry held => ?_⟩,
      fun q i e checked before entry held releases same reaches j kind => ?_, fun reaches => ⟨execHoldCopy_refused executes reaches group,
        fun i heirOk free slot => execHoldCopy_taken executes reaches group heirOk free slot, execHeir_absent executes reaches group,
        fun i e entry held => ?_⟩⟩
    · rw [exec_holdLock, execHoldLock, exec_promise, execPromise, State.act_true executes, State.act_true executes]
      exact ⟨congrArg _ (State.holdWord_refused reaches group true refused), congrArg _ (State.holdWord_refused reaches group false refused)⟩
    · rw [exec_holdLock, execHoldLock, exec_promise, execPromise, State.act_true executes, State.act_true executes]
      refine ⟨fun full => ?_, fun empty => ?_, fun empty => ?_, fun full => ?_⟩
      · exact congrArg _ (State.holdWord_taken reaches group true heirOk free slot full)
      · exact congrArg _ (State.holdWord_taken reaches group false heirOk free slot empty)
      · exact congrArg _ (State.holdWord_waits reaches group true heirOk free slot (by simp [empty]))
      · exact congrArg _ (State.holdWord_waits reaches group false heirOk free slot (by simp [full]))
    · refine ⟨fun lock => ?_, fun promise => ?_, fun other => ⟨?_, ?_⟩⟩
      · exact execFulfil_other executes reaches group entry (by omega)
      · exact execDrop_promise executes reaches group entry held promise
      · exact execDrop_retires executes reaches group entry held (by omega)
      · exact execFulfil_other executes reaches group entry (by omega)
    · obtain ⟨lock, rfl⟩ | ⟨promise, rfl⟩ := kind
      · exact execDrop_lock executes checked before entry held releases same reaches group lock
      · exact execFulfil_promise executes checked before entry held releases same reaches group promise
    · rw [execHeir_entry executes reaches group held entry]
      exact ⟨fun bad => by rw [bad]; rfl, fun good => by rw [good]; rfl⟩
  · intro s t f g executes group
    refine ⟨execHoldSlot_none executes group, fun high own => State.slotQueue_own t.gid high own,
      fun o q i h b queue owner bound slot heirOk single => ?_,
      exec_slots_none executes group, fun i e entry => ?_, fun good => ?_, fun bad => ?_, fun e entry held => ?_, fun absent => ?_, g.heldMask, ?_,
      fun i small => g.heldMask_iff small⟩
    · rw [execHoldSlot_queue executes group queue slot heirOk single]
      refine ⟨fun refused => ?_, fun pos few room => ?_⟩
      · split
        · rfl
        · next counted =>
          rw [if_pos]
          rw [← Bool.not_eq_true, State.slotRoom_iff owner bound]
          omega
      · rw [if_neg (by omega), (State.slotRoom_iff owner bound).2 room]
        rfl
    · rw [execDropSlot_entry executes group entry, execHeirSlot_entry executes group entry]
      refine ⟨fun refused => congrArg _ (if_pos refused), fun pos fewer => ?_, fun pos all => ?_, fun good => ?_, fun bad => ?_⟩
      · rw [if_neg (by omega), if_neg (by omega)]
      · rw [if_neg (by omega), if_pos all.symm]
      · rw [good]
        rfl
      · rw [bad]
        rfl
    · rw [execHeirGrp_eq executes group, good]
      rfl
    · rw [execHeirGrp_eq executes group, bad]
      rfl
    · have there := State.estEntry_held group entry held
      rw [exec_estqFrom, execEstqFrom, exec_estqInfo, execEstqInfo, exec_estqObj, execEstqObj]
      simp only [State.compute_true executes, there]
      exact ⟨trivial, fun kind space => by rw [Entry.info_eq kind space], fun other => by rw [Entry.objValue_other other],
        fun slotEntry => by rw [Entry.objValue_slot slotEntry]⟩
    · have none := State.estEntry_absent group absent
      rw [exec_estqFrom, execEstqFrom, exec_estqInfo, execEstqInfo, exec_estqObj, execEstqObj]
      simp only [State.compute_true executes, none, and_self]
    · rw [exec_estqMask, execEstqMask, State.compute_true executes, group]

end Sys2Proof
end

section
/-! O42: handlers start and return (R205, R297, R326 to R330). -/

namespace Sys2Proof.Machine

theorem KV.mem_of_at? {κ α : Type} [DecidableEq κ] {m : KV κ α} {k : κ} {v : α} (found : KV.at? m k = some v) : (k, v) ∈ m := by
  induction m with
  | nil => cases found
  | cons e r ih =>
    obtain ⟨a, x⟩ := e
    unfold KV.at? at found
    split at found
    · next same =>
      cases found
      exact same ▸ List.mem_cons_self
    · exact List.mem_cons_of_mem _ (ih found)

theorem lowestFree_free {used : List Nat} {lo n k : Nat} (free : lowestFree used lo n = some k) : k ∉ used := by
  induction n generalizing lo with
  | zero => cases free
  | succ n ih =>
    unfold lowestFree at free
    split at free
    · exact ih free
    · next unused =>
      cases free
      simpa using unused

/-- No thread stands in the slot that a handler takes (R326). -/
theorem State.poolSlot_free {s : State} {core n : Nat} (slot : s.poolSlot core = some n) : s.thread? (.handler core n) = none := by
  refine Option.eq_none_iff_forall_ne_some.2 fun t taken => lowestFree_free slot (List.mem_append_left _ ?_)
  exact List.mem_filterMap.2 ⟨_, KV.mem_of_at? taken, if_pos rfl⟩

theorem trapRegsOf_named (cause : BitVec 32) (pc w : BitVec 64) :
    (trapRegsOf cause pc w).cause = cause ∧ (trapRegsOf cause pc w).pc = pc ∧ (trapRegsOf cause pc w).word = w := by
  unfold trapRegsOf
  dsimp only
  split <;> exact ⟨rfl, rfl, rfl⟩

theorem State.startHandler_eq {s : State} {core n : Nat} {w : Who} {t : Thread} {r : TrapRec} {l : Launch} (thread : s.thread? w = some t)
    (trapped : t.trapRec = some r) (launch : s.launch? t.lid = some l) : s.startHandler core n w =
      ((s.updCore core fun c => { c with trapQueue := c.trapQueue.filter (· ≠ w) }).updLaunch t.lid
        fun l => { l with status := l.status ||| 8 }).setThread (.handler core n) (handlerThread w t r (l.handlerFor r.cause) s.clock) := by
  unfold State.startHandler
  rw [thread]
  dsimp only
  rw [trapped, launch]
  rfl

theorem execTret_resumes {s u : State} {t : Thread} {f : RegF} {core n : Nat} {o : Who} (executes : s.Executes t f.neg f.pred)
    (handler : s.cur = .handler core n) (closed : t.wins = []) (origin : t.origin = some o) (flushes : s.Flushes t u) :
    exec (.tret f) s = .next (u.tret t o) := by
  have transfers : s.Transfers t t f.neg f.pred :=
    ⟨executes.1, by rw [closed]; rfl, (t.closeWindows_none true closed).symm, executes.2⟩
  rw [exec_tret, execTret, State.transfer_true transfers, handler]
  dsimp only
  rw [State.flushThen_done flushes, origin]

theorem execHandlerStart_trap {s : State} {core n : Nat} {w : Who} (next : s.nextHandler core = some (.trap w))
    (slot : s.poolSlot core = some n) : exec (.handlerStart core) s = .next ((s.startHandler core n w).raise (.handlerStart core)) := by
  rw [exec_handlerStart, execHandlerStart, next, slot]

theorem execEstateHandlerStart_report {s : State} {core n : Nat} {r : Report} (next : s.nextHandler core = some (.report r))
    (slot : s.poolSlot core = some n) : exec (.estateHandlerStart core) s = .next ((s.startReport core n r).raise (.handlerStart core)) := by
  rw [exec_estateHandlerStart, execEstateHandlerStart, next, slot]

theorem State.tret_unheld {s : State} {t v : Thread} {o : Who} {r : TrapRec} (other : o ≠ s.cur) (thread : s.thread? o = some v)
    (trapped : v.trapRec = some r) (unheld : r.held = none) : s.tret t o =
      ((s.delThread s.cur).freeSlot (s.coreOf s.cur t) (laneOf s.cur t)).setThread o (v.resumed r s.clock) := by
  have there : ((s.delThread s.cur).freeSlot (s.coreOf s.cur t) (laneOf s.cur t)).thread? o = some v :=
    (s.thread?_delThread_other other).trans thread
  unfold State.tret
  dsimp only
  rw [there]
  dsimp only
  rw [trapped]
  dsimp only
  rw [unheld]
  rfl

theorem Thread.resumed_keeps (t : Thread) (r : TrapRec) (clock : Nat) :
    (t.resumed r clock).status = .ready ∧ (t.resumed r clock).trapRec = none ∧ (t.resumed r clock).regs = t.regs ∧
      (t.resumed r clock).sregs = t.sregs ∧ (t.resumed r clock).preds = t.preds := by
  unfold Thread.resumed
  dsimp only
  repeat' split
  all_goals exact ⟨rfl, rfl, rfl, rfl, rfl⟩

theorem Thread.resumed_pc (t : Thread) (r : TrapRec) (clock : Nat) :
    (t.resumed r clock).pc = if t.pc = r.pc ∧ r.pass = true then r.pc + 8 else t.pc := by
  unfold Thread.resumed
  by_cases here : t.pc = r.pc
  · cases pass : r.pass <;> simp [here]
  · simp [here]

theorem Thread.resumed_recorded (t : Thread) (r : TrapRec) (clock : Nat) :
    (t.resumed r clock).skips = (if t.pc = r.pc then skipPcs r.pc r.skip else []) ∧
      (t.resumed r clock).replays = (if t.pc = r.pc then r.replays else []) ∧
      (t.resumed r clock).wrote = (if t.pc = r.pc then r.wrote else []) := by
  unfold Thread.resumed
  by_cases here : t.pc = r.pc
  · cases pass : r.pass <;> simp [here]
  · simp [here]

end Sys2Proof.Machine

namespace Sys2Proof

open Machine

/-- Settles O42: each start by what its slot's thread is, the return by what the origin's record says. -/
theorem handlersStartAndReturn : Obligations.HandlersStartAndReturn := by
  refine ⟨fun s core n w t r l thread trapped launch next slot => ?_, fun s core n r l next slot launch => ?_,
    fun s u t v f core n o r executes handler closed origin flushes other thread trapped unheld => ?_⟩
  · have away : w ≠ .handler core n := by
      rintro rfl
      rw [State.poolSlot_free slot] at thread
      cases thread
    obtain ⟨cause, pc, word⟩ := trapRegsOf_named r.cause r.pc r.word
    rw [execHandlerStart_trap next slot, State.startHandler_eq thread trapped launch]
    refine ⟨_, handlerThread w t r (l.handlerFor r.cause) s.clock, rfl, State.thread?_setThread_same _ _ _, ?_, ?_, ?_, rfl, rfl, rfl,
      cause, pc, word, rfl, fun lane => ?_, rfl, fun c => rfl, rfl⟩
    · exact (State.thread?_setThread_other _ _ away).trans thread
    · show w ∉ ((s.updCore core fun c => { c with trapQueue := c.trapQueue.filter (· ≠ w) }).core core).trapQueue
      rw [State.core_updCore_same]
      simp
    · exact (State.launch?_updLaunch_same _ _ _).trans (congrArg _ launch)
    · unfold handlerThread
      rw [lane]
      exact ⟨rfl, rfl⟩
  · rw [execEstateHandlerStart_report next slot]
    refine ⟨_, estateThread r l.estHandler s.clock, rfl, ?_, ?_, rfl, rfl, rfl, rfl, rfl, rfl, rfl, rfl, rfl, rfl, rfl⟩
    · rw [State.startReport, launch]
      exact State.thread?_setThread_same _ _ _
    · show ((s.updCore core fun c => { c with reports := c.reports.erase r }).core core).reports = _
      rw [State.core_updCore_same]
  · rw [execTret_resumes executes handler closed origin flushes, State.tret_unheld other thread trapped unheld]
    obtain ⟨status, cleared, regs, sregs, preds⟩ := v.resumed_keeps r u.clock
    obtain ⟨skips, replays, wrote⟩ := v.resumed_recorded r u.clock
    exact ⟨_, v.resumed r u.clock, rfl, (State.thread?_setThread_other _ _ other.symm).trans (u.thread?_delThread_same _),
      State.thread?_setThread_same _ _ _, status, cleared, v.resumed_pc r u.clock, regs, sregs, preds, skips, replays, wrote⟩

end Sys2Proof
end

section
/-! O37 fails: `epld` reads its program as the steward's own loads (R277, R332), and the record of an error that the read corrects goes into the
log of the partition, which lies in memory (R393, R405). -/

namespace Sys2Proof.Machine

/-- The steward of a group for which no asynchronous fault and no bad queue waits goes on with its group 14 instruction (R56, R264). -/
theorem State.arrayThen_none {s : State} {t : Thread} {g : Group} (commands : s.Commands t g) (k : State) : s.arrayThen t k = k := by
  obtain ⟨steward, group, fault, good⟩ := commands
  have quiet : ∀ c, s.asyncThen t c = c := fun c => by simp only [State.asyncThen, steward, group, fault]
  rw [State.arrayThen, quiet, State.engineThen_none steward group good (by simp [fault])]

/-- A group 14 instruction whose guard holds is carried out for its steward's group. -/
theorem State.arrayAct_true {s : State} {t : Thread} {f : RegF} {g : Group} (executes : s.Executes t f.neg f.pred) (commands : s.Commands t g)
    (k : Thread → Group → State) : s.arrayAct f k = .next (k t g) := by
  rw [State.arrayAct, State.act_true executes, commands.2.1]
  dsimp only
  rw [State.arrayThen_none commands]

/-- Halves of the group's partition that no other group holds pass the checks of R253. -/
theorem State.spanThen_open {s : State} {t : Thread} {g : Group} {hs : List Nat} (isOpen : s.HalvesOpen t g hs) (tenant : BitVec 32) (k : State) :
    s.spanThen t g hs tenant k = k := by
  have mine : hs.any (fun h => decide ((s.half g.core h).part ≠ some g.part)) = false :=
    List.any_eq_false.2 fun h member => by simp [(isOpen h member).1]
  have unheld : hs.any (fun h => (match (s.half g.core h).holder with | some x => decide (x ≠ t.gid) | none => false)) = false :=
    List.any_eq_false.2 fun h member => by
      obtain ⟨-, none_ | own, -⟩ := isOpen h member
      · simp [none_]
      · simp [own]
  simp only [State.spanThen, mine, Bool.false_eq_true, if_false]
  split
  · next held => exact absurd (unheld.symm.trans held) Bool.false_ne_true
  · rfl

theorem State.foldl_updHalf_mem (core : Nat) (f : Nat → Half → Half) (hs : List Nat) (s : State) :
    (hs.foldl (fun s h => s.updHalf core h (f h)) s).mem = s.mem := by
  induction hs generalizing s with
  | nil => rfl
  | cons h hs ih => exact ih _

/-- Queueing a command leaves memory as it is. -/
theorem State.arrayIssue_mem (s : State) (t : Thread) (g : Group) (span : Nat) (hs : List Nat) (k : MxKind) :
    (s.arrayIssue t g span hs k).mem = s.mem := by
  unfold State.arrayIssue
  split
  · exact State.waitFor_mem _ _ _
  · exact (State.foldl_updHalf_mem _ _ _ _).trans (State.foldl_updHalf_mem _ _ _ _)

/-- An `epld` whose program is read and found legal is queued in the state that the read has left (R277, R332). -/
theorem execEpld_issues {s v : State} {t : Thread} {f : RegF} {g : Group} {ofs n : Nat} {l : Loc} {ws : List (BitVec 32)}
    (executes : s.Executes t f.neg f.pred) (commands : s.Commands t g) (isOpen : s.HalvesOpen t g (spanHalves (spanOf f.mod)))
    (place : ofs = (s.src32 s.cur t f.a).toNat) (count : n = (s.src64 s.cur t f.b).toNat) (pos : 0 < n) (few : n ≤ 64) (aligned : ofs % 4 = 0)
    (within : inAlloc g ofs (4 * n) = true) (loc : l = spLoc g.core (g.spBase + ofs)) (free : s.heldBack t .sp none l (4 * n) false = none)
    (read : s.readFor (s.victimOf s.cur t) 0 l (4 * n) = (v, none))
    (words : ws = (List.range n).map fun i => v.rdWord { l with key := l.key + 4 * i })
    (legal : v.esIllegal t ws = none) (slots : v.esBadSlot t ws = none) :
    exec (.epld f) s = .next (v.arrayIssue t g (spanOf f.mod) (spanHalves (spanOf f.mod)) (.load ws)) := by
  rw [exec_epld, execEpld, State.arrayAct_true executes commands, State.spanThen_open isOpen]
  subst place count loc words
  dsimp only
  rw [if_neg (by omega), if_neg (by omega), within, if_neg (by decide), State.programWords, free]
  dsimp only
  rw [read]
  dsimp only
  rw [legal]
  dsimp only
  rw [slots]

end Sys2Proof.Machine

namespace Sys2Proof

open Machine

/-- A steward with a program of one `es.nop` at offset 0, that first word of the scratchpad having a correctable error; the partition's log of one
record lies at 0x100 of the first page, and half 0 of its core belongs to the partition. -/
def wrongProgram : State :=
  { wrongDescriptor with mem := [], halves := [((0, 0), { Half.reset with part := some 0 })] }

/-- The `epld` of one word at the offset in `s0` into half 0, always executed. -/
def plainEpld : RegF := { neg := false, pred := 0, d := 0x94, a := 0, b := 0xC1, c := 0x94, la := 0, mod := 0 }

/-- What the read of the program leaves, and the cause that it receives. -/
def wrongProgramRead : State × Option (BitVec 32) :=
  wrongProgram.readFor (wrongProgram.victimOf wrongProgram.cur plainThread) 0 (spLoc 0 0) 4

theorem wrongProgramRead_done : wrongProgram.heldBack plainThread .sp none (spLoc 0 0) 4 false = none ∧ wrongProgramRead.2 = none := by
  decide +kernel

/-- The record of the corrected error stands in memory. -/
theorem wrongProgramRead_mem : wrongProgramRead.1.mem ≠ wrongProgram.mem := by
  decide +kernel

/-- The program is the same before and after the read, and it is legal. -/
theorem wrongProgram_legal : wrongProgram.rdWord (spLoc 0 0) = 0 ∧ wrongProgramRead.1.rdWord (spLoc 0 0) = 0 ∧
    wrongProgramRead.1.esIllegal plainThread [0] = none ∧ wrongProgramRead.1.esBadSlot plainThread [0] = none := by
  decide +kernel

/-- Refutes O37: the `epld` of `wrongProgram` is queued, but the read of its program has written an error record, so it does not leave memory as it
was. -/
theorem not_arrayCommands : ¬ Obligations.ArrayCommands := by
  unfold Obligations.ArrayCommands
  intro claim
  obtain ⟨before, after, legal, slots⟩ := wrongProgram_legal
  obtain ⟨free, cause⟩ := wrongProgramRead_done
  have executes : wrongProgram.Executes plainThread plainEpld.neg plainEpld.pred := ⟨rfl, rfl⟩
  have commands : wrongProgram.Commands plainThread plainGroup := ⟨rfl, rfl, rfl, fun e he => absurd he List.not_mem_nil⟩
  have isOpen : wrongProgram.HalvesOpen plainThread plainGroup [0] := by
    intro h member
    cases List.mem_singleton.1 member
    exact ⟨rfl, .inl rfl, by decide⟩
  have read : wrongProgram.readFor (wrongProgram.victimOf wrongProgram.cur plainThread) 0 (spLoc 0 0) 4 = (wrongProgramRead.1, none) := by
    rw [← cause, wrongProgramRead]
  obtain ⟨-, -, queued, -⟩ :=
    claim wrongProgram wrongProgramRead.1 plainThread plainEpld plainGroup 0 [0] descriptorPlace executes commands rfl rfl
  obtain ⟨-, -, -, load⟩ := queued isOpen
  obtain ⟨taken, -⟩ := load 0 1 [0] (spLoc 0 0) rfl (by decide) Nat.zero_lt_one (by decide) rfl (by decide) rfl free read (by rw [← before]; rfl)
  obtain ⟨u, next, -, mem, -⟩ := taken legal slots
  have issues := execEpld_issues (ofs := 0) (n := 1) executes commands isOpen rfl (by decide) Nat.zero_lt_one (by decide) rfl (by decide) rfl free
    read (by rw [← after]; rfl) legal slots
  have same := Host.Outcome.next.inj (issues.symm.trans next)
  rw [← same, State.arrayIssue_mem] at mem
  exact wrongProgramRead_mem mem

end Sys2Proof
end

section
/-! O38: the array halves at work (R263, R269 to R278). -/

namespace Sys2Proof.Machine

theorem execArrayCommandStart_waits {s : State} {core half : Nat} {m : MxCmd} (first : (s.half core half).queue.find? (fun m => !m.started) = some m)
    (waits : s.mayStart core m = false) : exec (.arrayCommandStart core half) s = .next s := by
  rw [exec_arrayCommandStart, execArrayCommandStart, first]
  simp [waits]

theorem execArrayCommandStart_starts {s : State} {core half : Nat} {m : MxCmd} (first : (s.half core half).queue.find? (fun m => !m.started) = some m)
    (may : s.mayStart core m = true) : exec (.arrayCommandStart core half) s = .next (s.startMx core m) := by
  rw [exec_arrayCommandStart, execArrayCommandStart, first]
  simp [may]

/-- A drain in one half whose check passes starts its program (R272, R276). -/
theorem State.startDrain_pass {s : State} {core h bank : Nat} {m : MxCmd} (one : s.cmdHalves core m.cid = [h])
    (pass : (s.half core h).check bank = .pass) : s.startDrain core m bank =
      (s.markStarted core m.cid).updHalf core h fun x => { x with run := some (x.startRun m.cid bank) } := by
  simp only [State.startDrain, one, State.checkHalves, State.checkHalf, pass, Bool.and_self, if_true, List.foldl]

/-- `mzero` clears its bank's elements and its progress count (R269). -/
theorem Half.zero_cleared (x : Half) {b k : Nat} (from_ : 8192 * b ≤ k) (to_ : k < 8192 * b + 8192) :
    Sparse.rd (x.zero b).acc k = 0 ∧ (x.zero b).progress b = 0 := by
  have inside : b * 8192 ≤ k ∧ k < b * 8192 + 8192 := by omega
  have cleared : Sparse.rd (Sparse.clear x.acc (b * 8192) (b * 8192 + 8192)) k = 0 := by rw [Sparse.rd_clear, if_pos inside]
  by_cases zero : b = 0 <;> simpa [Half.zero, Half.setProgress, Half.progress, zero] using cleared

/-- With no storage error anywhere, reading the entries of queues changes nothing (R332). -/
theorem State.readEntries_clean {s : State} (clean : s.flaws = []) (gid : Nat) (g : Group) (adv : List (Nat × Nat)) :
    adv.foldl (fun s e => s.readEntries gid g e.1 e.2) s = s := by
  induction adv with
  | nil => rfl
  | cons e adv ih =>
    have same : s.readEntries gid g e.1 e.2 = s := by simp [State.readEntries, clean]
    rw [List.foldl_cons, same, ih]

theorem execMmaKgroupStep_steps {s : State} {core half b q l0 kg ofs sofs : Nat} {m : MxCmd} {g : Group} {fa fb : BitVec 64}
    (first : (s.half core half).queue.find? (fun m => m.started && decide ((spanHalves m.span).headD 0 = half) && s.mmaReady core m) = some m)
    (kind : m.kind = .mma b q l0 kg fa fb) (group : s.group? m.gid = some g) (queue : s.runQueue g q = some ofs)
    (scales : (if separate fa = true then s.runQueue g (q + 1) else some 0) = some sofs) : exec (.mmaKgroupStep core half) s =
      .next (s.mmaTake core m g b l0 kg fa fb (s.stepReady g ofs sofs (spanRows m.span) fa fb)) := by
  rw [exec_mmaKgroupStep, execMmaKgroupStep, first]
  dsimp only
  rw [kind, group]
  dsimp only
  rw [State.mmaStep, queue, scales]

theorem execDrainOutputEntry_runs {s : State} {core half b q pb : Nat} {n : BitVec 32} {r : DrainRun} {m : MxCmd} {g : Group} {z : Bool}
    (run : (s.half core half).run = some r) (first : (s.half core half).queue.find? (fun m => decide (m.cid = r.cid)) = some m)
    (kind : m.kind = .drain b q pb z n) (group : s.group? m.gid = some g) (turn : m.span = 2 → half = 1 → (s.half core 0).run = none) :
    exec (.drainOutputEntry core half) s = .next (s.drainOutput core half m g b q z r) := by
  have other : ¬ (m.span = 2 ∧ half = 1 ∧ (s.half core 0).run.isSome = true) := by
    rintro ⟨span, second, some_⟩
    simp [turn span second] at some_
  rw [exec_drainOutputEntry, execDrainOutputEntry, run]
  dsimp only
  rw [first]
  dsimp only
  rw [kind, group]
  exact if_neg other

end Sys2Proof.Machine

namespace Sys2Proof

open Machine

/-- Settles O38: each command's start by its kind, a step with its A chunk there, an output entry by the room in its queue. -/
theorem halvesAtWork : Obligations.HalvesAtWork := by
  refine ⟨fun s core half h m first one => ⟨execArrayCommandStart_waits first, fun may => ?_⟩,
    fun x b k _ _ from_ to_ => x.zero_cleared from_ to_, ?_, ?_⟩
  · rw [execArrayCommandStart_starts first may, State.startMx, one]
    refine ⟨fun b kind => ?_, fun ws kind => ?_, fun b q l0 kg fa fb kind => ?_, fun c l n kind => ?_, fun b q pb z n kind pass => ?_⟩
    · rw [kind]
      rfl
    · rw [kind]
      rfl
    · rw [kind]
      rfl
    · rw [kind]
    · rw [kind]
      exact congrArg _ (State.startDrain_pass one pass)
  · intro s core half m g b q l0 kg p fa fb ofs sofs chunk scales adv v clean first kind group queue scale progress ready after
    have lowest : (spanHalves m.span).headD 0 = half := by
      have holds := List.find?_some first
      simp only [Bool.and_eq_true, decide_eq_true_eq] at holds
      exact holds.1.2
    rw [execMmaKgroupStep_steps first kind group queue scale, ready, after, progress]
    simp only [State.mmaTake, State.readEntries_clean clean, lowest]
  · intro s core half ofs r m g b q pb n z run first kind group turn queue
    rw [execDrainOutputEntry_runs run first kind group turn]
    simp only [State.drainOutput, queue]
    refine ⟨fun taken => by rw [if_pos taken], fun free full => ?_⟩
    rw [if_neg (by simp [free]), if_pos full]
    exact ⟨fun room => by rw [if_pos room], fun none_ => by rw [if_neg (Nat.not_lt.2 none_)]⟩

end Sys2Proof
end

section
/-! What reads, served waits and their acts leave alone (R172, R332). -/

namespace Sys2Proof.Machine

/-- `u` is `s` but for memory, tags, threads, groups, waits, queries, turns, and what a record of an error changes: what serving a wait list may
change (R172, R332). -/
def State.ServesOnly (s u : State) : Prop :=
  u = { s with
    mem := u.mem, tags := u.tags, secKey := u.secKey, flaws := u.flaws, threads := u.threads, groups := u.groups, waits := u.waits, cores := u.cores,
    queries := u.queries, turns := u.turns, logs := u.logs, fleet := u.fleet, parts := u.parts, irqs := u.irqs }

theorem State.ServesOnly.refl (s : State) : s.ServesOnly s := rfl

theorem State.ServesOnly.trans {s u v : State} (h : s.ServesOnly u) (k : u.ServesOnly v) : s.ServesOnly v := by
  unfold State.ServesOnly at *
  rw [k, h]

theorem State.RecordsOnly.servesOnly {s u : State} (h : s.RecordsOnly u) : s.ServesOnly u := by
  unfold State.RecordsOnly at h
  unfold State.ServesOnly
  rw [h]

theorem State.WritesOnly.servesOnly {s u : State} (h : s.WritesOnly u) : s.ServesOnly u := by
  unfold State.WritesOnly at h
  unfold State.ServesOnly
  rw [h]

theorem State.ServesOnly.frame {s u : State} (h : s.ServesOnly u) : u.colls = s.colls ∧ u.collNums = s.collNums ∧ u.ids = s.ids ∧
    u.launches = s.launches ∧ u.cmds = s.cmds ∧ u.cur = s.cur ∧ u.clock = s.clock := by
  rw [h]
  and_intros <;> rfl

theorem State.logUnit_recordsOnly (s : State) (type : Nat) (v : Victim) (core row col unit : Nat) (unc : Bool) (ofs : Nat) :
    s.RecordsOnly (s.logUnit type v core row col unit unc ofs) := by
  unfold State.logUnit
  exact (s.log_logsOnly _ _ _ _ _ _ _ _ _).recordsOnly

theorem State.coreError_servesOnly (s : State) (core : Nat) : s.ServesOnly (s.coreError core) := by
  unfold State.coreError
  dsimp only
  split <;> rfl

theorem State.readSpWord_servesOnly (s : State) (v : Victim) (word : Nat) : s.ServesOnly (s.readSpWord v word).1 := by
  unfold State.readSpWord
  dsimp only
  split
  · exact ((s.logUnit_recordsOnly _ _ _ _ _ _ _ _).trans (State.errorIrq_recordsOnly _ _)).servesOnly.trans (State.coreError_servesOnly _ _)
  · split
    · exact ((s.mend_recordsOnly _).trans (State.logUnit_recordsOnly _ _ _ _ _ _ _ _ _)).servesOnly
    · exact .refl s

theorem State.readFor_servesOnly (s : State) (v : Victim) (va : BitVec 64) (l : Loc) (n : Nat) : s.ServesOnly (s.readFor v va l n).1 := by
  unfold State.readFor
  split
  · exact .refl s
  · split
    · exact readUnits_rel State.ServesOnly.refl State.ServesOnly.trans _ (fun s k => s.readSpWord_servesOnly v k) _ s _
    · exact readUnits_rel State.ServesOnly.refl State.ServesOnly.trans _ (fun s k => (s.readSector_recordsOnly _ _ k).servesOnly) _ s _

theorem State.wrNat_servesOnly (s : State) (l : Loc) (n x : Nat) : s.ServesOnly (s.wrNat l n x) := (State.wrBytes_writesOnly l _ s 0).servesOnly

theorem State.setTag_servesOnly (s : State) (key : Nat) (v : BitVec 2) : s.ServesOnly (s.setTag key v) := rfl

theorem State.updThread_servesOnly (s : State) (w : Who) (f : Thread → Thread) : s.ServesOnly (s.updThread w f) := rfl

theorem State.updQuery_servesOnly (s : State) (q : Nat) (f : Query → Query) : s.ServesOnly (s.updQuery q f) := rfl

theorem State.raise_servesOnly (s : State) (i : Instr) : s.ServesOnly (s.raise i) := rfl

theorem State.fill_servesOnly (s : State) (l : Loc) (notify : Bool) (v : BitVec 32) : s.ServesOnly (s.fill l notify v) := by
  unfold State.fill
  split
  · exact .refl s
  · exact (s.wrNat_servesOnly _ _ _).trans (State.setTag_servesOnly _ _ _)

theorem State.addIrq_servesOnly (s : State) (c : Prop) [Decidable c] (l : List Irq) : s.ServesOnly (if c then s else { s with irqs := l }) := by
  split <;> rfl

theorem State.post_servesOnly (s : State) (part die : Nat) (r : Ring) (w : Who) (t : Thread) (core : Nat) (call : BitVec 32) (packet : BitVec 64) :
    s.ServesOnly (s.post part die r w t core call packet).1 := by
  have written (bs : List Byte) (a b : BitVec 2) : s.ServesOnly ((((s.deviceWrite part (r.base + BitVec.ofNat 64 (32 * (r.count.toNat % r.n)))
      bs).wrNat r.prod 4 (r.count.toNat + 1)).setTag (r.prod.key / 4) a).setTag (r.space.key / 4) b) :=
    ((State.deviceWrite_writesOnly part bs s _).servesOnly.trans (State.wrNat_servesOnly _ _ _ _)).trans
      ((State.setTag_servesOnly _ _ _).trans (State.setTag_servesOnly _ _ _))
  unfold State.post
  exact (written _ _ _).trans (State.addIrq_servesOnly _ _ _)

theorem State.sinkWrite_servesOnly (s : State) (q : Nat) (x : Query) (r : Rec) (prod : Loc) (n : BitVec 32) :
    s.ServesOnly (s.sinkWrite q x r prod n).1 := by
  unfold State.sinkWrite
  exact ((State.deviceWrite_writesOnly x.part _ s _).servesOnly.trans (State.wrNat_servesOnly _ _ _ _)).trans
    ((State.setTag_servesOnly _ _ _).trans (State.updQuery_servesOnly _ _ _))

theorem State.unreserveEntry_servesOnly (s : State) (gid : Nat) (a : WaitAct) : s.ServesOnly (s.unreserveEntry gid a) := by
  unfold State.unreserveEntry
  split <;> rfl

theorem State.abortEntry_servesOnly (s : State) (w : Who) (t : Thread) (oid : Nat) (c : BitVec 32) (a : BitVec 64) :
    s.ServesOnly (s.abortEntry w t oid c a) := rfl

theorem State.servedRead_servesOnly (s : State) (x : Waiter) (k : State → State × List Nat) (next : ∀ u : State, u.ServesOnly (k u).1) :
    s.ServesOnly (s.servedRead x k).1 := by
  unfold State.servedRead
  split
  · exact next s
  · next t _ =>
    have read := s.readFor_servesOnly (s.victimOf x.who t) (if x.keySlot.isSome then x.ea else 0) { key := 4 * x.key, slot := x.keySlot } 4
    split
    · next performed =>
      rw [performed] at read
      exact (read.trans (State.abortEntry_servesOnly _ _ _ _ _ _)).trans (State.unreserveEntry_servesOnly _ _ _)
    · next performed =>
      rw [performed] at read
      exact read.trans (next _)

/-- An answer of `State.serveOne` that changes nothing but what serving may change. -/
def State.MayServe (s : State) (o : Option (State × List Nat)) : Prop := ∀ p, o = some p → s.ServesOnly p.1

theorem State.MayServe.none (s : State) : s.MayServe none := fun p same => absurd same.symm (Option.some_ne_none p)

theorem State.MayServe.some {s : State} {p : State × List Nat} (only : s.ServesOnly p.1) : s.MayServe (some p) := by
  intro q same
  exact Option.some.inj same ▸ only

theorem State.serveOne_mayServe (s : State) (x : Waiter) : s.MayServe (s.serveOne x) := by
  unfold State.serveOne
  dsimp only
  split
  · split
    · exact .some (s.servedRead_servesOnly x _ fun u => u.updThread_servesOnly _ _)
    · exact .none s
  · split
    · exact .some (s.servedRead_servesOnly x _ fun u => (u.updThread_servesOnly _ _).trans (State.setTag_servesOnly _ _ _))
    · exact .none s
  · split
    · exact .none s
    · exact .some (s.servedRead_servesOnly x _ fun u => (u.fill_servesOnly _ _ _).trans (State.updThread_servesOnly _ _ _))
  · split
    · exact .some (s.servedRead_servesOnly x _ fun u => (by split <;> rfl : ServesOnly u _).trans (State.setTag_servesOnly _ _ _))
    · exact .none s
  · split
    · exact .none s
    · exact .some (s.servedRead_servesOnly x _ fun u => by dsimp only; split <;> rfl)
  · split
    · exact .none s
    · split
      · split
        · exact .some ((s.post_servesOnly _ _ _ _ _ _ _ _).trans (State.updThread_servesOnly _ _ _))
        · exact .some (.refl s)
      · exact .some (.refl s)
  · iterate 4
      split
      case' h_2 => exact .some (.refl s)
    split
    · split
      · exact .none s
      · split
        · exact .some rfl
        · exact .some (s.servedRead_servesOnly x _ fun u => ((u.sinkWrite_servesOnly _ _ _ _ _).trans (State.updQuery_servesOnly _ _ _)).trans
            (State.updThread_servesOnly _ _ _))
    · exact .some rfl

theorem State.waits_servesOnly (s : State) (l : List Waiter) : s.ServesOnly { s with waits := l } := rfl

theorem State.serveFuel_servesOnly (n : Nat) : ∀ (ks : List Nat) (s : State), s.ServesOnly (State.serveFuel n ks s) := by
  induction n with
  | zero => exact fun _ s => .refl s
  | succ n ih =>
    intro ks s
    cases ks with
    | nil => exact .refl s
    | cons k ks =>
      unfold State.serveFuel
      split
      · exact ih ks s
      · next x _ =>
        split
        · exact ih ks s
        · next served =>
          have only := s.serveOne_mayServe x _ served
          exact (only.trans (State.waits_servesOnly _ _)).trans (ih _ _)

/-- Serving wait lists (R172). -/
theorem State.serve_servesOnly (s : State) (keys : List Nat) : s.ServesOnly (s.serve keys) := State.serveFuel_servesOnly _ keys s

theorem State.stf_servesOnly (s : State) (l : Loc) (notify : Bool) (v : BitVec 32) : s.ServesOnly (s.stf l notify v) :=
  (s.fill_servesOnly l notify v).trans (State.serve_servesOnly _ _)

end Sys2Proof.Machine
end

section
/-! O40: joining, running and failing collectives (R280 to R282, R404). -/

namespace Sys2Proof.Machine

/-! ## The read of a descriptor -/

theorem State.log_pkg (s : State) (part : Option Nat) (type die core : Nat) (p18 p20 p28 p30 p38 : BitVec 64) :
    (s.log part type die core p18 p20 p28 p30 p38).fleet.pkg = s.fleet.pkg := by
  unfold State.log
  dsimp only
  split
  · rfl
  · split
    · rfl
    · split
      · rfl
      · rw [State.deviceWrite_writesOnly]
        rfl

theorem State.coreError_pkg (s : State) (core : Nat) : (s.coreError core).fleet.pkg = s.fleet.pkg := by
  unfold State.coreError
  dsimp only
  split <;> rfl

theorem State.readSpWord_pkg (s : State) (v : Victim) (word : Nat) : (s.readSpWord v word).1.fleet.pkg = s.fleet.pkg := by
  unfold State.readSpWord
  dsimp only
  split
  · exact (State.coreError_pkg _ _).trans (s.log_pkg _ _ _ _ _ _ _ _ _)
  · split
    · exact (State.log_pkg _ _ _ _ _ _ _ _ _ _)
    · rfl

/-- Reading a scratchpad leaves the package's number as it is. -/
theorem State.readFor_pkg (s : State) (v : Victim) (va : BitVec 64) {l : Loc} (bare : l.slot = none) (n : Nat) :
    (s.readFor v va l n).1.fleet.pkg = s.fleet.pkg := by
  unfold State.readFor
  rw [bare]
  split
  · rfl
  · exact readUnits_rel (R := fun s u => u.fleet.pkg = s.fleet.pkg) (fun _ => rfl) (fun h k => k.trans h) _ (fun s k => s.readSpWord_pkg v k) _ s _

/-- What the read of a steward's descriptor leaves as it was: the collectives, the launches and the numbers that are next (R53, R332). -/
structure State.KeepsColls (s v : State) : Prop where
  colls : v.colls = s.colls
  collNums : v.collNums = s.collNums
  ids : v.ids = s.ids
  launches : v.launches = s.launches
  pkg : v.fleet.pkg = s.fleet.pkg

theorem State.access_sp_place {s : State} {w : Who} {t : Thread} {ea : BitVec 64} {size : Nat} {a : Acc} {p : Place}
    (passes : s.access w t .sp ea size a = .ok p) : p.loc.slot = none ∧ 2 ^ 60 ≤ p.loc.key := by
  simp only [State.access] at passes
  split at passes
  · cases passes
  · split at passes
    · cases passes
    · split at passes
      · cases passes
      · cases passes
        exact ⟨rfl, Nat.le_add_right_of_le (Nat.le_add_right_of_le (Nat.le_refl _))⟩

/-- A load from the scratchpad reads what stands there before and after it. -/
theorem State.Reaches.load_sp {s v : State} {t : Thread} {ea : BitVec 64} {n : Nat} {p : Place} (reaches : s.Reaches t .sp ea n Acc.load p v) :
    s.KeepsColls v ∧ ∀ k m, v.rdNat { p.loc with key := p.loc.key + k } m = s.rdNat { p.loc with key := p.loc.key + k } m := by
  obtain ⟨passes, -, performed⟩ := reaches
  obtain ⟨bare, above⟩ := State.access_sp_place passes
  let u : State := s.admitted t .sp none false
  have read : (u.readFor (u.victimOf u.cur t) 0 p.loc n).1 = v := congrArg Prod.fst performed
  have only := u.readFor_servesOnly (u.victimOf u.cur t) 0 p.loc n
  have scratch := u.readFor_keepsScratch (u.victimOf u.cur t) 0 bare n
  have pkg := u.readFor_pkg (u.victimOf u.cur t) 0 bare n
  rw [read] at only scratch pkg
  obtain ⟨colls, collNums, ids, launches, -⟩ := only.frame
  exact ⟨⟨colls, collNums, ids, launches, pkg⟩, fun k m =>
    scratch.rdNat (l := { p.loc with key := p.loc.key + k }) bare (Nat.le_add_right_of_le above) m⟩

theorem State.acquireFirst_owes {s : State} {t : Thread} {m : BitVec 13} (owes : m.getLsbD 9 = true → t.owesAccess = false) (k : State → State) :
    s.acquireFirst t m k = k s := by
  unfold State.acquireFirst
  split
  · next acquires => exact State.performThen_done (owes acquires) k
  · rfl

/-- A `coll` reads its descriptor and is refused, or joins (R280, R282). -/
theorem execColl_reads {s v : State} {t : Thread} {f : RegF} {g : Group} {l : Launch} {d : List (BitVec 64)} {p : Place}
    (executes : s.Executes t f.neg f.pred) (commands : s.Commands t g) (owes : f.mod.getLsbD 9 = true → t.owesAccess = false)
    (reaches : s.Reaches t .sp (BitVec.ofNat 64 (s.src32 s.cur t f.a).toNat) 64 Acc.load p v)
    (words : d = (List.range 8).map fun i => BitVec.ofNat 64 (s.rdNat { p.loc with key := p.loc.key + 8 * i } 8))
    (launch : s.launch? g.lid = some l) :
    exec (.coll f) s = .next (if l.collRefused d then v.trap t 0x060C 0 else v.joinColl t f.la g l
      ⟨t.gid, g.grp.toNat % l.instSize (collLevel d), d, f.mod.getLsbD 9, f.mod.getLsbD 8, bits f.mod 12 10⟩) := by
  obtain ⟨keeps, same⟩ := reaches.load_sp
  have after : d = (List.range 8).map fun i => BitVec.ofNat 64 (v.rdNat { p.loc with key := p.loc.key + 8 * i } 8) := by
    simp only [words, same]
  have still : v.launch? g.lid = some l := by rw [State.launch?, keeps.launches]; exact launch
  rw [exec_coll, execColl, State.arrayAct_true executes commands, State.acquireFirst_owes owes, State.descriptor, State.reach_done reaches,
    ← after, still]

theorem State.finishLong_colls (s : State) (t : Thread) (la : BitVec 4) (clocks : Nat) (ws : List (Dest × BitVec 64)) :
    (s.finishLong t la clocks ws).colls = s.colls := by
  unfold State.finishLong
  split
  · rfl
  · split <;> rfl

section
variable {s : State} {t : Thread} {la : BitVec 4} {g : Group} {l : Launch} {m : CollMember} {level tag num : Nat}
  (isLevel : collLevel m.desc = level) (isTag : bits (m.desc.getD 2 0) 47 32 = tag) (isNum : (KV.at? s.collNums (t.gid, level, tag)).getD 0 = num)
  (alive : l.dead = [])
include isLevel isTag isNum alive

/-- A participant that finds the collective of its tag is its last member, and lets it run when all have joined (R281). -/
theorem State.joinColl_joins {cid : Nat} {c : Coll} (found : s.collFor g.lid level (l.instOf level g.grp.toNat) tag num = some (cid, c)) :
    (s.joinColl t la g l m).colls = KV.put s.colls cid { c with members := c.members ++ [m] } ∧
      (c.size ≤ c.members.length + 1 → Turn.event (.collectiveRun cid) ∈ (s.joinColl t la g l m).turns) := by
  unfold State.joinColl
  simp only [isLevel, isTag, isNum, found, alive, Option.isNone_some, Bool.false_eq_true, false_and, if_false, List.any_nil, List.length_append,
    List.length_singleton]
  split
  · exact ⟨State.finishLong_colls _ _ _ _ _, fun _ => List.mem_append_right _ (List.mem_singleton_self _)⟩
  · next more => exact ⟨State.finishLong_colls _ _ _ _ _, fun all => absurd all more⟩

/-- The first participant opens the collective of its tag (R281). -/
theorem State.joinColl_opens (absent : s.collFor g.lid level (l.instOf level g.grp.toNat) tag num = none)
    (room : (s.colls.filter fun e => decide (e.2.die = s.dieOf g.core)).length < 256) :
    (s.joinColl t la g l m).colls = KV.put s.colls s.ids
      ⟨g.lid, level, l.instOf level g.grp.toNat, tag, num, l.instSize level, s.dieOf g.core, [m], []⟩ := by
  unfold State.joinColl
  simp only [isLevel, isTag, isNum, absent, alive, Option.isNone_none, true_and, Nat.not_le.2 room, if_false, List.any_nil, List.nil_append,
    List.length_singleton, Bool.false_eq_true, State.fresh]
  split <;> exact State.finishLong_colls _ _ _ _ _

end

/-! ## Running -/

section
variable {s : State} {cid : Nat} {c : Coll} {l : Launch} (found : KV.at? s.colls cid = some c) (all : c.size ≤ c.members.length)
  (launch : s.launch? c.lid = some l)
include found all launch

/-- Participants that differ fail all (R282). -/
theorem execCollectiveRun_mismatch (differ : c.members.any (fun m => decide (m.shape ≠ (c.members.map CollMember.shape).headD (0, 0, 0, 0))) = true) :
    exec (.collectiveRun cid) s = .next ((s.failColl cid c 0x060D).1.serve (s.failColl cid c 0x060D).2) := by
  rw [exec_collectiveRun, execCollectiveRun, found]
  simp only [Nat.not_lt.2 all, if_false, launch]
  rw [if_pos differ]

section
variable (agree : c.members.any (fun m => decide (m.shape ≠ (c.members.map CollMember.shape).headD (0, 0, 0, 0))) = false)
include agree

/-- A sub-bus that is being swapped keeps the collective waiting (R404). -/
theorem execCollectiveRun_waits (out : (s.collAll l.part c).any s.spotOut = true) :
    exec (.collectiveRun cid) s = .next (s.plan (s.clock + 64) (.collectiveRun cid)) := by
  rw [exec_collectiveRun, execCollectiveRun, found]
  simp only [Nat.not_lt.2 all, if_false, launch]
  rw [agree, if_neg Bool.false_ne_true, if_pos out]

/-- With every page there it delivers (R281). -/
theorem execCollectiveRun_goes (held : (s.collAll l.part c).any s.spotOut = false) (free : firstHold (s.collAll l.part c) = none) :
    exec (.collectiveRun cid) s = .next (s.collGo cid l.part c) := by
  rw [exec_collectiveRun, execCollectiveRun, found]
  simp only [Nat.not_lt.2 all, if_false, launch]
  rw [agree, if_neg Bool.false_ne_true, held, if_neg Bool.false_ne_true, free]

end

end

/-- Participants that agree in pairs agree with the first. -/
theorem CollMember.agree {ms : List CollMember} (same : ∀ x ∈ ms, ∀ y ∈ ms, x.shape = y.shape) :
    (ms.any fun m => decide (m.shape ≠ (ms.map CollMember.shape).headD (0, 0, 0, 0))) = false := by
  refine List.any_eq_false.2 fun m member => ?_
  cases ms with
  | nil => cases member
  | cons x r => simpa using same m member x List.mem_cons_self

theorem CollMember.disagree {ms : List CollMember} (differ : ∃ x ∈ ms, ∃ y ∈ ms, x.shape ≠ y.shape) :
    (ms.any fun m => decide (m.shape ≠ (ms.map CollMember.shape).headD (0, 0, 0, 0))) = true := by
  obtain ⟨x, hx, y, hy, ne⟩ := differ
  by_contra none_
  have agree := fun m member => by simpa using List.any_eq_false.1 (Bool.eq_false_iff.2 none_) m member
  exact ne ((agree x hx).trans (agree y hy).symm)

theorem State.translate_colls (s : State) (part : Nat) (va : BitVec 64) : (s.translate part va).colls = s.colls := by
  have walk := (s.readWalk_recordsOnly part va).servesOnly.frame.1
  unfold State.translate
  split
  · rfl
  · split <;> exact walk

theorem State.touchSpots_colls (s : State) (part : Nat) (l : List EngByte) : (s.touchSpots part l).colls = s.colls := by
  have pages (ps : List Nat) : (ps.foldl (fun s p => s.translate part (BitVec.ofNat 64 (p * 65536))) s).colls = s.colls :=
    foldl_rel (R := fun s u => u.colls = s.colls) (fun _ => rfl) (fun h k => k.trans h) _ (fun s _ => s.translate_colls _ _) ps s
  unfold State.touchSpots
  dsimp only
  split <;> exact pages _

theorem State.readSectors_servesOnly (s : State) (v : Victim) (l : List EngByte) : s.ServesOnly (s.readSectors v l).1 := by
  unfold State.readSectors
  split
  · exact .refl s
  · dsimp only
    generalize List.foldl (fun seen x => if List.any seen _ = true then seen else seen ++ [x]) [] _ = once
    suffices ∀ acc : State × List Nat, acc.1.ServesOnly (once.foldl (fun (acc : State × List Nat) x =>
        ((acc.1.readFor v x.2.2 { key := 32 * x.1, slot := x.2.1 } 32).1,
          if (acc.1.readFor v x.2.2 { key := 32 * x.1, slot := x.2.1 } 32).2.isSome then acc.2 ++ [x.1] else acc.2)) acc).1 from this (s, [])
    induction once with
    | nil => exact fun acc => .refl acc.1
    | cons x r ih => exact fun acc => (acc.1.readFor_servesOnly _ _ _ _).trans (ih _)

theorem State.collRead_servesOnly (part : Nat) (c : Coll) (ms : List CollMember) : ∀ s : State, s.ServesOnly (s.collRead part c ms).1 := by
  induction ms with
  | nil => exact fun s => .refl s
  | cons m r ih => exact fun s => (s.readSectors_servesOnly _ _).trans (ih _)

theorem State.writeSpots_servesOnly (l : List (Except (BitVec 16) Byte × EngByte)) : ∀ s : State, s.ServesOnly (s.writeSpots l).1 := by
  induction l with
  | nil => exact fun s => .refl s
  | cons x r ih =>
    intro s
    obtain ⟨x, d⟩ := x
    unfold State.writeSpots
    dsimp only
    split
    · exact ih s
    · exact ih s
    · exact ih s
    · exact (s.wrByte_writesOnly _ _ _).servesOnly.trans (ih _)

theorem State.collDeliver_servesOnly (s : State) (part : Nat) (c : Coll) (m : CollMember) (bytes : List (Except (BitVec 16) Byte)) :
    s.ServesOnly (s.collDeliver part c m bytes) := by
  have delivered (l) (at_ : Loc) (notify : Bool) (v : BitVec 32) : s.ServesOnly ((s.writeSpots l).1.stf at_ notify v) :=
    (State.writeSpots_servesOnly l s).trans (State.stf_servesOnly _ _ _ _)
  unfold State.collDeliver
  dsimp only
  split
  · exact s.raise_servesOnly _
  · exact s.raise_servesOnly _
  · split
    · exact s.raise_servesOnly _
    · split
      · exact (delivered _ _ _ _).trans (State.raise_servesOnly _ _)
      · exact delivered _ _ _ _

/-- A collective that has run is closed, and no other is (R281). -/
theorem State.collGo_colls (s : State) (cid part : Nat) (c : Coll) : (s.collGo cid part c).colls = KV.del s.colls cid := by
  have ends (ms : List CollMember) (s : State) : (ms.foldl (fun s m => s.askEnd m.gid) s).colls = s.colls :=
    foldl_rel (R := fun s u => u.colls = s.colls) (fun _ => rfl) (fun h k => k.trans h) (fun s m => s.askEnd m.gid) (fun _ _ => rfl) ms s
  have deliver (ms : List CollMember) (b : CollMember → List (Except (BitVec 16) Byte)) (s : State) :
      s.ServesOnly (ms.foldl (fun s m => s.collDeliver part c m (b m)) s) :=
    foldl_rel State.ServesOnly.refl State.ServesOnly.trans _ (fun s m => s.collDeliver_servesOnly part c m _) ms s
  have touched := s.touchSpots_colls part (s.collAll part c)
  have read := (State.collRead_servesOnly part c c.ranked (s.touchSpots part (s.collAll part c))).frame.1
  unfold State.collGo
  dsimp only
  rw [ends]
  show KV.del (State.colls _) cid = _
  rw [(deliver c.ranked _ _).frame.1, read, touched]

end Sys2Proof.Machine

namespace Sys2Proof

open Machine

/-- Settles O40: joining by what the read of the descriptor leaves, running by what the participants ask for. -/
theorem collectives : Obligations.Collectives := by
  refine ⟨fun s v t f g l ofs level tag num d m p executes commands place owes reaches words launch => ?_,
    fun s cid c l found all some_ launch => ?_⟩
  · subst place
    have reads := execColl_reads executes commands owes reaches words launch
    obtain ⟨keeps, -⟩ := reaches.load_sp
    refine ⟨fun refused => by rw [reads, if_pos refused], ?_⟩
    rintro accepted rfl rfl rfl alive rfl
    rw [reads, if_neg (by simp [accepted]), ← keeps.collNums, ← keeps.colls, ← keeps.ids]
    have tags (a b c e : Nat) : s.collFor g.lid a b c e = v.collFor g.lid a b c e := by rw [State.collFor, State.collFor, keeps.colls]
    have dies : s.dieOf g.core = v.dieOf g.core := by rw [State.dieOf, State.dieOf, keeps.pkg]
    simp only [tags, dies]
    exact ⟨fun cid c found => ⟨_, rfl, State.joinColl_joins rfl rfl rfl alive found⟩,
      fun absent room => ⟨_, rfl, State.joinColl_opens rfl rfl rfl alive absent room⟩⟩
  · refine ⟨fun differ => ?_, fun same held free => ?_, fun same out => ?_⟩
    · rw [execCollectiveRun_mismatch found all launch (CollMember.disagree differ)]
      exact ⟨_, _, rfl, rfl⟩
    · rw [execCollectiveRun_goes found all launch (CollMember.agree same) held free]
      exact ⟨_, rfl, State.collGo_colls _ _ _ _, rfl⟩
    · exact execCollectiveRun_waits found all launch (CollMember.agree same) out

end Sys2Proof
end

section
/-! O41 fails: the read of a launch record corrects an error and records it (R332, R406), and the partition's log may lie where the record does
(R393, R405): the words that `launch` then takes are not those that stood there before. -/

namespace Sys2Proof

open Machine

/-- A steward with a launch record at address 0 whose completion word, 1, is misaligned. The record's first sector has one wrong symbol, and the
partition's log of one record lies at address 0. -/
def wrongRecord : State :=
  { wrongSymbol with
    cur := .steward 0
    threads := [(.steward 0, plainThread)]
    groups := [(0, plainGroup)]
    launches := [(0, { placedLaunch with trapHandler := 0x1000 })]
    parts := [(0, { Part.reset with logVa := 0, logN := 1 })]
    mem := [(32, 1)] }

/-- The `launch` of the record at the address in `s0`, always executed. -/
def plainLaunchOp : RegF := { neg := false, pred := 0, d := 1, a := 0, b := 0, c := 0, la := 0, mod := 0 }

/-- What the read of the record leaves, and the cause that it receives. -/
def wrongRecordRead : State × Option (BitVec 32) :=
  (wrongRecord.admitted plainThread .gl (some 0) false).readFor (wrongRecord.victimOf wrongRecord.cur plainThread) 0 { key := 0, slot := some 0 } 256

/-- Cause and FADDR of the trap of the steward, if it has trapped. -/
def stewardTrap : Out → Option (BitVec 32 × BitVec 64)
  | .next u => (u.thread? (.steward 0)).bind fun t => t.trapRec.map fun r => (r.cause, r.faddr)
  | _ => none

/-- The read passes its checks, nothing holds it back, and it finds nothing that it cannot correct. -/
theorem wrongRecordRead_reaches :
    wrongRecord.Reaches plainThread .gl 0 256 Acc.load { loc := { key := 0, slot := some 0 }, cls := 0 } wrongRecordRead.1 := by
  have cause : wrongRecordRead.2 = none := by decide +kernel
  have read : wrongRecordRead = (wrongRecordRead.1, none) := by rw [← cause]
  exact ⟨rfl, by decide +kernel, (if_pos rfl).trans read⟩

/-- The completion word in a state. -/
def completionWord (s : State) : BitVec 64 :=
  dwordOf ((List.range 32).map fun i => BitVec.ofNat 64 (s.rdNat { key := 8 * i, slot := some 0 } 8)) 4

/-- Before the read it is 1; the record of the error has made it an address that no page holds. -/
theorem wrongRecord_completionWord : completionWord wrongRecord = 1 ∧ completionWord wrongRecordRead.1 ≠ 1 := by
  decide +kernel

/-- The `launch` finds the new word and does not trap. -/
theorem wrongRecord_launches : stewardTrap (exec (.launch plainLaunchOp) wrongRecord) = none := by
  decide +kernel

/-- With the word that stood there before it would trap mem.align. -/
theorem wrongRecord_claimed : stewardTrap (.next (wrongRecordRead.1.trap plainThread 0x0205 1)) = some (0x0205, 1) := by
  decide +kernel

/-- Refutes O41: the completion word of `wrongRecord` is misaligned, but the read of the record has overwritten it, and the `launch` does not trap
mem.align. -/
theorem not_deviceLaunch : ¬ Obligations.DeviceLaunch := by
  unfold Obligations.DeviceLaunch
  intro claim
  obtain ⟨before, -⟩ := wrongRecord_completionWord
  obtain ⟨misaligned, -⟩ := claim wrongRecord wrongRecordRead.1 plainThread plainLaunchOp 0 1 { loc := { key := 0, slot := some 0 }, cls := 0 }
    { loc := { key := 0, slot := some 0 }, cls := 0 } _ ⟨rfl, rfl⟩ (fun g group => by cases group; rfl) (by decide +kernel) (fun _ => rfl)
    wrongRecordRead_reaches rfl (by simpa [completionWord] using before.symm)
  obtain ⟨traps, -⟩ := misaligned (by decide)
  have trapped := wrongRecord_claimed
  rw [← traps, wrongRecord_launches] at trapped
  cases trapped

end Sys2Proof
end

section
/-! O58: changes of a partition's boundary (R253, R254, R381, R383, R384, R389). -/

namespace Sys2Proof.Machine

/-! ## Keyed lists -/

theorem KV.mem_of_mem_put {κ α : Type} [DecidableEq κ] {m : KV κ α} {k : κ} {v : α} {e : κ × α} (member : e ∈ KV.put m k v) (other : e.1 ≠ k) :
    e ∈ m := by
  induction m with
  | nil =>
    cases List.mem_singleton.1 member
    exact absurd rfl other
  | cons x r ih =>
    obtain ⟨a, y⟩ := x
    unfold KV.put at member
    split at member
    · rcases List.mem_cons.1 member with rfl | tail
      · exact absurd rfl other
      · exact List.mem_cons_of_mem _ tail
    · rcases List.mem_cons.1 member with rfl | tail
      · exact List.mem_cons_self
      · exact List.mem_cons_of_mem _ (ih tail)

theorem KV.mem_of_mem_upd {κ α : Type} [DecidableEq κ] {m : KV κ α} {k : κ} {f : α → α} {e : κ × α} (member : e ∈ KV.upd m k f) (other : e.1 ≠ k) :
    e ∈ m := by
  induction m with
  | nil => cases member
  | cons x r ih =>
    obtain ⟨a, y⟩ := x
    unfold KV.upd at member
    split at member
    · next same =>
      rcases List.mem_cons.1 member with rfl | tail
      · exact absurd same other
      · exact List.mem_cons_of_mem _ tail
    · rcases List.mem_cons.1 member with rfl | tail
      · exact List.mem_cons_self
      · exact List.mem_cons_of_mem _ (ih tail)

/-- Changing the records of a keyed list changes the one found under a key. -/
theorem KV.at?_map_some {κ α : Type} [DecidableEq κ] {m : KV κ α} {k : κ} {v : α} {f : κ × α → κ × α} (keys : ∀ e, (f e).1 = e.1)
    (found : KV.at? m k = some v) : KV.at? (m.map f) k = some (f (k, v)).2 := by
  induction m with
  | nil => cases found
  | cons e r ih =>
    obtain ⟨a, x⟩ := e
    unfold KV.at? at found
    rw [List.map_cons, KV.at?, keys]
    split at found
    · next here =>
      cases found
      rw [if_pos here, here]
    · next here => rw [if_neg here, ih found]

/-! ## Cores of the service and array halves -/

theorem State.rvCore_updRv_other (s : State) {core c : Nat} (other : c ≠ core) (f : RvCore → RvCore) : (s.updRv core f).rvCore c = s.rvCore c := by
  simp [State.rvCore, State.updRv, other]

/-- RISC-V cores that are zeroed are as after reset (R384). -/
theorem State.rvCore_zeroed (cores : List Nat) {c : Nat} :
    ∀ s : State, c ∈ cores ∨ s.rvCore c = RvCore.reset → (cores.foldl (fun s c => s.updRv c fun _ => RvCore.reset) s).rvCore c = RvCore.reset := by
  induction cores with
  | nil => exact fun s zeroed => zeroed.resolve_left List.not_mem_nil
  | cons a r ih =>
    intro s zeroed
    refine ih _ ?_
    by_cases here : c = a
    · exact .inr (here ▸ s.rvCore_updRv_same _ _)
    · rw [s.rvCore_updRv_other here]
      exact zeroed.imp_left fun member => (List.mem_cons.1 member).resolve_left here

theorem State.updRvs_halves (cores : List Nat) : ∀ s : State, (cores.foldl (fun s c => s.updRv c fun _ => RvCore.reset) s).halves = s.halves :=
  foldl_rel (R := fun s u => u.halves = s.halves) (fun _ => rfl) (fun h k => k.trans h) (fun s c => s.updRv c fun _ => RvCore.reset)
    (fun _ _ => rfl) cores

/-- Halves that are not changed are as before. -/
theorem State.half_updHalves_other (f : Half → Half) (halves : List (Nat × Nat)) {h : Nat × Nat} (other : h ∉ halves) :
    ∀ s : State, (halves.foldl (fun s h => s.updHalf h.1 h.2 f) s).half h.1 h.2 = s.half h.1 h.2 := by
  induction halves with
  | nil => exact fun _ => rfl
  | cons a r ih =>
    intro s
    obtain ⟨here, there⟩ := not_or.1 (mt List.mem_cons.2 other)
    exact (ih there _).trans (s.half_updHalf_other f here)

/-- Halves that are all set to one content have it. -/
theorem State.half_setHalves (x : Half) (halves : List (Nat × Nat)) {h : Nat × Nat} :
    ∀ s : State, h ∈ halves ∨ s.half h.1 h.2 = x → (halves.foldl (fun s h => s.updHalf h.1 h.2 fun _ => x) s).half h.1 h.2 = x := by
  induction halves with
  | nil => exact fun s set => set.resolve_left List.not_mem_nil
  | cons a r ih =>
    intro s set
    refine ih _ ?_
    by_cases here : h = a
    · exact .inr (here ▸ s.half_updHalf_same _ _ _)
    · rw [s.half_updHalf_other _ here]
      exact set.imp_left fun member => (List.mem_cons.1 member).resolve_left here

/-! ## What a boundary gives -/

/-- A half that a boundary gives is the partition's; a new one is zeroed (R254). -/
theorem State.giveHalves_half (s : State) (part : Nat) {halves : List (Nat × Nat)} {h : Nat × Nat} (given : h ∈ halves) :
    (s.giveHalves part halves).half h.1 h.2 =
      if (s.half h.1 h.2).part = some part then s.half h.1 h.2 else { Half.reset with part := some part } := by
  have stays : h ∉ s.halvesOut part halves := by
    simp only [State.halvesOut, List.mem_map, List.mem_filter, Bool.and_eq_true, Bool.not_eq_true', not_exists, not_and]
    rintro e ⟨-, -, away⟩ rfl
    exact absurd given (by simpa using away)
  have left_ := State.half_updHalves_other (fun x => { x with part := none }) (s.halvesOut part halves) stays s
  unfold State.giveHalves
  dsimp only
  split
  · next has =>
    refine (State.half_updHalves_other _ _ ?_ _).trans left_
    simp [State.halvesIn, left_, has]
  · next new =>
    refine State.half_setHalves _ _ _ (.inl ?_)
    simp [State.halvesIn, left_, new, given]

theorem State.zeroCores_frame (cores : List Nat) (s : State) :
    (cores.foldl (fun s c => s.zeroCore c) s).halves = s.halves ∧ (cores.foldl (fun s c => s.zeroCore c) s).parts = s.parts :=
  foldl_rel (R := fun s u => u.halves = s.halves ∧ u.parts = s.parts) (fun _ => ⟨rfl, rfl⟩) (fun h k => ⟨k.1.trans h.1, k.2.trans h.2⟩)
    (fun s c => s.zeroCore c) (fun _ _ => ⟨rfl, rfl⟩) cores s

theorem State.giveCores_halves (s : State) (part : Nat) (cores : List Nat) : (s.giveCores part cores).halves = s.halves :=
  (State.zeroCores_frame _ s).1

/-- The partitions once one has its cores (R381). -/
theorem State.giveCores_parts (s : State) (part : Nat) (cores : List Nat) : (s.giveCores part cores).parts = s.parts.map fun e =>
    if e.1 = part then (e.1, { e.2 with cores := cores }) else (e.1, { e.2 with cores := e.2.cores.filter fun c => !cores.contains c }) := by
  show List.map _ (State.parts _) = _
  rw [(State.zeroCores_frame _ s).2]

theorem State.updHalves_parts (f : Half → Half) (halves : List (Nat × Nat)) (s : State) :
    (halves.foldl (fun s h => s.updHalf h.1 h.2 f) s).parts = s.parts :=
  foldl_rel (R := fun s u => u.parts = s.parts) (fun _ => rfl) (fun h k => k.trans h) (fun s h => s.updHalf h.1 h.2 f) (fun _ _ => rfl) halves s

theorem State.giveHalves_parts (s : State) (part : Nat) (halves : List (Nat × Nat)) : (s.giveHalves part halves).parts = s.parts :=
  (State.updHalves_parts _ _ _).trans (State.updHalves_parts _ _ _)

theorem State.askPlacement_frame (s : State) : s.askPlacement.parts = s.parts ∧ s.askPlacement.halves = s.halves :=
  foldl_rel (R := fun s u => u.parts = s.parts ∧ u.halves = s.halves) (fun _ => ⟨rfl, rfl⟩) (fun h k => ⟨k.1.trans h.1, k.2.trans h.2⟩)
    (fun s d => s.raise (.groupPlacement (s.localDie d))) (fun _ _ => ⟨rfl, rfl⟩) (List.range 4) s

section
variable {s : State} {part : Nat} {p : Part} {cores : List Nat} {halves : List (Nat × Nat)} (want : p.want = some (cores, halves))
include want

theorem State.settleBoundary_free (free : s.inTheWay part p cores halves = []) : s.settleBoundary part p =
    (((s.giveCores part cores).giveHalves part halves).updPart part fun p => { p with want := none }).askPlacement := by
  simp only [State.settleBoundary, want, free, List.isEmpty_nil, if_true]

theorem State.settleBoundary_blocked (blocked : s.inTheWay part p cores halves ≠ []) : s.settleBoundary part p =
    s.vacate ((s.inTheWay part p cores halves).filter fun c => !s.saving c && !(s.die (s.dieOf c)).idle) := by
  simp only [State.settleBoundary, want, List.isEmpty_iff, blocked, if_false]

/-- The partitions after a boundary with nothing in its way. -/
theorem State.settleBoundary_parts (free : s.inTheWay part p cores halves = []) : (s.settleBoundary part p).parts =
    KV.upd (s.parts.map fun e =>
      if e.1 = part then (e.1, { e.2 with cores := cores }) else (e.1, { e.2 with cores := e.2.cores.filter fun c => !cores.contains c })) part
      fun p => { p with want := none } := by
  rw [State.settleBoundary_free want free, (State.askPlacement_frame _).1]
  show KV.upd (State.parts _) part _ = _
  rw [State.giveHalves_parts, State.giveCores_parts]

/-- A half that the boundary gives, after it. -/
theorem State.settleBoundary_half (free : s.inTheWay part p cores halves = []) {h : Nat × Nat} (given : h ∈ halves) :
    (s.settleBoundary part p).half h.1 h.2 =
      if (s.half h.1 h.2).part = some part then s.half h.1 h.2 else { Half.reset with part := some part } := by
  have after : (s.settleBoundary part p).half h.1 h.2 = ((s.giveCores part cores).giveHalves part halves).half h.1 h.2 := by
    rw [State.settleBoundary_free want free, State.half, (State.askPlacement_frame _).2]
    rfl
  have before : (s.giveCores part cores).half h.1 h.2 = s.half h.1 h.2 := by rw [State.half, State.giveCores_halves, State.half]
  rw [after, State.giveHalves_half _ _ given, before]

/-- The partition that the boundary gives its cores. -/
theorem State.settleBoundary_part (free : s.inTheWay part p cores halves = []) (named : KV.at? s.parts part = some p) :
    KV.at? (s.settleBoundary part p).parts part = some { p with cores := cores, want := none } := by
  rw [State.settleBoundary_parts want free, KV.at?_upd_same, KV.at?_map_some ?_ named]
  · rw [if_pos rfl, Option.map_some]
  · intro e
    split <;> rfl

/-- No other partition keeps a core that the boundary gives (R381). -/
theorem State.settleBoundary_others (free : s.inTheWay part p cores halves = []) {e : Nat × Part} (member : e ∈ (s.settleBoundary part p).parts)
    (other : e.1 ≠ part) {c : Nat} (given : c ∈ cores) : c ∉ e.2.cores := by
  rw [State.settleBoundary_parts want free] at member
  obtain ⟨x, -, rfl⟩ := List.mem_map.1 (KV.mem_of_mem_upd member other)
  split at other
  · next same => exact absurd same other
  · next away => simp [if_neg away, given]

end

/-- A partition that loses its key slots to a boundary has none of them (R389). -/
theorem Part.loseKeys_lost (p : Part) {b : Boundary} {k : Nat} (given : k ∈ b.keysDev ∨ k ∈ b.keysHost) :
    k ∉ (p.loseKeys b).keysDev ∧ k ∉ (p.loseKeys b).keysHost := by
  have gone : (b.keysDev.contains k || b.keysHost.contains k) = true := by simpa using given
  simp only [Part.loseKeys, List.mem_filter, gone, Bool.not_true, Bool.false_eq_true, and_false, not_false_iff, and_self]

end Sys2Proof.Machine

namespace Sys2Proof

open Machine

/-- Settles O58: what is in force at once, then what settling the boundary does with and without groups in its way. -/
theorem partitionBoundary : Obligations.PartitionBoundary := by
  refine ⟨fun s part b above => if_pos above, fun s v part b old p fresh below isOld isFresh isV isP => ?_⟩
  have want : p.want = some (b.cores, b.halves) := by rw [isP]
  have sets : exec (.partitionBoundarySet part b) s = .next (v.settleBoundary part p) := by
    rw [exec_partitionBoundarySet, execPartitionBoundarySet, if_neg (Nat.not_lt.2 below), isV, isP, isFresh, isOld]
  have named : KV.at? v.parts part = some p := by
    rw [isV]
    exact KV.at?_put_same
  have half (c h : Nat) : v.half c h = s.half c h := by
    rw [isV]
    show (KV.at? (State.halves _) (c, h)).getD _ = _
    rw [State.updRvs_halves]
    rfl
  refine ⟨fun e member other k given => ?_, fun k host => ?_, fun c member => ?_, fun free => ?_, fun blocked => ?_⟩
  · rw [isV] at member
    obtain ⟨x, -, rfl⟩ := List.mem_map.1 (KV.mem_of_mem_put member other)
    exact x.2.loseKeys_lost given
  · rw [isP] at host ⊢
    simpa using (List.mem_filter.1 host).2
  · rw [isV]
    exact State.rvCore_zeroed fresh s (.inl member)
  · rw [sets]
    refine ⟨_, _, rfl, State.settleBoundary_part want free named, rfl, fun e member other c given =>
      State.settleBoundary_others want free member other given, fun h given => ?_, fun h given new => ?_⟩
    · rw [State.settleBoundary_half want free given]
      split
      · next has => exact has
      · rfl
    · rw [State.settleBoundary_half want free given, half, if_neg new]
  · rw [sets, State.settleBoundary_blocked want blocked]

end Sys2Proof
end

section
/-! What stopping the threads of a group changes (R293, R331, R335, R422). -/

namespace Sys2Proof.Machine

theorem State.releaseCloses_queriesOnly (s : State) (q : Nat) : s.QueriesOnly (s.releaseCloses q) := by
  unfold State.releaseCloses
  split
  · exact .refl s
  · exact foldl_rel State.QueriesOnly.refl State.QueriesOnly.trans _
      (fun s e => .ite ((s.updWin_queriesOnly _ _ _).trans (State.append_queriesOnly _ _ _ _)) (.refl s)) _ s

theorem State.dropWin_queriesOnly (s : State) (q w : Nat) : s.QueriesOnly (s.dropWin q w) :=
  (s.updQuery_queriesOnly q _).trans (State.releaseCloses_queriesOnly _ q)

/-- The end of a window's thread changes its query (R233). -/
theorem State.winThreadGone_queriesOnly (s : State) (t : Thread) : s.QueriesOnly (s.winThreadGone t) := by
  unfold State.winThreadGone
  split
  · exact .refl s
  · split
    · exact .refl s
    · split
      · exact .refl s
      · exact (State.QueriesOnly.ite (.refl s) (s.updQuery_queriesOnly _ _)).trans (State.dropWin_queriesOnly _ _ _)

/-- `u` is `s` but for threads, their waits and requests, their cores, their queries, and what comes next. -/
def State.StopsOnly (s u : State) : Prop :=
  u = { s with
    threads := u.threads, waits := u.waits, faults := u.faults, cores := u.cores, queries := u.queries, ids := u.ids, turns := u.turns
    sched := u.sched }

theorem State.StopsOnly.refl (s : State) : s.StopsOnly s := rfl

theorem State.StopsOnly.trans {s u v : State} (h : s.StopsOnly u) (k : u.StopsOnly v) : s.StopsOnly v := by
  unfold State.StopsOnly at *
  rw [k, h]

theorem State.QueriesOnly.stopsOnly {s u : State} (h : s.QueriesOnly u) : s.StopsOnly u := by
  unfold State.QueriesOnly at h
  unfold State.StopsOnly
  rw [h]

theorem State.StopsOnly.frame {s u : State} (h : s.StopsOnly u) : u.clock = s.clock ∧ u.groups = s.groups ∧ u.launches = s.launches ∧
    u.mem = s.mem ∧ u.net = s.net ∧ u.saved = s.saved := by
  rw [h]
  and_intros <;> rfl

/-- What `State.stopThreads` does with one thread: it waits for what it owes, or leaves. -/
def State.stopOne (s : State) (e : Who × Thread) : State :=
  let owes := !e.2.held.isEmpty
  let s := if owes then s.stopThread e.1 e.2 true else s.delThread e.1
  match e.1 with
  | .lane _ _ => s.winThreadGone e.2
  | .handler c n => if owes then s else s.freeSlot c n
  | _ => s

theorem State.stopThread_stopsOnly (s : State) (w : Who) (t : Thread) (last : Bool) : s.StopsOnly (s.stopThread w t last) := by
  unfold State.stopThread
  dsimp only
  split <;> rfl

theorem State.freeSlot_stopsOnly (s : State) (core slot : Nat) : s.StopsOnly (s.freeSlot core slot) := rfl

theorem State.delThread_stopsOnly (s : State) (w : Who) : s.StopsOnly (s.delThread w) := rfl

theorem State.stopOne_stopsOnly (s : State) (e : Who × Thread) : s.StopsOnly (s.stopOne e) := by
  unfold State.stopOne
  dsimp only
  generalize stopped : (if (!e.2.held.isEmpty) = true then s.stopThread e.1 e.2 true else s.delThread e.1) = u
  have only : s.StopsOnly u := by
    rw [← stopped]
    split
    · exact s.stopThread_stopsOnly _ _ _
    · exact s.delThread_stopsOnly _
  split
  · exact only.trans (u.winThreadGone_queriesOnly _).stopsOnly
  · split
    · exact only
    · exact only.trans (u.freeSlot_stopsOnly _ _)
  · exact only

theorem State.stopThreads_eq (s : State) (p : Who → Bool) : s.stopThreads p = (s.threads.filter fun e => p e.1 && !e.2.last).foldl State.stopOne
    { s.withdraw p with cores := s.cores.map fun e => (e.1, { e.2 with trapQueue := e.2.trapQueue.filter fun w => !p w }) } := rfl

theorem State.withdraw_stopsOnly (s : State) (p : Who → Bool) (cores : KV Nat CoreSt) : s.StopsOnly { s.withdraw p with cores := cores } := rfl

theorem State.stopThreads_stopsOnly (s : State) (p : Who → Bool) : s.StopsOnly (s.stopThreads p) := by
  rw [State.stopThreads_eq]
  exact State.StopsOnly.trans (s.withdraw_stopsOnly p _)
    (foldl_rel State.StopsOnly.refl State.StopsOnly.trans State.stopOne (fun s e => s.stopOne_stopsOnly e) _ _)

/-! ## Threads that owe no access -/

theorem State.stopThread_other (s : State) {w o : Who} (other : o ≠ w) (t : Thread) (last : Bool) :
    (s.stopThread w t last).thread? o = s.thread? o := by
  unfold State.stopThread
  dsimp only
  split <;> exact State.thread?_setThread_other _ _ other

/-- Stopping a thread leaves others as they are, and takes one away that owes nothing. -/
theorem State.stopOne_thread (s : State) (e : Who × Thread) (w : Who) (quiet : e.1 = w → e.2.held = []) :
    (s.stopOne e).thread? w = if e.1 = w then none else s.thread? w := by
  unfold State.stopOne
  dsimp only
  generalize stopped : (if (!e.2.held.isEmpty) = true then s.stopThread e.1 e.2 true else s.delThread e.1) = u
  have only : u.thread? w = if e.1 = w then none else s.thread? w := by
    rw [← stopped]
    by_cases here : e.1 = w
    · rw [if_pos here, quiet here, here]
      exact s.thread?_delThread_same w
    · rw [if_neg here]
      split
      · exact s.stopThread_other (Ne.symm here) _ _
      · exact s.thread?_delThread_other (Ne.symm here)
  rw [← only]
  split
  · rw [State.thread?, (u.winThreadGone_queriesOnly _).frame.1, State.thread?]
  · split <;> rfl
  · rfl

theorem State.stopAll_gone (w : Who) (dead : List (Who × Thread)) : ∀ s : State, (∀ e ∈ dead, e.1 = w → e.2.held = []) →
    ((∃ e ∈ dead, e.1 = w) ∨ s.thread? w = none) → (dead.foldl State.stopOne s).thread? w = none := by
  induction dead with
  | nil => exact fun s _ gone => gone.resolve_left (by simp)
  | cons e r ih =>
    intro s quiet gone
    refine ih _ (fun x member => quiet x (List.mem_cons_of_mem _ member)) ?_
    rw [s.stopOne_thread e w (quiet e List.mem_cons_self)]
    by_cases here : e.1 = w
    · exact .inr (if_pos here)
    · rw [if_neg here]
      refine gone.imp_left fun ⟨x, member, same⟩ => ⟨x, (List.mem_cons.1 member).resolve_left ?_, same⟩
      rintro rfl
      exact here same

/-- A thread that is stopped while it owes no access is gone (R331). -/
theorem State.stopThreads_gone {s : State} {p : Who → Bool} {w : Who} {t : Thread} (thread : s.thread? w = some t)
    (only : ∀ x, (w, x) ∈ s.threads → x = t) (picked : p w = true) (runs : t.last = false) (quiet : t.held = []) :
    (s.stopThreads p).thread? w = none := by
  rw [State.stopThreads_eq]
  refine State.stopAll_gone w _ _ ?_ (.inl ⟨(w, t), ?_, rfl⟩)
  · rintro ⟨o, x⟩ member rfl
    rw [only x (List.mem_filter.1 member).1, quiet]
  · exact List.mem_filter.2 ⟨KV.mem_of_at? thread, by simp [picked, runs]⟩

/-! ## Killing a group -/

/-- A group that is killed ends with the clock's others, once its threads have stopped (R293, R331). -/
theorem State.killGroup_live {s x : State} {gid : Nat} {g : Group} (group : s.group? gid = some g) (live : g.ending = false)
    (stopped : (s.updLaunch g.lid fun l => { l with status := l.status ||| 1 }).stopThreads (s.belongs gid) = x) :
    s.killGroup gid = (x.updGroup gid fun g => { g with ending := true, endClock := x.clock }).askEnd gid := by
  subst stopped
  unfold State.killGroup
  rw [group]
  dsimp only
  rw [live]
  rfl

theorem State.killGroup_net (s : State) (gid : Nat) : (s.killGroup gid).net = s.net := by
  unfold State.killGroup
  split
  · rfl
  · split
    · rfl
    · next g _ _ =>
      obtain ⟨-, -, -, -, net, -⟩ := ((s.updLaunch g.lid fun l => { l with status := l.status ||| 1 }).stopThreads_stopsOnly (s.belongs gid)).frame
      exact net

end Sys2Proof.Machine
end

section
/-! O51: the lull, the gust allowance and the on-die network (R366 to R372). -/

namespace Sys2Proof.Machine

/-! ## Injection and the gust allowance (R370, R371) -/

theorem Net.depart_frame (n : Net) (f : Flight) :
    (n.depart f).waiting = n.waiting ∧ ∀ router part, (n.depart f).bucket router part = n.bucket router part := by
  unfold Net.depart
  split
  · split <;> exact ⟨rfl, fun _ _ => rfl⟩
  · exact ⟨rfl, fun _ _ => rfl⟩

section
variable {s : State} {p : Packet} {b : Bucket} (bucket : b = s.net.bucket p.src p.net)

/-- No earlier request of the network waits at the port. -/
theorem Net.queuedBefore_free {n : Net} (free : ∀ x ∈ n.waiting, x.src ≠ p.src ∨ x.net ≠ p.net) : n.queuedBefore p = false := by
  have none_ : (n.waiting.any fun x => decide (x.src = p.src) && decide (x.net = p.net)) = false :=
    List.any_eq_false.2 fun x member => by
      rcases free x member with src | net
      · simp [src]
      · simp [net]
  rw [Net.queuedBefore, none_, Bool.and_false]

theorem execPacketInjection_injects (known : p.net ≤ 16) : exec (.packetInjection p) s = .next (s.inject p) := by
  rw [exec_packetInjection, execPacketInjection, if_neg (Nat.not_lt.2 known)]

theorem State.inject_waits (held : s.net.mayInject p = false) : s.inject p = { s with net := { s.net with waiting := s.net.waiting ++ [p] } } := by
  simp [State.inject, held]

theorem State.inject_departs (may : s.net.mayInject p = true) (free : s.net.queuedBefore p = false) :
    s.inject p = { s with net := (s.net.pay p).depart { packet := p, route := s.route p.src p.dst, void := false } } := by
  simp [State.inject, may, free]

include bucket in
/-- A request is injected if its bucket has a token for each of its flits (R371). -/
theorem Net.mayInject_request (request : p.cls = .request) (own : p.net < 16) (limited : b.rate ≠ 0xFFFF) :
    s.net.mayInject p = decide (p.data + 2 ≤ b.tokens) := by
  subst bucket
  simp only [Net.mayInject, request, Net.admits, Nat.not_le.2 own, limited, flitsOf, ne_eq, not_true_eq_false, decide_false, Bool.false_or] <;> rfl

include bucket in
/-- It takes them from the bucket. -/
theorem Net.pay_request (request : p.cls = .request) (own : p.net < 16) (limited : b.rate ≠ 0xFFFF) : s.net.pay p =
    { s.net with buckets := KV.put s.net.buckets (p.src, p.net) { b with tokens := b.tokens - (p.data + 2) } } := by
  subst bucket
  simp [Net.pay, request, Net.spend, Nat.not_le.2 own, limited, flitsOf]

include bucket in
/-- Any other packet departs without paying (R370, R371). -/
theorem Net.unpaid (exempt : p.cls ≠ .request ∨ p.net = 16 ∨ b.rate = 0xFFFF) : s.net.mayInject p = true ∧ s.net.pay p = s.net := by
  subst bucket
  by_cases request : p.cls = .request
  · rcases exempt.resolve_left (fun h => h request) with system | unlimited
    · simp [Net.mayInject, request, Net.admits, Net.pay, Net.spend, system]
    · simp [Net.mayInject, request, Net.admits, Net.pay, Net.spend, unlimited]
  · simp [Net.mayInject, request, Net.pay]

end

/-- With nothing waiting at the port a refilled bucket changes nothing else of the network (R371). -/
theorem State.retryPort_net {s : State} {router part : Nat} (free : ∀ p ∈ s.net.waiting, p.src ≠ router ∨ p.net ≠ part) :
    (s.retryPort router part).net = s.net := by
  have other (p : Packet) (member : p ∈ s.net.waiting) : (decide (p.src = router) && decide (p.net = part)) = false := by
    rcases free p member with src | net
    · simp [src]
    · simp [net]
  have none_ : (s.net.waiting.filter fun x => decide (x.src = router) && decide (x.net = part)) = [] :=
    List.filter_eq_nil_iff.2 fun p member => by simp [other p member]
  have all : (s.net.waiting.filter fun x => !(decide (x.src = router) && decide (x.net = part))) = s.net.waiting :=
    List.filter_eq_self.2 fun p member => by simp [other p member]
  unfold State.retryPort
  dsimp only
  rw [none_, all]
  rfl

theorem execGustRefill_free {s : State} {router part : Nat} (free : ∀ p ∈ s.net.waiting, p.src ≠ router ∨ p.net ≠ part) :
    ∃ u, exec (.gustRefill router part) s = .next u ∧ u.net = { s.net with
      buckets := KV.put s.net.buckets (router, part) { s.net.bucket router part with
        tokens := min (s.net.bucket router part).burst ((s.net.bucket router part).tokens + (s.net.bucket router part).rate) } } := by
  refine ⟨_, rfl, ?_⟩
  rw [State.retryPort_net]
  exact free

/-! ## The reset of a hamlet (R372) -/

theorem Net.discard_flying (n : Net) (f : Flight) : (n.discard f).flying = n.flying ∧ (n.discard f).waiting = n.waiting := by
  unfold Net.discard
  split <;> exact ⟨rfl, rfl⟩

theorem Net.discards_frame (fs : List Flight) :
    ∀ n : Net, (fs.foldl Net.discard n).flying = n.flying ∧ (fs.foldl Net.discard n).waiting = n.waiting := by
  induction fs with
  | nil => exact fun _ => ⟨rfl, rfl⟩
  | cons f r ih =>
    intro n
    obtain ⟨flying, waiting⟩ := ih (n.discard f)
    obtain ⟨flies, waits⟩ := n.discard_flying f
    exact ⟨flying.trans flies, waiting.trans waits⟩

/-- What is under way after the reset: those that leave the hamlet are void, and those that arrive there are gone. -/
theorem Net.resetHamlet_flying (n : Net) (router : Nat) : (n.resetHamlet router).flying =
    (n.flying.map fun f => if f.leaving router then { f with void := true } else f).filter fun f => !f.lost router :=
  (Net.discards_frame _ _).1

theorem Net.resetHamlet_waiting (n : Net) (router : Nat) : (n.resetHamlet router).waiting = n.waiting.filter fun p => decide (p.src ≠ router) := by
  show List.filter _ (Net.waiting (List.foldl _ _ _)) = _
  rw [(Net.discards_frame _ _).2]

section
variable {n : Net} {router : Nat} {f : Flight}

theorem Net.resetHamlet_void (flies : f ∈ (n.resetHamlet router).flying) (src : f.packet.src = router) (here : f.route.head? = some router) :
    f.void = true := by
  rw [Net.resetHamlet_flying] at flies
  obtain ⟨x, -, rfl⟩ := List.mem_map.1 (List.mem_filter.1 flies).1
  split at src
  · next leaves => rw [if_pos leaves]
  · next stays =>
    rw [if_neg stays] at here
    exact absurd (by simp [Flight.leaving, src, here]) stays

theorem Net.resetHamlet_received (flies : f ∈ (n.resetHamlet router).flying) (dst : f.packet.dst = router) :
    f.packet.cls ≠ .reply ∧ 2 < f.route.length := by
  rw [Net.resetHamlet_flying] at flies
  simpa [Flight.lost, dst] using (List.mem_filter.1 flies).2

theorem Net.resetHamlet_others (flies : f ∈ n.flying) (src : f.packet.src ≠ router) (dst : f.packet.dst ≠ router) :
    f ∈ (n.resetHamlet router).flying := by
  rw [Net.resetHamlet_flying]
  have stays : f.leaving router = false := by simp [Flight.leaving, src]
  refine List.mem_filter.2 ⟨List.mem_map.2 ⟨f, flies, by simp [stays]⟩, by simp [Flight.lost, dst]⟩

end

theorem State.killGroups_net (gs : List (Nat × Group)) (s : State) : (gs.foldl (fun s e => s.killGroup e.1) s).net = s.net :=
  foldl_rel (R := fun s u => u.net = s.net) (fun _ => rfl) (fun h k => k.trans h) (fun s (e : Nat × Group) => s.killGroup e.1)
    (fun s e => s.killGroup_net e.1) gs s

/-- A hamlet with no group is reset without a group being killed. -/
theorem hamlet_empty {s : State} {router : Nat} (empty : ∀ e ∈ s.groups, s.routerOf e.2.core ≠ router) :
    (s.groups.filter fun e => decide (s.routerOf e.2.core = router)) = [] :=
  List.filter_eq_nil_iff.2 fun e member => by simp [empty e member]

end Sys2Proof.Machine

namespace Sys2Proof

open Machine

/-- Settles O51: each act by its own rule; a hamlet's reset by what `Net.resetHamlet` leaves under way. -/
theorem lullAndNetwork : Obligations.LullAndNetwork := by
  refine ⟨fun s core q r lull => ?_, fun s router part b bucket free => ?_, fun s p above => congrArg Host.Outcome.next (if_pos above),
    fun s p b known bucket free => ?_, fun s router => ?_⟩
  · subst lull
    refine ⟨fun limit on fresh => if_neg (by simp [State.lullLimit, limit, Nat.not_lt.2 on, fresh]),
      fun off => if_pos (off.imp_right .inl), fun low => ⟨_, if_neg (Nat.not_lt.2 low), fun k => ?_⟩, fun high => if_pos high, ?_⟩
    · rw [State.core_updCore_same]
      simp
    · refine ⟨_, rfl, fun p found => ?_, fun none_ => ?_⟩
      · rw [found]
      · rw [none_]
  · subst bucket
    obtain ⟨u, refills, net⟩ := execGustRefill_free free
    rw [refills]
    refine ⟨u, rfl, ?_, ?_⟩
    · rw [net]
      exact congrArg (Option.getD · _) KV.at?_put_same
    · rw [net]
  · have injects := execPacketInjection_injects (s := s) known
    have first := Net.queuedBefore_free free
    refine ⟨fun request own limited few => ?_, fun request own limited enough => ?_, fun exempt => ?_⟩
    · rw [injects, State.inject_waits (by rw [Net.mayInject_request bucket request own limited]; simpa using few)]
    · rw [injects, State.inject_departs (by rw [Net.mayInject_request bucket request own limited]; simpa using enough) first,
        Net.pay_request bucket request own limited]
      obtain ⟨waiting, buckets⟩ := Net.depart_frame
        { s.net with buckets := KV.put s.net.buckets (p.src, p.net) { b with tokens := b.tokens - (p.data + 2) } }
        { packet := p, route := s.route p.src p.dst, void := false }
      refine ⟨_, rfl, (buckets _ _).trans (congrArg (Option.getD · _) KV.at?_put_same), waiting, fun x y r route => ?_⟩
      simp only [Net.depart, route, Bool.false_eq_true, if_false, true_and]
      exact KV.at?_put_same
    · obtain ⟨may, unpaid⟩ := Net.unpaid bucket exempt
      rw [injects, State.inject_departs may first, unpaid]
  · refine ⟨_, rfl, fun empty => ?_, fun f => Net.resetHamlet_void, fun f => Net.resetHamlet_received, fun f flies => ?_, fun p waits => ?_,
      fun e allowance => ?_, fun e mirror => ?_⟩
    · rw [hamlet_empty empty]
      exact ⟨rfl, rfl⟩
    · refine Net.resetHamlet_others ?_
      rwa [State.killGroups_net]
    · rw [Net.resetHamlet_waiting] at waits
      simpa using (List.mem_filter.1 waits).2
    · simpa using (List.mem_filter.1 allowance).2
    · simpa using (List.mem_filter.1 mirror).2

end Sys2Proof
end

section
/-! O56: KILL and VACATE, notify words, rings, and the registers of the service (R320, R331, R337, R366, R371, R381 to R387, R395). -/

namespace Sys2Proof.Machine

/-! ## KILL (R331, R383) -/

section
variable {s : State} {part : Nat} {grp : BitVec 32} {p : Part} (named : KV.at? s.parts part = some p)
include named

theorem execKill_unknown (none_ : s.launchNamed part p.klaunch = none) :
    exec (.kill part grp) s = .next (s.logIgnored part 2 (grp.setWidth 64)) := by
  rw [exec_kill, execKill, named]
  dsimp only
  rw [none_]

variable {lid : Nat} {m : Launch} (launch : s.launchNamed part p.klaunch = some (lid, m))
include launch

theorem execKill_all (all : grp = 0xFFFFFFFF) : exec (.kill part grp) s = .next (s.killLaunch lid) := by
  rw [exec_kill, execKill, named]
  dsimp only
  rw [launch]
  exact if_pos all

theorem execKill_group (one : grp ≠ 0xFFFFFFFF) {u : State} (killed : s.killGrp lid grp = some u) : exec (.kill part grp) s = .next u := by
  rw [exec_kill, execKill, named]
  dsimp only
  rw [launch]
  dsimp only
  rw [if_neg one, killed]

theorem execKill_nobody (one : grp ≠ 0xFFFFFFFF) (nobody : s.killGrp lid grp = none) :
    exec (.kill part grp) s = .next (s.logIgnored part 2 (grp.setWidth 64)) := by
  rw [exec_kill, execKill, named]
  dsimp only
  rw [launch]
  dsimp only
  rw [if_neg one, nobody]

end

section
variable {s : State} {lid : Nat} {grp : BitVec 32}

theorem State.killGrp_placed {gid : Nat} (placed : s.placedByGrp lid grp = some gid) : s.killGrp lid grp = some (s.killGroup gid) := by
  rw [State.killGrp, placed]

variable (unplaced : s.placedByGrp lid grp = none)
include unplaced

theorem State.killGrp_saved {gid : Nat} (saved : s.savedByGrp lid grp = some gid) : s.killGrp lid grp = some (s.killSaved gid) := by
  rw [State.killGrp, unplaced]
  dsimp only
  rw [saved]

theorem State.killGrp_waiting (unsaved : s.savedByGrp lid grp = none) : s.killGrp lid grp = s.killWaiting lid grp := by
  rw [State.killGrp, unplaced]
  dsimp only
  rw [unsaved]

end

/-- A group that is killed: it is at its end, its threads that owe no access are gone, and its launch has KILLED (R331, R357). -/
theorem State.killGroup_facts {s : State} {gid : Nat} {g : Group} {l : Launch} (group : s.group? gid = some g) (live : g.ending = false)
    (launch : s.launch? g.lid = some l) :
    (∃ x, (s.killGroup gid).group? gid = some x ∧ x.ending = true) ∧
      (∀ w t, s.thread? w = some t → (∀ x, (w, x) ∈ s.threads → x = t) → s.belongs gid w = true → t.last = false → t.held = [] →
        (s.killGroup gid).thread? w = none) ∧
      (s.clock, Turn.event (.groupEnd gid)) ∈ (s.killGroup gid).sched ∧
      (∃ k, (s.killGroup gid).launch? g.lid = some k ∧ k.status = l.status ||| 1) ∧ (s.killGroup gid).mem = s.mem := by
  let v := s.updLaunch g.lid fun l => { l with status := l.status ||| 1 }
  have gone : ∀ w t, s.thread? w = some t → (∀ x, (w, x) ∈ s.threads → x = t) → s.belongs gid w = true → t.last = false → t.held = [] →
      (v.stopThreads (s.belongs gid)).thread? w = none := fun w t thread only own runs quiet => State.stopThreads_gone thread only own runs quiet
  obtain ⟨clock, groups, launches, mem, -⟩ := (v.stopThreads_stopsOnly (s.belongs gid)).frame
  rw [State.killGroup_live group live rfl]
  generalize v.stopThreads (s.belongs gid) = x at gone clock groups launches mem
  have still : x.group? gid = some g := by rw [State.group?, groups]; exact group
  refine ⟨⟨_, KV.at?_upd_some still _, rfl⟩, gone, ?_, ⟨{ l with status := l.status ||| 1 }, ?_, rfl⟩, mem⟩
  · show (s.clock, _) ∈ x.sched ++ [(x.clock, Turn.event (.groupEnd gid))]
    rw [clock]
    exact List.mem_append_right _ (List.mem_singleton_self _)
  · show KV.at? x.launches g.lid = _
    rw [launches]
    exact KV.at?_upd_some launch _

theorem State.enterColl_frame (s : State) (c : Coll) (m : CollMember) :
    (s.enterColl c m).2.groups = s.groups ∧ (s.enterColl c m).2.clock = s.clock := by
  unfold State.enterColl
  split <;> exact ⟨rfl, rfl⟩

/-- What the end of a saved group does to the window of one of its threads (R233). -/
def State.windowGone (s : State) (e : Who × Thread) : State :=
  match e.1 with
  | .lane _ _ => s.winThreadGone e.2
  | _ => s

theorem State.windowGone_frame (s : State) (e : Who × Thread) : (s.windowGone e).groups = s.groups ∧ (s.windowGone e).clock = s.clock := by
  unfold State.windowGone
  split
  · obtain ⟨clock, groups, -⟩ := (s.winThreadGone_queriesOnly e.2).stopsOnly.frame
    exact ⟨groups, clock⟩
  · exact ⟨rfl, rfl⟩

theorem State.killSaved_live {s : State} {gid : Nat} {y : SavedGroup} {g : Group} (saved : KV.at? s.saved gid = some y)
    (live : y.group.ending = false) (ended : g = { y.group with estate := y.table, ending := true, endClock := s.clock }) :
    s.killSaved gid = (y.colls.foldl (fun s e => (s.enterColl e.1 e.2).2) (y.threads.foldl State.windowGone (({ s with
      saved := KV.put s.saved gid { y with group := g, conveyed := [] }, groups := KV.put s.groups gid g
      cmds := s.cmds ++ y.cmds } : State).updLaunch g.lid fun l => { l with status := l.status ||| 1 }))).askEnd gid := by
  subst ended
  unfold State.killSaved
  rw [saved]
  dsimp only
  rw [live]
  rfl

theorem State.endSaved_frame (y : SavedGroup) (s : State) :
    (y.colls.foldl (fun s e => (s.enterColl e.1 e.2).2) (y.threads.foldl State.windowGone s)).groups = s.groups ∧
      (y.colls.foldl (fun s e => (s.enterColl e.1 e.2).2) (y.threads.foldl State.windowGone s)).clock = s.clock := by
  have same {α : Type} (f : State → α → State) (step : ∀ s a, (f s a).groups = s.groups ∧ (f s a).clock = s.clock) (l : List α) (s : State) :
      (l.foldl f s).groups = s.groups ∧ (l.foldl f s).clock = s.clock :=
    foldl_rel (R := fun s u => u.groups = s.groups ∧ u.clock = s.clock) (fun _ => ⟨rfl, rfl⟩) (fun h k => ⟨k.1.trans h.1, k.2.trans h.2⟩) f step l s
  obtain ⟨groups, clock⟩ := same State.windowGone State.windowGone_frame y.threads s
  obtain ⟨groups', clock'⟩ := same (fun s (e : Coll × CollMember) => (s.enterColl e.1 e.2).2) (fun s e => s.enterColl_frame e.1 e.2) y.colls
    (y.threads.foldl State.windowGone s)
  exact ⟨groups'.trans groups, clock'.trans clock⟩

/-- A saved group that is killed is at its end too (R331). -/
theorem State.killSaved_facts {s : State} {gid : Nat} {y : SavedGroup} (saved : KV.at? s.saved gid = some y) (live : y.group.ending = false) :
    (∃ x, (s.killSaved gid).group? gid = some x ∧ x.ending = true) ∧ (s.clock, Turn.event (.groupEnd gid)) ∈ (s.killSaved gid).sched := by
  rw [State.killSaved_live saved live rfl]
  refine ⟨⟨{ y.group with estate := y.table, ending := true, endClock := s.clock }, ?_, rfl⟩, ?_⟩
  · show KV.at? (State.groups (List.foldl _ _ _)) gid = _
    rw [(State.endSaved_frame y _).1]
    exact KV.at?_put_same
  · refine List.mem_append_right _ (List.mem_singleton.2 ?_)
    rw [(State.endSaved_frame y _).2]
    rfl

theorem Launch.passDead_frame (l : Launch) : l.passDead.dead = l.dead ∧ l.passDead.ended = l.ended ∧ l.passDead.status = l.status := ⟨rfl, rfl, rfl⟩

/-- Freeing a pending-launch store entry leaves the launch otherwise as it is (R363). -/
theorem State.freeEntry_launch {s : State} {lid : Nat} {l : Launch} (launch : s.launch? lid = some l) :
    ∃ k, (s.freeEntry lid).launch? lid = some k ∧ k.dead = l.dead ∧ k.ended = l.ended ∧ k.status = l.status := by
  unfold State.freeEntry
  rw [launch]
  dsimp only
  split
  · exact ⟨l, launch, rfl, rfl, rfl⟩
  · exact ⟨_, KV.at?_upd_some launch _, rfl, rfl, rfl⟩

theorem State.askPlacement_launches (s : State) : s.askPlacement.launches = s.launches :=
  foldl_rel (R := fun s u => u.launches = s.launches) (fun _ => rfl) (fun h k => k.trans h)
    (fun s d => s.raise (.groupPlacement (s.localDie d))) (fun _ _ => rfl) (List.range 4) s

section
variable {s : State} {lid : Nat} {grp : BitVec 32} {l : Launch} (launch : s.launch? lid = some l)
include launch

/-- A group that waits is never placed and counts as killed and ended (R331, R357). -/
theorem State.killWaiting_counts (waits : l.placed ≤ grp.toNat) (inside : grp.toNat < l.ngrp) (live : grp.toNat ∉ l.dead) :
    ∃ u, s.killWaiting lid grp = some u ∧
      ∃ k, u.launch? lid = some k ∧ grp.toNat ∈ k.dead ∧ k.ended = l.ended + 1 ∧ k.status = l.status ||| 1 := by
  have mine : ¬ (grp.toNat < l.placed ∨ l.ngrp ≤ grp.toNat ∨ l.dead.contains grp.toNat = true) := by
    simp only [List.contains_iff_mem, not_or]
    exact ⟨Nat.not_lt.2 waits, Nat.not_le.2 inside, live⟩
  unfold State.killWaiting
  rw [launch]
  dsimp only
  rw [if_neg mine]
  generalize counted : Launch.passDead { l with dead := l.dead ++ [grp.toNat], ended := l.ended + 1, status := l.status ||| 1 } = k
  obtain ⟨dead, ended, status⟩ := Launch.passDead_frame { l with dead := l.dead ++ [grp.toNat], ended := l.ended + 1, status := l.status ||| 1 }
  rw [counted] at dead ended status
  have updated : ∀ c, (s.updLaunch lid fun _ => { k with checked := c }).launch? lid = some { k with checked := c } :=
    fun c => KV.at?_upd_some launch _
  have member : grp.toNat ∈ k.dead := by
    rw [dead]
    exact List.mem_append_right _ (List.mem_singleton_self _)
  have after (u : State) : (u.askPlacement.raise (.launchComplete lid)).launch? lid = u.launch? lid :=
    congrArg (KV.at? · lid) u.askPlacement_launches
  refine ⟨_, rfl, ?_⟩
  rw [after]
  split
  · obtain ⟨j, there, dead', ended', status'⟩ := State.freeEntry_launch (updated (k.checked || decide (k.ngrp ≤ k.placed)))
    exact ⟨j, there, dead' ▸ member, ended'.trans ended, status'.trans status⟩
  · exact ⟨_, updated _, member, ended, status⟩

theorem State.killWaiting_nobody (nobody : grp.toNat < l.placed ∨ l.ngrp ≤ grp.toNat ∨ grp.toNat ∈ l.dead) : s.killWaiting lid grp = none := by
  have same : grp.toNat < l.placed ∨ l.ngrp ≤ grp.toNat ∨ l.dead.contains grp.toNat = true := by simpa using nobody
  unfold State.killWaiting
  rw [launch]
  exact if_pos same

end

/-! ## VACATE (R337, R383) -/

theorem State.raises_turns {α : Type} (f : α → Instr) (l : List α) : ∀ s : State,
    (l.foldl (fun s a => s.raise (f a)) s).turns = s.turns ++ l.map fun a => Turn.event (f a) := by
  induction l with
  | nil => exact fun s => (List.append_nil _).symm
  | cons a r ih =>
    intro s
    rw [List.foldl_cons, ih]
    simp [State.raise]

/-- `u` has the groups and the fleet of `s`, its turns and maybe more, and those dies as they were that `P` names. -/
structure State.Spares (P : Nat → Prop) (s u : State) : Prop where
  fleet : u.fleet = s.fleet
  groups : u.groups = s.groups
  turns : s.turns <+: u.turns
  dies : ∀ d, P d → u.die d = s.die d

theorem State.Spares.of_eq {P : Nat → Prop} {s u : State} (fleet : u.fleet = s.fleet) (groups : u.groups = s.groups) (turns : u.turns = s.turns)
    (dies : u.dies = s.dies) : State.Spares P s u :=
  ⟨fleet, groups, turns ▸ List.prefix_rfl, fun d _ => by rw [State.die, dies, State.die]⟩

theorem State.Spares.refl (P : Nat → Prop) (s : State) : State.Spares P s s := .of_eq rfl rfl rfl rfl

theorem State.Spares.trans {P : Nat → Prop} {s u v : State} (h : State.Spares P s u) (k : State.Spares P u v) : State.Spares P s v where
  fleet := k.fleet.trans h.fleet
  groups := k.groups.trans h.groups
  turns := h.turns.trans k.turns
  dies d named := (k.dies d named).trans (h.dies d named)

theorem State.Spares.mono {P Q : Nat → Prop} {s u : State} (h : State.Spares P s u) (fewer : ∀ d, Q d → P d) : State.Spares Q s u :=
  { h with dies := fun d named => h.dies d (fewer d named) }

theorem State.WritesOnly.spares {s u : State} (h : s.WritesOnly u) (P : Nat → Prop) : State.Spares P s u := by
  rw [h]
  exact .of_eq rfl rfl rfl rfl

theorem State.updDie_spares (s : State) (die : Nat) (f : Die → Die) : State.Spares (· ≠ die) s (s.updDie die f) :=
  ⟨rfl, rfl, List.prefix_rfl, fun _ other => State.die_updDie_other _ _ other⟩

/-- A journal record changes memory and its die. -/
theorem State.journal_spares (s : State) (die type index graph : Nat) (value : BitVec 64) :
    State.Spares (· ≠ die) s (s.journal die type index graph value) := by
  unfold State.journal
  dsimp only
  split
  · exact .refl _ s
  · unfold State.writeJournal
    exact (((State.wrBytes_writesOnly _ _ s 0).spares _).trans (State.updDie_spares _ _ _)).trans (State.updDie_spares _ _ _)

theorem State.updCores_spares (f : CoreSt → CoreSt) (cores : List Nat) (P : Nat → Prop) (s : State) :
    State.Spares P s (cores.foldl (fun s c => s.updCore c f) s) :=
  foldl_rel (State.Spares.refl P) State.Spares.trans (fun s c => s.updCore c f) (fun _ _ => .of_eq rfl rfl rfl rfl) cores s

theorem State.raises_spares {α : Type} (f : α → Instr) (l : List α) (P : Nat → Prop) (s : State) :
    State.Spares P s (l.foldl (fun s a => s.raise (f a)) s) :=
  foldl_rel (State.Spares.refl P) State.Spares.trans (fun s a => s.raise (f a)) (fun _ _ => ⟨rfl, rfl, List.prefix_append _ _, fun _ _ => rfl⟩) l s

section
variable {s : State} {die : Nat} {cores : List Nat}

theorem State.vacateCores_held {c : Nat} (member : c ∈ cores) (idle : (s.die die).idle = true) :
    c ∈ ((s.vacateCores die cores).die die).heldVacations := by
  have some_ : cores.isEmpty = false := List.isEmpty_eq_false_iff_exists_mem.2 ⟨c, member⟩
  rw [State.vacateCores, some_, idle]
  simp only [Bool.false_eq_true, if_false, if_true, State.die_updDie_same]
  exact List.mem_append_right _ member

/-- A die's groups on the cores are asked to be saved. -/
theorem State.vacateCores_saves {c : Nat} (member : c ∈ cores) (busy : (s.die die).idle = false) {e : Nat × Group} (on : e ∈ s.groupsOn c) :
    Turn.event (.groupSave e.1) ∈ (s.vacateCores die cores).turns := by
  have some_ : cores.isEmpty = false := List.isEmpty_eq_false_iff_exists_mem.2 ⟨c, member⟩
  rw [State.vacateCores, some_, busy]
  simp only [Bool.false_eq_true, if_false]
  rw [State.raises_turns]
  refine List.mem_append_right _ (List.mem_map.2 ⟨e, List.mem_flatMap.2 ⟨c, member, ?_⟩, rfl⟩)
  rw [State.groupsOn, (State.updCores_spares (fun x => { x with vacated := true }) cores (fun _ => True) _).groups,
    (s.journal_spares _ _ _ _ _).groups]
  exact on

/-- Other dies are spared. -/
theorem State.vacateCores_spares : State.Spares (· ≠ die) s (s.vacateCores die cores) := by
  unfold State.vacateCores
  split
  · exact .refl _ s
  · split
    · exact s.updDie_spares _ _
    · exact (s.journal_spares _ _ _ _ _).trans ((State.updCores_spares _ _ _ _).trans (State.raises_spares _ _ _ _))

end

/-- Asking other dies spares a die. -/
theorem State.vacates_spare (f : Nat → List Nat) (n : Nat) (ds : List Nat) : ∀ s : State, (∀ a ∈ ds, n ≠ s.localDie a) →
    State.Spares (· = n) s (ds.foldl (fun s a => s.vacateCores (s.localDie a) (f a)) s) := by
  induction ds with
  | nil => exact fun s _ => .refl _ s
  | cons a r ih =>
    intro s other
    have step : State.Spares (· = n) s (s.vacateCores (s.localDie a) (f a)) :=
      State.vacateCores_spares.mono fun d same => same ▸ other a List.mem_cons_self
    refine step.trans (ih _ fun x member => ?_)
    rw [State.localDie, step.fleet]
    exact other x (List.mem_cons_of_mem _ member)

/-- A die among those that are asked is asked in a state that has spared it, and is spared from then on. -/
theorem State.vacates_split {d : Nat} (f : Nat → List Nat) {ds : List Nat} (member : d ∈ ds) (once : ds.Nodup) (s : State) :
    ∃ v, State.Spares (· = s.localDie d) s v ∧ State.Spares (· = s.localDie d) (v.vacateCores (s.localDie d) (f d))
      (ds.foldl (fun s a => s.vacateCores (s.localDie a) (f a)) s) := by
  obtain ⟨before, after, rfl⟩ := List.append_of_mem member
  rw [List.nodup_append] at once
  obtain ⟨-, tail, apart⟩ := once
  have ahead (a) (early : a ∈ before) : s.localDie d ≠ s.localDie a := fun same =>
    apart a early d List.mem_cons_self (Nat.add_left_cancel same).symm
  have first := State.vacates_spare f (s.localDie d) before s ahead
  refine ⟨_, first, ?_⟩
  rw [List.foldl_append, List.foldl_cons]
  generalize before.foldl (fun s a => s.vacateCores (s.localDie a) (f a)) s = v at first
  have named (a : Nat) : v.localDie a = s.localDie a := congrArg (fun f : Fleet => f.pkg * 4 + a) first.fleet
  rw [named]
  refine State.vacates_spare f _ after _ fun a late same => ?_
  have kept : (v.vacateCores (s.localDie d) (f d)).localDie a = v.localDie a :=
    congrArg (fun f : Fleet => f.pkg * 4 + a) State.vacateCores_spares.fleet
  exact (List.nodup_cons.1 tail).1 (Nat.add_left_cancel (same.trans (kept.trans (named a))) ▸ late)

/-- VACATE asks for each core: its groups are saved, or the die without a scheduler keeps the request (R337, R383, R409). -/
theorem State.vacate_asks (s : State) {cs : List Nat} {c : Nat} (member : c ∈ cs) (inside : c / Config.coresPerDie < 4) :
    ((s.die (s.localDie (c / Config.coresPerDie))).idle = false → ∀ e ∈ s.groupsOn c, Turn.event (.groupSave e.1) ∈ (s.vacate cs).turns) ∧
      ((s.die (s.localDie (c / Config.coresPerDie))).idle = true →
        c ∈ ((s.vacate cs).die (s.localDie (c / Config.coresPerDie))).heldVacations) := by
  obtain ⟨v, before, after⟩ := State.vacates_split (fun d => cs.filter fun c => decide (c / Config.coresPerDie = d)) (List.mem_range.2 inside)
    List.nodup_range s
  have mine : c ∈ cs.filter fun x => decide (x / Config.coresPerDie = c / Config.coresPerDie) := List.mem_filter.2 ⟨member, decide_eq_true rfl⟩
  have same := before.dies _ rfl
  refine ⟨fun busy e on => after.turns.subset (State.vacateCores_saves mine (same ▸ busy) ?_), fun idle => ?_⟩
  · rw [State.groupsOn, before.groups]
    exact on
  · have held := State.vacateCores_held mine (same ▸ idle)
    rw [← after.dies _ rfl] at held
    exact held

/-! ## Served words -/

/-- Where nobody waits on a word, serving it changes nothing (R172). -/
theorem State.serve_nobody {s : State} {k : Nat} (nobody : ∀ w ∈ s.waits, w.key ≠ k) : s.serve [k] = s := by
  have none_ : s.waits.find? (fun x => decide (x.key = k)) = none := List.find?_eq_none.2 fun w member => by simpa using nobody w member
  rw [State.serve, State.serveFuel, none_]
  rfl

/-! ## The gust registers (R371) -/

/-- `m` has the allowances of `n`, and no more tokens. -/
def Net.Spends (n m : Net) : Prop := ∀ router part, (m.bucket router part).burst = (n.bucket router part).burst ∧
  (m.bucket router part).rate = (n.bucket router part).rate ∧ (m.bucket router part).tokens ≤ (n.bucket router part).tokens

theorem Net.Spends.of_buckets {n m : Net} (same : m.buckets = n.buckets) : n.Spends m := by
  intro router part
  have bucket : m.bucket router part = n.bucket router part := by rw [Net.bucket, same, Net.bucket]
  rw [bucket]
  exact ⟨rfl, rfl, Nat.le_refl _⟩

theorem Net.Spends.trans {n m k : Net} (h : n.Spends m) (g : m.Spends k) : n.Spends k := by
  intro router part
  obtain ⟨burst, rate, tokens⟩ := h router part
  obtain ⟨burst', rate', tokens'⟩ := g router part
  exact ⟨burst'.trans burst, rate'.trans rate, Nat.le_trans tokens' tokens⟩

theorem Net.spend_spends (n : Net) (router part flits : Nat) : n.Spends (n.spend router part flits) := by
  unfold Net.spend
  dsimp only
  split
  · exact .of_buckets rfl
  · intro r p
    by_cases here : (r, p) = (router, part)
    · cases here
      have now : Net.bucket { n with buckets := KV.put n.buckets (router, part) { n.bucket router part with
          tokens := (n.bucket router part).tokens - flits } } router part = { n.bucket router part with
          tokens := (n.bucket router part).tokens - flits } := congrArg (Option.getD · _) KV.at?_put_same
      rw [now]
      exact ⟨rfl, rfl, Nat.sub_le _ _⟩
    · have now : Net.bucket { n with buckets := KV.put n.buckets (router, part) { n.bucket router part with
          tokens := (n.bucket router part).tokens - flits } } r p = n.bucket r p := congrArg (Option.getD · _) (KV.at?_put_other here)
      rw [now]
      exact ⟨rfl, rfl, Nat.le_refl _⟩

theorem State.inject_spends (s : State) (p : Packet) : s.net.Spends (s.inject p).net := by
  unfold State.inject
  split
  · have departs (n : Net) (f : Flight) : n.Spends (n.depart f) := fun router part => by
      rw [(n.depart_frame f).2]
      exact ⟨rfl, rfl, Nat.le_refl _⟩
    refine Net.Spends.trans ?_ (departs _ _)
    unfold Net.pay
    split
    · exact Net.spend_spends _ _ _ _
    · exact .of_buckets rfl
  · exact .of_buckets rfl

/-- What waits at a port pays as it departs. -/
theorem State.retryPort_spends (s : State) (router part : Nat) : s.net.Spends (s.retryPort router part).net :=
  Net.Spends.trans (m := { s.net with waiting := s.net.waiting.filter fun x => !(decide (x.src = router) && decide (x.net = part)) })
    (.of_buckets rfl) (foldl_rel (R := fun s u : State => s.net.Spends u.net) (fun _ => .of_buckets rfl) (fun h k => h.trans k) State.inject
      State.inject_spends _ _)

theorem State.setGust_bucket (s : State) (router part : Nat) (v : BitVec 64) :
    ((s.setGust router part v).net.bucket router part).burst = bits v 31 16 ∧
    ((s.setGust router part v).net.bucket router part).rate = bits v 15 0 ∧
    ((s.setGust router part v).net.bucket router part).tokens ≤ bits v 31 16 := by
  let b : Bucket := { burst := bits v 31 16, rate := bits v 15 0, tokens := min (s.net.bucket router part).tokens (bits v 31 16) }
  let u : State := { s with net := { s.net with buckets := KV.put s.net.buckets (router, part) b } }
  obtain ⟨burst, rate, tokens⟩ := u.retryPort_spends router part router part
  have set : u.net.bucket router part = b := congrArg (Option.getD · _) KV.at?_put_same
  rw [set] at burst rate tokens
  exact ⟨burst, rate, Nat.le_trans tokens (Nat.min_le_right _ _)⟩

/-! ## Notify words, rings and registers -/

theorem execNotifyReset_writes {s : State} {part k : Nat} {l : Loc} (known : k ≤ 255) (there : s.notifyLoc part k = some l) :
    exec (.notifyReset part k) s = .next (((s.wrNat l 4 0).setTag (l.key / 4) 0).serve [l.key / 4]) := by
  rw [exec_notifyReset, execNotifyReset, if_neg (Nat.not_lt.2 known), there]

theorem execNotifyReset_ignored {s : State} {part k : Nat} (nowhere : 255 < k ∨ s.notifyLoc part k = none) :
    exec (.notifyReset part k) s = .next s := by
  rw [exec_notifyReset, execNotifyReset]
  split
  · rfl
  · next known => rw [nowhere.resolve_left known]

theorem State.wrNat_waits (s : State) (l : Loc) (n x : Nat) : (s.wrNat l n x).waits = s.waits := by
  rw [State.wrNat, State.wrBytes_writesOnly l _ s 0]

section
variable {s : State} {part die : Nat} {v : BitVec 32} {r : Ring} (ring : s.ring? part die = some r)
include ring

theorem execRconsWrite_ignored (passes : (r.count - s.ringCons part die).toNat < (v - s.ringCons part die).toNat) :
    exec (.rconsWrite part die v) s = .next (s.logIgnored part 3 (v.setWidth 64)) := by
  rw [exec_rconsWrite, execRconsWrite, ring]
  exact if_pos passes

variable (taken : (v - s.ringCons part die).toNat ≤ (r.count - s.ringCons part die).toNat)
include taken

theorem execRconsWrite_full (full : r.n ≤ (r.count - v).toNat) :
    exec (.rconsWrite part die v) s = .next (s.updPart part fun p => { p with rcons := KV.put p.rcons die v }) := by
  rw [exec_rconsWrite, execRconsWrite, ring]
  dsimp only
  rw [if_neg (Nat.not_lt.2 taken), if_neg (Nat.not_lt.2 full)]

theorem execRconsWrite_room (room : (r.count - v).toNat < r.n) : exec (.rconsWrite part die v) s =
    .next (((s.updPart part fun p => { p with rcons := KV.put p.rcons die v }).setTag (r.space.key / 4) 0).serve [r.space.key / 4]) := by
  rw [exec_rconsWrite, execRconsWrite, ring]
  dsimp only
  rw [if_neg (Nat.not_lt.2 taken), if_pos room]

end

/-- The consumer count after RCONS is taken (R383, R386). -/
theorem State.ringCons_taken {s : State} {part : Nat} {p : Part} (named : KV.at? s.parts part = some p) (die : Nat) (v : BitVec 32) :
    (s.updPart part fun p => { p with rcons := KV.put p.rcons die v }).ringCons part die = v := by
  have found : KV.at? (s.updPart part fun p => { p with rcons := KV.put p.rcons die v }).parts part =
      some { p with rcons := KV.put p.rcons die v } := KV.at?_upd_some named _
  rw [State.ringCons, found]
  exact congrArg (Option.getD · _) KV.at?_put_same

section
variable {s : State} {core part : Nat} {svc : Bool} {va : BitVec 64} {v : BitVec 32}

theorem execNotifyFillStore_nobody (nobody : s.rvPart core = none) : exec (.notifyFillStore core va v) s = .next (s.rvTrap core 7 va) := by
  rw [exec_notifyFillStore, execNotifyFillStore, nobody]

variable (member : s.rvPart core = some (part, svc))
include member

theorem execNotifyFillStore_misaligned (odd : va.toNat % 4 ≠ 0) : exec (.notifyFillStore core va v) s = .next (s.rvTrap core 7 va) := by
  rw [exec_notifyFillStore, execNotifyFillStore, member]
  exact if_pos odd

theorem execNotifyFillStore_absent {e : XFail} (absent : s.gl part va Want.wr = .error e) :
    exec (.notifyFillStore core va v) s = .next (s.rvTrap core 7 va) := by
  rw [exec_notifyFillStore, execNotifyFillStore, member]
  dsimp only
  rw [absent, ite_self]

theorem execNotifyFillStore_place {p : Place} (aligned : va.toNat % 4 = 0) (there : s.gl part va Want.wr = .ok p) :
    exec (.notifyFillStore core va v) s = if p.cls = 4 then .next (s.stf p.loc true v) else .next (s.rvTrap core 7 va) := by
  rw [exec_notifyFillStore, execNotifyFillStore, member]
  dsimp only
  rw [if_neg (by simp [aligned]), there]

end

/-- The legal values of the lull register (R366). -/
theorem lullOk_iff (v : BitVec 64) : lullOk v = true ↔ bits v 31 3 = 0 ∧ bits v 47 32 < bits v 63 48 ∧ bits v 2 0 ≤ 4 := by
  have below := v.isLt
  simp only [lullOk, bits, Bool.and_eq_true, decide_eq_true_eq, and_assoc]
  omega

end Sys2Proof.Machine

namespace Sys2Proof

open Machine

/-- Settles O56: KILL by where its group is, each register by its own rule. -/
theorem serviceActs : Obligations.ServiceActs := by
  refine ⟨⟨fun s part grp p named => ⟨execKill_unknown named, fun lid l m found launch =>
    ⟨execKill_all named found, fun one => ⟨?_, fun unplaced => ⟨?_, fun unsaved => ⟨?_, ?_⟩⟩⟩⟩⟩, fun s part n => ?_⟩,
    ⟨fun s part k => ⟨execNotifyReset_ignored, fun l known there => ⟨execNotifyReset_writes known there, fun nobody => ?_⟩⟩, ?_, ?_, ?_, ?_⟩⟩
  · intro gid g placed group mine live
    subst mine
    exact ⟨_, execKill_group named found one (State.killGrp_placed placed), State.killGroup_facts group live launch⟩
  · intro gid y saved there live
    exact ⟨_, execKill_group named found one (State.killGrp_saved unplaced saved), State.killSaved_facts there live⟩
  · intro waits inside live
    obtain ⟨u, killed, k, facts⟩ := State.killWaiting_counts launch waits inside live
    exact ⟨u, k, execKill_group named found one ((State.killGrp_waiting unplaced unsaved).trans killed), facts⟩
  · intro nobody
    exact execKill_nobody named found one ((State.killGrp_waiting unplaced unsaved).trans (State.killWaiting_nobody launch nobody))
  · exact ⟨_, _, rfl, rfl, fun c member inside => s.vacate_asks member inside⟩
  · rw [execNotifyReset_writes known there, State.serve_nobody]
    intro w member
    exact nobody w (by rwa [State.setTag, State.wrNat_waits] at member)
  · intro s part die v none_
    rw [exec_rconsWrite, execRconsWrite, none_]
  · intro s part die v r p ring named
    refine ⟨execRconsWrite_ignored ring, fun w taken isW => ?_, fun taken nobody => ?_⟩
    · subst isW
      exact ⟨execRconsWrite_full ring taken, execRconsWrite_room ring taken⟩
    · by_cases room : (r.count - v).toNat < r.n
      · rw [execRconsWrite_room ring taken room, State.serve_nobody (by exact nobody)]
        exact ⟨_, rfl, State.ringCons_taken named die v, fun wf _ => State.tagAt_setTag_same _ _ _ wf, rfl⟩
      · rw [execRconsWrite_full ring taken (Nat.not_lt.1 room)]
        exact ⟨_, rfl, State.ringCons_taken named die v, fun _ has => absurd has room, rfl⟩
  · intro s core va v
    refine ⟨execNotifyFillStore_nobody, fun part svc member => ⟨execNotifyFillStore_misaligned member, fun e => execNotifyFillStore_absent member,
      fun p aligned there => ?_⟩⟩
    rw [execNotifyFillStore_place member aligned there]
    exact ⟨fun notify => if_pos notify, fun other => if_neg other⟩
  · intro s v d router part
    refine ⟨fun reserved order limit => if_pos ((lullOk_iff v).2 ⟨reserved, order, limit⟩), fun bad => if_neg fun ok => ?_,
      fun aligned => if_pos aligned, rfl, rfl, rfl, _, rfl, s.setGust_bucket router part v⟩
    obtain ⟨reserved, order, limit⟩ := (lullOk_iff v).1 ok
    rcases bad with h | h | h
    · exact h reserved
    · exact absurd order (Nat.not_lt.2 h)
    · exact absurd limit (Nat.not_le.2 h)

end Sys2Proof
end

section
/-! O52: who may ask a server, in the order of its checks, and the owner of what PART names (R374 to R378, R380). -/

namespace Sys2Proof.Machine

/-! ## The owner of what PART names -/

theorem State.partNamed_setOwner (s : State) (h : MsgHdr) (o : Option (BitVec 64)) (fin : BitVec 64) (ms : BitVec 32) :
    (s.setOwner h o fin ms).partNamed h = s.partNamed h := by
  cases package : isPackage h with
  | true => simp [State.partNamed, package]
  | false => simp [State.partNamed, State.setOwner, State.updPart, package, KV.at?_upd_same]

theorem State.ownerOf_setOwner {s : State} {h : MsgHdr} (named : s.partNamed h = true) (o : Option (BitVec 64)) (fin : BitVec 64)
    (ms : BitVec 32) : (s.setOwner h o fin ms).ownerOf h = (o, fin, ms) := by
  cases package : isPackage h with
  | true => simp [State.ownerOf, State.setOwner, package]
  | false =>
    obtain ⟨p, there⟩ := Option.isSome_iff_exists.1 (by simpa [State.partNamed, package] using named)
    simp [State.ownerOf, State.setOwner, State.updPart, package, KV.at?_upd_some there]

@[simp] theorem State.replies_setOwner (s : State) (h : MsgHdr) (o : Option (BitVec 64)) (fin : BitVec 64) (ms : BitVec 32) :
    (s.setOwner h o fin ms).replies = s.replies := by
  unfold State.setOwner
  split <;> rfl

/-- The renewal of a lease is a write of the owner's fields, or nothing (R378). -/
theorem State.renew_owner {s : State} {h : MsgHdr} (owner : s.isOwner h = true) :
    s.renew h = s.setOwner h (s.ownerOf h).1 (s.leaseFrom (s.ownerOf h).2.2) (s.ownerOf h).2.2 := if_pos owner

theorem State.renew_other {s : State} {h : MsgHdr} (other : s.isOwner h = false) : s.renew h = s := if_neg (by simp [other])

@[simp] theorem State.partNamed_renew (s : State) (h : MsgHdr) : (s.renew h).partNamed h = s.partNamed h := by
  cases owner : s.isOwner h with
  | true => rw [State.renew_owner owner, State.partNamed_setOwner]
  | false => rw [State.renew_other owner]

theorem State.ownerOf_renew {s : State} {h : MsgHdr} (named : s.partNamed h = true) : ((s.renew h).ownerOf h).1 = (s.ownerOf h).1 := by
  cases owner : s.isOwner h with
  | true => rw [State.renew_owner owner, State.ownerOf_setOwner named]
  | false => rw [State.renew_other owner]

theorem State.isOwner_renew {s : State} {h : MsgHdr} (named : s.partNamed h = true) : (s.renew h).isOwner h = s.isOwner h := by
  rw [State.isOwner, State.isOwner, State.ownerOf_renew named]

@[simp] theorem State.time_renew (s : State) (h : MsgHdr) : (s.renew h).time = s.time := by
  unfold State.renew State.setOwner
  dsimp only
  split
  · split <;> rfl
  · rfl

@[simp] theorem State.ready_renew (s : State) (h : MsgHdr) : (s.renew h).fleet.ready = s.fleet.ready := by
  unfold State.renew State.setOwner
  dsimp only
  split
  · split <;> rfl
  · rfl

@[simp] theorem State.ownerOf_reply (s : State) (h i : MsgHdr) (status : Nat) (payload : List Byte) :
    (s.reply h status payload).ownerOf i = s.ownerOf i := rfl

/-! ## The checks of a request, in their order -/

section
variable {s : State} {h : MsgHdr} {proc : Nat} {owner : Bool} {package : Option Bool} {k : State → State}

theorem headerOk_request (header : headerOk h proc = true) : h.kind ≠ 1 := by
  simp only [headerOk, Bool.and_eq_true, decide_eq_true_eq] at header
  obtain ⟨⟨⟨⟨⟨⟨⟨-, -⟩, kind⟩, -⟩, -⟩, -⟩, -⟩, -⟩ := header
  rw [kind]
  decide

theorem State.procedure_answer (kind : h.kind = 1) : s.procedure h proc owner package k = .next s := if_pos kind

theorem State.procedure_waits (request : h.kind ≠ 1) {d : Nat} (due : s.callDue h = some d) :
    s.procedure h proc owner package k = .next { s with sched := s.sched ++ [(d, s.turn)] } := by
  rw [State.procedure, if_neg request, State.inTurn, due]

variable (due : s.callDue h = none)
include due

theorem State.inTurn_free (f : State → State) : s.inTurn h f = f s := by
  rw [State.inTurn, due]

theorem State.procedure_malformed (request : h.kind ≠ 1) (header : headerOk h proc = false) :
    s.procedure h proc owner package k = .next ((s.renew h).reply h 3 []) := by
  rw [State.procedure, if_neg request, State.inTurn_free due]
  simp [header]

variable (header : headerOk h proc = true)
include header

theorem State.procedure_unnamed (named : s.partNamed h = false) :
    s.procedure h proc owner package k = .next ((s.renew h).reply h 4 []) := by
  rw [State.procedure, if_neg (headerOk_request header), State.inTurn_free due]
  simp [header, named]

variable (named : s.partNamed h = true)
include named

theorem State.procedure_ofPackage (of : isPackage h = true) :
    s.procedure h proc owner (some false) k = .next ((s.renew h).reply h 4 []) := by
  rw [State.procedure, if_neg (headerOk_request header), State.inTurn_free due]
  simp [header, named, of]

theorem State.procedure_ofPartition (of : isPackage h = false) :
    s.procedure h proc owner (some true) k = .next ((s.renew h).reply h 3 []) := by
  rw [State.procedure, if_neg (headerOk_request header), State.inTurn_free due]
  simp [header, named, of]

/-- PART names what the procedure is of. -/
def Fits (h : MsgHdr) (package : Option Bool) : Prop := ∀ b, package = some b → isPackage h = b

variable (fits : Fits h package)
include fits

/-- Past its header and its PART, a request is checked for its owner and its server. -/
theorem State.procedure_fits : s.procedure h proc owner package k = .next (
    if owner && !s.isOwner h then (s.renew h).reply h 1 [] else if !(s.renew h).serverReady h then (s.renew h).reply h 8 [] else k (s.renew h)) := by
  have notPartition : ¬(package = some false ∧ isPackage h = true) := fun ⟨wants, is⟩ => by simp [fits _ wants] at is
  have notPackage : ¬(package = some true ∧ (!isPackage h) = true) := fun ⟨wants, is⟩ => by simp [fits _ wants] at is
  rw [State.procedure, if_neg (headerOk_request header), State.inTurn_free due]
  simp only [header, State.partNamed_renew, named, State.isOwner_renew named, Bool.not_true, Bool.false_eq_true, if_false]
  rw [if_neg notPartition, if_neg notPackage]

theorem State.procedure_notOwner (other : s.isOwner h = false) :
    s.procedure h proc true package k = .next ((s.renew h).reply h 1 []) := by
  rw [State.procedure_fits due header named fits]
  simp [other]

variable (mine : owner = true → s.isOwner h = true)
include mine

theorem State.procedure_serverOut (out : (s.renew h).serverReady h = false) :
    s.procedure h proc owner package k = .next ((s.renew h).reply h 8 []) := by
  rw [State.procedure_fits due header named fits]
  cases owner <;> simp [mine, out]

theorem State.procedure_serves (ready : (s.renew h).serverReady h = true) : s.procedure h proc owner package k = .next (k (s.renew h)) := by
  rw [State.procedure_fits due header named fits]
  cases owner <;> simp [mine, ready]

end

/-- A request that passes its checks is served, its lease renewed. -/
theorem State.Served.procedure {s v : State} {h : MsgHdr} {proc : Nat} {owner : Bool} {package : Option Bool} (served : s.Served h proc v)
    (fits : Fits h package) (mine : owner = true → s.isOwner h = true) (k : State → State) :
    s.procedure h proc owner package k = .next (k v) := by
  obtain ⟨header, named, rfl, ready, due⟩ := served
  exact State.procedure_serves due header named fits mine ready

/-- The same of a procedure that anybody may ask for. -/
theorem State.Served.anyone {s v : State} {h : MsgHdr} {proc : Nat} {package : Option Bool} (served : s.Served h proc v) (fits : Fits h package)
    (k : State → State) : s.procedure h proc false package k = .next (k v) :=
  served.procedure fits (fun never => by cases never) k

/-- A procedure of the package or of a partition alike fits every PART. -/
theorem fits_any (h : MsgHdr) : Fits h none := nofun

theorem fits_of {h : MsgHdr} {b : Bool} (is : isPackage h = b) : Fits h (some b) := fun _ same => is.trans (Option.some.inj same)

theorem State.Served.replies {s v : State} {h : MsgHdr} {proc : Nat} (served : s.Served h proc v) : v.replies = s.replies := by
  obtain ⟨-, -, rfl, -, -⟩ := served
  exact s.replies_renew h

/-! ## The procedures by their numbers (R376) -/

/-- The procedures of an owner. -/
def ownerProcs : List Nat := [2, 4, 5, 6, 7, 8, 9, 10, 12, 14]

/-- Which server has a procedure: the service core of a partition, the root monitor, or either. -/
def procServer (n : Nat) : Option Bool := if 4 ≤ n ∧ n ≤ 12 then some false else if n = 14 then some true else none

/-- A request that is performed as the procedure of its number. -/
def IsProc (s : State) (h : MsgHdr) (n : Nat) (i : Instr) : Prop :=
  ∃ k, exec i s = s.procedure h n (decide (n ∈ ownerProcs)) (procServer n) k

theorem procServer_fits {h : MsgHdr} {n : Nat} (partition : 4 ≤ n → n ≤ 12 → isPackage h = false) (package : n = 14 → isPackage h = true) :
    Fits h (procServer n) := by
  intro b wants
  unfold procServer at wants
  split at wants
  next within => exact (partition within.1 within.2).trans (Option.some.inj wants)
  next =>
    split at wants
    next update => exact (package update).trans (Option.some.inj wants)
    next => cases wants

theorem IsProc.of {s : State} {h : MsgHdr} {n : Nat} {i : Instr} {owner : Bool} {package : Option Bool} {k : State → State}
    (runs : exec i s = s.procedure h n owner package k) (owners : decide (n ∈ ownerProcs) = owner) (server : procServer n = package) :
    IsProc s h n i := by
  subst owners server
  exact ⟨k, runs⟩

theorem execPageGive_proc (s : State) (h : MsgHdr) (va : BitVec 64) : execPageGive h va s = s.pageProc h 8 va false := rfl

theorem execPageTake_proc (s : State) (h : MsgHdr) (va : BitVec 64) : execPageTake h va s = s.pageProc h 9 va true := rfl

theorem isProc_of_mem (s : State) (h : MsgHdr) (a b n : Nat) (m : BitVec 32) (va x : BitVec 64) (l : List (BitVec 8)) (p : BitVec 28)
    (z : BitVec 2) (y : BitVec 3) (k : BitVec 13) :
    ∀ e ∈ ([(1, .own h m), (2, .yieldProc h va), (3, .status h), (4, .graphLoad h a b va x), (5, .kickProc h a b va), (6, .map h va p z y z k),
      (7, .unmap h va), (8, .pageGive h va), (9, .pageTake h va), (10, .write h va l), (11, .read h va n), (12, .notify h a m),
      (13, .logRead h m n), (14, .update h l), (15, .attest h l)] : List (Nat × Instr)), IsProc s h e.1 e.2 := by
  simp only [List.forall_mem_cons, List.not_mem_nil, false_implies, implies_true, and_true]
  exact ⟨.of (exec_own s h m) rfl rfl, .of (exec_yieldProc s h va) rfl rfl, .of (exec_status s h) rfl rfl,
    .of (exec_graphLoad s h a b va x) rfl rfl, .of (exec_kickProc s h a b va) rfl rfl, .of (exec_map s h va p z y z k) rfl rfl,
    .of (exec_unmap s h va) rfl rfl, .of (exec_pageGive s h va |>.trans (execPageGive_proc s h va)) rfl rfl,
    .of (exec_pageTake s h va |>.trans (execPageTake_proc s h va)) rfl rfl,
    .of (exec_write s h va l) rfl rfl, .of (exec_read s h va n) rfl rfl, .of (exec_notify s h a m) rfl rfl,
    .of (exec_logRead s h m n) rfl rfl, .of (exec_update s h l) rfl rfl, .of (exec_attest s h l) rfl rfl⟩

section
variable {s : State} {h : MsgHdr} {n : Nat} {i : Instr} (is : IsProc s h n i)
include is

theorem IsProc.answer (kind : h.kind = 1) : exec i s = .next s := by
  obtain ⟨k, runs⟩ := is
  rw [runs, State.procedure_answer kind]

theorem IsProc.waits {d : Nat} (request : h.kind ≠ 1) (due : s.callDue h = some d) :
    exec i s = .next { s with sched := s.sched ++ [(d, s.turn)] } := by
  obtain ⟨k, runs⟩ := is
  rw [runs, State.procedure_waits request due]

variable (due : s.callDue h = none)
include due

theorem IsProc.malformed (request : h.kind ≠ 1) (header : headerOk h n = false) : exec i s = .next ((s.renew h).reply h 3 []) := by
  obtain ⟨k, runs⟩ := is
  rw [runs, State.procedure_malformed due request header]

variable (header : headerOk h n = true)
include header

theorem IsProc.unnamed (named : s.partNamed h = false) : exec i s = .next ((s.renew h).reply h 4 []) := by
  obtain ⟨k, runs⟩ := is
  rw [runs, State.procedure_unnamed due header named]

theorem IsProc.ofPackage (of : isPackage h = true) (low : 4 ≤ n) (high : n ≤ 12) : exec i s = .next ((s.renew h).reply h 4 []) := by
  obtain ⟨k, runs⟩ := is
  rw [runs, procServer, if_pos ⟨low, high⟩, State.procedure_ofPackage due header (by simp [State.partNamed, of]) of]

variable (named : s.partNamed h = true)
include named

theorem IsProc.ofPartition (of : isPackage h = false) (update : n = 14) : exec i s = .next ((s.renew h).reply h 3 []) := by
  obtain ⟨k, runs⟩ := is
  subst update
  exact runs.trans (State.procedure_ofPartition due header named of)

variable (fits : Fits h (procServer n))
include fits

theorem IsProc.notOwner (owners : n ∈ ownerProcs) (other : s.isOwner h = false) : exec i s = .next ((s.renew h).reply h 1 []) := by
  obtain ⟨k, runs⟩ := is
  rw [runs, decide_eq_true owners, State.procedure_notOwner due header named fits other]

theorem IsProc.serverOut (mine : n ∈ ownerProcs → s.isOwner h = true) (out : (s.renew h).serverReady h = false) :
    exec i s = .next ((s.renew h).reply h 8 []) := by
  obtain ⟨k, runs⟩ := is
  rw [runs, State.procedure_serverOut due header named fits (fun owner => mine (of_decide_eq_true owner)) out]

end

/-! ## A procedure of any other number -/

theorem execOtherProcedure_answer {s : State} {h : MsgHdr} (kind : h.kind = 1 ∨ h.proc = 0x100) :
    exec (.otherProcedure h) s = .next s := if_pos kind

theorem execOtherProcedure_unknown {s : State} {h : MsgHdr} (request : h.kind ≠ 1) (call : h.proc ≠ 0x100) (due : s.callDue h = none) :
    exec (.otherProcedure h) s = .next ((s.renew h).reply h 3 []) := by
  have unknown : ¬(h.kind = 1 ∨ h.proc = 0x100) := not_or.2 ⟨request, call⟩
  exact (if_neg unknown).trans (congrArg _ (State.inTurn_free due _))

/-! ## OWN (R378) -/

/-- The grant of a PART: its owner with the new lease, and the reply with the lease's end. -/
def State.grant (s : State) (h : MsgHdr) (lease : BitVec 32) : State :=
  (s.setOwner h (some h.master) (s.leaseFrom lease) lease).reply h 0 (leBytes 8 (s.leaseFrom lease).toNat)

theorem State.Served.leaseFrom {s v : State} {h : MsgHdr} {proc : Nat} (served : s.Served h proc v) (lease : BitVec 32) :
    v.leaseFrom lease = s.leaseFrom lease := by
  obtain ⟨-, -, rfl, -, -⟩ := served
  rw [State.leaseFrom, State.time_renew, State.leaseFrom]

section
variable {s v : State} {h : MsgHdr} {lease : BitVec 32} {o : Option (BitVec 64)} {fin : BitVec 64} {ms : BitVec 32} (served : s.Served h 1 v)
  (owner : v.ownerOf h = (o, fin, ms))
include served owner

theorem execOwn_badLease (bad : lease.toNat < 1 ∨ 60000 < lease.toNat) : exec (.own h lease) s = .next (v.reply h 3 []) := by
  rw [exec_own, execOwn, served.anyone (fits_any h), owner]
  exact congrArg _ (if_pos bad)

variable (low : 1 ≤ lease.toNat) (high : lease.toNat ≤ 60000)
include low high

theorem execOwn_granted (free : o = some h.master ∨ (o = none ∨ ∃ x, o = some x ∧ fin ≤ s.time) ∧ v.lowerOwn h = false) :
    exec (.own h lease) s = .next (v.grant h lease) := by
  have good : ¬(lease.toNat < 1 ∨ 60000 < lease.toNat) := by omega
  have time : v.time = s.time := by
    obtain ⟨-, -, rfl, -, -⟩ := served
    exact s.time_renew h
  rw [exec_own, execOwn, served.anyone (fits_any h), owner]
  dsimp only
  rw [if_neg good]
  obtain rfl | ⟨rfl | ⟨x, rfl, ended⟩, lowest⟩ := free
  · exact congrArg _ (if_pos rfl)
  · simp [lowest, State.grant]
  · simp [lowest, time, BitVec.not_lt.2 ended, State.grant]

theorem execOwn_denied (other : o ≠ some h.master) (held : (∃ x, o = some x ∧ s.time < fin) ∨ v.lowerOwn h = true) :
    exec (.own h lease) s = .next (v.reply h 2 []) := by
  have good : ¬(lease.toNat < 1 ∨ 60000 < lease.toNat) := by omega
  have time : v.time = s.time := by
    obtain ⟨-, -, rfl, -, -⟩ := served
    exact s.time_renew h
  rw [exec_own, execOwn, served.anyone (fits_any h), owner]
  dsimp only
  rw [if_neg good]
  cases o with
  | none =>
    obtain ⟨x, absurd_, -⟩ | lower := held
    · cases absurd_
    · exact congrArg _ (if_pos lower)
  | some m =>
    have owned : v.time < fin ∨ v.lowerOwn h = true := held.imp (fun ⟨_, _, before⟩ => time ▸ before) id
    dsimp only
    rw [if_neg (fun same => other (congrArg some same)), if_pos owned]

end

theorem State.Served.grant {s v : State} {h : MsgHdr} {proc : Nat} (served : s.Served h proc v) (lease : BitVec 32) :
    (v.grant h lease).ownerOf h = (some h.master, s.leaseFrom lease, lease) ∧
    (v.grant h lease).replies = s.replies ++ [{ hdr := replyHdr h 0 8, payload := leBytes 8 (s.leaseFrom lease).toNat }] := by
  have named : v.partNamed h = true := by
    obtain ⟨-, named, rfl, -, -⟩ := served
    rwa [State.partNamed_renew]
  refine ⟨?_, ?_⟩
  · rw [State.grant, State.ownerOf_reply, State.ownerOf_setOwner named, served.leaseFrom]
  · rw [State.grant, State.reply, State.replies_setOwner, served.replies, served.leaseFrom, leBytes_length]

/-! ## YIELD and STATUS -/

/-- The owner that YIELD leaves. -/
def State.yielded (s : State) (h : MsgHdr) (new : BitVec 64) : State :=
  if new = 0 then s.setOwner h none 0 0 else s.setOwner h (some new) (s.ownerOf h).2.1 (s.ownerOf h).2.2

theorem execYieldProc_yields {s v : State} {h : MsgHdr} (new : BitVec 64) (served : s.Served h 2 v) (owner : s.isOwner h = true) :
    exec (.yieldProc h new) s = .next ((v.yielded h new).reply h 0 []) := by
  rw [exec_yieldProc, execYieldProc, served.procedure (fits_any h) fun _ => owner]
  rfl

theorem State.replies_yielded (s : State) (h : MsgHdr) (new : BitVec 64) : (s.yielded h new).replies = s.replies := by
  unfold State.yielded
  split <;> rw [State.replies_setOwner]

theorem State.ownerOf_yielded {s : State} {h : MsgHdr} (named : s.partNamed h = true) (new : BitVec 64) : (s.yielded h new).ownerOf h =
    if new = 0 then (none, 0, 0) else (some new, (s.ownerOf h).2.1, (s.ownerOf h).2.2) := by
  unfold State.yielded
  split <;> rw [State.ownerOf_setOwner named]

theorem execStatus_ready {s v : State} {h : MsgHdr} (served : s.Served h 3 v) :
    ∃ p, exec (.status h) s = .next (v.reply h 0 p) ∧ p.take 128 = leBytes 128 s.fleet.ready.toNat := by
  have ready : v.fleet.ready = s.fleet.ready := by
    obtain ⟨-, -, rfl, -, -⟩ := served
    exact s.ready_renew h
  refine ⟨_, (exec_status s h).trans (served.anyone (fits_any h) _), ?_⟩
  rw [List.append_assoc, List.append_assoc, List.take_append_of_le_length (leBytes_length _ _).ge,
    List.take_of_length_le (leBytes_length _ _).le, ready]

end Sys2Proof.Machine

namespace Sys2Proof
open Machine

/-- Settles O52: each request is performed by the checks of R374 to R380 in their order; the owner is what the last grant, renewal or yield left. -/
theorem mastersAndOwners : Obligations.MastersAndOwners := by
  refine ⟨fun s v h a b n m va x l p z y k isV => ?_, fun s v h lease o fin ms served owner => ?_, fun s v h new served owner => ?_,
    fun s v h served => execStatus_ready served⟩
  · subst isV
    refine ⟨fun e member => ?_, execOtherProcedure_answer, execOtherProcedure_unknown⟩
    have is := isProc_of_mem s h a b n m va x l p z y k e member
    refine ⟨is.answer, fun d => is.waits, fun due => ⟨is.malformed due, is.unnamed due, is.ofPackage due, is.ofPartition due,
      fun header named partition package => ?_⟩⟩
    have fits := procServer_fits partition package
    exact ⟨is.notOwner due header named fits, is.serverOut due header named fits⟩
  · exact ⟨execOwn_badLease served owner, fun low high => ⟨fun free => ⟨_, execOwn_granted served owner low high free, served.grant lease⟩,
      execOwn_denied served owner low high⟩⟩
  · have named : v.partNamed h = true := by
      obtain ⟨-, named, rfl, -, -⟩ := served
      rwa [State.partNamed_renew]
    refine ⟨_, execYieldProc_yields new served owner, ?_, ?_⟩
    · rw [State.reply, State.replies_yielded, served.replies]
      rfl
    · rw [State.ownerOf_reply, State.ownerOf_yielded named]

end Sys2Proof
end

section
/-! O54: what a master reads and writes, and what it is told (R376, R380, R387, R393, R404). -/

namespace Sys2Proof.Machine

/-! ## A place reads back what was written there -/

theorem State.rekey_slot {s : State} (oks : s.StoresOk) (sector : Nat) (ks : BitVec 13) : Sparse.rd (s.rekey sector ks).secKey sector = ks := by
  unfold State.rekey
  split
  next same => exact same
  next => exact Sparse.rd_wr_same oks.secKeyWf

/-- A sector that is taken under a key slot keeps what each place under that slot reads as. -/
theorem State.rdByte_rekey {s : State} (oks : s.StoresOk) (sector : Nat) (ks : BitVec 13) (k : Nat) :
    (s.rekey sector ks).rdByte ⟨k, some ks⟩ 0 = s.rdByte ⟨k, some ks⟩ 0 := by
  by_cases inside : k / 32 = sector
  · rw [← State.rd_mem_rekey_same oks ks inside]
    exact if_pos (inside ▸ State.rekey_slot oks sector ks)
  · exact State.rdByte_congr (State.rd_secKey_rekey_other s ks inside) fun j same => State.rd_mem_rekey_other s ks (same ▸ inside)

/-- Where a sector is under a key slot, a byte of it reads under that slot as it is stored. -/
theorem State.rdByte_stored {s : State} {ks : BitVec 13} {k : Nat} (slot : Sparse.rd s.secKey (k / 32) = ks) :
    s.rdByte ⟨k, some ks⟩ 0 = Sparse.rd s.mem k := if_pos slot

theorem State.rdByte_shift (s : State) (l : Loc) (i : Nat) : s.rdByte l i = s.rdByte ⟨l.key + i, l.slot⟩ 0 := rfl

theorem State.wrByte_shift (s : State) (l : Loc) (i : Nat) (b : Byte) : s.wrByte l i b = s.wrByte ⟨l.key + i, l.slot⟩ 0 b := rfl

/-- A write under a key slot takes the sector under that slot first. -/
theorem State.wrByte_keyed (s : State) (k : Nat) (ks : BitVec 13) (b : Byte) : s.wrByte ⟨k, some ks⟩ 0 b =
    { s.rekey (k / 32) ks with mem := Sparse.wr (s.rekey (k / 32) ks).mem k b } := rfl

/-- A place reads as the byte that was written there. -/
theorem State.rdByte_wrByte_same {s : State} (oks : s.StoresOk) (l : Loc) (i : Nat) (b : Byte) : (s.wrByte l i b).rdByte l i = b := by
  rw [State.rdByte_shift, State.wrByte_shift]
  generalize l.key + i = k
  obtain ⟨_, _ | ks⟩ := l
  · exact Sparse.rd_wr_same oks.memWf
  · rw [State.rdByte_stored]
    · exact Sparse.rd_wr_same (State.rekey_storesOk s (k / 32) ks oks).memWf
    · exact State.rekey_slot oks (k / 32) ks

/-- And the places beside it under its key slot read as before. -/
theorem State.rdByte_wrByte_other {s : State} (oks : s.StoresOk) (l : Loc) {i j : Nat} (other : j ≠ i) (b : Byte) :
    (s.wrByte l i b).rdByte l j = s.rdByte l j := by
  rw [State.rdByte_shift, State.wrByte_shift, s.rdByte_shift]
  obtain ⟨key, _ | ks⟩ := l
  · exact Sparse.rd_wr_other (by dsimp only; omega)
  · have apart : key + j ≠ key + i := by omega
    generalize key + j = m at apart ⊢
    generalize key + i = k at apart ⊢
    rw [← State.rdByte_rekey oks (k / 32) ks m]
    by_cases inside : m / 32 = k / 32
    · have slot : Sparse.rd (s.rekey (k / 32) ks).secKey (m / 32) = ks := inside ▸ State.rekey_slot oks (k / 32) ks
      rw [State.wrByte_keyed, State.rdByte_stored slot, State.rdByte_stored (by exact slot)]
      exact Sparse.rd_wr_other apart
    · exact State.rdByte_congr rfl fun j same => Sparse.rd_wr_other (by rintro rfl; exact inside same.symm)

theorem State.rdByte_wrBytes_below (l : Loc) (bs : List Byte) : ∀ {s : State} {i j : Nat}, s.StoresOk → j < i →
    (s.wrBytes l i bs).rdByte l j = s.rdByte l j := by
  induction bs with
  | nil => exact fun _ _ => rfl
  | cons b r ih =>
    intro s i j oks below
    exact (ih (State.wrByte_storesOk s l i b oks) (by omega)).trans (State.rdByte_wrByte_other oks l (by omega) b)

theorem State.rdByte_wrBytes (l : Loc) (bs : List Byte) : ∀ {s : State} {i j : Nat} (inside : j < bs.length), s.StoresOk →
    (s.wrBytes l i bs).rdByte l (i + j) = bs[j] := by
  induction bs with
  | nil => exact fun inside => absurd inside (by simp)
  | cons b r ih =>
    intro s i j inside oks
    have next := State.wrByte_storesOk s l i b oks
    cases j with
    | zero => exact (State.rdByte_wrBytes_below l r next (by omega)).trans (State.rdByte_wrByte_same oks l i b)
    | succ j =>
      have rest := ih (i := i + 1) (j := j) (by simpa using inside) next
      rw [Nat.add_right_comm, Nat.add_assoc] at rest
      exact rest

/-- A number reads back. -/
theorem State.rdNat_wrNat {s : State} (oks : s.StoresOk) (l : Loc) (n x : Nat) : (s.wrNat l n x).rdNat l n = x % 2 ^ (8 * n) := by
  have bytes : (s.wrNat l n x).rdBytes l n = leBytes n x := by
    refine List.ext_getElem (by rw [State.rdBytes_length, leBytes_length]) fun i _ inside => ?_
    simpa [State.rdBytes, State.wrNat] using State.rdByte_wrBytes l (leBytes n x) (i := 0) inside oks
  rw [State.rdNat, bytes, leNat_leBytes]

/-- A word reads back. -/
theorem State.rdWord_wrNat {s : State} (oks : s.StoresOk) (l : Loc) (x : BitVec 32) : (s.wrNat l 4 x.toNat).rdWord l = x := by
  rw [State.rdWord, State.rdNat_wrNat oks, Nat.mod_eq_of_lt x.isLt, BitVec.ofNat_toNat, BitVec.setWidth_eq]

/-! ## WRITE (R376, R404) -/

section
variable {s v : State} {h : MsgHdr} {va : BitVec 64} {bytes : List (BitVec 8)} (asks : s.Asks h 10 v)
include asks

theorem execWrite_bad (bad : bytes = [] ∨ 8192 < bytes.length ∨ v.ownVa va = false) : exec (.write h va bytes) s = .next (v.reply h 3 []) := by
  rw [exec_write, execWrite, asks.procedure]
  exact congrArg _ (if_pos (by simpa [or_assoc] using bad))

variable (some_ : bytes ≠ []) (few : bytes.length ≤ 8192) (own : v.ownVa va = true)
include some_ few own

theorem execWrite_waits (out : v.readOut h.part.toNat va bytes.length = true) : exec (.write h va bytes) s = .next v.again := by
  rw [exec_write, execWrite, asks.procedure]
  simp [some_, Nat.not_lt.2 few, own, out]

variable (within : v.readOut h.part.toNat va bytes.length = false)
include within

theorem execWrite_fault (nowhere : v.places h.part.toNat Want.wr va bytes.length = none) :
    exec (.write h va bytes) s = .next ((v.touchRead h.part.toNat (rangeSectors va bytes.length)).reply h 7 []) := by
  rw [exec_write, execWrite, asks.procedure]
  simp [some_, Nat.not_lt.2 few, own, within, nowhere]

variable {ls : List Loc} (places : v.places h.part.toNat Want.wr va bytes.length = some ls)
include places

theorem execWrite_placeOut (out : ∃ l ∈ ls, v.placeReady l.key = false) : exec (.write h va bytes) s = .next (v.reply h 8 []) := by
  have some_out : ¬ (ls.all fun l => v.placeReady l.key) = true := by simpa using out
  rw [exec_write, execWrite, asks.procedure]
  simp [some_, Nat.not_lt.2 few, own, within, places, -List.all_eq_true, some_out]

theorem execWrite_writes (ready : ∀ l ∈ ls, v.placeReady l.key = true) :
    exec (.write h va bytes) s = .next (((ls.zip bytes).foldl (fun s e => s.wrByte e.1 0 e.2) v).reply h 0 []) := by
  have all : (ls.all fun l => v.placeReady l.key) = true := List.all_eq_true.2 ready
  rw [exec_write, execWrite, asks.procedure]
  simp [some_, Nat.not_lt.2 few, own, within, places, -List.all_eq_true, all]

end

/-! ## READ (R376, R404) -/

section
variable {s v : State} {h : MsgHdr} {va : BitVec 64} {n : Nat} (served : s.Served h 11 v) (part : isPackage h = false)
include served part

theorem execRead_bad (bad : n = 0 ∨ 8192 < n ∨ v.ownVa va = false) : exec (.read h va n) s = .next (v.reply h 3 []) := by
  rw [exec_read, execRead, served.anyone (fits_of part)]
  exact congrArg _ (if_pos (by simpa using bad))

variable (some_ : n ≠ 0) (few : n ≤ 8192) (own : v.ownVa va = true)
include some_ few own

theorem execRead_waits (out : v.readOut h.part.toNat va n = true) : exec (.read h va n) s = .next v.again := by
  rw [exec_read, execRead, served.anyone (fits_of part)]
  simp [some_, Nat.not_lt.2 few, own, out]

variable (within : v.readOut h.part.toNat va n = false)
include within

theorem execRead_fault (nowhere : v.places h.part.toNat Want.rd va n = none) :
    exec (.read h va n) s = .next ((v.touchRead h.part.toNat (rangeSectors va n)).reply h 7 []) := by
  rw [exec_read, execRead, served.anyone (fits_of part)]
  simp [some_, Nat.not_lt.2 few, own, within, nowhere]

variable {ls : List Loc} (places : v.places h.part.toNat Want.rd va n = some ls)
include places

theorem execRead_placeOut (out : ∃ l ∈ ls, v.placeReady l.key = false) : exec (.read h va n) s = .next (v.reply h 8 []) := by
  have some_out : ¬ (ls.all fun l => v.placeReady l.key) = true := by simpa using out
  rw [exec_read, execRead, served.anyone (fits_of part)]
  simp [some_, Nat.not_lt.2 few, own, within, places, -List.all_eq_true, some_out]

theorem execRead_reads (ready : ∀ l ∈ ls, v.placeReady l.key = true) : exec (.read h va n) s = .next
    (if v.rangeAborts h.part.toNat (va, n) = true then (v.touchRead h.part.toNat (rangeSectors va n)).reply h 7 []
      else (v.touchRead h.part.toNat (rangeSectors va n)).reply h 0 (ls.map fun l => v.rdByte l 0)) := by
  have all : (ls.all fun l => v.placeReady l.key) = true := List.all_eq_true.2 ready
  rw [exec_read, execRead, served.anyone (fits_of part)]
  simp [some_, Nat.not_lt.2 few, own, within, places, -List.all_eq_true, all]

end

/-! ## NOTIFY (R376, R387, R404) -/

section
variable {s v : State} {h : MsgHdr} {k : Nat} {x : BitVec 32} (asks : s.Asks h 12 v)
include asks

theorem execNotify_bad (bad : 255 < k) : exec (.notify h k x) s = .next (v.reply h 3 []) := by
  rw [exec_notify, execNotify, asks.procedure]
  exact congrArg _ (if_pos bad)

variable (good : k ≤ 255)
include good

theorem execNotify_waits (out : v.notifyOut h.part.toNat k = true) : exec (.notify h k x) s = .next v.again := by
  rw [exec_notify, execNotify, asks.procedure]
  simp [Nat.not_lt.2 good, out]

variable (within : v.notifyOut h.part.toNat k = false)
include within

theorem execNotify_fault (nowhere : v.notifyLoc h.part.toNat k = none) : exec (.notify h k x) s = .next (v.reply h 7 []) := by
  rw [exec_notify, execNotify, asks.procedure]
  simp [Nat.not_lt.2 good, within, nowhere]

variable {l : Loc} (place : v.notifyLoc h.part.toNat k = some l)
include place

theorem execNotify_placeOut (out : v.placeReady l.key = false) : exec (.notify h k x) s = .next (v.reply h 8 []) := by
  rw [exec_notify, execNotify, asks.procedure]
  simp [Nat.not_lt.2 good, within, place, out]

theorem execNotify_fills (ready : v.placeReady l.key = true) :
    exec (.notify h k x) s = .next ((v.stf l true x).reply h 0 (leBytes 4 ((v.stf l true x).rdWord l).toNat)) := by
  rw [exec_notify, execNotify, asks.procedure]
  simp [Nat.not_lt.2 good, within, place, ready]

end

/-- A fill that does not raise a notify word changes nothing where nobody waits (R387). -/
theorem State.stf_notify_stays {s : State} {l : Loc} {x : BitVec 32} (nobody : ∀ w ∈ s.waits, w.key ≠ l.key / 4) (above : x ≤ s.rdWord l) :
    s.stf l true x = s := by
  rw [State.stf, State.fill, if_pos (by simpa using above), State.serve_nobody nobody]

/-- One that raises it writes the word FULL. -/
theorem State.stf_notify_raises {s : State} {l : Loc} {x : BitVec 32} (nobody : ∀ w ∈ s.waits, w.key ≠ l.key / 4) (below : s.rdWord l < x) :
    s.stf l true x = (s.wrNat l 4 x.toNat).setTag (l.key / 4) 1 := by
  rw [State.stf, State.fill, if_neg (by simpa using below), State.serve_nobody]
  intro w member
  exact nobody w (by rwa [State.setTag, State.wrNat_waits] at member)

/-! ## LOG.READ (R376, R393, R404) -/

section
variable {s v : State} {h : MsgHdr} {first : BitVec 32} {n : Nat} (served : s.Served h 13 v)
include served

theorem execLogRead_bad (bad : n = 0 ∨ 128 < n) : exec (.logRead h first n) s = .next (v.reply h 3 []) := by
  rw [exec_logRead, execLogRead, served.anyone (fits_any h)]
  exact congrArg _ (if_pos bad)

variable (some_ : n ≠ 0) (few : n ≤ 128)
include some_ few

theorem execLogRead_ringOut (out : v.logReady h = false) : exec (.logRead h first n) s = .next (v.reply h 8 []) := by
  rw [exec_logRead, execLogRead, served.anyone (fits_any h)]
  simp [some_, Nat.not_lt.2 few, out]

variable (ready : v.logReady h = true) {seqs : List (BitVec 32)} (numbers : seqs = (List.range n).map fun i => first + BitVec.ofNat 32 i)
  {vas : List (BitVec 64)} (places : vas = v.recordVas h seqs)
include ready numbers places

theorem execLogRead_waits (out : ∃ a ∈ vas, v.readOut h.part.toNat a 64 = true) : exec (.logRead h first n) s = .next v.again := by
  have some_out : (vas.any fun a => v.readOut h.part.toNat a 64) = true := List.any_eq_true.2 out
  subst places numbers
  rw [exec_logRead, execLogRead, served.anyone (fits_any h)]
  simp [some_, Nat.not_lt.2 few, ready, -List.any_eq_true, some_out]

variable (within : ∀ a ∈ vas, v.readOut h.part.toNat a 64 = false) {u : State}
  (touched : u = vas.foldl (fun s a => s.touchRead h.part.toNat (rangeSectors a 64)) v)
include within touched

theorem execLogRead_reads : exec (.logRead h first n) s = .next
    (if (vas.any fun a => v.rangeAborts h.part.toNat (a, 64)) = true then u.reply h 7 [] else u.reply h 0 (seqs.flatMap (v.logRecord h))) := by
  have none_out : (vas.any fun a => v.readOut h.part.toNat a 64) = false := List.any_eq_false.2 fun a member => by simp [within a member]
  subst touched places numbers
  rw [exec_logRead, execLogRead, served.anyone (fits_any h)]
  simp [some_, Nat.not_lt.2 few, ready, -List.any_eq_true, none_out]

end

end Sys2Proof.Machine

namespace Sys2Proof
open Machine

/-- Settles O54: past their checks the four requests write, read, fill and read the log where the partition's translation leads. -/
theorem masterAccess : Obligations.MasterAccess := by
  refine ⟨fun s v h va bytes asks => ⟨execWrite_bad asks, fun some_ few own => ⟨execWrite_waits asks some_ few own,
      execWrite_fault asks some_ few own, fun ls within places => ⟨execWrite_placeOut asks some_ few own within places,
      execWrite_writes asks some_ few own within places⟩⟩⟩,
    fun s v h va n served part => ⟨execRead_bad served part, fun some_ few own u isU => ?_⟩,
    fun s v h k x asks => ⟨execNotify_bad asks, execNotify_waits asks, execNotify_fault asks, fun l good within place => ?_⟩,
    fun s v h first n served => ⟨execLogRead_bad served, execLogRead_ringOut served, fun some_ few ready seqs vas u numbers places touched => ?_⟩⟩
  · subst isU
    exact ⟨execRead_waits served part some_ few own, execRead_fault served part some_ few own,
      fun ls within places => ⟨execRead_placeOut served part some_ few own within places, execRead_reads served part some_ few own within places⟩⟩
  · refine ⟨execNotify_placeOut asks good within place, fun ready nobody => ⟨fun above => ?_, fun below oks => ⟨_, rfl, ?_⟩⟩⟩
    · rw [execNotify_fills asks good within place ready, State.stf_notify_stays nobody above]
    · rw [execNotify_fills asks good within place ready, State.stf_notify_raises nobody below]
      have reads : ((v.wrNat l 4 x.toNat).setTag (l.key / 4) 1).rdWord l = x := State.rdWord_wrNat (asks.storesOk oks) l x
      rw [reads]
  · refine ⟨execLogRead_waits served some_ few ready numbers places, fun within => ⟨fun aborts => ?_, fun whole => ?_⟩⟩
    · rw [execLogRead_reads served some_ few ready numbers places within touched, if_pos (List.any_eq_true.2 aborts)]
    · rw [execLogRead_reads served some_ few ready numbers places within touched,
        if_neg (by simpa using whole)]

end Sys2Proof
end

section
/-! O55: graph images and kicks, signed images, and reports (R349 to R352, R376, R397 to R401, R404, R410). -/

namespace Sys2Proof.Machine

/-! ## GRAPH.LOAD (R349, R350, R376) -/

section
variable {s v : State} {h : MsgHdr} {die graph : Nat} {va n : BitVec 64} (asks : s.Asks h 4 v)
include asks

theorem execGraphLoad_bad (bad : 3 < die ∨ 4095 < graph) : exec (.graphLoad h die graph va n) s = .next (v.reply h 3 []) := by
  rw [exec_graphLoad, execGraphLoad, asks.procedure]
  exact congrArg _ (if_pos bad)

variable (dieOk : die ≤ 3) (graphOk : graph ≤ 4095)
include dieOk graphOk

theorem execGraphLoad_dieOut (out : v.dieReady die = false ∨ v.schedReady die = false) :
    exec (.graphLoad h die graph va n) s = .next (v.reply h 8 []) := by
  rw [exec_graphLoad, execGraphLoad, asks.procedure]
  simp [Nat.not_lt.2 dieOk, Nat.not_lt.2 graphOk, out]

variable (dieIn : v.dieReady die = true) (schedIn : v.schedReady die = true)
include dieIn schedIn

theorem execGraphLoad_fault (fault : v.loadImage h.part.toNat va n.toNat = .fault) :
    exec (.graphLoad h die graph va n) s = .next ((v.touchRead h.part.toNat (rangeSectors va n.toNat)).reply h 7 []) := by
  rw [exec_graphLoad, execGraphLoad, asks.procedure]
  simp [Nat.not_lt.2 dieOk, Nat.not_lt.2 graphOk, dieIn, schedIn, fault]

variable {reads : List (BitVec 64 × Nat)} (ranges : reads = v.imageReads h.part.toNat va n)
  (loads : v.loadImage h.part.toNat va n.toNat ≠ .fault)
include ranges loads

/-- Past its checks, an image that translates is read, and bound as what it comes to. -/
theorem execGraphLoad_loads : exec (.graphLoad h die graph va n) s = .next (
    if (!reads.all (v.rangeReady h.part.toNat)) = true then v.reply h 8 []
    else if (reads.any fun r => v.readOut h.part.toNat r.1 r.2) = true then v.again
    else (reads.foldl (fun s r => s.touchRead h.part.toNat (rangeSectors r.1 r.2)) v).bindGraph h (v.localDie die) graph
      (if reads.any (v.rangeAborts h.part.toNat) = true then .fault else v.loadImage h.part.toNat va n.toNat)) := by
  subst ranges
  rw [exec_graphLoad, execGraphLoad, asks.procedure]
  dsimp only
  rw [if_neg (by omega), if_neg (by simp [dieIn, schedIn])]
  split
  next fault => exact absurd fault loads
  next => rfl

theorem execGraphLoad_rangeOut (out : ∃ r ∈ reads, v.rangeReady h.part.toNat r = false) :
    exec (.graphLoad h die graph va n) s = .next (v.reply h 8 []) := by
  rw [execGraphLoad_loads asks dieOk graphOk dieIn schedIn ranges loads, if_pos (by simpa using out)]

variable (ready : ∀ r ∈ reads, v.rangeReady h.part.toNat r = true)
include ready

theorem execGraphLoad_waits (out : ∃ r ∈ reads, v.readOut h.part.toNat r.1 r.2 = true) :
    exec (.graphLoad h die graph va n) s = .next v.again := by
  rw [execGraphLoad_loads asks dieOk graphOk dieIn schedIn ranges loads, if_neg (by simpa using ready), if_pos (List.any_eq_true.2 out)]

variable (within : ∀ r ∈ reads, v.readOut h.part.toNat r.1 r.2 = false) {u : State}
  (touched : u = reads.foldl (fun s r => s.touchRead h.part.toNat (rangeSectors r.1 r.2)) v)
include within touched

theorem execGraphLoad_aborts (aborts : ∃ r ∈ reads, v.rangeAborts h.part.toNat r = true) :
    exec (.graphLoad h die graph va n) s = .next (u.reply h 7 []) := by
  rw [execGraphLoad_loads asks dieOk graphOk dieIn schedIn ranges loads, if_neg (by simpa using ready), if_neg (by simpa using within),
    if_pos (List.any_eq_true.2 aborts), ← touched]
  rfl

variable (whole : ∀ r ∈ reads, v.rangeAborts h.part.toNat r = false)
include whole

theorem execGraphLoad_binds : exec (.graphLoad h die graph va n) s =
    .next (u.bindGraph h (v.localDie die) graph (v.loadImage h.part.toNat va n.toNat)) := by
  rw [execGraphLoad_loads asks dieOk graphOk dieIn schedIn ranges loads, if_neg (by simpa using ready), if_neg (by simpa using within),
    if_neg (by simpa using whole), ← touched]

end

theorem State.bindGraph_runs {u : State} {d graph : Nat} {x : Graph} (there : u.graph? d graph = some x) (running : x.running = true)
    (h : MsgHdr) (g : Graph) : u.bindGraph h d graph (.ok g) = u.reply h 5 [] := by
  simp [State.bindGraph, there, running]

/-- A number whose graph does not run is bound to the image. -/
theorem State.bindGraph_binds {u : State} {d graph : Nat} (idle : ∀ x, u.graph? d graph = some x → x.running = false) (h : MsgHdr) (g : Graph) :
    (u.bindGraph h d graph (.ok g)).graph? d graph = some g ∧
    (u.bindGraph h d graph (.ok g)).replies = u.replies ++ [{ hdr := replyHdr h 0 0, payload := [] }] := by
  have bound : u.bindGraph h d graph (.ok g) = (u.updDie d fun x => { x with graphs := KV.put x.graphs graph g }).reply h 0 [] := by
    cases there : u.graph? d graph with
    | none => simp [State.bindGraph, there]
    | some x => simp [State.bindGraph, there, idle x there]
  rw [bound]
  refine ⟨?_, rfl⟩
  have die : (u.updDie d fun x => { x with graphs := KV.put x.graphs graph g }).graph? d graph = some g := by
    rw [State.graph?, State.die_updDie_same, KV.at?_put_same]
  exact die

/-! ## KICK (R351, R352, R376) -/

section
variable {s v : State} {h : MsgHdr} {die graph : Nat} {va : BitVec 64} (asks : s.Asks h 5 v)
include asks

theorem execKickProc_bad (bad : 3 < die ∨ 4095 < graph) : exec (.kickProc h die graph va) s = .next (v.reply h 3 []) := by
  rw [exec_kickProc, execKickProc, asks.procedure]
  exact congrArg _ (if_pos bad)

variable (dieOk : die ≤ 3) (graphOk : graph ≤ 4095)
include dieOk graphOk

theorem execKickProc_dieOut (out : v.dieReady die = false) : exec (.kickProc h die graph va) s = .next (v.reply h 8 []) := by
  rw [exec_kickProc, execKickProc, asks.procedure]
  simp [Nat.not_lt.2 dieOk, Nat.not_lt.2 graphOk, out]

variable (dieIn : v.dieReady die = true)
include dieIn

theorem execKickProc_pending (pending : KV.at? (v.die (v.localDie die)).pending graph ≠ none) :
    exec (.kickProc h die graph va) s = .next (v.reply h 6 []) := by
  rw [exec_kickProc, execKickProc, asks.procedure]
  simp [Nat.not_lt.2 dieOk, Nat.not_lt.2 graphOk, dieIn, State.kickWrite, Option.isSome_iff_ne_none, pending]

/-- A die with a graph's pending bit set, and its replay to be started. -/
def State.kicked (s : State) (die graph : Nat) (va : BitVec 64) : State :=
  (s.updDie die fun d => { d with pending := KV.put d.pending graph va }).raise (.replayStart die)

theorem execKickProc_kicks (idle : KV.at? (v.die (v.localDie die)).pending graph = none) :
    exec (.kickProc h die graph va) s = .next ((v.kicked (v.localDie die) graph va).reply h 0 []) := by
  rw [exec_kickProc, execKickProc, asks.procedure]
  simp [Nat.not_lt.2 dieOk, Nat.not_lt.2 graphOk, dieIn, State.kickWrite, idle, State.kicked]

end

theorem State.kicked_pending (s : State) (die graph : Nat) (va : BitVec 64) :
    KV.at? ((s.kicked die graph va).die die).pending graph = some va := by
  have die : (s.kicked die graph va).die die = (s.updDie die fun d => { d with pending := KV.put d.pending graph va }).die die := rfl
  rw [die, State.die_updDie_same, KV.at?_put_same]

theorem State.kicked_replays (s : State) (die graph : Nat) (va : BitVec 64) :
    Turn.event (.replayStart die) ∈ (s.kicked die graph va).turns := List.mem_append_right _ (List.mem_singleton.2 rfl)

/-! ## UPDATE (R398, R400, R401) -/

/-- What UPDATE makes of its message (R400). -/
theorem execUpdate_asked {s v : State} {h : MsgHdr} (served : s.Served h 14 v) (package : isPackage h = true) (owner : s.isOwner h = true)
    {part : List (BitVec 8)} {i : SignedImage} (image : i = { bytes := (KV.at? v.fleet.uploads (h.master, h.tag)).getD [] ++ part }) :
    exec (.update h part) s = .next (
      if (part.isEmpty || decide (part.length ≠ h.len.toNat) || decide (i.bytes.length < 256)) = true then v.reply h 3 []
      else if i.bytes.length < 256 + i.len then (v.upload h (some i.bytes)).reply h 0 [] else (v.upload h none).wholeImage h i) := by
  subst image
  rw [exec_update, execUpdate, served.procedure (fits_of package) fun _ => owner]
  rfl

section
variable {s v : State} {h : MsgHdr} {part : List (BitVec 8)} {i : SignedImage} (served : s.Served h 14 v) (package : isPackage h = true)
  (owner : s.isOwner h = true) (image : i = { bytes := (KV.at? v.fleet.uploads (h.master, h.tag)).getD [] ++ part })
include served package owner image

theorem execUpdate_bad (bad : part = [] ∨ part.length ≠ h.len.toNat ∨ i.bytes.length < 256) :
    exec (.update h part) s = .next (v.reply h 3 []) := by
  rw [execUpdate_asked served package owner image, if_pos (by simpa [or_assoc] using bad)]

variable (some_ : part ≠ []) (all : part.length = h.len.toNat) (header : 256 ≤ i.bytes.length)
include some_ all header

theorem execUpdate_more (more : i.bytes.length < 256 + i.len) :
    exec (.update h part) s = .next ((v.upload h (some i.bytes)).reply h 0 []) := by
  rw [execUpdate_asked served package owner image, if_neg (by simp [some_, all, header]), if_pos more]

theorem execUpdate_whole (whole : 256 + i.len ≤ i.bytes.length) :
    exec (.update h part) s = .next ((v.upload h none).wholeImage h i) := by
  rw [execUpdate_asked served package owner image, if_neg (by simp [some_, all, header]), if_neg (Nat.not_lt.2 whole)]

end

section
variable {w : State} {h : MsgHdr} {i : SignedImage}

theorem State.wholeImage_bad (bad : i.fieldsOk = false) : w.wholeImage h i = w.reply h 3 [] := by
  simp [State.wholeImage, bad]

variable (fields : i.fieldsOk = true)
include fields

theorem State.wholeImage_record (target : i.target = 7) : w.wholeImage h i = w.takeConfig h i := by
  simp [State.wholeImage, fields, target]

variable (target : i.target ≤ 6) {x : Images} (there : KV.at? w.fleet.images i.target = some x)
include target there

theorem State.wholeImage_queued (busy : x.switching ≠ []) :
    w.wholeImage h i = w.updImages i.target fun x => { x with queued := x.queued ++ [(h, i)] } := by
  have other : i.target ≠ 7 := by omega
  simp [State.wholeImage, fields, other, State.switching, there, busy]

theorem State.wholeImage_taken (idle : x.switching = []) : w.wholeImage h i = w.takeImage h i := by
  have other : i.target ≠ 7 := by omega
  simp [State.wholeImage, fields, other, State.switching, there, idle]

end

theorem State.takeImage_refused {w : State} {h : MsgHdr} {i : SignedImage} {c : Nat} (refused : imageRefused w.fleet.config i = some c) :
    w.takeImage h i = w.refuseUpdate h i c := by
  rw [State.takeImage, refused]

theorem State.takeImage_staged {w : State} {h : MsgHdr} {i : SignedImage} (passed : imageRefused w.fleet.config i = none) :
    w.takeImage h i = w.stage h i := by
  rw [State.takeImage, passed]

theorem State.takeConfig_refused {w : State} {h : MsgHdr} {i : SignedImage} {c : Nat} (refused : recordRefusal w.fleet.config i = some c) :
    w.takeConfig h i = w.refuseUpdate h i c := by
  rw [State.takeConfig, refused]

theorem State.takeConfig_taken {w : State} {h : MsgHdr} {i : SignedImage} (passed : recordRefusal w.fleet.config i = none) :
    w.takeConfig h i = ({ w with fleet := w.fleet.takeRecord i.record } : State).reply h 0 [] := by
  rw [State.takeConfig, passed]

/-- The record that was taken is the active one (R398). -/
theorem Fleet.config_takeRecord (f : Fleet) (r : ConfigRec) : (f.takeRecord r).config = r := by
  unfold Fleet.takeRecord
  dsimp only
  split <;> split <;> rfl

/-- A record that is not refused follows the active one. -/
theorem recFollows_of_passed {c : ConfigRec} {i : SignedImage} (passed : recordRefusal c i = none) : recFollows i.record c = true := by
  unfold recordRefusal at passed
  iterate 3
    split at passed
    · cases passed
  split at passed
  next => cases passed
  next follows =>
    simp only [Bool.or_eq_true, Bool.not_eq_true', not_or, Bool.not_eq_false] at follows
    exact follows.1

/-- Each unit's switch is planned, and nothing else happens. -/
theorem State.planSwitches (target : Nat) (units : List Nat) : ∀ s : State,
    let u := units.foldl (fun s n => s.plan (s.clock + 1) (.imageSwitch target n)) s
    u.replies = s.replies ∧ u.fleet = s.fleet ∧ (∀ e ∈ s.sched, e ∈ u.sched) ∧
      ∀ n ∈ units, (s.clock + 1, Turn.event (.imageSwitch target n)) ∈ u.sched := by
  induction units with
  | nil => exact fun s => ⟨rfl, rfl, fun _ member => member, nofun⟩
  | cons n r ih =>
    intro s
    obtain ⟨replies, fleet, keeps, plans⟩ := ih (s.plan (s.clock + 1) (.imageSwitch target n))
    refine ⟨replies, fleet, fun e member => keeps e (List.mem_append_left _ member), fun m member => ?_⟩
    obtain rfl | later := List.mem_cons.1 member
    · exact keeps _ (List.mem_append_right _ (List.mem_singleton.2 rfl))
    · exact plans m later

/-- A staged image stands by in its target's units, each of which will switch (R401). -/
theorem State.stage_stands {w : State} {h : MsgHdr} {i : SignedImage} {x : Images} (there : KV.at? w.fleet.images i.target = some x) :
    (w.stage h i).replies = w.replies ∧
    KV.at? (w.stage h i).fleet.images i.target =
      some { x with standby := i, switching := List.range (unitsOf i.target), replyTo := some h } ∧
    ∀ n < unitsOf i.target, (w.clock + 1, Turn.event (.imageSwitch i.target n)) ∈ (w.stage h i).sched := by
  obtain ⟨replies, fleet, -, plans⟩ := State.planSwitches i.target (List.range (unitsOf i.target))
    (w.updImages i.target fun x => { x with standby := i, switching := List.range (unitsOf i.target), replyTo := some h })
  refine ⟨replies, ?_, fun n inside => plans n (List.mem_range.2 inside)⟩
  have images := congrArg (fun f => KV.at? f.images i.target) fleet
  exact images.trans (KV.at?_upd_some there _)

/-! ## ATTEST (R410) -/

section
variable {s v : State} {h : MsgHdr} {nonce : List (BitVec 8)} (served : s.Served h 15 v)
include served

theorem execAttest_bad (bad : nonce.length ≠ 48) : exec (.attest h nonce) s = .next (v.reply h 3 []) := by
  rw [exec_attest, execAttest, served.anyone (fits_any h)]
  exact congrArg _ (if_pos bad)

theorem execAttest_report (good : nonce.length = 48) : exec (.attest h nonce) s = .next (({ v with free := v.free + 1 } : State).reply h 0
    (v.report410 h nonce ++ ecdsaSign Config.identitySecret (Config.identityNonce v.free) (sha384 (v.report410 h nonce))
      ++ leBytes 8 Config.identityCert.length ++ Config.identityCert)) := by
  rw [exec_attest, execAttest, served.anyone (fits_any h)]
  exact congrArg _ (if_neg (not_not_intro good))

end

/-- A report begins with the nonce. -/
theorem State.report410_nonce (s : State) (h : MsgHdr) {nonce : List (BitVec 8)} (good : nonce.length = 48) (rest : List (BitVec 8)) :
    (s.report410 h nonce ++ rest).take 48 = nonce := by
  simp only [State.report410, List.append_assoc]
  rw [List.take_append_of_le_length good.ge, List.take_of_length_le good.le]

theorem State.Served.clock {s v : State} {h : MsgHdr} {proc : Nat} (served : s.Served h proc v) : v.clock = s.clock := by
  obtain ⟨-, -, rfl, -, -⟩ := served
  unfold State.renew State.setOwner
  dsimp only
  split
  · split <;> rfl
  · rfl

end Sys2Proof.Machine

namespace Sys2Proof
open Machine

/-- Settles O55: what each request comes to past its checks, image by image, kick by kick and part by part. -/
theorem graphsImagesAndReports : Obligations.GraphsImagesAndReports := by
  refine ⟨fun s v h die graph va n asks => ⟨execGraphLoad_bad asks, execGraphLoad_dieOut asks,
      fun dieOk graphOk dieIn schedIn reads u ranges touched =>
      ⟨execGraphLoad_fault asks dieOk graphOk dieIn schedIn, fun loads => ⟨execGraphLoad_rangeOut asks dieOk graphOk dieIn schedIn ranges loads,
      fun ready => ⟨execGraphLoad_waits asks dieOk graphOk dieIn schedIn ranges loads ready, fun within =>
      ⟨execGraphLoad_aborts asks dieOk graphOk dieIn schedIn ranges loads ready within touched, fun whole => ?_⟩⟩⟩⟩⟩,
    fun s v h die graph va asks => ⟨execKickProc_bad asks, execKickProc_dieOut asks, fun dieOk graphOk dieIn =>
      ⟨execKickProc_pending asks dieOk graphOk dieIn, fun idle => ⟨_, execKickProc_kicks asks dieOk graphOk dieIn idle, ?_⟩⟩⟩,
    fun s v w h part i served package owner image isW => ⟨execUpdate_bad served package owner image,
      execUpdate_more served package owner image, fun some_ all header whole => ?_⟩,
    fun s v h nonce served => ⟨execAttest_bad served, fun good => ⟨_, execAttest_report served good, ?_, rfl⟩⟩⟩
  · have binds := execGraphLoad_binds asks dieOk graphOk dieIn schedIn ranges loads ready within touched whole
    refine ⟨fun refused => ?_, fun g x ok there running => ?_, fun g ok idle => ⟨_, binds, ?_⟩⟩
    · rw [binds, refused]
      rfl
    · rw [binds, ok, State.bindGraph_runs there running]
    · rw [ok]
      exact State.bindGraph_binds idle h g
  · exact ⟨State.kicked_pending v _ graph va, State.kicked_replays v _ graph va, by rw [← asks.replies]; rfl⟩
  · rw [execUpdate_whole served package owner image some_ all header whole, ← isW]
    have replies : w.replies = s.replies := by
      rw [isW, ← served.replies]
      rfl
    have clock : w.clock = s.clock := by
      rw [isW, ← served.clock]
      rfl
    refine ⟨fun bad => by rw [State.wholeImage_bad bad], fun x fields target there busy => by rw [State.wholeImage_queued fields target there busy],
      fun x fields target there idle => ?_, fun fields target => ?_⟩
    · rw [State.wholeImage_taken fields target there idle]
      refine ⟨fun c refused => by rw [State.takeImage_refused refused], fun passed => ⟨_, rfl, ?_⟩⟩
      rw [State.takeImage_staged passed, ← replies, ← clock]
      exact State.stage_stands there
    · rw [State.wholeImage_record fields target]
      refine ⟨fun c refused => by rw [State.takeConfig_refused refused], fun passed => ⟨recFollows_of_passed passed, _, rfl, ?_⟩⟩
      rw [State.takeConfig_taken passed, ← replies]
      exact ⟨Fleet.config_takeRecord _ _, rfl⟩
  · simp only [List.append_assoc]
    exact State.report410_nonce v h good _

end Sys2Proof
end

section
/-! O47: kicks and replays of graphs, the starts of their nodes, and the end of a launch (R352 to R357, R404, R409). -/

namespace Sys2Proof.Machine

/-! ## What an act leaves of the dies -/

theorem State.ServesOnly.dies {s u : State} (only : s.ServesOnly u) : u.dies = s.dies := by
  rw [only]

theorem State.emptyVa_dies (s : State) (part : Nat) (va : BitVec 64) : (s.emptyVa part va).dies = s.dies := by
  unfold State.emptyVa
  split
  · split
    · exact ((State.setTag_servesOnly _ _ _).trans (State.serve_servesOnly _ _)).dies
    · rfl
  · rfl

theorem State.graph?_congr {s u : State} (dies : u.dies = s.dies) (die graph : Nat) : u.graph? die graph = s.graph? die graph := by
  rw [State.graph?, State.die, dies, State.graph?, State.die]

/-- A graph that is there is changed (R349). -/
theorem State.graph?_updGraph {s : State} {die graph : Nat} {g : Graph} (there : s.graph? die graph = some g) (f : Graph → Graph) :
    (s.updGraph die graph f).graph? die graph = some (f g) := by
  rw [State.graph?, State.updGraph, State.die_updDie_same]
  exact KV.at?_upd_some there f

theorem State.pending_updGraph (s : State) (die graph : Nat) (f : Graph → Graph) :
    ((s.updGraph die graph f).die die).pending = (s.die die).pending := by
  rw [State.updGraph, State.die_updDie_same]

/-- A journal record leaves what a die knows of its graphs and kicks alone (R355). -/
theorem State.journal_die (s : State) (die type index graph : Nat) (value : BitVec 64) :
    ((s.journal die type index graph value).die die).graphs = (s.die die).graphs ∧
    ((s.journal die type index graph value).die die).pending = (s.die die).pending := by
  have bytes (l : Loc) (bs : List Byte) : (s.wrBytes l 0 bs).dies = s.dies := (State.wrBytes_writesOnly l bs s 0).servesOnly.dies
  unfold State.journal
  dsimp only
  split
  · exact ⟨rfl, rfl⟩
  · rw [State.die_updDie_same, State.writeJournal, State.die_updDie_same, State.die, bytes]
    exact ⟨rfl, rfl⟩

/-! ## Replays (R352, R353) -/

/-- Raised starts of nodes: the turns come last, and nothing else happens. -/
theorem State.raiseNodes (die graph : Nat) (ns : List Nat) : ∀ s : State,
    let u := ns.foldl (fun s n => s.raise (.nodeStart die graph n)) s
    u.dies = s.dies ∧ (∀ t ∈ s.turns, t ∈ u.turns) ∧ ∀ n ∈ ns, Turn.event (.nodeStart die graph n) ∈ u.turns := by
  induction ns with
  | nil => exact fun s => ⟨rfl, fun _ member => member, nofun⟩
  | cons n r ih =>
    intro s
    obtain ⟨dies, keeps, raised⟩ := ih (s.raise (.nodeStart die graph n))
    refine ⟨dies, fun t member => keeps t (List.mem_append_left _ member), fun m member => ?_⟩
    obtain rfl | later := List.mem_cons.1 member
    · exact keeps _ (List.mem_append_right _ (List.mem_singleton.2 rfl))
    · exact raised m later

/-- The nodes that nothing precedes are ready when a replay begins (R353). -/
theorem Graph.readyNodes_first {g : Graph} {n : Nat} {x : GraphNode} (none_ : g.started = []) (node : g.nodes[n]? = some x) (first : x.preds = []) :
    n ∈ g.readyNodes fun _ => true := by
  obtain ⟨inside, -⟩ := List.getElem?_eq_some_iff.1 node
  exact List.mem_filter.2 ⟨List.mem_range.2 inside, by simp [node, none_, first]⟩

/-- What a replay that starts leaves: its graph runs afresh, and the nodes that nothing precedes are to be decided. -/
structure State.Replays (u : State) (die graph : Nat) (g : Graph) : Prop where
  runs : u.graph? die graph = some { g with running := true, started := [], statuses := [] }
  taken : KV.at? (u.die die).pending graph = none
  starts : ∀ n x, g.nodes[n]? = some x → x.preds = [] → Turn.event (.nodeStart die graph n) ∈ u.turns

theorem State.Replays.raise {u : State} {die graph : Nat} {g : Graph} (replays : u.Replays die graph g) (i : Instr) :
    (u.raise i).Replays die graph g :=
  ⟨replays.runs, replays.taken, fun n x node first => List.mem_append_left _ (replays.starts n x node first)⟩

theorem State.runReplay_replays {s : State} {die graph : Nat} {g h : Graph} (there : s.graph? die graph = some h)
    (taken : KV.at? (s.die die).pending graph = none) : (s.runReplay die graph g []).Replays die graph g := by
  have emptied : (g.nodes.foldl (fun s (x : GraphNode) => s.emptyVa g.part x.done) (s.emptyVa g.part g.gdone)).dies = s.dies :=
    (foldl_rel (R := fun s u => u.dies = s.dies) (fun _ => rfl) (fun h k => k.trans h) (fun s (x : GraphNode) => s.emptyVa g.part x.done)
      (fun s x => s.emptyVa_dies g.part x.done) g.nodes _).trans (s.emptyVa_dies g.part g.gdone)
  rw [State.runReplay, State.applyPatches, List.zip_nil_right]
  dsimp only [List.foldl_nil]
  generalize g.nodes.foldl _ _ = v at emptied ⊢
  have graph_ : v.graph? die graph = some h := (State.graph?_congr emptied die graph).trans there
  obtain ⟨dies, -, raised⟩ := State.raiseNodes die graph
    (({ g with running := true, started := [], statuses := [] } : Graph).readyNodes fun _ => true)
    (v.updGraph die graph fun _ => { g with running := true, started := [], statuses := [] })
  refine ⟨(State.graph?_congr dies die graph).trans (State.graph?_updGraph graph_ _), ?_,
    fun n x node first => raised n (Graph.readyNodes_first rfl node first)⟩
  rw [State.die, dies]
  change KV.at? ((v.updGraph die graph _).die die).pending graph = none
  rw [State.pending_updGraph, State.die, emptied]
  exact taken

/-- A kick without a patch table starts its graph's replay (R353). -/
theorem State.replay_replays {s : State} {die graph : Nat} {g : Graph} (there : s.graph? die graph = some g) :
    (s.replay die graph 0).Replays die graph g := by
  obtain ⟨graphs, -⟩ := s.journal_die die 1 0 graph 0
  have runs : s.replay die graph 0 =
      ((s.journal die 1 0 graph 0).updDie die fun d => { d with pending := KV.del d.pending graph }).runReplay die graph g [] := by
    rw [State.replay, there]
    exact if_pos rfl
  rw [runs]
  refine State.runReplay_replays (h := g) ?_ ?_
  · rw [State.graph?, State.die_updDie_same]
    exact (congrArg (KV.at? · graph) graphs).trans there
  · rw [State.die_updDie_same]
    exact KV.at?_del_same

/-- The first pending kick that may start does (R353). -/
theorem execReplayStart_replays {s : State} {die graph : Nat} {rest : List (Nat × BitVec 64)} {g : Graph} (acts : (s.die die).idle = false)
    (first : s.startable die = (graph, 0) :: rest) (there : s.graph? die graph = some g) :
    ∃ u, exec (.replayStart die) s = .next u ∧ u.Replays die graph g := by
  have within : s.patchOut die (graph, 0) = false := by simp [State.patchOut, there]
  have waits (b : Bool) : (if b = true then s else s.plan (s.clock + 64) (.replayStart die)).graph? die graph = some g := by
    cases b <;> exact there
  rw [exec_replayStart, execReplayStart, if_neg (by simp [acts]), first]
  simp only [List.partition_eq_filter_filter, List.filter_cons, within, Function.comp, Bool.not_false, if_true, Bool.false_eq_true, if_false]
  have replays := State.replay_replays (waits (rest.filter (s.patchOut die)).isEmpty)
  split
  · exact ⟨_, rfl, replays⟩
  · exact ⟨_, rfl, replays.raise _⟩

/-! ## Nodes (R354) -/

section
variable {s : State} {die graph node : Nat} {g : Graph} {x : GraphNode} (there : s.graph? die graph = some g) (at_ : g.nodes[node]? = some x)
include there at_

theorem execNodeStart_stays (not_ : g.mayStart node = false) : exec (.nodeStart die graph node) s = .next s := by
  rw [exec_nodeStart, execNodeStart, there]
  simp [at_, not_]

variable (acts : (s.die die).idle = false) (may : g.mayStart node = true)
include acts may

theorem execNodeStart_waits (out : s.readOut g.part x.record 256 = true) :
    exec (.nodeStart die graph node) s = .next (s.plan (s.clock + 64) (.nodeStart die graph node)) := by
  rw [exec_nodeStart, execNodeStart, there]
  simp [at_, acts, may, out]

theorem execNodeStart_starts (within : s.readOut g.part x.record 256 = false) :
    exec (.nodeStart die graph node) s = .next (s.startNode die graph node g x) := by
  rw [exec_nodeStart, execNodeStart, there]
  simp [at_, acts, may, within]

end

section
variable {s : State} {die graph node : Nat} {g : Graph} {x : GraphNode}

theorem State.startNode_failed (failed : ∃ q ∈ x.preds, 0x80000000 ≤ ((KV.at? g.statuses q).getD 0).toNat) : s.startNode die graph node g x =
    (s.updGraph die graph fun g => { g with started := g.started ++ [node] }).nodeDone die graph node x.done 0x80000030 :=
  if_pos (by simpa using failed)

variable (passed : ∀ q ∈ x.preds, ((KV.at? g.statuses q).getD 0).toNat < 0x80000000) {v t : State}
  (journal : v = (s.updGraph die graph fun g => { g with started := g.started ++ [node] }).journal die 2 node graph x.record)
  (touched : t = v.touchRead g.part (rangeSectors x.record 256))
include passed journal touched

theorem State.startNode_unread {e : XFail} (failed : v.dwordsAt g.part x.record 32 = .error e) :
    s.startNode die graph node g x = t.nodeDone die graph node x.done 0x80000009 := by
  subst touched journal
  rw [State.startNode, if_neg (by simpa using passed)]
  dsimp only
  rw [failed]

theorem State.startNode_launches {r : List (BitVec 64)} (reads : v.dwordsAt g.part x.record 32 = .ok r) :
    s.startNode die graph node g x = t.acceptLaunch r g.part die (.node die graph node) x.record none := by
  subst touched journal
  rw [State.startNode, if_neg (by simpa using passed)]
  dsimp only
  rw [reads]

end

theorem State.askPlacement_mem (s : State) : s.askPlacement.mem = s.mem :=
  foldl_rel (R := fun s u => u.mem = s.mem) (fun _ => rfl) (fun h k => k.trans h)
    (fun s d => s.raise (.groupPlacement (s.localDie d))) (fun _ _ => rfl) (List.range 4) s

/-- An accepted launch is its record's, under a fresh number (R358). -/
theorem State.acceptLaunch_launch (s : State) (r : List (BitVec 64)) (part die : Nat) (source : LSource) (va : BitVec 64) (entry : Option Nat) :
    (s.acceptLaunch r part die source va entry).launch? s.ids =
      some { launchOf r part die source va s.ids s.clock with storeEntry := entry } := by
  rw [State.launch?, State.acceptLaunch]
  exact (congrArg (KV.at? · s.ids) (State.askPlacement_launches _)).trans KV.at?_put_same

/-! ## The end of a launch (R357, R409) -/

section
variable {s : State} {lid : Nat} {l : Launch} (there : s.launch? lid = some l)
include there

theorem execLaunchComplete_stays (more : l.complete = false) : exec (.launchComplete lid) s = .next s := by
  rw [exec_launchComplete, execLaunchComplete, there]
  simp [more]

variable (complete : l.complete = true)
include complete

theorem execLaunchComplete_held (idle : (s.die l.die).idle = true) : exec (.launchComplete lid) s =
    .next ((s.updLaunch lid fun l => { l with done := true }).updDie l.die fun d => { d with heldFills := d.heldFills ++ [{ lid := lid }] }) := by
  rw [exec_launchComplete, execLaunchComplete, there]
  simp [complete, idle]

variable (acts : (s.die l.die).idle = false)
include acts

theorem execLaunchComplete_ends : exec (.launchComplete lid) s = .next (s.endLaunch lid l (l.status.setWidth 32)) := by
  rw [exec_launchComplete, execLaunchComplete, there]
  simp [complete, acts]

end

theorem State.dropLaunch_launch (s : State) (lid : Nat) (l : Launch) : (s.dropLaunch lid l).launch? lid = none := KV.at?_del_same

theorem State.endLaunch_node {s : State} {lid : Nat} {l : Launch} {d g n : Nat} (source : l.source = .node d g n) (x : BitVec 32) :
    s.endLaunch lid l x = (s.dropLaunch lid l).nodeDone d g n l.doneWord x := by
  rw [State.endLaunch, source]

theorem State.endLaunch_other {s : State} {lid : Nat} {l : Launch} (source : ∀ d g n, l.source ≠ .node d g n) (x : BitVec 32) :
    s.endLaunch lid l x = (s.dropLaunch lid l).fillVa l.part l.doneWord x := by
  rw [State.endLaunch]
  split
  next d g n same => exact absurd same (source d g n)
  next => rfl

end Sys2Proof.Machine

namespace Sys2Proof
open Machine

/-- Settles O47: a replay's frame through the words it empties, the branches of a node's decision, and what a launch's end leaves. -/
theorem graphsAndCompletion : Obligations.GraphsAndCompletion := by
  refine ⟨fun s die graph rest g acts first there => ?_, fun s die graph node g x there at_ acts => ⟨execNodeStart_stays there at_,
    execNodeStart_waits there at_ acts, fun may within => ?_⟩,
    fun s lid l there => ⟨execLaunchComplete_stays there, fun complete acts =>
      ⟨s.dropLaunch_launch lid l, fun other => ?_, fun d g n node => ?_⟩,
      fun complete idle => ⟨_, execLaunchComplete_held there complete idle, ?_, ?_⟩⟩⟩
  · obtain ⟨u, runs, replays⟩ := execReplayStart_replays acts first there
    exact ⟨u, runs, replays.runs, replays.taken, replays.starts⟩
  · rw [execNodeStart_starts there at_ acts may within]
    refine ⟨fun failed => by rw [State.startNode_failed failed], fun passed v t journal touched => ⟨fun e failed => ?_, fun r reads => ?_⟩⟩
    · rw [State.startNode_unread passed journal touched failed]
    · rw [State.startNode_launches passed journal touched reads]
      exact ⟨_, _, rfl, t.acceptLaunch_launch r g.part die (.node die graph node) x.record none, rfl, rfl, rfl, rfl, rfl, State.askPlacement_mem _⟩
  · rw [execLaunchComplete_ends there complete acts, State.endLaunch_other other]
  · rw [execLaunchComplete_ends there complete acts, State.endLaunch_node node]
  · exact KV.at?_upd_some there _
  · rw [State.die_updDie_same]
    rfl

end Sys2Proof
end

section
/-! O45: the save of a group and its return (R337 to R342). -/

namespace Sys2Proof.Machine

/-! ## Slices of a store -/

/-- A pasted slice is the slice that was cut out. -/
theorem Sparse.slice_paste {w : Nat} (m k : Sparse w) (lo goal n : Nat) :
    Sparse.slice (Sparse.paste m goal n (Sparse.slice k lo n)) goal n = Sparse.slice k lo n := by
  have below : (m.filter fun e => decide (e.1 < goal)).filter (fun e => decide (goal ≤ e.1) && decide (e.1 < goal + n)) = [] := by
    refine List.filter_eq_nil_iff.2 fun e member => ?_
    have := of_decide_eq_true (List.mem_filter.1 member).2
    simp only [Bool.and_eq_true, decide_eq_true_eq, not_and]
    omega
  have above : (m.filter fun e => decide (goal + n ≤ e.1)).filter (fun e => decide (goal ≤ e.1) && decide (e.1 < goal + n)) = [] := by
    refine List.filter_eq_nil_iff.2 fun e member => ?_
    have := of_decide_eq_true (List.mem_filter.1 member).2
    simp only [Bool.and_eq_true, decide_eq_true_eq, not_and]
    omega
  have cut : ∀ e ∈ Sparse.slice k lo n, e.1 < n := by
    intro e member
    obtain ⟨x, kept, rfl⟩ := List.mem_map.1 member
    have inside := (List.mem_filter.1 kept).2
    simp only [Bool.and_eq_true, decide_eq_true_eq] at inside
    dsimp only
    omega
  have within : ((Sparse.slice k lo n).map fun e => (goal + e.1, e.2)).filter (fun e => decide (goal ≤ e.1) && decide (e.1 < goal + n)) =
      (Sparse.slice k lo n).map fun e => (goal + e.1, e.2) := by
    refine List.filter_eq_self.2 fun e member => ?_
    obtain ⟨x, kept, rfl⟩ := List.mem_map.1 member
    have := cut x kept
    simp only [Bool.and_eq_true, decide_eq_true_eq]
    omega
  rw [Sparse.paste, Sparse.slice, List.filter_append, List.filter_append, below, within, above, List.nil_append, List.append_nil, List.map_map]
  have back : ∀ e ∈ Sparse.slice k lo n, ((fun e => (e.1 - goal, e.2)) ∘ fun e : Nat × BitVec w => (goal + e.1, e.2)) e = id e :=
    fun e _ => Prod.ext (Nat.add_sub_cancel_left ..) rfl
  rw [List.map_congr_left back, List.map_id]

/-! ## Lookups in what is kept -/

theorem KV.at?_filter {κ α : Type} [DecidableEq κ] (p : κ → Bool) (m : KV κ α) (k : κ) :
    KV.at? (m.filter fun e => p e.1) k = if p k = true then KV.at? m k else none := by
  induction m with
  | nil => simp [KV.at?]
  | cons e r ih =>
    rw [List.filter_cons]
    by_cases same : e.1 = k
    · subst same
      cases kept : p e.1 <;> simp_all [KV.at?]
    · cases kept : p e.1 <;> simp_all [KV.at?]

/-! ## A group is taken out and kept -/

/-- What the save of one group leaves: its image is kept, and it is gone with its threads, waits and commands (R338 steps 6 and 7). -/
structure State.Keeps (s u : State) (gid : Nat) (x : Group) (area bytes : Nat) : Prop where
  groups : u.groups = KV.del s.groups gid
  threads : u.threads = s.threads.filter fun e => !s.belongs gid e.1
  saved : u.saved = KV.put s.saved gid (s.image gid x area bytes)
  waits : u.waits = s.waits.filter fun w => !s.belongs gid w.who
  cmds : u.cmds = s.cmds.filter fun e => decide (e.2.gid ≠ gid)
  mem : u.mem = (s.copyStore (spBaseKey x.core + x.spBase) area x.spBytes).mem
  tags : u.tags = (s.copyStore (spBaseKey x.core + x.spBase) area x.spBytes).tags

/-- `u` is `s` but for what becomes of slots and launches. -/
def State.SlotsOnly (s u : State) : Prop := u = { s with cores := u.cores, launches := u.launches, sched := u.sched }

theorem State.SlotsOnly.refl (s : State) : s.SlotsOnly s := rfl

theorem State.SlotsOnly.trans {s u v : State} (h : s.SlotsOnly u) (k : u.SlotsOnly v) : s.SlotsOnly v := by
  unfold State.SlotsOnly at *
  rw [k, h]

theorem State.Keeps.slots {s u v : State} {gid : Nat} {x : Group} {area bytes : Nat} (keeps : s.Keeps u gid x area bytes) (only : u.SlotsOnly v) :
    s.Keeps v gid x area bytes := by
  obtain ⟨groups, threads, saved, waits, cmds, mem, tags⟩ := keeps
  rw [only]
  exact ⟨groups, threads, saved, waits, cmds, mem, tags⟩

theorem State.saveGroup_keeps {s : State} {gid : Nat} {x : Group} (there : s.group? gid = some x) (area bytes : Nat) :
    s.Keeps (s.saveGroup gid area bytes) gid x area bytes := by
  rw [State.saveGroup, there]
  refine State.Keeps.slots (u := { (s.copyStore (spBaseKey x.core + x.spBase) area x.spBytes).takeOut gid x with
    saved := KV.put s.saved gid (s.image gid x area bytes) }) ⟨rfl, rfl, rfl, rfl, rfl, rfl, rfl⟩ ?_
  refine State.SlotsOnly.trans (u := State.forgetInstances _ x.lid) rfl ?_
  refine foldl_rel State.SlotsOnly.refl State.SlotsOnly.trans _ (fun s w => ?_) _ _
  split <;> rfl

theorem State.saveGroup_absent {s : State} {gid : Nat} (absent : s.group? gid = none) (area bytes : Nat) : s.saveGroup gid area bytes = s := by
  rw [State.saveGroup, absent]

/-! ## Threads that leave -/

/-- Each thread of `u` is that of `s`: threads have only left. -/
def State.Thinned (s u : State) : Prop := ∀ w, u.thread? w = none ∨ u.thread? w = s.thread? w

theorem State.Thinned.refl (s : State) : s.Thinned s := fun _ => .inr rfl

theorem State.Thinned.trans {s u v : State} (h : s.Thinned u) (k : u.Thinned v) : s.Thinned v := by
  intro w
  obtain gone | same := k w
  · exact .inl gone
  · rw [same]
    exact h w

/-- A thread of a group that is there is still the group's. -/
theorem State.Thinned.belongs {s u : State} (thinned : s.Thinned u) {gid : Nat} {w : Who} {t : Thread} (there : u.thread? w = some t)
    (mine : s.belongs gid w = true) : u.belongs gid w = true := by
  obtain gone | same := thinned w
  · rw [there] at gone
    cases gone
  · unfold State.belongs at mine ⊢
    rwa [same]

theorem State.Keeps.thread? {s u : State} {gid : Nat} {x : Group} {area bytes : Nat} (keeps : s.Keeps u gid x area bytes) (w : Who) :
    u.thread? w = if s.belongs gid w = true then none else s.thread? w := by
  rw [State.thread?, keeps.threads, KV.at?_filter fun w => !s.belongs gid w]
  cases s.belongs gid w <;> rfl

theorem State.Keeps.thinned {s u : State} {gid : Nat} {x : Group} {area bytes : Nat} (keeps : s.Keeps u gid x area bytes) : s.Thinned u := by
  intro w
  rw [keeps.thread?]
  split
  · exact .inl rfl
  · exact .inr rfl

/-! ## The groups of a set are saved one after the other -/

/-- Group `m` of `z` is saved in `u`. -/
structure State.SavedIn (z u : State) (m : Nat) (x : Group) (area bytes : Nat) : Prop where
  gone : u.group? m = none
  threads : ∀ w, z.belongs m w = true → u.thread? w = none
  kept : ∃ y, KV.at? u.saved m = some y ∧ y.group = x ∧ y.area = area ∧ y.areaBytes = bytes

theorem State.Keeps.savedIn {z s u : State} {m : Nat} {x : Group} {area bytes : Nat} (thinned : z.Thinned s) (keeps : s.Keeps u m x area bytes) :
    z.SavedIn u m x area bytes where
  gone := by
    rw [State.group?, keeps.groups]
    exact KV.at?_del_same
  threads w mine := by
    rw [keeps.thread?]
    split
    · rfl
    next other =>
      cases there : s.thread? w with
      | none => rfl
      | some t => exact absurd (thinned.belongs there mine) other
  kept := ⟨_, by rw [keeps.saved]; exact KV.at?_put_same, rfl, rfl, rfl⟩

/-- The save of another group, or of the same again, leaves it so. -/
theorem State.SavedIn.saveGroup {z s : State} {m : Nat} {x : Group} {area bytes : Nat} (savedIn : z.SavedIn s m x area bytes) (k a n : Nat) :
    z.SavedIn (s.saveGroup k a n) m x area bytes := by
  cases there : s.group? k with
  | none => rwa [State.saveGroup_absent there]
  | some g =>
    have keeps := State.saveGroup_keeps there a n
    have other : m ≠ k := by
      rintro rfl
      rw [savedIn.gone] at there
      cases there
    obtain ⟨y, kept, facts⟩ := savedIn.kept
    refine ⟨?_, fun w mine => ?_, y, ?_, facts⟩
    · rw [State.group?, keeps.groups, KV.at?_del_other other]
      exact savedIn.gone
    · obtain gone | same := keeps.thinned w
      · exact gone
      · rw [same, savedIn.threads w mine]
    · rw [keeps.saved, KV.at?_put_other other]
      exact kept

/-- Save groups into their areas, one after the other. -/
def State.saveGroups (s : State) (areas : List (Nat × Nat × Nat)) : State := areas.foldl (fun s e => s.saveGroup e.1 e.2.1 e.2.2) s

theorem State.SavedIn.saveGroups {z : State} {m : Nat} {x : Group} {area bytes : Nat} (areas : List (Nat × Nat × Nat)) :
    ∀ {s : State}, z.SavedIn s m x area bytes → z.SavedIn (s.saveGroups areas) m x area bytes := by
  induction areas with
  | nil => exact id
  | cons e r ih => exact fun savedIn => ih (savedIn.saveGroup e.1 e.2.1 e.2.2)

theorem State.saveGroups_savedIn {z : State} {m : Nat} {x : Group} {area bytes : Nat} (areas : List (Nat × Nat × Nat)) :
    ∀ {s : State}, z.Thinned s → s.group? m = some x → (m, area, bytes) ∈ areas → (∀ a n, (m, a, n) ∈ areas → a = area ∧ n = bytes) →
      z.SavedIn (s.saveGroups areas) m x area bytes := by
  induction areas with
  | nil => exact fun _ _ member => absurd member List.not_mem_nil
  | cons e r ih =>
    intro s thinned there member one
    obtain ⟨k, a, n⟩ := e
    by_cases same : k = m
    · subst same
      obtain ⟨rfl, rfl⟩ := one a n List.mem_cons_self
      exact State.SavedIn.saveGroups r ((State.saveGroup_keeps there a n).savedIn thinned)
    · have later : (m, area, bytes) ∈ r := by
        obtain first | later := List.mem_cons.1 member
        · exact absurd (congrArg Prod.fst first).symm same
        · exact later
      have rest (s' : State) (thinned' : z.Thinned s') (there' : s'.group? m = some x) : z.SavedIn (s'.saveGroups r) m x area bytes :=
        ih thinned' there' later fun a n member => one a n (List.mem_cons_of_mem _ member)
      cases group : s.group? k with
      | none => exact rest (s.saveGroup k a n) (by rwa [State.saveGroup_absent group]) (by rwa [State.saveGroup_absent group])
      | some g =>
        have keeps := State.saveGroup_keeps group a n
        refine rest (s.saveGroup k a n) (thinned.trans keeps.thinned) ?_
        rw [State.group?, keeps.groups, KV.at?_del_other (Ne.symm same)]
        exact there

/-! ## Where no storage error is known the images read as they are -/

theorem State.readImages_clean {s : State} (clean : s.flaws = []) (set : List (Nat × Group)) : s.readImages set = (s, false) := by
  induction set with
  | nil => rfl
  | cons e r ih =>
    have none_ : s.imageError e.1 e.2 = (s, none) := by rw [State.imageError, clean]; rfl
    rw [State.readImages, none_]
    exact ih

/-- Those that wait for a scoreboard entry wake, and the launch order is looked at again. -/
def State.afterSaves (s : State) : State := (s.wakeAll fun _ t => decide (t.status = .waiting .scoreboard)).askPlacement

/-- `u` is `s` but for the threads' states and the turns. -/
def State.WakesOnly (s u : State) : Prop := u = { s with threads := u.threads, turns := u.turns }

theorem State.askPlacement_raisesOnly (s : State) : s.askPlacement = { s with turns := s.askPlacement.turns } :=
  foldl_rel (R := fun s u => u = { s with turns := u.turns }) (fun _ => rfl) (fun h k => by rw [k, h])
    (fun s d => s.raise (.groupPlacement (s.localDie d))) (fun _ _ => rfl) (List.range 4) s

theorem State.afterSaves_wakesOnly (s : State) : s.WakesOnly s.afterSaves := by
  rw [State.WakesOnly, State.afterSaves, State.askPlacement_raisesOnly]
  rfl

theorem State.afterSaves_threads (s : State) {w : Who} (gone : s.thread? w = none) : s.afterSaves.thread? w = none := by
  rw [State.afterSaves, State.askPlacement_raisesOnly]
  exact KV.at?_map_none (fun e => by split <;> rfl) gone

theorem State.SavedIn.afterSaves {z s : State} {m : Nat} {x : Group} {area bytes : Nat} (savedIn : z.SavedIn s m x area bytes) :
    z.SavedIn s.afterSaves m x area bytes := by
  have only := s.afterSaves_wakesOnly
  refine ⟨?_, fun w mine => s.afterSaves_threads (savedIn.threads w mine), ?_⟩
  · rw [only]
    exact savedIn.gone
  · rw [only]
    exact savedIn.kept

theorem State.saveAll_waits {s : State} {gid : Nat} {set : List (Nat × Group)} (room : s.saveAreas set s.areasTaken = none) :
    s.saveAll gid set = s.plan (s.clock + 64) (.groupSave gid) := by
  rw [State.saveAll, room]

theorem State.saveAll_saves {s : State} {gid : Nat} {set : List (Nat × Group)} {areas : List (Nat × Nat × Nat)}
    (room : s.saveAreas set s.areasTaken = some areas) (clean : s.flaws = []) : s.saveAll gid set = (s.saveGroups areas).afterSaves := by
  rw [State.saveAll, room]
  dsimp only
  rw [State.readImages_clean clean]
  rfl

/-! ## GROUP_SAVE -/

/-- A group stops issuing. -/
def State.stopIssue (s : State) (e : Nat × Group) : State := s.updGroup e.1 fun g => { g with saving := true }

/-- Stopped groups do not issue (R338 step 1). -/
theorem State.stopForSave_saving {s : State} (set : List (Nat × Group)) :
    ∀ e ∈ set, ∀ x, (s.stopForSave set).group? e.1 = some x → x.saving = true := by
  suffices ∀ (l : List (Nat × Group)) (s : State) (k : Nat), (k ∈ l.map (·.1) ∨ ∀ x, s.group? k = some x → x.saving = true) →
      ∀ x, (l.foldl State.stopIssue s).group? k = some x → x.saving = true from
    fun e member => this set s e.1 (.inl (List.mem_map_of_mem member))
  intro l
  induction l with
  | nil => exact fun s k known => known.resolve_left List.not_mem_nil
  | cons e r ih =>
    intro s k known
    refine ih (s.stopIssue e) k ?_
    by_cases same : k = e.1
    · refine .inr fun x there => ?_
      subst same
      have there : (KV.at? s.groups e.1).map (fun g => { g with saving := true }) = some x := KV.at?_upd_same.symm.trans there
      obtain ⟨g, -, rfl⟩ := Option.map_eq_some_iff.1 there
      rfl
    · refine known.imp (fun member => ?_) fun stopped x there => stopped x ((KV.at?_upd_other same).symm.trans there)
      exact (List.mem_cons.1 member).resolve_left same

section
variable {s : State} {gid : Nat} {g : Group} (there : s.group? gid = some g)
include there

theorem execGroupSave_ending (ending : g.ending = true) : exec (.groupSave gid) s = .next s := by
  rw [exec_groupSave, execGroupSave, there]
  exact if_pos ending

variable {set : List (Nat × Group)} (members : set = s.saveSet gid g) (live : g.ending = false)
include members live

theorem execGroupSave_unwinding (unwinds : ∃ e ∈ set, e.2.unwinding.isSome = true) :
    exec (.groupSave gid) s = .next (s.plan (s.clock + 64) (.groupSave gid)) := by
  subst members
  rw [exec_groupSave, execGroupSave, there]
  dsimp only
  rw [if_neg (by simp [live]), if_pos (List.any_eq_true.2 unwinds)]

variable (settled : ∀ e ∈ set, e.2.unwinding = none)
include settled

theorem execGroupSave_goesOn : exec (.groupSave gid) s = .next ((s.stopForSave set).goOnSave gid set) := by
  have none_ : ¬ (set.any fun e => e.2.unwinding.isSome) = true := by
    rw [List.any_eq_true]
    rintro ⟨e, member, unwinds⟩
    rw [settled e member] at unwinds
    cases unwinds
  subst members
  rw [exec_groupSave, execGroupSave, there]
  dsimp only
  rw [if_neg (by simp [live]), if_neg none_]

variable {v : State} (flushed : v = set.foldl (fun s e => s.flushCore e.1 e.2.core) (s.stopForSave set))
include flushed

theorem execGroupSave_waits (waits : ∃ e ∈ set, v.saveWaits e.1 e.2 = true) :
    exec (.groupSave gid) s = .next (v.plan (v.clock + 64) (.groupSave gid)) := by
  rw [execGroupSave_goesOn there members live settled, State.goOnSave, ← flushed]
  exact congrArg _ (if_pos (List.any_eq_true.2 waits))

variable (quiet : ∀ e ∈ set, v.saveWaits e.1 e.2 = false) {z : State} (finished : z = set.foldl (fun s e => s.finishCopies e.1) v)
include quiet finished

theorem execGroupSave_quiet : exec (.groupSave gid) s = .next
    (if ((set.any fun e => z.copiesRun e.1) || z.imageWaits set) = true then z.plan (z.clock + 64) (.groupSave gid) else z.saveAll gid set) := by
  have none_ : ¬ (set.any fun e => v.saveWaits e.1 e.2) = true := by
    rw [List.any_eq_true]
    rintro ⟨e, member, waits⟩
    rw [quiet e member] at waits
    cases waits
  rw [execGroupSave_goesOn there members live settled, State.goOnSave, ← flushed]
  dsimp only
  rw [if_neg none_, ← finished]

theorem execGroupSave_copies (waits : (∃ e ∈ set, z.copiesRun e.1 = true) ∨ z.imageWaits set = true) :
    exec (.groupSave gid) s = .next (z.plan (z.clock + 64) (.groupSave gid)) := by
  rw [execGroupSave_quiet there members live settled flushed quiet finished, if_pos]
  rw [Bool.or_eq_true, List.any_eq_true]
  exact waits

variable (ended : ∀ e ∈ set, z.copiesRun e.1 = false) (reached : z.imageWaits set = false)
include ended reached

theorem execGroupSave_saves : exec (.groupSave gid) s = .next (z.saveAll gid set) := by
  rw [execGroupSave_quiet there members live settled flushed quiet finished, if_neg]
  rw [reached, Bool.or_false, List.any_eq_true]
  rintro ⟨e, member, runs⟩
  rw [ended e member] at runs
  cases runs

end

/-- The save of one group alone: its image, and its allocation in its area. -/
theorem State.saveGroups_one {z : State} {gid : Nat} {x : Group} (there : z.group? gid = some x) (a n : Nat) :
    let u := (z.saveGroups [(gid, a, n)]).afterSaves
    KV.at? u.saved gid = some (z.image gid x a n) ∧ u.group? gid = none ∧ (∀ w, z.belongs gid w = true → u.thread? w = none) ∧
      (∀ m ∈ u.waits, z.belongs gid m.who = false) ∧ (∀ e ∈ u.cmds, e.2.gid ≠ gid) ∧
      Sparse.slice u.mem a x.spBytes = Sparse.slice z.mem (spBaseKey x.core + x.spBase) x.spBytes ∧
      Sparse.slice u.tags (a / 4) (x.spBytes / 4) = Sparse.slice z.tags ((spBaseKey x.core + x.spBase) / 4) (x.spBytes / 4) := by
  have keeps := State.saveGroup_keeps there a n
  have savedIn := (keeps.savedIn (.refl z)).afterSaves
  refine ⟨?_, savedIn.gone, savedIn.threads, ?_⟩
  · rw [State.afterSaves_wakesOnly]
    exact (congrArg (KV.at? · gid) keeps.saved).trans KV.at?_put_same
  · rw [State.afterSaves_wakesOnly]
    change (∀ m ∈ (z.saveGroup gid a n).waits, _) ∧ (∀ e ∈ (z.saveGroup gid a n).cmds, _) ∧
      Sparse.slice (z.saveGroup gid a n).mem _ _ = _ ∧ Sparse.slice (z.saveGroup gid a n).tags _ _ = _
    rw [keeps.waits, keeps.cmds, keeps.mem, keeps.tags]
    refine ⟨fun m member => ?_, fun e member => of_decide_eq_true (List.mem_filter.1 member).2, Sparse.slice_paste .., Sparse.slice_paste ..⟩
    simpa using (List.mem_filter.1 member).2

/-! ## GROUP_RESTORE (R341, R342) -/

/-- What the return of one group leaves: it stands on its spot, its image is no longer kept, and the store is as `mem` and `tags`. -/
structure State.Returns (s u : State) (gid : Nat) (y : SavedGroup) (x : Spot) (mem : Sparse 8) (tags : Sparse 2) : Prop where
  saved : u.saved = KV.del s.saved gid
  group : ∃ g, u.groups = KV.put s.groups gid g ∧ g.core = x.core ∧ g.place = x.place ∧ g.spBase = x.base ∧ g.lid = y.group.lid ∧ g.saving = false
  mem : u.mem = mem
  tags : u.tags = tags

/-- `u` is `s` but for cores, halves, launches and threads. -/
def State.StandsOnly (s u : State) : Prop := u = { s with cores := u.cores, halves := u.halves, launches := u.launches, threads := u.threads }

theorem State.StandsOnly.refl (s : State) : s.StandsOnly s := rfl

theorem State.StandsOnly.trans {s u v : State} (h : s.StandsOnly u) (k : u.StandsOnly v) : s.StandsOnly v := by
  unfold State.StandsOnly at *
  rw [k, h]

theorem State.Returns.stands {s u v : State} {gid : Nat} {y : SavedGroup} {x : Spot} {mem : Sparse 8} {tags : Sparse 2}
    (returns : s.Returns u gid y x mem tags) (only : u.StandsOnly v) : s.Returns v gid y x mem tags := by
  obtain ⟨saved, group, mem, tags⟩ := returns
  rw [only]
  exact ⟨saved, group, mem, tags⟩

theorem State.putThreads_standsOnly (core : Nat) (f : Who → Thread → Thread) (l : KV Who Thread) : ∀ s : State,
    s.StandsOnly (s.putThreads core f l).1 := by
  induction l with
  | nil => exact .refl
  | cons e r ih => exact fun s => State.StandsOnly.trans (u := s.setThread _ _) rfl (ih _)

/-- The store once an image's area has been copied back to an allocation. -/
def State.broughtBack (s : State) (y : SavedGroup) (x : Spot) : State :=
  (s.readArea y.group.part y.area y.areaBytes).copyStore y.area (spBaseKey x.core + x.base) y.group.spBytes

theorem State.readArea_recordsOnly (s : State) (part lo n : Nat) : s.RecordsOnly (s.readArea part lo n) :=
  foldl_rel State.RecordsOnly.refl State.RecordsOnly.trans _ (fun s k => s.readSector_recordsOnly part 0 k) _ s

theorem State.readArea_clean {s : State} (clean : s.flaws = []) (part lo n : Nat) : s.readArea part lo n = s := by
  rw [State.readArea, clean]
  rfl

theorem State.broughtBack_frame (s : State) (y : SavedGroup) (x : Spot) :
    (s.broughtBack y x).saved = s.saved ∧ (s.broughtBack y x).groups = s.groups := by
  have only := s.readArea_recordsOnly y.group.part y.area y.areaBytes
  rw [State.broughtBack, State.copyStore, only]
  exact ⟨rfl, rfl⟩

/-- A half takes its saved content (R342 step 3). -/
def State.restoreHalf (s : State) (gid core : Nat) (h : SavedHalf) : State :=
  s.updHalf core h.half fun y =>
    { y with
      holder := some gid, acc := h.acc, cr := h.cr, cc := h.cc, prog0 := h.prog0, prog1 := h.prog1, store := h.store, fills := h.fills
      queue := h.queue, run := none }

theorem State.restoreBody_returns (s : State) (gid : Nat) (y : SavedGroup) (x : Spot) :
    s.Returns (s.restoreBody gid y x) gid y x (s.broughtBack y x).mem (s.broughtBack y x).tags := by
  obtain ⟨saved, groups⟩ := s.broughtBack_frame y x
  have halves (v : State) : v.StandsOnly (y.halves.foldl (fun s h => s.restoreHalf gid x.core h) v) :=
    foldl_rel State.StandsOnly.refl State.StandsOnly.trans (fun s h => s.restoreHalf gid x.core h) (fun _ _ => rfl) y.halves v
  refine State.Returns.stands (u := { s.broughtBack y x with
    saved := KV.del (s.broughtBack y x).saved gid
    groups := KV.put (s.broughtBack y x).groups gid { y.group with
      core := x.core, place := x.place, spBase := x.base, reserved := if y.group.query.isSome then x.slots else []
      estate := y.table, saving := false } })
    ?_ (State.StandsOnly.trans (u := State.updCore _ x.core _) rfl (halves _))
  rw [saved, groups]
  exact ⟨rfl, ⟨_, rfl, rfl, rfl, rfl, rfl, rfl⟩, rfl, rfl⟩

/-- One group returns to its spot. -/
theorem State.restoreOne_returns (s : State) (gid : Nat) (y : SavedGroup) (x : Spot) (insts : KV (Nat × Nat) Nat) :
    s.Returns (s.restoreOne gid y x insts).1 gid y x (s.broughtBack y x).mem (s.broughtBack y x).tags :=
  (s.restoreBody_returns gid y x).stands (State.StandsOnly.trans (u := State.updLaunch _ _ _) rfl (State.putThreads_standsOnly _ _ _ _))

theorem State.takeCore_standsOnly (s : State) (core : Nat) : s.StandsOnly (s.takeCore core) := by
  unfold State.takeCore
  split <;> rfl

theorem State.broughtBack_takeCore {s : State} (clean : s.flaws = []) (core : Nat) (y : SavedGroup) (x : Spot) :
    ((s.takeCore core).broughtBack y x).mem = (s.copyStore y.area (spBaseKey x.core + x.base) y.group.spBytes).mem ∧
    ((s.takeCore core).broughtBack y x).tags = (s.copyStore y.area (spBaseKey x.core + x.base) y.group.spBytes).tags := by
  have only := s.takeCore_standsOnly core
  have still : (s.takeCore core).flaws = [] := by
    rw [only]
    exact clean
  rw [State.broughtBack, State.readArea_clean still, only]
  exact ⟨rfl, rfl⟩

/-- A member of a set returns to its spot on a core that is handed over. -/
def State.restoreNext (s : State) (e : Nat × SavedGroup × Spot × KV (Nat × Nat) Nat) : State × List (Who × Who) :=
  (s.takeCore e.2.2.1.core).restoreOne e.1 e.2.1 e.2.2.1 e.2.2.2

theorem State.restoreNext_returns (s : State) (e : Nat × SavedGroup × Spot × KV (Nat × Nat) Nat) :
    s.Returns (s.restoreNext e).1 e.1 e.2.1 e.2.2.1 ((s.takeCore e.2.2.1.core).broughtBack e.2.1 e.2.2.1).mem
      ((s.takeCore e.2.2.1.core).broughtBack e.2.1 e.2.2.1).tags := by
  obtain ⟨saved, group, mem, tags⟩ := (s.takeCore e.2.2.1.core).restoreOne_returns e.1 e.2.1 e.2.2.1 e.2.2.2
  have only := s.takeCore_standsOnly e.2.2.1.core
  refine ⟨saved.trans ?_, ?_, mem, tags⟩
  · rw [only]
  · obtain ⟨g, put, facts⟩ := group
    exact ⟨g, put.trans (by rw [only]), facts⟩

/-- Group `m` stands on its spot in `u`, and no image of it is kept. -/
def State.Stands (u : State) (m : Nat) (y : SavedGroup) (x : Spot) : Prop := KV.at? u.saved m = none ∧
  ∃ g, u.group? m = some g ∧ g.core = x.core ∧ g.place = x.place ∧ g.spBase = x.base ∧ g.lid = y.group.lid ∧ g.saving = false

theorem State.Returns.stand {s u : State} {gid : Nat} {y : SavedGroup} {x : Spot} {mem : Sparse 8} {tags : Sparse 2}
    (returns : s.Returns u gid y x mem tags) : u.Stands gid y x := by
  obtain ⟨g, put, facts⟩ := returns.group
  refine ⟨by rw [returns.saved]; exact KV.at?_del_same, g, ?_, facts⟩
  rw [State.group?, put]
  exact KV.at?_put_same

/-- The return of another member leaves it so. -/
theorem State.Stands.restoreNext {s : State} {m : Nat} {y : SavedGroup} {x : Spot} (stands : s.Stands m y x)
    {e : Nat × SavedGroup × Spot × KV (Nat × Nat) Nat} (other : m ≠ e.1) : (s.restoreNext e).1.Stands m y x := by
  have returns := s.restoreNext_returns e
  obtain ⟨unsaved, g, there, facts⟩ := stands
  obtain ⟨k, put, -⟩ := returns.group
  refine ⟨?_, g, ?_, facts⟩
  · rw [returns.saved, KV.at?_del_other other]
    exact unsaved
  · rw [State.group?, put, KV.at?_put_other other]
    exact there

/-- Return the members of a set, one after the other. -/
def State.restoreAll (s : State) (l : List (Nat × SavedGroup × Spot × KV (Nat × Nat) Nat)) : State := l.foldl (fun s e => (s.restoreNext e).1) s

theorem State.Stands.restoreAll {m : Nat} {y : SavedGroup} {x : Spot} (l : List (Nat × SavedGroup × Spot × KV (Nat × Nat) Nat)) :
    ∀ {s : State}, s.Stands m y x → m ∉ l.map (·.1) → (s.restoreAll l).Stands m y x := by
  induction l with
  | nil => exact fun stands _ => stands
  | cons e r ih =>
    intro s stands absent
    rw [List.map_cons, List.mem_cons, not_or] at absent
    exact ih (stands.restoreNext absent.1) absent.2

theorem State.restoreAll_stands (l : List (Nat × SavedGroup × Spot × KV (Nat × Nat) Nat)) : ∀ s : State, (l.map fun e => e.1).Nodup →
    ∀ m z x insts, (m, z, x, insts) ∈ l → (s.restoreAll l).Stands m z x := by
  induction l with
  | nil => exact fun _ _ _ _ _ _ member => absurd member List.not_mem_nil
  | cons e r ih =>
    intro s distinct m z x insts member
    rw [List.map_cons, List.nodup_cons] at distinct
    obtain rfl | later := List.mem_cons.1 member
    · exact State.Stands.restoreAll r (s.restoreNext_returns _).stand distinct.1
    · exact ih _ distinct.2 m z x insts later

/-- The members of a set that return, with the new names of their threads. -/
def restoreStep (a : State × List (Nat × SavedGroup × List (Who × Who))) (e : Nat × SavedGroup × Spot × KV (Nat × Nat) Nat) :
    State × List (Nat × SavedGroup × List (Who × Who)) :=
  ((a.1.restoreNext e).1, a.2 ++ [(e.1, e.2.1, (a.1.restoreNext e).2)])

theorem restoreStep_fst (l : List (Nat × SavedGroup × Spot × KV (Nat × Nat) Nat)) :
    ∀ a : State × List (Nat × SavedGroup × List (Who × Who)), (l.foldl restoreStep a).1 = a.1.restoreAll l := by
  induction l with
  | nil => exact fun _ => rfl
  | cons e r ih => exact fun a => ih (restoreStep a e)

section
variable {s : State} {gid : Nat} {y : SavedGroup} (kept : KV.at? s.saved gid = some y)
include kept

theorem execGroupRestore_nowhere (nowhere : s.returnSpots gid y (s.keptFrom gid) = none) : exec (.groupRestore gid) s = .next s := by
  rw [exec_groupRestore, execGroupRestore, kept]
  dsimp only
  rw [nowhere]

variable {l : List (Nat × SavedGroup × Spot × KV (Nat × Nat) Nat)} (spots : s.returnSpots gid y (s.keptFrom gid) = some l)
include spots

theorem execGroupRestore_waits (waits : s.returnWaits (l.map fun e => e.2.1) = true) :
    exec (.groupRestore gid) s = .next (s.plan (s.clock + 64) (.groupRestore gid)) := by
  rw [exec_groupRestore, execGroupRestore, kept]
  dsimp only
  rw [spots]
  exact if_pos waits

variable (reached : s.returnWaits (l.map fun e => e.2.1) = false) {v : State} {done : List (Nat × SavedGroup × List (Who × Who))}
  (returned : (v, done) = l.foldl restoreStep (s, [])) {moves : List (Nat × Nat × Nat)}
  (moved : moves = l.map fun e => (spBaseKey e.2.1.group.core + e.2.1.group.spBase, spBaseKey e.2.2.1.core + e.2.2.1.base, e.2.1.group.spBytes))
include reached returned moved

theorem execGroupRestore_returns :
    exec (.groupRestore gid) s = .next (done.foldl (fun s e => s.restoreRest moves e.1 e.2.1 e.2.2) v).askPlacement := by
  subst moved
  rw [exec_groupRestore, execGroupRestore, kept]
  dsimp only
  rw [spots]
  dsimp only
  rw [if_neg (by simp [reached])]
  change Host.Outcome.next (State.askPlacement (List.foldl _ (l.foldl restoreStep (s, [])).1 (l.foldl restoreStep (s, [])).2)) = _
  rw [← returned]

end

end Sys2Proof.Machine

namespace Sys2Proof
open Machine

/-- Settles O45: a save's waits in their order, the groups of a set taken out one after the other, and a set returned spot by spot. -/
theorem saveAndRestore : Obligations.SaveAndRestore := by
  refine ⟨fun s v gid g set there members _ flushed => ⟨State.stopForSave_saving set, execGroupSave_ending there,
      execGroupSave_unwinding there members, fun live settled => ⟨execGroupSave_waits there members live settled flushed,
      fun quiet z finished => ⟨execGroupSave_copies there members live settled flushed quiet finished, fun ended reached => ?_⟩⟩⟩,
    fun s gid y kept => ⟨execGroupRestore_nowhere kept, fun l spots => ⟨execGroupRestore_waits kept spots,
      fun reached v done moves returned moved => ⟨execGroupRestore_returns kept spots reached returned moved, ?_⟩⟩,
      fun x insts _ clean reached spots => ?_⟩⟩
  · rw [execGroupSave_saves there members live settled flushed quiet finished ended reached]
    refine ⟨fun room => by rw [State.saveAll_waits room], fun areas room clean => ⟨_, by rw [State.saveAll_saves room clean], ?_⟩,
      fun x a n _ room clean group => ⟨_, by rw [State.saveAll_saves room clean], State.saveGroups_one group a n⟩⟩
    intro m a n x member group one
    obtain ⟨gone, threads, kept⟩ := (State.saveGroups_savedIn areas (.refl z) group member one).afterSaves
    exact ⟨gone, threads, kept⟩
  · have stands := State.restoreAll_stands l s
    have final : v = s.restoreAll l := (congrArg Prod.fst returned).trans (restoreStep_fst l (s, []))
    rw [final]
    exact stands
  · have returns := s.restoreNext_returns (gid, y, x, insts)
    obtain ⟨unsaved, g, group, core, place, base, lid, -⟩ := returns.stand
    obtain ⟨mem, tags⟩ := State.broughtBack_takeCore clean x.core y x
    refine ⟨_, _, rfl, execGroupRestore_returns kept spots reached rfl rfl, unsaved, ⟨g, group, core, place, base, lid⟩, ?_, ?_⟩
    · exact (congrArg (Sparse.slice · _ _) (returns.mem.trans mem)).trans (Sparse.slice_paste ..)
    · exact (congrArg (Sparse.slice · _ _) (returns.tags.trans tags)).trans (Sparse.slice_paste ..)

end Sys2Proof
end

section
/-! O59, images and schedulers: the switch of a unit, the journal, and the takeover of a die's scheduler (R355, R401, R409, R414). -/

namespace Sys2Proof.Machine

/-! ## Records of the package and readiness bits -/

/-- A record that concerns no partition changes the package's log alone (R405). -/
theorem State.note_eq (s : State) (type die : Nat) (a b c d : BitVec 64) : s.note type die a b c d =
    { s with
      logs := (s.note type die a b c d).logs, fleet := { s.fleet with pkgLogSeq := s.fleet.pkgLogSeq + 1 } } := rfl

/-- `u` is `s` but for the package's log and the readiness bits. -/
def State.NotesOnly (s u : State) : Prop :=
  u = { s with logs := u.logs, fleet := { s.fleet with pkgLogSeq := u.fleet.pkgLogSeq, ready := u.fleet.ready } }

theorem State.NotesOnly.refl (s : State) : s.NotesOnly s := rfl

theorem State.NotesOnly.trans {s u v : State} (h : s.NotesOnly u) (k : u.NotesOnly v) : s.NotesOnly v := by
  unfold State.NotesOnly at *
  rw [k, h]

theorem State.note_notesOnly (s : State) (type die : Nat) (a b c d : BitVec 64) : s.NotesOnly (s.note type die a b c d) := rfl

theorem State.setReady_notesOnly (s : State) (bit : Nat) (v : Bool) : s.NotesOnly (s.setReady bit v) := rfl

theorem State.NotesOnly.frame {s u : State} (only : s.NotesOnly u) :
    u.fleet.images = s.fleet.images ∧ u.replies = s.replies ∧ u.threads = s.threads ∧ u.mem = s.mem ∧ u.mhz = s.mhz := by
  rw [only]
  exact ⟨rfl, rfl, rfl, rfl, rfl⟩

theorem State.NotesOnly.die {s u : State} (only : s.NotesOnly u) (d : Nat) : u.die d = s.die d := by
  rw [only]
  rfl

/-! ## IMAGE_SWITCH (R401, R409, R414) -/

theorem State.at?_updImages {s : State} {target : Nat} {x : Images} (there : KV.at? s.fleet.images target = some x) (f : Images → Images) :
    KV.at? (s.updImages target f).fleet.images target = some (f x) := KV.at?_upd_some there f

section
variable {s : State} {target unit : Nat} {x : Images} (there : KV.at? s.fleet.images target = some x)
include there

theorem execImageSwitch_done (switched : unit ∉ x.switching) : exec (.imageSwitch target unit) s = .next s := by
  rw [exec_imageSwitch, execImageSwitch, there]
  simp [switched]

variable (switches : unit ∈ x.switching)
include switches

theorem execImageSwitch_takeover (scheduler : target = 2) (takeover : (s.die (s.localDie (unit / 2))).takeover = true) :
    exec (.imageSwitch target unit) s = .next (s.plan (s.clock + 64) (.imageSwitch target unit)) := by
  rw [exec_imageSwitch, execImageSwitch, there]
  simp [switches, scheduler, takeover]

theorem execImageSwitch_switches
    (free : target ≠ 2 ∨ ((s.die (s.localDie (unit / 2))).takeover = false ∧ s.activeUnit unit = false)) :
    exec (.imageSwitch target unit) s = .next (s.switchUnit target unit x) := by
  rw [exec_imageSwitch, execImageSwitch, there]
  obtain other | ⟨takeover, active⟩ := free
  · simp [switches, other]
  · simp [switches, takeover, active]

variable (scheduler : target = 2) (takeover : (s.die (s.localDie (unit / 2))).takeover = false) (active : s.activeUnit unit = true)
include scheduler takeover active

/-- The active scheduler core waits, and hands over once its standby runs the new image. -/
theorem execImageSwitch_hands : exec (.imageSwitch target unit) s = .next (
    if x.switching.contains (unit / 2 * 2 + (1 - unit % 2)) = true then s.plan (s.clock + 64) (.imageSwitch target unit)
    else (s.plan (s.clock + 64) (.imageSwitch target unit)).raise (.schedulerTakeover (s.localDie (unit / 2)) 1)) := by
  rw [exec_imageSwitch, execImageSwitch, there]
  simp only [List.contains_iff_mem.2 switches, scheduler, takeover, active, Bool.not_true, decide_true, Bool.and_false, Bool.and_true,
    Bool.false_eq_true, if_true, if_false]
  split <;> rfl

end

theorem State.activeUnit_iff {s : State} {unit : Nat} : s.activeUnit unit = true ↔
    (s.die (s.localDie (unit / 2))).scheduler = some (unit % 2) ∧ (s.die (s.localDie (unit / 2))).standby = true := by
  simp [State.activeUnit]

/-- The state after the record of a unit's switch. -/
def State.noted (s : State) (target unit : Nat) (x : Images) : State :=
  s.note 0x0050 0 (BitVec.ofNat 64 target) x.standby.iver (BitVec.ofNat 64 unit) 0

/-- A unit switches, and others have still to (R401). -/
theorem State.switchUnit_more {s : State} {target unit : Nat} {x : Images} (others : ∃ n ∈ x.switching, n ≠ unit) :
    s.switchUnit target unit x =
      (s.noted target unit x).updImages target fun _ => { x with switching := x.switching.filter fun n => decide (n ≠ unit) } := by
  obtain ⟨n, member, other⟩ := others
  have some_ : (x.switching.filter fun n => decide (n ≠ unit)).isEmpty = false := by
    rw [List.isEmpty_eq_false_iff]
    exact List.ne_nil_of_mem (List.mem_filter.2 ⟨member, decide_eq_true other⟩)
  rw [State.switchUnit]
  dsimp only
  rw [some_]
  rfl

/-- The answer to the UPDATE whose image every unit runs. -/
def State.answerUpdate (s : State) (o : Option MsgHdr) : State := match o with | some h => s.reply h 0 [] | none => s

theorem State.answerUpdate_frame (s : State) (o : Option MsgHdr) : (s.answerUpdate o).fleet = s.fleet := by
  cases o <;> rfl

/-- The last unit's switch exchanges the stores and answers the UPDATE (R401). -/
def State.switched (s : State) (target unit : Nat) (x : Images) : State :=
  ((s.noted target unit x).updImages target fun _ =>
    { active := x.standby, standby := x.active, switching := [], replyTo := none, queued := x.queued.drop 1 }).answerUpdate x.replyTo

theorem State.switchUnit_last {s : State} {target unit : Nat} {x : Images} (last : x.switching = [unit]) :
    s.switchUnit target unit x = (s.noted target unit x).endSwitch target { x with switching := [] } := by
  have none_ : (x.switching.filter fun n => decide (n ≠ unit)) = [] := by simp [last]
  rw [State.switchUnit]
  dsimp only
  rw [none_]
  rfl

theorem State.switchUnit_alone {s : State} {target unit : Nat} {x : Images} (last : x.switching = [unit]) (alone : x.queued = []) :
    s.switchUnit target unit x = s.switched target unit x := by
  rw [State.switchUnit_last last, State.endSwitch, State.switched]
  cases reply : x.replyTo <;> simp only [alone, State.answerUpdate]

theorem State.switchUnit_next {s : State} {target unit : Nat} {x : Images} (last : x.switching = [unit]) {h : MsgHdr} {i : SignedImage}
    {r : List (MsgHdr × SignedImage)} (waits : x.queued = (h, i) :: r) :
    s.switchUnit target unit x = (s.switched target unit x).takeImage h i := by
  rw [State.switchUnit_last last, State.endSwitch, State.switched]
  cases reply : x.replyTo <;> simp only [waits, State.answerUpdate]

theorem State.switched_images {s : State} {target : Nat} {x : Images} (there : KV.at? s.fleet.images target = some x) (unit : Nat) :
    KV.at? (s.switched target unit x).fleet.images target =
      some { active := x.standby, standby := x.active, switching := [], replyTo := none, queued := x.queued.drop 1 } := by
  rw [State.switched, State.answerUpdate_frame]
  exact State.at?_updImages (s := s.noted target unit x) there _

theorem State.switched_replies (s : State) (target unit : Nat) (x : Images) : (s.switched target unit x).replies =
    s.replies ++ (match x.replyTo with | some h => [{ hdr := replyHdr h 0 0, payload := [] }] | none => []) := by
  rw [State.switched]
  cases x.replyTo with
  | none => exact (List.append_nil _).symm
  | some h => rfl

/-! ## The journal (R355) -/

theorem State.mem_updDie (s : State) (d : Nat) (f : Die → Die) : (s.updDie d f).mem = s.mem := rfl

theorem State.threads_updDie (s : State) (d : Nat) (f : Die → Die) : (s.updDie d f).threads = s.threads := rfl

theorem State.clock_updDie (s : State) (d : Nat) (f : Die → Die) : (s.updDie d f).clock = s.clock := rfl

/-- A part of bytes written at a plain place reads as those bytes. -/
theorem State.rdBytes_wrBytes_part {s : State} (oks : s.StoresOk) (a : Nat) (bs : List Byte) {o n : Nat} (within : o + n ≤ bs.length) :
    (s.wrBytes ⟨a, none⟩ 0 bs).rdBytes ⟨a + o, none⟩ n = (bs.drop o).take n := by
  rw [State.wrBytes_bare]
  refine List.ext_getElem (by simp [State.rdBytes]; omega) fun i inside _ => ?_
  rw [State.rdBytes_length] at inside
  have byte := Sparse.rd_wrList_inside (k := a) (i := o + i) oks.memWf (by omega : o + i < bs.length)
  simpa [State.rdBytes, State.rdByte, Nat.add_assoc] using byte

theorem State.rdNat_bare_congr {s u : State} (mem : u.mem = s.mem) (a n : Nat) : u.rdNat ⟨a, none⟩ n = s.rdNat ⟨a, none⟩ n := by
  have byte : u.rdByte ⟨a, none⟩ = s.rdByte ⟨a, none⟩ := funext fun i => congrArg (Sparse.rd · (a + i)) mem
  rw [State.rdNat, State.rdBytes, byte]
  rfl

/-- The words of a journal record. -/
theorem journalBytes_words (seq : BitVec 32) (type index graph : Nat) (value time : BitVec 64) :
    ((journalBytes seq type index graph value time).drop 0).take 8 = leBytes 8 (seq.toNat * 2 ^ 32 + type * 2 ^ 24 + index) ∧
    ((journalBytes seq type index graph value time).drop 8).take 8 = leBytes 8 graph ∧
    ((journalBytes seq type index graph value time).drop 16).take 8 = leBytes 8 value.toNat ∧
    (journalBytes seq type index graph value time).length = 32 := by
  unfold journalBytes
  generalize leBytes_length 8 (seq.toNat * 2 ^ 32 + type * 2 ^ 24 + index) = h0
  generalize leBytes 8 (seq.toNat * 2 ^ 32 + type * 2 ^ 24 + index) = w0 at h0 ⊢
  generalize leBytes_length 8 graph = h1
  generalize leBytes 8 graph = w1 at h1 ⊢
  generalize leBytes_length 8 value.toNat = h2
  generalize leBytes 8 value.toNat = w2 at h2 ⊢
  have h3 := leBytes_length 8 time.toNat
  generalize leBytes 8 time.toNat = w3 at h3 ⊢
  simp only [List.append_assoc]
  refine ⟨?_, ?_, ?_, by simp [h0, h1, h2, h3]⟩
  · exact List.take_left' h0
  · rw [List.drop_left' h0]
    exact List.take_left' h1
  · rw [← List.append_assoc, List.drop_left' (by simp [h0, h1])]
    exact List.take_left' h2

/-- A written record reads back from the ring (R355). -/
theorem State.readJournal_written {s u : State} (oks : s.StoresOk) {die type index graph : Nat} {value : BitVec 64} (typeOk : type < 256)
    (indexOk : index < 65536) (graphOk : graph < 4096)
    (mem : u.mem = (s.wrBytes (s.journalLoc die (s.die die).journalSeq) 0
      (journalBytes (s.die die).journalSeq type index graph value s.time)).mem)
    (place : (u.die die).journalAt = (s.die die).journalAt) :
    u.readJournal die (s.die die).journalSeq = (type, index, graph, value) := by
  have loc : u.journalLoc die (s.die die).journalSeq = s.journalLoc die (s.die die).journalSeq := by
    rw [State.journalLoc, place]
    rfl
  obtain ⟨first, second, third, length⟩ := journalBytes_words (s.die die).journalSeq type index graph value s.time
  have word (o : Nat) (within : o + 8 ≤ 32) : u.rdNat ⟨(s.journalLoc die (s.die die).journalSeq).key + o, none⟩ 8 =
      leNat (((journalBytes (s.die die).journalSeq type index graph value s.time).drop o).take 8) := by
    rw [State.rdNat_bare_congr mem]
    exact congrArg leNat (State.rdBytes_wrBytes_part oks _ _ (by omega))
  have w0 := word 0 (by omega)
  have w1 := word 8 (by omega)
  have w2 := word 16 (by omega)
  rw [first, leNat_leBytes] at w0
  rw [second, leNat_leBytes] at w1
  rw [third, leNat_leBytes] at w2
  have seqOk := (s.die die).journalSeq.isLt
  have valueOk := value.isLt
  rw [State.readJournal, loc]
  dsimp only
  refine Prod.ext (congrArg (natBits · 31 24) w0 |>.trans ?_) (Prod.ext (congrArg (natBits · 15 0) w0 |>.trans ?_)
    (Prod.ext (congrArg (natBits · 11 0) w1 |>.trans ?_) (congrArg (BitVec.ofNat 64) w2 |>.trans ?_)))
  · unfold natBits
    dsimp only
    omega
  · unfold natBits
    dsimp only
    omega
  · unfold natBits
    dsimp only
    omega
  · rw [Nat.mod_eq_of_lt valueOk, BitVec.ofNat_toNat, BitVec.setWidth_eq]

/-- A record stands in the ring before its act, which ACTSEQ counts (R355, R356). -/
theorem State.journal_writes {s : State} (oks : s.StoresOk) {die : Nat} (current : (s.die die).undone = []) {type index graph : Nat}
    (value : BitVec 64) (typeOk : type < 256) (indexOk : index < 65536) (graphOk : graph < 4096) :
    (s.journal die type index graph value).readJournal die (s.die die).journalSeq = (type, index, graph, value) ∧
    ((s.journal die type index graph value).die die).journalSeq = (s.die die).journalSeq + 1 ∧
    ((s.journal die type index graph value).die die).actSeq = (s.die die).journalSeq := by
  have bytes (l : Loc) (bs : List Byte) : (s.wrBytes l 0 bs).dies = s.dies := (State.wrBytes_writesOnly l bs s 0).servesOnly.dies
  have written : s.journal die type index graph value = (s.writeJournal die type index graph value).updDie die
      fun d => { d with actSeq := if d.undone.isEmpty then d.journalSeq - 1 else d.actSeq } := by
    rw [State.journal]
    exact if_neg (by simp [current])
  have wrote : (s.writeJournal die type index graph value).die die = { s.die die with journalSeq := (s.die die).journalSeq + 1 } := by
    rw [State.writeJournal, State.die_updDie_same, State.die, bytes, State.die]
  have entry : (s.journal die type index graph value).die die =
      { s.die die with journalSeq := (s.die die).journalSeq + 1, actSeq := (s.die die).journalSeq } := by
    rw [written, State.die_updDie_same, wrote]
    simp only [current, List.isEmpty_nil, if_true, BitVec.add_sub_cancel]
  refine ⟨State.readJournal_written oks typeOk indexOk graphOk ?_ ?_, ?_, ?_⟩
  · rw [written, State.mem_updDie, State.writeJournal, State.mem_updDie]
  · rw [entry]
  · rw [entry]
  · rw [entry]

/-! ## SCHEDULER_TAKEOVER (R409, R414) -/

section
variable {s : State} {die reason : Nat}

theorem execSchedulerTakeover_none (none_ : (s.die die).scheduler = none) : exec (.schedulerTakeover die reason) s = .next s := by
  rw [exec_schedulerTakeover, execSchedulerTakeover, none_]

variable {n : Nat} (acts : (s.die die).scheduler = some n)
include acts

theorem execSchedulerTakeover_unasked (idle : (s.die die).takeover = false) : exec (.schedulerTakeover die (reason + 4)) s = .next s := by
  rw [exec_schedulerTakeover, execSchedulerTakeover, acts]
  simp [idle]

theorem execSchedulerTakeover_out (runs : (s.die die).takeover = true) (out : ∃ r ∈ s.afterActSeq die, s.redoOut die r = true) :
    exec (.schedulerTakeover die (reason + 4)) s = .next (s.plan (s.clock + 64) (.schedulerTakeover die (reason + 4))) := by
  rw [exec_schedulerTakeover, execSchedulerTakeover, acts]
  dsimp only
  rw [if_pos (by omega), if_neg (by simp [runs]), if_pos (List.any_eq_true.2 out)]

theorem execSchedulerTakeover_ends (runs : (s.die die).takeover = true) (within : ∀ r ∈ s.afterActSeq die, s.redoOut die r = false) :
    exec (.schedulerTakeover die (reason + 4)) s = .next (s.endTakeover die reason n) := by
  rw [exec_schedulerTakeover, execSchedulerTakeover, acts]
  dsimp only
  rw [if_pos (by omega), if_neg (by simp [runs]), if_neg (by simpa using within)]
  rfl

theorem execSchedulerTakeover_fails (alone : (s.die die).takeover = true ∨ (s.die die).standby = false) (error : reason = 0) :
    exec (.schedulerTakeover die reason) s = .next (s.noScheduler die) := by
  rw [exec_schedulerTakeover, execSchedulerTakeover, acts]
  obtain runs | single := alone
  · simp [error, runs]
  · simp [error, single]

variable (small : reason ≤ 2)
include small

theorem execSchedulerTakeover_later (runs : (s.die die).takeover = true) (other : reason ≠ 0) :
    exec (.schedulerTakeover die reason) s = .next (s.plan (s.clock + 64) (.schedulerTakeover die reason)) := by
  rw [exec_schedulerTakeover, execSchedulerTakeover, acts]
  simp [Nat.not_lt.2 (small.trans (by decide : 2 ≤ 3)), runs, other]

variable (idle : (s.die die).takeover = false)
include idle

theorem execSchedulerTakeover_alone (alone : (s.die die).standby = false) (other : reason ≠ 0) :
    exec (.schedulerTakeover die reason) s = .next s := by
  rw [exec_schedulerTakeover, execSchedulerTakeover, acts]
  simp [Nat.not_lt.2 (small.trans (by decide : 2 ≤ 3)), idle, alone, other]

theorem execSchedulerTakeover_begins (stands : (s.die die).standby = true) :
    exec (.schedulerTakeover die reason) s = .next (s.beginTakeover die reason n) := by
  rw [exec_schedulerTakeover, execSchedulerTakeover, acts]
  simp [Nat.not_lt.2 (small.trans (by decide : 2 ≤ 3)), idle, stands]

end

/-- A die without a scheduler core that works does not act (R409). -/
theorem State.noScheduler_die (s : State) (die : Nat) :
    ((s.noScheduler die).die die).scheduler = none ∧ ((s.noScheduler die).die die).takeover = false ∧ ((s.noScheduler die).die die).idle = true := by
  have entry : (s.noScheduler die).die die = { s.die die with scheduler := none, standby := false, takeover := false } :=
    (((State.setReady_notesOnly _ _ _).trans (State.setReady_notesOnly _ _ _)).die die).trans (s.die_updDie_same die _)
  rw [entry]
  exact ⟨rfl, rfl, rfl⟩

/-! ### The begin of a takeover -/

theorem State.writeJournal_frame (s : State) (die type index graph : Nat) (value : BitVec 64) :
    (s.writeJournal die type index graph value).threads = s.threads ∧ (s.writeJournal die type index graph value).clock = s.clock := by
  have bytes := State.wrBytes_writesOnly (s.journalLoc die (s.die die).journalSeq)
    (journalBytes (s.die die).journalSeq type index graph value s.time) s 0
  rw [State.writeJournal]
  generalize s.wrBytes _ _ _ = u at bytes ⊢
  rw [bytes]
  exact ⟨rfl, rfl⟩

theorem State.journalAhead_frame (s : State) (die : Nat) : (s.journalAhead die).threads = s.threads ∧ (s.journalAhead die).clock = s.clock := by
  unfold State.journalAhead
  split
  · exact ⟨rfl, rfl⟩
  · rw [State.threads_updDie, State.clock_updDie]
    exact State.writeJournal_frame { s with free := s.free + 1 } _ _ _ _ _

/-- The die as a takeover begins: after what a core that fails may have written. -/
def State.aheadFor (s : State) (die reason : Nat) : State := if reason = 0 then s.journalAhead die else s

theorem State.aheadFor_frame (s : State) (die reason : Nat) :
    (s.aheadFor die reason).threads = s.threads ∧ (s.aheadFor die reason).clock = s.clock := by
  unfold State.aheadFor
  split
  · exact s.journalAhead_frame die
  · exact ⟨rfl, rfl⟩

/-- A core that fails is not ready. -/
def State.unready (s : State) (die reason n : Nat) : State := if reason = 0 then s.setReady (schedBit die n) false else s

theorem State.unready_notesOnly (s : State) (die reason n : Nat) : s.NotesOnly (s.unready die reason n) := by
  unfold State.unready
  split
  · exact s.setReady_notesOnly _ _
  · exact .refl s

theorem State.beginTakeover_eq (s : State) (die reason n : Nat) {u : State}
    (isU : u = ((s.aheadFor die reason).updDie die fun d => { d with takeover := true }).unready die reason n) :
    s.beginTakeover die reason n = u.plan (u.clock + 64) (.schedulerTakeover die (reason + 4)) := by
  rw [isU]
  rfl

/-- From its begin on a takeover keeps the die's acts, and its end is dated (R409). -/
theorem State.beginTakeover_begins (s : State) (die reason n : Nat) : ((s.beginTakeover die reason n).die die).takeover = true ∧
    (s.clock + 64, Turn.event (.schedulerTakeover die (reason + 4))) ∈ (s.beginTakeover die reason n).sched ∧
    (s.beginTakeover die reason n).threads = s.threads := by
  obtain ⟨threads, clock⟩ := s.aheadFor_frame die reason
  obtain ⟨u, isU⟩ : ∃ u, u = ((s.aheadFor die reason).updDie die fun d => { d with takeover := true }).unready die reason n := ⟨_, rfl⟩
  have notes := ((s.aheadFor die reason).updDie die fun d => { d with takeover := true }).unready_notesOnly die reason n
  rw [← isU] at notes
  have entry : (u.die die).takeover = true := by
    rw [notes.die, State.die_updDie_same]
  have threads' : u.threads = s.threads := by
    rw [notes, ← threads, State.threads_updDie]
  have clock' : u.clock = s.clock := by
    rw [notes, ← clock, State.clock_updDie]
  rw [State.beginTakeover_eq s die reason n isU, ← clock', ← threads']
  exact ⟨entry, List.mem_append_right _ (List.mem_singleton.2 rfl), rfl⟩

/-! ### The end of a takeover -/

/-- The state that a takeover's end leaves before the scheduler resumes. -/
def State.takenOver (s : State) (die reason n : Nat) : State :=
  let good := decide (reason ≠ 0 ∨ Config.pick s.free % 2 = 0)
  let u := (({ s with free := s.free + 1 } : State).redoActs die).updDie die fun d => { d with scheduler := some (1 - n), standby := good }
  let u := if good then u.setReady (schedBit die n) true else u
  u.note 0x0052 (die % 4) (BitVec.ofNat 64 (die % 4)) ((s.die die).actSeq.setWidth 64) (BitVec.ofNat 64 (s.afterActSeq die).length)
    (BitVec.ofNat 64 reason)

theorem State.endTakeover_resumes (s : State) (die reason n : Nat) :
    s.endTakeover die reason n = (s.takenOver die reason n).resumeScheduler die := rfl

theorem State.takenOver_notesOnly (s : State) (die reason n : Nat) :
    ((({ s with free := s.free + 1 } : State).redoActs die).updDie die fun d =>
      { d with scheduler := some (1 - n), standby := decide (reason ≠ 0 ∨ Config.pick s.free % 2 = 0) }).NotesOnly (s.takenOver die reason n) := by
  unfold State.takenOver
  dsimp only
  refine State.NotesOnly.trans ?_ (State.note_notesOnly _ _ _ _ _ _ _)
  split
  · exact State.setReady_notesOnly _ _ _
  · exact .refl _

/-- Its die: the standby core acts, and no record is ahead of its act. -/
theorem State.takenOver_die (s : State) (die reason n : Nat) {w : State} (redone : w = ({ s with free := s.free + 1 } : State).redoActs die) :
    (s.takenOver die reason n).die die =
      { w.die die with scheduler := some (1 - n), standby := decide (reason ≠ 0 ∨ Config.pick s.free % 2 = 0) } := by
  rw [(s.takenOver_notesOnly die reason n).die, State.die_updDie_same, redone]

theorem State.redoActs_die (s : State) (die : Nat) :
    ((s.redoActs die).die die).undone = [] ∧ ((s.redoActs die).die die).actSeq = ((s.redoActs die).die die).journalSeq - 1 := by
  rw [State.redoActs, State.die_updDie_same]
  exact ⟨rfl, rfl⟩

/-- With no record after ACTSEQ nothing is performed. -/
theorem State.redoActs_none {s : State} {die : Nat} (none_ : s.afterActSeq die = []) :
    (s.redoActs die).die die = { s.die die with undone := [], actSeq := (s.die die).journalSeq - 1 } := by
  rw [State.redoActs, none_, State.die_updDie_same]
  rfl

/-- What a takeover's end leaves: the standby acts, the records' acts are performed, and what was held back waits still. -/
theorem State.takenOver_acts (s : State) (die reason n : Nat) {w : State} (redone : w = ({ s with free := s.free + 1 } : State).redoActs die) :
    ((s.takenOver die reason n).die die).scheduler = some (1 - n) ∧ (s.takenOver die reason n).mem = w.mem ∧
    ((s.takenOver die reason n).die die).actSeq = ((s.takenOver die reason n).die die).journalSeq - 1 ∧
    ((s.takenOver die reason n).die die).undone = [] ∧ (reason ≠ 0 → ((s.takenOver die reason n).die die).standby = true) ∧
    (s.afterActSeq die = [] → ((s.takenOver die reason n).die die).heldFills = (s.die die).heldFills ∧
      ((s.takenOver die reason n).die die).heldVacations = (s.die die).heldVacations) := by
  obtain ⟨undone, counted⟩ := State.redoActs_die { s with free := s.free + 1 } die
  have notes := s.takenOver_notesOnly die reason n
  have idle : s.afterActSeq die = [] → (w.die die).heldFills = (s.die die).heldFills ∧ (w.die die).heldVacations = (s.die die).heldVacations := by
    intro none_
    have entry := State.redoActs_none (s := { s with free := s.free + 1 }) none_
    rw [← redone] at entry
    rw [entry]
    exact ⟨rfl, rfl⟩
  rw [← redone] at undone counted notes
  obtain ⟨-, -, -, mem, -⟩ := notes.frame
  rw [s.takenOver_die die reason n redone]
  exact ⟨rfl, mem, counted, undone, fun other => decide_eq_true (.inl other), idle⟩

theorem State.askPlacement_keeps (s : State) {t : Turn} (member : t ∈ s.turns) : t ∈ s.askPlacement.turns :=
  foldl_rel (R := fun s u => t ∈ s.turns → t ∈ u.turns) (fun _ => id) (fun h k => k ∘ h) (fun s d => s.raise (.groupPlacement (s.localDie d)))
    (fun _ _ => List.mem_append_left _) (List.range 4) s member

/-- A scheduler that resumes with nothing held back acts, and looks at its kicks again (R409). -/
theorem State.resumeScheduler_resumes {v : State} {die : Nat} (fills : (v.die die).heldFills = []) (vacations : (v.die die).heldVacations = []) :
    ((v.resumeScheduler die).die die).scheduler = (v.die die).scheduler ∧ ((v.resumeScheduler die).die die).takeover = false ∧
    Turn.event (.replayStart die) ∈ (v.resumeScheduler die).turns := by
  have vacates (u : State) : u.vacateCores die [] = u := rfl
  rw [State.resumeScheduler, fills, vacations]
  rw [List.foldl_nil, vacates]
  generalize resumed : v.updDie die _ = u
  have entry : u.die die = { v.die die with takeover := false, heldFills := [], heldVacations := [] } := by
    rw [← resumed, State.die_updDie_same]
  have raised := State.raises_turns (fun e : Nat × Nat => Instr.nodeStart die e.1 e.2) ((u.raise (.replayStart die)).die die).readyNodes
    (u.raise (.replayStart die))
  have dies : (((u.raise (.replayStart die)).die die).readyNodes.foldl (fun s (e : Nat × Nat) => s.raise (.nodeStart die e.1 e.2))
      (u.raise (.replayStart die))).dies = u.dies :=
    foldl_rel (R := fun s u => u.dies = s.dies) (fun _ => rfl) (fun h k => k.trans h) (fun s (e : Nat × Nat) => s.raise (.nodeStart die e.1 e.2))
      (fun _ _ => rfl) _ _
  generalize ((u.raise (.replayStart die)).die die).readyNodes.foldl _ _ = t at raised dies ⊢
  have same : t.askPlacement.die die = u.die die := by
    rw [State.askPlacement_raisesOnly]
    exact congrArg (fun m => (KV.at? m die).getD Die.reset) dies
  rw [same, entry]
  refine ⟨rfl, rfl, ?_⟩
  refine (t.askPlacement_keeps ?_)
  rw [raised]
  exact List.mem_append_left _ (List.mem_append_right _ (List.mem_singleton.2 rfl))

end Sys2Proof.Machine
end

section
/-! O59, power: the steps of the main clock, a thermal trip, and the start of the package (R4, R380, R396 to R398, R412). -/

namespace Sys2Proof.Machine

/-! ## CLOCK_STEP (R412) -/

/-- A step down goes to the next lower clock, a step up to the next higher one. -/
theorem nextMhz_down {mhz m : Nat} (step : (mhz, m) ∈ [(1750, 1500), (1500, 1250), (1250, 1000)]) : nextMhz true mhz = some m := by
  simp only [List.mem_cons, List.not_mem_nil, or_false, Prod.mk.injEq] at step
  obtain ⟨rfl, rfl⟩ | ⟨rfl, rfl⟩ | ⟨rfl, rfl⟩ := step <;> decide

theorem nextMhz_up {mhz m : Nat} (step : (m, mhz) ∈ [(1750, 1500), (1500, 1250), (1250, 1000)]) : nextMhz false mhz = some m := by
  simp only [List.mem_cons, List.not_mem_nil, or_false, Prod.mk.injEq] at step
  obtain ⟨rfl, rfl⟩ | ⟨rfl, rfl⟩ | ⟨rfl, rfl⟩ := step <;> decide

theorem nextMhz_lowest {mhz : Nat} (lowest : mhz ≤ 1000) : nextMhz true mhz = none := by
  simp only [nextMhz, if_true, List.find?_eq_none, List.mem_cons, List.not_mem_nil, or_false, decide_eq_true_eq, forall_eq_or_imp, forall_eq]
  omega

theorem nextMhz_highest {mhz : Nat} (highest : 1750 ≤ mhz) : nextMhz false mhz = none := by
  simp only [nextMhz, Bool.false_eq_true, if_false, List.find?_eq_none, List.mem_cons, List.not_mem_nil, or_false, decide_eq_true_eq,
    forall_eq_or_imp, forall_eq]
  omega

/-- The state after the note of a cause that lowers the clock. -/
def State.forced (s : State) (cause watts : Nat) : State :=
  if cause = 1 ∨ (cause = 0 ∧ s.fleet.config.pcap < watts) then { s with fleet := { s.fleet with forcedAt := some s.time } } else s

theorem State.forced_frame (s : State) (cause watts : Nat) : (s.forced cause watts).mhz = s.mhz ∧ (s.forced cause watts).threads = s.threads := by
  unfold State.forced
  split <;> exact ⟨rfl, rfl⟩

/-- The step that is taken, if one is due. -/
def State.nextClock (s : State) (cause watts : Nat) : Option Nat :=
  if s.mayStep cause watts = true then nextMhz (decide (cause < 2)) (s.forced cause watts).mhz else none

section
variable {s : State} {cause watts : Nat}

theorem execClockStep_unknown (unknown : 2 < cause) : exec (.clockStep cause watts) s = .next s := by
  rw [exec_clockStep, execClockStep, if_pos unknown]

variable (known : cause ≤ 2)
include known

theorem execClockStep_steps {m : Nat} (may : s.mayStep cause watts = true) (next : nextMhz (decide (cause < 2)) s.mhz = some m) :
    ∃ u, exec (.clockStep cause watts) s = .next u ∧ u.mhz = m := by
  have due : s.nextClock cause watts = some m := by
    rw [State.nextClock, if_pos may, (s.forced_frame cause watts).1, next]
  rw [exec_clockStep, execClockStep, if_neg (Nat.not_lt.2 known)]
  dsimp only
  split
  next none_ => exact absurd (due.symm.trans none_) (Option.some_ne_none m)
  next k same => exact ⟨_, rfl, Option.some.inj (same.symm.trans due)⟩

theorem execClockStep_stays (stays : s.mayStep cause watts = false ∨ nextMhz (decide (cause < 2)) s.mhz = none) :
    ∃ u, exec (.clockStep cause watts) s = .next u ∧ u.mhz = s.mhz ∧ u.threads = s.threads := by
  have due : s.nextClock cause watts = none := by
    obtain may | last := stays
    · exact if_neg (by simp [may])
    · rw [State.nextClock, (s.forced_frame cause watts).1, last, ite_self]
  rw [exec_clockStep, execClockStep, if_neg (Nat.not_lt.2 known)]
  dsimp only
  split
  next => exact ⟨_, rfl, s.forced_frame cause watts⟩
  next k same => exact absurd (same.symm.trans due) (Option.some_ne_none k)

end

theorem State.mayStep_within (s : State) {watts : Nat} (within : watts ≤ s.fleet.config.pcap) : s.mayStep 0 watts = false := by
  simp [State.mayStep, Nat.not_lt.2 within]

theorem State.mayStep_early {s : State} {t : BitVec 64} (stepped : s.fleet.stepAt = some t) (early : (s.time - t).toNat < 1000000)
    (cause watts : Nat) : s.mayStep cause watts = false := by
  simp only [State.mayStep, State.ticksSince, stepped, decide_eq_false (Nat.not_le.2 early), Bool.false_and]

theorem State.mayStep_forced {s : State} {t : BitVec 64} (forced : s.fleet.forcedAt = some t) (early : (s.time - t).toNat < 100000000)
    {cause : Nat} (up : 2 ≤ cause) (watts : Nat) : s.mayStep cause watts = false := by
  simp only [State.mayStep, State.ticksSince, forced, decide_eq_false (Nat.not_le.2 early), decide_eq_false (Nat.not_lt.2 up), Bool.or_self,
    Bool.and_false]

/-! ## Readiness bits (R380) -/

/-- One bit cleared. -/
theorem getLsbD_clear (m : BitVec 1024) (k : Nat) {j : Nat} (inside : j < 1024) :
    (m &&& ~~~((1 : BitVec 1024) <<< k)).getLsbD j = (m.getLsbD j && decide (j ≠ k)) := by
  have one (i : Nat) : (1 : BitVec 1024).getLsbD i = decide (i = 0) := (BitVec.getLsbD_one (w := 1024)).trans (Bool.true_and _)
  rw [BitVec.getLsbD_and, BitVec.getLsbD_not, BitVec.getLsbD_shiftLeft, one]
  by_cases same : j = k
  · subst same
    simp [inside]
  · by_cases below : j < k
    · simp [inside, same, below]
    · have apart : j - k ≠ 0 := by omega
      simp [inside, same, apart]

/-- Bits cleared one after the other. -/
theorem getLsbD_clears (l : List Nat) {j : Nat} (inside : j < 1024) : ∀ m : BitVec 1024,
    (l.foldl (fun (m : BitVec 1024) k => m &&& ~~~((1 : BitVec 1024) <<< k)) m).getLsbD j = (m.getLsbD j && decide (j ∉ l)) := by
  induction l with
  | nil => exact fun m => by simp
  | cons k r ih =>
    intro m
    rw [List.foldl_cons, ih, getLsbD_clear m k inside]
    by_cases same : j = k <;> simp [same]

theorem State.ready_setReady_false (s : State) (bit : Nat) {j : Nat} (inside : j < 1024) :
    (s.setReady bit false).ready j = (s.ready j && decide (j ≠ bit)) := getLsbD_clear s.fleet.ready bit inside

/-! ## THERMAL_TRIP (R412) -/

theorem State.ready_setReady_dies (s : State) : ∀ d < 4, ((List.range 4).foldl (fun s d => s.setReady d false) s).ready d = false := by
  suffices ∀ (l : List Nat) (s : State) (d : Nat), d < 4 → (d ∈ l ∨ s.ready d = false) →
      (l.foldl (fun s d => s.setReady d false) s).ready d = false from
    fun d inside => this _ s d inside (.inl (List.mem_range.2 inside))
  intro l
  induction l with
  | nil => exact fun s d _ known => known.resolve_left List.not_mem_nil
  | cons k r ih =>
    intro s d inside known
    refine ih _ d inside ?_
    rw [State.ready_setReady_false s k (by omega)]
    obtain member | clear := known
    · obtain rfl | later := List.mem_cons.1 member
      · exact .inr (by simp)
      · exact .inl later
    · exact .inr (by rw [clear, Bool.false_and])

theorem execThermalTrip_trips (s : State) : ∃ u, exec .thermalTrip s = .next u ∧ u.power = false ∧ u.threads = [] ∧ u.groups = [] ∧
    u.launches = [] ∧ u.saved = [] ∧ (∀ d < 4, u.ready d = false) ∧ u.parts = s.parts ∧ u.mem = s.mem := by
  have ready := State.ready_setReady_dies (s.note 0x0060 0 (BitVec.ofNat 64 s.mhz) 3 0 0)
  have notes : s.NotesOnly ((List.range 4).foldl (fun s d => s.setReady d false) (s.note 0x0060 0 (BitVec.ofNat 64 s.mhz) 3 0 0)) :=
    (s.note_notesOnly _ _ _ _ _ _).trans (foldl_rel State.NotesOnly.refl State.NotesOnly.trans (fun s d => s.setReady d false)
      (fun s d => s.setReady_notesOnly d false) _ _)
  rw [exec_thermalTrip, execThermalTrip]
  dsimp only
  generalize (List.range 4).foldl _ _ = v at ready notes ⊢
  have parts : v.parts = s.parts := by rw [notes]
  have mem : v.mem = s.mem := by rw [notes]
  exact ⟨_, rfl, rfl, rfl, rfl, rfl, rfl, ready, parts, mem⟩

/-! ## The start (R4, R396, R398) -/

theorem KV.at?_append {κ α : Type} [DecidableEq κ] (m r : KV κ α) (k : κ) : KV.at? (m ++ r) k = (KV.at? m k).or (KV.at? r k) := by
  induction m with
  | nil => rfl
  | cons e l ih =>
    by_cases same : e.1 = k <;> simp [KV.at?, same, ih]

/-- Numbers from `c` on that are given the entries of a list in order. -/
theorem KV.at?_zip_range' {α : Type} (m : Nat) : ∀ (c n : Nat) (g : List α), n < m → KV.at? ((List.range' c m).zip g) (c + n) = g[n]? := by
  induction m with
  | zero => exact fun c n g inside => absurd inside (Nat.not_lt_zero n)
  | succ m ih =>
    intro c n g inside
    cases g with
    | nil => rfl
    | cons x r =>
      rw [List.range'_succ, List.zip_cons_cons]
      cases n with
      | zero => simp [KV.at?]
      | succ n =>
        have next := ih (c + 1) n r (by omega)
        rw [show c + 1 + n = c + (n + 1) by omega] at next
        simpa [KV.at?] using next

theorem KV.at?_none_of_keys {κ α : Type} [DecidableEq κ] {m : KV κ α} {k : κ} (keys : k ∉ m.map (·.1)) : KV.at? m k = none := by
  induction m with
  | nil => rfl
  | cons e r ih =>
    rw [List.map_cons, List.mem_cons, not_or] at keys
    simp [KV.at?, Ne.symm keys.1, ih keys.2]

theorem KV.at?_zip_outside {α : Type} {c m k : Nat} (g : List α) (outside : k < c ∨ c + m ≤ k) :
    KV.at? ((List.range' c m).zip g) k = none := by
  refine KV.at?_none_of_keys fun member => ?_
  obtain ⟨e, pair, rfl⟩ := List.mem_map.1 member
  have inside := List.mem_range'_1.1 (List.of_mem_zip pair).1
  omega

/-- A quadrant's logical numbers take the good cores of a list. -/
def quadrantMap (g : Nat → List Nat) (q : Nat) : KV Nat Nat := (List.range' (28 * q) 28).zip (g q)

theorem repairMap_eq (failed retired : List Nat) : repairMap failed retired = (List.range 16).flatMap (quadrantMap (goodIn failed retired)) := by
  unfold repairMap quadrantMap
  simp only [List.range'_eq_map_range]

theorem KV.at?_quadrants (g : Nat → List Nat) {q n : Nat} (inside : n < 28) (l : List Nat) :
    KV.at? (l.flatMap (quadrantMap g)) (28 * q + n) = if q ∈ l then (g q)[n]? else none := by
  induction l with
  | nil => rfl
  | cons p r ih =>
    rw [List.flatMap_cons, KV.at?_append, ih]
    by_cases same : p = q
    · subst same
      rw [quadrantMap, KV.at?_zip_range' 28 _ _ _ inside]
      cases (g p)[n]? <;> simp
    · rw [quadrantMap, KV.at?_zip_outside _ (by omega)]
      simp [Ne.symm same]

/-- Each quadrant's good cores take its logical numbers in ascending order (R4). -/
theorem at?_repairMap (failed retired : List Nat) {q n : Nat} (quadrant : q < 16) (number : n < 28) :
    KV.at? (repairMap failed retired) (28 * q + n) = (goodIn failed retired q)[n]? := by
  rw [repairMap_eq, KV.at?_quadrants _ number, if_pos (List.mem_range.2 quadrant)]

theorem getLsbD_ones {j : Nat} (inside : j < 712) : (BitVec.ofNat 1024 (2 ^ 712 - 1)).getLsbD j = true := by
  rw [BitVec.getLsbD_ofNat, Nat.testBit_two_pow_sub_one, decide_eq_true inside, decide_eq_true (by omega : j < 1024)]
  rfl

/-- What fails is not ready. -/
theorem startReady_failed {x : SelfTest} {k : Nat} (fails : k ∈ x.functions) (inside : k < 1024) (repair : KV Nat Nat) :
    (startReady x repair).getLsbD k = false := by
  rw [startReady, getLsbD_clears _ inside]
  have listed := decide_eq_false (not_not_intro (List.mem_append_right
    (((List.range Config.cores).filter fun c => (KV.at? repair c).isNone).map (20 + ·) ++
      ((List.range 6).filter (linkFailed x)).map (596 + ·)) fails))
  rw [listed, Bool.and_false]

/-- A logical number that has a core, and whose bit does not fail for itself, is ready; one without is not. -/
theorem startReady_core {x : SelfTest} {c : Nat} (core : c < 448) (passes : 20 + c ∉ x.functions) (repair : KV Nat Nat) :
    (startReady x repair).getLsbD (20 + c) = (KV.at? repair c).isSome := by
  have absent : 20 + c ∈ ((List.range Config.cores).filter fun c => (KV.at? repair c).isNone).map (20 + ·) ↔ KV.at? repair c = none := by
    simp only [List.mem_map, List.mem_filter, List.mem_range, Option.isNone_iff_eq_none, Nat.add_left_cancel_iff, exists_eq_right,
      and_iff_right_iff_imp]
    exact fun _ => core
  have link : 20 + c ∉ ((List.range 6).filter (linkFailed x)).map (596 + ·) := by
    intro member
    obtain ⟨k, -, same⟩ := List.mem_map.1 member
    omega
  rw [startReady, getLsbD_clears _ (by omega), getLsbD_ones (by omega), Bool.true_and]
  simp only [List.mem_append, absent, link, passes, or_false]
  cases KV.at? repair c <;> rfl

/-- The package as a power-on with good firmware leaves it. -/
def State.started (s : State) (failed : SelfTest) : State :=
  { State.reset with
    fleet := s.fleet.start failed, free := s.free
    dies := (List.range 4).map fun d => ((s.fleet.start failed).pkg * 4 + d, startDie (s.fleet.start failed) d) }

theorem execPowerOn_starts {s : State} {failed : SelfTest} (good : s.fleet.rootGood = true) :
    exec (.powerOn failed) s = .next (s.started failed) := if_pos good

theorem execPowerOn_dead {s : State} {failed : SelfTest} (bad : s.fleet.rootGood = false) : exec (.powerOn failed) s =
    .next { State.reset with fleet := { s.fleet with ready := 0 }, free := s.free, power := false } := if_neg (by simp [bad])

/-- The record that a start takes. -/
def Fleet.startRecord (f : Fleet) : ConfigRec := if startSlot f.slot0 f.slot1 = 0 then f.slot0 else f.slot1

theorem Fleet.config_start (f : Fleet) (x : SelfTest) : (f.start x).config = f.startRecord := rfl

theorem Fleet.pkg_start (f : Fleet) (x : SelfTest) : (f.start x).pkg = (f.start x).config.pkg.toNat := rfl

theorem Fleet.repair_start (f : Fleet) (x : SelfTest) : (f.start x).repair = repairMap (failedCores x) (f.start x).retired := rfl

theorem Fleet.ready_start (f : Fleet) (x : SelfTest) : (f.start x).ready = startReady x (f.start x).repair := rfl

section
variable {f : Fleet} {a b : ConfigRec} (first : a = f.slot0) (second : b = f.slot1)
include first second

/-- The newer record is active if it is valid against the other (R398). -/
theorem Fleet.startRecord_second (newer : a.seq < b.seq) (valid : recFollows b a = true) : f.startRecord = b := by
  subst first second
  simp [Fleet.startRecord, startSlot, newer, valid]

theorem Fleet.startRecord_notSecond (newer : a.seq < b.seq) (bad : recFollows b a = false) : f.startRecord = a := by
  subst first second
  simp [Fleet.startRecord, startSlot, newer, bad]

theorem Fleet.startRecord_first (newer : b.seq < a.seq) (valid : recFollows a b = true) : f.startRecord = a := by
  subst first second
  have not_ : ¬ f.slot0.seq < f.slot1.seq := by bv_omega
  simp [Fleet.startRecord, startSlot, newer, not_, valid]

theorem Fleet.startRecord_notFirst (newer : b.seq < a.seq) (bad : recFollows a b = false) : f.startRecord = b := by
  subst first second
  have not_ : ¬ f.slot0.seq < f.slot1.seq := by bv_omega
  simp [Fleet.startRecord, startSlot, newer, not_, bad]

end

/-- Each die has the record's lull register (R397). -/
theorem State.started_lull (s : State) (failed : SelfTest) {d : Nat} (die : d < 4) :
    ((s.started failed).die ((s.started failed).localDie d)).lull = (s.started failed).fleet.config.lull := by
  have entries (p : Nat) (g : Nat → Die) : KV.at? ((List.range 4).map fun d => (p * 4 + d, g d)) (p * 4 + d) = some (g d) := by
    obtain rfl | rfl | rfl | rfl : d = 0 ∨ d = 1 ∨ d = 2 ∨ d = 3 := by omega
    all_goals simp [List.range_succ, KV.at?]
  have entry : (s.started failed).die ((s.started failed).localDie d) = startDie (s.fleet.start failed) d :=
    congrArg (·.getD Die.reset) (entries (s.fleet.start failed).pkg (startDie (s.fleet.start failed)))
  rw [entry]
  rfl

end Sys2Proof.Machine

namespace Sys2Proof
open Machine

/-- Settles O59: the switch of a unit by its class and the units that are left, the journal's record through the ring, a takeover from its begin
to its end, the clock's steps, and the start from what flash holds. -/
theorem imagesSchedulersAndPower : Obligations.ImagesSchedulersAndPower := by
  refine ⟨⟨fun s target unit x d there isD => ?_, fun s target unit none_ => ?_, fun s die reason none_ => execSchedulerTakeover_none none_,
      fun s die type index graph value oks current typeOk indexOk graphOk => ⟨_, rfl, State.journal_writes oks current value typeOk indexOk graphOk⟩,
      fun s die reason n acts small => ⟨execSchedulerTakeover_later acts small, fun runs error => ?_, execSchedulerTakeover_alone acts small,
        execSchedulerTakeover_unasked acts, fun runs => ⟨execSchedulerTakeover_out acts runs, fun within w redone => ?_⟩,
        fun idle stands => ?_,
        fun idle alone error => ?_, fun runs none_ fills vacations => ?_⟩⟩,
    fun s cause watts m => ⟨execClockStep_unknown, fun may => ⟨fun down step => ?_, fun up step => ?_⟩, fun known stays => ?_,
      fun ⟨power, within⟩ => power ▸ s.mayStep_within within, fun t stepped early => State.mayStep_early stepped early cause watts,
      fun t up forced early => State.mayStep_forced forced early up watts⟩,
    execThermalTrip_trips, fun s failed a b first second => ⟨fun bad => ⟨_, execPowerOn_dead bad, rfl, rfl⟩, fun good => ?_⟩⟩
  · subst isD
    refine ⟨execImageSwitch_done there, execImageSwitch_takeover there, fun switches free others => ?_, fun free last => ?_,
      fun scheduler switches takeover acts stands => ?_⟩
    · rw [execImageSwitch_switches there switches free, State.switchUnit_more others]
      exact ⟨_, _, rfl, State.at?_updImages (s := s.noted target unit x) there _, rfl, rfl⟩
    · rw [execImageSwitch_switches there (last ▸ List.mem_singleton.2 rfl) free]
      exact ⟨s.switched target unit x, s.switched_replies target unit x, State.switched_images there unit,
        fun alone => by rw [State.switchUnit_alone last alone], fun h i r waits => by rw [State.switchUnit_next last waits]⟩
    · rw [execImageSwitch_hands there switches scheduler takeover (State.activeUnit_iff.2 ⟨acts, stands⟩)]
      refine ⟨_, rfl, ?_⟩
      split
      next contains =>
        exact ⟨rfl, List.mem_append_right _ (List.mem_singleton.2 rfl), fun absent => absurd (List.contains_iff_mem.1 contains) absent⟩
      next => exact ⟨rfl, List.mem_append_right _ (List.mem_singleton.2 rfl), fun _ => List.mem_append_right _ (List.mem_singleton.2 rfl)⟩
  · rw [exec_imageSwitch, execImageSwitch, none_]
  · exact ⟨_, execSchedulerTakeover_fails acts (.inl runs) error, s.noScheduler_die die⟩
  · exact ⟨s.takenOver die reason n, execSchedulerTakeover_ends acts runs within, s.takenOver_acts die reason n redone⟩
  · exact ⟨_, execSchedulerTakeover_begins acts small idle stands, s.beginTakeover_begins die reason n⟩
  · obtain ⟨none_, -, idle⟩ := s.noScheduler_die die
    exact ⟨_, execSchedulerTakeover_fails acts (.inr alone) error, none_, idle⟩
  · obtain ⟨acts', -, -, -, -, held⟩ := s.takenOver_acts die reason n rfl
    obtain ⟨keptFills, keptVacations⟩ := held none_
    obtain ⟨scheduler, takeover, replays⟩ := State.resumeScheduler_resumes (keptFills.trans fills) (keptVacations.trans vacations)
    exact ⟨_, execSchedulerTakeover_ends acts runs (by rw [none_]; exact nofun), scheduler.trans acts', takeover, replays⟩
  · have low : cause < 2 := by omega
    exact execClockStep_steps (by omega) may (by rw [decide_eq_true low]; exact nextMhz_down step)
  · subst up
    exact execClockStep_steps (by omega) may (nextMhz_up step)
  · refine execClockStep_stays known (stays.imp_right ?_)
    rintro (⟨low, lowest⟩ | ⟨rfl, highest⟩)
    · rw [decide_eq_true (by omega : cause < 2)]
      exact nextMhz_lowest lowest
    · exact nextMhz_highest highest
  · refine ⟨_, execPowerOn_starts good, rfl, rfl, rfl, rfl, rfl, rfl, Fleet.startRecord_second first second, Fleet.startRecord_notSecond first second,
      Fleet.startRecord_first first second, Fleet.startRecord_notFirst first second, rfl, fun d => s.started_lull failed, fun q quadrant n number =>
      ⟨at?_repairMap _ _ quadrant number, fun passes => startReady_core (by omega) passes _⟩, fun k fails inside => startReady_failed fails inside _⟩

end Sys2Proof
end
